-- ==== Sys2Proof/Word.lean ====
section
/-! DEFINITION. The words of the FLM-880 and the numbers of its parts (R3, R4). -/

namespace Sys2Proof

abbrev Byte := BitVec 8
abbrev Half := BitVec 16
abbrev Word := BitVec 32
abbrev Dword := BitVec 64

/-- Physical pan 0 to 35 (R4). -/
abbrev PanIx := Fin 36
abbrev QuadIx := Fin 4
abbrev StackIx := Fin 12
abbrev DieIx := Fin 16
abbrev TenIx := Fin 16
abbrev SchIx := Fin 16
abbrev LaneIx := Fin 64
abbrev RingIx := Fin 16
abbrev MbxIx := Fin 64
abbrev TlyIx := Fin 4096
abbrev GateIx := Fin 256
/-- Ethernet port 0 A, 1 B (R4). -/
abbrev PortIx := Fin 2
/-- Pseudo-channel q = 2c + p of a stack (R219). -/
abbrev PcIx := Fin 64
/-- A scalar, vector or pond operand register field. -/
abbrev Reg5 := BitVec 5

/-- A sparse table: entries at strictly rising keys, an unlisted key holding a default.
Used for register files, memories and every other numbered set of like things. -/
abbrev Tab (α : Type) := List (Nat × α)

end Sys2Proof
end

