-- ==== Sys2Proof/Syntax.lean ====
section
/-! DEFINITION. The commands of the FLM-880: one constructor for each row of the table of operations and events,
with the operands the row's rule gives it, and the records those operands are made of. -/

namespace Sys2Proof

/-! ### Operand records -/

/-- The four 32-bit slots of a bundle (R51). A slot command carries its whole bundle: its own slot is spelled by the
command's fields, the other three stand here as raw words. -/
structure Bundle where
  s : Word
  m : Word
  e : Word
  c : Word
deriving DecidableEq, Repr

/-- The number of one pond unit's segment: stack, pseudo-channel and SID (R188). -/
structure SegIx where
  stack : StackIx
  pc : PcIx
  sid : Fin 4
deriving DecidableEq, Repr

/-- One bank: stack, die and die bank number (R4). -/
structure BankIx where
  stack : StackIx
  die : DieIx
  bank : Fin 256
deriving DecidableEq, Repr

/-- The fields of a pond command's 32 bytes other than its opcode (R200). -/
structure PondCmd where
  /-- OP bits [7:6], marked 0. -/
  opHi : BitVec 2
  /-- Format of the array data. -/
  fmtA : BitVec 4
  /-- Format of the W operands. -/
  fmtW : BitVec 4
  bmask : Half
  acc : Bool
  winv : Bool
  win : BitVec 3
  /-- FLAGS bits [7:5], marked 0. -/
  flagsHi : BitVec 3
  wbase : Byte
  nw : Byte
  rsv7 : Byte
  row : Half
  col : Byte
  rsvB : Byte
  count : Half
  stride : Half
  adst : Half
  asrc : Half
  sig : Word
  aux : Word
  rsv1C : Word
deriving DecidableEq, Repr

/-- How a command column or frame arrived: clean or corrected, or uncorrectable (R202). -/
inductive Arrival
  | good
  | uncorrectable
deriving DecidableEq, Repr

/-- The service classes of R244, highest first. -/
inductive SvcClass
  | sched
  | host
  | net
  | maint
deriving DecidableEq, Repr

/-- The page hint of a request (R250). -/
inductive PageHint
  | keep
  | close
deriving DecidableEq, Repr

/-- A periodic training pass begins on a stack, or one of its steps does on a bank (R261). -/
structure TrainStep where
  stack : StackIx
  bank : Option (DieIx × Fin 256)
deriving DecidableEq, Repr

/-- Who makes a request to a memory controller (R244). -/
inductive ReqSource
  | pan (p : PanIx)
  | sys (n : SchIx)
  | stream (t : TenIx)
  | rake
  | fill
deriving DecidableEq, Repr

/-- A request reaching a memory controller (R244, R254): a read of one column, or a write of the bytes of one column
that `mask` selects. -/
structure DramReq where
  pc : PcIx
  sid : Fin 4
  bank : Fin 16
  row : Half
  col : Fin 32
  src : ReqSource
  hint : PageHint
  write : Bool
  mask : BitVec 32
  data : List Byte
deriving DecidableEq, Repr

/-- What a system channel does when a request is complete (R168). -/
inductive Completion
  | none
  | tally (t : TlyIx)
  | mailbox (slot : MbxIx)
  | flag (ring : RingIx)
  | netAck (port : PortIx) (qp : Fin 64)
deriving DecidableEq, Repr

/-- A request of a system channel (R161, R168): where its descriptors and list lie, for which tenant and, for regions
0x0000 and 0x0001, for which logical pan. The spec gives the 512-bit request word no layout. -/
structure SysReq where
  tenant : Option TenIx
  lpan : Fin 32
  srcRegion : Half
  srcOff : Nat
  dstRegion : Half
  dstOff : Nat
  list : Option (Half × Nat)
  action : Completion
  /-- The request word failed its queue parity (R330, R337). -/
  parityBad : Bool
deriving DecidableEq, Repr

/-- Where a signal comes from: the source code and unit byte of R301. -/
inductive SigSource
  | pan (lpan : Fin 32) (tenant : TenIx)
  | panCopy (lpan : Fin 32) (tenant : TenIx)
  | pond (ctrl : StackIx) (tenant : TenIx)
  | sys (sch : SchIx)
  | mailbox (slot : MbxIx)
  | rdma (port : PortIx)
  | mirror
  | rilef (core : Fin 4)
  | hand (triyx : Bool)
deriving DecidableEq, Repr

/-- Which signal reaches the store: one in flight, by its place in the list of those in flight, or a signal that a
service on a system control core sends itself. -/
inductive SigPick
  /-- `bad`: its word in the queue fails its parity check as it is read (R330). -/
  | flight (k : Nat) (bad : Bool)
  | rilef (core : Fin 4) (tly : TlyIx) (n : Nat)
  | mirror (tly : TlyIx) (n : Nat)
deriving DecidableEq, Repr

/-- What Rilef's cores do in a tick: a wait of a core, with the ticks to its expiry if it has one (R300, R316), an arrival of its
service on the port a command bound it to (R310), a read or write of a word of its memory (R276, R284), or a tally or gate that
it takes as its own (R299). -/
inductive CoreCall
  | wait (core : Fin 4) (tly : TlyIx) (consuming : Bool) (ticks : Option Dword)
  | arrive (core : Fin 4) (gate : GateIx) (port : Fin 4)
  /-- A read of its memory, with the bits of the stored word (data, check) that changed since it was written. -/
  | load (core : Fin 4) (addr : Nat) (flipD : Dword) (flipC : Half)
  | store (core : Fin 4) (addr : Nat) (d : Dword)
  /-- Rilef takes an unassigned tally as its own, or gives it back. -/
  | ownTally (tly : TlyIx) (own : Bool)
  /-- The same of a gate; one of its own is a port gate. -/
  | ownGate (gate : GateIx) (own : Bool) (ports : BitVec 4)
deriving DecidableEq, Repr

/-- Ticks of the synchronisation store: what the services of Rilef bring to the tick in progress, and how many further ticks
pass with nothing new (R302). -/
structure TickReq where
  idle : Word
  /-- The partner released TKO_IN in this tick, or the line came open (R385). -/
  tkoRelease : Bool
  calls : List CoreCall
  /-- Entries of queues, by instance and index, whose parity bit changes where it is stored (R330). -/
  upsets : List (Nat × Nat)
deriving DecidableEq, Repr

/-! ### What an image's sections without a stated layout declare (R32: types 0x02, 0x03, 0x05, 0x06) -/

/-- A region the image asks for (R136, R252). `pond` is the PTOK and RUN of a POND region, `order` the address order stated
for another one; `mirrored` as R380. -/
structure RegionReq where
  bytes : Nat
  pond : Option (Nat × Nat)
  order : Option (Fin 4)
  mirrored : Bool
deriving DecidableEq, Repr

/-- A harvest stream (R357). -/
structure StreamReq where
  recsz : Nat
  perTide : Nat
  tally : BitVec 12
  area : Nat
  slots : Nat
  len : Nat
deriving DecidableEq, Repr

/-- A gate's participants at load: logical pans or ports (R310). -/
structure GateReq where
  mask : Word
  ports : BitVec 4
deriving DecidableEq, Repr

/-- What the attention record gates (R231 to R233). -/
structure AttnRef where
  /-- Partition-relative address of the record (R50), in logical pan 0's partitions. -/
  record : Nat
  /-- The pair's number in its slot. -/
  pair : Nat
  slot : Nat
  /-- The block of the pair that the entry serves (R228); its first token is block × PTOK. -/
  block : Nat
  /-- First token of the chunk. -/
  t0 : Nat
  /-- Query heads of the pair. -/
  heads : Nat
deriving DecidableEq, Repr

/-- The part of a pair's partials that a read-back delivers (R239): from element `elem` of the partial of query head `head`,
whose value vector has `vlen` elements. -/
structure PartialRef where
  attn : AttnRef
  head : Nat
  vlen : Nat
  elem : Nat
deriving DecidableEq, Repr

/-- One entry of a pond stream table (R245, R269). -/
inductive PlanItem
  /-- A pond command with opcode `op`: to the bank positions 16 seg + k of member `member` that BMASK selects, or, where it
  serves an attention record, to the bank that holds the record's block (R24, R228). -/
  | cmd (member : Nat) (seg : Fin 16) (op : BitVec 6) (c : PondCmd) (payload : List Byte) (attn : Option AttnRef)
  /-- A read-back of `count` accumulators from window `win` to SRAM at `sram`: of a bank position of a member, or, for a part of
  a pair's partials, of the bank of its block, `sram` being the pair's partial area (R239). -/
  | readback (member : Nat) (bank : Fin 256) (win : BitVec 3) (first count : Nat) (sram : Nat) (part : Option PartialRef)
  /-- A status read of those that end the table (R212), of a bank position of a member or of a block's bank; the tag expected is
  that of the last command written to the bank. -/
  | status (member : Nat) (bank : Fin 256) (attn : Option AttnRef)
  /-- A SCHED slot for a transfer (R245), on the pseudo-channel of segment `seg` of the interleave set of region `region`. -/
  | transfer (region : Nat) (seg : Nat)
deriving DecidableEq, Repr

/-- A pond stream table: the entries of one body on one controller, with the tick offset of each, and the tally its
end signals (R307). -/
structure PlanTable where
  gear : BitVec 3
  body : Nat
  /-- The pond group whose members the entries name. -/
  group : Nat
  items : List (Nat × PlanItem)
  signal : Option (BitVec 12)
deriving DecidableEq, Repr

/-- A sequence slot (R393, R396): the region that holds it and how many blocks of each pair are bound at load. -/
structure SeqSlotReq where
  region : Nat
  /-- The pond group on whose members the blocks lie. -/
  group : Nat
  ptok : Nat
  run : Nat
  pairs : Nat
  unitBytes : Nat
deriving DecidableEq, Repr

/-- Bytes the image puts into a partition: pan or group `index`, at a partition offset. -/
structure InitReq where
  quad : Bool
  index : Nat
  offset : Nat
  bytes : List Byte
deriving DecidableEq, Repr

/-- A pond group (R22, R24): its width in members and its depth in banks. -/
structure PondGroupReq where
  width : Nat
  depth : Nat
deriving DecidableEq, Repr

/-- The declarations of the sections to which the spec gives no layout. -/
structure ImageReq where
  /-- Partition offset of the entry table of each gear's body code (R48, type 0x02). -/
  codeBase : List (BitVec 3 × Nat)
  regions : List RegionReq
  streams : List StreamReq
  tallies : Nat
  gates : List GateReq
  /-- Per body, the tally field of its entry condition (R17). -/
  entry : List (Option (BitVec 12))
  /-- Per body, whether it is a mirror point (R380). -/
  mirrorPoint : List Bool
  ponds : List PondGroupReq
  plan : List PlanTable
  slots : List SeqSlotReq
  budget : Nat
  minBudget : Nat
  shrink : Bool
  inits : List InitReq
deriving DecidableEq, Repr

/-! ### What Rilef decides, within the rules (R22 to R24, R252) -/

/-- A block of a POND region in its bank, at a linear column (R142, R143). -/
structure BlockPlace where
  at_ : BankIx
  l0 : Nat
deriving DecidableEq, Repr

/-- A pond-group member as the placer binds it: its die, and its banks by bank position (R24). -/
structure MemberPlace where
  stack : StackIx
  die : DieIx
  banks : List (Fin 256)
deriving DecidableEq, Repr

/-- Where a region lies. -/
inductive Place
  /-- R252, R253: an interleave set of (stack, die, segment of the die), rows from `rbase`, `nrows` of them. -/
  | interleave (segs : List (StackIx × DieIx × Fin 16)) (rbase nrows : Nat) (order : Fin 4)
  /-- R143: pond blocks of `blockBytes` each. -/
  | blocks (blockBytes : Nat) (bs : List BlockPlace)
  /-- Quadrant SRAM from a byte address (ingest staging, R345). -/
  | quad (q : QuadIx) (base : Nat)
  /-- A host physical range (R364). -/
  | host (base : Nat)
deriving DecidableEq, Repr

/-- One binding of a tenant: its number, rotation, the physical pans of its logical pans in order, the SRAM bases,
the places of its regions, the members of each of its pond groups, and the bases of its tallies and gates. -/
structure Binding where
  tenant : TenIx
  rot : Fin 4
  pans : List PanIx
  panBase : Nat
  quadBase : Nat
  places : List Place
  /-- The placer's map of each region: where each shard of a GLOBAL tensor begins (R145). -/
  maps : List (List Nat)
  members : List (List MemberPlace)
  tlyBase : Nat
  gateBase : Nat
deriving DecidableEq, Repr

/-- An entry of the slice table (R36, R39). -/
structure SliceEntry where
  last : Bool
  lenUs : BitVec 24
  mask : Half
deriving DecidableEq, Repr

/-- What a placement move carries (R400, R401): a pan's state to another pan, every block of a bank to another bank, or a bank to
the spare that replaces it. -/
inductive MoveWhat
  | pan (src dst : PanIx)
  | bank (src dst : BankIx)
  | spare (src : BankIx) (dst : Fin 8)
deriving DecidableEq, Repr

/-! ### Outside events -/

/-- The kinds of host loss (R366). -/
inductive LossKind
  | dataLinkDown
  | hotReset
  | linkDisable
deriving DecidableEq, Repr

/-- An Ethernet frame as it arrives (R372, R373): its length in bytes, its kind, and whether its FCS is good. -/
inductive FrameKind
  /-- `bad`: which of its words in the receive queue, if any, fails its parity check as it is read (R330); `ecn`: the frame is
  marked for congestion (R374). -/
  | rdma (bad : Option Nat) (ecn : Bool)
  /-- ARP, neighbour discovery or echo; `bad` as of an RDMA frame. -/
  | service (bad : Option Nat)
  | pause
  /-- Priority flow control (R372): whether the partner asks the port to stop. -/
  | pfc (stop : Bool)
  | other
deriving DecidableEq, Repr

/-- A doorbell that Rilef takes up: its lane, and whether its entry in the doorbell queue fails its parity check as it is read
(R330, R337). -/
structure BellTake where
  lane : LaneIx
  bad : Bool
deriving DecidableEq, Repr

/-- A received Triyx line that is no command, as its characters (R337, R444): as it came, or with a character, by its place,
that fails its parity check as it is read. -/
inductive LineFault
  | bytes (chars : List Byte)
  | poison (chars : List Byte) (at_ : Nat)
deriving DecidableEq, Repr

/-- One sensor sweep's readings (R403). -/
structure Sweep where
  die : List Half
  stack : List Half
  railMv : List Half
  railMa : List Word
  inMv : Half
  inMa : Word
  cool : Half
  scap : Half
  /-- The sample whose word fails its parity check as the governor reads it (R330, R337): dies from 0, stacks from 64, rail
  voltages from 76, rail currents from 90, then input voltage, input current and coolant. -/
  bad : Option Nat
deriving DecidableEq, Repr

/-- A reset asked for at the debug port: of system reach, else of core reach; `bad`: its word fails its parity check as it is read
(R330, R337). -/
structure DebugReset where
  system : Bool
  bad : Bool
deriving DecidableEq, Repr

/-- What the loader finds in one flash copy (R434). The spec lays out neither the retirement record's header nor Rilef's: whether
such a copy's CRC is right is the sender's (log entry 194). -/
structure CopyRead (α : Type) where
  valid : Bool
  gen : Word
  content : α
deriving DecidableEq, Repr

/-- The fields of an option block (R433). -/
structure OptBlock where
  capW : Half
  hystW : Half
  hostF : Byte
  order : Byte
  rake : Byte
  rakeHours : Half
  ageHost : Half
  ageNet : Half
  ageMaint : Half
  growRes : Dword
  retireCe : Word
  retirePan : Word
  baud : Word
  wdogMs : Half
  hbto : Half
  lagmax : Byte
  partner : List Byte
  /-- Offsets of the reserved fields that are not 0. -/
  rsv : List Nat
deriving DecidableEq, Repr

/-- An entry of the retirement record (R402, R415). -/
structure RetireEntry where
  pan : Bool
  stack : BitVec 4
  die : BitVec 4
  bank : Byte
  spare : BitVec 4
  cause : BitVec 4
deriving DecidableEq, Repr

/-- The units that TEST names (R450). -/
inductive TestUnit
  | pan (p : PanIx)
  | qsr (q : QuadIx)
  | stk (st : StackIx)
  | sch (n : SchIx)
  | pcie
  | eth (port : PortIx)
deriving DecidableEq, Repr

/-- A reset reach (R416). -/
inductive Reach
  | core
  | system
  | powerOn
deriving DecidableEq, Repr

/-- What HSET names (R447). -/
inductive HsetOp
  | tlySet (t v : Nat)
  | tlySig (t v : Nat)
  | gateRel (g : Nat)
  | gateRst (g : Nat)
deriving DecidableEq, Repr

/-- A verb of Triyx with its arguments (R447); `unknown` stands for every other one. -/
inductive Verb
  | idnt | sens | rcau | calr | optr | auth | dump | unknown
  | test (u : TestUnit)
  | logr (ev : Bool) (first count : Nat)
  | logc (ev : Bool) (head : Half)
  | rset (r : Reach) (confirm : Half)
  | hset (op : HsetOp) (confirm : Half)
  | cals (sec frac : Nat)
  | rreg (off : Nat)
  | baud (rate : Nat)
  | auts (signature : List Word) (pubkey : List Byte)
  | optw (off size v : Nat)
  | retr (first count : Nat)
  | retc (entry : Nat)
  | dbun (open_ : Bool)
deriving DecidableEq, Repr

/-- A line in the receive queue of Triyx (R445): a command, or characters that are none. -/
inductive TriyxLine
  | command (seq : Half) (verb : Verb)
  | broken (chars : List Byte)
deriving DecidableEq, Repr

/-- The commands, in the table's order. -/
inductive Instr
  -- tides (01)
  | boundaryTick (t : TenIx) (grow : List BlockPlace)
  | commitTick (t : TenIx)
  | sliceEntryEnd
  | turnoverEnd
  -- S slot (02)
  | snop (p : PanIx) (b : Bundle) (z : BitVec 26)
  | add (p : PanIx) (b : Bundle) (rd ra rb : Reg5) (z : BitVec 11)
  | sub (p : PanIx) (b : Bundle) (rd ra rb : Reg5) (z : BitVec 11)
  | and (p : PanIx) (b : Bundle) (rd ra rb : Reg5) (z : BitVec 11)
  | or (p : PanIx) (b : Bundle) (rd ra rb : Reg5) (z : BitVec 11)
  | xor (p : PanIx) (b : Bundle) (rd ra rb : Reg5) (z : BitVec 11)
  | shl (p : PanIx) (b : Bundle) (rd ra rb : Reg5) (z : BitVec 11)
  | shr (p : PanIx) (b : Bundle) (rd ra rb : Reg5) (z : BitVec 11)
  | sar (p : PanIx) (b : Bundle) (rd ra rb : Reg5) (z : BitVec 11)
  | mul (p : PanIx) (b : Bundle) (rd ra rb : Reg5) (z : BitVec 11)
  | slt (p : PanIx) (b : Bundle) (rd ra rb : Reg5) (z : BitVec 11)
  | sltu (p : PanIx) (b : Bundle) (rd ra rb : Reg5) (z : BitVec 11)
  | addi (p : PanIx) (b : Bundle) (rd ra : Reg5) (imm : Half)
  | andi (p : PanIx) (b : Bundle) (rd ra : Reg5) (imm : Half)
  | ori (p : PanIx) (b : Bundle) (rd ra : Reg5) (imm : Half)
  | xori (p : PanIx) (b : Bundle) (rd ra : Reg5) (imm : Half)
  | shli (p : PanIx) (b : Bundle) (rd ra : Reg5) (imm : Half)
  | shri (p : PanIx) (b : Bundle) (rd ra : Reg5) (imm : Half)
  | sari (p : PanIx) (b : Bundle) (rd ra : Reg5) (imm : Half)
  | movk (p : PanIx) (b : Bundle) (rd : Reg5) (z : BitVec 3) (h : BitVec 2) (imm : Half)
  | ld (p : PanIx) (b : Bundle) (rd ra : Reg5) (imm : Half)
  | st (p : PanIx) (b : Bundle) (rd ra : Reg5) (imm : Half)
  | ldy (p : PanIx) (b : Bundle) (rd ra : Reg5) (imm : Half)
  | lds (p : PanIx) (b : Bundle) (rd ra : Reg5) (imm : Half)
  | beq (p : PanIx) (b : Bundle) (ra rb : Reg5) (off : Half)
  | bne (p : PanIx) (b : Bundle) (ra rb : Reg5) (off : Half)
  | blt (p : PanIx) (b : Bundle) (ra rb : Reg5) (off : Half)
  | bge (p : PanIx) (b : Bundle) (ra rb : Reg5) (off : Half)
  | branchY (p : PanIx) (b : Bundle) (yr : BitVec 3) (bit : BitVec 6) (sense : BitVec 1) (off : Half)
  | j (p : PanIx) (b : Bundle) (off : BitVec 26)
  | jal (p : PanIx) (b : Bundle) (rd ra : Reg5) (imm : Half)
  | jr (p : PanIx) (b : Bundle) (rd ra rb : Reg5) (z : BitVec 11)
  | endb (p : PanIx) (b : Bundle) (z : BitVec 26)
  | brk (p : PanIx) (b : Bundle) (z : BitVec 26)
  | loadReturn (p : PanIx) (k : Nat)
  | storeWritten (p : PanIx)
  | panEnded (p : PanIx)
  -- M slot (03)
  | mnop (p : PanIx) (b : Bundle) (z : BitVec 26)
  | mfmt (p : PanIx) (b : Bundle) (fa fb : BitVec 4) (sc : BitVec 2) (gs : Reg5) (z : BitVec 11)
  | msca (p : PanIx) (b : Bundle) (ga : Reg5) (rows : BitVec 7) (z : BitVec 14)
  | mldb (p : PanIx) (b : Bundle) (ga gt gc : Reg5) (bs : BitVec 1) (z : BitVec 10)
  | mldbt (p : PanIx) (b : Bundle) (tb : BitVec 2) (gr : Reg5) (bs : BitVec 1) (z : BitVec 18)
  | mmv (p : PanIx) (b : Bundle) (va vd : Reg5) (n : BitVec 4) (acc out bs : BitVec 1) (z : BitVec 9)
  | mmt (p : PanIx) (b : Bundle) (gr : Reg5) (ta td : BitVec 2) (n : BitVec 8) (acc out bs : BitVec 1) (z : BitVec 6)
  | mOpStart (p : PanIx)
  | mOpComplete (p : PanIx) (k : Nat)
  -- E slot (04)
  | enop (p : PanIx) (b : Bundle) (z : BitVec 26)
  | erun (p : PanIx) (b : Bundle) (cwi : BitVec 6) (vs vd vb n : Reg5)
  | erunt (p : PanIx) (b : Bundle) (cwi : BitVec 6) (ts td : BitVec 2) (gr vb : Reg5) (z : BitVec 6)
  | ecwld (p : PanIx) (b : Bundle) (cw : BitVec 6) (ga : Reg5) (cnt : BitVec 6) (z : BitVec 9)
  | eyclr (p : PanIx) (b : Bundle) (yr : BitVec 3) (z : BitVec 23)
  | eOpStart (p : PanIx)
  | eOpComplete (p : PanIx)
  -- C slot (02)
  | cnop (p : PanIx) (b : Bundle) (z : BitVec 26)
  | vld (p : PanIx) (b : Bundle) (vr ga : Reg5) (size : BitVec 2) (imm : BitVec 14)
  | vst (p : PanIx) (b : Bundle) (vr ga : Reg5) (size : BitVec 2) (imm : BitVec 14)
  | cpy (p : PanIx) (b : Bundle) (gs gd : Reg5) (sig : BitVec 1) (z : BitVec 3) (tly : BitVec 12)
  | fence (p : PanIx) (b : Bundle) (z : BitVec 22) (scope : BitVec 4)
  | fenceComplete (p : PanIx)
  | sig (p : PanIx) (b : Bundle) (z : BitVec 10) (inc : BitVec 4) (tly : BitVec 12)
  | wait (p : PanIx) (b : Bundle) (rd gt : Reg5) (z : BitVec 4) (tly : BitVec 12)
  | waitn (p : PanIx) (b : Bundle) (rd gt : Reg5) (z : BitVec 4) (tly : BitVec 12)
  | gate (p : PanIx) (b : Bundle) (z : BitVec 18) (g : Byte)
  | panPause (p : PanIx) (pause : Bool)
  | panStep (p : PanIx)
  -- copies (06)
  | copyStart (p : PanIx)
  | copyComplete (p : PanIx)
  | sysRequest (n : SchIx) (r : SysReq)
  | sysRequestStart (n : SchIx)
  | sysRequestComplete (n : SchIx)
  | cpyRestart (n : SchIx)
  | cpyEnable (n : SchIx) (enable : Bool)
  -- synchronisation store (11)
  | syncStoreTick (idle : TickReq)
  | tallySignal (pick : SigPick)
  | waitTimeout (p : PanIx)
  | tlyHandSet (confirm : Half) (t : TlyIx) (v : Word)
  | tlyHandSignal (confirm : Half) (t : TlyIx) (v : Word)
  | gateHandRelease (confirm : Half) (g : GateIx)
  | gateHandReset (confirm : Half) (g : GateIx)
  | snap
  | snapshotComplete
  -- queues (12)
  | hostRespqRead
  | hostEvqRead
  | flushResp
  | flushEv
  | queueFlushEffect (ev : Bool)
  -- host (13)
  | bar0Write (off : BitVec 26) (v : Dword)
  | ingestWrite (lane : LaneIx) (off : BitVec 26) (data : List Byte)
  | bar2Read (lane : LaneIx) (off : BitVec 26)
  | ingestDoorbell (lane : LaneIx) (token : Word)
  | ingestDoorbellSignal (bell : BellTake)
  | mbxDoorbell (slot : MbxIx)
  | mbxAccept
  | mbxBackgroundComplete (slot : MbxIx)
  | ping (slot : MbxIx)
  | stage (slot : MbxIx) (region : Half) (pl : Place)
  | loadImage (slot : MbxIx) (img : ImageReq) (bind : Binding) (table : List SliceEntry)
  | unload (slot : MbxIx) (table : List SliceEntry)
  | start (slot : MbxIx)
  | setWeight (slot : MbxIx) (table : List SliceEntry)
  | bindLane (slot : MbxIx)
  | unbindLane (slot : MbxIx)
  | bindRing (slot : MbxIx)
  | unbindRing (slot : MbxIx)
  | replayRing (slot : MbxIx)
  | mapHost (slot : MbxIx) (region : Half)
  | signal (slot : MbxIx)
  | gateArrive (slot : MbxIx)
  | gatePorts (slot : MbxIx)
  | syncDump (slot : MbxIx)
  | crashMode (slot : MbxIx)
  | reset (slot : MbxIx)
  | hrvHeadWrite (ring : RingIx) (head : Dword)
  | harvestTake (t : TenIx) (stream : Byte)
  | harvestRecordWrite (ring : RingIx) (n : Nat)
  | flushReadComplete (ring : RingIx) (ok : Bool)
  | hostAttach (v : Dword)
  | hostLoss (k : LossKind)
  | linkRetrain
  | snoop (addr : Dword)
  | configRequest (off : BitVec 12)
  | getVersion
  | getCapabilities
  | negotiateAlgorithms (asym hash : Word)
  | getDigests
  | getCertificate (slot : BitVec 4) (off len : Half)
  | challenge (slot : BitVec 4) (nonce : List Byte)
  | getMeasurements (index : Byte) (nonce : List Byte)
  -- pond units (07)
  | pondEnter (st : StackIx) (q : PcIx)
  | pondExit (st : StackIx) (q : PcIx)
  | pmodeInj (st : StackIx) (q : PcIx) (inj : Bool)
  | nop (g : SegIx) (tag : BitVec 4) (a : Arrival) (c : PondCmd)
  | ldw (g : SegIx) (tag : BitVec 4) (a : Arrival) (c : PondCmd)
  | ldwPayload (g : SegIx) (tag : BitVec 4) (data : List Byte)
  | dot (g : SegIx) (tag : BitVec 4) (a : Arrival) (c : PondCmd)
  | softp (g : SegIx) (tag : BitVec 4) (a : Arrival) (c : PondCmd)
  | wsum (g : SegIx) (tag : BitVec 4) (a : Arrival) (c : PondCmd)
  | mvw (g : SegIx) (tag : BitVec 4) (a : Arrival) (c : PondCmd)
  | ewu (g : SegIx) (tag : BitVec 4) (a : Arrival) (c : PondCmd)
  | fill (g : SegIx) (tag : BitVec 4) (a : Arrival) (c : PondCmd)
  | copyr (g : SegIx) (tag : BitVec 4) (a : Arrival) (c : PondCmd)
  | csend (g : SegIx) (tag : BitVec 4) (a : Arrival) (c : PondCmd)
  | crecv (g : SegIx) (tag : BitVec 4) (a : Arrival) (c : PondCmd)
  | ccomb (g : SegIx) (tag : BitVec 4) (a : Arrival) (c : PondCmd)
  | check (g : SegIx) (tag : BitVec 4) (a : Arrival) (c : PondCmd)
  | pondCommandStart (b : BankIx)
  | pondCommandEnd (b : BankIx)
  | resultRowRead (b : BankIx) (col : Fin 32)
  | spmapWrite (st : StackIx) (d : DieIx) (j : Fin 8) (bank : Byte) (valid : Bool)
  -- streams and controllers (08, 09)
  | pondStreamIssue (t : TenIx) (table : Nat)
  | attnRecordRead (t : TenIx) (r : AttnRef)
  | pondStreamComplete (t : TenIx) (table : Nat)
  | dramRequest (st : StackIx) (r : DramReq)
  | dramRequestServe (st : StackIx) (k : Nat)
  | requestPromotion (st : StackIx) (k : Nat)
  | rowIdleClose (b : BankIx)
  | refreshTick (st : StackIx)
  | refreshIssue (b : BankIx)
  | refreshComplete (b : BankIx)
  | trainingPeriodic (x : TrainStep)
  | trainingPassEnd (st : StackIx) (bad : Dword)
  | clockChangeStart (st : StackIx)
  | clockChangeComplete (st : StackIx)
  | parityAlert (st : StackIx) (q : PcIx) (k : Fin 16)
  | selfRefreshExitDone
  -- integrity (10)
  | rakeTargetedRewrite
  | rakeSweep (key : Nat) (last : Bool)
  | evClr
  | erClr
  | spareFill
  -- network and mirror (14)
  | frameReceive (port : PortIx) (kind : FrameKind) (bytes : Nat) (fcsOk : Bool)
  | rdmaWrite (port : PortIx) (qp : Fin 64) (psn : BitVec 24) (key : Word) (off : Dword) (data : List Byte)
  | rdmaRead (port : PortIx) (qp : Fin 64) (psn : BitVec 24) (key : Word) (off : Dword) (len : Word)
  | rdmaWriteImm (port : PortIx) (qp : Fin 64) (psn : BitVec 24) (key : Word) (off : Dword) (data : List Byte)
  | rdmaImmSignal (port : PortIx) (qp : Fin 64)
  | rdmaOtherOpcode (port : PortIx) (qp : Fin 64) (psn : BitVec 24) (opcode : Byte)
  | netLinkDown (port : PortIx)
  | netPortCfg (slot : MbxIx)
  | netKeyBind (slot : MbxIx) (entry : Byte) (owner : Option TenIx)
  | netKeyRevoke (slot : MbxIx)
  | netQpSet (slot : MbxIx)
  | netQpDestroy (slot : MbxIx)
  | mirPair (slot : MbxIx) (partner : List Byte) (interval : Nat)
  | mirAccept (slot : MbxIx)
  | mirUnpair (slot : MbxIx)
  | mirrorWriteReceive (t : TenIx) (region : Half) (off : Nat) (data : List Byte)
  | mirrorRecordReceive (rec : List Byte)
  | mirrorAck (t : TenIx) (tide : Dword)
  | heartbeatToggle
  | hbInEdge
  | heartbeatLost
  | streamSilent
  | takeoverTenantStart (t : TenIx)
  | tkoInAssert
  -- placer, governor, calendar (15)
  | placementMoveComplete (t : TenIx) (m : MoveWhat)
  | sensorSweep (r : Sweep)
  | governorWindow
  | govSetCap (slot : MbxIx)
  | plcBudget (slot : MbxIx)
  | plcTrim (slot : MbxIx)
  | calSet (slot : MbxIx)
  | plcRetire (slot : MbxIx)
  | plcQuery (slot : MbxIx)
  | calHoldLoss
  -- reset, clocks, bring-up (16, 18)
  | por (low : Bool)
  | brownout (input : Bool)
  | prsntNHigh
  | input48vGood
  | rstNAssert
  | rstNRelease
  | wdogExpiry
  | wdogKick
  | perstAssert
  | perstDeassert
  | rstCtrlCore (confirm : Half)
  | rstCtrlSystem (confirm : Half)
  | resetSourceTimeout (source : Fin 8)
  | resetRelease (r : Reach)
  | clkTimeout (domain : Fin 60)
  | optionLoadDone (o0 o1 : List Byte) (r0 r1 : CopyRead (List RetireEntry))
  | railsGood
  | pllLocked
  | selftestDone (pans : List (PanIx × Fin 64)) (quads : List (QuadIx × Fin 64)) (units : List (StackIx × DieIx × Fin 264))
  | sramFillDone
  | dramTrained (bad : List (StackIx × PcIx))
  | dramFillDone
  | fwCopyDone (a b : CopyRead (List Byte))
  | rilefReady
  -- service port and debug (17)
  | idnt (seq : Half)
  | sens (seq : Half)
  | test (seq : Half) (u : TestUnit)
  | testComplete (failures : List (List Dword))
  | logr (seq : Half) (ev : Bool) (first : Nat) (count : Nat)
  | logc (seq : Half) (ev : Bool) (head : Half)
  | rcau (seq : Half)
  | rsetC (seq : Half) (confirm : Half)
  | rsetS (seq : Half) (confirm : Half)
  | rsetP (seq : Half) (confirm : Half)
  | dump (seq : Half)
  | hsetTlySet (seq : Half) (t : Nat) (v : Nat) (confirm : Half)
  | hsetTlySig (seq : Half) (t : Nat) (v : Nat) (confirm : Half)
  | hsetGateRel (seq : Half) (g : Nat) (confirm : Half)
  | hsetGateRst (seq : Half) (g : Nat) (confirm : Half)
  | calr (seq : Half)
  | cals (seq : Half) (sec : Nat) (frac : Nat)
  | optr (seq : Half)
  | rreg (seq : Half) (off : Nat)
  | baud (seq : Half) (rate : Nat)
  | auth (seq : Half)
  | auts (seq : Half) (signature : List Word) (pubkey : List Byte)
  | authTimeout
  | optw (seq : Half) (off : Nat) (size : Nat) (v : Nat)
  | retr (seq : Half) (first : Nat) (count : Nat)
  | retc (seq : Half) (entry : Nat)
  | dbunOpen (seq : Half)
  | dbunLock (seq : Half)
  | dbgChalRead
  | dbgUnlock (confirm : Half) (resp : Word)
  | dbgLock (confirm : Half)
  | bypass
  | idcode
  | samplePreload
  | extest
  | dbgResetRequest (op : DebugReset)
  | selfRefreshEntered
  | linkUp (width : Byte) (speed : BitVec 4) (flit cache : Bool)
  | portLinkUp (port : PortIx)
  | modulePresenceChange (port : PortIx) (present ready fault over30 : Bool)
  | hostSourceAssert
  | finalLineSent
  | badLine (fault : LineFault)
  | unknownVerb (seq : Half)
deriving DecidableEq, Repr

end Sys2Proof
end

