-- ==== Sys2Proof/Config.lean ====
section
/-! DEFINITION. What an implementation fixes and what the spec leaves free. Every constant here has no body, so that
nothing can be proved of its value. -/

namespace Sys2Proof.Config

/-- The n-th free value: State.free counts those taken so far (log entry 2). -/
opaque freeValue : Nat → Dword

/-- Whether the host fails the read that takes the n-th free value: the host decides (R364; log entry 196). -/
opaque hostReadFails : Nat → Bool

/-- HOST_SERIAL (R344): fused at manufacture (log entry 21). -/
opaque serial : Dword

/-- The identity certificate (R432, R452; log entry 21). -/
opaque certificate : List Byte

/-- SHA-384 of a byte string (R448, R452): named by the spec, not stated by it (log entry 21). -/
opaque sha384 : List Byte → List Byte

/-- SHA-256 of a byte string (R389; log entry 21). -/
opaque sha256 : List Byte → List Byte

/-- A signature of the identity key over a byte string (R452; log entry 21). -/
opaque identitySign : List Byte → List Byte

/-- Whether an ECDSA P-384 signature over a message verifies under a public key (R448; log entry 21). -/
opaque ecdsaValid : (key msg : List Byte) → (signature : List Word) → Bool

/-- SHA-384 digest of the service key, fused at manufacture (R448; log entry 21). -/
opaque serviceKeyDigest : List Byte

/-- A register of PCI configuration space that the spec names and does not lay out (R341, R342; log entry 22). -/
opaque configSpace : Nat → Word

/-- Where each capability structure of R341 stands in configuration space (log entry 22). -/
opaque capabilityPlace : Nat → Nat

/-- The JTAG identification code, which the spec does not state (R454; log entry 22). -/
opaque jtagIdcode : Word

/-- Beyquerath's PCI vendor number, which the spec does not state (R342; log entry 22). -/
opaque vendorId : Half

/-- Whether a clock that a domain takes from outside the card is present at a tick, where nothing that the model holds shows it
(R426, R431; log entry 193). -/
opaque outsideClock : (domain tick : Nat) → Bool

/-- The pan domain, of its quadrant's eight, that self-test routes to an unbound physical pan (R428; log entry 193). -/
opaque testDomain : (pan : Nat) → Nat

/-- Whether LED_RUN is lit while tenants are quiesced by a fence alone, which R470 leaves open (log entry 2). -/
opaque fencedLedLit : Bool

/-- Bytes of a system control core's memory, which R276 leaves open (log entry 202). -/
opaque coreMemory : Nat

/-- The number of the replay store's region, which the spec does not state (log entry 153). -/
opaque replayRegion : Half

/-- The placement and mirror buffers as the system regions that Rilef names (R136): limit and place by region
number. The spec gives them neither number nor place (log entry 153). -/
opaque systemRegion : Half → Option (Nat × Place)

/-- Places of the placer's tables in DRAM (R271), which the spec does not state (log entry 153). -/
opaque placerTables : List Place

end Sys2Proof.Config
end

