-- ==== Sys2Proof/Machine/Bits.lean ====
section
/-! DEFINITION. Bit fields, byte order (R8), sign extension, saturating counters and the two cyclic codes. -/

namespace Sys2Proof

/-- The `n` bytes of `v`, least significant first (R8). -/
def leBytes : Nat → Nat → List Byte
  | 0, _ => []
  | n + 1, v => BitVec.ofNat 8 v :: leBytes n (v / 256)

/-- The number that bytes spell, least significant first (R8). -/
def leNat : List Byte → Nat
  | [] => 0
  | b :: bs => b.toNat + 256 * leNat bs

/-- `n` bytes of `bs` from `off` as a number; bytes beyond the end are 0. -/
def fieldAt (bs : List Byte) (off n : Nat) : Nat := leNat ((bs.drop off).take n)

/-- Bits `lo` to `lo + n − 1` of a number. -/
def bitsOf (v lo n : Nat) : Nat := (v / 2 ^ lo) % 2 ^ n

/-- Bit `i` of a number. -/
def bitOf (v i : Nat) : Bool := v.testBit i

/-- A value placed at bit `lo` of a register. -/
def fieldTo (v : Nat) (lo : Nat) : Dword := BitVec.ofNat 64 (v * 2 ^ lo)

/-- A flag placed at bit `lo`. -/
def flagTo (b : Bool) (lo : Nat) : Dword := fieldTo (if b then 1 else 0) lo

/-- `a + b`, held at the largest value of the width. -/
def satAdd {w : Nat} (a : BitVec w) (n : Nat) : BitVec w :=
  if a.toNat + n < 2 ^ w then BitVec.ofNat w (a.toNat + n) else BitVec.ofNat w (2 ^ w - 1)

/-- The larger of two unsigned values. -/
def maxU {w : Nat} (a b : BitVec w) : BitVec w := if a.toNat < b.toNat then b else a

/-- Replace `n` list entries from `off` by those of `new`. -/
def listPatch {α : Type} (xs : List α) (off : Nat) (new : List α) : List α :=
  xs.take off ++ new ++ xs.drop (off + new.length)

/-- The list of length `n` with `xs` first and `d` after it. -/
def padTo {α : Type} (d : α) (n : Nat) (xs : List α) : List α :=
  (xs ++ List.replicate (n - xs.length) d).take n

/-- Split into groups of `n`, by `fuel` at most. -/
def groupsOf {α : Type} (n : Nat) : Nat → List α → List (List α)
  | 0, _ => []
  | fuel + 1, xs => if xs.isEmpty then [] else xs.take n :: groupsOf n fuel (xs.drop n)

/-- One step of CRC-32 (IEEE 802.3, reflected) over a bit. -/
def crc32Bit (c : Word) : Word := if c.getLsbD 0 then (c >>> 1) ^^^ 0xEDB88320#32 else c >>> 1

def crc32Byte (c : Word) (b : Byte) : Word :=
  crc32Bit (crc32Bit (crc32Bit (crc32Bit (crc32Bit (crc32Bit (crc32Bit (crc32Bit (c ^^^ b.zeroExtend 32))))))))

/-- CRC-32 with the IEEE 802.3 polynomial (R32, R315, R359, R433). -/
def crc32 (bs : List Byte) : Word := (bs.foldl crc32Byte 0xFFFFFFFF#32) ^^^ 0xFFFFFFFF#32

def crc16Bit (c : Half) : Half := if c.getLsbD 15 then (c <<< 1) ^^^ 0x1021#16 else c <<< 1

def crc16Byte (c : Half) (b : Byte) : Half :=
  crc16Bit (crc16Bit (crc16Bit (crc16Bit (crc16Bit (crc16Bit (crc16Bit (crc16Bit
    (c ^^^ (b.zeroExtend 16 <<< 8)))))))))

/-- CRC-16/CCITT-FALSE of the service port (R444). -/
def crc16 (bs : List Byte) : Half := bs.foldl crc16Byte 0xFFFF#16

/-- The `n`-th element or a default. -/
def nth {α : Type} (d : α) (xs : List α) (n : Nat) : α := xs.getD n d

/-- Apply `f` to the `n`-th element. -/
def mapNth {α : Type} (f : α → α) : Nat → List α → List α
  | _, [] => []
  | 0, x :: xs => f x :: xs
  | n + 1, x :: xs => x :: mapNth f n xs

/-- Drop the `n`-th element. -/
def dropNth {α : Type} (n : Nat) (xs : List α) : List α := xs.take n ++ xs.drop (n + 1)

end Sys2Proof
end

