-- ==== Sys2Proof/Machine/CheckCode.lean ====
section
/-! DEFINITION. The row-and-column check code (R277 to R279). -/

namespace Sys2Proof

/-- Parity of a byte. -/
def parity8 (b : Byte) : Bool :=
  (b.getLsbD 0).xor ((b.getLsbD 1).xor ((b.getLsbD 2).xor ((b.getLsbD 3).xor
    ((b.getLsbD 4).xor ((b.getLsbD 5).xor ((b.getLsbD 6).xor (b.getLsbD 7)))))))

/-- Byte r of a word: row r (R277). -/
def rowByte (d : Dword) (r : Nat) : Byte := (d >>> (8 * r)).truncate 8

def bit8 (b : Bool) (i : Nat) : Byte := if b then (1#8) <<< i else 0#8

/-- Row checks P0 to P7 (R277). -/
def rowChecks (d : Dword) : Byte :=
  bit8 (parity8 (rowByte d 0)) 0 ||| bit8 (parity8 (rowByte d 1)) 1 ||| bit8 (parity8 (rowByte d 2)) 2 |||
  bit8 (parity8 (rowByte d 3)) 3 ||| bit8 (parity8 (rowByte d 4)) 4 ||| bit8 (parity8 (rowByte d 5)) 5 |||
  bit8 (parity8 (rowByte d 6)) 6 ||| bit8 (parity8 (rowByte d 7)) 7

/-- The parity of each column. -/
def colParity (d : Dword) : Byte :=
  rowByte d 0 ^^^ rowByte d 1 ^^^ rowByte d 2 ^^^ rowByte d 3 ^^^ rowByte d 4 ^^^ rowByte d 5 ^^^ rowByte d 6 ^^^
    rowByte d 7

/-- Column checks Q0 to Q7 (R277). -/
def colChecks (d : Dword) : Byte := colParity d ^^^ (colParity d).rotateLeft 1

/-- A word as stored: data, row checks, column checks. -/
structure Stored where
  d : Dword
  p : Byte
  q : Byte
deriving DecidableEq, Repr

/-- The 80-bit word that a write stores (R277). -/
def encodeWord (d : Dword) : Stored := { d := d, p := rowChecks d, q := colChecks d }

/-- The outcome of decoding (R278). -/
inductive Check
  | clean
  | corrected (bit : Nat)
  | uncorrectable
deriving DecidableEq, Repr

/-- A decoded word: what is delivered, the outcome, and the syndrome (sq in [15:8], sp in [7:0]). -/
structure Decoded where
  d : Dword
  check : Check
  syn : Half
deriving DecidableEq, Repr

def popcount8 (b : Byte) : Nat :=
  (b.getLsbD 0).toNat + (b.getLsbD 1).toNat + (b.getLsbD 2).toNat + (b.getLsbD 3).toNat + (b.getLsbD 4).toNat +
    (b.getLsbD 5).toNat + (b.getLsbD 6).toNat + (b.getLsbD 7).toNat

/-- The place of the lowest set bit of a byte (8 when none). -/
def lowBit (b : Byte) : Nat := ((List.range 8).find? fun i => b.getLsbD i).getD 8

/-- The column whose data bit gives the column syndrome `sq`, if one does. -/
def synColumn (sq : Byte) : Option Nat :=
  (List.range 8).find? fun c => sq = (((1#8) <<< c) ||| ((1#8) <<< c).rotateLeft 1)

/-- Decode a stored word (R278). -/
def decodeWord (w : Stored) : Decoded :=
  let sp := w.p ^^^ rowChecks w.d
  let sq := w.q ^^^ colChecks w.d
  let syn : Half := (sq ++ sp)
  if sp = 0 ∧ sq = 0 then { d := w.d, check := .clean, syn := syn }
  else if popcount8 sp + popcount8 sq = 1 then
    { d := w.d, check := .corrected (if sp = 0 then 72 + lowBit sq else 64 + lowBit sp), syn := syn }
  else if popcount8 sp = 1 then
    match synColumn sq with
    | some c => { d := w.d ^^^ ((1#64) <<< (8 * lowBit sp + c)), check := .corrected (8 * lowBit sp + c), syn := syn }
    | none => { d := w.d, check := .uncorrectable, syn := syn }
  else { d := w.d, check := .uncorrectable, syn := syn }

/-- One of the 80 stored bits flipped. -/
def flipBit (w : Stored) (j : Nat) : Stored :=
  if j < 64 then { w with d := w.d ^^^ ((1#64) <<< j) }
  else if j < 72 then { w with p := w.p ^^^ ((1#8) <<< (j - 64)) } else { w with q := w.q ^^^ ((1#8) <<< (j - 72)) }

/-- A self-test pattern (R285): the word, the stored bits flipped, and the outcome expected. -/
structure TestPattern where
  d : Dword
  flips : List Nat
  want : Check
deriving DecidableEq, Repr

def checkerA : Dword := 0xAAAAAAAAAAAAAAAA

/-- The patterns of R285 in table order. -/
def selfTestPatterns : List TestPattern :=
  [{ d := 0, flips := [], want := .clean }] ++
    ((List.range 64).map fun i => { d := (1#64) <<< i, flips := [], want := .clean }) ++
    [{ d := checkerA, flips := [], want := .clean }, { d := 0x5555555555555555, flips := [], want := .clean }] ++
    ((List.range 80).map fun j => { d := checkerA, flips := [j], want := .corrected j }) ++
    (List.range 80).flatMap fun j =>
      (List.range j).map fun i => { d := checkerA, flips := [i, j], want := .uncorrectable }

/-- A checker, as its encoder and decoder, passes a pattern: the check bits of R277, the outcome expected, the word delivered
unless it is uncorrectable, and for one flip the syndrome of that bit. -/
def passesPattern (enc : Dword → Stored) (dec : Stored → Decoded) (x : TestPattern) : Bool :=
  let r := dec (x.flips.foldl flipBit (enc x.d))
  enc x.d == encodeWord x.d && r.check == x.want && (x.want == .uncorrectable || r.d == x.d) &&
    (match x.flips with | [j] => r.syn == (decodeWord (flipBit (encodeWord 0) j)).syn | _ => true)

/-- The self-test of one checker (R285). -/
def checkerPasses (enc : Dword → Stored) (dec : Stored → Decoded) : Bool := selfTestPatterns.all (passesPattern enc dec)

/-- Flip stored bits: `fd` of the data and `fc` of the sixteen check bits (R297). -/
def flipStored (w : Stored) (fd : Dword) (fc : Half) : Stored :=
  { d := w.d ^^^ fd, p := w.p ^^^ fc.truncate 8, q := w.q ^^^ (fc >>> 8).truncate 8 }

/-- A word with P0 and P1 inverted, which reads as uncorrectable (R222). -/
def spoilWord (w : Stored) : Stored := { w with p := w.p ^^^ 0x03#8 }

end Sys2Proof
end

