-- ==== Sys2Proof/Machine/State.lean ====
section
/-! DEFINITION. The state of the FLM-880 as plain data, its state after reset, and the reasons a step can stop.
Every register of the spec is a field here or a view computed from these fields by the read function of BAR0. -/

namespace Sys2Proof.Machine

/-- No command of this model ends in a fault: the block reports what goes wrong in its own state (a trapped pan, a
halted tenant or channel, a log entry). The one constructor is raised by nothing, which is safe. -/
inductive Fault
  | none
deriving DecidableEq, Repr

/-- Why a command has no meaning. -/
inductive Refusal
  /-- Raised by an arm of exec whose command has no meaning yet; safe, since it stops the run. -/
  | notModelled (mnemonic : String)
deriving DecidableEq, Repr

/-- Stored bytes by key (data and check bytes, R277), in the canonical form of Memory.wf; an unlisted byte is 0. -/
abbrev Memory := List Host.Cell

/-! ### Pan (R45, R76 to R79) -/

/-- PAN_STAT.STATE (R78). RUN and STALL differ in whether the last issue attempt went through. -/
inductive PanState
  | off | run | stall | ended | trapped | paused | selftest
deriving DecidableEq, Repr

/-- A load issued and not yet returned (R58, R70): LD into a G register, VLD into a V register. `ue` is set when a word
read was uncorrectable, and then the load raises DATA_UE on return. -/
structure PanLoad where
  vector : Bool
  reg : Reg5
  addr : Dword
  pc : Dword
  data : List Dword
  ue : Bool
deriving DecidableEq, Repr

/-- A store issued and not yet written by its bank (R58): whole words at consecutive keys. -/
structure PanStore where
  quad : Bool
  word : Nat
  data : List Dword
deriving DecidableEq, Repr

/-- A B buffer (R80, R101): the recorded format state and per-tensor scales, the packed tile and its scale bytes. -/
structure BBuf where
  fa : BitVec 4
  fb : BitVec 4
  sc : BitVec 2
  sa : Word
  sb : Word
  d512 : Bool
  mldbt : Bool
  loaded : Bool
  loading : Bool
  reading : Bool
  /-- Tick up to which the latest stream that took the buffer reads it (R65, R66). -/
  readEnd : Dword
  tile : List Byte
  scales : List Byte
deriving DecidableEq, Repr

/-- What one queued M operation does (R64), with the G values and the memory it read at issue (R70). `bad` is the address
that failed, with whether it was uncorrectable or out of range: the late trap raised at the start (R72). -/
inductive MOp
  | msca (rows : Nat) (scales : List Byte) (bad : Option (Dword × Bool))
  | mldb (bs : BitVec 1) (tile : List Byte) (scales : List Byte) (bad : Option (Dword × Bool))
  | mldbt (tb : BitVec 2) (row : Byte) (bs : BitVec 1)
  | mfmt (fa fb : BitVec 4) (sc : BitVec 2) (gs : Reg5)
  | mmv (va vd : Reg5) (n : Nat) (acc out : Bool) (bs : BitVec 1)
  | mmt (ta td : BitVec 2) (srow drow : Byte) (n : Nat) (acc out : Bool) (bs : BitVec 1)
deriving DecidableEq, Repr

/-- An operation queued in an engine: its bundle, and the registers it reads and writes, by code (R54). -/
structure MEntry where
  op : MOp
  pc : Dword
  reads : List Nat
  writes : List Nat
deriving DecidableEq, Repr

/-- Where a stream's D rows go (R67). -/
inductive MDest
  | vec (vd : Reg5)
  | tile (td : BitVec 2) (drow : Byte)
deriving DecidableEq, Repr

/-- An M operation that has started. A stream holds the A rows, the B buffer and the A scales it took at its start. -/
inductive MRun
  | fmt
  | scale (rows : Nat) (scales : List Byte)
  | load (bs : BitVec 1) (buf : BBuf)
  | stream (bs : BitVec 1) (rows : List (List Byte)) (buf : BBuf) (asc : List Byte) (dst : MDest) (acc out : Bool)
deriving DecidableEq, Repr

structure MFly where
  run : MRun
  writes : List Nat
deriving DecidableEq, Repr

/-- What one queued E operation does (R68). -/
inductive EOp
  | erun (cwi : BitVec 6) (vs vd vb : Reg5) (n : Nat)
  | erunt (cwi : BitVec 6) (ts td : BitVec 2) (srow drow : Byte) (n : Nat) (vb : Reg5)
  | ecwld (cw : BitVec 6) (entries : List (List Byte)) (bad : Option (Dword × Bool))
  | eyclr (yr : BitVec 3)
deriving DecidableEq, Repr

structure EEntry where
  op : EOp
  pc : Dword
  reads : List Nat
  writes : List Nat
deriving DecidableEq, Repr

/-- What an E operation in flight will write: V registers and tile rows by number, a Y register, chain-table entries
with whether each is valid, and its special-value counts (R123, R133). -/
structure EResult where
  v : List (Nat × List Word)
  t : List (Nat × List Word)
  y : Option (BitVec 3 × Dword)
  cw : List (Nat × List Byte × Bool)
  nan : Nat
  inf : Nat
  sat : Nat
  nanz : Nat
deriving DecidableEq, Repr

structure EFly where
  res : EResult
  writes : List Nat
deriving DecidableEq, Repr

/-- The WAIT, WAITN or GATE outstanding (R63, R316: one waiter slot for each pan). A dropped one stays outstanding (R306,
R313). -/
inductive PanWait
  | none
  /-- WAIT or WAITN: the destination register. -/
  | tally (rd : Reg5)
  | gate
deriving DecidableEq, Repr

/-- A copy handed to a pan channel (R69): the addresses of its descriptors and its completion tally. -/
structure PanCopy where
  gs : BitVec 29
  gd : BitVec 29
  sig : Option TlyIx
deriving DecidableEq, Repr

/-- State of a channel (R186, R187). -/
inductive ChanState
  | idle | active | halted | stopped
deriving DecidableEq, Repr

/-- A pan's copy channel (R161, R182, R186). -/
structure PanChan where
  queue : List PanCopy
  /-- The copy in progress. -/
  cur : Option PanCopy
  state : ChanState
  /-- A copy was refused: the tenant halts at its next boundary tick (R150). -/
  refused : Option Byte
  err : Byte
  ovlp : Bool
  tswap : Bool
  haltTide : Word
  haltRmw : Bool
  haltDaddr : BitVec 29
  haltRegion : Half
  haltOff : BitVec 40
  /-- Copies that a halted channel discards: those queued at the halt and the CPYs issued after it (R182). -/
  lost : List PanCopy
  /-- The private copy of the descriptors of the copy in progress: source and destination, each with its companion (R148). -/
  privSrc : List Byte
  privDst : List Byte
  bytes : Dword
  /-- Bytes written so far in this tide. -/
  bytesNow : Dword
  busyLast : Word
  busyMax : Word
  busyNow : Word
  startTick : Dword
  /-- Writes of the copy in progress to mirrored regions, sent when it completes (R381): region, byte offset, bytes. -/
  mirrored : List (Half × Nat × List Byte)
deriving DecidableEq, Repr

/-- One physical pan. -/
structure Pan where
  state : PanState
  spare : Bool
  stFail : Bool
  retired : Bool
  degraded : Bool
  /-- Tenant and logical pan bound (R78). -/
  tenant : Option TenIx
  lpan : Option (Fin 32)
  g : Tab Dword
  y : Tab Dword
  /-- V registers: lane i of V r at key 256 r + i. -/
  v : Tab Word
  /-- Tile buffers: lane i of row r of T t at key 256 (256 t + r) + i. -/
  t : Tab Word
  fa : BitVec 4
  fb : BitVec 4
  sc : BitVec 2
  sa : Word
  sb : Word
  buf0 : BBuf
  buf1 : BBuf
  /-- Accumulator rows: lane i of row r at key 256 r + i. -/
  acc : Tab Word
  /-- The A-scale store's bytes, 8 to an entry. -/
  ascale : List Byte
  ascaleCount : Byte
  ascalePtr : Byte
  /-- Chain-table entries, 64 bytes each; absent when invalid (R68). -/
  cw : Tab (List Byte)
  cwValid : Dword
  mq : List MEntry
  mfly : List MFly
  eq : List EEntry
  efly : List EFly
  loads : List PanLoad
  stores : List PanStore
  wait : PanWait
  /-- SCOPE of a FENCE not yet complete (R308). -/
  fence : Option (BitVec 4)
  /-- ENDB has issued (R63). -/
  endIssued : Bool
  /-- A body has been started and its unit has not been stopped since (R20). -/
  inBody : Bool
  /-- The bundle now issuing has shown its S slot: STEP issues one bundle (R77). -/
  stepping : Bool
  pc : Dword
  /-- A slot of the bundle at `pc` has been given and its S slot has not (log entry 3). -/
  mid : Bool
  /-- That bundle, and which of its slots have issued: bit 0 S, 1 M, 2 E, 3 C (R52). -/
  midB : Bundle
  midSlots : BitVec 4
  /-- The SRAM row last fetched, so that a corrected word of it is counted once. -/
  fetched : Option Nat
  trapTide : Word
  trapErr : Byte
  trapCause : BitVec 4
  trapSlot : BitVec 2
  trapPc : BitVec 28
  trapAddr : Dword
  partBase : Dword
  partLimit : Dword
  quad : QuadIx
  quadBase : Dword
  quadLimit : Dword
  codeBase : Dword
  tlyBase : BitVec 12
  gateBase : Byte
  pauseReq : Bool
  stall : Dword
  busyLast : Word
  busyMax : Word
  boundaryTick : Dword
  mmaRows : Dword
  mmaBusyLast : Word
  mmaBusyMax : Word
  mmaBusyNow : Word
  /-- Cycle, two to a tick, up to which the array streams the rows counted in mmaBusyNow (R102). -/
  mmaUntil : Dword
  specNan : Word
  specInf : Word
  echBusyLast : Word
  echBusyMax : Word
  echBusyNow : Word
  /-- Pan cycle up to which ECH_BUSY has counted chain operations in flight (R133). -/
  echUntil : Dword
  echNan : Half
  echInf : Half
  echSat : Half
  echNanz : Half
  /-- Corrected-error count of the pan's SRAM for retirement (R399). -/
  ceCount : Nat
  chan : PanChan
deriving DecidableEq, Repr

/-! ### Tenants and the slice table (R13 to R43, R393) -/

/-- GOV_TIDE_STAT.STATE (R41). -/
inductive TenState
  | empty | loaded | running | slicedOut | quiesced | halted
deriving DecidableEq, Repr

/-- A gear descriptor (R33). -/
structure Gear where
  gear : BitVec 3
  role : Byte
  memClk : Byte
  refresh : Bool
  actBanks : Half
  sramPerPan : Dword
  powerMw : Word
  /-- The proved bound of each body, in ticks (R33). -/
  bounds : List Word
deriving DecidableEq, Repr

/-- A region of a tenant: the bytes allocated to it and where it lies (R136, R252). -/
structure Region where
  limit : Nat
  place : Place
  mirrored : Bool
  /-- The placer's map: the byte at which each shard begins (R145). -/
  map : List Nat
deriving DecidableEq, Repr

/-- A harvest stream of a tenant (R357 to R363). -/
structure Stream where
  req : StreamReq
  ring : Option RingIx
  /-- Next slot of the area that Rilef takes, and the producing tide of each slot signalled and not taken (R359). -/
  nextSlot : Nat
  tides : List Dword
  made : Dword
  /-- Records held in the replay store, oldest first, each by the 64-byte pieces of the store that it takes. -/
  held : List (List Nat)
  /-- The stream has been bound to a ring since load (SEQ starts then). -/
  started : Bool
deriving DecidableEq, Repr

/-- A sequence slot (R396). -/
structure SeqSlot where
  req : SeqSlotReq
  /-- Blocks bound to every pair. -/
  blocks : Nat
  /-- A growth decided at a boundary tick and bound at the next (R396). -/
  due : Bool
  /-- Largest LEN that the controllers have read since the last boundary tick, if they have read one. -/
  maxLen : Option Nat
deriving DecidableEq, Repr

/-- One reading of an attention record, used by every command of its pair in the tide (R232). -/
structure AttnRead where
  record : Nat
  len : Nat
  qsig : Word
  qrow : List Byte
  /-- The pair's commands are skipped for the tide (R232, R234). -/
  skip : Bool
deriving DecidableEq, Repr

/-- A placement move in progress (R401). -/
structure Move where
  what : MoveWhat
  copied : Bool
deriving DecidableEq, Repr

structure Tenant where
  state : TenState
  tideUs : Half
  bodyCount : Nat
  groups : Nat
  ctrlShare : Nat
  sramPerPan : Dword
  qsramPerGroup : Dword
  dramBytes : Nat
  digest : List Byte
  gears : List Gear
  /-- Gears of the eligible set (R395). -/
  elig : Byte
  img : ImageReq
  bind : Binding
  regions : List Region
  streams : List Stream
  slots : List SeqSlot
  budget : Nat
  minBudget : Nat
  shrink : Bool
  /-- A budget that takes effect at the next boundary tick (R393). -/
  newBudget : Option (Nat × Nat × Bool)
  /-- A trim that takes effect at the slot's next boundary tick (R398). -/
  trims : List (Nat × Nat)
  sliced : Bool
  weight : Half
  /-- Number of the current tide, number of idle tides passed, and whether a first tide has begun. -/
  tide : Dword
  idle : Dword
  begun : Bool
  /-- A tide is in progress. -/
  inTide : Bool
  idleNow : Bool
  body : Nat
  gear : BitVec 3
  /-- Gear requested for the next tide, and the gear committed at the commit tick (R29). -/
  nextGear : BitVec 3
  commitGear : BitVec 3
  anchor : Dword
  quiesceHost : Bool
  quiesceThermal : Bool
  quiesceFence : Bool
  /-- The tenant halts at its next boundary tick with this code logged (R150, R212, R234, R306). -/
  haltCode : Option Byte
  /-- Logical pan of the refused copy whose code stands in `haltCode` (R150). -/
  haltUnit : Option (Fin 32)
  /-- Shift tides are due until the controllers report (R31). -/
  shift : Bool
  moves : List Move
  /-- Non-idle tides since the last throttle idle tide (R407). -/
  sinceThrottle : Nat
  /-- HARVEST_STORE_FULL already logged in this run of idle tides (R362). -/
  storeFull : Bool
  hot : Bool
  attn : List AttnRead
  /-- Next entry of each pond stream table in the current tide. -/
  planPos : Tab Nat
  /-- By bank, one more than the tag of the last command that the tide's tables wrote to it (R212). -/
  planTags : Tab Nat
  /-- Tables whose end-of-table status read found a fault in the current tide (R307). -/
  planFault : List Nat
  /-- Pseudo-channels that were in pond mode when the tenant left at a turnover (R38). -/
  pondModes : List (StackIx × PcIx)
  lag : Byte
  mirroredValid : Bool
  mirroredTide : Word
  /-- Mirrored bytes since the last record (R381). -/
  mirrorBytes : Word
deriving DecidableEq, Repr

/-- What a logical pan keeps from load on whichever pan serves it: what a turnover saves, V0 to V31, T0 to T3 and the copy
channel (R38), and the registers that count for the tenant: the last trap and the counts since load and of the last tide
(R79, R102, R133). -/
structure SavedPan where
  v : Tab Word
  t : Tab Word
  chan : PanChan
  trapTide : Word
  trapErr : Byte
  trapCause : BitVec 4
  trapSlot : BitVec 2
  trapPc : BitVec 28
  trapAddr : Dword
  stall : Dword
  busyLast : Word
  busyMax : Word
  boundaryTick : Dword
  mmaRows : Dword
  mmaBusyLast : Word
  mmaBusyMax : Word
  mmaBusyNow : Word
  echBusyLast : Word
  echBusyMax : Word
  echBusyNow : Word
deriving DecidableEq, Repr

/-- The slice table (R36 to R40). -/
structure SliceSt where
  table : List SliceEntry
  cur : Nat
  cycles : Word
  turnover : Bool
  next : Option (List SliceEntry)
  /-- Tenants loaded while the table in force, built for an earlier tenant of that number, still stands (R35, R38). -/
  barred : Half
  /-- Tick at which the current entry began. -/
  begun : Dword
  /-- Save areas of leaving tenants, by tenant and logical pan: 32 t + lpan (R38). -/
  saved : Tab SavedPan
deriving DecidableEq, Repr

/-! ### Synchronisation store (R298 to R321) -/

structure Tally where
  value : Word
  owner : BitVec 5
  hand : Bool
deriving DecidableEq, Repr

/-- Who arrives on a port of a gate: a mailbox command, or the service of a core (R310). -/
inductive Arriver
  | mailbox (slot : MbxIx)
  | core (c : Fin 4)
deriving DecidableEq, Repr

structure GateSt where
  owner : BitVec 5
  gen : Word
  mask : Word
  ports : BitVec 4
  /-- Counts of the pans, 0 or 1 each (R312). -/
  arr : Word
  /-- Counts of ports 0 to 3. -/
  pcnt : Tab Nat
  held : BitVec 4
  ovr : Half
  /-- Held arrivals by port: who waits for the answer, and the tick of the arrival (R312, R316). -/
  withheld : Tab (Arriver × Dword)
deriving DecidableEq, Repr

structure Signal where
  tly : TlyIx
  n : Nat
  src : SigSource
deriving DecidableEq, Repr

/-- A waiter (R302, R316). -/
structure Waiter where
  pan : PanIx
  tenant : TenIx
  lpan : Fin 32
  tly : TlyIx
  consuming : Bool
  issue : Dword
  expiry : Option Nat
deriving DecidableEq, Repr

/-- A wait of a system control core (R300, R316). -/
structure CoreWait where
  core : Fin 4
  tly : TlyIx
  consuming : Bool
  issue : Dword
  expiry : Option Nat
deriving DecidableEq, Repr

/-- A pan waiting in a gate (R311, R316). -/
structure GateWaiter where
  pan : PanIx
  tenant : TenIx
  lpan : Fin 32
  gate : GateIx
  gen : Word
  issue : Dword
deriving DecidableEq, Repr

/-- A hand operation waiting for step 1 of the next tick (R317). -/
inductive HandOp
  | tlySet (t : TlyIx) (v : Word)
  | tlySig (t : TlyIx) (v : Word)
  | gateRel (g : GateIx)
  | gateRst (g : GateIx)
deriving DecidableEq, Repr

/-- What a snapshot holds (R314 to R316). -/
structure SnapShot where
  source : Half
  tick : Dword
  cal : Word
  tallies : Tab Tally
  gates : Tab GateSt
  waiters : List Waiter
  coreWaits : List CoreWait
  gwaiters : List GateWaiter
  entries : List (TenIx × TlyIx × Dword)
deriving DecidableEq, Repr

/-- Where a pending snapshot goes: the dump window alone, a mailbox response and region, or the service port. -/
inductive SnapFor
  | register
  | mailbox (slot : MbxIx)
  | triyx
deriving DecidableEq, Repr

structure SyncSt where
  tallies : Tab Tally
  gates : Tab GateSt
  flight : List Signal
  arrived : List Signal
  /-- Pan arrivals and port arrivals (with whom to answer) that reach the store in this tick. -/
  panArrive : List GateWaiter
  portArrive : List (GateIx × Fin 4 × Arriver)
  waiters : List Waiter
  coreWaits : List CoreWait
  gwaiters : List GateWaiter
  /-- Entry conditions that tenants wait for, with the boundary tick that first found them unmet (R17, R316). -/
  entries : List (TenIx × TlyIx × Dword)
  /-- BAR0 hand operations, then Triyx hand operations (R449). -/
  handBar0 : List HandOp
  handTriyx : List HandOp
  newPorts : List (GateIx × BitVec 4)
  /-- Snapshots requested, each recorded at the end of its tick, not yet complete. -/
  snapReq : List SnapFor
  snapTaken : List (SnapFor × SnapShot)
  window : Option SnapShot
  snaps : Word
  handDone : Word
  handReject : Half
deriving DecidableEq, Repr

/-! ### Logs and integrity (R290 to R297) -/

/-- A log entry (R291). An error entry's memory fields stand in `detail` from offset 0x10. -/
structure LogEntry where
  tick : Dword
  cal : Word
  code : Byte
  kind : Byte
  count : Half
  detail : List Byte
  tenant : Byte
  tide : Word
  /-- Memory key of the word an error entry is about (0 for events). -/
  key : Nat
  /-- The entry's four words as the log's memory stores them, ten bytes to a word, check bits included (R276). -/
  stored : List Byte
deriving DecidableEq, Repr

structure LogSt where
  errors : Tab LogEntry
  erHead : Nat
  erCount : Nat
  erOvf : Half
  events : Tab LogEntry
  evHead : Nat
  evCount : Nat
  evOvf : Half
  stPond : Half
  stSram : Byte
  sparesFilled : Bool
  dramFilled : Bool
  sramFilled : Bool
  stDone : Bool
  ceDram : Word
  ceSram : Word
  ueDram : Word
  ueSram : Word
  rakePeriod : Half
  rakeSweep : Bool
  rakeEn : Bool
  /-- Addresses awaiting rewrite, oldest first (R293). -/
  rakePending : List Nat
  rakeFixed : Word
  rakeSweeps : Half
  rakeSkip : Word
  /-- Uncorrectable addresses kept in the rake list (R284). -/
  rakeList : List Nat
  injD : Dword
  injC : Half
  injArm : Bool
  injMem : BitVec 2
  injUnit : BitVec 6
  injBank : Byte
deriving DecidableEq, Repr

/-! ### System channels (R161 to R187) -/

structure SysChan where
  queue : List SysReq
  cur : Option SysReq
  /-- The request in progress has ended with this code (0 for completed) and waits for its completion action. -/
  done : Option Byte
  state : ChanState
  enable : Bool
  err : Byte
  haltRegion : Half
  haltOff : BitVec 40
  bytes : Dword
  mirrored : List (Half × Nat × List Byte)
deriving DecidableEq, Repr

/-- The DESC_ registers of one tenant (R160). -/
structure DescRegs where
  count : Half
  err : Byte
  role : BitVec 2
  sys : Bool
  chan : BitVec 5
  addr : Word
  oor : Word
  drop : Word
deriving DecidableEq, Repr

/-! ### Stacks, pond units and memory controllers (R188 to R275) -/

/-- A pond command with its opcode, its tag and the tenant it serves. -/
structure PondRun where
  op : BitVec 6
  tag : BitVec 4
  cmd : PondCmd
  ten : Option TenIx
deriving DecidableEq, Repr

/-- A pond unit (R192, R210). -/
structure Unit where
  w : Tab Byte
  wPoison : Word
  a : Tab Word
  aPoison : Tab Bool
  latch : List (Word × Bool)
  holding : Option PondRun
  running : Option PondRun
  /-- The latch values that a running CRECV took, written when it ends (R204, R221). -/
  carry : List (Word × Bool)
  /-- Status the running command will end with. -/
  runStat : BitVec 4
  /-- Payload words of a running LDW still to come, and payload that a held LDW holds (R201). -/
  payload : Nat
  heldPay : List (List Byte × Bool)
  tag : BitVec 4
  lop : BitVec 6
  stat : BitVec 4
  corr : Half
  uec : Half
  ueaddr : BitVec 20
  win : BitVec 3
deriving DecidableEq, Repr

/-- An open payload window of a segment (R201). -/
structure Window where
  tag : BitVec 4
  bmask : Half
  wbase : Nat
  left : Nat
  next : Nat
deriving DecidableEq, Repr

/-- A row or column command in a retry buffer (R266). A write holds its column with check bits; so do the writes to command
rows, a pond command and a payload, which their bytes determine. With these two stands what they replaced, should the stack never
accept them (R215): each unit reached; the window and, for each of its units, the W register. -/
inductive SentCmd
  | activate (b : BankIx) (row : Nat)
  | precharge (b : BankIx)
  | refresh (b : BankIx)
  | read (b : BankIx) (l : Nat)
  | write (b : BankIx) (l : Nat) (stored : List Byte)
  /-- A command column: what stood before in the units of its BMASK, and the window that it closed with the units of that
  window. -/
  | pond (g : SegIx) (run : PondRun) (was : List Unit) (closed : Window) (cut : List Unit)
  | payload (g : SegIx) (w : Window) (data : List Byte) (was : List (List Byte × Bool))
  | result (b : BankIx) (col : Fin 32)
deriving DecidableEq, Repr

/-- Per-bank controller state (R250, R257). -/
structure BankSt where
  openRow : Option Half
  keep : Bool
  owed : Nat
  refreshing : Bool
  /-- Corrected-error count (R399), retirement and degraded service (R400). -/
  ceCount : Nat
  retired : Bool
  degraded : Bool
  /-- An ordinary access waited for the command that ended, ahead of the held one (R213). -/
  waiting : Bool
  /-- Who reached the bank in the middle of a command and waits to come again, beside the queued requests (R213). -/
  asked : List (Option ReqSource)
  /-- The bank is in a training step, not in a refresh (R261). -/
  train : Bool
  /-- A refresh more fell due while the bank owed eight and was being refreshed (R259). -/
  late : Bool
  /-- Tick of the last access that left the row open under KEEP (R250). -/
  lastUse : Dword
deriving DecidableEq, Repr

/-- A queued request: its class now, its arrival tick in that class, and whether it was promoted into SCHED. -/
structure Queued where
  req : DramReq
  cls : SvcClass
  since : Dword
  promoted : Bool
deriving DecidableEq, Repr

/-- A write queue entry: a column with the stored bytes of its four words, check bytes included (R254). -/
structure WqEntry where
  sid : Fin 4
  bank : Fin 16
  row : Half
  col : Fin 32
  data : List Byte
deriving DecidableEq, Repr

/-- DMC_STAT.MODE (R275). -/
inductive DmcMode
  | run | training | selfRefresh | clockChange
deriving DecidableEq, Repr

structure Stack where
  /-- Bits per pseudo-channel: pond mode, injection, a POND = 0 waiting for idle units, failed. -/
  pond : Dword
  inj : Dword
  exiting : Dword
  pcFail : Dword
  /-- SPMAP j of die d at key 8 d + j, and SPVAL of die d (R224). -/
  spmap : Tab Byte
  spval : Tab Byte
  queue : List Queued
  /-- Write queue of each pseudo-channel. -/
  wq : Tab (List WqEntry)
  memClk : Byte
  refX2 : Bool
  hot : Bool
  order : BitVec 2
  defer : Option Byte
  newClk : Byte
  mode : DmcMode
  ageMaint : Half
  ageNet : Half
  ageHost : Half
  forced : Word
  maxOwed : BitVec 4
  passes : Word
  discard : Half
  retry : Half
  /-- Consecutive failed passes of each pseudo-channel (R265). -/
  failRun : Tab Nat
  replays : Word
  lastPc : BitVec 6
  /-- Consecutive alerts of each pseudo-channel on one command of its retry buffer (R268): 16 × count + place. -/
  alerts : Tab Nat
  /-- The retry buffer of each pseudo-channel: the last 16 commands sent, oldest first (R266). -/
  sent : Tab (List SentCmd)
  fwd : Word
  merge : Word
  toNet : Half
  toHost : Half
  toSched : Half
  pasr0 : Dword
  pasr1 : Dword
  peak : BitVec 9
  peakDie : BitVec 4
  errCount : Half
  errCode : Byte
  errOp : BitVec 6
  errStat : BitVec 4
  errTag : BitVec 4
  errDie : BitVec 4
  errBank : Byte
  chkUe : Word
  chkCorr : Word
  cmds : Dword
  /-- Initialised and trained. -/
  ready : Bool
  /-- The full pass that a clock change or the end of self-refresh takes has found every eye or given it up (R263, R272). -/
  trained : Bool
  /-- Tick at which the clock change began (R263). -/
  changeTick : Dword
deriving DecidableEq, Repr

structure DramSt where
  stk : Tab Stack
  /-- Pond units by (stack × 16 + die) × 264 + physical bank, spare j being bank 256 + j. -/
  units : Tab Unit
  banks : Tab BankSt
  /-- Open payload windows by segment number (stack × 64 + q) × 4 + sid. -/
  windows : Tab Window
  /-- Sequence number modulo 16 of the next command of each segment (R199). -/
  tags : Tab Nat
deriving DecidableEq, Repr

/-! ### Queues (R322 to R340) -/

/-- An entry of a queue: its data, the parity bit written with it and the last-word mark of its packet (R322, R324). `more` holds
the bits above the lowest 64 of a wider entry. -/
structure QEntry where
  word : Dword
  more : List Dword
  parity : Bool
  last : Bool
deriving DecidableEq, Repr

/-- A queue (R322 to R324): its entries, the write, commit and read pointers, which wrap modulo twice the depth, the consumer's
copy of CP and the producer's copy of RP as Gray codes (R328, R329), and a flush asked for (R331). -/
structure Queue where
  mem : Tab QEntry
  wp : Nat
  cp : Nat
  rp : Nat
  cpSeen : Nat
  rpSeen : Nat
  flushReq : Bool
deriving DecidableEq, Repr

/-- HOST_QERR of one instance (R339). -/
structure QErr where
  par : Half
  drop : Half
  flush : Half
  hwm : BitVec 13
deriving DecidableEq, Repr

/-! ### Host coupling (R341 to R371) -/

inductive Attach
  | attached | detached | quiescing | quiesced
deriving DecidableEq, Repr

/-- A mailbox command accepted and not yet answered (R353): the copy of its slot, and the STATUS and RESULT of a
background command that has ended and whose response is still to be written (R354). -/
structure Accepted where
  image : List Byte
  result : Option (Byte × List Byte)
deriving DecidableEq, Repr

/-- An ingest lane (R345 to R351). -/
structure Lane where
  valid : Bool
  owner : BitVec 5
  tly : BitVec 12
  region : Half
  off : Dword
  limit : Dword
  /-- Staged bytes not yet drained, in arrival order: the region byte offset that each goes to. Their values lie in the lane's
  staging buffer in quadrant SRAM, the oldest at position `stageAt` (R345). -/
  staged : List Nat
  stageAt : Nat
  /-- A staged byte was lost in a halted drain: what was delivered before a later doorbell is never complete (R348). -/
  lost : Bool
  /-- Doorbells rung and not signalled, each with how many staged bytes lie before it. -/
  bells : List (Word × Nat)
  done : Word
  token : Word
  unbound : Word
  oob : Word
  /-- Open windows of 1 ms: the tick of their first drop and the drops counted since (R347). -/
  winUnbound : Option (Dword × Nat)
  winOob : Option (Dword × Nat)
deriving DecidableEq, Repr

inductive RingState
  | idle | run | held | error
deriving DecidableEq, Repr

/-- A harvest ring (R358 to R363). -/
structure Ring where
  valid : Bool
  flushRd : Bool
  keep : Bool
  state : RingState
  tenant : TenIx
  stream : Byte
  log2 : BitVec 5
  recsz : Word
  base : Dword
  flag : Dword
  head : Dword
  sent : Dword
  /-- SEQ behind which the ring goes on to write: HRV_SENT, or HRV_HEAD once records are to be sent again (R358, R369, R370). -/
  next : Dword
  /-- SEQ of the newest record written whose flag waits for a flush read (R361). -/
  flushing : Option Dword
deriving DecidableEq, Repr

/-- A system region (R136): owner Rilef, its bytes and place. -/
structure SysRegion where
  limit : Nat
  place : Place
deriving DecidableEq, Repr

structure HostSt where
  linkUp : Bool
  width : Byte
  speed : BitVec 4
  flit : Bool
  cache : Bool
  retrains : Word
  downs : Half
  seqLost : Bool
  storeHi : Bool
  attach : Attach
  /-- An attach written while QUIESCING (R369). -/
  attachPend : Bool
  crash : Bool
  /-- Crash mode of the next host loss (R355), and the PERST# mapping. -/
  perstSys : Bool
  bar2Rd : Word
  bar0Drop : Word
  compat : Bool
  respq : Queue
  /-- Notices that stall for room in HOST_RESPQ, each with whether its command asked for MSI-X (R326). -/
  respWait : List (Dword × Bool)
  evq : Queue
  /-- Mailbox doorbells (instance 2). -/
  mbxq : Queue
  /-- Instances 3 to 43 by number. -/
  queues : Tab Queue
  qerr : Tab QErr
  slots : Tab Byte
  accepted : Tab Accepted
  pend : Dword
  hnext : Dword
  dnext : Dword
  journal : Tab (List Byte)
  lanes : Tab Lane
  rings : Tab Ring
  storeStalls : Word
  regions : Tab SysRegion
  msix : Tab Dword
  msixPend : Word
deriving DecidableEq, Repr

/-! ### What the card puts on its outside ports -/

/-- A final line (R443): the error code or none for OK, the count of data lines, the optional text. -/
structure FinalLine where
  err : Option Byte
  lines : Nat
  text : List Byte
deriving DecidableEq, Repr

inductive Out
  /-- A read completion returned to the host. -/
  | readData (v : Dword)
  /-- A posted write to host memory. -/
  | hostWrite (addr : Dword) (data : List Byte)
  /-- A read of host memory sent (the flush read of R361). -/
  | hostRead (addr : Dword)
  /-- The notice of a commit: the wake-up of the consumer, by instance, and a port's frame-ready signal (R325). -/
  | wake (instance_ : Nat)
  | frameReady (port : PortIx)
  /-- A RdCurr of the 64-byte line at a host address (R364). -/
  | rdCurr (addr : Dword)
  | msix (vector : Fin 32)
  | snoopResp
  /-- A configuration completion: Retry Status, or the register of that offset. -/
  | cfgRetry
  | cfgData (v : Word)
  /-- An Ethernet answer. -/
  | nak (port : PortIx) (qp : Fin 64) (syndrome : Byte)
  | ack (port : PortIx) (qp : Fin 64)
  | readResp (port : PortIx) (qp : Fin 64) (data : List Byte)
  | pfc (port : PortIx) (xoff : Bool)
  /-- Rilef's answer to ARP, neighbour discovery or echo (R372). -/
  | ethAnswer (port : PortIx)
  /-- The answer to the held arrival of a core's service (R312, R317). -/
  | gateAnswer (core : Fin 4) (gate : GateIx) (code : Byte)
  /-- A congestion notification packet of a queue pair (R374), and the identity digest sent at pairing (R389). -/
  | cnp (port : PortIx) (qp : Fin 64)
  /-- A message whose words failed their parity check in the transmit queue goes out with a bad FCS (R337). -/
  | badFcs (port : PortIx)
  | identity (digest : List Byte)
  | mirrorRecord (t : TenIx) (data : List Byte)
  | mirrorWrite (t : TenIx) (region : Half) (off : Nat) (data : List Byte)
  | mirrorAckOut (t : TenIx) (tide : Dword)
  /-- A Triyx data line, final line or notice, as text values. -/
  | line (seq : Half) (words : List Dword)
  | finalLine (seq : Half) (f : FinalLine)
  | notice (kind : Byte) (v : Dword)
  /-- Lines that left the transmit queue with a character that failed its parity check: their CRC fails at the receiver (R337). -/
  | badLines
  | spdm (code : Byte) (data : List Byte)
  /-- What the debug port shifts out under IDCODE. -/
  | tdo (v : Word)
  /-- A column read from a stack or a result row; none where it is delivered poisoned (R211, R281). -/
  | dramData (stack : StackIx) (data : Option (List Byte))
  | rowData (data : Option (List Byte))
deriving DecidableEq, Repr

/-! ### Network and mirror (R372 to R392) -/

/-- A frame in a receive queue: its entries, the one of them, if any, that fails its parity check as it is read (R330),
whether the frame is marked for congestion (R374), and whether Rilef answers it (R372). -/
structure RxFrame where
  entries : Nat
  bad : Option Nat
  ecn : Bool
  service : Bool
deriving DecidableEq, Repr

structure NetKey where
  valid : Bool
  wr : Bool
  rd : Bool
  tly : Option (BitVec 12)
  region : Half
  gen : BitVec 24
  owner : Option TenIx
  koff : Nat
  klen : Nat
  /-- Tick at which ERR_NET_ACCESS was last logged for this entry (R376). -/
  winLog : Option Dword
deriving DecidableEq, Repr

/-- The WRITE whose packets a port takes (R374, R376): its queue pair, its key's entry as the first packet found it, where its
next byte goes, the bytes and packets to come, and whether it carries an immediate. -/
structure RxMsg where
  qp : Fin 64
  key : NetKey
  off : Nat
  data : List Byte
  left : Nat
  imm : Bool
  /-- The message is refused or lost: its packets are taken and move no byte; `nak` while the next one is to be answered with a
  sequence error. -/
  lost : Bool
  nak : Bool
deriving DecidableEq, Repr

structure PortSt where
  link : Bool
  fec : Bool
  module : BitVec 2
  xoff : Bool
  /-- Frames in the receive queue, oldest first; it has 4,096 entries. -/
  frames : List RxFrame
  /-- The message whose packets the port takes (R374, R376). -/
  cur : Option RxMsg
  /-- The partner has asked the port to stop (R372), and what stands in the transmit queue meanwhile, with its entries. -/
  txOff : Bool
  txq : List (Out × Nat)
  rxBytes : Dword
  txBytes : Dword
  icrc : Half
  access : Half
  seqErr : Half
  drop : Half
  cfgFlags : Byte
  vlan : Half
  pfc : Byte
  mac : List Byte
  ip : List Byte
deriving DecidableEq, Repr

inductive QpState
  | reset | ready | error
deriving DecidableEq, Repr

structure Qp where
  state : QpState
  mtu : Byte
  remote : Word
  psn : BitVec 24
  gid : List Byte
  /-- Tallies of accepted WRITEs with immediate whose signal is still to be sent. -/
  imm : List (Option TlyIx)
deriving DecidableEq, Repr

structure NetSt where
  ports : Tab PortSt
  keys : Tab NetKey
  qps : Tab Qp
deriving DecidableEq, Repr

inductive MirRole
  | unpaired | primary | secondary | taken | fenced
deriving DecidableEq, Repr

inductive MirSync
  | none | baseline | synced
deriving DecidableEq, Repr

/-- A mirrored write as the mirror buffer holds it (R382): its place in its region, its length, and its bytes with the check
bits of their words (R277). -/
structure MirWrite where
  ten : TenIx
  region : Half
  off : Nat
  len : Nat
  stored : List Byte
deriving DecidableEq, Repr

structure MirSt where
  role : MirRole
  sync : MirSync
  port : PortIx
  qp : Fin 64
  tenants : Half
  idMism : Bool
  hbto : Half
  lagmax : BitVec 6
  hbOut : Bool
  hbIn : Bool
  tkoOut : Bool
  tkoIn : Bool
  lastEdge : Dword
  lastPacket : Dword
  hbLost : Bool
  silent : Bool
  /-- Received writes not yet applied (R382). -/
  buffer : List MirWrite
  /-- The last applied record of each tenant. -/
  records : Tab (List Byte)
  /-- Mirrored data sent, awaiting acknowledgement: tenant and tide. -/
  unacked : List (TenIx × Dword)
  partner : List Byte
  /-- Writes and records of the mirror stream that SCH10 has yet to send (R161, R381). -/
  outq : List Out
deriving DecidableEq, Repr

/-! ### Placer, governor, sensors, calendar (R393 to R415) -/

structure PlcSt where
  retire : List RetireEntry
  growLeft : Nat
  quadFail : BitVec 4
  retireCe : Nat
  retirePan : Nat
  growRes : Nat
  /-- Where the replay store lies (R357; log entry 153). -/
  replay : Place
deriving DecidableEq, Repr

inductive GovState
  | normal | capped | throttle | hot | critical
deriving DecidableEq, Repr

structure GovSt where
  optCap : Half
  cap : Half
  hyst : Half
  depth : BitVec 5
  critical : Bool
  /-- P of the last window was at or above the cap. -/
  capped : Bool
  changes : Half
  power : Word
  /-- Sum and count of the input power samples of the window in progress. -/
  powerSum : Nat
  powerN : Nat
  low8 : Nat
  low64 : Nat
  /-- Consecutive windows in which every die and stack read cool, for the end of CRITICAL. -/
  coolRun : Nat
  /-- By tenant under the HOT rule: twice the consecutive windows at 82 °C or below, plus 1 where a sweep of the window in
  progress read more. -/
  hotRun : Tab Nat
  /-- A sweep of the window in progress read a die above 95 °C or a stack above 85 °C. -/
  warmNow : Bool
  throttledLogged : Bool
deriving DecidableEq, Repr

structure SenSt where
  die : Tab Half
  /-- Highest since the last read, none where no sweep has come since. -/
  dieMax : Tab (Option Half)
  stack : Tab Half
  stackMax : Tab (Option Half)
  railMv : Tab Half
  railMa : Tab Word
  inMv : Half
  inMa : Word
  cool : Half
  /-- Active bank-µs of each stack in the last window, and bank-ticks of the window under way (R403, R414). -/
  pond : Tab Word
  pondNow : Tab Nat
deriving DecidableEq, Repr

structure CalSt where
  sec : BitVec 49
  frac : BitVec 15
  /-- Ticks counted towards the next step of the fraction, times 32,768 (R409). -/
  acc : Nat
  epoch : Dword
  scap : Half
  set : Bool
  valid : Bool
  lossLatched : Bool
deriving DecidableEq, Repr

/-! ### Reset, clocks, options, pins (R416 to R440, R425, R470) -/

inductive Led
  | dark | lit | blink
deriving DecidableEq, Repr

/-- The SPI NOR (R432): the copies as the loader last found or wrote them. -/
structure Flash where
  opt0 : Option (Word × OptBlock)
  opt1 : Option (Word × OptBlock)
  ret0 : Option (Word × List RetireEntry)
  ret1 : Option (Word × List RetireEntry)
  fwA : Option (Word × List Byte)
  fwB : Option (Word × List Byte)
  /-- The card has read the option block and retirement record, and the firmware: what the copies hold is known. -/
  optRead : Bool
  fwRead : Bool
deriving DecidableEq, Repr

/-- An OSFP cage (R464): a module is present (PRSn low), its INT is asserted and not yet served, and its state over CMIS. -/
structure Cage where
  present : Bool
  int : Bool
  ready : Bool
  fault : Bool
  over30 : Bool
deriving DecidableEq, Repr

def Cage.empty : Cage := { present := false, int := false, ready := false, fault := false, over30 := false }

structure RstSt where
  /-- Asserted sources by code, and the reach each named. -/
  asserted : Byte
  reachOf : Tab Reach
  src : Byte
  first : BitVec 4
  lastReach : BitVec 2
  phase : BitVec 4
  fw : BitVec 2
  /-- System control cores that stopped at an uncorrectable word (R284). -/
  stopped : BitVec 4
  coreHeld : Bool
  sysHeld : Bool
  /-- The always-on domain is held in a power-on reset. -/
  poHeld : Bool
  /-- No time has passed since the source in FIRST asserted (R424). -/
  firstFresh : Bool
  /-- Tenant, channel and count of the copies that a reset abandoned, logged when the core reach is released (R184). -/
  abandoned : List (Option TenIx × Byte × Nat)
  /-- The reach being reset has DRAM contents lost (BROWNOUT or power-on). -/
  dramLost : Bool
  wdogExpiry : Word
  wdogTimeout : Half
  wdogArmed : Bool
  wdogOnce : Bool
  /-- HOST sources that assert 10 µs after their request (R419). -/
  hostPend : List Reach
  clkHeld : BitVec 60
  locks : Word
  lock : Bool
  optGen : Word
  optCopy : BitVec 2
  retCopy : BitVec 2
  r1Valid : Bool
  r0Valid : Bool
  c1Valid : Bool
  c0Valid : Bool
  opt : OptBlock
  flash : Flash
  /-- Rilef image in use: A false, B true; its bytes' copy in system control memory is good. -/
  fwSel : Bool
  fwCopyGood : Bool
  /-- Supplies and presence. -/
  standby : Bool
  main48 : Bool
  rails : Bool
  prsntLow : Bool
  perstLow : Bool
  rstNLow : Bool
  /-- The DRAM fill of R418 is still to run at the first LOAD_IMAGE. -/
  fillDue : Bool
  /-- What stands in the two cages: PRSn, INT, and what CMIS says of the module (R464). -/
  cages : Tab Cage
  ospfRstN : BitVec 2
  ospfLpwN : BitVec 2
  ledPwr : Led
  ledRun : Led
  ledFlt : Led
deriving DecidableEq, Repr

/-! ### Service port and debug (R441 to R456) -/

structure SvcSt where
  lseq : Option Half
  /-- The stored final line of the last accepted command (R445). -/
  final : Option FinalLine
  baud : BitVec 24
  auth : Bool
  /-- Lines that wait in the receive queue, oldest first (R445). -/
  queue : List TriyxLine
  /-- Ticks of 1.25 ns since the last command was taken (R448). -/
  sinceCmd : Nat
  nonce : Option (BitVec 128)
  active : Bool
  test : Option TestUnit
  /-- The SEQ of a TEST that a reset abandoned, whose final line is still to come (R450). -/
  testLost : Option Half
  baudPend : Option (BitVec 24)
  resetPend : Option Reach
  cCrc : Half
  cRefused : Half
  lines : Word
  /-- SPDM: algorithms settled. -/
  spdmVersion : Bool
  spdmAlgs : Bool
  jtag : BitVec 2
deriving DecidableEq, Repr

structure DbgSt where
  open_ : Bool
  byTriyx : Bool
  byHost : Bool
  opens : Word
  chal : Word
  /-- The challenge that the last read of DBG_CHAL returned (R454). -/
  lastRead : Option Word
deriving DecidableEq, Repr

/-- The whole card. -/
structure State where
  pending : List Instr
  tick : Dword
  free : Nat
  mem : Memory
  log : LogSt
  pans : Tab Pan
  sync : SyncSt
  ten : Tab Tenant
  slice : SliceSt
  sch : Tab SysChan
  desc : Tab DescRegs
  dram : DramSt
  host : HostSt
  net : NetSt
  mir : MirSt
  plc : PlcSt
  gov : GovSt
  sen : SenSt
  cal : CalSt
  rst : RstSt
  svc : SvcSt
  dbg : DbgSt
  out : List Out
deriving DecidableEq, Repr

/-! ### Reset values -/

def BBuf.reset : BBuf :=
  { fa := 0, fb := 0, sc := 0, sa := 0, sb := 0, d512 := false, mldbt := false, loaded := false, loading := false,
    reading := false, readEnd := 0, tile := [], scales := [] }

def PanChan.reset : PanChan :=
  { queue := [], cur := none, state := .idle, refused := none, err := 0, ovlp := false, tswap := false, haltTide := 0,
    haltRmw := false, haltDaddr := 0, haltRegion := 0, haltOff := 0, lost := [], privSrc := [], privDst := [], bytes := 0, bytesNow := 0,
    busyLast := 0, busyMax := 0, busyNow := 0, startTick := 0, mirrored := [] }

/-- A pan with its clock gated and nothing bound (R76 to R79). -/
def Pan.reset : Pan :=
  { state := .off, spare := false, stFail := false, retired := false, degraded := false, tenant := none, lpan := none,
    g := [], y := [], v := [], t := [], fa := 0, fb := 0, sc := 0, sa := 0, sb := 0, buf0 := BBuf.reset,
    buf1 := BBuf.reset, acc := [], ascale := [], ascaleCount := 0, ascalePtr := 0, cw := [], cwValid := 0, mq := [],
    mfly := [], eq := [], efly := [], loads := [], stores := [], wait := .none, fence := none, endIssued := false, inBody := false,
    stepping := false, pc := 0, mid := false,
    midB := { s := 0, m := 0, e := 0, c := 0 }, midSlots := 0, fetched := none, trapTide := 0, trapErr := 0, trapCause := 0, trapSlot := 0,
    trapPc := 0, trapAddr := 0, partBase := 0, partLimit := 0, quad := 0, quadBase := 0, quadLimit := 0, codeBase := 0,
    tlyBase := 0, gateBase := 0, pauseReq := false, stall := 0, busyLast := 0, busyMax := 0, boundaryTick := 0,
    mmaRows := 0, mmaBusyLast := 0, mmaBusyMax := 0, mmaBusyNow := 0, mmaUntil := 0, specNan := 0, specInf := 0, echBusyLast := 0,
    echBusyMax := 0, echBusyNow := 0, echUntil := 0, echNan := 0, echInf := 0, echSat := 0, echNanz := 0, ceCount := 0,
    chan := PanChan.reset }

def ImageReq.none : ImageReq :=
  { codeBase := [], regions := [], streams := [], tallies := 0, gates := [], entry := [], mirrorPoint := [], ponds := [],
    plan := [], slots := [], budget := 0, minBudget := 0, shrink := false, inits := [] }

def Binding.none : Binding :=
  { tenant := 0, rot := 0, pans := [], panBase := 0, quadBase := 0, places := [], maps := [], members := [], tlyBase := 0,
    gateBase := 0 }

/-- What a logical pan starts with at load: V and T of zeros (R474), a fresh channel, nothing counted. -/
def SavedPan.none : SavedPan :=
  { v := [], t := [], chan := PanChan.reset, trapTide := 0, trapErr := 0, trapCause := 0, trapSlot := 0, trapPc := 0,
    trapAddr := 0, stall := 0, busyLast := 0, busyMax := 0, boundaryTick := 0, mmaRows := 0, mmaBusyLast := 0,
    mmaBusyMax := 0, mmaBusyNow := 0, echBusyLast := 0, echBusyMax := 0, echBusyNow := 0 }

/-- No tenant (R41: EMPTY). -/
def Tenant.reset : Tenant :=
  { state := .empty, tideUs := 0, bodyCount := 0, groups := 0, ctrlShare := 0, sramPerPan := 0, qsramPerGroup := 0,
    dramBytes := 0, digest := [], gears := [], elig := 0, img := ImageReq.none, bind := Binding.none, regions := [],
    streams := [], slots := [], budget := 0, minBudget := 0, shrink := false, newBudget := none, trims := [],
    sliced := false, weight := 0, tide := 0, idle := 0, begun := false, inTide := false, idleNow := false, body := 0, gear := 0,
    nextGear := 0, commitGear := 0, anchor := 0, quiesceHost := false, quiesceThermal := false, quiesceFence := false,
    haltCode := none, haltUnit := none, shift := false, moves := [], sinceThrottle := 0, storeFull := false, hot := false, attn := [],
    planPos := [], planTags := [], planFault := [], pondModes := [], lag := 0, mirroredValid := false, mirroredTide := 0, mirrorBytes := 0 }

def SliceSt.reset : SliceSt :=
  { table := [], cur := 0, cycles := 0, turnover := false, next := none, barred := 0, begun := 0, saved := [] }

/-- An unassigned tally (R321). -/
def Tally.reset : Tally := { value := 0, owner := 0x1F, hand := false }

/-- An unassigned gate (R321). -/
def GateSt.reset : GateSt :=
  { owner := 0x1F, gen := 0, mask := 0, ports := 0, arr := 0, pcnt := [], held := 0, ovr := 0, withheld := [] }

def SyncSt.reset : SyncSt :=
  { tallies := [], gates := [], flight := [], arrived := [], panArrive := [], portArrive := [], waiters := [],
    coreWaits := [], gwaiters := [], entries := [], handBar0 := [], handTriyx := [], newPorts := [], snapReq := [], snapTaken := [], window := none,
    snaps := 0, handDone := 0, handReject := 0 }

/-- Logs empty, rake pass at the option defaults of R433. -/
def LogSt.reset : LogSt :=
  { errors := [], erHead := 0, erCount := 0, erOvf := 0, events := [], evHead := 0, evCount := 0, evOvf := 0,
    stPond := 0, stSram := 0, sparesFilled := false, dramFilled := false, sramFilled := false, stDone := false,
    ceDram := 0, ceSram := 0, ueDram := 0, ueSram := 0, rakePeriod := 24, rakeSweep := false, rakeEn := true,
    rakePending := [], rakeFixed := 0, rakeSweeps := 0, rakeSkip := 0, rakeList := [], injD := 0, injC := 0,
    injArm := false, injMem := 0, injUnit := 0, injBank := 0 }

def SysChan.reset : SysChan :=
  { queue := [], cur := none, done := none, state := .idle, enable := true, err := 0, haltRegion := 0, haltOff := 0,
    bytes := 0, mirrored := [] }

def DescRegs.reset : DescRegs :=
  { count := 0, err := 0, role := 0, sys := false, chan := 0, addr := 0, oor := 0, drop := 0 }

/-- A pond unit as R194 clears it. -/
def Unit.reset : Unit :=
  { w := [], wPoison := 0, a := [], aPoison := [], latch := [], holding := none, running := none, carry := [],
    runStat := 0, payload := 0, heldPay := [], tag := 0, lop := 0, stat := 0, corr := 0, uec := 0, ueaddr := 0, win := 0 }

def BankSt.reset : BankSt :=
  { openRow := none, keep := false, owed := 0, refreshing := false, ceCount := 0, retired := false, degraded := false,
    waiting := false, asked := [], train := false, late := false, lastUse := 0 }

def Stack.reset : Stack :=
  { pond := 0, inj := 0, exiting := 0, pcFail := 0, spmap := [], spval := [], queue := [], wq := [], memClk := 0,
    refX2 := false, hot := false, order := 0, defer := none, newClk := 0, mode := .run, ageMaint := 20, ageNet := 20,
    ageHost := 20, forced := 0, maxOwed := 0, passes := 0, discard := 0, retry := 0, failRun := [], replays := 0,
    lastPc := 0, alerts := [], sent := [], fwd := 0, merge := 0, toNet := 0, toHost := 0, toSched := 0, pasr0 := 0,
    pasr1 := 0, peak := 0, peakDie := 0, errCount := 0, errCode := 0, errOp := 0, errStat := 0, errTag := 0,
    errDie := 0, errBank := 0, chkUe := 0, chkCorr := 0, cmds := 0, ready := false,
    trained := false, changeTick := 0 }

def DramSt.reset : DramSt := { stk := [], units := [], banks := [], windows := [], tags := [] }

/-- An entry that nothing has written: all zeros, which fails odd parity (R330). -/
def QEntry.reset : QEntry := { word := 0, more := [], parity := false, last := false }

def Queue.reset : Queue := { mem := [], wp := 0, cp := 0, rp := 0, cpSeen := 0, rpSeen := 0, flushReq := false }

def QErr.reset : QErr := { par := 0, drop := 0, flush := 0, hwm := 0 }

def Lane.reset : Lane :=
  { valid := false, owner := 0, tly := 0, region := 0, off := 0, limit := 0, staged := [], stageAt := 0, lost := false, bells := [], done := 0,
    token := 0, unbound := 0, oob := 0, winUnbound := none, winOob := none }

def Ring.reset : Ring :=
  { valid := false, flushRd := false, keep := false, state := .idle, tenant := 0, stream := 0, log2 := 0, recsz := 0,
    base := 0, flag := 0, head := 0, sent := 0, next := 0, flushing := none }

/-- The host side after power-on: DETACHED, SEQ_LOST set, HNEXT and DSEQ at 1 (R344, R354). -/
def HostSt.reset : HostSt :=
  { linkUp := false, width := 0, speed := 0, flit := false, cache := false, retrains := 0, downs := 0, seqLost := true,
    storeHi := false, attach := .detached, attachPend := false, crash := false, perstSys := false, bar2Rd := 0,
    bar0Drop := 0, compat := false, respq := Queue.reset, respWait := [], evq := Queue.reset, mbxq := Queue.reset,
    queues := [], qerr := [], slots := [],
    accepted := [], pend := 0, hnext := 1, dnext := 1, journal := [], lanes := [], rings := [], storeStalls := 0,
    regions := [], msix := [], msixPend := 0 }

def PortSt.reset : PortSt :=
  { link := false, fec := false, module := 0, xoff := false, frames := [], cur := none, txOff := false, txq := [], rxBytes := 0, txBytes := 0, icrc := 0,
    access := 0, seqErr := 0, drop := 0, cfgFlags := 0, vlan := 0, pfc := 0, mac := [], ip := [] }

def NetKey.reset : NetKey :=
  { valid := false, wr := false, rd := false, tly := none, region := 0, gen := 0, owner := none, koff := 0, klen := 0, winLog := none }

def Qp.reset : Qp := { state := .reset, mtu := 0, remote := 0, psn := 0, gid := [], imm := [] }

def MirSt.reset : MirSt :=
  { role := .unpaired, sync := .none, port := 0, qp := 0, tenants := 0, idMism := false, hbto := 10, lagmax := 4,
    hbOut := true, hbIn := true, tkoOut := false, tkoIn := false, lastEdge := 0, lastPacket := 0, hbLost := false,
    silent := false, buffer := [], records := [], unacked := [], partner := [], outq := [] }

def PlcSt.reset : PlcSt :=
  { retire := [], growLeft := 44 * 2 ^ 30, quadFail := 0, retireCe := 256, retirePan := 1024, growRes := 44 * 2 ^ 30,
    replay := .blocks (2 ^ 24) ([252, 253, 254, 255].map fun b => { at_ := { stack := 11, die := 15, bank := b }, l0 := 0 }) }

/-- The governor at the option defaults of R433. -/
def GovSt.reset : GovSt :=
  { optCap := 1200, cap := 1200, hyst := 60, depth := 0, critical := false, capped := false, changes := 0,
    power := 0, powerSum := 0, powerN := 0, low8 := 0, low64 := 0, coolRun := 0, hotRun := [], warmNow := false,
    throttledLogged := false }

def SenSt.reset : SenSt :=
  { die := [], dieMax := [], stack := [], stackMax := [], railMv := [], railMa := [], inMv := 0, inMa := 0, cool := 0,
    pond := [], pondNow := [] }

def CalSt.reset : CalSt :=
  { sec := 0, frac := 0, acc := 0, epoch := 0, scap := 0, set := false, valid := false, lossLatched := false }

/-- Every option field at its default (R433). -/
def OptBlock.default : OptBlock :=
  { capW := 1200, hystW := 60, hostF := 0, order := 0, rake := 1, rakeHours := 24, ageHost := 20, ageNet := 20,
    ageMaint := 20, growRes := 44 * 2 ^ 30, retireCe := 256, retirePan := 1024, baud := 115200, wdogMs := 100,
    hbto := 10, lagmax := 4, partner := [], rsv := [] }

def Flash.reset : Flash :=
  { opt0 := none, opt1 := none, ret0 := none, ret1 := none, fwA := none, fwB := none, optRead := false, fwRead := false }

/-- Right after power-on reset: SRC 0x01, FIRST 0, LASTREACH 2, both reaches held, nothing loaded (R440). -/
def RstSt.reset : RstSt :=
  { asserted := 1, reachOf := [(0, .powerOn)], src := 0x01, first := 0, lastReach := 2, phase := 0, fw := 0, stopped := 0, coreHeld := true,
    sysHeld := true, poHeld := true, firstFresh := false, abandoned := [], dramLost := true,
    wdogExpiry := 0, wdogTimeout := 100, wdogArmed := false, wdogOnce := false,
    hostPend := [], clkHeld := 0, locks := 0, lock := false, optGen := 0, optCopy := 3,
    retCopy := 3, r1Valid := false, r0Valid := false, c1Valid := false, c0Valid := false, opt := OptBlock.default,
    flash := Flash.reset, fwSel := false, fwCopyGood := false, standby := true, main48 := false, rails := false,
    prsntLow := false, perstLow := false, rstNLow := false, fillDue := false, cages := [], ospfRstN := 0, ospfLpwN := 0,
    ledPwr := .lit, ledRun := .dark, ledFlt := .lit }

def SvcSt.reset : SvcSt :=
  { lseq := none, final := none, baud := 115200, auth := false, queue := [], sinceCmd := 0, nonce := none, active := false, test := none, testLost := none,
    baudPend := none, resetPend := none, cCrc := 0, cRefused := 0, lines := 0, spdmVersion := false, spdmAlgs := false,
    jtag := 1 }

def DbgSt.reset : DbgSt := { open_ := false, byTriyx := false, byHost := false, opens := 0, chal := 0, lastRead := none }

/-- The card right after a power-on reset, with standby power present (R416, R440). -/
def State.reset : State :=
  { pending := [], tick := 0, free := 0, mem := [], log := LogSt.reset, pans := [], sync := SyncSt.reset, ten := [],
    slice := SliceSt.reset, sch := [], desc := [], dram := DramSt.reset, host := HostSt.reset,
    net := { ports := [], keys := [], qps := [] }, mir := MirSt.reset, plc := PlcSt.reset, gov := GovSt.reset,
    sen := SenSt.reset, cal := CalSt.reset, rst := RstSt.reset, svc := SvcSt.reset, dbg := DbgSt.reset, out := [] }

end Sys2Proof.Machine
end

