-- ==== Sys2Proof/Machine/Tab.lean ====
section
/-! DEFINITION. Sparse tables in canonical form: strictly rising keys, no entry equal to the default. Register files,
memories and every numbered set of units are such tables. -/

namespace Sys2Proof

/-- The entry at key `i`, or the default `d`. -/
def tabGet {α : Type} (d : α) : Tab α → Nat → α
  | [], _ => d
  | (k, v) :: t, i => if i = k then v else tabGet d t i

/-- Remove the entry at key `i`. -/
def tabDrop {α : Type} : Tab α → Nat → Tab α
  | [], _ => []
  | (k, v) :: t, i => if i = k then tabDrop t i else (k, v) :: tabDrop t i

/-- Put `v` at key `i`, whatever the default. -/
def tabPut {α : Type} : Tab α → Nat → α → Tab α
  | [], i, v => [(i, v)]
  | (k, w) :: t, i, v =>
    if i = k then (k, v) :: t else if i < k then (i, v) :: (k, w) :: t else (k, w) :: tabPut t i v

/-- Set key `i` to `v`, keeping the canonical form: setting the default removes the entry. -/
def tabSet {α : Type} [DecidableEq α] (d : α) (t : Tab α) (i : Nat) (v : α) : Tab α :=
  if v = d then tabDrop t i else tabPut t i v

/-- Change the entry at key `i`. -/
def tabModify {α : Type} [DecidableEq α] (d : α) (t : Tab α) (i : Nat) (f : α → α) : Tab α :=
  tabSet d t i (f (tabGet d t i))

/-- Set consecutive keys from `i`. -/
def tabSetList {α : Type} [DecidableEq α] (d : α) (t : Tab α) (i : Nat) : List α → Tab α
  | [] => t
  | v :: vs => tabSetList d (tabSet d t i v) (i + 1) vs

/-- The entries at `n` consecutive keys from `i`. -/
def tabRange {α : Type} (d : α) (t : Tab α) (i n : Nat) : List α :=
  (List.range n).map fun k => tabGet d t (i + k)

/-- The entries at `n` keys from `src` replace those at `n` keys from `dst`. -/
def tabCopy {α : Type} (t : Tab α) (src dst n : Nat) : Tab α :=
  t.filter (fun e => decide (e.1 < dst)) ++
    (t.filter (fun e => decide (src ≤ e.1) && decide (e.1 < src + n))).map (fun e => (e.1 - src + dst, e.2)) ++
    t.filter (fun e => decide (dst + n ≤ e.1))

/-- The canonical form: keys strictly rising from `lo`, and no entry equal to the default. -/
def tabWfFrom {α : Type} [DecidableEq α] (d : α) : Nat → Tab α → Bool
  | _, [] => true
  | lo, (k, v) :: t => decide (lo ≤ k) && decide (v ≠ d) && tabWfFrom d (k + 1) t

def tabWf {α : Type} [DecidableEq α] (d : α) (t : Tab α) : Bool := tabWfFrom d 0 t

/-- Rebuild a table without its default entries. -/
def tabClean {α : Type} [DecidableEq α] (d : α) (t : Tab α) : Tab α := t.filter fun e => e.2 != d

end Sys2Proof
end

