-- ==== Sys2Proof/Machine/Ops.lean ====
section
/-! DEFINITION. The named operations that every family of commands shares: access to the units of the card, stored
words, the two logs with their notices, free values, retirement of units. -/

namespace Sys2Proof.Machine

/-! ### Units -/

def panOf (s : State) (p : PanIx) : Pan := tabGet Pan.reset s.pans p.val

def setPan (s : State) (p : PanIx) (x : Pan) : State := { s with pans := tabSet Pan.reset s.pans p.val x }

def modPan (s : State) (p : PanIx) (f : Pan → Pan) : State := { s with pans := tabModify Pan.reset s.pans p.val f }

def tenOf (s : State) (t : TenIx) : Tenant := tabGet Tenant.reset s.ten t.val

def setTen (s : State) (t : TenIx) (x : Tenant) : State := { s with ten := tabSet Tenant.reset s.ten t.val x }

def modTen (s : State) (t : TenIx) (f : Tenant → Tenant) : State :=
  { s with ten := tabModify Tenant.reset s.ten t.val f }

def stackOf (s : State) (k : StackIx) : Stack := tabGet Stack.reset s.dram.stk k.val

def modStack (s : State) (k : StackIx) (f : Stack → Stack) : State :=
  { s with dram := { s.dram with stk := tabModify Stack.reset s.dram.stk k.val f } }

def schOf (s : State) (n : SchIx) : SysChan := tabGet SysChan.reset s.sch n.val

def modSch (s : State) (n : SchIx) (f : SysChan → SysChan) : State :=
  { s with sch := tabModify SysChan.reset s.sch n.val f }

def tallyOf (s : State) (t : TlyIx) : Tally := tabGet Tally.reset s.sync.tallies t.val

def gateOf (s : State) (g : GateIx) : GateSt := tabGet GateSt.reset s.sync.gates g.val

def laneOf (s : State) (n : LaneIx) : Lane := tabGet Lane.reset s.host.lanes n.val

def modLane (s : State) (n : LaneIx) (f : Lane → Lane) : State :=
  { s with host := { s.host with lanes := tabModify Lane.reset s.host.lanes n.val f } }

def ringOf (s : State) (n : RingIx) : Ring := tabGet Ring.reset s.host.rings n.val

def modRing (s : State) (n : RingIx) (f : Ring → Ring) : State :=
  { s with host := { s.host with rings := tabModify Ring.reset s.host.rings n.val f } }

def portOf (s : State) (n : PortIx) : PortSt := tabGet PortSt.reset s.net.ports n.val

def qpIx (n : PortIx) (q : Fin 64) : Nat := 64 * n.val + q.val

def qpOf (s : State) (n : PortIx) (q : Fin 64) : Qp := tabGet Qp.reset s.net.qps (qpIx n q)

def modQp (s : State) (n : PortIx) (q : Fin 64) (f : Qp → Qp) : State :=
  { s with net := { s.net with qps := tabModify Qp.reset s.net.qps (qpIx n q) f } }

def modPort (s : State) (n : PortIx) (f : PortSt → PortSt) : State :=
  { s with net := { s.net with ports := tabModify PortSt.reset s.net.ports n.val f } }

def emit (s : State) (o : List Out) : State := { s with out := s.out ++ o }

/-- Take a free value (log entry 2). -/
def freshFree (s : State) : Dword := Config.freeValue s.free

def usedFree (s : State) (n : Nat) : State := { s with free := s.free + n }

/-- Quadrant of a physical pan (R4). -/
def quadOfPan (p : PanIx) : QuadIx := ⟨p.val / 9, by omega⟩

/-- The physical pan that a logical pan of a tenant is bound to. -/
def panAt (s : State) (t : TenIx) (l : Fin 32) : Option PanIx :=
  (tenOf s t).bind.pans[l.val]?

/-- Number of a segment of the whole card. -/
def segKey (g : SegIx) : Nat := (g.stack.val * 64 + g.pc.val) * 4 + g.sid.val

/-- The die and first die bank number of a segment (R188, R189): die 4 s + g and bank 16 j for pseudo-channel 16 g + j. -/
def segDie (g : SegIx) : DieIx := ⟨4 * g.sid.val + g.pc.val / 16, by omega⟩

def segBank0 (g : SegIx) : Nat := 16 * (g.pc.val % 16)

/-- The segment that holds a bank (R188, R189). -/
def bankSeg (b : BankIx) : SegIx :=
  { stack := b.stack, pc := ⟨16 * (b.die.val % 4) + b.bank.val / 16, by omega⟩, sid := ⟨b.die.val / 4, by omega⟩ }

/-- Key of a physical bank, 0 to 263, of the whole card: exposed banks, then the eight spares (R192, R224). -/
def bankKey (s d b : Nat) : Nat := (s * 16 + d) * 264 + b

/-- The physical bank that serves a die bank number: the lowest valid spare mapped to it, else the bank (R224). -/
def physBank (s : State) (st : StackIx) (d : DieIx) (b : Nat) : Nat :=
  match (List.range 8).find? fun j =>
      (tabGet 0 (stackOf s st).spval d.val).getLsbD j && (tabGet 0 (stackOf s st).spmap (8 * d.val + j)).toNat == b with
  | some j => 256 + j
  | none => b

/-- The die bank number that a physical bank serves. -/
def dieBank (s : State) (st d phys : Nat) : Nat :=
  if phys < 256 then phys else (tabGet 0 (tabGet Stack.reset s.dram.stk st).spmap (8 * d + (phys - 256))).toNat

def unitOf (s : State) (k : Nat) : Unit := tabGet Unit.reset s.dram.units k

def modUnit (s : State) (k : Nat) (f : Unit → Unit) : State :=
  { s with dram := { s.dram with units := tabModify Unit.reset s.dram.units k f } }

def bankOf (s : State) (k : Nat) : BankSt := tabGet BankSt.reset s.dram.banks k

def modBank (s : State) (k : Nat) (f : BankSt → BankSt) : State :=
  { s with dram := { s.dram with banks := tabModify BankSt.reset s.dram.banks k f } }

/-! ### Stored words (R276, R277) -/

/-- Keys of stored words. Pan SRAM, quadrant SRAM by byte address; DRAM by stack, die, physical bank, linear column and
word. -/
def panKey (p a : Nat) : Nat := p * 2 ^ 24 + a / 8

def quadKey (q a : Nat) : Nat := 2 ^ 30 + q * 2 ^ 24 + a / 8

/-- Words of the memories of the four system control cores, and of the error (0) and event log (1), in the always-on domain. -/
def sysKey (c a : Nat) : Nat := 2 ^ 39 + c * 2 ^ 24 + a / 8

def logKey (l a : Nat) : Nat := 2 ^ 39 + 2 ^ 30 + l * 2 ^ 24 + a / 8

def dramKey (s d b l w : Nat) : Nat := 2 ^ 40 + (((s * 16 + d) * 512 + b) * 2 ^ 20 + l) * 4 + w

/-- Where a stored word lies. -/
inductive WordPlace
  | pan (p a : Nat)
  | quad (q a : Nat)
  | sys (c a : Nat)
  | log (l a : Nat)
  | dram (s d b l w : Nat)
deriving DecidableEq, Repr

def placeOf (k : Nat) : WordPlace :=
  if k < 2 ^ 30 then .pan (k / 2 ^ 24) (k % 2 ^ 24 * 8)
  else if k < 2 ^ 39 then .quad ((k - 2 ^ 30) / 2 ^ 24) (k % 2 ^ 24 * 8)
  else if k < 2 ^ 39 + 2 ^ 30 then .sys ((k - 2 ^ 39) / 2 ^ 24) (k % 2 ^ 24 * 8)
  else if k < 2 ^ 40 then .log ((k - 2 ^ 39 - 2 ^ 30) / 2 ^ 24) (k % 2 ^ 24 * 8)
  else
    .dram ((k - 2 ^ 40) / 2 ^ 22 / 512 / 16) ((k - 2 ^ 40) / 2 ^ 22 / 512 % 16) ((k - 2 ^ 40) / 2 ^ 22 % 512)
      ((k - 2 ^ 40) / 4 % 2 ^ 20) ((k - 2 ^ 40) % 4)

/-- SRAM bank of a byte address: the diagonal map (R171). -/
def sramBank (a : Nat) : Nat := (a / 64 + a / 64 / 64) % 64

/-- Byte address of a word within its SRAM bank (DEDUCED from R171: the bank's rows are 64 bytes). -/
def sramInBank (a : Nat) : Nat := a / 64 / 64 * 64 + a % 64

def readStored (m : Memory) (k : Nat) : Stored :=
  { d := BitVec.ofNat 64 (leNat (tabRange 0 m (16 * k) 8)), p := tabGet 0 m (16 * k + 8), q := tabGet 0 m (16 * k + 9) }

def storedBytes (w : Stored) : List Byte := leBytes 8 w.d.toNat ++ [w.p, w.q]

/-- Stored words that bytes spell, ten bytes to a word. -/
def storedList (n : Nat) (bs : List Byte) : List Stored :=
  (List.range n).map fun i => readStored (tabSetList 0 [] 0 ((bs.drop (10 * i)).take 10)) 0

def writeStored (m : Memory) (k : Nat) (w : Stored) : Memory := tabSetList 0 m (16 * k) (storedBytes w)

/-- The canonical form of the memory. -/
def Memory.wf (m : Memory) : Bool := tabWf 0 m

/-- Whether the injection registers name this word (R297). -/
def injHits (s : State) (k : Nat) : Bool :=
  s.log.injArm &&
    match placeOf k with
    | .pan p a => s.log.injMem == 0 && s.log.injUnit.toNat == p && s.log.injBank.toNat == sramBank a
    | .sys _ _ => false
    | .log _ _ => false
    | .quad q a => s.log.injMem == 1 && s.log.injUnit.toNat == q && s.log.injBank.toNat == sramBank a
    | .dram st d b _ w =>
      s.log.injMem == 2 && s.log.injUnit.toNat == st && w == 0 &&
        (tabGet Stack.reset s.dram.stk st).inj.getLsbD (16 * (d % 4) + dieBank s st d b / 16)

/-- The word as a write stores it: encoded, with the injected flips (R277, R297). -/
def storedFor (s : State) (k : Nat) (d : Dword) : Stored :=
  if injHits s k then flipStored (encodeWord d) s.log.injD s.log.injC else encodeWord d

/-- Words that a fill or a copy has just written, none of them uncorrectable, with the injected flips (R297). -/
def injectRange (s : State) (k n : Nat) : State :=
  if s.log.injArm then
    (List.range n).foldl
      (fun r i =>
        if injHits s (k + i) then
          { r with mem := writeStored r.mem (k + i) (flipStored (readStored r.mem (k + i)) s.log.injD s.log.injC) }
        else r) s
  else s

def writeWord (s : State) (k : Nat) (d : Dword) : State := { s with mem := writeStored s.mem k (storedFor s k d) }

/-- Write consecutive words. -/
def writeWords (s : State) (k : Nat) (ds : List Dword) : State :=
  { s with mem := (ds.foldl (fun (r : Memory × Nat) d => (writeStored r.1 r.2 (storedFor s r.2 d), r.2 + 1)) (s.mem, k)).1 }

/-- A word as a reader decodes it (R278). -/
def readWord (s : State) (k : Nat) : Decoded := decodeWord (readStored s.mem k)

def readWords (s : State) (k n : Nat) : List (Nat × Decoded) :=
  (List.range n).map fun i => (k + i, readWord s (k + i))

/-- The first uncorrectable word of those read. -/
def firstBad (ws : List (Nat × Decoded)) : Option Nat :=
  (ws.find? fun w => w.2.check == .uncorrectable).map (·.1)

def wordsOf (ws : List (Nat × Decoded)) : List Dword := ws.map (·.2.d)

/-- The bytes of words, in address order (R8). -/
def bytesOfWords (ds : List Dword) : List Byte := ds.flatMap fun d => leBytes 8 d.toNat

def wordOfBytes (bs : List Byte) : Dword := BitVec.ofNat 64 (leNat bs)

/-- Words that bytes spell, the last filled with zeros. -/
def wordsOfBytes (bs : List Byte) : List Dword := (groupsOf 8 bs.length bs).map wordOfBytes

/-! ### The logs (R290 to R292) -/

def LogEntry.zero : LogEntry :=
  { tick := 0, cal := 0, code := 0, kind := 0, count := 0, detail := [], tenant := 0, tide := 0, key := 0,
    stored := [] }

def tenByte : Option TenIx → Byte
  | some t => BitVec.ofNat 8 t.val
  | none => 0xFF

/-- TIDE of an entry: the low 32 bits of the tenant's tide number, 0 for no tenant (R291). -/
def tideWord (s : State) : Option TenIx → Word
  | some t => (tenOf s t).tide.truncate 32
  | none => 0

/-- A log entry's 32 bytes (R291). A DETAIL of more than 11 bytes runs over the fields behind it (log entry 45). -/
def entryBytes (e : LogEntry) : List Byte :=
  leBytes 8 e.tick.toNat ++ leBytes 4 e.cal.toNat ++ [e.code, e.kind] ++ leBytes 2 e.count.toNat ++
    (listPatch (List.replicate 11 0 ++ [e.tenant] ++ leBytes 4 e.tide.toNat) 0 e.detail).take 16

/-- An entry as it is written: its words with their check bits (R276). -/
def LogEntry.coded (e : LogEntry) : LogEntry :=
  { e with stored := (wordsOfBytes (entryBytes e)).flatMap fun d => storedBytes (encodeWord d) }

/-- Add an entry to the event log (R290). -/
def LogSt.addEvent (l : LogSt) (e : LogEntry) : LogSt :=
  { l with
    events := tabSet LogEntry.zero l.events l.evHead e.coded,
    evHead := (l.evHead + 1) % 16384,
    evCount := if l.evCount < 16384 then l.evCount + 1 else l.evCount,
    evOvf := if l.evCount < 16384 then l.evOvf else satAdd l.evOvf 1 }

/-- Add an entry to the error log (R290). -/
def LogSt.addError (l : LogSt) (e : LogEntry) : LogSt :=
  { l with
    errors := tabSet LogEntry.zero l.errors l.erHead e.coded,
    erHead := (l.erHead + 1) % 4096,
    erCount := if l.erCount < 4096 then l.erCount + 1 else l.erCount,
    erOvf := if l.erCount < 4096 then l.erOvf else satAdd l.erOvf 1 }

def eventEntry (s : State) (code : Byte) (detail : List Byte) (t : Option TenIx) : LogEntry :=
  { tick := s.tick, cal := s.cal.sec.truncate 32, code := code, kind := 2, count := 1, detail := if detail.length ≤ 11 then padTo 0 11 detail else detail,
    tenant := tenByte t, tide := tideWord s t, key := 0, stored := [] }

/-- Committed words that a queue holds, as HWM records the most of them (R339). -/
def QErr.see (q : QErr) (n : Nat) : QErr := { q with hwm := maxU q.hwm (BitVec.ofNat 13 n) }

/-- Change the counts of a queue instance (R339). -/
def modQErr (s : State) (n : Nat) (f : QErr → QErr) : State :=
  { s with host := { s.host with qerr := tabModify QErr.reset s.host.qerr n f } }

/-- Depth D of a queue instance (R337). -/
def queueDepth (n : Nat) : Nat :=
  if n = 1 ∨ n = 3 ∨ n = 43 then 256
  else if 20 ≤ n ∧ n < 36 then 16
  else if n = 36 ∨ n = 37 ∨ n = 41 then 4096
  else if n = 38 ∨ n = 39 then 2048
  else if n = 40 then 1024
  else 64

/-- CP and RP of an instance cross as Gray codes into a domain that is asynchronous to the other side's, and as they are between
root-derived clocks or on one clock (R328, R337). -/
def crossesGray (n : Nat) : Bool := decide (n ≤ 19) || n == 36 || n == 37 || n == 42

def gray (b : Nat) : Nat := Nat.xor b (b / 2)

/-- The number that a Gray code of up to 13 bits stands for. -/
def ungray (g : Nat) : Nat := (List.range 12).foldl (fun a k => Nat.xor a (g / 2 ^ (k + 1))) g

/-- Committed words not yet read: CP against RP, modulo 2 D (R323, R324). -/
def Queue.count (q : Queue) (d : Nat) : Nat := (q.cp + 2 * d - q.rp) % (2 * d)

/-- Those that the consumer sees, by its copy of CP (R329). -/
def Queue.seen (q : Queue) (d : Nat) : Nat := (ungray q.cpSeen % (2 * d) + 2 * d - q.rp) % (2 * d)

/-- The consumer sees the queue empty (R329). -/
def Queue.empty (q : Queue) : Bool := q.cpSeen == gray q.rp

/-- The producer sees the queue full: its Gray WP is its copy of the Gray RP with the top two bits inverted (R329). -/
def Queue.full (q : Queue) (d : Nat) : Bool := gray q.wp == Nat.xor q.rpSeen (d + d / 2)

/-- Free entries as the producer sees them (R326, R329). -/
def Queue.room (q : Queue) (d : Nat) : Nat := d - (q.wp + 2 * d - ungray q.rpSeen % (2 * d)) % (2 * d)

/-- Both copies have come through their synchronisers (R328, R329). -/
def Queue.settle (q : Queue) : Queue := { q with cpSeen := gray q.cp, rpSeen := gray q.rp }

/-- The parity bit that makes word and bit odd (R330). -/
def oddParity (w : Dword) : Bool := ((List.range 64).filter fun k => w.getLsbD k).length % 2 == 0

/-- The same over all words of an entry. -/
def entryParity (w : Dword) (more : List Dword) : Bool := more.foldl (fun p x => p == oddParity x) (oddParity w)

/-- The entry is poisoned: its stored parity is not that of its word (R330). -/
def QEntry.poisoned (e : QEntry) : Bool := e.parity != entryParity e.word e.more

/-- A flush takes effect: RP is set to CP, which the consumer has seen, and every committed word is discarded (R331, R332). -/
def Queue.flush (q : Queue) : Queue := { q with rp := q.cp, cpSeen := gray q.cp, flushReq := false }

/-- A packet boundary: a pending flush takes effect (R331). -/
def Queue.boundary (q : Queue) : Queue := if q.flushReq then q.flush else q

/-- Write one entry at WP (R323, R330); `bad` inverts its parity bit. -/
def Queue.write (q : Queue) (d : Nat) (w : Dword) (more : List Dword) (last bad : Bool) : Queue :=
  { q with
    mem := tabSet QEntry.reset q.mem (q.wp % d) { word := w, more := more, parity := entryParity w more != bad, last := last },
    wp := (q.wp + 1) % (2 * d) }

/-- The last word of a packet has been written: CP advances to WP (R324). -/
def Queue.commit (q : Queue) : Queue := Queue.boundary { q with cp := q.wp }

/-- A packet that cannot be finished: WP returns to CP (R327). -/
def Queue.abandon (q : Queue) : Queue := Queue.boundary { q with wp := q.cp }

/-- Write a one-word packet and commit it (R324, R330). -/
def Queue.push (q : Queue) (d : Nat) (w : Dword) : Queue := (q.write d w [] true false).commit

/-- Write a packet, its last word marked, and commit it (R324); `bad` is the word of it whose parity is inverted. -/
def Queue.packet (q : Queue) (d : Nat) (ws : List (List Dword)) (bad : Option Nat) : Queue :=
  (ws.zipIdx.foldl (fun r w => r.write d (w.1.headD 0) (w.1.drop 1) (w.2 + 1 == ws.length) (bad == some w.2)) q).commit

/-- The oldest entry (R323). -/
def Queue.head (q : Queue) (d : Nat) : QEntry := tabGet QEntry.reset q.mem (q.rp % d)

/-- The queue after its oldest word is taken (R335). -/
def Queue.pop (q : Queue) (d : Nat) : Queue := { q with rp := (q.rp + 1) % (2 * d) }

/-- Reset of either side clears the pointers and no entry (R336). -/
def Queue.cleared (q : Queue) : Queue := { q with wp := 0, cp := 0, rp := 0, cpSeen := 0, rpSeen := 0, flushReq := false }

/-- The counts of an instance at a commit: the most words committed, and a flush that takes effect there (R331, R339). -/
def QErr.commit (x : QErr) (n : Nat) (flushes : Bool) : QErr :=
  { (x.see n) with flush := if flushes then x.flush + 1 else x.flush }

def queueOf (s : State) (i : Nat) : Queue := tabGet Queue.reset s.host.queues i

/-- Change an instance from 3 on; between root-derived clocks the copies of the pointers are exact (R328). -/
def modQueue (s : State) (i : Nat) (f : Queue → Queue) : State :=
  let g := fun q => if crossesGray i then f q else (f q).settle
  { s with host := { s.host with queues := tabModify Queue.reset s.host.queues i g } }

/-- Commit a packet to an instance (R324, R339). -/
def queueWrite (s : State) (i : Nat) (ws : List (List Dword)) (bad : Option Nat) : State :=
  let q := queueOf s i
  modQErr (modQueue s i fun q => q.packet (queueDepth i) ws bad) i fun x =>
    x.commit (q.count (queueDepth i) + ws.length) q.flushReq

/-- Take `n` words from an instance (R335); what is taken has come through to the consumer (R329). -/
def queueTake (s : State) (i n : Nat) : State :=
  modQueue s i fun q =>
    { q with rp := (q.rp + n) % (2 * queueDepth i), cpSeen := if q.seen (queueDepth i) < n then gray q.cp else q.cpSeen }

/-- The consumer of an instance sees at least `n` words. -/
def queueSees (s : State) (i n : Nat) : Bool := decide (n ≤ (queueOf s i).seen (queueDepth i))

/-- An instance is cleared (R336). -/
def queueClear (s : State) (i : Nat) : State := modQueue s i Queue.cleared

/-- Index of the entry that the next read of an instance takes (R323). -/
def queueRead (s : State) (i : Nat) : Nat := (queueOf s i).rp % queueDepth i

/-- Indices of the poisoned entries among the first `n` that are read (R330). -/
def queuePoison (s : State) (i n : Nat) : List Nat :=
  ((List.range n).map fun k => (queueRead s i + k) % queueDepth i).filter fun e =>
    (tabGet QEntry.reset (queueOf s i).mem e).poisoned

/-- An instance's producer stops for good in the middle of a packet, or between packets (R327). -/
def queueAbandon (s : State) (i : Nat) : State := modQueue s i Queue.abandon

/-- `n` entries of `bits` bits whose content the spec leaves open: free values. -/
def freeEntries (s : State) (bits n : Nat) : List (List Dword) :=
  let k := (bits + 63) / 64
  (List.range n).map fun i => (List.range k).map fun j =>
    BitVec.ofNat 64 ((Config.freeValue (s.free + i * k + j)).toNat % 2 ^ min bits 64)

/-- Every queue's copies of its pointers come through their synchronisers (R329). -/
def syncQueues (s : State) : State :=
  { s with
    host := { s.host with
              respq := s.host.respq.settle, evq := s.host.evq.settle, mbxq := s.host.mbxq.settle,
              queues := tabClean Queue.reset (s.host.queues.map fun e => (e.1, e.2.settle)) } }

/-- The consumer's notice of a commit: a port's frame-ready signal, else the wake-up of the consumer (R325). -/
def queueNotice (i : Nat) : Out := if i = 36 then .frameReady 0 else if i = 37 then .frameReady 1 else .wake i

/-- Commit a packet to an instance, with the consumer's notice (R324, R325). -/
def queueSend (s : State) (i : Nat) (ws : List (List Dword)) (bad : Option Nat) : State := emit (queueWrite s i ws bad) [queueNotice i]

/-- A packet goes through an instance whose consumer takes it at once (log entry 175). -/
def queuePass (s : State) (i : Nat) (ws : List (List Dword)) : State := queueTake (queueSend s i ws none) i ws.length

/-- Packets of `n` entries each, their content free, go through such an instance one after another. -/
def passFree (s : State) (i bits : Nat) (ns : List Nat) : State :=
  ns.foldl (fun r n => usedFree (queuePass r i (freeEntries r bits n)) (n * ((bits + 63) / 64))) s

/-- The queue that a signal takes to the store: instances 4 to 7 from the pans of a quadrant, 8 to 19 from the controllers;
the others come from the system control domain and take none (R337). -/
def signalQueue (s : State) : SigSource → Option Nat
  | .pan l t => (panAt s t l).map fun p => 4 + (quadOfPan p).val
  | .panCopy l t => (panAt s t l).map fun p => 4 + (quadOfPan p).val
  | .pond k _ => some (8 + k.val)
  | _ => none

/-- The word of a signal in its queue (DESIGN CHOICE, log entry 175). -/
def signalWord (g : Signal) : Dword := fieldTo (g.n % 2 ^ 16) 12 ||| fieldTo g.tly.val 0

/-- A signal sets out to the store (R307, R337). -/
def sendSignal (s : State) (g : Signal) : State :=
  let s1 := { s with sync := { s.sync with flight := s.sync.flight ++ [g] } }
  match signalQueue s g.src with
  | some i => queueWrite s1 i [[signalWord g]] none
  | none => s1

/-- HOST_EVQ has no room, or its host side is held in reset, which its producer sees as full (R329, R336). -/
def evqFull (s : State) : Bool := s.host.evq.full 256 || s.rst.perstLow || s.rst.sysHeld

/-- Entry of the MSI-X table that nothing has written: the mask bit set, the rest 0, as PCI resets it (log entry 58). -/
def msixDefault (n : Nat) : Dword := if n % 2 = 1 then 0x100000000 else 0

/-- Whether a vector is masked: bit 32 of the second half of its 16-byte table entry (R343; log entry 58). -/
def msixMasked (h : HostSt) (v : Fin 32) : Bool :=
  (tabGet (msixDefault 1) h.msix (2 * v.val + 1)).getLsbD 32

/-- Send an MSI-X message, or hold it pending where its vector is masked (R343, R365). -/
def sendMsix (s : State) (v : Fin 32) : State :=
  { s with
    host := { s.host with
              msixPend := if msixMasked s.host v then s.host.msixPend ||| ((1#32) <<< v.val) else s.host.msixPend },
    out := s.out ++ (if msixMasked s.host v || !s.host.linkUp then [] else [.msix v]) }

/-- The event log writer's notice of entry `n` with code `code` (R337 instance 1, R339). -/
def evNotice (code : Byte) (n : Nat) : Dword := fieldTo code.toNat 14 ||| fieldTo n 0

/-- Add an event entry, and commit its notice to HOST_EVQ with MSI-X vector 1; a notice that finds no room is dropped
and that drop is itself logged, without a notice of its own (R290, R326, R337, R365; log entry 6). -/
def logEvent (s : State) (code : Byte) (detail : List Byte) (t : Option TenIx) : State :=
  { s with
    log :=
      if evqFull s then
        (s.log.addEvent (eventEntry s code detail t)).addEvent (eventEntry s 0x91 [1] none)
      else s.log.addEvent (eventEntry s code detail t),
    host :=
      { s.host with
        evq := if evqFull s then s.host.evq else s.host.evq.push 256 (evNotice code s.log.evHead),
        qerr := tabModify QErr.reset s.host.qerr 1 fun q =>
          if evqFull s then { q with drop := satAdd q.drop 1 } else q.commit (s.host.evq.count 256 + 1) s.host.evq.flushReq,
        msixPend := if evqFull s || !msixMasked s.host 1 then s.host.msixPend else s.host.msixPend ||| 2 },
    out := s.out ++ (if evqFull s || msixMasked s.host 1 || !s.host.linkUp then [] else [.msix 1]) }

/-- A packet dropped by a producer that does not stall (R326). -/
def queueDrop (s : State) (i : Nat) : State :=
  logEvent (modQErr s i fun q => { q with drop := satAdd q.drop 1 }) 0x91 [BitVec.ofNat 8 i] none

/-- A poisoned word is counted and logged with the instance and the entry index (R330). -/
def notePoison (s : State) (inst entry : Nat) (poison : Bool) : State :=
  if poison then
    logEvent (modQErr s inst fun q => { q with par := satAdd q.par 1 }) 0x90 (BitVec.ofNat 8 inst :: leBytes 2 entry) none
  else s

/-- Entries of an instance leave it, checked as they are read; answers the poisoned ones (R330, R335). -/
def takeChecked (s : State) (i n : Nat) : State × List Nat :=
  let es := queuePoison s i n
  (es.foldl (fun r e => notePoison r i e true) (queueTake s i n), es)

/-- An entry's parity bit changes where it is stored; frames in 36 and 37 carry the same in the command that brings them
(R330; log entry 175). -/
def queueUpset (s : State) (u : Nat × Nat) : State :=
  let flip (q : Queue) (d : Nat) : Queue :=
    { q with mem := tabModify QEntry.reset q.mem (u.2 % d) fun e => { e with parity := !e.parity } }
  match u.1 with
  | 0 => { s with host := { s.host with respq := flip s.host.respq 64 } }
  | 1 => { s with host := { s.host with evq := flip s.host.evq 256 } }
  | 2 => { s with host := { s.host with mbxq := flip s.host.mbxq 64 } }
  | 36 => s
  | 37 => s
  | i => if i < 44 then modQueue s i fun q => flip q (queueDepth i) else s

/-- Log a code for each of several units. -/
def logEvents (s : State) (code : Byte) (ds : List (List Byte)) (t : Option TenIx) : State :=
  ds.foldl (fun r d => logEvent r code d t) s

/-- MEM, UNIT, SUB, ADDR, SYN and BIT of an error entry (R291). The spec gives a log's word no UNIT and neither it nor a
system control memory's a SUB: UNIT is then 0 for the error log and 1 for the event log, SUB 0, ADDR the byte address (log
entry 162). -/
def errDetail (s : State) (k : Nat) (syn : Half) (bit : Byte) : List Byte :=
  match placeOf k with
  | .pan p a => 0 :: BitVec.ofNat 8 p :: leBytes 2 (sramBank a) ++ leBytes 4 (sramInBank a) ++ leBytes 2 syn.toNat ++ [bit]
  | .quad q a => 1 :: BitVec.ofNat 8 q :: leBytes 2 (sramBank a) ++ leBytes 4 (sramInBank a) ++ leBytes 2 syn.toNat ++ [bit]
  | .sys c a => 3 :: BitVec.ofNat 8 c :: leBytes 2 0 ++ leBytes 4 a ++ leBytes 2 syn.toNat ++ [bit]
  | .log l a => 4 :: BitVec.ofNat 8 l :: leBytes 2 0 ++ leBytes 4 a ++ leBytes 2 syn.toNat ++ [bit]
  | .dram st d b l w =>
    2 :: BitVec.ofNat 8 st :: leBytes 2 (d * 2 ^ 12 + dieBank s st d b * 16 + w * 4) ++ leBytes 4 l ++
      leBytes 2 syn.toNat ++ [bit]

def errEntry (s : State) (code kind : Byte) (k : Nat) (dec : Decoded) (t : Option TenIx) : LogEntry :=
  { tick := s.tick, cal := s.cal.sec.truncate 32, code := code, kind := kind, count := 1,
    detail := errDetail s k dec.syn (match dec.check with | .corrected b => BitVec.ofNat 8 b | _ => 0xFF),
    tenant := tenByte t, tide := tideWord s t, key := k, stored := [] }

/-- The newest 64 entries of the error log, by place, newest first. -/
def newestErrors (l : LogSt) : List Nat :=
  (List.range (min 64 l.erCount)).map fun i => (l.erHead + 4096 - 1 - i) % 4096

/-- The newest corrected entry at this address among the newest 64 (R292). -/
def mergeSlot (l : LogSt) (k : Nat) : Option Nat :=
  (newestErrors l).find? fun n =>
    (tabGet LogEntry.zero l.errors n).kind == 0 && (tabGet LogEntry.zero l.errors n).key == k

/-- Record a corrected word: merge into its entry or add one (R292). -/
def LogSt.corrected (l : LogSt) (k : Nat) (e : LogEntry) : LogSt :=
  match mergeSlot l k with
  | some n =>
    { l with errors := tabModify LogEntry.zero l.errors n fun x => ({ x with count := satAdd x.count 1, tick := e.tick }).coded }
  | none => l.addError e

/-- The rake pass takes the address of a corrected entry while it is enabled and holds fewer than 1,024 (R293). -/
def LogSt.rakeTake (l : LogSt) (k : Nat) : LogSt :=
  { l with
    rakePending := if l.rakeEn && !l.rakePending.contains k && decide (l.rakePending.length < 1024)
      then l.rakePending ++ [k] else l.rakePending,
    rakeSkip := if l.rakeEn && !l.rakePending.contains k && decide (1024 ≤ l.rakePending.length)
      then satAdd l.rakeSkip 1 else l.rakeSkip }

def isDram (k : Nat) : Bool := decide (2 ^ 40 ≤ k)

/-- CHK_CE (R280, R281, R296). -/
def LogSt.countCe (l : LogSt) (dram : Bool) : LogSt :=
  { l with ceDram := if dram then satAdd l.ceDram 1 else l.ceDram, ceSram := if dram then l.ceSram else satAdd l.ceSram 1 }

/-- CHK_UE (R284, R281, R296). -/
def LogSt.countUe (l : LogSt) (dram : Bool) : LogSt :=
  { l with ueDram := if dram then satAdd l.ueDram 1 else l.ueDram, ueSram := if dram then l.ueSram else satAdd l.ueSram 1 }

/-! ### Places of regions -/

def bankKeyOf (b : BankIx) : Nat := bankKey b.stack.val b.die.val b.bank.val

/-- A retired bank that no spare serves (R224, R400). -/
def bankGone (s : State) (b : BankIx) : Bool :=
  (bankOf s (bankKeyOf b)).retired && physBank s b.stack b.die b.bank.val == b.bank.val

def placeBytes : Place → Nat
  | .interleave segs _ nr _ => segs.length * 16 * nr * 1024
  | .blocks bb bs => bb * bs.length
  | .quad _ _ => 2 ^ 26
  | .host _ => 2 ^ 64

/-- Whether two places share a column. -/
def placesClash : Place → Place → Bool
  | .interleave a r n _, .interleave b q m _ => a.any b.contains && decide (r < q + m) && decide (q < r + n)
  | .blocks bb bs, .blocks cc cs =>
    bs.any fun x => cs.any fun y =>
      x.at_ == y.at_ && decide (x.l0 < y.l0 + cc / 32) && decide (y.l0 < x.l0 + bb / 32)
  | .interleave a r n _, .blocks cc cs => blockHits a r n cc cs
  | .blocks bb bs, .interleave a r n _ => blockHits a r n bb bs
  | _, _ => false
where
  blockHits (a : List (StackIx × DieIx × Fin 16)) (r n bb : Nat) (bs : List BlockPlace) : Bool :=
    bs.any fun x =>
      (a.any fun g => g.1 == x.at_.stack && g.2.1 == x.at_.die && g.2.2.val == x.at_.bank.val / 16) &&
        decide (x.l0 < 32 * (r + n)) && decide (32 * r < x.l0 + bb / 32)

/-- The bit of a pseudo-channel. -/
def pcBit (q : PcIx) : Dword := (1#64) <<< q.val

/-- Bank k of a segment. -/
def segBankIx (g : SegIx) (k : Fin 16) : BankIx :=
  { stack := g.stack, die := segDie g, bank := ⟨16 * (g.pc.val % 16) + k.val, by omega⟩ }

/-- The sixteen banks of a segment. -/
def allSegBanks (g : SegIx) : List BankIx := (List.finRange 16).map (segBankIx g)

/-- Every bank of a pseudo-channel, in its four SIDs. -/
def pcBanks (s : StackIx) (q : PcIx) : List BankIx :=
  (List.finRange 4).flatMap fun i => allSegBanks { stack := s, pc := q, sid := i }

/-- Precharge a bank. -/
def prechargeBank (s : State) (b : BankIx) : State :=
  modBank s (bankKeyOf b) fun x => { x with openRow := none, keep := false, lastUse := 0 }

/-- A self-test of this unit runs: its resources serve nothing else (R450). -/
def testing (s : State) (u : TestUnit) : Bool := s.svc.test == some u

/-- The stored word lies in a unit under self-test (R450). -/
def wordTested (s : State) (k : Nat) : Bool :=
  match s.svc.test, placeOf k with
  | some (.pan p), .pan i _ => p.val == i
  | some (.qsr q), .quad i _ => q.val == i
  | some (.stk st), .dram i _ _ _ _ => st.val == i
  | _, _ => false

/-- A pseudo-channel that failed its training (R265). -/
def pcFailed (s : State) (k : StackIx) (pc : Nat) : Bool := (stackOf s k).pcFail.getLsbD pc

/-- A bank to which the placer may bind: neither lost to retirement nor on a failed pseudo-channel nor under self-test
(R265, R394, R450). -/
def bankFit (s : State) (b : BankIx) : Bool :=
  !bankGone s b && !pcFailed s b.stack (bankSeg b).pc.val && !testing s (.stk b.stack)

/-- A bank by its key, if it is an exposed bank. -/
def bankOfNo (n : Nat) : Option BankIx :=
  if h : n / 264 / 16 < 12 ∧ n / 264 % 16 < 16 ∧ n % 264 < 256
  then some { stack := ⟨n / 264 / 16, h.1⟩, die := ⟨n / 264 % 16, h.2.1⟩, bank := ⟨n % 264, h.2.2⟩ } else none

/-- Banks that are lost to the placer: retired, with no spare in their place. -/
def goneBanks (s : State) : List BankIx :=
  (s.dram.banks.filterMap fun e => if e.2.retired then bankOfNo e.1 else none).filter (bankGone s)

/-- NSEG of an interleave set (R252). -/
def segCountOk (n : Nat) : Bool := (List.range 12).any fun k => n == 2 ^ k || n == 3 * 2 ^ k

/-- A place inside healthy arrays: rows below 0x6000, segments as many as R252 allows, none failed and none with a lost bank,
blocks each in one fit bank (R143, R252, R265, R394). -/
def placeSound (s : State) : Place → Bool
  | .interleave segs r n _ =>
    decide (r + n ≤ 0x6000) && segs.Nodup && segCountOk segs.length && decide (segs.length ≤ 3072) &&
      segs.all fun g =>
        !pcFailed s g.1 (16 * (g.2.1.val % 4) + g.2.2.val) && !testing s (.stk g.1) &&
          !(goneBanks s).any fun b => b.stack == g.1 && b.die == g.2.1 && b.bank.val / 16 == g.2.2.val
  | .blocks bb bs => bb % 32 == 0 && bs.all fun x => decide (x.l0 + bb / 32 ≤ 786432) && bankFit s x.at_
  | .quad _ _ => false
  | .host _ => false

/-- The runs of the pairs of a POND region (R228, R229): the blocks of one run lie on one member, in banks of increasing
number, and the runs of a pair on members of increasing number. Block b of pair p stands at place b × pairs + p. -/
def runsSound (members : List (StackIx × DieIx)) (pairs run : Nat) (bs : List BlockPlace) : Bool :=
  bs.all (fun x => members.contains (x.at_.stack, x.at_.die)) &&
    (List.range bs.length).all fun i =>
      i < pairs ||
        match bs[i - pairs]?, bs[i]? with
        | some a, some b =>
          if (i / pairs) % (max 1 run) = 0 then
            decide (members.idxOf (a.at_.stack, a.at_.die) < members.idxOf (b.at_.stack, b.at_.die))
          else
            a.at_.stack == b.at_.stack && a.at_.die == b.at_.die && decide (a.at_.bank.val < b.at_.bank.val)
        | _, _ => false

/-- The dies of a pond group's members, in member order. -/
def groupDies (members : List (List MemberPlace)) (group : Nat) : List (StackIx × DieIx) :=
  (members.getD group []).map fun y => (y.stack, y.die)

/-- Every die that a binding's pond groups use. -/
def allDies (members : List (List MemberPlace)) : List (StackIx × DieIx) := members.flatten.map fun y => (y.stack, y.die)

/-- PTOK and RUN of a sequence slot are those that the image sets for its POND region, RUN from 1 to 16 (R228). -/
def slotPond (img : ImageReq) (y : SeqSlotReq) : Bool :=
  ((img.regions[y.region]?).bind fun r => r.pond) == some (y.ptok, y.run) && decide (1 ≤ y.run) && decide (y.run ≤ 16)

/-- The blocks of every sequence slot follow R228 and R229. -/
def slotsSound (img : ImageReq) (members : List (List MemberPlace)) (places : List Place) : Bool :=
  img.slots.all fun y =>
    slotPond img y &&
      match places[y.region]? with
      | some (.blocks _ bs) =>
        bs.length % (max 1 y.pairs) == 0 && runsSound (groupDies members y.group) (max 1 y.pairs) y.run bs
      | _ => false

/-- Bank numbers rise along the list. -/
def rising : List (Fin 256) → Bool
  | a :: b :: r => decide (a.val < b.val) && rising (b :: r)
  | _ => true

/-- The members of every pond group (R24): as many as its width, on distinct dies, each with as many banks as the depth, at
rising chain positions, each of them fit. -/
def pondsSound (s : State) (img : ImageReq) (members : List (List MemberPlace)) : Bool :=
  members.length == img.ponds.length &&
    (List.range members.length).all fun i =>
      let ms := members.getD i []
      let q := img.ponds.getD i { width := 0, depth := 0 }
      ms.length == q.width && (groupDies members i).Nodup &&
        ms.all fun y =>
          y.banks.length == q.depth && rising y.banks &&
            y.banks.all fun k => bankFit s { stack := y.stack, die := y.die, bank := k }

/-- The places of a tenant's regions clash with none of another place list. -/
def clearOf (xs ys : List Place) : Bool := xs.all fun p => ys.all fun q => !placesClash p q

/-- No two places of a list clash. -/
def apart : List Place → Bool
  | [] => true
  | p :: r => (r.all fun q => !placesClash p q) && apart r

def Tenant.live (x : Tenant) : Bool := x.state != .empty

def liveTenants (s : State) : List TenIx := (List.finRange 16).filter fun t => (tenOf s t).state != .empty

/-- Places of the system regions, those that a command gives and those that Rilef sets up itself, and of the placer's tables
(R136, R394; log entry 153). -/
def systemPlaces (s : State) : List Place :=
  s.plc.replay :: (s.host.regions.map fun r => r.2.place) ++
    ((List.range 0x8000).filterMap fun i => (Config.systemRegion (BitVec.ofNat 16 (0x8000 + i))).map (·.2)) ++ Config.placerTables

/-- A bank holds part of a place. -/
def placeHolds (b : BankIx) : Place → Bool
  | .interleave segs _ _ _ => segs.any fun g => g.1 == b.stack && g.2.1 == b.die && g.2.2.val == b.bank.val / 16
  | .blocks _ bs => bs.any fun x => x.at_ == b
  | _ => false

/-- The bank stands at a bank position of a pond-group member of the tenant (R24). -/
def Tenant.memberUses (x : Tenant) (b : BankIx) : Bool :=
  x.bind.members.flatten.any fun y => y.stack == b.stack && y.die == b.die && y.banks.contains b.bank

/-- Live tenants with data in a bank, or with a bank position there. -/
def bankOwners (s : State) (b : BankIx) : List TenIx :=
  (liveTenants s).filter fun t => (tenOf s t).memberUses b || (tenOf s t).regions.any fun r => placeHolds b r.place

/-- Quadrant of a tenant's group (R22). -/
def groupQuad (rot : Fin 4) (g : Nat) : QuadIx := ⟨(g + rot.val) % 4, by omega⟩

def diesOfPlace : Place → List (StackIx × DieIx)
  | .interleave segs _ _ _ => segs.map fun g => (g.1, g.2.1)
  | .blocks _ bs => bs.map fun b => (b.at_.stack, b.at_.die)
  | _ => []

/-- Dies that a tenant uses: those of its pond groups and those of its regions. -/
def Tenant.dies (x : Tenant) : List (StackIx × DieIx) :=
  allDies x.bind.members ++ x.regions.flatMap fun r => diesOfPlace r.place

def everyDie : List (StackIx × DieIx) := (List.finRange 12).flatMap fun st => (List.finRange 16).map fun d => (st, d)

/-- Tenants of one entry run side by side: disjoint quadrants, and on every die shares of at most 16 (R35). -/
def entrySound (ts : List Tenant) : Bool :=
  ((List.range 4).all fun q => decide ((ts.filter fun x => (List.range x.groups).any fun g => (groupQuad x.bind.rot g).val == q).length ≤ 1)) &&
    everyDie.all fun d => decide (((ts.filter fun x => x.dies.contains d).map (·.ctrlShare)).sum ≤ 16)

def tenantsIn (s : State) (m : Half) : List Tenant :=
  ((List.finRange 16).filter fun t => m.getLsbD t.val && (tenOf s t).live).map (tenOf s)


/-! ### Retirement (R399 to R402) -/

def usable (s : State) (p : PanIx) : Bool := !(panOf s p).stFail && !(panOf s p).retired && !testing s (.pan p)

/-- No live tenant is bound to a pan, and none moves to it from another pan than `p` (R44, R401). -/
def panFree (s : State) (p q : PanIx) : Bool :=
  (panOf s q).tenant.isNone && (liveTenants s).all fun t =>
    !(tenOf s t).bind.pans.contains q &&
      (tenOf s t).moves.all fun m => match m.what with | .pan a b => b != q || a == p | _ => true

/-- A usable free pan of the quadrant of a retired pan (R400). -/
def sparePanOf (s : State) (p : PanIx) : Option PanIx :=
  (List.finRange 36).find? fun q => quadOfPan q == quadOfPan p && q != p && usable s q && panFree s p q

/-- Usable pans of a quadrant: neither ST_FAIL nor retired (R394). -/
def usablePans (s : State) (q : QuadIx) : Nat :=
  ((List.finRange 36).filter fun p => quadOfPan p == q && !(panOf s p).stFail && !(panOf s p).retired).length

/-- Copy 1 of a pair is the newer (R434). -/
def copy1Newer (g0 g1 : Word) : Bool := decide (1 ≤ (g1 - g0).toNat) && decide ((g1 - g0).toNat < 2 ^ 31)

/-- Flash copies of the retirement record: Rilef writes the older copy after each change (R402). -/
def Flash.putRetire (f : Flash) (r : List RetireEntry) : Flash :=
  match f.ret0, f.ret1 with
  | none, _ => { f with ret0 := some (match f.ret1 with | some (g, _) => g + 1 | none => 1, r) }
  | some (g0, _), none => { f with ret1 := some (g0 + 1, r) }
  | some (g0, _), some (g1, _) =>
    if copy1Newer g0 g1 then { f with ret0 := some (g1 + 1, r) } else { f with ret1 := some (g0 + 1, r) }

/-- Write a change of the option block into the copy not in use, with GEN one greater (R435). A change already waiting there
is kept. -/
def writeOption (s : State) (f : OptBlock → OptBlock) : State :=
  let one : Bool := s.rst.optCopy == 0
  let g := s.rst.optGen + 1
  let old := if one then s.rst.flash.opt1 else s.rst.flash.opt0
  let base := match old with | some (h, o) => if h = g then o else s.rst.opt | none => s.rst.opt
  let new := some (g, f base)
  let fl : Flash := if one then { s.rst.flash with opt1 := new } else { s.rst.flash with opt0 := new }
  { s with rst := { s.rst with flash := fl } }

/-- Add an entry to the retirement record, which holds up to 1,024 (R402). -/
def addRetire (s : State) (e : RetireEntry) : State :=
  { s with
    plc := { s.plc with retire := if s.plc.retire.length < 1024 then s.plc.retire ++ [e] else s.plc.retire },
    rst := { s.rst with
             flash := if s.plc.retire.length < 1024 then s.rst.flash.putRetire (s.plc.retire ++ [e]) else s.rst.flash } }

/-- Live tenants bound to pans of a quadrant. -/
def tenantsOfQuad (s : State) (q : QuadIx) : List TenIx :=
  (liveTenants s).filter fun t => (tenOf s t).bind.pans.any fun p => quadOfPan p == q

/-- A refused copy halts its tenant at the next boundary tick; the entry names its channel (R150). -/
def haltRefused (s : State) (t : TenIx) (l : Fin 32) (code : Byte) : State :=
  modTen s t fun x =>
    { x with haltUnit := if x.haltCode.isNone then some l else x.haltUnit, haltCode := some (x.haltCode.getD code) }

/-- Mark tenants to halt at their next boundary tick, keeping an earlier code. -/
def haltNext (s : State) (ts : List TenIx) (code : Byte) : State :=
  ts.foldl (fun r t => modTen r t fun x => { x with haltCode := some (x.haltCode.getD code) }) s

def stacksOfPlace : Place → List StackIx
  | .interleave segs _ _ _ => segs.map (·.1)
  | .blocks _ bs => bs.map (·.at_.stack)
  | _ => []

/-- Stacks that a tenant is bound to. -/
def tenantStacks (s : State) (t : TenIx) : List StackIx :=
  let x := tenOf s t
  let ss := (allDies x.bind.members).map (·.1) ++ x.regions.flatMap fun r => stacksOfPlace r.place
  (List.finRange 12).filter ss.contains

/-- Live tenants bound to a stack. -/
def tenantsOfStack (s : State) (k : StackIx) : List TenIx := (liveTenants s).filter fun t => (tenantStacks s t).contains k

def addMove (s : State) (t : TenIx) (m : MoveWhat) : State :=
  modTen s t fun x => { x with moves := x.moves ++ [{ what := m, copied := false }] }

/-- Move one tenant from a retired pan to a free usable pan of the quadrant; without one the pan stays in service,
DEGRADED. -/
def movePan (s : State) (p : PanIx) (t : TenIx) : State :=
  match sparePanOf s p with
  | some q => addMove s t (.pan p q)
  | none => logEvent (modPan s p fun x => { x with degraded := true }) 0xC3 [1, BitVec.ofNat 8 p.val] (some t)

/-- Moves to a pan that retires begin anew from the pan that they leave (R400). -/
def recallPans (s : State) (q : PanIx) : State :=
  (liveTenants s).foldl
    (fun r t =>
      ((tenOf s t).moves.filterMap fun m => match m.what with | .pan a b => if b = q then some a else none | _ => none).foldl
        (fun r a => movePan (modTen r t fun x => { x with moves := x.moves.filter fun m => m.what != .pan a q }) a t) r)
    s

/-- Retire a physical pan (R399, R400): record and log it, and move its tenants to the quadrant's spare; the tenants of a
quadrant left with fewer than eight usable pans halt at their next boundary tick. -/
def retirePan (s : State) (p : PanIx) (cause : BitVec 4) : State :=
  if (panOf s p).retired then s
  else
    let s1 := addRetire (modPan s p fun x => { x with retired := true, spare := false })
      { pan := true, stack := 0, die := 0, bank := BitVec.ofNat 8 p.val, spare := 0xF, cause := cause }
    let s2 := logEvent s1 0xC2 [1, BitVec.ofNat 8 p.val] (panOf s p).tenant
    let s3 := ((liveTenants s).filter fun t => (tenOf s t).bind.pans.contains p).foldl (fun r t => movePan r p t) (recallPans s2 p)
    if usablePans s3 (quadOfPan p) < 8 then haltNext s3 (tenantsOfQuad s (quadOfPan p)) 0x1A else s3

/-- The lowest spare of a die that is neither in use, nor recorded as used, nor failed its self-test (R224, R286, R400). -/
def freeSpare (s : State) (st : StackIx) (d : DieIx) : Option (Fin 8) :=
  (List.finRange 8).find? fun j =>
    !(bankOf s (bankKey st.val d.val (256 + j.val))).retired && !(tabGet 0 (stackOf s st).spval d.val).getLsbD j.val &&
      !(s.plc.retire.any fun e =>
        !e.pan && e.stack.toNat == st.val && e.die.toNat == d.val && e.spare.toNat == j.val)

/-- Blocks of a place in a bank take another bank, at the same columns. -/
def placeMoved (ms : List (BankIx × BankIx)) : Place → Place
  | .blocks bb bs =>
    .blocks bb (bs.map fun x => match ms.find? fun m => m.1 == x.at_ with | some m => { x with at_ := m.2 } | none => x)
  | p => p

def banksOfPlace : Place → List BankIx
  | .blocks _ bs => bs.map (·.at_)
  | _ => []

/-- Live tenants with a block of a POND region, or a bank position, in one of these banks. -/
def tenantsOfBanks (s : State) (bs : List BankIx) : List TenIx :=
  (liveTenants s).filter fun t => bs.any (tenOf s t).memberUses ||
    (tenOf s t).regions.any fun r => (banksOfPlace r.place).any bs.contains

/-- Data of an interleaved region lie in a bank: they do not move by blocks. -/
def interleaved (s : State) (b : BankIx) : Bool :=
  (liveTenants s).any fun t => (tenOf s t).regions.any fun r =>
    match r.place with | .interleave _ _ _ _ => placeHolds b r.place | _ => false

/-- The banks to which placement moves are under way, as places that nothing else may take (R400, R401). -/
def moveTargets (s : State) : List Place :=
  (liveTenants s).flatMap fun t => (tenOf s t).moves.filterMap fun m =>
    match m.what with | .bank _ c => some (.blocks (32 * 786432) [{ at_ := c, l0 := 0 }]) | _ => none

/-- A bank to which the placer may move a whole bank: fit, and nothing bound there, held there by the system or moving there
(R394, R400, R401). -/
def bankFree (s : State) (b : BankIx) : Bool :=
  bankFit s b && (bankOwners s b).isEmpty && !(moveTargets s).any (placeHolds b) && !(systemPlaces s).any (placeHolds b)

/-- Shares of the controllers within R35 in every slice entry, in force or to come, with the tenants as they are in `s`. -/
def sharesSound (s : State) : Bool := (s.slice.table ++ s.slice.next.getD []).all fun e => entrySound (tenantsIn s e.mask)

/-- Where a bank goes by a list of moves. -/
def movedTo (ms : List (BankIx × BankIx)) (b : BankIx) : BankIx := match ms.find? fun m => m.1 == b with | some m => m.2 | none => b

/-- Banks of a die that a pond group of a tenant uses: its bank positions there and the blocks of its sequence slots. -/
def Tenant.groupBanks (x : Tenant) (group : Nat) (stack : StackIx) (die : DieIx) : List BankIx :=
  (((x.bind.members.getD group []).flatMap fun y => y.banks.map fun k => ({ stack := y.stack, die := y.die, bank := k } : BankIx)) ++
      (x.slots.filter fun z => z.req.group == group).flatMap fun z =>
        match x.regions[z.req.region]? with | some r => banksOfPlace r.place | none => []).filter fun b =>
    b.stack == stack && b.die == die

/-- The members of a pond group once banks have moved from one die to another (R24, R229, R400): the new die takes the member's
place where all that the group uses on the old one has moved, and else joins as the last member. -/
def Tenant.movedGroup (x : Tenant) (ms : List (BankIx × BankIx)) (group : Nat) (ys : List MemberPlace) : List MemberPlace :=
  match ms with
  | [] => ys
  | (a, c) :: _ =>
    let used := x.groupBanks group a.stack a.die
    if !used.any fun b => ms.any fun m => m.1 == b then ys
    else if used.all fun b => ms.any fun m => m.1 == b then
      ys.map fun y => if y.stack = a.stack ∧ y.die = a.die
        then { stack := c.stack, die := c.die, banks := y.banks.map fun k => (movedTo ms { a with bank := k }).bank } else y
    else if ys.any fun y => y.stack == c.stack && y.die == c.die then ys
    else ys ++ [{ stack := c.stack, die := c.die, banks := [] }]

/-- The tenant once banks have moved: its regions, and the members of its pond groups. -/
def Tenant.moved (x : Tenant) (ms : List (BankIx × BankIx)) : Tenant :=
  { x with
    regions := x.regions.map fun r => { r with place := placeMoved ms r.place },
    bind := { x.bind with members := x.bind.members.zipIdx.map fun g => x.movedGroup ms g.2 g.1 } }

/-- A tenant's pond groups and sequence slots after moves: no bank position left behind, members on distinct dies, runs as R229
has them. -/
def Tenant.movedSound (x : Tenant) (ms : List (BankIx × BankIx)) : Bool :=
  let y := x.moved ms
  (ms.all fun m => !y.memberUses m.1) && ((List.range y.bind.members.length).all fun g => (groupDies y.bind.members g).Nodup) &&
    (y.bind.members.all fun g => g.all fun z => rising z.banks) && slotsSound y.img y.bind.members (y.regions.map (·.place))

/-- Moves of banks, all tenants together, that the rules allow: to free banks, and within R24, R35 and R229 afterwards. -/
def movesSound (s : State) (ms : List (BankIx × BankIx)) : Bool :=
  let ts := tenantsOfBanks s (ms.map (·.1))
  !ms.isEmpty && (ms.all fun m => bankFree s m.2 && !interleaved s m.1) && (ms.map (·.2)).Nodup &&
    (ts.all fun t => (tenOf s t).movedSound ms) &&
    sharesSound (ts.foldl (fun r t => modTen r t fun x => x.moved ms) s)

/-- The banks of a die, in chain order. -/
def dieBanks (st : StackIx) (d : DieIx) : List BankIx := (List.finRange 256).map fun j => { stack := st, die := d, bank := j }

/-- Banks of the die of `b` that hold blocks of the runs that have a block in `b`: every bank that the regions with a block in
`b` use there, or, with `whole`, every bank that the tenants of `b` use there (log entry 49). -/
def runBanks (s : State) (b : BankIx) (whole : Bool) : List BankIx :=
  (dieBanks b.stack b.die).filter fun c =>
    (tenantsOfBanks s [b]).any fun t => (whole && (tenOf s t).memberUses c) || (tenOf s t).regions.any fun r =>
      (whole || (banksOfPlace r.place).contains b) && (banksOfPlace r.place).contains c

def otherDies (b : BankIx) : List (StackIx × DieIx) :=
  ((List.finRange 12).flatMap fun st => (List.finRange 16).map fun d => (st, d)).filter fun x => x != (b.stack, b.die)

/-- Moves of banks of one die, in chain order, to the lowest free banks of another, which keeps the order of their chain. -/
def movesTo (s : State) (bs : List BankIx) (d : StackIx × DieIx) : List (BankIx × BankIx) :=
  let free := (dieBanks d.1 d.2).filter (bankFree s)
  if free.length < bs.length then [] else bs.zip free

/-- A placement move of a bank from a die is under way for some tenant. -/
def movingFrom (s : State) (st : StackIx) (d : DieIx) : Bool :=
  (liveTenants s).any fun t => (tenOf s t).moves.any fun m =>
    match m.what with | .bank a _ => a.stack == st && a.die == d | _ => false

/-- Where the blocks of a bank move when its die has no spare (R400): to the first free bank of another die that the rules allow,
else the whole run, and with it what else the tenants have there, to another die (log entry 49). Banks move from a die in one
move at a time. -/
def bankMoves (s : State) (b : BankIx) : Option (List (BankIx × BankIx)) :=
  if interleaved s b || movingFrom s b.stack b.die then none
  else [[b], runBanks s b false, runBanks s b true].findSome? fun bs =>
    (otherDies b).findSome? fun d => if movesSound s (movesTo s bs d) then some (movesTo s bs d) else none

/-- A bank's bytes (R401). -/
def bankBytes : Nat := 24 * 2 ^ 20

/-- The moves of a retired bank's blocks begin; they consume the growth reserve (R397, R401). -/
def startBankMoves (s : State) (ms : List (BankIx × BankIx)) : State :=
  ms.foldl (fun r m => (tenantsOfBanks r [m.1]).foldl (fun q t => addMove q t (.bank m.1 m.2)) r)
    { s with plc := { s.plc with growLeft := s.plc.growLeft - ms.length * bankBytes } }

/-- A retired bank that no spare replaces: its blocks move, or it stays in service, DEGRADED, while it holds data (R400); so
it does while another move from its die is under way. -/
def relocateBank (s : State) (b : BankIx) (detail : List Byte) : State :=
  if (bankOwners s b).isEmpty then s
  else
    match bankMoves s b with
    | some ms => startBankMoves s ms
    | none =>
      let s1 := modBank s (bankKeyOf b) fun x => { x with degraded := true }
      if movingFrom s b.stack b.die then s1 else logEvent s1 0xC3 detail none

/-- Dies from which a bank moves to `c`. -/
def sourceDies (s : State) (c : BankIx) : List (StackIx × DieIx) :=
  (liveTenants s).flatMap fun t => (tenOf s t).moves.filterMap fun m =>
    match m.what with | .bank a b => if b = c then some (a.stack, a.die) else none | _ => none

/-- Moves to a bank that retires begin anew from their sources, with what moves to its die from the same die (R400). -/
def recallMoves (s : State) (c : BankIx) (detail : List Byte) : State :=
  let dies := sourceDies s c
  let hit : MoveWhat → Option BankIx
    | .bank a b => if dies.contains (a.stack, a.die) ∧ b.stack = c.stack ∧ b.die = c.die then some a else none
    | _ => none
  let src := ((liveTenants s).flatMap fun t => (tenOf s t).moves.filterMap fun m => hit m.what).dedup
  let s1 := (liveTenants s).foldl (fun r t => modTen r t fun x => { x with moves := x.moves.filter fun m => (hit m.what).isNone })
    { s with plc := { s.plc with growLeft := min s.plc.growRes (s.plc.growLeft + src.length * bankBytes) } }
  if dies.isEmpty then s
  else (src.filter (bankGone s)).foldl (fun r a => if movingFrom r a.stack a.die then r else relocateBank r a detail) s1

/-- Retire a bank (R399, R400). A free spare of its die replaces it where `useSpare` allows it, by a placement move of the tenants
with data there (R225, R401); without one its blocks move to another die. -/
def retireBankWith (useSpare : Bool) (s : State) (b : BankIx) (cause : BitVec 4) : State :=
  if (bankOf s (bankKeyOf b)).retired then s
  else
    let spare := if useSpare then freeSpare s b.stack b.die else none
    let s1 := addRetire (modBank s (bankKeyOf b) fun x => { x with retired := true })
      { pan := false, stack := BitVec.ofNat 4 b.stack.val, die := BitVec.ofNat 4 b.die.val,
        bank := BitVec.ofNat 8 b.bank.val,
        spare := (match spare with | some j => BitVec.ofNat 4 j.val | none => 0xF), cause := cause }
    let d := [0, BitVec.ofNat 8 b.stack.val, BitVec.ofNat 8 b.die.val, BitVec.ofNat 8 b.bank.val]
    let s2 := logEvent s1 0xC2 d none
    match spare with
    | some j => (bankOwners s2 b).foldl (fun r t => addMove r t (.spare b j)) (recallMoves s2 b d)
    | none => relocateBank (recallMoves s2 b d) b d

/-- Retire a bank in service: a spare takes its place only once SPARES_FILLED reports (R289). -/
def retireBank (s : State) (b : BankIx) (cause : BitVec 4) : State := retireBankWith s.log.sparesFilled s b cause

/-- A DEGRADED bank is moved once room exists, or is given up once nothing lies in it (R400). -/
def retryBank (s : State) (b : BankIx) : State :=
  if (bankOwners s b).isEmpty then modBank s (bankKeyOf b) fun x => { x with degraded := false }
  else
    match bankMoves s b with
    | some ms => startBankMoves (modBank s (bankKeyOf b) fun x => { x with degraded := false }) ms
    | none => s

/-- A DEGRADED pan: every tenant bound to it moves once a pan is free (R400). -/
def retryPan (s : State) (p : PanIx) : State :=
  let ts := (liveTenants s).filter fun t => (tenOf s t).bind.pans.contains p
  if ts.isEmpty then modPan s p fun x => { x with degraded := false }
  else
    match sparePanOf s p with
    | some q => ts.foldl (fun r t => addMove r t (.pan p q)) (modPan s p fun x => { x with degraded := false })
    | none => s

/-- Units marked DEGRADED are moved once room exists (R400). -/
def retryDegraded (s : State) : State :=
  ((List.finRange 36).filter fun p => (panOf s p).degraded).foldl retryPan
    ((s.dram.banks.filterMap fun e => if e.2.degraded then bankOfNo e.1 else none).foldl retryBank s)

/-- The bank that a physical bank serves; none for an unused spare, and for a bank in whose place a spare stands. -/
def bankOfKey (s : State) (k : Nat) : Option BankIx :=
  match placeOf k with
  | .dram st d b _ _ =>
    if h : st < 12 ∧ d < 16 ∧ dieBank s st d b < 256 then
      if physBank s ⟨st, h.1⟩ ⟨d, h.2.1⟩ (dieBank s st d b) = b
      then some { stack := ⟨st, h.1⟩, die := ⟨d, h.2.1⟩, bank := ⟨dieBank s st d b, h.2.2⟩ } else none
    else none
  | _ => none

/-- The pan whose SRAM a word lies in. -/
def panOfKey (k : Nat) : Option PanIx :=
  match placeOf k with
  | .pan p _ => if h : p < 36 then some ⟨p, h⟩ else none
  | _ => none

/-- The placer adds an occurrence to the count of the word's bank or pan, and retires it at its threshold (R399). -/
def placerCount (s : State) (k : Nat) : State :=
  match bankOfKey s k, panOfKey k with
  | some b, _ =>
    let n := bankKey b.stack.val b.die.val b.bank.val
    let s1 := modBank s n fun x => { x with ceCount := x.ceCount + 1 }
    if s.plc.retireCe ≤ (bankOf s n).ceCount + 1 then retireBank s1 b 0 else s1
  | none, some p =>
    let s1 := modPan s p fun x => { x with ceCount := x.ceCount + 1 }
    if s.plc.retirePan ≤ (panOf s p).ceCount + 1 then retirePan s1 p 0 else s1
  | none, none => s

/-- One error log entry for a word that a reader found corrected or uncorrectable; a clean word leaves all as it was
(R280, R281, R284, R292, R293, R399). `code` is the reader's code for an uncorrectable word. -/
def logWord (s : State) (code : Byte) (k : Nat) (dec : Decoded) (t : Option TenIx) : State :=
  match dec.check with
  | .clean => s
  | .corrected _ =>
    placerCount { s with log := (s.log.corrected k (errEntry s 0x70 0 k dec t)).rakeTake k } k
  | .uncorrectable =>
    match bankOfKey s k with
    | some b => retireBank { s with log := s.log.addError (errEntry s code 1 k dec t) } b 1
    | none => { s with log := s.log.addError (errEntry s code 1 k dec t) }

/-- A reader's finding on one SRAM word, or on a DRAM word counted by itself. -/
def noteWord (s : State) (code : Byte) (k : Nat) (dec : Decoded) (t : Option TenIx) : State :=
  match dec.check with
  | .clean => s
  | .corrected _ => logWord { s with log := s.log.countCe (isDram k) } code k dec t
  | .uncorrectable => logWord { s with log := s.log.countUe (isDram k) } code k dec t

def noteWords (s : State) (code : Byte) (ws : List (Nat × Decoded)) (t : Option TenIx) : State :=
  ws.foldl (fun r w => noteWord r code w.1 w.2 t) s

/-- A reader's findings on the words of one DRAM column: an entry for each word, and one count of each kind (R281). -/
def noteColumn (s : State) (code : Byte) (ws : List (Nat × Decoded)) (t : Option TenIx) : State :=
  let corr := ws.any fun w => match w.2.check with | .corrected _ => true | _ => false
  let ue := ws.any fun w => w.2.check == .uncorrectable
  ws.foldl (fun r w => logWord r code w.1 w.2 t)
    { s with log :=
      (if ue then (if corr then s.log.countCe true else s.log).countUe true
       else if corr then s.log.countCe true else s.log) }

/-! ### Writes of part of a word (R282, R283) -/

/-- Merge bytes into a word at a lane. -/
def mergeBytes (d : Dword) (lane : Nat) (bs : List Byte) : Dword :=
  wordOfBytes (listPatch (leBytes 8 d.toNat) lane (bs.take (8 - lane)))

/-- Write bytes from byte location `loc` (eight to a word key), all within one word. A narrow write corrects and merges;
`code` and `t` are the requester's. Answers false where the merge read is uncorrectable, and then writes nothing. -/
def writePart (s : State) (loc : Nat) (bs : List Byte) (code : Byte) (t : Option TenIx) : State × Bool :=
  if loc % 8 = 0 ∧ 8 ≤ bs.length then (writeWord s (loc / 8) (wordOfBytes (bs.take 8)), true)
  else
    let dec := readWord s (loc / 8)
    if dec.check = .uncorrectable then (noteWord s code (loc / 8) dec t, false)
    else (writeWord (noteWord s code (loc / 8) dec t) (loc / 8) (mergeBytes dec.d (loc % 8) bs), true)

/-- The bytes of consecutive byte locations, corrected, with the words read. -/
def readBytes (s : State) (loc n : Nat) : List Byte × List (Nat × Decoded) :=
  let ws := readWords s (loc / 8) ((loc % 8 + n + 7) / 8)
  (((bytesOfWords (wordsOf ws)).drop (loc % 8)).take n, ws)

/-! ### Traps of a pan (R72, R73) -/

/-- Error code of a trap cause (R73). -/
def trapCode (cause : BitVec 4) : Byte := 0x1F#8 + cause.zeroExtend 8

/-- Enter TRAPPED: fill the trap registers and log the cause with the physical pan, the logical pan, the tenant and the
tide; a late trap also discards the operations still queued in both engines (R72). A pan that traps with FETCH_UE or
DATA_UE is retired (R399). -/
def trapPan (s : State) (p : PanIx) (cause : BitVec 4) (slot : BitVec 2) (pc addr : Dword) (late : Bool) :
    State :=
  let x := panOf s p
  let s1 := modPan s p fun x =>
    { x with
      state := .trapped, trapTide := tideWord s x.tenant, trapErr := trapCode cause, trapCause := cause,
      trapSlot := slot, trapPc := (pc &&& ~~~(0xF#64)).truncate 28, trapAddr := addr, mq := if late then [] else x.mq,
      eq := if late then [] else x.eq }
  let s2 := logEvent s1 (trapCode cause)
    [BitVec.ofNat 8 p.val, (match x.lpan with | some l => BitVec.ofNat 8 l.val | none => 0xFF)] x.tenant
  if cause = 1 ∨ cause = 4 then retirePan s2 p 1 else s2

/-- A BAR0 write that is dropped is counted and has no other effect (R12). -/
def dropBar0 (s : State) : State := { s with host := { s.host with bar0Drop := satAdd s.host.bar0Drop 1 } }

/-- A register write of the debug range: dropped and counted while the range is locked (R12). -/
def debugWrite (s : State) (f : State → State) : State := if s.dbg.open_ then f s else dropBar0 s

/-- The state that a command answers. -/
abbrev Answer := Host.Outcome State Fault Refusal

end Sys2Proof.Machine
end

