-- ==== Sys2Proof/Machine/Mailbox.lean ====
section
/-! DEFINITION. The mailbox (R352 to R356): slots, acceptance, responses, the journal, and the response notices of
HOST_RESPQ (R337 instance 0). -/

namespace Sys2Proof.Machine

def Accepted.none : Accepted := { image := [], result := Option.none }

def acceptedOf (s : State) (n : MbxIx) : Accepted := tabGet Accepted.none s.host.accepted n.val

def slotBytes (s : State) (n : MbxIx) : List Byte := tabRange 0 s.host.slots (64 * n.val) 64

/-- A slot accepted whose response is not yet written: its bit of MBX_PEND. -/
def slotPending (s : State) (n : MbxIx) : Bool := s.host.pend.getLsbD n.val

/-- HOST_RESPQ as Rilef sees it: full, or its host side held in reset (R329, R336). -/
def respqFull (s : State) : Bool := s.host.respq.full 64 || s.rst.perstLow

/-- Commit one response notice, with MSI-X vector 0 where its command asked for it (R324, R365). -/
def pushNotice (s : State) (w : Dword) (notify : Bool) : State :=
  let s1 := { s with host :=
    { s.host with respq := s.host.respq.push 64 w,
                  qerr := tabModify QErr.reset s.host.qerr 0 fun q => q.commit (s.host.respq.count 64 + 1) s.host.respq.flushReq } }
  if notify then sendMsix s1 0 else s1

/-- A response notice; the producer stalls while there is no room (R326). -/
def commitNotice (s : State) (w : Dword) (notify : Bool) : State :=
  if respqFull s || !s.host.respWait.isEmpty then
    { s with host := { s.host with respWait := s.host.respWait ++ [(w, notify)] } }
  else pushNotice s w notify

/-- Stalled notices go in as room appears. -/
def drainNotices (s : State) : State :=
  match s.host.respWait with
  | [] => s
  | (w, nt) :: rest => if respqFull s then s else pushNotice { s with host := { s.host with respWait := rest } } w nt

/-- Notices that waited go in while there is room. -/
def drainAllNotices (s : State) : State := (List.range 64).foldl (fun r _ => drainNotices r) s

/-- Image of a response (R352). -/
def responseImage (cmd : List Byte) (status : Byte) (dseq : Dword) (result : List Byte) : List Byte :=
  padTo 0 2 cmd ++ [status, 0, 0, 0, 0, 0] ++ padTo 0 8 (cmd.drop 8) ++ leBytes 8 dseq.toNat ++ padTo 0 40 result

/-- Write an image into a slot and commit its notice (R339). -/
def writeResponse (s : State) (n : MbxIx) (img : List Byte) (dseq : Dword) (notify : Bool) : State :=
  commitNotice { s with host := { s.host with slots := tabSetList 0 s.host.slots (64 * n.val) img } }
    (fieldTo (dseq.toNat % 2 ^ 32) 6 ||| fieldTo n.val 0) notify

/-- Answer a command image: the next DSEQ, the slot, the journal, the notice (R352, R354). -/
def answer (s : State) (n : MbxIx) (cmd : List Byte) (status : Byte) (result : List Byte) : State :=
  let d := s.host.dnext
  let img := responseImage cmd status d result
  writeResponse { s with host :=
    { s.host with dnext := d + 1, journal := tabSet [] s.host.journal (d.toNat % 256) img } } n img d
    (bitOf (fieldAt cmd 2 2) 0)

/-- Answer the accepted command of a slot: its MBX_PEND bit clears (R356). -/
def respond (s : State) (n : MbxIx) (status : Byte) (result : List Byte) : State :=
  answer { s with host :=
    { s.host with pend := s.host.pend &&& ~~~((1#64) <<< n.val), accepted := tabSet Accepted.none s.host.accepted n.val Accepted.none } }
    n (acceptedOf s n).image status result

/-- A background command has ended: its response waits for MBX_BACKGROUND_COMPLETE (R354). -/
def endBackground (s : State) (n : MbxIx) (status : Byte) (result : List Byte) : State :=
  { s with host := { s.host with accepted := tabModify Accepted.none s.host.accepted n.val fun a =>
      { a with result := some (status, result) } } }

/-- Run the command that a slot holds, if it was accepted with this opcode and has not ended; anything else leaves the
card as it was, and so does a core reset that holds Rilef (R336, R417). `act` takes the accepted image. -/
def runMailbox (s : State) (n : MbxIx) (op : Nat) (act : List Byte → State → State) : Answer :=
  if !s.rst.coreHeld && slotPending s n && fieldAt (acceptedOf s n).image 0 2 == op && (acceptedOf s n).result.isNone
  then .next (act (acceptedOf s n).image s) else .next s

def knownOpcodes : List Nat :=
  [0x01, 0x02, 0x03, 0x04, 0x05, 0x06, 0x10, 0x11, 0x20, 0x21, 0x22, 0x23, 0x30, 0x31, 0x32, 0x33, 0x40, 0x41,
   0x80, 0x81, 0x82, 0x83, 0x84, 0x90, 0x91, 0x92, 0xC0, 0xC1, 0xC2, 0xC3, 0xC4, 0xC5]

/-- Commands that run in the background after acceptance (R354). -/
def backgroundOpcodes : List Nat := [0x02, 0x03, 0x04, 0x22, 0x33, 0x31, 0x41]

/-- A command that must complete before the next doorbell is accepted. -/
def foregroundBusy (s : State) : Bool :=
  (List.finRange 64).any fun n => slotPending s n && !backgroundOpcodes.contains (fieldAt (acceptedOf s n).image 0 2)

/-- MBX_DOORBELL: the slot joins the doorbell queue, which wakes Rilef (R325), or is dropped while it is pending (R353); the
queue holds 64 words and stalls, as it does while its consumer is held in reset (R336, R337). -/
def execMbxDoorbell (slot : MbxIx) (s : State) : Answer :=
  .next (
    if slotPending s slot then logEvent s 0xA3 [BitVec.ofNat 8 slot.val] none
    else if s.rst.coreHeld || s.host.mbxq.full 64 then s
    else
      emit { s with host :=
        { s.host with mbxq := s.host.mbxq.push 64 (BitVec.ofNat 64 slot.val),
                      qerr := tabModify QErr.reset s.host.qerr 2 fun q => q.see (s.host.mbxq.count 64 + 1) } } [.wake 2])

/-- Accept the command of a slot by its HSEQ (R353). -/
def acceptSlot (s : State) (slot : MbxIx) : State :=
  let img := slotBytes s slot
  let hseq : Dword := BitVec.ofNat 64 (fieldAt img 8 8)
  if slotPending s slot then logEvent s 0xA3 [BitVec.ofNat 8 slot.val] none
  else if hseq = s.host.hnext then
    let s1 := { s with host :=
      { s.host with hnext := s.host.hnext + 1, pend := s.host.pend ||| ((1#64) <<< slot.val),
                    accepted := tabSet Accepted.none s.host.accepted slot.val { image := img, result := none } } }
    if knownOpcodes.contains (fieldAt img 0 2) then s1 else respond s1 slot 0xA0 []
  else if s.host.hnext.toNat < hseq.toNat then answer s slot img 0xA1 []
  else if (List.finRange 64).any fun n => slotPending s n && fieldAt (acceptedOf s n).image 8 8 == hseq.toNat then s
  else
    match (List.range 256).find? fun j => fieldAt (tabGet [] s.host.journal j) 8 8 == hseq.toNat &&
        (tabGet [] s.host.journal j).length == 64 && (fieldAt (tabGet [] s.host.journal j) 2 1 != 0xA1) with
    | some j =>
      let r := tabGet [] s.host.journal j
      writeResponse s slot r (BitVec.ofNat 64 (fieldAt r 16 8)) (bitOf (fieldAt img 2 2) 0)
    | none => answer s slot img 0xA1 []

/-- MBX_ACCEPT: Rilef, once it runs, takes the oldest doorbell that it sees while HOST_RESPQ has room and no command in the
foreground runs (R353, R354). On a poisoned word it scans the slots for the next command (R337). -/
def execMbxAccept (s : State) : Answer :=
  if s.rst.fw != 1 || respqFull s || !s.host.respWait.isEmpty || foregroundBusy s then .next s
  else
    if s.host.mbxq.empty then .next s
    else
      let e := s.host.mbxq.head 64
      let s1 := { s with host := { s.host with mbxq := s.host.mbxq.pop 64 } }
      if e.poisoned then
        let s2 := notePoison s1 2 (s.host.mbxq.rp % 64) true
        match (List.finRange 64).find? fun n => !slotPending s2 n && fieldAt (slotBytes s2 n) 8 8 == s2.host.hnext.toNat with
        | some n => .next (acceptSlot s2 n)
        | none => .next s2
      else .next (acceptSlot s1 ⟨e.word.toNat % 64, Nat.mod_lt _ (by decide)⟩)

/-- A RESET whose response has been written: the HOST source asserts 10 µs later (R355, R419). -/
def askReset (s : State) (img : List Byte) (status : Byte) : State :=
  if fieldAt img 0 2 == 0x41 && status == 0 then
    { s with rst := { s.rst with hostPend := s.rst.hostPend ++ [if fieldAt img 0x10 1 = 0 then .core else .system] } }
  else s

/-- MBX_BACKGROUND_COMPLETE: the response of a background command that has ended, by Rilef, which a core reset holds (R336,
R354). -/
def execMbxBackgroundComplete (slot : MbxIx) (s : State) : Answer :=
  match (acceptedOf s slot).result with
  | some r => .next (if slotPending s slot && !s.rst.coreHeld then askReset (respond s slot r.1 r.2) (acceptedOf s slot).image r.1 else s)
  | none => .next s

/-- PING returns the timebase tick (R355). -/
def execPing (slot : MbxIx) (s : State) : Answer :=
  runMailbox s slot 0x01 fun _ s => respond s slot 0 (leBytes 8 s.tick.toNat)

/-- CRASH_MODE applies to the next host loss (R355). -/
def execCrashMode (slot : MbxIx) (s : State) : Answer :=
  runMailbox s slot 0x40 fun a s =>
    if 1 < fieldAt a 0x10 1 then respond s slot 0xA2 []
    else respond { s with host := { s.host with crash := fieldAt a 0x10 1 == 1 } } slot 0 []

end Sys2Proof.Machine
end

