-- ==== Sys2Proof/Machine/Float.lean ====
section
/-! DEFINITION. Exact arithmetic on the extended reals with one rounding (R92, R124), the number formats of R5, and the
function units of R125 to R128. -/

namespace Sys2Proof.Machine

/-- An extended real with a signed zero: `fin neg m e` is (−1)^neg × m × 2^e. -/
inductive Ext
  | nan
  | inf (neg : Bool)
  | fin (neg : Bool) (m : Nat) (e : Int)
deriving DecidableEq, Repr

def Ext.zero : Ext := .fin false 0 0

/-- A whole number times a power of two. -/
def extOf (v : Int) (e : Int) : Ext := .fin (decide (v < 0)) v.natAbs e

def Ext.neg : Ext → Ext
  | .nan => .nan
  | .inf s => .inf (!s)
  | .fin s m e => .fin (!s) m e

def Ext.abs : Ext → Ext
  | .nan => .nan
  | .inf _ => .inf false
  | .fin _ m e => .fin false m e

/-- The mantissa as a signed whole number at exponent `e`, which is at most the value's own. -/
def signedAt (s : Bool) (m : Nat) (e e0 : Int) : Int :=
  if s then -((m * 2 ^ (e - e0).toNat : Nat) : Int) else ((m * 2 ^ (e - e0).toNat : Nat) : Int)

/-- Exact sum. An exact zero is +0 unless both terms are −0 (R124). -/
def Ext.add : Ext → Ext → Ext
  | .nan, _ => .nan
  | _, .nan => .nan
  | .inf s, .inf t => if s = t then .inf s else .nan
  | .inf s, .fin _ _ _ => .inf s
  | .fin _ _ _, .inf t => .inf t
  | .fin s m e, .fin t n f =>
    let e0 := min e f
    let v := signedAt s m e e0 + signedAt t n f e0
    if v = 0 then .fin (s && t && m == 0 && n == 0) 0 0 else extOf v e0

/-- Exact product; ∞ × 0 is NaN. -/
def Ext.mul : Ext → Ext → Ext
  | .nan, _ => .nan
  | _, .nan => .nan
  | .inf s, .inf t => .inf (s != t)
  | .inf s, .fin t m _ => if m = 0 then .nan else .inf (s != t)
  | .fin s m _, .inf t => if m = 0 then .nan else .inf (s != t)
  | .fin s m e, .fin t n f => .fin (s != t) (m * n) (e + f)

/-- Exact order of two values that are not NaN: −1, 0 or 1. Zeros are equal. -/
def Ext.cmp : Ext → Ext → Int
  | .inf s, .inf t => if s = t then 0 else if s then -1 else 1
  | .inf s, _ => if s then -1 else 1
  | _, .inf t => if t then 1 else -1
  | .fin s m e, .fin t n f =>
    let e0 := min e f
    (signedAt s m e e0 - signedAt t n f e0).sign
  | _, _ => 0

def Ext.isNan : Ext → Bool
  | .nan => true
  | _ => false

def Ext.isInf : Ext → Bool
  | .inf _ => true
  | _ => false

def Ext.isZero : Ext → Bool
  | .fin _ m _ => m == 0
  | _ => false

def Ext.sign : Ext → Bool
  | .nan => false
  | .inf s => s
  | .fin s _ _ => s

/-- The least whole number of halves rule: `m / 2^s` rounded to nearest, ties to even. -/
def rneShift (m s : Nat) : Nat :=
  let q := m / 2 ^ s
  let r := m % 2 ^ s * 2
  if r < 2 ^ s then q else if r = 2 ^ s then q + q % 2 else q + 1

/-- Round a magnitude to `p` bits, with no bit below `2^lsbMin`: the mantissa and its exponent. -/
def roundMag (p : Nat) (lsbMin : Int) (m : Nat) (e : Int) : Nat × Int :=
  let lsb := max (e + (Nat.log2 m : Int) + 1 - p) lsbMin
  if lsb ≤ e then (m, e) else (rneShift m (lsb - e).toNat, lsb)

/-- Code of a rounded magnitude in a format with `mb` fraction bits whose least bit is `2^lsbMin`, exponent field above
the fraction. -/
def magCode (mb : Nat) (lsbMin : Int) (q : Nat) (lsb : Int) : Nat :=
  if q = 0 then 0
  else
    let up := min (mb - Nat.log2 q) (lsb - lsbMin).toNat
    ((lsb - up - lsbMin).toNat) * 2 ^ mb + q * 2 ^ up

/-! ### binary32 -/

def nan32 : Word := 0x7FC00000#32

def Ext.ofF32 (w : Word) : Ext :=
  let s := w.getLsbD 31
  let ex := bitsOf w.toNat 23 8
  let fr := bitsOf w.toNat 0 23
  if ex = 255 then (if fr = 0 then .inf s else .nan)
  else if ex = 0 then .fin s fr (-149)
  else .fin s (2 ^ 23 + fr) ((ex : Int) - 150)

def signWord (s : Bool) : Nat := if s then 2 ^ 31 else 0

/-- rne32: round once to binary32, nearest-even; NaN is canonical. -/
def rne32 : Ext → Word
  | .nan => nan32
  | .inf s => BitVec.ofNat 32 (signWord s + 0x7F800000)
  | .fin s m e =>
    let r := roundMag 24 (-149) m e
    let c := magCode 23 (-149) r.1 r.2
    BitVec.ofNat 32 (signWord s + min c 0x7F800000)

def add32 (a b : Word) : Word := rne32 ((Ext.ofF32 a).add (Ext.ofF32 b))

def sub32 (a b : Word) : Word := rne32 ((Ext.ofF32 a).add (Ext.ofF32 b).neg)

def mul32 (a b : Word) : Word := rne32 ((Ext.ofF32 a).mul (Ext.ofF32 b))

def fma32 (a b c : Word) : Word := rne32 (((Ext.ofF32 a).mul (Ext.ofF32 b)).add (Ext.ofF32 c))

def isNan32 (w : Word) : Bool := (Ext.ofF32 w).isNan

def isInf32 (w : Word) : Bool := (Ext.ofF32 w).isInf

def isZero32 (w : Word) : Bool := (Ext.ofF32 w).isZero

/-- Every NaN is taken as the canonical NaN (R110). -/
def canon32 (w : Word) : Word := if isNan32 w then nan32 else w

/-- MAX: a NaN operand gives NaN, and of two zeros +0 (R124). -/
def max32 (a b : Word) : Word :=
  if isNan32 a || isNan32 b then nan32
  else if isZero32 a && isZero32 b then (if a.getLsbD 31 then b else a)
  else if (Ext.ofF32 a).cmp (Ext.ofF32 b) < 0 then b else a

/-- MIN: a NaN operand gives NaN, and of two zeros −0 (R124). -/
def min32 (a b : Word) : Word :=
  if isNan32 a || isNan32 b then nan32
  else if isZero32 a && isZero32 b then (if a.getLsbD 31 then a else b)
  else if (Ext.ofF32 a).cmp (Ext.ofF32 b) < 0 then a else b

def eq32 (a b : Word) : Bool := !isNan32 a && !isNan32 b && (Ext.ofF32 a).cmp (Ext.ofF32 b) == 0

def lt32 (a b : Word) : Bool := !isNan32 a && !isNan32 b && decide ((Ext.ofF32 a).cmp (Ext.ofF32 b) < 0)

def le32 (a b : Word) : Bool := !isNan32 a && !isNan32 b && decide ((Ext.ofF32 a).cmp (Ext.ofF32 b) ≤ 0)

/-- A whole quotient with a sticky bit below it: `m / d × 2^e` to at least 64 bits, correctly rounded by rne32. -/
def ratExt (s : Bool) (m d : Nat) (e : Int) : Ext :=
  let k := 66 + Nat.log2 d - Nat.log2 m
  let q := m * 2 ^ k / d
  .fin s (2 * q + if m * 2 ^ k % d = 0 then 0 else 1) (e - k - 1)

/-- rne32(P / Q), correctly rounded (R128). -/
def div32 (a b : Word) : Word :=
  match Ext.ofF32 a, Ext.ofF32 b with
  | .nan, _ => nan32
  | _, .nan => nan32
  | .inf _, .inf _ => nan32
  | .inf s, .fin t _ _ => rne32 (.inf (s != t))
  | .fin s _ _, .inf t => rne32 (.fin (s != t) 0 0)
  | .fin s m e, .fin t n f =>
    if n = 0 then (if m = 0 then nan32 else rne32 (.inf (s != t)))
    else rne32 (if m = 0 then .fin (s != t) 0 0 else ratExt (s != t) m n (e - f))

/-! ### Narrow formats (R5, R91, R114) -/

/-- A floating-point format: exponent bits, fraction bits, bias. -/
def fpShape (f : Nat) : Nat × Nat × Int :=
  match f with
  | 0 => (8, 23, 127)
  | 1 => (8, 7, 127)
  | 2 => (5, 10, 15)
  | 3 => (4, 3, 7)
  | 4 => (5, 2, 15)
  | _ => (2, 1, 1)

/-- Bits of one element of a format (R5). A reserved code has no element; the 8 bits given here enter only the FILL check of a
descriptor that is refused anyway (DESIGN CHOICE, log entry 154). -/
def fmtBits (f : Nat) : Nat :=
  match f with
  | 0 => 32
  | 1 => 16
  | 2 => 16
  | 3 => 8
  | 4 => 8
  | 5 => 4
  | 6 => 8
  | 7 => 4
  | _ => 8

/-- The value of an element code (R91). `mxInt` is SC = 1, under which INT8 carries 2^−6. -/
def fmtVal (f : Nat) (mxInt : Bool) (code : Nat) : Ext :=
  if f = 6 then
    extOf (if code < 128 then (code : Int) else (code : Int) - 256) (if mxInt then -6 else 0)
  else if f = 7 then extOf (if code < 8 then (code : Int) else (code : Int) - 16) 0
  else
    let (eb, mb, bias) := fpShape f
    let s := bitOf code (eb + mb)
    let ex := bitsOf code mb eb
    let fr := bitsOf code 0 mb
    if f = 3 ∧ ex = 15 ∧ fr = 7 then .nan
    else if f ≠ 3 ∧ f ≠ 5 ∧ ex = 2 ^ eb - 1 then (if fr = 0 then .inf s else .nan)
    else if ex = 0 then .fin s fr (1 - bias - mb)
    else .fin s (2 ^ mb + fr) ((ex : Int) - bias - mb)

/-- A block scale byte 2^(e − 127); 0xFF is NaN (R93). -/
def e8m0 (b : Byte) : Ext := if b = 0xFF then .nan else .fin false 1 ((b.toNat : Int) - 127)

/-- A converted element: its code, whether it saturated, whether a NaN became 0 (R114). -/
structure Conv where
  code : Nat
  sat : Bool
  nanz : Bool
deriving DecidableEq, Repr

/-- Code of the largest finite magnitude of a floating-point format. -/
def fmtMax (f : Nat) : Nat :=
  match f with
  | 0 => 0x7F7FFFFF
  | 1 => 0x7F7F
  | 2 => 0x7BFF
  | 3 => 0x7E
  | 4 => 0x7B
  | _ => 0x7

/-- Convert to INT8 or INT4 with largest value `hi`: nearest integer, ties to even, saturating (R114). -/
def toInt (bits : Nat) (x : Ext) : Conv :=
  let hi : Nat := 2 ^ (bits - 1) - 1
  match x with
  | .nan => { code := 0, sat := false, nanz := true }
  | .inf s => { code := if s then 2 ^ (bits - 1) else hi, sat := true, nanz := false }
  | .fin s m e =>
    let q := if 0 ≤ e then m * 2 ^ e.toNat else rneShift m (-e).toNat
    if s then
      (if q ≤ hi + 1 then { code := (2 ^ bits - q) % 2 ^ bits, sat := false, nanz := false }
       else { code := 2 ^ (bits - 1), sat := true, nanz := false })
    else
      (if q ≤ hi then { code := q, sat := false, nanz := false } else { code := hi, sat := true, nanz := false })

/-- Conversion to a format (R114). -/
def convert (f : Nat) (x : Ext) : Conv :=
  if f = 6 then toInt 8 x
  else if f = 7 then toInt 4 x
  else
    let (eb, mb, bias) := fpShape f
    let sg (s : Bool) : Nat := if s then 2 ^ (eb + mb) else 0
    let infCode : Nat := (2 ^ eb - 1) * 2 ^ mb
    match x with
    | .nan =>
      if f = 5 then { code := 0, sat := false, nanz := true }
      else if f = 3 then { code := 0x7F, sat := false, nanz := false }
      else { code := infCode + 2 ^ (mb - 1), sat := false, nanz := false }
    | .inf s =>
      if f = 3 ∨ f = 5 then { code := sg s + fmtMax f, sat := true, nanz := false }
      else { code := sg s + infCode, sat := false, nanz := false }
    | .fin s m e =>
      let r := roundMag (mb + 1) (1 - bias - mb) m e
      let c := magCode mb (1 - bias - mb) r.1 r.2
      if c ≤ fmtMax f then { code := sg s + c, sat := false, nanz := false }
      else if f = 3 ∨ f = 4 ∨ f = 5 then { code := sg s + fmtMax f, sat := true, nanz := false }
      else { code := sg s + infCode, sat := false, nanz := false }

/-- Element `i` of densely packed bytes, 4-bit elements low nibble first (R5). -/
def packedCode (f : Nat) (bs : List Byte) (i : Nat) : Nat :=
  if fmtBits f = 4 then bitsOf (bs.getD (i / 2) 0).toNat (4 * (i % 2)) 4 else fieldAt bs (i * (fmtBits f / 8)) (fmtBits f / 8)

/-- Pack element codes densely, 4-bit codes low nibble first (R5). -/
def packPairs : List Nat → List Byte
  | [] => []
  | [a] => [BitVec.ofNat 8 a]
  | a :: b :: cs => BitVec.ofNat 8 (a + 16 * b) :: packPairs cs

def packCodes (f : Nat) (cs : List Nat) : List Byte :=
  if fmtBits f = 4 then packPairs cs else cs.flatMap fun c => leBytes (fmtBits f / 8) c

/-! ### Function units (R125, R126) -/

/-- Whole square root by Newton's rule from above. -/
def isqrtStep (n : Nat) : Nat → Nat → Nat
  | 0, x => x
  | fuel + 1, x => if (x + n / x) / 2 < x then isqrtStep n fuel ((x + n / x) / 2) else x

def isqrt (n : Nat) : Nat := if n = 0 then 0 else isqrtStep n 64 (2 ^ (Nat.log2 n / 2 + 1))

/-- √(m/d) × 2^e with a sticky bit, to at least 96 bits. -/
def sqrtExt (s : Bool) (m d : Nat) (e : Int) : Ext :=
  let k := 96 + Nat.log2 d
  let q := isqrt (m * 2 ^ (2 * k) / d)
  .fin s (2 * q + if q * q * d = m * 2 ^ (2 * k) then 0 else 1) (e - k - 1)

/-- Fixed-point unit of the coefficient generator. -/
def fx : Nat := 2 ^ 240

/-- ln 2 in units of 2^−240. -/
def ln2Fx : Nat := 1224685061431752149387114016819916847747660333428801675508466606222838698

/-- The j-th repeated square root of 2, in units of 2^−240. -/
def rootFx : Nat → Nat
  | 0 => 2 * fx
  | j + 1 => isqrt (rootFx j * fx)

/-- 2^(i/256) in units of 2^−240: one factor 2^(2^−j) for each set bit of i. -/
def exp2Fx (i : Nat) : Nat :=
  let step (v w r : Nat) (b : Bool) : Nat := if b then v * r / w else v
  let r1 := rootFx 1
  let r2 := isqrt (r1 * fx)
  let r3 := isqrt (r2 * fx)
  let r4 := isqrt (r3 * fx)
  let r5 := isqrt (r4 * fx)
  let r6 := isqrt (r5 * fx)
  let r7 := isqrt (r6 * fx)
  let r8 := isqrt (r7 * fx)
  step (step (step (step (step (step (step (step fx fx r1 (bitOf i 7)) fx r2 (bitOf i 6)) fx r3 (bitOf i 5)) fx r4
    (bitOf i 4)) fx r5 (bitOf i 3)) fx r6 (bitOf i 2)) fx r7 (bitOf i 1)) fx r8 (bitOf i 0)

/-- The series of atanh: the terms z^(2k+1)/(2k+1) from power `zp`. -/
def atanhSum (z2n z2d : Nat) : Nat → Nat → Nat → Nat
  | 0, _, _ => 0
  | fuel + 1, zp, k => zp / (2 * k + 1) + atanhSum z2n z2d fuel (zp * z2n / z2d) (k + 1)

/-- ln(1 + i/256) in units of 2^−240: 2 atanh(i / (512 + i)). -/
def lnFx (i : Nat) : Nat := 2 * atanhSum (i * i) ((512 + i) * (512 + i)) 90 (i * fx / (512 + i)) 0

def fxWord (s : Bool) (v : Nat) : Word := rne32 (.fin s v (-240))

/-- p = fma(fma(c2, t, c1), t, c0), each rounded once. -/
def poly (c0 c1 c2 : Word) (t : Ext) : Word :=
  let u := rne32 (((Ext.ofF32 c2).mul t).add (Ext.ofF32 c1))
  rne32 (((Ext.ofF32 u).mul t).add (Ext.ofF32 c0))

/-- A word times a power of two, rounded once where it leaves the normal range. -/
def scaleWord (w : Word) (neg : Bool) (n : Int) : Word :=
  rne32 ((Ext.ofF32 w).mul (.fin neg 1 n))

def one32 : Word := 0x3F800000#32

def inf32 (neg : Bool) : Word := rne32 (.inf neg)

def zero32 (neg : Bool) : Word := rne32 (.fin neg 0 0)

/-- ⌊m × 2^e⌋ of a signed mantissa. -/
def floorShift (v : Int) (e : Int) : Int := if 0 ≤ e then v * 2 ^ e.toNat else v / (2 ^ (-e).toNat : Nat)

/-- EXP2 (R125, R126). -/
def exp2Word (w : Word) : Word :=
  match Ext.ofF32 w with
  | .nan => nan32
  | .inf s => if s then zero32 false else inf32 false
  | .fin s m e =>
    let x := Ext.fin s m e
    if 0 ≤ x.cmp (extOf 128 0) then inf32 false
    else if x.cmp (extOf (-150) 0) < 0 then zero32 false
    else
      let v : Int := if s then -(m : Int) else m
      let n := floorShift v e
      let f := x.add (extOf (-n) 0)
      let i : Nat := match f with
        | .fin _ fm fe => (floorShift (fm : Int) (fe + 8)).toNat
        | _ => 0
      let t := f.add (extOf (-(i : Int)) (-8))
      let b := exp2Fx i
      scaleWord (poly (fxWord false b) (fxWord false (b * ln2Fx / fx)) (fxWord false (b * ln2Fx / fx * ln2Fx / (2 * fx))) t)
        false n

/-- The place of the leading bit of a nonzero magnitude. -/
def leadExp (m : Nat) (e : Int) : Int := e + Nat.log2 m

/-- m − 1 of a normalised mantissa (x = 2^k × m), its table index and t = m − a. -/
def tableArg (m : Nat) (e k : Int) : Nat × Ext :=
  let x := Ext.fin false m (e - k)
  let f := x.add (extOf (-1) 0)
  let i : Nat := match f with
    | .fin _ fm fe => (floorShift (fm : Int) (fe + 8)).toNat
    | _ => 0
  (i, x.add (extOf (-(256 + (i : Int))) (-8)))

/-- LOG2 (R125, R126). -/
def log2Word (w : Word) : Word :=
  match Ext.ofF32 w with
  | .nan => nan32
  | .inf s => if s then nan32 else inf32 false
  | .fin s m e =>
    if m = 0 then inf32 true
    else if s then nan32
    else
      let ex := leadExp m e
      let (i, t) := tableArg m e ex
      let c0 := fxWord false (lnFx i * fx / ln2Fx)
      let c1 := rne32 (ratExt false (256 * fx) ((256 + i) * ln2Fx) 0)
      let c2 := rne32 (ratExt true (256 * 256 * fx) (2 * (256 + i) * (256 + i) * ln2Fx) 0)
      rne32 ((extOf ex 0).add (Ext.ofF32 (poly c0 c1 c2 t)))

/-- RCP (R125, R126). -/
def rcpWord (w : Word) : Word :=
  match Ext.ofF32 w with
  | .nan => nan32
  | .inf s => zero32 s
  | .fin s m e =>
    if m = 0 then inf32 s
    else
      let ex := leadExp m e
      let (i, t) := tableArg m e ex
      let a := 256 + i
      scaleWord (poly (rne32 (ratExt false 256 a 0)) (rne32 (ratExt true (256 * 256) (a * a) 0))
        (rne32 (ratExt false (256 * 256 * 256) (a * a * a) 0)) t) s (-ex)

/-- RSQ (R125, R126). -/
def rsqWord (w : Word) : Word :=
  match Ext.ofF32 w with
  | .nan => nan32
  | .inf s => if s then nan32 else zero32 false
  | .fin s m e =>
    if m = 0 then inf32 s
    else if s then nan32
    else
      let k := leadExp m e / 2
      let (i, t) := tableArg m e (2 * k)
      let a := 256 + i
      scaleWord (poly (rne32 (sqrtExt false 256 a 0)) (rne32 (sqrtExt true (256 ^ 3) (a ^ 3) (-1)))
        (rne32 (sqrtExt false (9 * 256 ^ 5) (64 * a ^ 5) 0)) t) false (-k)

/-- L = rne32(log2 e) (R125). -/
def log2e32 : Word := 0x3FB8AA3B#32

/-- TANH (R125, R126). -/
def tanhWord (w : Word) : Word :=
  match Ext.ofF32 w with
  | .nan => nan32
  | .inf s => rne32 (.fin s 1 0)
  | .fin s m e =>
    let ax := Ext.fin false m e
    if ax.cmp (.fin false 1 (-12)) < 0 then w
    else if 0 ≤ ax.cmp (extOf 9 0) then rne32 (.fin s 1 0)
    else
      let u := exp2Word (rne32 ((ax.mul (extOf 2 0)).mul (Ext.ofF32 log2e32)))
      let v := rcpWord (add32 u one32)
      let r := rne32 ((extOf 1 0).add ((Ext.ofF32 v).mul (extOf (-2) 0)))
      rne32 (if s then (Ext.ofF32 r).neg else Ext.ofF32 r)

/-- SIG (R125, R126). -/
def sigWord (w : Word) : Word :=
  match Ext.ofF32 w with
  | .nan => nan32
  | .inf s => if s then zero32 false else one32
  | x => rcpWord (add32 one32 (exp2Word (rne32 (x.neg.mul (Ext.ofF32 log2e32)))))

/-- EXPD (R127). -/
def expdWord (p q : Word) (masked : Bool) : Word :=
  if isNan32 q then nan32
  else if isNan32 p && !masked then nan32
  else if masked then zero32 false
  else if p = inf32 true then zero32 false
  else if q = inf32 false then (if p = inf32 false then one32 else zero32 false)
  else if q = inf32 true then zero32 false
  else exp2Word (sub32 p q)

/-- SNORM (R128): the result, and whether it met a zero sum. -/
def snormWord (p q : Word) : Word × Bool :=
  if isNan32 p || isNan32 q then (nan32, false)
  else if isZero32 q then (zero32 false, true)
  else (div32 p q, false)

end Sys2Proof.Machine
end

