-- ==== Sys2Proof/Machine/Operands.lean ====
section
/-! DEFINITION. The slots of a bundle (R51 to R69): the words that a slot command's fields spell, which words are legal,
which registers each slot names, and the addresses of R50. -/

namespace Sys2Proof.Machine

/-! ### Slot words -/

/-- Field of `n` bits from bit `lo` of a slot word. -/
def fld (w : Word) (lo n : Nat) : Nat := bitsOf w.toNat lo n

def slotOp (w : Word) : Nat := fld w 26 6

/-- Form R (R59). -/
def encR (op : BitVec 6) (rd ra rb : Reg5) (z : BitVec 11) : Word := op ++ rd ++ ra ++ rb ++ z

/-- Form I (R59). -/
def encI (op : BitVec 6) (rd ra : Reg5) (imm : Half) : Word := op ++ rd ++ ra ++ imm

/-- Form Y (R59). -/
def encY (op : BitVec 6) (yr : BitVec 3) (bit : BitVec 6) (sense : BitVec 1) (off : Half) : Word :=
  op ++ yr ++ bit ++ sense ++ off

/-- Form J (R59), and the slots whose other 26 bits are one field. -/
def encJ (op : BitVec 6) (off : BitVec 26) : Word := op ++ off

def encMfmt (fa fb : BitVec 4) (sc : BitVec 2) (gs : Reg5) (z : BitVec 11) : Word := 0x01#6 ++ fa ++ fb ++ sc ++ gs ++ z

def encMsca (ga : Reg5) (rows : BitVec 7) (z : BitVec 14) : Word := 0x02#6 ++ ga ++ rows ++ z

def encMldb (ga gt gc : Reg5) (bs : BitVec 1) (z : BitVec 10) : Word := 0x03#6 ++ ga ++ gt ++ gc ++ bs ++ z

def encMldbt (tb : BitVec 2) (gr : Reg5) (bs : BitVec 1) (z : BitVec 18) : Word := 0x04#6 ++ tb ++ gr ++ bs ++ z

def encMmv (va vd : Reg5) (n : BitVec 4) (acc out bs : BitVec 1) (z : BitVec 9) : Word :=
  0x05#6 ++ va ++ vd ++ n ++ acc ++ out ++ bs ++ z

def encMmt (gr : Reg5) (ta td : BitVec 2) (n : BitVec 8) (acc out bs : BitVec 1) (z : BitVec 6) : Word :=
  0x06#6 ++ gr ++ ta ++ td ++ n ++ acc ++ out ++ bs ++ z

def encErun (cwi : BitVec 6) (vs vd vb n : Reg5) : Word := 0x01#6 ++ cwi ++ vs ++ vd ++ vb ++ n

def encErunt (cwi : BitVec 6) (ts td : BitVec 2) (gr vb : Reg5) (z : BitVec 6) : Word :=
  0x02#6 ++ cwi ++ ts ++ td ++ gr ++ vb ++ z

def encEcwld (cw : BitVec 6) (ga : Reg5) (cnt : BitVec 6) (z : BitVec 9) : Word := 0x03#6 ++ cw ++ ga ++ cnt ++ z

def encEyclr (yr : BitVec 3) (z : BitVec 23) : Word := 0x04#6 ++ yr ++ z

def encVmem (op : BitVec 6) (vr ga : Reg5) (size : BitVec 2) (imm : BitVec 14) : Word := op ++ vr ++ ga ++ size ++ imm

def encCpy (gs gd : Reg5) (sig : BitVec 1) (z : BitVec 3) (tly : BitVec 12) : Word :=
  0x03#6 ++ gs ++ gd ++ sig ++ z ++ tly

def encFence (z : BitVec 22) (scope : BitVec 4) : Word := 0x04#6 ++ z ++ scope

def encSig (z : BitVec 10) (inc : BitVec 4) (tly : BitVec 12) : Word := 0x05#6 ++ z ++ inc ++ tly

def encWait (op : BitVec 6) (rd gt : Reg5) (z : BitVec 4) (tly : BitVec 12) : Word := op ++ rd ++ gt ++ z ++ tly

def encGate (z : BitVec 18) (g : Byte) : Word := 0x08#6 ++ z ++ g

/-! ### Format pairs (R66, R89) -/

def isIntFmt (f : Nat) : Bool := f == 6 || f == 7

/-- A pair that MFMT accepts (R89). -/
def pairPermitted (fa fb : Nat) : Bool :=
  (isIntFmt fa && isIntFmt fb) || (fa == 0 && fb == 0) ||
    (decide (1 ≤ fa) && decide (fa ≤ 5) && decide (1 ≤ fb) && decide (fb ≤ 5))

/-- The exact path (R89). -/
def pairExact (fa fb : Nat) : Bool :=
  (isIntFmt fa && isIntFmt fb) || ((fa == 3 || fa == 5) && (fb == 3 || fb == 5))

/-- Tile depth 512 (R66). -/
def pairDeep (fa fb : Nat) : Bool := (fa == 5 && fb == 5) || (fa == 7 && fb == 7)

def pairDepth (fa fb : Nat) : Nat := if pairDeep fa fb then 512 else 256

/-- Row interval of MMV (R66). -/
def mmvInterval (fa fb : Nat) : Nat :=
  if fa == 0 || fb == 0 then 8 else if fa == 1 || fa == 2 || fb == 1 || fb == 2 then 2 else 1

/-- Row interval of MMT (R66). -/
def mmtInterval (fa fb : Nat) : Nat := if fa == 0 || fb == 0 then 8 else 4

/-! ### Legality (R52, R60, R62, R64, R68, R69, R89) -/

def legalS (w : Word) : Bool :=
  match slotOp w with
  | 0x00 => w == 0
  | 0x01 | 0x02 | 0x03 | 0x04 | 0x05 | 0x06 | 0x07 | 0x08 | 0x09 | 0x0A | 0x0B => fld w 0 11 == 0
  | 0x10 | 0x11 | 0x12 | 0x13 | 0x14 | 0x15 | 0x16 | 0x18 | 0x19 => true
  | 0x17 => fld w 18 3 == 0
  | 0x1A => fld w 16 5 == 0 && fld w 3 13 == 0
  | 0x1B => fld w 16 5 == 0 && fld w 4 12 == 0 && decide (fld w 0 4 ≤ 4)
  | 0x20 | 0x21 | 0x22 | 0x23 | 0x24 | 0x25 => true
  | 0x26 => fld w 16 5 == 0
  | 0x27 => fld w 21 5 == 0 && fld w 11 5 == 0 && fld w 0 11 == 0
  | 0x28 | 0x29 => fld w 0 26 == 0
  | _ => false

def legalM (w : Word) : Bool :=
  match slotOp w with
  | 0 => w == 0
  | 1 => fld w 0 11 == 0 && fld w 16 2 != 3 && pairPermitted (fld w 22 4) (fld w 18 4)
  | 2 => fld w 0 14 == 0
  | 3 => fld w 0 10 == 0
  | 4 => fld w 0 18 == 0
  | 5 => fld w 0 9 == 0
  | 6 => fld w 0 6 == 0 && (decide (fld w 9 8 < 16) || fld w 7 1 == 1)
  | _ => false

def legalE (w : Word) : Bool :=
  match slotOp w with
  | 0 => w == 0
  | 1 => true
  | 2 => fld w 0 6 == 0
  | 3 => fld w 0 9 == 0
  | 4 => fld w 0 23 == 0
  | _ => false

def legalC (w : Word) : Bool :=
  match slotOp w with
  | 0 => w == 0
  | 1 => fld w 14 2 == 0
  | 2 => true
  | 3 => fld w 12 3 == 0
  | 4 => fld w 4 22 == 0
  | 5 => fld w 16 10 == 0
  | 6 | 7 => fld w 12 4 == 0
  | 8 => fld w 8 18 == 0
  | _ => false

/-- The first slot of a bundle that is illegal by itself. -/
def illegalSlot (b : Bundle) : Option (BitVec 2) :=
  if !legalS b.s then some 0 else if !legalM b.m then some 1 else if !legalE b.e then some 2
  else if !legalC b.c then some 3 else none

/-! ### Registers named (R53, R54, R56) -/

/-- Codes of registers for R53 and R54: G n, 32 + Y n, 64 + V n, 96 + T n, 128 + CW n. -/
def resG (n : Nat) : Nat := n
def resY (n : Nat) : Nat := 32 + n
def resV (n : Nat) : Nat := 64 + n
def resT (n : Nat) : Nat := 96 + n
def resCw (n : Nat) : Nat := 128 + n

/-- V registers n, n + 1, … wrapping (R56). -/
def vRange (n len : Nat) : List Nat := (List.range len).map fun j => resV ((n + j) % 32)

/-- What a slot names: registers read and registers written. -/
structure Uses where
  reads : List Nat
  writes : List Nat
deriving DecidableEq, Repr

def Uses.none : Uses := { reads := [], writes := [] }

def Uses.also (u v : Uses) : Uses := { reads := u.reads ++ v.reads, writes := u.writes ++ v.writes }

def usesS (w : Word) : Uses :=
  let a := fld w 21 5
  let b := fld w 16 5
  let c := fld w 11 5
  let op := slotOp w
  if 1 ≤ op ∧ op ≤ 0x0B then { reads := [b, c], writes := [a] }
  else if 0x10 ≤ op ∧ op ≤ 0x16 then { reads := [b], writes := [a] }
  else if op = 0x17 then { reads := [a], writes := [a] }
  else if op = 0x18 then { reads := [b], writes := [a] }
  else if op = 0x19 then { reads := [a, b], writes := [] }
  else if op = 0x1A then { reads := [resY (fld w 0 3)], writes := [a] }
  else if op = 0x1B then { reads := [], writes := [a] }
  else if 0x20 ≤ op ∧ op ≤ 0x23 then { reads := [a, b], writes := [] }
  else if op = 0x24 then { reads := [resY (fld w 23 3)], writes := [] }
  else if op = 0x26 then { reads := [], writes := [a] }
  else if op = 0x27 then { reads := [b], writes := [] }
  else Uses.none

/-- VD counts as written whether or not OUT writes it (R53; log entry 31). -/
def usesM (w : Word) : Uses :=
  match slotOp w with
  | 1 => { reads := if fld w 16 2 = 2 then [fld w 11 5] else [], writes := [] }
  | 2 => { reads := [fld w 21 5], writes := [] }
  | 3 => { reads := [fld w 21 5, fld w 16 5, fld w 11 5], writes := [] }
  | 4 => { reads := [fld w 19 5, resT (fld w 24 2)], writes := [] }
  | 5 => { reads := vRange (fld w 21 5) (fld w 12 4 + 1), writes := vRange (fld w 16 5) (fld w 12 4 + 1) }
  | 6 => { reads := [fld w 21 5, resT (fld w 19 2)], writes := [resT (fld w 17 2)] }
  | _ => Uses.none

def usesE (w : Word) : Uses :=
  match slotOp w with
  | 1 =>
    { reads := vRange (fld w 15 5) (fld w 0 5 + 1) ++ vRange (fld w 5 5) (fld w 0 5 + 1),
      writes := vRange (fld w 10 5) (fld w 0 5 + 1) }
  | 2 => { reads := [fld w 11 5, resT (fld w 18 2), resV (fld w 6 5)], writes := [resT (fld w 16 2)] }
  | 3 => { reads := [fld w 15 5], writes := [] }
  | 4 => { reads := [], writes := [resY (fld w 23 3)] }
  | _ => Uses.none

def usesC (w : Word) : Uses :=
  match slotOp w with
  | 1 => { reads := [fld w 16 5], writes := [resV (fld w 21 5)] }
  | 2 => { reads := [fld w 16 5, resV (fld w 21 5)], writes := [] }
  | 3 => { reads := [fld w 21 5, fld w 16 5], writes := [] }
  | 6 | 7 => { reads := [fld w 16 5], writes := [fld w 21 5] }
  | _ => Uses.none

/-- Two slots name one register other than G0, and one of them writes it (R53). -/
def usesClash (u v : Uses) : Bool :=
  (u.writes.any fun r => r != 0 && (v.reads.contains r || v.writes.contains r)) ||
    (v.writes.any fun r => r != 0 && u.reads.contains r)

/-- The slot that PAN_TRAP.SLOT names where two slots name one register (R53). DESIGN CHOICE (log entry 169): the later slot
of the first clashing pair, pairs taken in the order of their later slot. DESIGN CHOICE (log entry 182): the registers that only
the chain-table entry of an ERUN or ERUNT names do not clash; the operation starts once its bundle has issued, and sees what the
other slots of the bundle wrote. -/
def clashSlot (b : Bundle) : Option (BitVec 2) :=
  if usesClash (usesS b.s) (usesM b.m) then some 1
  else if usesClash (usesS b.s) (usesE b.e) || usesClash (usesM b.m) (usesE b.e) then some 2
  else if usesClash (usesS b.s) (usesC b.c) || usesClash (usesM b.m) (usesC b.c) || usesClash (usesE b.e) (usesC b.c)
  then some 3 else none

/-- The chain-table entries that an E slot reads or writes, with the G and Y registers that the entry it runs names
(R68): what R54 counts beside the registers the slot itself names. -/
def entryUses (x : Pan) (cwi : Nat) : Uses :=
  let e := tabGet [] x.cw cwi
  let gy := (e.getD 3 0).toNat
  let yw := bitOf (e.getD 2 0).toNat 1
  { reads := [resCw cwi, gy % 32, resY (gy / 32)], writes := if yw then [resY (gy / 32)] else [] }

def cwRange (n len : Nat) : List Nat := (List.range len).map fun j => resCw ((n + j) % 64)

def chainUses (x : Pan) (w : Word) : Uses :=
  match slotOp w with
  | 1 => entryUses x (fld w 20 6)
  | 2 => entryUses x (fld w 20 6)
  | 3 => { reads := [], writes := cwRange (fld w 20 6) (fld w 9 6 + 1) }
  | _ => Uses.none

/-! ### Registers of a pan (R45, R47) -/

/-- G0 reads as 0 (R47). -/
def Pan.readG (x : Pan) (r : Nat) : Dword := if r = 0 then 0 else tabGet 0 x.g r

/-- A write to G0 is discarded (R47). -/
def Pan.writeG (x : Pan) (r : Nat) (v : Dword) : Pan := { x with g := if r = 0 then x.g else tabSet 0 x.g r v }

def Pan.readY (x : Pan) (r : Nat) : Dword := tabGet 0 x.y r

/-- The 256 lanes of a V register. -/
def Pan.readV (x : Pan) (r : Nat) : List Word := tabRange 0 x.v (256 * r) 256

def Pan.writeV (x : Pan) (r : Nat) (ls : List Word) : Pan := { x with v := tabSetList 0 x.v (256 * r) (ls.take 256) }

/-- The 256 lanes of row `r` of tile buffer `t`. -/
def Pan.readT (x : Pan) (t r : Nat) : List Word := tabRange 0 x.t (256 * (256 * t + r)) 256

def Pan.writeT (x : Pan) (t r : Nat) (ls : List Word) : Pan :=
  { x with t := tabSetList 0 x.t (256 * (256 * t + r)) (ls.take 256) }

/-- The byte image of a register or row: lane i is bytes 4 i to 4 i + 3 (R45). -/
def laneBytes (ls : List Word) : List Byte := ls.flatMap fun l => leBytes 4 l.toNat

def lanesOfBytes (bs : List Byte) : List Word := (groupsOf 4 bs.length bs).map fun b => BitVec.ofNat 32 (leNat b)

/-! ### Partition-relative addresses (R50) -/

def addrQuad (a : Dword) : Bool := a.getLsbD 28

def addrOff (a : Dword) : Nat := a.toNat % 2 ^ 28

/-- Some byte of the `n` at address `a` lies outside the partition (R50). -/
def outside (x : Pan) (a : Dword) (n : Nat) : Bool :=
  decide (2 ^ 29 ≤ a.toNat) ||
    decide ((if addrQuad a then x.quadLimit.toNat else x.partLimit.toNat) < addrOff a + n)

/-- As `outside`, for the accesses that may only reach pan SRAM (R73). -/
def outsidePan (x : Pan) (a : Dword) (n : Nat) : Bool := addrQuad a || outside x a n

/-- Key of the word at a partition-relative address. -/
def sramKey (p : PanIx) (x : Pan) (a : Dword) : Nat :=
  if addrQuad a then quadKey x.quad.val (x.quadBase.toNat + addrOff a) else panKey p.val (x.partBase.toNat + addrOff a)

/-- Address bits [n − 1:0] ignored. -/
def alignDown (a : Dword) (n : Nat) : Dword := (a >>> n) <<< n

/-- The word that the youngest unwritten store of this pan holds for a key (R70). -/
def storedAhead (x : Pan) (k : Nat) : Option Dword :=
  (x.stores.reverse.findSome? fun st =>
    if st.word ≤ k ∧ k < st.word + st.data.length then some (st.data.getD (k - st.word) 0) else none)

/-- Words as this pan reads them: through its own unwritten stores (R70), else from the memory, decoded (R278). -/
def panRead (s : State) (p : PanIx) (a : Dword) (n : Nat) : List (Nat × Decoded) :=
  (List.range n).map fun i =>
    let k := sramKey p (panOf s p) a + i
    (k, match storedAhead (panOf s p) k with
        | some d => { d := d, check := .clean, syn := 0 }
        | none => readWord s k)

/-- Address of an LD or ST (R60): ra + sext(IMM16) × 8, bits [2:0] ignored. -/
def ldAddr (x : Pan) (ra : Reg5) (imm : Half) : Dword := alignDown (x.readG ra.toNat + imm.signExtend 64 * 8) 3

/-- Address of a VLD or VST (R69): G[GA] + IMM14 × 64, bits [5:0] ignored. -/
def vldAddr (x : Pan) (ga : Reg5) (imm : BitVec 14) : Dword := alignDown (x.readG ga.toNat + imm.zeroExtend 64 * 64) 6

end Sys2Proof.Machine
end

