-- ==== Sys2Proof/Machine/Desc.lean ====
section
/-! DEFINITION. Tensor descriptors (R134 to R152): their fields, the places they reach, and their validation. -/

namespace Sys2Proof.Machine

/-- The fields of a 64-byte descriptor (R134, R144). -/
structure Desc where
  ctl : Nat
  fmtByte : Nat
  layByte : Nat
  rank : Nat
  region : Half
  fill : Nat
  padlo : List Nat
  base : Nat
  size : List Nat
  /-- STR0 (unused) to STR5. -/
  str : List Nat
  /-- SHARD0 to SHARD5 of a GLOBAL descriptor. -/
  shard : List Nat
  tail : Nat
deriving DecidableEq, Repr

def decodeDesc (e : List Byte) : Desc :=
  { ctl := fieldAt e 0 1, fmtByte := fieldAt e 1 1, layByte := fieldAt e 2 1, rank := fieldAt e 3 1,
    region := BitVec.ofNat 16 (fieldAt e 4 2), fill := fieldAt e 6 4,
    padlo := (List.range 6).map fun d => fieldAt e (0x0A + d) 1, base := fieldAt e 0x10 5,
    size := (List.range 6).map fun d => fieldAt e (0x15 + 3 * d) 3,
    str := 0 :: (List.range 5).map fun k => fieldAt e (0x27 + 5 * k) 5,
    shard := (List.range 6).map fun d => fieldAt e (0x27 + 3 * d) 3, tail := fieldAt e 0x39 7 }

def Desc.kind (d : Desc) : Nat := bitsOf d.ctl 0 2
def Desc.comp (d : Desc) : Bool := bitOf d.ctl 2
def Desc.fmt (d : Desc) : Nat := bitsOf d.fmtByte 0 4
def Desc.layout (d : Desc) : Nat := bitsOf d.layByte 0 3
def Desc.bdim (d : Desc) : Nat := bitsOf d.layByte 3 1
def Desc.ptokCode (d : Desc) : Nat := bitsOf d.layByte 4 4
def Desc.ptok (d : Desc) : Nat := 64 * 2 ^ d.ptokCode
def Desc.sz (d : Desc) (k : Nat) : Nat := if k < d.rank then d.size.getD k 0 else 1
def Desc.pad (d : Desc) (k : Nat) : Nat := d.padlo.getD k 0
def Desc.st (d : Desc) (k : Nat) : Nat := d.str.getD k 0
def Desc.nshard (d : Desc) (k : Nat) : Nat := if k < d.rank then bitsOf (d.shard.getD k 0) 0 16 else 1
def Desc.mode (d : Desc) (k : Nat) : Nat := bitsOf (d.shard.getD k 0) 16 2
def Desc.isMxb (d : Desc) : Bool := d.layout == 3
def Desc.isGlobal (d : Desc) : Bool := d.kind == 2

def ceilDiv (a b : Nat) : Nat := (a + b - 1) / b

/-! ### Offsets (R138 to R146) -/

/-- Stride of a dimension of a DENSE or PIECE descriptor that is not TL32 (R137, R138). -/
def Desc.stride (d : Desc) (k : Nat) : Nat :=
  if k = 0 then (if d.layout = 1 then d.st 1 else 1)
  else if k = 1 then (if d.layout = 1 then 1 else d.st 1)
  else d.st k

/-- An axis of a walk: it adds `step` to index `dim` and `stride` to the offset. -/
structure Axis where
  dim : Nat
  step : Nat
  extent : Nat
  stride : Nat
deriving DecidableEq, Repr

/-- The axes of a descriptor's stored indices; a TL32 tensor has two for each of dimensions 0 and 1 (R138,
R140; log entry 144). -/
def Desc.axes (d : Desc) : List Axis :=
  if d.layout = 2 then
    [{ dim := 0, step := 1, extent := min 32 (d.sz 0), stride := 1 },
     { dim := 1, step := 1, extent := min 32 (d.sz 1), stride := 32 },
     { dim := 0, step := 32, extent := ceilDiv (d.sz 0) 32, stride := 1024 },
     { dim := 1, step := 32, extent := ceilDiv (d.sz 1) 32, stride := d.st 1 }] ++
      (List.range 4).map fun k => { dim := k + 2, step := 1, extent := d.sz (k + 2), stride := d.st (k + 2) }
  else (List.range 6).map fun k => { dim := k, step := 1, extent := d.sz k, stride := d.stride k }

/-- Insert by increasing stride, after those of equal stride. -/
def insertAxis (a : Axis) : List Axis → List Axis
  | [] => [a]
  | b :: r => if a.stride < b.stride then a :: b :: r else b :: insertAxis a r

/-- Axes of extent above 1 by increasing stride, those of equal stride by dimension (R151). -/
def sortAxes (as : List Axis) : List Axis :=
  (as.filter fun a => decide (1 < a.extent)).foldl (fun r a => insertAxis a r) []

/-- The largest offset that axes reach. -/
def axesReach (as : List Axis) : Nat := (as.map fun a => (a.extent - 1) * a.stride).sum

/-- ERR_DESC_ALIAS (R151): each stride is at least one more than what the lower axes reach. -/
def aliasFree : Nat → List Axis → Bool
  | _, [] => true
  | reach, a :: r => decide (reach + 1 ≤ a.stride) && aliasFree (reach + (a.extent - 1) * a.stride) r

/-- Last element offset of the footprint (R152). -/
def Desc.last (d : Desc) : Nat :=
  if d.layout = 2 then
    d.base + (ceilDiv (d.sz 0) 32 - 1) * 1024 + (ceilDiv (d.sz 1) 32 - 1) * d.st 1 + 1023 +
      ((List.range 4).map fun k => (d.sz (k + 2) - 1) * d.st (k + 2)).sum
  else d.base + ((List.range 6).map fun k => (d.sz k - 1) * d.stride k).sum

/-- First byte of an element, and whether it is the high nibble (R139). -/
def elemByte (f o : Nat) : Nat × Bool := if fmtBits f = 4 then (o / 2, o % 2 == 1) else (o * (fmtBits f / 8), false)

/-- Last byte of an element. -/
def elemEnd (f o : Nat) : Nat := (elemByte f o).1 + (if fmtBits f = 4 then 0 else fmtBits f / 8 - 1)

def idx (i : List Nat) (k : Nat) : Nat := i.getD k 0

/-- Element offset of a stored index of a DENSE or PIECE descriptor (R138). -/
def Desc.off (d : Desc) (i : List Nat) : Nat :=
  if d.layout = 2 then
    d.base + idx i 0 / 32 * 1024 + idx i 1 / 32 * d.st 1 + idx i 1 % 32 * 32 + idx i 0 % 32 +
      ((List.range 4).map fun k => idx i (k + 2) * d.st (k + 2)).sum
  else d.base + ((List.range 6).map fun k => idx i k * d.stride k).sum

/-- Vector bytes of a POND tensor rounded up to whole columns (R142). -/
def Desc.pondE (d : Desc) : Nat := ceilDiv (d.sz 0 * fmtBits d.fmt) 256 * 32

/-- Bytes of a pond block (R142). -/
def Desc.pondBlock (d : Desc) : Nat := 2 * d.ptok * d.pondE

/-- Blocks of one pair of a POND tensor. -/
def Desc.pondPer (d : Desc) : Nat := ceilDiv (d.sz 2) d.ptok

/-- Largest local extent of a shard along a dimension: q of R145. -/
def Desc.localSize (d : Desc) (k : Nat) : Nat := if d.mode k = 2 then d.sz k else ceilDiv (d.sz k) (d.nshard k)

def Desc.shards (d : Desc) : Nat := ((List.range 6).map fun k => d.nshard k).prod

/-- Digits of a shard number (R145). -/
def Desc.digits (d : Desc) (s : Nat) : List Nat :=
  (List.range 6).map fun k => s / ((List.range k).map fun j => d.nshard j).prod % d.nshard k

/-- Local extent of the shard with digits `g` along a dimension: the indices that R145 assigns to it. -/
def Desc.extentAt (d : Desc) (g : List Nat) (k : Nat) : Nat :=
  match d.mode k with
  | 0 => min (d.localSize k) (d.sz k - d.localSize k * idx g k)
  | 1 => (d.sz k - idx g k + d.nshard k - 1) / d.nshard k
  | _ => d.sz k

/-- The next even stride of a 4-bit format, whose strides are even (R149). -/
def Desc.evened (d : Desc) (n : Nat) : Nat := if fmtBits d.fmt = 4 then n + n % 2 else n

/-- The smallest strides of dimensions 0 to 5 that a layout allows a piece of extents `l` (R138, R140, R145). Of a TL32 piece,
dimension 1 counts tiles. -/
def Desc.packedStrides (d : Desc) (l : Nat → Nat) : List Nat :=
  let first : List Nat :=
    if d.layout = 2 then [1, 1024 * ceilDiv (l 0) 32] else if d.layout = 1 then [d.evened (l 1), 1] else [1, d.evened (l 0)]
  let inner : Nat :=
    if d.layout = 2 then 1024 * ceilDiv (l 0) 32 * ceilDiv (l 1) 32
    else if d.layout = 1 then d.evened (l 1) * l 0 else d.evened (l 0) * l 1
  first ++ (List.range 4).map fun k => inner * ((List.range k).map fun j => l (j + 2)).prod

/-- Offset of a local index in a packed piece of extents `l`. -/
def Desc.packed (d : Desc) (l : Nat → Nat) (i : List Nat) : Nat :=
  let st := d.packedStrides l
  if d.layout = 2 then
    idx i 0 / 32 * 1024 + idx i 1 / 32 * st.getD 1 0 + idx i 1 % 32 * 32 + idx i 0 % 32 +
      ((List.range 4).map fun k => idx i (k + 2) * st.getD (k + 2) 0).sum
  else ((List.range 6).map fun k => idx i k * st.getD k 0).sum

/-- Bytes of a shard's packed piece; a TL32 piece takes whole tiles. -/
def Desc.shardBytes (d : Desc) (s : Nat) : Nat :=
  let l := d.extentAt (d.digits s)
  if (List.range 6).any fun k => l k == 0 then 0
  else
    let top (k : Nat) : Nat := if d.layout = 2 ∧ k < 2 then ceilDiv (l k) 32 * 32 - 1 else l k - 1
    ceilDiv ((d.packed l ((List.range 6).map top) + 1) * fmtBits d.fmt) 8

/-- Where a shard begins in its region: as the placer's map says; without an entry, behind the shards before it, each on a
32-byte boundary (log entry 40). -/
def Desc.shardBase (d : Desc) (map : List Nat) (s : Nat) : Nat :=
  match map[s]? with
  | some b => b
  | none => ((List.range s).map fun i => ceilDiv (d.shardBytes i) 32 * 32).sum

/-- Shard coordinate and local index along a dimension, for replica `rep` (R145). -/
def Desc.shardOf (d : Desc) (rep i k : Nat) : Nat × Nat :=
  match d.mode k with
  | 0 => (i / d.localSize k, i % d.localSize k)
  | 1 => (i % d.nshard k, i / d.nshard k)
  | _ => (rep / ((List.range k).map fun j => if d.mode j = 2 then d.nshard j else 1).prod % d.nshard k, i)

/-- Replicas of each element of a GLOBAL descriptor. -/
def Desc.replicas (d : Desc) : Nat := ((List.range 6).map fun k => if d.mode k = 2 then d.nshard k else 1).prod

/-- Region byte and nibble of a stored index, for replica `rep` of a GLOBAL descriptor (R138, R139, R142, R145). Of a POND
tensor block 0 of every pair, then block 1 of every pair, and so on, pairs in order of layer and head (log entry 40). -/
def Desc.at_ (d : Desc) (map : List Nat) (rep : Nat) (i : List Nat) : Nat × Bool :=
  if !d.isGlobal then elemByte d.fmt (d.off i)
  else if d.layout = 4 then
    let b := idx i 2 / d.ptok * (d.sz 4 * d.sz 3) + (idx i 4 * d.sz 3 + idx i 3)
    let e := elemByte d.fmt (idx i 0)
    (b * d.pondBlock + idx i 1 * (d.ptok * d.pondE) + idx i 2 % d.ptok * d.pondE + e.1, e.2)
  else
    let sh := (List.range 6).map fun k => d.shardOf rep (idx i k) k
    let s := (List.range 6).foldr (fun k acc => (sh.getD k (0, 0)).1 + d.nshard k * acc) 0
    let e := elemByte d.fmt (d.packed (d.extentAt (sh.map (·.1))) (sh.map (·.2)))
    (d.shardBase map s + e.1, e.2)

/-- Byte ranges of its region that a descriptor reaches, each first and one past the last: one, or that of every shard of a
GLOBAL descriptor (R152). -/
def Desc.spans (d : Desc) (map : List Nat) : List (Nat × Nat) :=
  if !d.isGlobal then [((elemByte d.fmt d.base).1, elemEnd d.fmt d.last + 1)]
  else if d.layout = 4 then [(0, d.sz 4 * d.sz 3 * d.pondPer * d.pondBlock)]
  else
    ((List.range d.shards).map fun s => (d.shardBase map s, d.shardBase map s + d.shardBytes s)).filter fun r =>
      decide (r.1 < r.2)

/-! ### Regions (R136) -/

/-- Where a region's bytes lie. -/
inductive View
  | pan (p : PanIx) (base : Nat)
  | quad (q : QuadIx) (base : Nat)
  | placed (pl : Place)
  /-- The ingest staging buffers, region 0x8000 (R345). -/
  | staging
deriving DecidableEq, Repr

/-- A region as a requester sees it. -/
structure RegView where
  view : View
  limit : Nat
  mirrored : Bool
  /-- The placer's map of the region's shards (R145). -/
  map : List Nat
deriving DecidableEq, Repr

/-- Byte locations at and above this are host memory, by physical address. -/
def hostLoc : Nat := 2 ^ 60

/-- Location of a staging byte: lanes 16 q to 16 q + 15 lie in quadrant q, 4 MiB each (R345), in its upper half (log
entry 41). -/
def stagingLoc (off : Nat) : Nat := 8 * quadKey (off / 2 ^ 26) (2 ^ 26 + off % 2 ^ 26) + off % 8

/-- Byte location (eight to a word key) of a byte of a DRAM region placed by R252 and R253. -/
def interleaveLoc (s : State) (segs : List (StackIx × DieIx × Fin 16)) (rbase nrows : Nat) (order : Fin 4) (off : Nat) :
    Option Nat :=
  let n := segs.length
  let byte := off % 32
  let x := off / 32
  let (col, seg, bank, r) : Nat × Nat × Nat × Nat :=
    match order.val with
    | 0 => (x % 32, x / 32 % n, x / 32 / n % 16, x / 32 / n / 16)
    | 1 => (x / n % 32, x % n, x / n / 32 % 16, x / n / 32 / 16)
    | 2 => (x % 32, x / 32 / 16 % n, x / 32 % 16, x / 32 / 16 / n)
    | _ => (x % 32, x / 32 / nrows / 16, x / 32 / nrows % 16, x / 32 % nrows)
  match segs[seg]? with
  | none => none
  | some (st, d, j) =>
    some (8 * dramKey st.val d.val (physBank s st d (16 * j.val + bank)) (32 * (rbase + r) + col) (byte / 8) + byte % 8)

/-- Byte location of a byte of a region. -/
def viewLoc (s : State) (v : View) (off : Nat) : Option Nat :=
  match v with
  | .pan p base => some (8 * panKey p.val (base + off) + off % 8)
  | .quad q base => some (8 * quadKey q.val (base + off) + off % 8)
  | .staging => some (stagingLoc off)
  | .placed (.quad q base) => some (8 * quadKey q.val (base + off) + (base + off) % 8)
  | .placed (.host base) => some (hostLoc + base + off)
  | .placed (.interleave segs rb nr o) => interleaveLoc s segs rb nr o off
  | .placed (.blocks bb bs) =>
    match bs[off / bb]? with
    | none => none
    | some b =>
      let x := off % bb
      some (8 * dramKey b.at_.stack.val b.at_.die.val (physBank s b.at_.stack b.at_.die b.at_.bank.val) (b.l0 + x / 32)
        (x % 32 / 8) + x % 8)

/-- The physical pan bound to a tenant's logical pan. -/
def panFor (s : State) (t : TenIx) (l : Fin 32) : Option PanIx :=
  (List.finRange 36).find? fun p => (panOf s p).tenant == some t && (panOf s p).lpan == some l

/-- A region by number, for a tenant and, for regions 0x0000 and 0x0001, a logical pan (R136). -/
def regionView (s : State) (t : Option TenIx) (l : Fin 32) (r : Half) : Option RegView :=
  if r.toNat < 2 then
    match t with
    | none => none
    | some t =>
      match panFor s t l with
      | none => none
      | some p =>
        if r = 0 then some { view := .pan p (panOf s p).partBase.toNat, limit := (panOf s p).partLimit.toNat, mirrored := false, map := [] }
        else some { view := .quad (panOf s p).quad (panOf s p).quadBase.toNat, limit := (panOf s p).quadLimit.toNat,
                    mirrored := false, map := [] }
  else if r.toNat < 0x1000 then
    match t with
    | none => none
    | some t =>
      ((tenOf s t).regions[r.toNat - 2]?).map fun g => { view := .placed g.place, limit := g.limit, mirrored := g.mirrored, map := g.map }
  else if r = 0x8000 then some { view := .staging, limit := 2 ^ 28, mirrored := false, map := [] }
  else if 0x8000 < r.toNat then
    let g := tabGet { limit := 0, place := .host 0 } s.host.regions r.toNat
    if g.limit != 0 then some { view := .placed g.place, limit := g.limit, mirrored := false, map := [] }
    else if r = Config.replayRegion then some { view := .placed s.plc.replay, limit := 2 ^ 26, mirrored := false, map := [] }
    else (Config.systemRegion r).map fun x => { view := .placed x.2, limit := x.1, mirrored := false, map := [] }
  else none

/-! ### Validation (R147 to R152) -/

/-- Who uses a descriptor. -/
structure DescUser where
  sys : Bool
  tenant : Option TenIx
  lpan : Fin 32
  dst : Bool
deriving DecidableEq, Repr

/-- A region open to a user (R147, R162). -/
def openTo (s : State) (u : DescUser) (r : Half) : Bool :=
  (regionView s u.tenant u.lpan r).isSome && (u.sys || decide (r.toNat < 0x1000))

/-- Check 0x31. DESIGN CHOICE (log entry 187): the reserved MODE 3 and a nonzero BASE of a GLOBAL descriptor, for which R149
names no code, are refused with this one. DESIGN CHOICE (log entry 154): FMT 0x9 to 0xF has no width; its FILL is checked
against the 8 bits that `fmtBits` gives a code it does not know, and 0x33 comes after. -/
def badRsv (d : Desc) : Bool :=
  bitsOf d.ctl 3 5 != 0 || bitsOf d.fmtByte 4 4 != 0 ||
    ((List.range 6).any fun k => decide (d.rank ≤ k) && (d.pad k != 0 || d.size.getD k 0 != 0)) ||
    decide (2 ^ fmtBits d.fmt ≤ d.fill) ||
    (if d.isGlobal then
      d.base != 0 || d.tail != 0 ||
        ((List.range 6).any fun k =>
          bitsOf (d.shard.getD k 0) 18 6 != 0 || d.mode k == 3 || (decide (d.rank ≤ k) && d.shard.getD k 0 != 0))
     else (List.range 5).any fun k => decide (d.rank ≤ k + 1) && d.st (k + 1) != 0)

def badFormat (d : Desc) (comp : Bool) : Bool :=
  decide (9 ≤ d.fmt) || (d.fmt == 8 && !comp) || (d.isMxb && !scaledFmtCode d.fmt) || (d.layout == 4 && !pondFmtCode d.fmt)
where
  scaledFmtCode (f : Nat) : Bool := f == 3 || f == 4 || f == 5 || f == 6
  pondFmtCode (f : Nat) : Bool := f == 1 || f == 3 || f == 4 || f == 5 || f == 6

/-- Check 0x34. DESIGN CHOICE (log entry 155): a POND descriptor against the shape of R143 is refused with this code, since
R149 names none and R143 is a rule of the layout. -/
def badLayout (d : Desc) : Bool :=
  decide (5 ≤ d.layout) || ((d.layout == 1 || d.layout == 2) && d.rank == 1) || (d.isMxb && decide (d.rank ≤ d.bdim)) ||
    (d.layout == 4 && !d.isGlobal) || (!d.isMxb && d.bdim != 0) || (d.layout != 4 && d.ptokCode != 0) ||
    decide (10 < d.ptokCode) ||
    (d.layout == 2 && !d.isGlobal && (d.st 1 % 1024 != 0 || decide (d.st 1 < 1024 * ceilDiv (d.sz 0) 32))) ||
    (d.kind == 1 && (d.rank != 1 || d.layout != 0 || d.pad 0 != 0)) ||
    (d.layout == 4 && (d.rank != 5 || d.sz 1 != 2 ||
      (List.range 5).any fun k => d.pad k != 0 || d.nshard k != 1 || d.mode k != 0))

/-- Check 0x35. DESIGN CHOICE (log entry 155): NSHARD = 0 within RANK, for which R149 names no code, is refused with this one,
which covers the shard product. -/
def badSize (d : Desc) : Bool :=
  ((List.range d.rank).any fun k => d.size.getD k 0 == 0) ||
    (d.isGlobal && (decide (65536 < d.shards) || (List.range d.rank).any fun k => d.nshard k == 0))

def badAlign (d : Desc) : Bool :=
  !d.isGlobal &&
    ((fmtBits d.fmt == 4 && (d.base % 2 == 1 || (List.range 5).any fun k => d.st (k + 1) % 2 == 1)) ||
      (d.layout == 2 && d.base % 1024 != 0))

def badPad (d : Desc) (dst : Bool) : Bool :=
  (dst && (List.range 6).any fun k => d.pad k != 0) || (d.isMxb && d.pad d.bdim % 32 != 0)

def badBounds (s : State) (u : DescUser) (d : Desc) : Bool :=
  match regionView s u.tenant u.lpan d.region with
  | some v => (d.spans v.map).any fun r => decide (v.limit < r.2)
  | none => true

def badAlias (d : Desc) (dst : Bool) : Bool := dst && !d.isGlobal && !aliasFree 0 (sortAxes d.axes)

/-- The companion breaks R141, beside data descriptor `d`. -/
def badCompanion (d c : Desc) : Bool :=
  c.kind != 0 || !c.comp || c.fmt != 8 || c.layout != 0 || c.rank != d.rank ||
    ((List.range 6).any fun k =>
      decide (k < d.rank) &&
        (if k = d.bdim then c.sz k != ceilDiv (d.sz k) 32 || c.pad k != d.pad k / 32
         else c.sz k != d.sz k || c.pad k != d.pad k))

/-- The first failing check of one descriptor, in table order (R149). `data` is the MXB descriptor it accompanies. -/
def checkDesc (s : State) (u : DescUser) (data : Option Desc) (d : Desc) : Option Byte :=
  if d.kind == 3 || (d.isGlobal && !u.sys) || (d.comp && data.isNone) then some 0x30
  else if badRsv d then some 0x31
  else if d.rank == 0 || decide (6 < d.rank) then some 0x32
  else if badFormat d data.isSome then some 0x33
  else if badLayout d then some 0x34
  else if badSize d then some 0x35
  else if !openTo s u d.region then some 0x36
  else if badAlign d then some 0x37
  else if badPad d u.dst then some 0x38
  else if badBounds s u d then some 0x39
  else if badAlias d u.dst then some 0x3A
  else
    match data with
    | some m => if badCompanion m d then some 0x3B else none
    | none => none

/-! ### Pairs of descriptors (R173, R177 to R179) -/

def Desc.contig (d : Desc) : Nat := if d.layout = 1 then 1 else 0

def pairTransposing (a b : Desc) : Bool :=
  a.contig != b.contig || (a.isMxb && b.isMxb && a.bdim != b.bdim)

/-- Dimensions 2 to 5 in order of increasing stride, whatever their extent, those of equal stride by dimension (R173); a
packed piece of a GLOBAL descriptor has its dimensions in order (R145). -/
def outerOrder (d : Desc) : List Nat :=
  if d.isGlobal then (List.range 6).filter fun k => decide (2 ≤ k) && decide (k < d.rank)
  else
    ((d.axes.filter fun a => decide (2 ≤ a.dim) && decide (a.dim < d.rank)).foldl (fun r a => insertAxis a r) []).map (·.dim)

def pairPermuting (a b : Desc) : Bool := outerOrder a != outerOrder b

/-- Location of the first byte of a view whose bytes follow one another in one memory. -/
def View.start : View → Option Nat
  | .pan p base => some (8 * panKey p.val base)
  | .quad q base => some (8 * quadKey q.val base)
  | .staging => none
  | .placed (.quad q base) => some (8 * quadKey q.val base)
  | .placed (.host base) => some (hostLoc + base)
  | .placed _ => none

/-- Byte ranges of the footprints share a byte of the same memory (R177): of one region, or of two that lie in the same
memory. -/
def pairOverlap (s : State) (u : DescUser) (a b : Desc) : Bool :=
  match regionView s u.tenant u.lpan a.region, regionView s u.tenant u.lpan b.region with
  | some v, some w =>
    let meet (x y : Nat) : Bool :=
      (a.spans v.map).any fun p => (b.spans w.map).any fun q => decide (x + p.1 < y + q.2) && decide (y + q.1 < x + p.2)
    (v.view == w.view && meet 0 0) ||
      match v.view.start, w.view.start with
      | some x, some y => meet x y
      | _, _ => false
  | _, _ => false

/-- The exact in-place square transpose (R179). -/
def squareTranspose (a b : Desc) : Bool :=
  a.kind == 0 && b.kind == 0 && a.region == b.region && a.base == b.base && a.fmt == b.fmt && a.st 1 == b.st 1 &&
    a.rank == 2 && b.rank == 2 && ((a.layout == 0 && b.layout == 1) || (a.layout == 1 && b.layout == 0)) &&
    a.sz 0 == a.sz 1 && b.sz 0 == a.sz 0 && b.sz 1 == a.sz 0 &&
    (List.range 6).all fun k => a.pad k == 0 && b.pad k == 0

end Sys2Proof.Machine
end

