-- ==== Sys2Proof/Machine/PondCmd.lean ====
section
/-! DEFINITION. Pond commands as words (R200): layout, durations (R204), and the checks that Rilef makes at load and a unit
at the start of a command (R193, R209). -/

namespace Sys2Proof

/-! ### Fields -/

/-- L0 = 32 × ROW + COL. -/
def PondCmd.l0 (c : PondCmd) : Nat := 32 * c.row.toNat + c.col.toNat

/-- The stride: 0 means NW (R200). -/
def PondCmd.step (c : PondCmd) : Nat := if c.stride = 0 then c.nw.toNat else c.stride.toNat

/-- Bits of AUX (R204). -/
def PondCmd.auxBits (c : PondCmd) (lo n : Nat) : Nat := bitsOf c.aux.toNat lo n

def PondCmd.nq (c : PondCmd) (op : BitVec 6) : Nat := if op = 2 then c.auxBits 0 4 + 1 else 1

/-- SRC of LDW, TGT of FILL, SCRUB of CHECK. -/
def PondCmd.aux0 (c : PondCmd) : Bool := bitOf c.aux.toNat 0

def PondCmd.vlen (c : PondCmd) : Nat := c.auxBits 0 11

def PondCmd.nv (c : PondCmd) (op : BitVec 6) : Nat := if op = 3 then c.auxBits 11 11 else c.auxBits 0 11

def PondCmd.eop (c : PondCmd) : Nat := c.auxBits 0 2

def PondCmd.tgt (c : PondCmd) : Nat := c.auxBits 0 8

/-- Destination column of COPYR. -/
def PondCmd.dest (c : PondCmd) : Nat := 32 * c.auxBits 0 16 + c.auxBits 16 5

end Sys2Proof

namespace Sys2Proof.Machine

/-- The 32 bytes of a pond command (R200). -/
def encPond (op : BitVec 6) (c : PondCmd) : List Byte :=
  [c.opHi ++ op, c.fmtW ++ c.fmtA] ++ leBytes 2 c.bmask.toNat ++
    [c.flagsHi ++ c.win ++ BitVec.ofBool c.winv ++ BitVec.ofBool c.acc, c.wbase, c.nw, c.rsv7] ++ leBytes 2 c.row.toNat ++
    [c.col, c.rsvB] ++ leBytes 2 c.count.toNat ++ leBytes 2 c.stride.toNat ++ leBytes 2 c.adst.toNat ++
    leBytes 2 c.asrc.toNat ++ leBytes 4 c.sig.toNat ++ leBytes 4 c.aux.toNat ++ leBytes 4 c.rsv1C.toNat

/-- The opcode and fields that 32 bytes spell (R200). -/
def decPond (b : List Byte) : BitVec 6 × PondCmd :=
  (BitVec.ofNat 6 (fieldAt b 0 1),
    { opHi := BitVec.ofNat 2 (fieldAt b 0 1 / 64), fmtA := BitVec.ofNat 4 (fieldAt b 1 1),
      fmtW := BitVec.ofNat 4 (fieldAt b 1 1 / 16), bmask := BitVec.ofNat 16 (fieldAt b 2 2),
      acc := bitOf (fieldAt b 4 1) 0, winv := bitOf (fieldAt b 4 1) 1, win := BitVec.ofNat 3 (fieldAt b 4 1 / 4),
      flagsHi := BitVec.ofNat 3 (fieldAt b 4 1 / 32), wbase := BitVec.ofNat 8 (fieldAt b 5 1),
      nw := BitVec.ofNat 8 (fieldAt b 6 1), rsv7 := BitVec.ofNat 8 (fieldAt b 7 1), row := BitVec.ofNat 16 (fieldAt b 8 2),
      col := BitVec.ofNat 8 (fieldAt b 10 1), rsvB := BitVec.ofNat 8 (fieldAt b 11 1),
      count := BitVec.ofNat 16 (fieldAt b 12 2), stride := BitVec.ofNat 16 (fieldAt b 14 2),
      adst := BitVec.ofNat 16 (fieldAt b 16 2), asrc := BitVec.ofNat 16 (fieldAt b 18 2),
      sig := BitVec.ofNat 32 (fieldAt b 20 4), aux := BitVec.ofNat 32 (fieldAt b 24 4),
      rsv1C := BitVec.ofNat 32 (fieldAt b 28 4) })

/-- Elements of a 32-byte column. -/
def perColumn (f : Nat) : Nat := 256 / fmtBits f

/-- Bits of AUX that an opcode defines (R204). -/
def auxMask (op : BitVec 6) : Nat :=
  match op.toNat with
  | 1 => 1
  | 2 => 0xF
  | 3 => 0x3FFFFF
  | 4 => 0x7FF
  | 6 => 3
  | 7 => 1
  | 8 => 0x1FFFFF
  | 9 => 0xFF
  | 11 => 0x7FF
  | 12 => 1
  | _ => 0

/-- Duration in ns with `n` values in the latch (R204). A payload LDW counts 14 and a reserved opcode 14. -/
def pondDuration (op : BitVec 6) (c : PondCmd) (n : Nat) : Nat :=
  let up (a b : Nat) : Nat := (a + b - 1) / b
  match op.toNat with
  | 0 => 0
  | 1 => if c.aux0 then 14 + 2 * c.nw.toNat else 14
  | 2 => 14 + 2 * c.nw.toNat * c.nq op * c.count.toNat
  | 3 => 14 + c.count.toNat + 2 * up c.vlen 32
  | 4 => 14 + 2 * c.nw.toNat * c.count.toNat
  | 5 => 14 + 2 * c.nw.toNat * c.count.toNat
  | 6 => 14 + 4 * c.nw.toNat * c.count.toNat
  | 7 => if c.aux0 then 14 + 2 * up c.count.toNat 32 else 14 + 2 * c.count.toNat
  | 8 => 14 + 4 * c.count.toNat
  | 9 => 120 + 2 * up c.count.toNat 8
  | 10 => 14 + 2 * up n 32
  | 11 => 14 + 4 * up (c.vlen + 2) 32
  | 12 => 14 + 4 * c.count.toNat
  | _ => 14

/-! ### Checks (R193, R209) -/

/-- Formats that pond units take (R193). -/
def pondFormat (f : Nat) : Bool := f == 1 || f == 3 || f == 4 || f == 5 || f == 6

/-- Check 1: a reserved code in either half of FMT is refused in every command (R6); the formats a command uses are those of
R193. -/
def badPondFormat (op : BitVec 6) (c : PondCmd) : Bool :=
  let a := c.fmtA.toNat
  let w := c.fmtW.toNat
  let paired := op == 2 || op == 5 || (op == 6 && c.eop != 3)
  decide (8 ≤ a) || decide (8 ≤ w) || ((op == 2 || op == 4 || op == 5 || op == 6) && !pondFormat a) ||
    (paired && (!pondFormat w || fmtBits a != fmtBits w || ((a == 6 || w == 6) && a != w)))

/-- Check 2: bits of AUX outside an opcode's fields count as reserved (log entry 50). -/
def badPondOpcode (op : BitVec 6) (c : PondCmd) : Bool :=
  decide (0x0C < op.toNat) || c.opHi != 0 || c.flagsHi != 0 || c.rsv7 != 0 || c.rsvB != 0 || c.rsv1C != 0 ||
    Nat.land c.aux.toNat (2 ^ 32 - 1 - auxMask op) != 0

/-- Check 3. -/
def badPondLong (op : BitVec 6) (c : PondCmd) : Bool := decide (1950 < pondDuration op c 256)

/-- W registers that a command uses from WBASE. -/
def pondWUse (op : BitVec 6) (c : PondCmd) : Nat :=
  match op.toNat with
  | 1 => c.nw.toNat
  | 2 => c.nw.toNat * c.nq op
  | 5 => c.nw.toNat
  | 6 => if c.eop = 3 then 0 else c.nw.toNat
  | 7 => if c.aux0 then 0 else 1
  | _ => 0

/-- Accumulator runs of a command: first and length. -/
def pondRuns (op : BitVec 6) (c : PondCmd) : List (Nat × Nat) :=
  let d := c.adst.toNat
  let a := c.asrc.toNat
  let n := c.count.toNat
  match op.toNat with
  | 2 => [(d, c.nq op * n)]
  | 3 => [(a, n), (d, c.vlen + 2)]
  | 4 => [(a, n), (d, c.nw.toNat * perColumn c.fmtA.toNat)]
  | 5 => [(d, n)]
  | 7 => if c.aux0 then [(d, n)] else []
  | 9 => [(a, n)]
  | 11 => [(a, c.vlen + 2), (d, c.vlen + 2)]
  | _ => []

def bankColumns : Nat := 786432

/-- Ends of the column runs of a command. -/
def pondColumnEnds (op : BitVec 6) (c : PondCmd) : List Nat :=
  let n := c.count.toNat
  let items := c.l0 + (n - 1) * c.step + c.nw.toNat
  match op.toNat with
  | 1 => if c.aux0 then [c.l0 + c.nw.toNat] else []
  | 2 => [items]
  | 4 => [items]
  | 5 => [items]
  | 6 => [items]
  | 7 => if c.aux0 then [] else [c.l0 + n]
  | 8 => [c.l0 + n, c.dest + n]
  | 12 => [c.l0 + n]
  | _ => []

def usesCount (op : BitVec 6) : Bool := (2 ≤ op.toNat && decide (op.toNat ≤ 9)) || op == 12

def usesNw (op : BitVec 6) : Bool := op == 1 || op == 2 || op == 4 || op == 5 || op == 6

def usesRow (op : BitVec 6) (c : PondCmd) : Bool := !(pondColumnEnds op c).isEmpty

/-- Check 4. -/
def badPondRange (op : BitVec 6) (c : PondCmd) : Bool :=
  (usesCount op && (c.count == 0 || decide (1024 < c.count.toNat))) ||
    (usesNw op && (c.nw == 0 || decide (32 < c.nw.toNat))) ||
    (pondWUse op c != 0 && decide (32 < c.wbase.toNat + pondWUse op c)) ||
    (usesRow op c && (decide (0x5FFF < c.row.toNat) || decide (31 < c.col.toNat))) ||
    ((pondColumnEnds op c).any fun e => decide (bankColumns < e)) ||
    ((pondRuns op c).any fun r => decide (1024 < r.1 + r.2)) ||
    ((op == 3 || op == 4) && decide (c.count.toNat < c.nv op))

/-- COPYR with overlapping source and destination. -/
def copyrOverlap (op : BitVec 6) (c : PondCmd) : Bool :=
  op == 8 && decide (c.l0 < c.dest + c.count.toNat) && decide (c.dest < c.l0 + c.count.toNat)

/-- Check 5, for a command to the segment whose die bank numbers begin at `bank0`. -/
def badPondChain (op : BitVec 6) (c : PondCmd) (bank0 : Nat) : Bool :=
  (op == 9 && (decide (256 < c.count.toNat) ||
    (List.range 16).any fun k => c.bmask.getLsbD k && decide (c.tgt ≤ bank0 + k))) || copyrOverlap op c

/-- An all-zero command is a NOP (R200). -/
def pondZero (op : BitVec 6) (c : PondCmd) : Bool := (encPond op c).all (· == 0)

/-- STAT of a command that a unit does not start, for die bank number `bank` with `n` values in its latch (R209). -/
def pondStop (op : BitVec 6) (c : PondCmd) (bank n : Nat) : Option (BitVec 4) :=
  if pondZero op c then none
  else if badPondFormat op c then some 4
  else if badPondOpcode op c then some 5
  else if badPondLong op c then some 2
  else if badPondRange op c then some 3
  else if op == 9 && (decide (256 < c.count.toNat) || decide (c.tgt ≤ bank)) then some 3
  else if op == 10 && decide (1024 < c.adst.toNat + n) then some 3
  else if copyrOverlap op c then some 9
  else none

/-! ### The pond stream tables of an image (R209, R217) -/

/-- Commands of the stream tables, with their table and place. -/
def planCommands (plan : List PlanTable) : List (Nat × Nat × Fin 16 × BitVec 6 × PondCmd) :=
  (List.range plan.length).flatMap fun i =>
    match plan[i]? with
    | none => []
    | some p =>
      (List.range p.items.length).filterMap fun j =>
        match p.items[j]? with
        | some (_, PlanItem.cmd _ seg op c _ _) => some (i, j, seg, op, c)
        | _ => none

/-- The most values that a CSEND of the table leaves in the latch of a bank that a CRECV names: a CSEND to one of the same
positions, or, for a command of an attention record, any CSEND of such a record. -/
def latchMost (p : PlanTable) (m : Nat) (seg : Fin 16) (mask : Half) (attn : Bool) : Nat :=
  p.items.foldl
    (fun n x =>
      match x.2 with
      | .cmd k _ op c _ r =>
        let here := if attn then r.isSome
          else k == m && r.isNone && c.tgt / 16 == seg.val && mask.getLsbD (c.tgt % 16)
        if op == 9 && here then max n c.count.toNat else n
      | _ => n) 1

/-- A CRECV whose accumulator run passes A1023: table and place (R209, check 4). -/
def planRecvLong (plan : List PlanTable) : List (Nat × Nat) :=
  plan.zipIdx.flatMap fun p =>
    p.1.items.zipIdx.filterMap fun x =>
      match x.1.2 with
      | .cmd m seg op c _ r =>
        if op == 10 && decide (1024 < c.adst.toNat + latchMost p.1 m seg c.bmask r.isSome) then some (p.2, x.2) else none
      | _ => none

/-- The first failing check of R209 and the first command that fails it: code, table, place. -/
def planRefusal (plan : List PlanTable) : Option (Byte × Nat × Nat) :=
  let cs := (planCommands plan).filter fun x => !pondZero x.2.2.2.1 x.2.2.2.2
  let long := planRecvLong plan
  let first (code : Byte) (bad : Fin 16 → BitVec 6 → PondCmd → Bool) : Option (Byte × Nat × Nat) :=
    (cs.find? fun x => bad x.2.2.1 x.2.2.2.1 x.2.2.2.2).map fun x => (code, x.1, x.2.1)
  (first 0x50 fun _ op c => badPondFormat op c).or <|
    (first 0x51 fun _ op c => badPondOpcode op c).or <|
      (first 0x52 fun _ op c => badPondLong op c).or <|
        ((cs.find? fun x => badPondRange x.2.2.2.1 x.2.2.2.2 || long.contains (x.1, x.2.1)).map fun x => (0x53, x.1, x.2.1)).or <|
          first 0x54 fun seg op c => badPondChain op c (16 * seg.val)

/-- ACT_BANKS above the limit of its gear's refresh cadence (R217). -/
def overBudget (actBanks : Nat) (refresh : Bool) : Bool := decide ((if refresh then 80 else 96) < actBanks)

end Sys2Proof.Machine
end

