-- ==== Sys2Proof/Machine/Plan.lean ====
section
/-! DEFINITION. The places that the plan of a running body names, and its SCHED slots (R24, R228, R245). -/

namespace Sys2Proof.Machine

/-- Logical pans of a tenant with their physical pans. -/
def Tenant.lpans (x : Tenant) : List (Fin 32 × PanIx) :=
  (List.finRange 32).filterMap fun l => (x.bind.pans[l.val]?).map fun p => (l, p)

/-- The block that an entry's record names, or another block of its pair (R228): block b of pair p stands at place
b × pairs + p of its region. -/
def blockOf (x : Tenant) (r : AttnRef) (b : Nat) : Option BlockPlace :=
  (x.slots[r.slot]?).bind fun y => (x.regions[y.req.region]?).bind fun g =>
    match g.place with
    | .blocks _ bs => bs[b * max 1 y.req.pairs + r.pair]?
    | _ => none

/-- Member `m` of a pond group. -/
def memberOf (x : Tenant) (group m : Nat) : Option MemberPlace := (x.bind.members.getD group [])[m]?

/-- The bank at a bank position of a member (R24). -/
def memberBank (x : Tenant) (group m pos : Nat) : Option BankIx :=
  (memberOf x group m).bind fun y => (y.banks[pos]?).map fun k => { stack := y.stack, die := y.die, bank := k }

/-- The banks at the positions 16 seg + k of a member that a mask selects. -/
def memberBanks (x : Tenant) (group m : Nat) (seg : Fin 16) (mask : Half) : List BankIx :=
  ((List.range 16).filter fun k => mask.getLsbD k).filterMap fun k => memberBank x group m (16 * seg.val + k)

/-- Banks by segment: the command-row writes that reach them, each with its BMASK. -/
def targetsOf (bs : List BankIx) : List (SegIx × Half) :=
  ((bs.map bankSeg).dedup).map fun g =>
    (g, (bs.filter fun b => bankSeg b == g).foldl (fun (m : Half) b => m ||| ((1#16) <<< (b.bank.val % 16))) 0)

/-- The table is one of the running body in the running gear, and the tide is not idle. -/
def streamLive (x : Tenant) (p : PlanTable) : Bool :=
  x.state == .running && x.inTide && !x.idleNow && p.gear == x.gear && p.body == x.body

/-- The segment that a transfer slot names (R245). -/
def transferSeg (x : Tenant) (region seg : Nat) : Option SegIx :=
  (x.regions[region]?).bind fun g =>
    match g.place with
    | .interleave segs _ _ _ => (segs[seg]?).map fun e =>
        { stack := e.1, pc := ⟨16 * (e.2.1.val % 4) + e.2.2.val, by omega⟩, sid := ⟨e.2.1.val / 4, by omega⟩ }
    | _ => none

def slotPtok (x : Tenant) (r : AttnRef) : Nat := match x.slots[r.slot]? with | some y => y.req.ptok | none => 0

/-- First token of a block of the pair (R228). -/
def firstToken (x : Tenant) (r : AttnRef) (b : Nat) : Nat := b * slotPtok x r

/-- The banks that hold live blocks of the pair. -/
def liveBanks (x : Tenant) (r : AttnRef) (len : Nat) : List BankIx :=
  let n := match x.slots[r.slot]? with | some y => y.blocks | none => 0
  (((List.range n).filter fun b => decide (firstToken x r b < len)).filterMap fun b => (blockOf x r b).map fun y => y.at_).dedup

def findAttn (x : Tenant) (r : AttnRef) : Option AttnRead := x.attn.find? fun a => a.record == r.record

/-- The banks of an attention record's LDW: every live block's, or, with the record still to be read, every block's of the pair
(R233). -/
def recordBanks (x : Tenant) (r : AttnRef) : List BankIx :=
  liveBanks x r (match findAttn x r with | some a => a.len | none => 2 ^ 32)

/-- The banks that an entry of a stream table names. -/
def itemBanks (x : Tenant) (p : PlanTable) : PlanItem → List BankIx
  | .cmd m seg _ c _ none => memberBanks x p.group m seg c.bmask
  | .cmd _ _ op c _ (some r) =>
    if op == 1 && !c.aux0 then recordBanks x r else ((blockOf x r r.block).map fun b => b.at_).toList
  | .readback m bank _ _ _ _ none => (memberBank x p.group m bank.val).toList
  | .readback _ _ _ _ _ _ (some q) => ((blockOf x q.attn q.attn.block).map fun b => b.at_).toList
  | .status m bank none => (memberBank x p.group m bank.val).toList
  | .status _ _ (some r) => ((blockOf x r r.block).map fun b => b.at_).toList
  | .transfer region seg => match transferSeg x region seg with | some g => allSegBanks g | none => []

/-- Tick of the boundary at which the tide of a tenant began, as its pans hold it. -/
def planStart (s : State) (x : Tenant) : Option Dword := (x.lpans.head?).map fun lp => (panOf s lp.2).boundaryTick

/-- The entries still to come of the running tables whose tick is at or before `tick`, by the banks they name. -/
def dueBanks (s : State) (tick : Nat) : List BankIx :=
  (List.finRange 16).flatMap fun t =>
    let x := tenOf s t
    match planStart s x with
    | none => []
    | some t0 =>
      x.img.plan.zipIdx.flatMap fun p =>
        if !streamLive x p.1 then []
        else
          ((p.1.items.drop (tabGet 0 x.planPos p.2)).filter fun i => decide (t0.toNat + i.1 ≤ tick)).flatMap fun i =>
            itemBanks x p.1 i.2

/-- A SCHED slot of the pseudo-channel is still to be taken by the end of a burst that begins now, one burst time allowed: a row
command goes before the burst and takes one more (R245; DEDUCED, log entry 160). -/
def slotOverdue (s : State) (k : StackIx) (q : PcIx) (rowCmd : Bool) : Bool :=
  (dueBanks s (if rowCmd then s.tick.toNat else s.tick.toNat - 1)).any fun b => b.stack == k && (bankSeg b).pc == q

/-- A running body plans transfer slots on the pseudo-channel (R245). -/
def hasSlots (s : State) (k : StackIx) (q : PcIx) : Bool :=
  (List.finRange 16).any fun t =>
    (tenOf s t).img.plan.any fun p =>
      streamLive (tenOf s t) p && p.items.any fun i =>
        match i.2 with
        | .transfer region seg =>
          (match transferSeg (tenOf s t) region seg with | some g => g.stack == k && g.pc == q | none => false)
        | _ => false

end Sys2Proof.Machine
end

