-- ==== Sys2Proof/Machine/Store.lean ====
section
/-! DEFINITION. Stored words as every reader and writer outside the pans sees them: the write queues of the memory
controllers stand before the arrays (R254, R255). Also the bytes of a region. -/

namespace Sys2Proof.Machine

/-! ### Halts of channels (R181 to R183) -/

/-- Cycles of the copy in progress join the tide's count: two to a tick (R186). -/
def PanChan.addBusy (c : PanChan) (tick : Dword) : PanChan :=
  { c with busyNow := c.busyNow + ((tick - c.startTick) * 2).truncate 32, startTick := tick }

/-- Halt a pan channel: the record of R186, the log entry of R181, and retirement of a pan whose own SRAM failed (R399). What
follows in the queue is discarded (R182). DESIGN CHOICE (log entry 192): OUT of CPY_STAT then counts the halted copy alone. -/
def haltChan (s : State) (p : PanIx) (c : PanCopy) (rmw : Bool) (region : Half) (off : Nat) : State :=
  let x := panOf s p
  let s1 := modPan s p fun x =>
    { x with chan :=
        { x.chan.addBusy s.tick with
          state := .halted, err := 0x40, haltTide := tideWord s x.tenant, haltRmw := rmw, haltDaddr := c.gs,
          haltRegion := region, haltOff := BitVec.ofNat 40 off, lost := x.chan.queue, queue := [] } }
  let s2 := logEvent s1 0x40
    ([BitVec.ofNat 8 (match x.lpan with | some l => l.val | none => 0)] ++ leBytes 4 c.gs.toNat ++ leBytes 5 off) x.tenant
  if region = 0 then retirePan s2 p 1 else s2

/-- Whether the request that a channel holds comes from a service that reports by this code in an event: pan channels
0 to 31, system channel n as 32 + n (log entry 44). -/
def schByte (n : SchIx) : Byte := BitVec.ofNat 8 (32 + n.val)

/-- Halt a system channel: it holds its request until RESTART (R181, R183). -/
def haltSch (s : State) (n : SchIx) (r : SysReq) (region : Half) (off : Nat) : State :=
  logEvent
    (modSch s n fun c =>
      { c with cur := some r, done := none, state := .halted, err := 0x40, haltRegion := region, haltOff := BitVec.ofNat 40 off }) 0x40
    ([schByte n] ++ leBytes 4 r.srcOff ++ leBytes 5 off) r.tenant

/-- The channel that made a request of the memory controllers meets a word that it may not use, and halts (R181, R283). Which
element of the transfer the request carries is free (log entry 159). -/
def haltSource (s : State) (src : ReqSource) (rmw : Bool) : State :=
  let off := (freshFree s).toNat % 2 ^ 40
  match src with
  | .pan p =>
    match (panOf s p).chan.cur with
    | some c =>
      if (panOf s p).chan.state == .halted then s
      else haltChan (usedFree s 1) p c rmw (decodeDesc (if rmw then (panOf s p).chan.privDst else (panOf s p).chan.privSrc)).region off
    | none => s
  | .sys n =>
    match (schOf s n).cur, (schOf s n).done with
    | some r, none =>
      if (schOf s n).state == .halted then s else haltSch (usedFree s 1) n r (if rmw then r.dstRegion else r.srcRegion) off
    | _, _ => s
  | _ => s

/-! ### Banks and their units -/

/-- A bank as a unit sees it: stack, die, physical bank, die bank number. -/
structure UnitAt where
  st : Nat
  d : Nat
  phys : Nat
  bank : Nat
deriving DecidableEq, Repr

def UnitAt.key (x : UnitAt) : Nat := bankKey x.st x.d x.phys

/-- The unit that serves a bank (R224). -/
def unitAt (s : State) (b : BankIx) : UnitAt :=
  { st := b.stack.val, d := b.die.val, phys := physBank s b.stack b.die b.bank.val, bank := b.bank.val }

/-- The arrays of a stack take accesses: not at a clock change, in self-refresh, or in the pass that follows either (R263, R271,
R272). -/
def stackServes (s : State) (k : StackIx) : Bool := (stackOf s k).mode == .run || (stackOf s k).mode == .training

/-- A command runs on the bank, it is being refreshed or trained, or its stack takes no access: an ordinary access waits (R213,
R257, R261, R272). -/
def bankBusy (s : State) (b : BankIx) : Bool :=
  (unitOf s (unitAt s b).key).running.isSome || (bankOf s (bankKeyOf b)).refreshing || !stackServes s b.stack

/-- An access that reaches the bank in the middle of a command waits, and goes before a held command (R213). -/
def askBank (s : State) (b : BankIx) (src : Option ReqSource) : State :=
  if (unitOf s (unitAt s b).key).running.isSome && !(bankOf s (bankKeyOf b)).asked.contains src then
    modBank s (bankKeyOf b) fun x => { x with asked := x.asked ++ [src] }
  else s

/-- An access to a bank has been served: a command held there waits for no further one (R213). -/
def answered (s : State) (b : BankIx) : State := modBank s (bankKeyOf b) fun x => { x with asked := [], waiting := false }

/-- A source's transfer is over: it waits for no bank. -/
def forgetAsks (s : State) (src : ReqSource) : State :=
  { s with dram := { s.dram with
    banks := tabClean BankSt.reset
      (s.dram.banks.map fun e => (e.1, { e.2 with asked := e.2.asked.filter fun y => y != some src })) } }

/-- What else than its queue a system channel works for (R161). -/
def sysDuty (s : State) (n : SchIx) : Bool :=
  if n.val < 4 then s.host.lanes.any fun l => l.1 / 16 == n.val && !l.2.staged.isEmpty
  else if n.val < 6 then false
  else if n.val < 10 then s.net.ports.any fun x => !x.2.frames.isEmpty
  else if n.val = 10 then s.mir.role == .primary
  else if n.val = 11 then s.mir.role == .secondary
  else !s.rst.coreHeld

/-- The source still waits to make the access that it asked for; none is a read of the result row from outside. -/
def asking (s : State) : Option ReqSource → Bool
  | some (.pan p) => (panOf s p).chan.state != .halted && !(panOf s p).chan.queue.isEmpty
  | some (.sys n) =>
    (schOf s n).enable && (schOf s n).state != .halted && (!(schOf s n).queue.isEmpty || sysDuty s n)
  | some (.stream t) => (tenOf s t).state == .running && (tenOf s t).inTide && !(tenOf s t).idleNow
  | some .rake => false
  | some .fill => false
  | none => true

/-- Write the stored words of a column. -/
def storeColumn (s : State) (x : UnitAt) (l : Nat) (ws : List Stored) : State :=
  { s with mem := (ws.foldl (fun (r : Memory × Nat) w => (writeStored r.1 r.2 w, r.2 + 1))
      (s.mem, dramKey x.st x.d x.phys l 0)).1 }

/-! ### Commands on the way to a stack (R250, R251, R266) -/

/-- A command leaves the controller into the retry buffer of its pseudo-channel (R266). -/
def noteSent (s : State) (k : StackIx) (q : PcIx) (c : SentCmd) : State :=
  modStack s k fun x =>
    { x with sent := tabModify [] x.sent q.val fun l => (l ++ [c]).drop (l.length + 1 - 16), alerts := tabSet 0 x.alerts q.val 0 }

/-- A command to a bank. -/
def sendTo (s : State) (b : BankIx) (c : SentCmd) : State := noteSent s b.stack (bankSeg b).pc c

/-- Precharge a bank that has a row open (R251). -/
def closeRow (s : State) (b : BankIx) : State :=
  if (bankOf s (bankKeyOf b)).openRow.isNone then s else prechargeBank (sendTo s b (.precharge b)) b

/-- Pond mode is entered (R196): every bank of the pseudo-channel is precharged, then POND = 1. -/
def enterPond (s : State) (k : StackIx) (q : PcIx) : State :=
  modStack ((pcBanks k q).foldl closeRow s) k fun x => { x with pond := x.pond ||| pcBit q, exiting := x.exiting &&& ~~~(pcBit q) }

/-- What leaving self-refresh clears: OWED of every bank (R263), and W registers, accumulators, latches and holding registers of
every unit of the stack (R194, R264). -/
def leaveSelfRefresh (s : State) (k : StackIx) : State :=
  let mine (n : Nat) : Bool := decide (bankKey k.val 0 0 ≤ n) && decide (n < bankKey k.val 15 264)
  { s with dram := { s.dram with
    units := tabClean Unit.reset (s.dram.units.map fun e =>
      if mine e.1 then
        (e.1, { e.2 with w := [], wPoison := 0, a := [], aPoison := [], latch := [], holding := none, running := none, carry := [],
                         runStat := 0, payload := 0, heldPay := [] })
      else e),
    banks := tabClean BankSt.reset (s.dram.banks.map fun e =>
      if mine e.1 then
        (e.1, { e.2 with owed := 0, refreshing := false, late := false, waiting := false, asked := [], train := false })
      else e),
    windows := s.dram.windows.filter fun e => !(decide (256 * k.val ≤ e.1) && decide (e.1 < 256 * (k.val + 1))) } }

/-- Open the row of a column, closing another (R250). -/
def openRowFor (s : State) (b : BankIx) (l : Nat) : State :=
  if (bankOf s (bankKeyOf b)).openRow == some (BitVec.ofNat 16 (l / 32)) then s
  else
    modBank (sendTo (closeRow s b) b (.activate b (l / 32))) (bankKeyOf b) fun x =>
      { x with openRow := some (BitVec.ofNat 16 (l / 32)) }

/-- Linear column and bank of a request. -/
def reqBank (k : StackIx) (r : DramReq) : BankIx := segBankIx { stack := k, pc := r.pc, sid := r.sid } r.bank

def reqColumn (r : DramReq) : Nat := 32 * r.row.toNat + r.col.val

/-- A queued request addresses this row. -/
def rowQueued (s : State) (b : BankIx) (row : Nat) : Bool :=
  (stackOf s b.stack).queue.any fun q => reqBank b.stack q.req == b && q.req.row.toNat == row

/-- The row after an access (R250): KEEP leaves it open; CLOSE closes it unless a request already queued addresses it. -/
def rowAfter (s : State) (b : BankIx) (l : Nat) (hint : PageHint) : State :=
  let stay := hint == .keep || rowQueued s b (l / 32)
  modBank s (bankKeyOf b) fun x =>
    { x with openRow := if stay then some (BitVec.ofNat 16 (l / 32)) else none, keep := stay && hint == .keep, waiting := false,
             lastUse := if stay && hint == .keep then s.tick else 0 }

/-! ### The write queue (R254, R255, R236, R246) -/

/-- The bank and column of a DRAM word. -/
def columnOf (s : State) (k : Nat) : Option (BankIx × Nat) :=
  match placeOf k, bankOfKey s k with
  | .dram _ _ _ l _, some b => some (b, l)
  | _, _ => none

def WqEntry.names (e : WqEntry) (b : BankIx) (l : Nat) : Bool :=
  e.sid.val == b.die.val / 4 && e.bank.val == b.bank.val % 16 && e.row.toNat == l / 32 && e.col.val == l % 32

def entryStored (e : WqEntry) : List Stored := storedList 4 e.data

def entryColumn (e : WqEntry) : Nat := 32 * e.row.toNat + e.col.val

def entryBank (k : StackIx) (q : PcIx) (e : WqEntry) : BankIx := segBankIx { stack := k, pc := q, sid := e.sid } e.bank

def wqOf (s : State) (b : BankIx) : List WqEntry := tabGet [] (stackOf s b.stack).wq (bankSeg b).pc.val

/-- The queued column of a DRAM word, if any (R255). -/
def queuedColumn (s : State) (k : Nat) : Option WqEntry :=
  match columnOf s k with
  | none => none
  | some (b, l) => (wqOf s b).find? fun e => e.names b l

/-- The stored word that a read meets: the queued column's, or the array's. -/
def seenStored (s : State) (k : Nat) : Stored :=
  match (if isDram k then queuedColumn s k else none) with
  | none => readStored s.mem k
  | some e => readStored (tabSetList 0 [] 0 ((e.data.drop (10 * (k % 4))).take 10)) 0

def seenWord (s : State) (k : Nat) : Decoded := decodeWord (seenStored s k)

def decodedFrom (key : Nat) (ws : List Stored) : List (Nat × Decoded) := ws.zipIdx.map fun w => (key + w.2, decodeWord w.1)

/-- Bytes as stored words with their check bits (R277), for stores that the spec names and does not place (log entry 153). -/
def protect (bs : List Byte) : List Byte := (wordsOfBytes bs).flatMap fun w => storedBytes (encodeWord w)

/-- The words of a protected store as a reader decodes them, at word keys from `key` on. -/
def protectedWords (key : Nat) (st : List Byte) : List (Nat × Decoded) := decodedFrom key (storedList (st.length / 10) st)

/-- A word key of DRAM for the log entry of a store whose place the spec leaves open: a free value (log entry 153). -/
def freeKey (s : State) : Nat := 2 ^ 40 + (freshFree s).toNat % 2 ^ 39

/-- What a reader of a column receives: nothing where a word is uncorrectable (R281). -/
def deliverColumn (ws : List Stored) : Option (List Byte) :=
  let ds := ws.map decodeWord
  if ds.any fun e => e.check == .uncorrectable then none else some (bytesOfWords (ds.map (·.d)))

/-- Service class of a source (R244). -/
def srcClass : ReqSource → SvcClass
  | .pan _ => .sched
  | .stream _ => .sched
  | .sys n => if n.val < 6 then .host else if n.val < 12 then .net else .maint
  | .rake => .maint
  | .fill => .maint

/-- The tenant a request serves: its pan's, or that of its channel's request. -/
def reqTenant (s : State) : ReqSource → Option TenIx
  | .pan p => (panOf s p).tenant
  | .sys n => (schOf s n).cur.bind fun r => r.tenant
  | .stream t => some t
  | _ => none

/-- Rank of a class, SCHED highest (R244); within SCHED what the image plans goes before what was promoted (R248). -/
def classRank : SvcClass → Nat
  | .sched => 0
  | .host => 2
  | .net => 3
  | .maint => 4

def Queued.rank (q : Queued) : Nat := if q.cls == .sched && q.promoted then 1 else classRank q.cls

/-- The bank of a request takes an ordinary access now (R213, R257, R263, R271, R450). -/
def servable (s : State) (k : StackIx) (q : Queued) : Bool :=
  !bankBusy s (reqBank k q.req) && !testing s (.stk k)

/-- The access needs a row command before its burst (R245). -/
def needsRow (s : State) (b : BankIx) (l : Nat) : Bool := (bankOf s (bankKeyOf b)).openRow != some (BitVec.ofNat 16 (l / 32))

/-- A burst of another class would end too late for a SCHED slot (R245). -/
def slotHolds (s : State) (rank : Nat) (b : BankIx) (l : Nat) : Bool :=
  decide (2 ≤ rank) && slotOverdue s b.stack (bankSeg b).pc (needsRow s b l)

/-- A queued read goes before a channel's access: an older one of its class, or one of a higher class (R244, R246). SCHED reads
wait for their slots on a pseudo-channel that has any, and hold up no other class (R245, R248). An earlier read of the same column
goes before whatever its class (R246). -/
def readBefore (s : State) (src : ReqSource) (b : BankIx) (l : Nat) : Bool :=
  (stackOf s b.stack).queue.any fun q =>
    !q.req.write && ((reqBank b.stack q.req == b && reqColumn q.req == l) ||
      (servable s b.stack q && decide (q.rank ≤ classRank (srcClass src)) &&
        (2 ≤ q.rank || (q.req.pc == (bankSeg b).pc && (srcClass src == .sched || !hasSlots s b.stack q.req.pc)))))

/-- An access of a channel to a column waits (R213, R244 to R246). -/
def accessWaits (s : State) (src : ReqSource) (b : BankIx) (l : Nat) : Bool :=
  bankBusy s b || slotHolds s (classRank (srcClass src)) b l || readBefore s src b l

/-- A read served from the array: its findings, its data, and the row it leaves (R250, R280, R281); a channel that
receives a poisoned column halts (R181). -/
def serveRead (s : State) (k : StackIx) (q : Queued) : State :=
  let b := reqBank k q.req
  let l := reqColumn q.req
  let x := unitAt s b
  let key := dramKey x.st x.d x.phys l 0
  let ws := (List.range 4).map fun i => readStored s.mem (key + i)
  let s1 := noteColumn (sendTo (openRowFor s b l) b (.read b l)) 0x40 (decodedFrom key ws) (reqTenant s q.req.src)
  let s2 := rowAfter (emit s1 [.dramData k (deliverColumn ws)]) b l q.req.hint
  if (deliverColumn ws).isNone then haltSource s2 q.req.src false else s2

/-- Take a request out of the queue. -/
def dropQueued (s : State) (k : StackIx) (f : Queued → Bool) : State :=
  modStack s k fun x => { x with queue := x.queue.filter fun q => !f q }

/-- Write one entry of the write queue to its array. Reads of the column that came before the write are served first (R246); a
read that came after it was served from the entry. -/
def drainEntry (s : State) (k : StackIx) (pc : PcIx) (e : WqEntry) : State :=
  let b := entryBank k pc e
  let l := entryColumn e
  let here (q : Queued) : Bool := reqBank k q.req == b && reqColumn q.req == l
  let hint : PageHint := match (stackOf s k).queue.find? fun q => here q && q.req.write with | some q => q.req.hint | none => .close
  let s1 := ((stackOf s k).queue.filter fun q => here q && !q.req.write).foldl (fun r q => serveRead r k q) s
  let s2 := sendTo (openRowFor s1 b l) b (.write b l e.data)
  let s3 := dropQueued (storeColumn s2 (unitAt s2 b) l (entryStored e)) k here
  rowAfter (modStack s3 k fun x => { x with wq := tabModify [] x.wq pc.val fun es => es.filter fun z => z != e }) b l hint

/-- Queued columns of a bank. -/
def bankEntries (s : State) (b : BankIx) : List WqEntry :=
  (wqOf s b).filter fun e => entryBank b.stack (bankSeg b).pc e == b

/-- Write the queued columns of a bank into its array (R236). -/
def drainBank (s : State) (b : BankIx) : State :=
  (bankEntries s b).foldl (fun r e => drainEntry r b.stack (bankSeg b).pc e) s

/-- Rank of the request of a queued column (R244). -/
def entryRank (s : State) (k : StackIx) (pc : PcIx) (e : WqEntry) : Nat :=
  match (stackOf s k).queue.find? fun q => q.req.write && reqBank k q.req == entryBank k pc e && reqColumn q.req == entryColumn e with
  | some q => q.rank
  | none => classRank .maint

/-- An entry of the write queue may go to its array now: its bank takes an access (R213), and its burst delays no SCHED slot
(R245). -/
def entryLeaves (s : State) (k : StackIx) (pc : PcIx) (e : WqEntry) : Bool :=
  !bankBusy s (entryBank k pc e) && !slotHolds s (entryRank s k pc e) (entryBank k pc e) (entryColumn e)

/-- Make room in a full write queue: the oldest entry that may leave goes to its array. -/
def makeRoom (s : State) (b : BankIx) : State :=
  if (wqOf s b).length < 64 then s
  else
    match (wqOf s b).find? (entryLeaves s b.stack (bankSeg b).pc) with
    | some e => drainEntry s b.stack (bankSeg b).pc e
    | none => s

/-- A column takes an entry of the write queue, with its request (R254). -/
def queueColumn (s : State) (b : BankIx) (l : Nat) (src : ReqSource) (hint : PageHint) (data : List Byte) : State :=
  let req : DramReq :=
    { pc := (bankSeg b).pc, sid := ⟨b.die.val / 4, by omega⟩, bank := ⟨b.bank.val % 16, Nat.mod_lt _ (by decide)⟩,
      row := BitVec.ofNat 16 (l / 32), col := ⟨l % 32, Nat.mod_lt _ (by decide)⟩, src := src, hint := hint, write := true,
      mask := BitVec.allOnes 32, data := [] }
  modStack s b.stack fun x =>
    { x with
      wq := tabModify [] x.wq req.pc.val fun es => es ++ [{ sid := req.sid, bank := req.bank, row := req.row, col := req.col, data := data }],
      queue := x.queue ++ [{ req := req, cls := srcClass src, since := s.tick, promoted := false }] }

/-- Stored words of the column that begins at a word, as a reader meets them. -/
def seenColumn (s : State) (u : Nat) : List Stored := (List.range 4).map fun i => seenStored s (u + i)

/-- Change a column through the write queue (R254): its entry if it is queued, else a new one. A bank that no key names, a spare
not in use, has no queue, and its words go to its array. -/
def putColumnVia (s : State) (src : ReqSource) (hint : PageHint) (u : Nat) (ws : List Stored) : State :=
  let data := ws.flatMap storedBytes
  match columnOf s u with
  | none => { s with mem := (ws.foldl (fun (r : Memory × Nat) w => (writeStored r.1 r.2 w, r.2 + 1)) (s.mem, u)).1 }
  | some (b, l) =>
    if (wqOf s b).any fun e => e.names b l then
      modStack s b.stack fun x =>
        { x with wq := tabModify [] x.wq (bankSeg b).pc.val fun es => es.map fun e => if e.names b l then { e with data := data } else e }
    else queueColumn (makeRoom s b) b l src hint data

/-- A narrow write of a column that is not queued reads and merges (R254, R275). -/
def countMerge (s : State) (u : Nat) : State :=
  match queuedColumn s u, columnOf s u with
  | none, some (b, _) => modStack s b.stack fun x => { x with merge := satAdd x.merge 1 }
  | _, _ => s

/-- A read served from the write queue (R255, R275). -/
def countForward (s : State) (u : Nat) : State :=
  match queuedColumn s u, columnOf s u with
  | some _, some (b, _) => modStack s b.stack fun x => { x with fwd := satAdd x.fwd 1 }
  | _, _ => s

/-- An access of a channel to the array column of a unit must wait; one served from the write queue does not (R213, R255). A
unit under self-test serves none (R450). -/
def unitBlocked (s : State) (src : ReqSource) (u : Nat) : Bool :=
  match (if isDram u then columnOf s u else none) with
  | none => wordTested s u
  | some (b, l) => wordTested s u || ((queuedColumn s u).isNone && accessWaits s src b l)

/-- The banks of these units that are in the middle of a command are asked for an access. -/
def askUnits (s : State) (src : ReqSource) (us : List Nat) : State :=
  us.foldl (fun r u => match (if isDram u then columnOf r u else none) with | some (b, _) => askBank r b (some src) | none => r) s

/-- Two columns lie in the same row of the same bank. -/
def sameRow (s : State) (u v : Nat) : Bool :=
  match columnOf s u, columnOf s v with
  | some (a, l), some (b, n) => a == b && l / 32 == n / 32
  | _, _ => false

/-- The page hint of an access to unit `u` that the channel's access to `next` follows (R250). -/
def hintFor (s : State) (u : Nat) (next : Option Nat) : PageHint :=
  match next with
  | some v => if sameRow s u v then .keep else .close
  | none => .close

/-- A read of a column from its array: the commands sent and the row left (R250, R266). -/
def readArray (s : State) (b : BankIx) (l : Nat) (hint : PageHint) : State :=
  rowAfter (sendTo (openRowFor s b l) b (.read b l)) b l hint

/-- A read of unit `u` took the array access it needed, and `next` is read after it (R250, R255, R266). -/
def accessedUnit (s : State) (u : Nat) (next : Option Nat) : State :=
  match (if isDram u then columnOf s u else none) with
  | none => s
  | some (b, l) => if (queuedColumn s u).isSome then s else readArray s b l (hintFor s u next)

/-- First word and number of words of the unit that one read takes: a DRAM column or an SRAM word. -/
def unitFirst (loc : Nat) : Nat := if isDram (loc / 8) then loc / 32 * 4 else loc / 8

def unitLen (u : Nat) : Nat := if isDram u then 4 else 1

def unitWords (s : State) (u : Nat) : List (Nat × Decoded) :=
  (List.range (unitLen u)).map fun i => (u + i, seenWord s (u + i))

/-- A reader's findings on a unit. -/
def noteUnit (s : State) (code : Byte) (u : Nat) (t : Option TenIx) : State :=
  if isDram u then noteColumn s code (unitWords s u) t else noteWords s code (unitWords s u) t

/-- Units read one after another: each from its array or from the write queue, with its findings (R250, R255, R275, R280). -/
def noteUnits (s : State) (code : Byte) (us : List Nat) (t : Option TenIx) : State :=
  (us.zipIdx).foldl (fun r u => noteUnit (accessedUnit (countForward r u.1) u.1 us[u.2 + 1]?) code u.1 t) s

/-- A unit with an uncorrectable word: it is delivered poisoned as a whole (R281). -/
def unitBad (s : State) (u : Nat) : Bool := (unitWords s u).any fun w => w.2.check == .uncorrectable

/-- Bytes of a byte location, corrected. -/
def seenByte (s : State) (loc : Nat) : Byte := (leBytes 8 (seenWord s (loc / 8)).d.toNat).getD (loc % 8) 0

/-- A read of region bytes. `units` are the stored units it reads; `host` says that some byte lies in host memory. -/
structure RegionRead where
  bytes : List Byte
  units : List Nat
  /-- Host memory in lines of 64 bytes (R364). -/
  lines : List Nat
  host : Bool
  bad : Bool
deriving DecidableEq, Repr

/-- Distinct entries, first occurrences in order. -/
def distinct (xs : List Nat) : List Nat := xs.foldl (fun r x => if r.contains x then r else r ++ [x]) []

/-- Host memory is not modelled: a byte read from it is a free value (log entry 2), one 64-bit value to each byte. -/
def freeByte (s : State) (i : Nat) : Byte := (Config.freeValue (s.free + i)).truncate 8

/-- Read region bytes; `base` is the free value of the first byte, for a reader that reads several places at once. -/
def readRegionFrom (s : State) (base : Nat) (v : View) (off n : Nat) : RegionRead :=
  let locs := (List.range n).map fun i => viewLoc s v (off + i)
  let us := distinct (locs.filterMap fun l =>
    match l with | some l => if l < hostLoc then some (unitFirst l) else none | none => none)
  { bytes := (List.range n).map fun i =>
      match viewLoc s v (off + i) with
      | some l => if l < hostLoc then seenByte s l else freeByte s (base + i)
      | none => freeByte s (base + i),
    units := us,
    lines := distinct (locs.filterMap fun l =>
      match l with | some l => if hostLoc ≤ l then some ((l - hostLoc) / 64) else none | none => none),
    host := locs.any fun l => match l with | some l => decide (hostLoc ≤ l) | none => false,
    bad := us.any (unitBad s) }

def readRegion (s : State) (v : View) (off n : Nat) : RegionRead := readRegionFrom s 0 v off n

/-- RdCurr requests for host lines leave the card (R364). -/
def readLines (s : State) (ls : List Nat) : State :=
  if s.host.linkUp then emit s (ls.map fun l => Out.rdCurr (BitVec.ofNat 64 (64 * l))) else s

/-- Store bytes at consecutive SRAM locations; a word written by part is read, corrected, logged and merged (R280, R282, R283).
Stops at a word whose merge read is uncorrectable, and answers whether there was one. -/
def putBytes (s : State) (loc : Nat) (bs : List Byte) (t : Option TenIx) : State × Bool :=
  (List.range ((loc % 8 + bs.length + 7) / 8)).foldl
    (fun r i =>
      let part := if i = 0 then bs.take (8 - loc % 8) else (bs.drop (8 * i - loc % 8)).take 8
      let w := writePart r.1 (if i = 0 then loc else 8 * (loc / 8 + i)) part 0x40 t
      if r.2 then r else (w.1, !w.2))
    (s, false)

def unitIdle (s : State) (b : BankIx) : Bool :=
  let u := unitOf s (unitAt s b).key
  u.running.isNone && u.holding.isNone

/-- What the controller does before it writes a command row: the queued writes of the banks that BMASK names go to their arrays,
and rows open there close (R236, R251). -/
def prepareBanks (s : State) (bs : List BankIx) : State := bs.foldl (fun r b => closeRow (drainBank r b) b) s

/-- The queued writes of a bank cannot be written yet, since it is busy (R213): the command row waits for them. -/
def drainWaits (s : State) (bs : List BankIx) : Bool := bs.any fun b => bankBusy s b && !(bankEntries s b).isEmpty

/-- A bank's 24 MiB in raw mode: every column with its stored check bits (R401). Banks are physical. -/
def rawBank (m : Memory) (st d src dst : Nat) : Memory :=
  tabCopy m (16 * dramKey st d src 0 0) (16 * dramKey st d dst 0 0) (16 * 2 ^ 22)

/-- SPMAP and SPVAL of a spare are written (R224). -/
def mapSpare (s : State) (b : BankIx) (j : Fin 8) (valid : Bool) : State :=
  let bit : Byte := (1#8) <<< j.val
  modBank
    (modStack s b.stack fun x =>
      { x with
        spmap := tabSet 0 x.spmap (8 * b.die.val + j.val) (BitVec.ofNat 8 b.bank.val),
        spval := tabModify 0 x.spval b.die.val fun v => if valid then v ||| bit else v &&& ~~~bit })
    (bankKeyOf b) fun x => { x with degraded := if valid then false else x.degraded }

/-- What the array FILL of whole banks of a die leaves besides their words (R199, R210, R227, R288): 813 commands to each segment
named; TAG, LOP and STAT of the units, each a physical bank with the die bank it answers as; as many active banks at once. -/
def fillTrace (s : State) (k : StackIx) (d : DieIx) (xs : List (Nat × BankIx)) : State :=
  let segs := (xs.map fun x => bankSeg x.2).dedup
  let mark (us : Tab Unit) (x : Nat × BankIx) : Tab Unit := tabModify Unit.reset us (bankKey k.val d.val x.1) fun u =>
    { u with tag := BitVec.ofNat 4 (tabGet 0 s.dram.tags (segKey (bankSeg x.2)) + 812), lop := 7, stat := 0 }
  let count (x : Stack) : Stack :=
    { x with cmds := x.cmds + BitVec.ofNat 64 (813 * segs.length),
             peakDie := if x.peak.toNat < xs.length then BitVec.ofNat 4 d.val else x.peakDie,
             peak := if x.peak.toNat < xs.length then BitVec.ofNat 9 xs.length else x.peak }
  { s with dram :=
      { s.dram with
          units := xs.foldl mark s.dram.units,
          tags := segs.foldl (fun ts g => tabModify 0 ts (segKey g) fun n => (n + 813) % 16) s.dram.tags,
          stk := tabModify Stack.reset s.dram.stk k.val count } }

/-- Die banks of a die with the physical banks that serve them. -/
def servingBanks (s : State) (k : StackIx) (d : DieIx) (keep : Fin 256 → Bool) : List (Nat × BankIx) :=
  ((List.finRange 256).filter keep).map fun b => (physBank s k d b.val, { stack := k, die := d, bank := b })

end Sys2Proof.Machine
end

