-- ==== Sys2Proof/Machine/Triyx.lean ====
section
/-! DEFINITION. The lines of Triyx (R442 to R446): their characters, their CRC, and the lines that the handler sends. -/

namespace Sys2Proof.Machine

def modSvc (s : State) (f : SvcSt → SvcSt) : State := { s with svc := f s.svc }

/-- The SEQ of the command that executes. -/
def lastSeq (s : State) : Half := s.svc.lseq.getD 0

/-! ### Characters (R443) -/

/-- Upper-case hex digit. -/
def hexDigit (n : Nat) : Byte := if n < 10 then BitVec.ofNat 8 (0x30 + n) else BitVec.ofNat 8 (0x37 + n)

/-- `k` hex digits of a number. -/
def hexText (k n : Nat) : List Byte := (List.range k).map fun i => hexDigit (n / 16 ^ (k - 1 - i) % 16)

/-- Decimal digits before `acc`, `fuel` at most. -/
def decDigits : Nat → Nat → List Byte → List Byte
  | 0, _, acc => acc
  | fuel + 1, n, acc =>
    let ds := BitVec.ofNat 8 (0x30 + n % 10) :: acc
    if n / 10 = 0 then ds else decDigits fuel (n / 10) ds

/-- A number in decimal. -/
def decText (n : Nat) : List Byte := decDigits (Nat.log2 n + 1) n []

/-- A number in hex with the prefix 0x. -/
def hexArg (k n : Nat) : List Byte := [0x30, 0x78] ++ hexText k n

/-- Words separated by spaces. -/
def spaced : List (List Byte) → List Byte
  | [] => []
  | w :: ws => w ++ ws.flatMap fun x => 0x20 :: x

/-- A line: its first character, its body, the CRC of the body, LF (R443, R444). -/
def lineOf (first : Byte) (body : List Byte) : List Byte :=
  first :: body ++ [0x2A] ++ hexText 4 (crc16 body).toNat ++ [0x0A]

/-- The value of a hex digit as R443 writes SEQ. -/
def hexValue (c : Byte) : Option Nat :=
  if 0x30 ≤ c.toNat ∧ c.toNat ≤ 0x39 then some (c.toNat - 0x30)
  else if 0x41 ≤ c.toNat ∧ c.toNat ≤ 0x46 then some (c.toNat - 0x37) else none

/-- The SEQ of a received command line whose CRC holds; none for any other line (R443, R444). A CR before the LF is ignored. -/
def lineSeq (cs : List Byte) : Option Half :=
  let r := match cs.reverse with | 0x0A :: 0x0D :: r => r | 0x0A :: r => r | _ => []
  match r.reverse with
  | 0x3E :: rest =>
    let body := rest.takeWhile fun c => c != 0x2A
    match body.take 4 |>.mapM hexValue with
    | some [a, b, c, d] =>
      if rest.drop body.length = 0x2A :: hexText 4 (crc16 body).toNat ∧ (body.length = 4 ∨ body[4]? = some 0x20) then
        some (BitVec.ofNat 16 (((a * 16 + b) * 16 + c) * 16 + d)) else none
    | _ => none
  | _ => none

/-- Words of a data line in hex: eight digits each, or sixteen where some word has more than 32 bits (DESIGN CHOICE, log entry
128). -/
def wordsText (ws : List Dword) : List Byte :=
  spaced (ws.map fun w => hexText (if ws.all fun x => decide (x.toNat < 2 ^ 32) then 8 else 16) w.toNat)

/-- The notice of a reset, from RST_CAUSE (R446). -/
def resetText (v : Dword) : List Byte :=
  [0x52, 0x53, 0x54, 0x20, 0x53, 0x52, 0x43, 0x3D] ++ hexArg 2 (bitsOf v.toNat 0 8) ++
    [0x20, 0x46, 0x49, 0x52, 0x53, 0x54, 0x3D] ++ hexText 1 (bitsOf v.toNat 28 4) ++
    [0x20, 0x52, 0x45, 0x41, 0x43, 0x48, 0x3D] ++ hexText 1 (bitsOf v.toNat 26 2)

/-- The characters of a line that the handler sends (R443, R444, R446). -/
def lineText : Out → List Byte
  | .line seq ws => lineOf 0x3C (hexText 4 seq.toNat ++ [0x2D, 0x20] ++ wordsText ws)
  | .finalLine seq f =>
    lineOf 0x3C (hexText 4 seq.toNat ++ [0x3D, 0x20] ++
      (match f.err with
        | none => [0x4F, 0x4B, 0x20] ++ decText f.lines
        | some cc => [0x45, 0x52, 0x52, 0x20] ++ hexText 2 cc.toNat) ++
      (if f.text.isEmpty then [] else 0x20 :: f.text))
  | .notice 0 _ => lineOf 0x21 [0x43, 0x52, 0x43]
  | .notice _ v => lineOf 0x21 (resetText v)
  | _ => []

/-- Characters as entries of instances 40 and 41. -/
def charWords (cs : List Byte) : List (List Dword) := cs.map fun c => [c.zeroExtend 64]

/-! ### Lines sent -/

/-- The port has sent what stands in instance 41; a character that fails its parity check is sent all the same (R330, R337). -/
def drainLines (s : State) : State :=
  let d := takeChecked s 41 ((queueOf s 41).count 4096)
  if d.2.isEmpty then d.1 else emit d.1 [.badLines]

/-- A line goes into instance 41; without room for it the handler stalls until the port has sent what stands there (R326,
R337). -/
def sendLine (s : State) (o : Out) : State :=
  let cs := lineText o
  emit (queueSend (if (queueOf s 41).room 4096 < cs.length then drainLines s else s) 41 (charWords cs) none) [o]

/-- A data line of the response, as the words it spells. -/
def dataLine (s : State) (ws : List Dword) : State := sendLine s (.line (lastSeq s) ws)

def dataLines (s : State) (ls : List (List Dword)) : State := ls.foldl dataLine s

/-- The final line: stored for a resend, counted when it carries ERR; the command is over (R443, R445). -/
def finalReply (s : State) (f : FinalLine) : State :=
  sendLine (modSvc s fun x =>
    { x with final := some f, active := false, cRefused := if f.err.isSome then satAdd x.cRefused 1 else x.cRefused })
    (.finalLine (lastSeq s) f)

def replyOk (s : State) (n : Nat) : State := finalReply s { err := none, lines := n, text := [] }

def replyErr (s : State) (code : Byte) : State := finalReply s { err := some code, lines := 0, text := [] }

/-- Reply with data lines and OK. -/
def replyLines (s : State) (ls : List (List Dword)) : State := replyOk (dataLines s ls) ls.length

/-! ### Commands received (R443, R447) -/

def unitText : TestUnit → List (List Byte)
  | .pan p => [[0x50, 0x41, 0x4E], decText p.val]
  | .qsr q => [[0x51, 0x53, 0x52], decText q.val]
  | .stk k => [[0x53, 0x54, 0x4B], decText k.val]
  | .sch n => [[0x53, 0x43, 0x48], decText n.val]
  | .pcie => [[0x50, 0x43, 0x49, 0x45]]
  | .eth p => [[0x45, 0x54, 0x48, BitVec.ofNat 8 (0x41 + p.val)]]

def logText (ev : Bool) : List Byte := if ev then [0x45, 0x56] else [0x45, 0x52]

def hsetText : HsetOp → List (List Byte)
  | .tlySet t v => [[0x54, 0x4C, 0x59], decText t, [0x53, 0x45, 0x54], decText v]
  | .tlySig t v => [[0x54, 0x4C, 0x59], decText t, [0x53, 0x49, 0x47], decText v]
  | .gateRel g => [[0x47, 0x41, 0x54, 0x45], decText g, [0x52, 0x45, 0x4C]]
  | .gateRst g => [[0x47, 0x41, 0x54, 0x45], decText g, [0x52, 0x53, 0x54]]

def reachText : Reach → List Byte
  | .core => [0x43]
  | .system => [0x53]
  | .powerOn => [0x50]

/-- A command's verb and arguments as the terminal writes them, numbers in decimal but for CONFIRM, BAR0 offsets and the groups of
AUTS; an unknown verb as `?` (DESIGN CHOICE, log entry 131). -/
def verbText : Verb → List (List Byte)
  | .idnt => [[0x49, 0x44, 0x4E, 0x54]]
  | .sens => [[0x53, 0x45, 0x4E, 0x53]]
  | .rcau => [[0x52, 0x43, 0x41, 0x55]]
  | .calr => [[0x43, 0x41, 0x4C, 0x52]]
  | .optr => [[0x4F, 0x50, 0x54, 0x52]]
  | .auth => [[0x41, 0x55, 0x54, 0x48]]
  | .dump => [[0x44, 0x55, 0x4D, 0x50]]
  | .unknown => [[0x3F]]
  | .test u => [0x54, 0x45, 0x53, 0x54] :: unitText u
  | .logr ev first count => [[0x4C, 0x4F, 0x47, 0x52], logText ev, decText first, decText count]
  | .logc ev head => [[0x4C, 0x4F, 0x47, 0x43], logText ev, decText head.toNat]
  | .rset r confirm => [[0x52, 0x53, 0x45, 0x54], reachText r, hexArg 4 confirm.toNat]
  | .hset op confirm => [0x48, 0x53, 0x45, 0x54] :: hsetText op ++ [hexArg 4 confirm.toNat]
  | .cals sec frac => [[0x43, 0x41, 0x4C, 0x53], decText sec, decText frac]
  | .rreg off => [[0x52, 0x52, 0x45, 0x47], hexArg 8 off]
  | .baud rate => [[0x42, 0x41, 0x55, 0x44], decText rate]
  | .auts sig _ => [0x41, 0x55, 0x54, 0x53] :: sig.map fun w => hexText 8 w.toNat
  | .optw off size v => [[0x4F, 0x50, 0x54, 0x57], decText off, decText size, decText v]
  | .retr first count => [[0x52, 0x45, 0x54, 0x52], decText first, decText count]
  | .retc entry => [[0x52, 0x45, 0x54, 0x43], decText entry]
  | .dbun o => [[0x44, 0x42, 0x55, 0x4E], if o then [0x4F, 0x50, 0x45, 0x4E] else [0x4C, 0x4F, 0x43, 0x4B]]

/-- The characters of a received line. -/
def lineChars : TriyxLine → List Byte
  | .command seq v => lineOf 0x3E (hexText 4 seq.toNat ++ 0x20 :: spaced (verbText v))
  | .broken cs => cs

/-- A line that fails its CRC or a parity check is counted, logged and answered with the notice !CRC (R337, R444, R456). -/
def lineFailed (s : State) : State :=
  logEvent (sendLine (modSvc s fun x => { x with cCrc := satAdd x.cCrc 1 }) (.notice 0 0)) 0xE0 [] none

end Sys2Proof.Machine
end

