-- ==== Sys2Proof/Machine/Sync.lean ====
section
/-! DEFINITION. The synchronisation store (R298 to R321): tallies, gates, waiters, hand operations and snapshots, and the
tick that processes them. -/

namespace Sys2Proof.Machine

def setTally (s : State) (n : Nat) (x : Tally) : State :=
  { s with sync := { s.sync with tallies := tabSet Tally.reset s.sync.tallies n x } }

def setGate (s : State) (n : Nat) (x : GateSt) : State :=
  { s with sync := { s.sync with gates := tabSet GateSt.reset s.sync.gates n x } }

/-- Source code and unit byte of a signal (R301). -/
def srcBytes : SigSource → List Byte
  | .pan l _ => [0, BitVec.ofNat 8 l.val]
  | .panCopy l _ => [1, BitVec.ofNat 8 l.val]
  | .pond c _ => [2, BitVec.ofNat 8 c.val]
  | .sys n => [3, BitVec.ofNat 8 n.val]
  | .mailbox n => [4, BitVec.ofNat 8 n.val]
  | .rdma p => [5, BitVec.ofNat 8 p.val]
  | .mirror => [6, 0xFF]
  | .rilef c => [7, BitVec.ofNat 8 c.val]
  | .hand t => [8, if t then 1 else 0]

/-- The tenant whose own work raised a signal: the check of R306 applies to it. -/
def srcTenant : SigSource → Option TenIx
  | .pan _ t => some t
  | .panCopy _ t => some t
  | .pond _ t => some t
  | _ => none

/-- The tenant that owns a tally or gate. -/
def ownerTenant (o : BitVec 5) : Option TenIx := if h : o.toNat < 16 then some ⟨o.toNat, h⟩ else none

/-- Add to a tally; a sum above 0xFFFF_FFFF stays there and is logged (R301). -/
def addTally (s : State) (t : TlyIx) (n : Nat) (src : SigSource) (hand : Bool) : State :=
  let x := tallyOf s t
  let s1 := setTally s t.val { x with value := satAdd x.value n, hand := hand }
  if 2 ^ 32 ≤ x.value.toNat + n then
    logEvent s1 0x81 (leBytes 2 t.val ++ srcBytes src) (ownerTenant x.owner)
  else s1

/-- The tenants that a poisoned signal halts: those of the quadrant, or those bound to the stack (R337). -/
def signalTenants (s : State) : SigSource → List TenIx
  | .pond k _ => tenantsOfStack s k
  | .pan l t => ((panAt s t l).map fun p => tenantsOfQuad s (quadOfPan p)).getD []
  | .panCopy l t => ((panAt s t l).map fun p => tenantsOfQuad s (quadOfPan p)).getD []
  | _ => []

/-- A signal in flight is behind an older one of its queue. -/
def signalBehind (s : State) (k : Nat) (src : SigSource) : Bool :=
  (signalQueue s src).isSome && (s.sync.flight.take k).any fun g => signalQueue s g.src == signalQueue s src

/-- The store does not see the word of a signal's queue yet (R329). -/
def signalUnseen (s : State) (src : SigSource) : Bool :=
  match signalQueue s src with
  | some i => (queueOf s i).empty
  | none => false

/-- A signal comes out of its queue: taken, or poisoned and not applied (R330, R337). -/
def takeSignal (s : State) (g : Signal) (bad : Bool) : State × Bool :=
  match signalQueue s g.src with
  | some i =>
    let s1 := queueTake s i 1
    if bad || !(queuePoison s i 1).isEmpty then (haltNext (notePoison s1 i (queueRead s i) true) (signalTenants s g.src) 0x90, false) else (s1, true)
  | none => (s, true)

/-- TALLY_SIGNAL: a signal reaches the store (R307), the oldest of its queue first. A tenant's own signal on a tally of
another owner is dropped, and the tenant halts at its next boundary tick (R306); any other is added in the tick (R302). -/
def execTallySignal (p : SigPick) (s : State) : Answer :=
  match p with
  | .rilef core t n =>
    .next { s with sync := { s.sync with arrived := s.sync.arrived ++ [{ tly := t, n := n, src := .rilef core }] } }
  | .mirror t n =>
    .next { s with sync := { s.sync with arrived := s.sync.arrived ++ [{ tly := t, n := n, src := .mirror }] } }
  | .flight k bad =>
    match s.sync.flight[k]? with
    | none => .next s
    | some g =>
      if signalBehind s k g.src || signalUnseen s g.src then .next s
      else
      let d := takeSignal { s with sync := { s.sync with flight := dropNth k s.sync.flight } } g bad
      let s1 := d.1
      if !d.2 then .next s1
      else
      match srcTenant g.src with
      | some t =>
        if (tallyOf s g.tly).owner.toNat != t.val then .next (haltNext (logEvent s1 0x80 [] (some t)) [t] 0x80)
        else .next { s1 with sync := { s1.sync with arrived := s1.sync.arrived ++ [g] } }
      | none => .next { s1 with sync := { s1.sync with arrived := s1.sync.arrived ++ [g] } }

/-- Step 2 of R302: the signals that reached the store are added. -/
def applySignals (s : State) : State :=
  s.sync.arrived.foldl (fun r g => addTally r g.tly g.n g.src false) { s with sync := { s.sync with arrived := [] } }

/-! ### Gates (R310 to R313, R317) -/

def GateSt.participates (g : GateSt) : Bool := g.mask != 0 || g.ports != 0

/-- Every participant's count is 1 or more (R311). -/
def GateSt.ready (g : GateSt) : Bool :=
  g.participates && (g.mask &&& ~~~g.arr == 0) &&
    (List.range 4).all fun k => !g.ports.getLsbD k || decide (1 ≤ tabGet 0 g.pcnt k)

/-- The counts after a release: each falls by 1, a count of 0 stays 0, held arrivals are applied (R311, R312, R317). -/
def GateSt.released (g : GateSt) : GateSt :=
  { g with
    gen := g.gen + 1, arr := 0,
    pcnt := (List.range 4).foldl
      (fun t k => tabSet 0 t k (tabGet 0 g.pcnt k - 1 + if g.held.getLsbD k then 1 else 0)) g.pcnt,
    held := 0, withheld := [] }

/-- Answer an arrival that was held, or refused: a mailbox response, or a report to the service (R312, R317). -/
def answerArrival (s : State) (n : Nat) (who : Arriver) (status : Byte) : State :=
  match who with
  | .mailbox m => endBackground s m status []
  | .core c => emit s [.gateAnswer c ⟨n % 256, Nat.mod_lt _ (by decide)⟩ status]

/-- Answer the held arrivals of a gate. -/
def answerHeld (s : State) (n : Nat) (g : GateSt) (status : Byte) : State :=
  g.withheld.foldl (fun r kv => answerArrival r n kv.2.1 status) s

/-- Pans waiting in a gate complete their GATE (R311). -/
def freeGatePans (s : State) (n : Nat) : State :=
  let go := s.sync.gwaiters.filter fun w => w.gate.val == n
  go.foldl (fun r w => modPan r w.pan fun x => { x with wait := .none })
    { s with sync := { s.sync with gwaiters := s.sync.gwaiters.filter fun w => w.gate.val != n } }

def releaseGate (s : State) (n : Nat) : State :=
  let g := tabGet GateSt.reset s.sync.gates n
  freeGatePans (answerHeld (setGate s n g.released) n g 0) n

/-- The release is repeated while its condition holds (R311); counts are at most 2 before and held arrivals add 1, so three
releases at most follow one another. -/
def releaseWhile : Nat → State → Nat → State
  | 0, s, _ => s
  | fuel + 1, s, n => if (tabGet GateSt.reset s.sync.gates n).ready then releaseWhile fuel (releaseGate s n) n else s

/-- An arrival on a port (R311, R312). -/
def portArrival (s : State) (n : Nat) (k : Fin 4) (who : Arriver) : State :=
  let g := tabGet GateSt.reset s.sync.gates n
  let reply (r : State) (code : Byte) : State :=
    match who with | .mailbox m => endBackground r m code [] | .core _ => if code = 0 then r else answerArrival r n who code
  if g.held.getLsbD k.val then reply s 0x82
  else if tabGet 0 g.pcnt k.val < 2 then
    reply (setGate s n { g with pcnt := tabSet 0 g.pcnt k.val (tabGet 0 g.pcnt k.val + 1) }) 0
  else
    logEvent
      (setGate s n { g with
        held := g.held ||| ((1#4) <<< k.val), ovr := satAdd g.ovr 1,
        withheld := g.withheld ++ [(k.val, who, s.tick)] })
      0x82 ([BitVec.ofNat 8 n, BitVec.ofNat 8 k.val] ++ leBytes 4 g.gen.toNat) (ownerTenant g.owner)

/-- An arrival of a pan. -/
def panArrival (s : State) (w : GateWaiter) : State :=
  let g := gateOf s w.gate
  let s1 := setGate s w.gate.val { g with arr := g.arr ||| ((1#32) <<< w.lpan.val) }
  { s1 with sync := { s1.sync with gwaiters := s1.sync.gwaiters ++ [{ w with gen := g.gen }] } }

/-- Insert by a key, after those of equal key. -/
def insertBy {α : Type} (key : α → Nat) (a : α) : List α → List α
  | [] => [a]
  | b :: r => if key a < key b then a :: b :: r else b :: insertBy key a r

def sortBy {α : Type} (key : α → Nat) (xs : List α) : List α := xs.foldl (fun r a => insertBy key a r) []

/-- The arrivals of the tick: ports in increasing number, then pans in increasing logical number, then the releases
(R311). -/
def applyGates (s : State) : State :=
  let ports := sortBy (fun a => a.1.val * 4 + a.2.1.val) s.sync.portArrive
  let pans := sortBy (fun w => w.gate.val * 32 + w.lpan.val) s.sync.panArrive
  let s1 := { s with sync := { s.sync with portArrive := [], panArrive := [] } }
  let s2 := ports.foldl (fun r a => portArrival r a.1.val a.2.1 a.2.2) s1
  let s3 := pans.foldl panArrival s2
  (distinct (ports.map (·.1.val) ++ pans.map (·.gate.val))).foldl (fun r n => releaseWhile 3 r n) s3

/-- Step 1 for GATE_PORTS: GEN is kept, leaving ports lose count and held arrival, joining ports start at 0 (R310). -/
def applyPorts (s : State) (n : Nat) (ports : BitVec 4) : State :=
  let g := tabGet GateSt.reset s.sync.gates n
  let gone := g.withheld.filter fun kv => !ports.getLsbD kv.1
  let s1 := gone.foldl (fun r kv => answerArrival r n kv.2.1 0x82) s
  releaseWhile 3
    (setGate s1 n { g with
      ports := ports, held := g.held &&& ports, withheld := g.withheld.filter fun kv => ports.getLsbD kv.1,
      pcnt := (List.range 4).foldl (fun t k => if ports.getLsbD k then t else tabSet 0 t k 0) g.pcnt })
    n

/-! ### Hand operations (R317, R318) -/

/-- ERR_TLY_HAND: source, kind, object, operation, old and new value; its 13 bytes run over TENANT and TIDE (log entry 45).
One from Triyx answers its command with the old and new value (R447). -/
def logHand (s : State) (triyx gate : Bool) (n : Nat) (op : Byte) (old new : Word) : State :=
  let s1 := logEvent
    { s with sync := { s.sync with handDone := s.sync.handDone + 1 } } 0x83
    ([if triyx then 1 else 0, if gate then 1 else 0] ++ leBytes 2 n ++ [op] ++ leBytes 4 old.toNat ++ leBytes 4 new.toNat) none
  if triyx then replyLines s1 [[old.zeroExtend 64, new.zeroExtend 64]] else s1

def applyHand (triyx : Bool) (s : State) (h : HandOp) : State :=
  match h with
  | .tlySet t v =>
    logHand (setTally s t.val { tallyOf s t with value := v, hand := true }) triyx false t.val 0 (tallyOf s t).value v
  | .tlySig t v =>
    let s1 := addTally s t v.toNat (.hand triyx) true
    logHand s1 triyx false t.val 1 (tallyOf s t).value (tallyOf s1 t).value
  | .gateRel g =>
    let s1 := releaseWhile 3 (releaseGate s g.val) g.val
    logHand s1 triyx true g.val 0 (gateOf s g).gen (gateOf s1 g).gen
  | .gateRst g =>
    let x := gateOf s g
    let s1 := freeGatePans
      (answerHeld (setGate s g.val { x with gen := x.gen + 1, arr := 0, pcnt := [], held := 0, withheld := [] }) g.val x 0x82) g.val
    logHand s1 triyx true g.val 1 x.gen (x.gen + 1)

/-- Step 1 of a tick: hand operations of BAR0, then of Triyx (R449), then new PORTS. -/
def applyStep1 (s : State) : State :=
  let s1 := { s with sync := { s.sync with handBar0 := [], handTriyx := [], newPorts := [] } }
  let s2 := s.sync.handBar0.foldl (applyHand false) s1
  let s3 := s.sync.handTriyx.foldl (applyHand true) s2
  s.sync.newPorts.foldl (fun r a => applyPorts r a.1.val a.2) s3

/-! ### Waiters (R302 steps 4 and 5) -/

/-- A wait as step 4 lists it. -/
inductive Standing
  | pan (w : Waiter)
  | core (c : CoreWait)
deriving DecidableEq, Repr

/-- List order of waiters: issue tick, tenant, logical pan (R302). DEDUCED (log entry 174): a core, whose tenant number is 0xFF in
R316, stands behind the tenants of its issue tick, and cores stand in their order. -/
def waitOrder : Standing → Nat
  | .pan w => (w.issue.toNat * 17 + w.tenant.val) * 32 + w.lpan.val
  | .core c => (c.issue.toNat * 17 + 16) * 32 + c.core.val

/-- A wait completes with this result (R304, R305). -/
def completeWait (s : State) (w : Waiter) (v : Dword) : State :=
  modPan s w.pan fun x =>
    match x.wait with
    | .tally rd => { x.writeG rd.toNat v with wait := .none }
    | _ => x

/-- Step 4 for one waiter: satisfied, it takes its count and leaves the list. -/
def serveWaiter (s : State) (w : Waiter) : State :=
  let x := tallyOf s w.tly
  if x.value = 0 then { s with sync := { s.sync with waiters := s.sync.waiters ++ [w] } }
  else
    completeWait
      (if w.consuming then setTally s w.tly.val { x with value := x.value - 1, hand := false } else s) w 1

/-- Step 4 for one wait of a core. -/
def serveCore (s : State) (c : CoreWait) : State :=
  let x := tallyOf s c.tly
  if x.value = 0 then { s with sync := { s.sync with coreWaits := s.sync.coreWaits ++ [c] } }
  else if c.consuming then setTally s c.tly.val { x with value := x.value - 1, hand := false } else s

def serveStanding (s : State) : Standing → State
  | .pan w => serveWaiter s w
  | .core c => serveCore s c

def serveWaiters (s : State) : State :=
  (sortBy waitOrder (s.sync.waiters.map .pan ++ s.sync.coreWaits.map .core)).foldl serveStanding
    { s with sync := { s.sync with waiters := [], coreWaits := [] } }

/-- An expiry tick is at or before `now`. -/
def waitLate (expiry : Option Nat) (now : Dword) : Bool := match expiry with | some e => decide (e ≤ now.toNat) | none => false

/-- Step 5: waits whose expiry tick is at or before `now` time out. -/
def expireWaiters (s : State) (now : Dword) : State :=
  (s.sync.waiters.filter fun w => waitLate w.expiry now).foldl (fun r w => completeWait r w 0)
    { s with sync := { s.sync with
        waiters := s.sync.waiters.filter fun w => !waitLate w.expiry now
        coreWaits := s.sync.coreWaits.filter fun c => !waitLate c.expiry now } }

/-- WAIT_TIMEOUT: a wait still unsatisfied in its expiry tick completes as timed out, once the tick's signals are in and its
list has been served (R302, R304). -/
def execWaitTimeout (p : PanIx) (s : State) : Answer :=
  match s.sync.waiters.find? fun w => w.pan == p with
  | none => .next s
  | some w =>
    match w.expiry with
    | none => .next s
    | some e =>
      if e ≤ s.tick.toNat ∧ s.sync.arrived.isEmpty ∧ (tallyOf s w.tly).value = 0 then
        .next (completeWait { s with sync := { s.sync with waiters := s.sync.waiters.filter fun v => v.pan != p } } w 0)
      else .next s

/-! ### Snapshots (R314 to R316) -/

def snapSource : SnapFor → Half
  | .register => 0
  | .mailbox _ => 1
  | .triyx => 2

def takeSnap (s : State) (f : SnapFor) : SnapFor × SnapShot :=
  (f, { source := snapSource f, tick := s.tick, cal := s.cal.sec.truncate 32, tallies := s.sync.tallies,
        gates := s.sync.gates, waiters := s.sync.waiters, coreWaits := s.sync.coreWaits, gwaiters := s.sync.gwaiters, entries := s.sync.entries })

/-- Snapshots requested in the tick record its end (R314). -/
def takeSnaps (s : State) : State :=
  { s with sync := { s.sync with snapReq := [], snapTaken := s.sync.snapTaken ++ s.sync.snapReq.map (takeSnap s) } }

/-- SNAP: a write of TLY_DUMPCTL requests a snapshot (R314). -/
def execSnap (s : State) : Answer := .next { s with sync := { s.sync with snapReq := s.sync.snapReq ++ [.register] } }

/-- TLY_STATE (R321). -/
def tallyWord (x : Tally) (waiters : Nat) : Dword :=
  fieldTo x.owner.toNat 57 ||| flagTo x.hand 56 ||| fieldTo (min waiters 63) 42 ||| fieldTo x.value.toNat 0

/-- Waiters on a tally: waits of pans and cores, and entry conditions. -/
def waitersOn (ws : List Waiter) (cs : List CoreWait) (es : List (TenIx × TlyIx × Dword)) (n : Nat) : Nat :=
  (ws.filter fun w => w.tly.val == n).length + (cs.filter fun c => c.tly.val == n).length +
    (es.filter fun e => e.2.1.val == n).length

/-- GATE_CFG, GATE_GEN and GATE_ARR (R321). -/
def gateCfg (g : GateSt) : Dword := fieldTo g.owner.toNat 36 ||| fieldTo g.ports.toNat 32 ||| fieldTo g.mask.toNat 0

def gateGen (g : GateSt) : Dword := fieldTo g.ovr.toNat 32 ||| fieldTo g.gen.toNat 0

def gateArr (g : GateSt) : Dword :=
  fieldTo g.held.toNat 40 ||| fieldTo (((List.range 4).map fun k => tabGet 0 g.pcnt k * 4 ^ k).sum) 32 |||
    fieldTo g.arr.toNat 0

/-- One waiter record (R316). -/
def waiterBytes (kind tenant lpan : Nat) (obj : Nat) (gen : Nat) (issue expiry : Nat) : List Byte :=
  leBytes 1 kind ++ leBytes 1 tenant ++ leBytes 1 lpan ++ [0] ++ leBytes 2 obj ++ [0, 0] ++ leBytes 4 gen ++
    [0, 0, 0, 0] ++ leBytes 8 issue ++ leBytes 8 expiry

/-- Waiter slot of a physical pan. -/
def panSlot (x : SnapShot) (p : Nat) : List Byte :=
  match x.waiters.find? fun w => w.pan.val == p with
  | some w =>
    waiterBytes (if w.consuming then 1 else 2) w.tenant.val w.lpan.val w.tly.val 0 w.issue.toNat
      (w.expiry.getD (2 ^ 64 - 1))
  | none =>
    match x.gwaiters.find? fun w => w.pan.val == p with
    | some w => waiterBytes 3 w.tenant.val w.lpan.val w.gate.val w.gen.toNat w.issue.toNat (2 ^ 64 - 1)
    | none => List.replicate 32 0

/-- Waiter slot of a tenant's entry condition. -/
def entrySlot (x : SnapShot) (t : Nat) : List Byte :=
  match x.entries.find? fun e => e.1.val == t with
  | some e => waiterBytes 4 t 0xFF e.2.1.val 0 e.2.2.toNat (2 ^ 64 - 1)
  | none => List.replicate 32 0

/-- The gate at which a core's arrival is held, with its tick (R312). -/
def heldAt (gates : Tab GateSt) (k : Nat) : Option (Nat × GateSt × Dword) :=
  gates.findSome? fun e => (e.2.withheld.find? fun w => match w.2.1 with | .core c => c.val == k | _ => false).map fun w =>
    (e.1, e.2, w.2.2)

/-- Waiter slot of a system control core. -/
def coreSlot (x : SnapShot) (k : Nat) : List Byte :=
  match x.coreWaits.find? fun c => c.core.val == k with
  | some c => waiterBytes 5 0xFF 0xFF c.tly.val 0 c.issue.toNat (c.expiry.getD (2 ^ 64 - 1))
  | none =>
    match heldAt x.gates k with
    | some (n, g, tick) => waiterBytes 6 0xFF 0xFF n g.gen.toNat tick.toNat (2 ^ 64 - 1)
    | none => List.replicate 32 0

/-- Waiter record of a slot (R316). -/
def waiterSlot (x : SnapShot) (n : Nat) : List Byte :=
  if n < 36 then panSlot x n
  else if n < 52 then entrySlot x (n - 36)
  else if n < 56 then coreSlot x (n - 52)
  else List.replicate 32 0

/-- The 43,008 bytes behind the header (R315). -/
def snapBody (x : SnapShot) : List Byte :=
  ((List.range 4096).flatMap fun n =>
      leBytes 8 (tallyWord (tabGet Tally.reset x.tallies n) (waitersOn x.waiters x.coreWaits x.entries n)).toNat) ++
    ((List.range 256).flatMap fun n =>
      let g := tabGet GateSt.reset x.gates n
      leBytes 8 (gateCfg g).toNat ++ leBytes 8 (gateGen g).toNat ++ leBytes 8 (gateArr g).toNat ++ leBytes 8 0) ++
    ((List.range 64).flatMap fun n => waiterSlot x n)

/-- A snapshot with number `seq` (R315). -/
def snapImage (x : SnapShot) (seq : Word) : List Byte :=
  let b := snapBody x
  leBytes 4 0x44554D50 ++ leBytes 2 1 ++ leBytes 2 x.source.toNat ++ leBytes 8 x.tick.toNat ++ leBytes 4 x.cal.toNat ++
    leBytes 4 seq.toNat ++ leBytes 2 4096 ++ leBytes 2 256 ++ leBytes 2 64 ++ List.replicate 30 0 ++
    leBytes 4 (crc32 b).toNat ++ b

/-! ### The tick -/

/-- Steps 2, 4 and 5 of R302 and the gate arrivals of R311 for the tick in progress, and the snapshots of its end. Step 3
stands in BOUNDARY_TICK, which runs step 2 first. -/
def endOfTick (s : State) : State := takeSnaps (applyGates (expireWaiters (serveWaiters (applySignals s)) s.tick))

/-- Close the 1 ms windows (800,000 ticks) of the lanes that are over: one log entry with the count (R347). -/
def closeWindow (s : State) (n : LaneIx) (bounds : Bool) : State :=
  let l := laneOf s n
  match (if bounds then l.winOob else l.winUnbound) with
  | none => s
  | some (t0, c) =>
    if t0.toNat + 800000 ≤ s.tick.toNat then
      logEvent (modLane s n fun l => if bounds then { l with winOob := none } else { l with winUnbound := none })
        (if bounds then 0xA5 else 0xA4) (BitVec.ofNat 8 n.val :: leBytes 4 c) (if l.valid then ownerTenant l.owner else none)
    else s

def closeWindows (s : State) : State :=
  (List.finRange 64).foldl (fun r n => closeWindow (closeWindow r n false) n true) s

/-- The calendar counts 1/32,768 s: 800,000,000 ticks to 32,768 steps (R409). -/
def CalSt.pass (x : CalSt) (n : Nat) : CalSt :=
  let a := x.acc + n * 32768
  let f := x.frac.toNat + a / 800000000
  { x with acc := a % 800000000, frac := BitVec.ofNat 15 f, sec := x.sec + BitVec.ofNat 49 (f / 32768) }

/-- Banks of a stack on which a command runs (R403). -/
def activeBanksOf (s : State) (st : Nat) : Nat :=
  (s.dram.units.filter fun e => e.1 / (16 * 264) == st && e.2.running.isSome).length

/-- Pond activity over `n` ticks (R403). -/
def SenSt.pass (x : SenSt) (s : State) (n : Nat) : SenSt :=
  { x with pondNow := (List.range 12).foldl (fun c k => tabModify 0 c k (· + n * activeBanksOf s k)) x.pondNow }

/-- `n` ticks pass. The timebase stands still while the system reach is held, the calendar never (R410, R416). -/
def passTicks (s : State) (n : Nat) : State :=
  { s with
    tick := if s.rst.sysHeld then s.tick else s.tick + BitVec.ofNat 64 n, cal := s.cal.pass n,
    sen := if s.rst.sysHeld then s.sen else s.sen.pass s n, svc := { s.svc with sinceCmd := s.svc.sinceCmd + n },
    rst := { s.rst with firstFresh := false } }

/-- A core takes no further step: it waits, its arrival is held, or it has stopped (R284, R312, R316). -/
def coreStalls (s : State) (c : Fin 4) : Bool :=
  s.rst.stopped.getLsbD c.val || (s.sync.coreWaits.any fun w => w.core == c) || (heldAt s.sync.gates c.val).isSome

/-- A core reads a word of its memory: a corrected word is counted, logged and left for the rake pass; an uncorrectable one stops
the core, logged entry and event (R280, R284, R293, R295; log entry 202). -/
def coreLoad (s : State) (core : Fin 4) (addr : Nat) (flipD : Dword) (flipC : Half) : State :=
  let k := sysKey core.val (addr % 2 ^ 24)
  let s0 : State := { s with mem := writeStored s.mem k (flipStored (readStored s.mem k) flipD flipC) }
  let d := readWord s0 k
  let s1 := noteWord s0 0x72 k d none
  if d.check == .uncorrectable then
    let s2 := logEvent s1 0x72 ((errDetail s k d.syn 0xFF).take 8) none
    { s2 with rst := { s2.rst with stopped := s2.rst.stopped ||| ((1#4) <<< core.val) } }
  else s1

/-- OWNER of what Rilef holds as its own (R299). -/
def rilefOwner : BitVec 5 := 0x10

/-- Rilef takes an unassigned tally, its value then 0, or gives back one of its own (R299). -/
def coreTally (s : State) (t : TlyIx) (own : Bool) : State :=
  let have_ := (tallyOf s t).owner
  let set (x : Tally) : State := { s with sync := { s.sync with tallies := tabSet Tally.reset s.sync.tallies t.val x } }
  if own && have_ == Tally.reset.owner then set { Tally.reset with owner := rilefOwner }
  else if !own && have_ == rilefOwner then set Tally.reset
  else s

/-- Rilef takes an unassigned gate as a port gate, or gives back one of its own (R299, R310). -/
def coreGate (s : State) (g : GateIx) (own : Bool) (ports : BitVec 4) : State :=
  let have_ := (gateOf s g).owner
  let set (x : GateSt) : State := { s with sync := { s.sync with gates := tabSet GateSt.reset s.sync.gates g.val x } }
  if own && have_ == GateSt.reset.owner then set { GateSt.reset with owner := rilefOwner, ports := ports }
  else if !own && have_ == rilefOwner then set GateSt.reset
  else s

/-- What a core of Rilef does while the cores run: a core has one wait at a time (R316), an arrival names a port in a port gate's
PORTS (R310), a core reads and writes its own memory (R276), and Rilef owns tallies and gates like a tenant (R299). -/
def coreCall (s : State) (c : CoreCall) : State :=
  if s.rst.coreHeld then s
  else
    match c with
    | .wait core t consuming ticks =>
      if coreStalls s core then s
      else
        { s with sync := { s.sync with coreWaits := s.sync.coreWaits ++
            [{ core := core, tly := t, consuming := consuming, issue := s.tick,
               expiry := ticks.map fun n => s.tick.toNat + n.toNat }] } }
    | .arrive core g k =>
      if !coreStalls s core && (gateOf s g).mask == 0 && (gateOf s g).ports.getLsbD k.val then
        { s with sync := { s.sync with portArrive := s.sync.portArrive ++ [(g, k, .core core)] } }
      else s
    | .load core addr fd fc => if coreStalls s core then s else coreLoad s core addr fd fc
    | .store core addr d => if coreStalls s core then s else writeWord s (sysKey core.val (addr % 2 ^ 24)) d
    | .ownTally t own => coreTally s t own
    | .ownGate g own ports => coreGate s g own ports

/-! ### Hand writes (R317, R318) -/

def rejectHand (s : State) : State := { s with sync := { s.sync with handReject := satAdd s.sync.handReject 1 } }

def handWrite (s : State) (confirm : Half) (h : HandOp) : State :=
  if confirm = 0xA5C3 then { s with sync := { s.sync with handBar0 := s.sync.handBar0 ++ [h] } } else rejectHand s

/-- TLY_HAND, OP SET (R317). -/
def execTlyHandSet (confirm : Half) (t : TlyIx) (v : Word) (s : State) : Answer := .next (handWrite s confirm (.tlySet t v))

/-- TLY_HAND, OP SIGNAL (R317). -/
def execTlyHandSignal (confirm : Half) (t : TlyIx) (v : Word) (s : State) : Answer := .next (handWrite s confirm (.tlySig t v))

/-- GATE_HAND, OP RELEASE (R317). -/
def execGateHandRelease (confirm : Half) (g : GateIx) (s : State) : Answer := .next (handWrite s confirm (.gateRel g))

/-- GATE_HAND, OP RESET (R317). -/
def execGateHandReset (confirm : Half) (g : GateIx) (s : State) : Answer := .next (handWrite s confirm (.gateRst g))

end Sys2Proof.Machine
end

