-- ==== Sys2Proof/Machine/Copy.lean ====
section
/-! DEFINITION. How a channel moves elements (R153 to R158, R176 to R181, R282 to R284): a mover that gathers element
writes into whole stored units, and stops at the first word it may not use. -/

namespace Sys2Proof.Machine

/-- What halts a channel (R181): the region read and the element offset of the first withheld element. -/
structure CopyHalt where
  rmw : Bool
  region : Half
  off : Nat
deriving DecidableEq, Repr

/-- The mover of a copy: the card as left so far, the unit whose element writes are being gathered, and the outcome. -/
structure Mover where
  s : State
  ten : Option TenIx
  /-- First word of the gathered unit, the bits written and which they are, region and offset of its first element. -/
  unit : Option Nat
  val : Nat
  mask : Nat
  reg : Half
  elem : Nat
  /-- Region byte offset of the unit's first byte, and whether its region is mirrored. -/
  roff : Nat
  mir : Bool
  /-- The unit whose read was recorded last. -/
  noted : Option Nat
  /-- Bits written, and those of the gathered unit, which count once it is stored (CPY_BYTES, R186). -/
  bits : Nat
  held : Nat
  halt : Option CopyHalt
  hostFail : Bool
  /-- The host line read last (R364). -/
  line : Option Nat
  /-- Whose requests the channel makes of the memory controllers (R244). -/
  src : ReqSource
  /-- An access met a bank on which a command runs, or a write queue with no room: the copy waits (R213, R254). -/
  blocked : Bool
  /-- The unit whose access must wait. -/
  meets : Option Nat
  /-- Bytes sent to host memory, newest run first. -/
  host : List (Nat × List Byte)
  wrote : List (Half × Nat × List Byte)
deriving DecidableEq, Repr

def Mover.start (s : State) (t : Option TenIx) (src : ReqSource) : Mover :=
  { src := src, blocked := false, meets := none, s := s, ten := t, unit := none, val := 0, mask := 0, reg := 0, elem := 0, roff := 0, mir := false, noted := none,
    bits := 0, held := 0, halt := none, hostFail := false, line := none, host := [], wrote := [] }

def Mover.stopped (m : Mover) : Bool := m.halt.isSome || m.hostFail || m.blocked

/-- Record the findings of a unit's read, once for a run of reads of it. A read served from the write queue counts in FWD, the
merge of a narrow write into its queued column does not (R275). -/
def Mover.note (m : Mover) (u : Nat) (merge : Bool) : Mover :=
  if m.noted = some u then m
  else
    let s1 := match m.noted with | some v => accessedUnit m.s v (some u) | none => m.s
    { m with s := noteUnit (if merge then s1 else countForward s1 u) 0x40 u m.ten, noted := some u }

/-- The copy waits, its access to unit `u` having to. -/
def Mover.hold (m : Mover) (u : Nat) : Mover := { m with blocked := true, meets := m.meets.or (some u) }

/-- What a copy that waits leaves: the card as it was, the bank that it waits for asked (R213). -/
def Mover.wait (m : Mover) (s : State) : State :=
  match m.meets with
  | some u => askUnits s m.src [u]
  | none => s

/-- A transfer that ended or halted, or one that waits on the card as it was. -/
def orWait (s : State) : Except Mover State → State
  | .ok r => r
  | .error m => m.wait s

/-- Part `i` of the gathered mask: the 64 bits of word `i`. -/
def maskWord (mask i : Nat) : Nat := bitsOf mask (64 * i) 64

def fullWord : Nat := 2 ^ 64 - 1

/-- The word that a gathered write leaves (R282): written bits over the corrected old word. -/
def mergedWord (old : Dword) (val mask : Nat) : Dword :=
  (old &&& ~~~(BitVec.ofNat 64 mask)) ||| (BitVec.ofNat 64 val &&& BitVec.ofNat 64 mask)

/-- Whether storing the gathered unit takes a merge read: a partial word, or part of a column that is not queued (R254,
R282). -/
def Mover.needsRead (m : Mover) (u : Nat) : Bool :=
  (List.range (unitLen u)).any fun i =>
    let w := maskWord m.mask i
    if w = 0 then isDram u && (queuedColumn m.s u).isNone else w != fullWord

/-- The word being written by part is uncorrectable (R283). -/
def Mover.mergeBad (m : Mover) (u : Nat) : Bool :=
  (List.range (unitLen u)).any fun i =>
    maskWord m.mask i != 0 && maskWord m.mask i != fullWord && (seenWord m.s (u + i)).check == .uncorrectable

/-- Bytes of a gathered unit that hold written bits: first, and one past the last. -/
def touched (mask n : Nat) : Nat × Nat :=
  let bs := (List.range n).filter fun i => bitsOf mask (8 * i) 8 != 0
  (bs.headD 0, bs.getLastD 0 + 1)

def Mover.drop (m : Mover) : Mover := { m with unit := none, val := 0, mask := 0, held := 0 }

/-- A write of this unit must wait: its merge read does, or its pseudo-channel's write queue is full and no entry can leave. -/
def Mover.writeBlocked (m : Mover) (u : Nat) : Bool :=
  (m.needsRead u && unitBlocked m.s m.src u) ||
    match (if isDram u then columnOf m.s u else none) with
    | none => false
    | some (b, _) =>
      (queuedColumn m.s u).isNone && decide (64 ≤ (wqOf m.s b).length) &&
        (wqOf m.s b).all fun e => !entryLeaves m.s b.stack (bankSeg b).pc e

/-- The words that a gathered unit leaves: the touched ones merged and encoded, the others as they are stored (R282). -/
def Mover.merged (m : Mover) (u : Nat) : List Stored :=
  (List.range (unitLen u)).map fun i =>
    if maskWord m.mask i = 0 then seenStored m.s (u + i)
    else storedFor m.s (u + i) (mergedWord (seenWord m.s (u + i)).d (maskWord m.val i) (maskWord m.mask i))

/-- The merge read of a narrow write: counted, and its column read from the array (R250, R254, R266, R275). -/
def Mover.mergeRead (m : Mover) (u : Nat) (next : Option Nat) : Mover :=
  if isDram u then { m with s := accessedUnit (countMerge m.s u) u next, noted := none } else m

/-- Store the gathered unit, `next` being the unit whose writes come after it. -/
def Mover.flush (m : Mover) (next : Option Nat) : Mover :=
  match m.unit with
  | none => m
  | some u =>
    let m1 := if m.needsRead u then (m.note u true).mergeRead u next else m
    if m.writeBlocked u then m1.drop.hold u
    else if m.mergeBad u then
      { m1.drop with halt := some (m1.halt.getD { rmw := true, region := m.reg, off := m.elem }) }
    else
      let ws := { m1 with mask := m.mask }.merged u
      let s2 := if isDram u then putColumnVia m1.s m.src (hintFor m1.s u next) u ws
        else (List.range (unitLen u)).foldl (fun r i => { r with mem := writeStored r.mem (u + i) (ws.getD i (encodeWord 0)) }) m1.s
      let t := touched m.mask (8 * unitLen u)
      let w := if m.mir
        then [(m.reg, m.roff + t.1, (List.range (t.2 - t.1)).map fun i => seenByte s2 (8 * u + t.1 + i))] else []
      { m1.drop with s := s2, wrote := m1.wrote ++ w, bits := m1.bits + m1.held }

/-- Turn to the unit that holds a byte location. -/
def Mover.turn (m : Mover) (u : Nat) : Mover := if m.unit = some u then m else m.flush (some u)

/-- One element of a plane: its region, its byte, whether the high nibble, its element offset. -/
structure ElemAt where
  region : Half
  view : RegView
  byte : Nat
  hi : Bool
  off : Nat
deriving DecidableEq, Repr

/-- Bit position of an element within its unit. -/
def bitIn (u loc : Nat) (hi : Bool) : Nat := 8 * (loc - 8 * u) + (if hi then 4 else 0)

/-- Host memory answers a read while the card is ATTACHED and the link is up, unless the host fails it (R364). -/
def hostReads (s : State) : Bool := s.host.attach == .attached && s.host.linkUp && !Config.hostReadFails s.free

/-- The channel reads host memory in 64-byte lines (R364). -/
def Mover.readLine (m : Mover) (a : Nat) : Mover :=
  if m.line = some (a / 64) then m
  else { m with line := some (a / 64), s := if m.s.host.linkUp then emit m.s [.rdCurr (BitVec.ofNat 64 (a / 64 * 64))] else m.s }

/-- The byte that the copy itself has sent to a host address: a read does not pass its posted writes (R158, R364). -/
def hostSent (host : List (Nat × List Byte)) (a : Nat) : Option Byte :=
  match host.find? fun r => decide (r.1 ≤ a) && decide (a < r.1 + r.2.length) with
  | some r => r.2[a - r.1]?
  | none => none

/-- Read an element code of `n` bits (R153, R181, R364). Host memory holds what this copy has sent it, and else free values. -/
def Mover.read (m : Mover) (n : Nat) (e : ElemAt) : Mover × Nat :=
  match viewLoc m.s e.view.view e.byte with
  | none => ({ m with s := usedFree m.s 1 }, (freshFree m.s).toNat % 2 ^ n)
  | some loc =>
    if hostLoc ≤ loc then
      let free := leBytes 8 (freshFree m.s).toNat
      let code := leNat ((List.range ((n + 7) / 8)).map fun i => (hostSent m.host (loc - hostLoc + i)).getD (free.getD i 0))
      let q := m.readLine (loc - hostLoc)
      if hostReads m.s then ({ q with s := usedFree q.s 1 }, (if e.hi then code / 16 else code) % 2 ^ n)
      else ({ q with hostFail := true, s := usedFree q.s 1 }, 0)
    else
      let u := unitFirst loc
      let b := bitIn u loc e.hi
      if m.unit = some u ∧ bitsOf m.mask b n = 2 ^ n - 1 then (m, bitsOf m.val b n)
      else if unitBlocked m.s m.src u then (m.hold u, 0)
      else if unitBad m.s u then
        ({ m.note u false with halt := some { rmw := false, region := e.region, off := e.off } }, 0)
      else (m.note u false, bitsOf (leNat (bytesOfWords (wordsOf (unitWords m.s u)))) b n)

/-- Send bytes to host memory, joining them to a run that ends where they begin. -/
def joinHost (host : List (Nat × List Byte)) (a : Nat) (bs : List Byte) : List (Nat × List Byte) :=
  match host with
  | (b, xs) :: r => if b + xs.length = a then (b, xs ++ bs) :: r else (a, bs) :: host
  | [] => [(a, bs)]

/-- Replace the nibble of a byte that the copy has already sent to host memory. -/
def hostNibble (host : List (Nat × List Byte)) (a : Nat) (hi : Bool) (v : Nat) : Option (List (Nat × List Byte)) :=
  let holds (r : Nat × List Byte) : Bool := decide (r.1 ≤ a) && decide (a < r.1 + r.2.length)
  let put (x : Byte) : Byte := if hi then (x &&& 0x0F) ||| BitVec.ofNat 8 (16 * v) else (x &&& 0xF0) ||| BitVec.ofNat 8 v
  if host.any holds then
    some (host.map fun r => if holds r then (r.1, mapNth put (a - r.1) r.2) else r)
  else none

/-- Write an element code of `n` bits. The other nibble of a host byte is left as it is (R139): as this copy has sent it, else
as host memory holds it, which the model does not know (log entry 2). `count` bits of it count in CPY_BYTES. -/
def Mover.store (m : Mover) (n : Nat) (e : ElemAt) (v count : Nat) : Mover :=
  match viewLoc m.s e.view.view e.byte with
  | none => m
  | some loc =>
    if hostLoc ≤ loc then
      match (if n = 4 then hostNibble m.host (loc - hostLoc) e.hi v else none) with
      | some h => { m with host := h, bits := m.bits + count }
      | none =>
        let other := (freshFree m.s).toNat
        let byte := if n = 4 then (if e.hi then other % 16 + 16 * v else v + 16 * (other % 16)) else v
        { m with
          s := if n = 4 then usedFree m.s 1 else m.s,
          host := joinHost m.host (loc - hostLoc) (leBytes ((n + 7) / 8) byte), bits := m.bits + count }
    else
      let u := unitFirst loc
      let m1 := m.turn u
      if m1.stopped then m1
      else
        let b := bitIn u loc e.hi
        let msk := (2 ^ n - 1) * 2 ^ b
        let keep := m1.val - Nat.land m1.val msk
        if m1.unit = some u then
          { m1 with val := keep + v * 2 ^ b, mask := Nat.lor m1.mask msk, held := m1.held + count }
        else
          { m1 with
            unit := some u, val := v * 2 ^ b, mask := msk, reg := e.region, elem := e.off, roff := e.byte - (loc - 8 * u),
            mir := e.view.mirrored, held := m1.held + count }

def Mover.write (m : Mover) (n : Nat) (e : ElemAt) (v : Nat) : Mover := m.store n e v n

/-- Read `n` bytes of a region in order, up to the first that is withheld. -/
def readVia (m : Mover) (region : Half) (v : RegView) (base n : Nat) : Mover × List Byte :=
  (List.range n).foldl
    (fun r i =>
      if r.1.stopped then r
      else
        let q := r.1.read 8 { region := region, view := v, byte := base + i, hi := false, off := base + i }
        (q.1, if q.1.stopped then r.2 else r.2 ++ [BitVec.ofNat 8 q.2]))
    (m, [])

/-- Write bytes of a region in order, up to the first that cannot be merged. -/
def writeVia (m : Mover) (region : Half) (v : RegView) (base : Nat) (data : List Byte) : Mover :=
  data.zipIdx.foldl
    (fun m b => if m.stopped then m
      else m.write 8 { region := region, view := v, byte := base + b.2, hi := false, off := base + b.2 } b.1.toNat) m

/-- The copy is over: store what is gathered, and let host bytes leave on the posted path (R166). -/
def Mover.finish (m : Mover) : Mover :=
  let m0 := m.flush none
  let m1 := { m0 with s := forgetAsks (match m0.noted with | some u => accessedUnit m0.s u none | none => m0.s) m0.src }
  { m1 with
    s := if m1.s.host.linkUp then
        emit m1.s (m1.host.reverse.map fun r => Out.hostWrite (BitVec.ofNat 64 r.1) r.2) else m1.s,
    host := [] }

/-! ### Planes -/

/-- A plane of a copy: source and destination with their regions. -/
structure Plane where
  src : Desc
  dst : Desc
  sv : RegView
  dv : RegView
deriving DecidableEq, Repr

def elemAt (d : Desc) (v : RegView) (at_ : Nat × Bool) : ElemAt :=
  { region := d.region, view := v, byte := at_.1, hi := at_.2, off := at_.1 * 8 / fmtBits d.fmt + (if at_.2 then 1 else 0) }

/-- The source's stored index for a destination index, where it lies inside the source (R153). -/
def sourceIndex (d : Desc) (x : List Nat) : Option (List Nat) :=
  if (List.range 6).all fun k => decide (d.pad k ≤ idx x k) && decide (idx x k < d.pad k + d.sz k)
  then some ((List.range 6).map fun k => idx x k - d.pad k) else none

/-- Write an element; a write into the last column of a POND vector also zeroes the column's unused bytes (R142).
DESIGN CHOICE (log entry 191): those bytes do not count in CPY_BYTES. -/
def Mover.put (m : Mover) (d : Desc) (e : ElemAt) (x : List Nat) (v : Nat) : Mover :=
  let m1 := m.write (fmtBits d.fmt) e v
  let used := ceilDiv (d.sz 0 * fmtBits d.fmt) 8
  let at0 := (elemByte d.fmt (idx x 0)).1
  if d.isGlobal ∧ d.layout = 4 ∧ used < d.pondE ∧ d.pondE ≤ at0 + 32 ∧ !m1.stopped then
    (List.range (d.pondE - used)).foldl
      (fun q i => if q.stopped then q else q.store 8 { e with byte := e.byte - at0 + used + i, hi := false } 0 0) m1
  else m1

/-- All indices reached by axes, the first axis fastest. -/
def walkAxes : List Axis → List (List Nat)
  | [] => [[0, 0, 0, 0, 0, 0]]
  | a :: r =>
    (walkAxes r).flatMap fun i => (List.range a.extent).map fun k => mapNth (fun v => v + k * a.step) a.dim i

def inShape (d : Desc) (x : List Nat) : Bool := (List.range 6).all fun k => decide (idx x k < d.sz k)

/-- A destination element to visit: its index, and its place. -/
structure Visit where
  x : List Nat
  at_ : Nat × Bool
deriving DecidableEq, Repr

/-- Global index of a local one in a shard (R145). -/
def shardIndex (d : Desc) (g : List Nat) (l : List Nat) : List Nat :=
  (List.range 6).map fun k =>
    match d.mode k with
    | 0 => idx l k + d.localSize k * idx g k
    | 1 => idx l k * d.nshard k + idx g k
    | _ => idx l k

/-- Axes of the packed piece of the shard with digits `g`. -/
def Desc.localAxes (d : Desc) (g : List Nat) : List Axis :=
  let l := d.extentAt g
  let t0 := ceilDiv (l 0) 32
  let t1 := ceilDiv (l 1) 32
  if d.layout = 2 then
    [{ dim := 0, step := 1, extent := min 32 (l 0), stride := 1 }, { dim := 1, step := 1, extent := min 32 (l 1), stride := 32 },
     { dim := 0, step := 32, extent := t0, stride := 1024 }, { dim := 1, step := 32, extent := t1, stride := 1024 * t0 }] ++
      (List.range 4).map fun k =>
        { dim := k + 2, step := 1, extent := l (k + 2),
          stride := 1024 * t0 * t1 * ((List.range k).map fun j => l (j + 2)).prod }
  else
    (List.range 6).map fun k => { dim := k, step := 1, extent := l k, stride := (d.packedStrides l).getD k 0 }

/-- The elements of a tensor in visit order (R153); a GLOBAL one shard by shard, so that replicas are written in increasing
order (R145), and a POND one block by block. Only the shards whose digits `keep` holds for. -/
def shardVisits (keep : List Nat → Bool) (d : Desc) (map : List Nat) : List Visit :=
  if !d.isGlobal then
    ((walkAxes (sortAxes d.axes)).filter (inShape d)).map fun x => { x := x, at_ := elemByte d.fmt (d.off x) }
  else if d.layout = 4 then
    ((walkAxes
        [{ dim := 0, step := 1, extent := d.sz 0, stride := 0 }, { dim := 2, step := 1, extent := d.ptok, stride := 0 },
         { dim := 1, step := 1, extent := 2, stride := 0 }, { dim := 3, step := 1, extent := d.sz 3, stride := 0 },
         { dim := 4, step := 1, extent := d.sz 4, stride := 0 }, { dim := 2, step := d.ptok, extent := d.pondPer, stride := 0 }]).filter
      (inShape d)).map fun x => { x := x, at_ := d.at_ map 0 x }
  else
    ((List.range d.shards).filter fun s => keep (d.digits s)).flatMap fun s =>
      let g := d.digits s
      let base := d.shardBase map s
      (((walkAxes (sortAxes (d.localAxes g))).filter fun l => (List.range 6).all fun k => decide (idx l k < d.extentAt g k)).map
        fun l =>
          let e := elemByte d.fmt (d.packed (d.extentAt g) l)
          { x := shardIndex d g l, at_ := (base + e.1, e.2) })

/-- The destination elements of a copy: every replica is written (R145). -/
def visits (d : Desc) (map : List Nat) : List Visit := shardVisits (fun _ => true) d map

/-- The elements of a source stack, each once: replica 0 of a REPLICATED one (R145, R157, R158). -/
def sourceVisits (d : Desc) (map : List Nat) : List Visit :=
  shardVisits (fun g => (List.range 6).all fun k => d.mode k != 2 || idx g k == 0) d map

/-- Move one element. -/
def moveElem (pl : Plane) (m : Mover) (v : Visit) : Mover :=
  if m.stopped then m
  else
    let n := fmtBits pl.dst.fmt
    let r := match sourceIndex pl.src v.x with
      | none => (m, pl.src.fill)
      | some i => m.read n (elemAt pl.src pl.sv (pl.src.at_ pl.sv.map 0 i))
    if r.1.stopped then r.1 else r.1.put pl.dst (elemAt pl.dst pl.dv v.at_) v.x r.2

/-- Turn towards the element's destination before its source is read, so that an earlier word that cannot be merged
halts the copy first. -/
def moveVisit (pl : Plane) (m : Mover) (v : Visit) : Mover :=
  if m.stopped then m
  else
    match viewLoc m.s pl.dv.view v.at_.1 with
    | some loc => moveElem pl (if loc < hostLoc then m.turn (unitFirst loc) else m) v
    | none => moveElem pl m v

/-- The elements of a plane in the destination's order. DESIGN CHOICE (log entry 188): R147 splits a GLOBAL copy at shard
boundaries; a GLOBAL source copied to a DENSE destination is walked in the destination's order. -/
def movePlane (pl : Plane) (m : Mover) : Mover := (visits pl.dst pl.dv.map).foldl (moveVisit pl) m

/-! ### The exact in-place square transpose (R179) -/

/-- Offsets of one block: rows from r, columns from c, at most n of each inside the square. -/
def blockCells (side n r c : Nat) : List (Nat × Nat) :=
  (List.range (min n (side - r))).flatMap fun i => (List.range (min n (side - c))).map fun j => (r + i, c + j)

/-- Read cells, then write each one's value at its mirror place. -/
def swapCells (pl : Plane) (m : Mover) (cells : List (Nat × Nat)) : Mover :=
  let n := fmtBits pl.dst.fmt
  let off (a b : Nat) : Nat := pl.dst.base + a * pl.dst.st 1 + b
  let rd := cells.foldl
    (fun (q : Mover × List Nat) c =>
      if q.1.stopped then q
      else
        let r := q.1.read n (elemAt pl.src pl.sv (elemByte pl.src.fmt (off c.1 c.2)))
        (r.1, q.2 ++ [r.2]))
    (m, [])
  if rd.1.stopped then rd.1
  else
    (cells.zip rd.2).foldl
      (fun q c => if q.stopped then q else q.write n (elemAt pl.dst pl.dv (elemByte pl.dst.fmt (off c.1.2 c.1.1))) c.2)
      rd.1

/-- Tile-swap mode: block (a, b) and block (b, a) together, diagonal blocks in place; 16 × 16 on a pan channel,
64 × 64 on a system channel. DESIGN CHOICE (log entry 190): R179 gives the pairs no order; they are taken row by row. -/
def swapPlane (pl : Plane) (n : Nat) (m : Mover) : Mover :=
  let side := pl.dst.sz 0
  let nb := ceilDiv side n
  ((List.range nb).flatMap fun a => (List.range (a + 1)).map fun b => (a, b)).foldl
    (fun q ab =>
      if q.stopped then q
      else
        swapCells pl q
          (if ab.1 = ab.2 then blockCells side n (n * ab.1) (n * ab.1)
           else blockCells side n (n * ab.1) (n * ab.2) ++ blockCells side n (n * ab.2) (n * ab.1)))
    m

/-! ### Lists (R155 to R158) -/

structure CopyList where
  count : Nat
  ecoord : Nat
  op : Nat
  rsv : Nat
  blk : List Nat
  /-- Entries: signed coordinates. -/
  entries : List (List Int)
deriving DecidableEq, Repr

def signed32 (v : Nat) : Int := if v < 2 ^ 31 then (v : Int) else (v : Int) - 2 ^ 32

def decodeListHead (e : List Byte) : CopyList :=
  { count := fieldAt e 0 4, ecoord := fieldAt e 4 1, op := fieldAt e 5 1, rsv := fieldAt e 6 2,
    blk := (List.range 6).map fun d => fieldAt e (8 + 4 * d) 4, entries := [] }

def CopyList.headBad (l : CopyList) : Bool :=
  l.count == 0 || decide (2 ^ 24 < l.count) || l.ecoord == 0 || decide (6 < l.ecoord) || decide (2 < l.op) || l.rsv != 0 ||
    (List.range 6).any fun d =>
      if d < l.ecoord then l.blk.getD d 0 == 0 || decide (2 ^ 24 ≤ l.blk.getD d 0) else l.blk.getD d 0 != 0

def CopyList.withEntries (l : CopyList) (e : List Byte) : CopyList :=
  { l with entries := (List.range l.count).map fun k =>
      (List.range l.ecoord).map fun d => signed32 (fieldAt e (4 * (k * l.ecoord + d)) 4) }

/-- R156, against the two tensors of the request. -/
def CopyList.shapeBad (l : CopyList) (src dst : Desc) : Bool :=
  let stack := if l.op = 0 then dst else src
  src.rank != l.ecoord || dst.rank != l.ecoord ||
    ((List.range l.ecoord).any fun d =>
      stack.sz d != (if d + 1 = l.ecoord then l.count * l.blk.getD d 0 else l.blk.getD d 0)) ||
    (l.op == 2 && decide (2 < dst.fmt))

/-- Origin of an entry's block along a dimension. -/
def CopyList.origin (l : CopyList) (c : List Int) (d : Nat) : Int := c.getD d 0 * (l.blk.getD d 0 : Int)

/-- R157: the entry is out of range for the blocked tensor `b`. -/
def CopyList.outOfRange (l : CopyList) (b : Desc) (c : List Int) : Bool :=
  (List.range l.ecoord).any fun d => decide (c.getD d 0 < 0) || decide (((b.pad d + b.sz d : Nat) : Int) ≤ l.origin c d)

/-- Position in the blocked tensor of stack index `x`, for entry `k`. -/
def CopyList.blocked (l : CopyList) (k : Nat) (c : List Int) (x : List Nat) : List Nat :=
  (List.range 6).map fun d =>
    if d < l.ecoord then
      (l.origin c d).toNat + (if d + 1 = l.ecoord then idx x d - k * l.blk.getD d 0 else idx x d)
    else 0

/-- Stack elements of entry `k`. R158 orders the entries, and R153 the elements of a copy by its destination; here those of an
entry go in the order of the stack's own visits, which is the destination's but under SCATTER (DESIGN CHOICE, log entry 211). -/
def CopyList.slice (l : CopyList) (k : Nat) (vs : List Visit) : List Visit :=
  vs.filter fun v => idx v.x (l.ecoord - 1) / l.blk.getD (l.ecoord - 1) 1 == k

/-- One entry of a list. Counts out-of-range entries and dropped elements beside the mover. -/
def moveEntry (pl : Plane) (l : CopyList) (vs : List Visit) (q : Mover × Nat × Nat) (kc : Nat × List Int) :
    Mover × Nat × Nat :=
  if q.1.stopped then q
  else
    let n := fmtBits pl.dst.fmt
    let out := l.outOfRange (if l.op = 0 then pl.src else pl.dst) kc.2
    let q1 : Mover × Nat × Nat := if out then (q.1, q.2.1 + 1, q.2.2) else q
    (l.slice kc.1 vs).foldl
      (fun (r : Mover × Nat × Nat) v =>
        if r.1.stopped then r
        else
          let b := l.blocked kc.1 kc.2 v.x
          if l.op = 0 then
            let rd := match (if out then none else sourceIndex pl.src b) with
              | none => (r.1, pl.src.fill)
              | some i => r.1.read n (elemAt pl.src pl.sv (pl.src.at_ pl.sv.map 0 i))
            if rd.1.stopped then (rd.1, r.2)
            else (rd.1.put pl.dst (elemAt pl.dst pl.dv v.at_) v.x rd.2, r.2)
          else if out then r
          else if !inShape pl.dst b then (r.1, r.2.1, r.2.2 + 1)
          else
            let rd := match sourceIndex pl.src v.x with
              | none => (r.1, pl.src.fill)
              | some i => r.1.read n (elemAt pl.src pl.sv (pl.src.at_ pl.sv.map 0 i))
            if rd.1.stopped then (rd.1, r.2)
            else
              let old := if l.op = 2 then rd.1.read n (elemAt pl.dst pl.dv (pl.dst.at_ pl.dv.map 0 b)) else (rd.1, 0)
              if old.1.stopped then (old.1, r.2)
              else
                let f := pl.dst.fmt
                let v' := if l.op = 2
                  then (convert f (Ext.ofF32 (rne32 ((fmtVal f false old.2).add (fmtVal f false rd.2))))).code else rd.2
                ((List.range (if pl.dst.isGlobal then pl.dst.replicas else 1)).foldl
                  (fun w rep =>
                    if w.stopped then w
                    else w.put pl.dst (elemAt pl.dst pl.dv (pl.dst.at_ pl.dv.map rep b)) b v')
                  old.1, r.2))
      q1

/-- Carry a list out, entry by entry (R158). Answers the mover, the out-of-range entries and the dropped elements. -/
def moveList (pl : Plane) (l : CopyList) (m : Mover) : Mover × Nat × Nat :=
  ((List.range l.count).zip l.entries).foldl (moveEntry pl l
    (if l.op = 0 then visits pl.dst pl.dv.map else sourceVisits pl.src pl.sv.map)) (m, 0, 0)

/-! ### A whole copy -/

/-- The descriptors of a copy as the channel read them (R148). -/
structure CopyJob where
  src : Desc
  dst : Desc
  srcComp : Option Desc
  dstComp : Option Desc
  list : Option CopyList
deriving DecidableEq, Repr

/-- Which descriptor a refusal names: role, and 1 for its companion (R160). -/
structure Refused where
  code : Byte
  role : BitVec 2
  comp : Bool
deriving DecidableEq, Repr

/-- The list breaks R155 or R156, or could not be read. -/
def listBad (j : CopyJob) : Bool :=
  match j.list with
  | none => false
  | some l => l.headBad || l.shapeBad j.src j.dst

/-- Source and destination of a copy overlap (R177): their descriptors and, where a scale plane moves too (R176), the
companions beside them (log entry 143). -/
def planesOverlap (s : State) (u : DescUser) (j : CopyJob) : Bool :=
  let side (d : Desc) (c : Option Desc) : List Desc := if j.src.isMxb && j.dst.isMxb then d :: c.toList else [d]
  (side j.src j.srcComp).any fun a => (side j.dst j.dstComp).any fun b => pairOverlap s u a b

/-- What of a request could not be read because its bytes do not exist. -/
structure Missing where
  src : Bool
  dst : Bool
  list : Bool
deriving DecidableEq, Repr

/-- Validation in the order of R149: source, its companion, destination, its companion, list, pair. A missing companion of an
MXB descriptor lay outside the partition; a descriptor that does not exist counts as one whose region does not, a list as one
that breaks R155, each in its turn. -/
def refuse (s : State) (sys : Bool) (t : Option TenIx) (l : Fin 32) (j : CopyJob) (gone : Missing) : Option Refused :=
  let u (dst : Bool) : DescUser := { sys := sys, tenant := t, lpan := l, dst := dst }
  let one (dst : Bool) (d : Desc) (c : Option Desc) : Option Refused :=
    let role : BitVec 2 := if dst then 1 else 0
    if (if dst then gone.dst else gone.src) then some { code := 0x36, role := role, comp := false }
    else match checkDesc s (u dst) none d with
    | some e => some { code := e, role := role, comp := false }
    | none =>
      if d.isMxb then
        match c with
        | none => some { code := 0x3B, role := role, comp := true }
        | some c => (checkDesc s (u dst) (some d) c).map fun e => { code := e, role := role, comp := true }
      else none
  match one false j.src j.srcComp with
  | some r => some r
  | none =>
    match one true j.dst j.dstComp with
    | some r => some r
    | none =>
      if gone.list || listBad j then some { code := 0x3C, role := 2, comp := false }
      else if j.src.fmt != j.dst.fmt || j.src.rank != j.dst.rank then some { code := 0x3D, role := 3, comp := false }
      else if (pairTransposing j.src j.dst || pairPermuting j.src j.dst || j.list.isSome) &&
          planesOverlap s (u false) j && !(squareTranspose j.src j.dst && j.list.isNone) then
        some { code := 0x3E, role := 3, comp := false }
      else none

/-- Scale plane of a list between MXB tensors: block extents along BDIM count scale blocks (log entry 42). -/
def CopyList.scaleList (l : CopyList) (b : Nat) : CopyList :=
  { l with blk := mapNth (fun v => ceilDiv v 32) b l.blk }

/-- Move every element of an accepted copy: the data plane, then the scale plane between two MXB descriptors (R176);
identical descriptors move nothing (R178), and such a copy reads nothing and counts no byte (DESIGN CHOICE, log entry 217). -/
def runCopy (sys : Bool) (l : Fin 32) (j : CopyJob) (m : Mover) : Mover × Nat × Nat :=
  if j.src = j.dst ∧ j.srcComp = j.dstComp ∧ j.list = none then (m, 0, 0)
  else
    match regionView m.s m.ten l j.src.region, regionView m.s m.ten l j.dst.region with
    | some sv, some dv =>
      let pl : Plane := { src := j.src, dst := j.dst, sv := sv, dv := dv }
      let r : Mover × Nat × Nat :=
        match j.list with
        | some li => moveList pl li m
        | none => if squareTranspose j.src j.dst then (swapPlane pl (if sys then 64 else 16) m, 0, 0) else (movePlane pl m, 0, 0)
      match (if j.src.isMxb ∧ j.dst.isMxb then j.srcComp else none), j.dstComp with
      | some sc, some dc =>
        if r.1.stopped then (r.1.finish, r.2)
        else
          match regionView r.1.s m.ten l sc.region, regionView r.1.s m.ten l dc.region with
          | some sv, some dv =>
            let pl : Plane := { src := sc, dst := dc, sv := sv, dv := dv }
            (((match j.list with
              | some li => (moveList pl (li.scaleList j.dst.bdim) (r.1.flush none)).1
              | none => movePlane pl (r.1.flush none)) : Mover).finish, r.2)
          | _, _ => (r.1.finish, r.2)
      | _, _ => (r.1.finish, r.2)
    | _, _ => (m, 0, 0)

/-- Mark a refused creation in the tenant's DESC_ERR (R160). -/
def markRefused (s : State) (t : TenIx) (r : Refused) (sys : Bool) (chan : Nat) (addr : Nat) : State :=
  { s with desc := tabModify DescRegs.reset s.desc t.val fun d =>
      { d with count := satAdd d.count 1, err := r.code, role := r.role, sys := sys, chan := BitVec.ofNat 5 chan,
               addr := BitVec.ofNat 32 addr } }

/-- Add to DESC_OOR and DESC_DROP (R157, R160). -/
def countList (s : State) (t : Option TenIx) (oor drop : Nat) : State :=
  match t with
  | none => s
  | some t => { s with desc := tabModify DescRegs.reset s.desc t.val fun d =>
      { d with oor := satAdd d.oor oor, drop := satAdd d.drop drop } }

end Sys2Proof.Machine
end

