-- ==== Sys2Proof/Machine/Issue.lean ====
section
/-! DEFINITION. Issue of a bundle (R46, R52 to R55, R72 to R75): when a slot of the bundle at PC goes, waits or traps. -/

namespace Sys2Proof.Machine

/-- What becomes of a slot command: the pan issues nothing, the bundle waits, it raises an issue trap, or it issues. -/
inductive Verdict
  | no
  | stall
  | trap (cause : BitVec 4) (slot : BitVec 2) (addr : Dword)
  | go
deriving DecidableEq, Repr

/-- The pan may issue: it runs a body whose ENDB has not issued, and is not paused but for a STEP (R63, R72, R77). -/
def Pan.issues (x : Pan) : Bool :=
  x.tenant.isSome && x.inBody && !x.endIssued &&
    (x.state == .run || x.state == .stall || (x.state == .paused && x.stepping))

/-- Address of the 64-byte row that holds the bundle at PC (R46). -/
def Pan.rowAddr (x : Pan) : Dword := alignDown x.pc 6

/-- The bundle address lies outside the pan SRAM partition (R46, R50). -/
def Pan.pcOutside (x : Pan) : Bool := outsidePan x x.pc 16

/-- The words of the row at PC as fetched. -/
def fetchWords (s : State) (p : PanIx) : List (Nat × Decoded) := readWords s (sramKey p (panOf s p) (panOf s p).rowAddr) 8

/-- Fetch the row at PC unless it is the one last fetched: its corrected and uncorrectable words are logged once (R74,
R280, R284). -/
def fetchRow (s : State) (p : PanIx) : State :=
  if !(panOf s p).issues || (panOf s p).mid || (panOf s p).pcOutside ||
      (panOf s p).fetched == some (sramKey p (panOf s p) (panOf s p).rowAddr) then s
  else
    noteWords (modPan s p fun x => { x with fetched := some (sramKey p x x.rowAddr) }) 0x20 (fetchWords s p)
      (panOf s p).tenant

/-- Registers whose write is still pending (R54). -/
def Pan.pendingWrites (x : Pan) : List Nat :=
  (x.loads.map fun l => if l.vector then resV l.reg.toNat else resG l.reg.toNat) ++
    (match x.wait with | .tally rd => [resG rd.toNat] | _ => []) ++
    x.mq.flatMap (·.writes) ++ x.mfly.flatMap (·.writes) ++ x.eq.flatMap (·.writes) ++ x.efly.flatMap (·.writes)

/-- Registers that a queued operation has still to read (R54). -/
def Pan.pendingReads (x : Pan) : List Nat := x.mq.flatMap (·.reads) ++ x.eq.flatMap (·.reads)

/-- Pending writes of operations that are not in the M engine, and of those not in the E engine. -/
def Pan.writesButM (x : Pan) : List Nat := { x with mq := [], mfly := [] }.pendingWrites

def Pan.writesButE (x : Pan) : List Nat := { x with eq := [], efly := [] }.pendingWrites

/-- Registers that a slot names, against those of a list. -/
def namesAny (rs pending : List Nat) : Bool := rs.any fun r => r != 0 && pending.contains r

/-- A hazard of R54. Each engine keeps the order of its own operations (R55), so that a write of an M or E slot need not wait for
the reads and writes of earlier operations of the same engine; a read waits for every write. -/
def hazard (x : Pan) (b : Bundle) : Bool :=
  let m := usesM b.m
  let e := (usesE b.e).also (chainUses x b.e)
  let o := (usesS b.s).also (usesC b.c)
  namesAny (o.reads ++ m.reads ++ e.reads ++ o.writes) x.pendingWrites || namesAny o.writes x.pendingReads ||
    namesAny m.writes x.writesButM || namesAny m.writes (x.eq.flatMap (·.reads)) ||
    namesAny e.writes x.writesButE || namesAny e.writes (x.mq.flatMap (·.reads))

/-- Copies outstanding on a channel (R69, R161). -/
def PanChan.outstanding (c : PanChan) : Nat := c.queue.length + (if c.cur.isSome then 1 else 0)

/-- The bundle must wait (R52, R54, R55, R58, R69): a GATE or FENCE holds issue, a hazard stands, a queue it needs is
full, eight copies are outstanding, or its WAIT, WAITN or GATE finds the pan's waiter slot taken. -/
def mustWait (x : Pan) (b : Bundle) : Bool :=
  x.wait == .gate || x.fence.isSome || hazard x b ||
    (slotOp b.m != 0 && decide (4 ≤ x.mq.length)) || (slotOp b.e != 0 && decide (4 ≤ x.eq.length)) ||
    (slotOp b.c == 3 && decide (8 ≤ x.chan.outstanding)) ||
    ((slotOp b.c == 6 || slotOp b.c == 7 || slotOp b.c == 8) && x.wait != .none)

/-- An address of the S or C slot outside the partition (R50, R69, R72). -/
def rangeTrap (x : Pan) (b : Bundle) : Option (BitVec 2 × Dword) :=
  let sa := ldAddr x (BitVec.ofNat 5 (fld b.s 16 5)) (BitVec.ofNat 16 (fld b.s 0 16))
  let ca := vldAddr x (BitVec.ofNat 5 (fld b.c 16 5)) (BitVec.ofNat 14 (fld b.c 0 14))
  if (slotOp b.s = 0x18 ∨ slotOp b.s = 0x19) ∧ outside x sa 8 then some (0, sa)
  else if slotOp b.c = 1 ∧ outside x ca 1024 then some (3, ca)
  else if slotOp b.c = 2 ∧ outside x ca (1024 / 2 ^ fld b.c 14 2) then some (3, ca)
  else if slotOp b.c = 3 ∧ outside x (x.readG (fld b.c 21 5)) 64 then some (3, x.readG (fld b.c 21 5))
  else if slotOp b.c = 3 ∧ outside x (x.readG (fld b.c 16 5)) 64 then some (3, x.readG (fld b.c 16 5))
  else none

/-- A debugger is attached while the debug range is open (R75; log entry 32). -/
def debuggerAttached (s : State) : Bool := s.dbg.open_

/-- The bundle at PC as the row spells it (R46, R51). -/
def bundleAt (s : State) (p : PanIx) : Bundle :=
  let i := (panOf s p).pc.toNat / 16 % 4 * 2
  let ws := wordsOf (fetchWords s p)
  let lo := ws.getD i 0
  let hi := ws.getD (i + 1) 0
  { s := lo.truncate 32, m := (lo >>> 32).truncate 32, e := hi.truncate 32, c := (hi >>> 32).truncate 32 }

/-- Every slot of the bundle beside S is a no-operation or has issued. -/
def Pan.othersIssued (x : Pan) (b : Bundle) : Bool :=
  let done (n : Nat) : Bool := x.mid && x.midSlots.getLsbD n
  (b.m == 0 || done 1) && (b.e == 0 || done 2) && (b.c == 0 || done 3)

/-- It is the turn of slot `sl`, 0 to 3 for S, M, E, C: the bundle is the one whose slots are issuing, if one is; the slot has not
issued yet; the S slot comes last. The four slots of a bundle thus issue together, before any of another (R52). -/
def Pan.slotTurn (x : Pan) (b : Bundle) (sl : BitVec 2) : Bool :=
  (!x.mid || (x.midB == b && !x.midSlots.getLsbD sl.toNat)) && (sl != 0 || x.othersIssued b)

/-- Whether slot `sl` of a bundle issues: the bundle is the one at PC in the pan's partition (R46). Causes are tried in the
order FETCH_UE, ILLEGAL, waits, SRAM_RANGE, BREAK (log entry 30). A bundle at PC with an undefined word traps whatever the
command spells, since no command spells such a word (R60, R64, R68, R69; log entry 3). A bundle of which a slot has issued
issues whole (R52). DESIGN CHOICE (log entry 170): PAN_TRAP_ADDR is 0 after ILLEGAL and BREAK, which have no address (R76). -/
def verdict (s : State) (p : PanIx) (b : Bundle) (sl : BitVec 2) : Verdict :=
  let x := panOf s p
  if !x.issues then .no
  else if x.mid then (if x.slotTurn b sl then .go else .no)
  else if x.pcOutside then .trap 3 0 x.pc
  else if (firstBad (fetchWords s p)).isSome then .trap 1 0 x.pc
  else
    match illegalSlot (bundleAt s p), bundleAt s p != b, clashSlot b with
    | some sl, _, _ => .trap 2 sl 0
    | none, true, _ => .no
    | none, false, some sl => .trap 2 sl 0
    | none, false, none =>
      if mustWait x b then .stall
      else
        match rangeTrap x b with
        | some (sl, a) => .trap 3 sl a
        | none =>
          if slotOp b.s = 0x29 ∧ !debuggerAttached s then .trap 5 0 0
          else if x.slotTurn b sl then .go else .no

/-- The pan once slot `sl` of a bundle has issued and while the S slot has not. -/
def Pan.opened (b : Bundle) (sl : BitVec 2) (x : Pan) : Pan :=
  { x with
    state := if x.state = .paused then .paused else .run, mid := true, midB := b,
    midSlots := (if x.mid then x.midSlots else 0) ||| ((1#4) <<< sl.toNat) }

/-- A bundle that waits: a stalled cycle is counted (R79). A paused pan that steps stays paused (R77). -/
def Pan.stalled (x : Pan) : Pan := { x with state := if x.state = .paused then .paused else .stall, stall := x.stall + 1 }

/-- A slot command of slot `sl`: `act` is its effect on a bundle that issues. DESIGN CHOICE (log entry 181): accesses to SRAM of
two slots of one bundle take effect in the order in which the slot commands are given, S last (R70 orders bundles). -/
def issueSlot (s : State) (p : PanIx) (b : Bundle) (sl : BitVec 2) (act : State → State) : State :=
  match verdict (fetchRow s p) p b sl with
  | .no => fetchRow s p
  | .stall => modPan (fetchRow s p) p Pan.stalled
  | .trap c w a => trapPan (fetchRow s p) p c w (panOf s p).pc a false
  | .go => act (modPan (fetchRow s p) p (Pan.opened b sl))

/-- After the S slot the bundle is done: PC moves, and a pause or step holds the next one (R75, R77). -/
def Pan.close (x : Pan) (pc : Dword) (pause : Bool) : Pan :=
  { x with
    pc := pc, mid := false, midB := { s := 0, m := 0, e := 0, c := 0 }, midSlots := 0, stepping := false,
    state := if x.pauseReq || pause || x.state == .paused then .paused else x.state }

/-- A slot command of the S slot: `act` gives its effect, `pc` the address of the next bundle from the pan as it stood
before, `pause` whether the pan then pauses. -/
def issueS (s : State) (p : PanIx) (b : Bundle) (act : State → State) (pc : Pan → Dword) (pause : Bool) : State :=
  issueSlot s p b 0 fun s1 => modPan (act s1) p fun x => x.close (pc (panOf s1 p)) pause

/-- Address of the next bundle in order. -/
def Pan.nextPc (x : Pan) : Dword := x.pc + 16

/-- Target of a branch: its signed offset counts bundles from the branch bundle (R59). -/
def Pan.branchPc (x : Pan) (off : Dword) : Dword := x.pc + off * 16

/-- An S command that writes one G register with a value of the pan as it stands. -/
def issueG (s : State) (p : PanIx) (b : Bundle) (rd : Reg5) (val : Pan → Dword) : State :=
  issueS s p b (fun s1 => modPan s1 p fun x => x.writeG rd.toNat (val x)) Pan.nextPc false

/-- An S command that only decides the next bundle. -/
def issueBranch (s : State) (p : PanIx) (b : Bundle) (pc : Pan → Dword) : State := issueS s p b id pc false

end Sys2Proof.Machine
end

