-- ==== Sys2Proof/Machine/PanC.lean ====
section
/-! DEFINITION. C-slot commands (R69): vector loads and stores, copies, fences, signals, waits and gates of a pan, and
the pan copy channel (R164 to R167, R181, R182). -/

namespace Sys2Proof.Machine

/-- A C command closes no bundle: the S slot does. -/
def issueC (s : State) (p : PanIx) (b : Bundle) (act : State → State) : State := issueSlot s p b 3 act

/-- CNOP (R69). -/
def execCnop (p : PanIx) (b : Bundle) (z : BitVec 26) (s : State) : Answer :=
  .next (issueC s p { b with c := encJ 0x00 z } id)

/-- VLD: load V[VR] from G[GA] + IMM14 × 64 (R69); the 1,024 bytes are read as the bundle issues (R70) and reach V[VR] by
LOAD_RETURN. -/
def execVld (p : PanIx) (b : Bundle) (vr ga : Reg5) (size : BitVec 2) (imm : BitVec 14) (s : State) : Answer :=
  .next (issueC s p { b with c := encVmem 0x01 vr ga size imm } fun s1 =>
    let a := vldAddr (panOf s1 p) ga imm
    let ws := panRead s1 p a 128
    modPan (noteWords s1 0x23 ws (panOf s1 p).tenant) p fun x =>
      { x with loads := x.loads ++
        [{ vector := true, reg := vr, addr := a, pc := x.pc, data := wordsOf ws, ue := (firstBad ws).isSome }] })

/-- VST: store the low 1,024 >> SIZE bytes of V[VR] (R69). Its bank writes them by STORE_WRITTEN. -/
def execVst (p : PanIx) (b : Bundle) (vr ga : Reg5) (size : BitVec 2) (imm : BitVec 14) (s : State) : Answer :=
  .next (issueC s p { b with c := encVmem 0x02 vr ga size imm } fun s1 => modPan s1 p fun x =>
    { x with stores := x.stores ++
      [{ quad := addrQuad (vldAddr x ga imm), word := sramKey p x (vldAddr x ga imm),
         data := wordsOfBytes ((laneBytes (x.readV vr.toNat)).take (1024 / 2 ^ size.toNat)) }] })

/-- A tally of a pan by its field (R69). -/
def Pan.tally (x : Pan) (f : BitVec 12) : TlyIx := ⟨(x.tlyBase.toNat + f.toNat) % 4096, by omega⟩

/-- A gate of a pan by its field (R69). -/
def Pan.gateIx (x : Pan) (f : Byte) : GateIx := ⟨(x.gateBase.toNat + f.toNat) % 256, by omega⟩

/-- CPY: hand a copy to the pan's channel (R69, R165). A halted channel discards it (R182). -/
def execCpy (p : PanIx) (b : Bundle) (gs gd : Reg5) (sig : BitVec 1) (z : BitVec 3) (tly : BitVec 12) (s : State) : Answer :=
  .next (issueC s p { b with c := encCpy gs gd sig z tly } fun s1 => modPan s1 p fun x =>
    let c : PanCopy := { gs := (x.readG gs.toNat).truncate 29, gd := (x.readG gd.toNat).truncate 29,
                         sig := if sig = 1 then some (x.tally tly) else none }
    { x with chan :=
        if x.chan.state == .halted then { x.chan with lost := x.chan.lost ++ [c] }
        else { x.chan with queue := x.chan.queue ++ [c] } })

/-- FENCE: hold issue until FENCE_COMPLETE; SCOPE 0 is executed as 0xF (R69, R308). -/
def execFence (p : PanIx) (b : Bundle) (z : BitVec 22) (scope : BitVec 4) (s : State) : Answer :=
  .next (issueC s p { b with c := encFence z scope } fun s1 => modPan s1 p fun x =>
    { x with fence := some (if scope = 0 then 0xF else scope) })

/-- Region of a descriptor at a partition-relative address. -/
def regionAt (s : State) (p : PanIx) (a : BitVec 29) : Nat :=
  fieldAt (readBytes s (8 * sramKey p (panOf s p) (a.zeroExtend 64) + a.toNat % 8) 64).1 4 2

/-- Regions that a copy's destination names: the tensor's and its companion's. One not yet started is read where it lies. -/
def destRegions (s : State) (p : PanIx) (c : PanCopy) : List Nat := [regionAt s p c.gd, regionAt s p (c.gd + 64)]

/-- Those of the copy in progress, by the channel's private copy (R148). -/
def privRegions (c : PanChan) : List Nat :=
  fieldAt c.privDst 4 2 :: (if 128 ≤ c.privDst.length then [fieldAt c.privDst 68 2] else [])

/-- An MXB destination has a companion. -/
def destOf (s : State) (p : PanIx) (c : PanCopy) : List Nat :=
  if (decodeDesc (readBytes s (8 * sramKey p (panOf s p) (c.gd.zeroExtend 64) + c.gd.toNat % 8) 64).1).isMxb then destRegions s p c
  else [regionAt s p c.gd]

/-- Every write that a fence of this scope waits for is done (R308). Scope bit 0 alone covers quadrant SRAM; bit 2, SRAM
that pond streams read, stands for SRAM of every partition (DESIGN CHOICE, log entry 215). The copies that a halted channel
holds and discards are never complete (R167). -/
def fenceDone (s : State) (p : PanIx) (scope : BitVec 4) : Bool :=
  let x := panOf s p
  let copies := x.chan.queue ++ x.chan.cur.toList ++ x.chan.lost
  let quadDone := (x.stores.all fun st => !st.quad) && (x.chan.cur.isNone || (privRegions x.chan).all fun r => r != 1) &&
    (x.chan.queue ++ x.chan.lost).all fun c => (destOf s p c).all fun r => r != 1
  let allDone := x.stores.isEmpty && copies.isEmpty
  (!scope.getLsbD 0 || quadDone) && (!(scope.getLsbD 1 || scope.getLsbD 2 || scope.getLsbD 3) || allDone)

/-- FENCE_COMPLETE: the writes are visible, and the pan issues on (R308). -/
def execFenceComplete (p : PanIx) (s : State) : Answer :=
  match (panOf s p).fence with
  | none => .next s
  | some scope => .next (if fenceDone s p scope then modPan s p fun x => { x with fence := none } else s)

/-- A signal on a harvest stream's tally marks its slots with the producing tide (R357, R359). -/
def noteHarvest (s : State) (t : TenIx) (g : TlyIx) (n : Nat) : State :=
  modTen s t fun x =>
    { x with streams := x.streams.map fun st =>
        if (x.bind.tlyBase + st.req.tally.toNat) % 4096 = g.val
        then { st with tides := st.tides ++ List.replicate n (x.tide - x.idle) } else st }

/-- SIG: signal the tally INC times (R69). The signal reaches the store by TALLY_SIGNAL (R307). -/
def execSig (p : PanIx) (b : Bundle) (z : BitVec 10) (inc : BitVec 4) (tly : BitVec 12) (s : State) : Answer :=
  .next (issueC s p { b with c := encSig z inc tly } fun s1 =>
    let x := panOf s1 p
    match x.tenant with
    | none => s1
    | some t =>
      sendSignal (noteHarvest s1 t (x.tally tly) (inc.toNat + 1))
        { tly := x.tally tly, n := inc.toNat + 1, src := .pan (x.lpan.getD 0) t })

/-- A tenant's own work named a tally of another owner: logged, and the tenant halts at its next boundary tick (R306). -/
def ownerFault (s : State) (t : TenIx) (code : Byte) : State := haltNext (logEvent s code [] (some t)) [t] code

/-- WAIT and WAITN (R300, R304): the wait stands in the pan's slot until the store completes it; one on a tally of another
owner is dropped and never completes (R306). -/
def startWait (s : State) (p : PanIx) (rd gt : Reg5) (tly : BitVec 12) (consuming : Bool) : State :=
  let x := panOf s p
  let s1 := modPan s p fun x => { x with wait := .tally rd }
  match x.tenant with
  | none => s1
  | some t =>
    if (tallyOf s (x.tally tly)).owner.toNat != t.val then ownerFault s1 t 0x80
    else
      { s1 with sync := { s1.sync with waiters := s1.sync.waiters ++
        [{ pan := p, tenant := t, lpan := x.lpan.getD 0, tly := x.tally tly, consuming := consuming, issue := s.tick,
           expiry := if gt = 0 then none else some (s.tick.toNat + (x.readG gt.toNat).toNat) }] } }

/-- WAIT: consuming (R69). -/
def execWait (p : PanIx) (b : Bundle) (rd gt : Reg5) (z : BitVec 4) (tly : BitVec 12) (s : State) : Answer :=
  .next (issueC s p { b with c := encWait 0x06 rd gt z tly } fun s1 => startWait s1 p rd gt tly true)

/-- WAITN: non-consuming (R69). -/
def execWaitn (p : PanIx) (b : Bundle) (rd gt : Reg5) (z : BitVec 4) (tly : BitVec 12) (s : State) : Answer :=
  .next (issueC s p { b with c := encWait 0x07 rd gt z tly } fun s1 => startWait s1 p rd gt tly false)

/-- A gate includes a pan only when its owner is the pan's tenant and its MASK the pan's logical pan (R313). -/
def gateIncludes (g : GateSt) (t : TenIx) (l : Fin 32) : Bool := g.owner.toNat == t.val && g.mask.getLsbD l.val

/-- GATE: arrive and wait for release (R69, R311), or be dropped (R313). -/
def startGate (s : State) (p : PanIx) (f : Byte) : State :=
  let x := panOf s p
  let s1 := modPan s p fun x => { x with wait := .gate }
  match x.tenant with
  | none => s1
  | some t =>
    if gateIncludes (gateOf s (x.gateIx f)) t (x.lpan.getD 0) then
      { s1 with sync := { s1.sync with panArrive := s1.sync.panArrive ++
        [{ pan := p, tenant := t, lpan := x.lpan.getD 0, gate := x.gateIx f, gen := 0, issue := s.tick }] } }
    else ownerFault s1 t 0x84

def execGate (p : PanIx) (b : Bundle) (z : BitVec 18) (g : Byte) (s : State) : Answer :=
  .next (issueC s p { b with c := encGate z g } fun s1 => startGate s1 p g)

/-! ### The pan copy channel -/

/-- The copy's descriptors as read at their addresses; a companion only behind an MXB descriptor, and only where it lies
inside the partition (R148). With the words read. -/
def readJob (s : State) (p : PanIx) (c : PanCopy) : CopyJob × List (Nat × Decoded) × List (Nat × Decoded) :=
  let x := panOf s p
  let at64 (a : Dword) := readBytes s (8 * sramKey p x a + a.toNat % 8) 64
  let one (a : BitVec 29) : Desc × Option Desc × List (Nat × Decoded) :=
    let a := a.zeroExtend 64
    let r := at64 a
    let d := decodeDesc r.1
    if d.isMxb && !outside x (a + 64) 64 then
      let r2 := at64 (a + 64)
      (d, some (decodeDesc r2.1), r.2 ++ r2.2)
    else (d, none, r.2)
  let a := one c.gs
  let b := one c.gd
  ({ src := a.1, dst := b.1, srcComp := a.2.1, dstComp := b.2.1, list := none }, a.2.2, b.2.2)

/-- A channel takes no new work: halted, stopped or disabled, under self-test, or serving its requests (R168, R183, R187). -/
def chanBusy (s : State) (n : SchIx) : Bool :=
  let c := schOf s n
  c.state == .halted || c.state == .stopped || !c.enable || c.cur.isSome || !c.queue.isEmpty || testing s (.sch n)

/-- The system channel that a placement move takes: the first of SCH12 to SCH15 that takes work (R161, R401). -/
def moveChan (s : State) : Option SchIx := ([12, 13, 14, 15] : List SchIx).find? fun n => !chanBusy s n

/-- Bytes that a system channel has written (CPY_SBYTES, R187). -/
def countSch (s : State) (n : SchIx) (bytes : Nat) : State := modSch s n fun c => { c with bytes := c.bytes + BitVec.ofNat 64 bytes }

/-- Bytes of the mirror stream that a message carries. -/
def streamBytes : Out → Nat
  | .mirrorWrite _ _ _ bs => bs.length
  | .mirrorRecord _ bs => bs.length
  | _ => 0

/-- The pair's port and queue pair carry messages (R372, R379). -/
def streamReady (s : State) : Bool :=
  let x := portOf s s.mir.port
  x.link && !x.txOff && (qpOf s s.mir.port s.mir.qp).state == .ready

/-- SCH10 sends the mirror stream in order; while it takes no work, or the pair's port or queue pair carries none, the stream
waits (R161, R379, R381). -/
def sendStream (s : State) (os : List Out) : State :=
  let q := s.mir.outq ++ os
  let n := (q.map streamBytes).sum
  if chanBusy s 10 || !streamReady s then { s with mir := { s.mir with outq := q } }
  else
    countSch (emit (modPort { s with mir := { s.mir with outq := [] } } s.mir.port fun x =>
      { x with txBytes := x.txBytes + BitVec.ofNat 64 n }) q) 10 n

/-- Bytes written to mirrored regions go to the partner as they leave a completed copy, while this card is primary (R381). -/
def sendMirrored (s : State) (t : TenIx) (ws : List (Half × Nat × List Byte)) : State :=
  if s.mir.role == .primary && s.mir.tenants.getLsbD t.val then
    modTen (sendStream s (ws.map fun w => Out.mirrorWrite t w.1 w.2.1 w.2.2)) t fun x =>
      { x with mirrorBytes := x.mirrorBytes + BitVec.ofNat 32 (ws.map fun w => w.2.2.length).sum }
  else s

/-- COPY_START: the channel takes its next copy (R164), keeps its descriptors (R148), validates them (R149) and moves its
elements (R153). It halts on an uncorrectable word (R181); a refused copy never starts (R150). While an access of the copy must
wait for a pond command, a refresh or room in a write queue, the copy has not started (R213, R254; log entry 156). DESIGN CHOICE
(log entry 191): CPY_BYTES grows by whole bytes of each copy, an odd 4-bit element's half byte not counted. -/
def execCopyStart (p : PanIx) (s : State) : Answer :=
  let x := panOf s p
  match x.tenant, x.chan.cur, x.chan.queue with
  | some t, none, c :: rest =>
    if x.chan.state == .halted then .next s
    else
      let l := x.lpan.getD 0
      let (j, ws, wd) := readJob s p c
      let raw (a : BitVec 29) (more : Bool) : List Byte :=
        (readBytes s (8 * sramKey p x (a.zeroExtend 64) + a.toNat % 8) (if more then 128 else 64)).1
      let s1 := noteWords (modPan s p fun x =>
        { x with chan :=
            { x.chan with
              privSrc := raw c.gs j.srcComp.isSome, privDst := raw c.gd j.dstComp.isSome, queue := rest, cur := some c,
              state := .active, startTick := s.tick, ovlp := false, tswap := false, mirrored := [] } }) 0x40 (ws ++ wd) (some t)
      if (firstBad (ws ++ wd)).isSome then
        let quad := if (firstBad ws).isSome then c.gs.getLsbD 28 else c.gd.getLsbD 28
        .next (haltChan (usedFree s1 1) p c false (if quad then 1 else 0) ((freshFree s1).toNat % 2 ^ 40))
      else
        match refuse s1 false (some t) l j { src := false, dst := false, list := false } with
        | some r =>
          let addr := (if r.role = 0 then c.gs else c.gd).toNat % 2 ^ 28 + (if r.comp then 64 else 0)
          let s2 := markRefused (modPan s1 p fun x =>
            { x with chan := { x.chan with cur := none, state := .idle, err := r.code, refused := some r.code } }) t r false
            l.val addr
          .next (haltRefused s2 t l r.code)
        | none =>
          let m := (runCopy false l j (Mover.start s1 (some t) (.pan p))).1
          if m.blocked then .next (m.wait s)
          else
          let swap := squareTranspose j.src j.dst
          let s2 := modPan m.s p fun x =>
            { x with chan :=
                { x.chan with ovlp := !swap && j.src != j.dst && planesOverlap s1 { sys := false, tenant := some t, lpan := l, dst := false } j,
                              tswap := swap, bytesNow := x.chan.bytesNow + BitVec.ofNat 64 (m.bits / 8),
                              mirrored := m.wrote } }
          match m.halt with
          | some h =>
            let s3 := modPan s2 p fun x => { x with chan := { x.chan with mirrored := [] } }
            .next (haltChan (sendMirrored s3 t m.wrote) p c h.rmw h.region h.off)
          | none => .next s2
  | _, _, _ => .next s

/-- COPY_COMPLETE: the copy in progress is visible to every consumer (R166), and its completion tally is signalled (R164).
The state reads ACTIVE only while a copy is in progress, whatever is queued (DESIGN CHOICE, log entry 216). -/
def execCopyComplete (p : PanIx) (s : State) : Answer :=
  let x := panOf s p
  match x.tenant, x.chan.cur with
  | some t, some c =>
    if x.chan.state == .halted then .next s
    else
      let s1 := modPan s p fun x =>
        { x with chan :=
            { x.chan.addBusy s.tick with
              cur := none, state := .idle, ovlp := false, tswap := false,
              mirrored := [], privSrc := [], privDst := [] } }
      let s2 := sendMirrored s1 t x.chan.mirrored
      match c.sig with
      | none => .next s2
      | some g =>
        .next (sendSignal s2 { tly := g, n := 1, src := .panCopy (x.lpan.getD 0) t })
  | _, _ => .next s

end Sys2Proof.Machine
end

