-- ==== Sys2Proof/Machine/SysChan.lean ====
section
/-! DEFINITION. System copy channels (R161, R162, R168, R181, R183, R187): requests, their start and completion. -/

namespace Sys2Proof.Machine

/-- Requests outstanding on a channel: those queued and the one in progress (R161). -/
def SysChan.pending (c : SysChan) : Nat := c.queue.length + (if c.cur.isSome then 1 else 0)

/-- The instance that holds a channel's requests (R337). -/
def reqQueue (n : SchIx) : Nat := 20 + n.val

/-- The 512-bit entry of a request (DESIGN CHOICE, log entry 175). -/
def reqWords (r : SysReq) : List Dword :=
  [fieldTo (tenByte r.tenant).toNat 40 ||| fieldTo r.lpan.val 32 ||| fieldTo r.srcRegion.toNat 16 ||| fieldTo r.dstRegion.toNat 0,
   BitVec.ofNat 64 r.srcOff, BitVec.ofNat 64 r.dstOff, (match r.list with | some l => flagTo true 16 ||| fieldTo l.1.toNat 0 | none => 0),
   (match r.list with | some l => BitVec.ofNat 64 l.2 | none => 0), 0, 0, 0]

/-- SYS_REQUEST: a request joins the channel's queue, which notifies the channel (R325); at 16 outstanding or with the queue full
the producer stalls (R161, R337). -/
def execSysRequest (n : SchIx) (r : SysReq) (s : State) : Answer :=
  .next (
    if 16 ≤ (schOf s n).pending ∨ (queueOf s (reqQueue n)).full 16 = true then s
    else
      queueSend (modSch s n fun c => { c with queue := c.queue ++ [r] }) (reqQueue n) [reqWords r] (if r.parityBad then some 0 else none))

/-- What a channel reads of a request before any element moves: its job and list, the units read, or why it cannot. -/
structure SysRead where
  job : CopyJob
  units : List Nat
  used : Nat
  /-- Host lines that the reads take (R364). -/
  lines : List Nat
  /-- A region does not exist or the bytes lie beyond it: the refusal. -/
  gone : Missing
  host : Bool
  /-- First unit that is uncorrectable, with its region. -/
  bad : Option Half
deriving DecidableEq, Repr

def emptyDesc : Desc := decodeDesc []

/-- Read `n` bytes of a region for a request, host bytes from free value `base` on; none where the region or the bytes do not
exist. -/
def reqBytes (s : State) (r : SysReq) (base : Nat) (region : Half) (off n : Nat) : Option RegionRead :=
  match regionView s r.tenant r.lpan region with
  | some v => if off + n ≤ v.limit then some (readRegionFrom s base v.view off n) else none
  | none => none

/-- A descriptor and, behind an MXB one, its companion (R141, R148). -/
def reqDesc (s : State) (r : SysReq) (base : Nat) (region : Half) (off : Nat) : Option (Desc × Option Desc × RegionRead) :=
  match reqBytes s r base region off 64 with
  | none => none
  | some a =>
    let d := decodeDesc a.bytes
    if d.isMxb then
      match reqBytes s r (base + 64) region (off + 64) 64 with
      | some b => some (d, some (decodeDesc b.bytes),
          { bytes := a.bytes ++ b.bytes, units := a.units ++ b.units, lines := a.lines ++ b.lines, host := a.host || b.host,
            bad := a.bad || b.bad })
      | none => some (d, none, a)
    else some (d, none, a)

/-- The list of a request: header, then entries where the header holds (R155); and whether entries lie past the region's limit,
the header alone being read then. -/
def reqList (s : State) (r : SysReq) : Option (CopyList × RegionRead × Bool) :=
  match r.list with
  | none => none
  | some (region, off) =>
    match reqBytes s r 256 region off 32 with
    | none => none
    | some h =>
      let l := decodeListHead h.bytes
      if l.headBad then some (l, h, false)
      else
        match reqBytes s r 288 region (off + 32) (4 * l.ecoord * l.count) with
        | none => some (l, h, true)
        | some e => some (l.withEntries e.bytes,
            { bytes := [], units := h.units ++ e.units, lines := h.lines ++ e.lines, host := h.host || e.host, bad := h.bad || e.bad },
            false)

def noRead : RegionRead := { bytes := [], units := [], lines := [], host := false, bad := false }

def readRequest (s : State) (r : SysReq) : SysRead :=
  let a := reqDesc s r 0 r.srcRegion r.srcOff
  let b := reqDesc s r 128 r.dstRegion r.dstOff
  let l := reqList s r
  let ar := (a.map fun x => x.2.2).getD noRead
  let br := (b.map fun x => x.2.2).getD noRead
  let lr := (l.map (·.2.1)).getD noRead
  let past := (l.map (·.2.2)).getD r.list.isSome
  { job :=
      { src := (a.map (·.1)).getD emptyDesc, dst := (b.map (·.1)).getD emptyDesc, srcComp := a.bind fun x => x.2.1,
        dstComp := b.bind fun x => x.2.1, list := l.map (·.1) },
    units := ar.units ++ br.units ++ lr.units, lines := distinct (ar.lines ++ br.lines ++ lr.lines),
    used := 288 + match l with | some x => if x.2.2 then 0 else 4 * x.1.ecoord * x.1.count | none => 0,
    gone := { src := a.isNone, dst := b.isNone, list := past }, host := ar.host || br.host || lr.host,
    bad := if ar.bad then some r.srcRegion else if br.bad then some r.dstRegion
      else if lr.bad then r.list.map (·.1) else none }

/-- Region-relative address that DESC_ERR names (R160). -/
def refusedAddr (r : SysReq) (x : Refused) : Nat :=
  (match x.role.toNat with | 0 => r.srcOff | 2 => (match r.list with | some l => l.2 | none => 0) | _ => r.dstOff) +
    (if x.comp then 64 else 0)

/-- What a request wrote to mirrored regions goes to the partner, a MAINT-class one's apart (R244, R381). -/
def sendWritten (s : State) (n : SchIx) (r : SysReq) (ws : List (Half × Nat × List Byte)) : State :=
  match r.tenant with
  | some t => if n.val < 12 then sendMirrored s t ws else s
  | none => s

/-- The request has ended with a code and waits for its completion action. -/
def endRequest (s : State) (n : SchIx) (code : Byte) : State :=
  modSch s n fun c => { c with done := some code, err := if code = 0 then c.err else code }

/-- SYS_REQUEST_START: the channel takes its next request in arrival order, validates it and moves its elements (R149,
R153, R168); it halts on an uncorrectable word (R181), ends a request whose host read fails (R364), and returns a refused
one's code (R150). While an access of the request must wait, it has not started (R213, R254; log entry 156). DESIGN CHOICE (log
entry 189): R148 has a private copy made when a request names the descriptor; a queued request's descriptors are taken in here.
DESIGN CHOICE (log entry 214): all of them are read before any is validated, so that an uncorrectable word in one halts the
channel whatever another's fields are. -/
def execSysRequestStart (n : SchIx) (s : State) : Answer :=
  let c := schOf s n
  match c.cur, c.queue with
  | none, r :: rest =>
    if c.state == .halted || c.state == .stopped || !c.enable || testing s (.sch n) then .next s
    else
      let s1 := queueTake
        (modSch s n fun c => { c with queue := rest, cur := some r, done := none, state := .active, mirrored := [] })
        (reqQueue n) 1
      if !(queuePoison s (reqQueue n) 1).isEmpty then .next (endRequest (notePoison s1 (reqQueue n) (queueRead s (reqQueue n)) true) n 0x90)
      else
        let rd := readRequest s1 r
        if rd.units.any (unitBlocked s1 (.sys n)) then .next (askUnits s (.sys n) rd.units)
        else
        let s2 := noteUnits s1 0x40 rd.units r.tenant
        let s2 := if rd.host then usedFree (readLines s2 rd.lines) (rd.used + 1) else s2
        if rd.host && !hostReads s2 then .next (endRequest (logEvent s2 0xA9 [] r.tenant) n 0xA9)
        else
          match rd.bad with
          | some region => .next (haltSch (usedFree s2 1) n r region ((freshFree s2).toNat % 2 ^ 40))
          | none =>
            match refuse s2 true r.tenant r.lpan rd.job rd.gone with
            | some x =>
              let s3 := match r.tenant with
                | some t => markRefused s2 t x true n.val (refusedAddr r x)
                | none => s2
              .next (endRequest (logEvent s3 x.code [schByte n] r.tenant) n x.code)
            | none =>
              let q := runCopy true r.lpan rd.job (Mover.start s2 r.tenant (.sys n))
              if q.1.blocked then .next (q.1.wait s)
              else
              let s3 := countList q.1.s r.tenant q.2.1 q.2.2
              let s4 := modSch s3 n fun c =>
                { c with bytes := c.bytes + BitVec.ofNat 64 (q.1.bits / 8), mirrored := q.1.wrote }
              match q.1.halt with
              | some h => .next (haltSch (sendWritten s4 n r q.1.wrote) n r h.region h.off)
              | none =>
                if q.1.hostFail then .next (endRequest (logEvent s4 0xA9 [] r.tenant) n 0xA9) else .next (endRequest s4 n 0)
  | _, _ => .next s

/-- Entries of the transmit queue that a packet takes, its headers among them (log entry 175). -/
def frameEntries (payload : Nat) : Nat := (payload + 63) / 64 + 2

/-- A port that its partner has stopped has no room for these packets: their producer stalls (R326, R337, R372). -/
def txWait (s : State) (n : PortIx) (ws : List Nat) : Bool :=
  (portOf s n).txOff && decide ((queueOf s (38 + n.val)).room 2048 < ws.sum)

/-- Packets go out through the port's transmit queue, and stay in it while the partner has stopped the port (R337, R372). -/
def transmit (s : State) (n : PortIx) (o : Out) (ws : List Nat) : State :=
  if (portOf s n).txOff then
    modPort (ws.foldl (fun r k => usedFree (queueWrite r (38 + n.val) (freeEntries r 512 k) none) (8 * k)) s) n fun x =>
      { x with txq := x.txq ++ [(o, ws.sum)] }
  else emit (passFree s (38 + n.val) 512 ws) [o]

/-- An answer without payload. -/
def answerFrame (s : State) (n : PortIx) (o : Out) : State := transmit s n o [frameEntries 0]

/-- Perform a request's completion action with its code (R168). A fenced card writes no flag (R388). A network request that
failed is answered with a remote operational error, which ends its queue pair: no later message of the pair is accepted (R377;
log entry 200). -/
def completeAction (s : State) (n : SchIx) (a : Completion) (code : Byte) : State :=
  match a with
  | .none => s
  | .tally t =>
    if code = 0 then sendSignal s { tly := t, n := 1, src := .sys n } else s
  | .mailbox slot => if slotPending s slot then endBackground s slot code [] else s
  | .flag ring =>
    let r := ringOf s ring
    if code = 0 ∧ s.host.linkUp = true ∧ s.mir.role ≠ .fenced then
      sendMsix (emit s [.hostWrite r.flag (leBytes 8 r.sent.toNat)]) ⟨(2 + ring.val) % 32, by omega⟩
    else s
  | .netAck port qp =>
    if code = 0 then answerFrame s port (.ack port qp)
    else answerFrame (modQp s port qp fun x => { x with state := .error }) port (.nak port qp 0x63)

/-- The channel takes up its next state once it holds no request. -/
def SysChan.rested (c : SysChan) : SysChan :=
  { c with cur := none, done := none, mirrored := [], state := if c.enable then .idle else .stopped }

/-- A channel that takes work again: what waited for SCH10 goes out. -/
def resumeSch (s : State) (n : SchIx) : State := if n.val = 10 then sendStream s [] else s

/-- SYS_REQUEST_COMPLETE: the completion action, or the refusal code (R168). -/
def execSysRequestComplete (n : SchIx) (s : State) : Answer :=
  match (schOf s n).cur, (schOf s n).done with
  | some r, some code =>
    let s1 := modSch s n SysChan.rested
    .next (resumeSch (completeAction (sendWritten s1 n r (schOf s n).mirrored) n r.action code) n)
  | _, _ => .next s

/-- The halted request returns to its requester with ERR_COPY_UE, and the channel goes on (R183). -/
def restartSch (s : State) (n : SchIx) : State :=
  match (schOf s n).state, (schOf s n).cur with
  | .halted, some r => resumeSch (completeAction (modSch s n SysChan.rested) n r.action 0x40) n
  | _, _ => s

/-- CPY_RESTART: Rilef writes CPY_SCTRL.RESTART, whatever the lock of the debug range, which holds for the host (R12, R183). -/
def execCpyRestart (n : SchIx) (s : State) : Answer := .next (restartSch s n)

/-- CPY_SCTRL.ENABLE = 0 stops the channel once its current request ends (R187). -/
def enableSch (s : State) (n : SchIx) (enable : Bool) : State :=
  resumeSch (modSch s n fun c =>
    { c with
      enable := enable,
      state :=
        match c.state with
        | .idle => if enable then .idle else .stopped
        | .stopped => if enable then .idle else .stopped
        | x => x }) n

/-- CPY_ENABLE: a write of CPY_SCTRL.ENABLE in the debug range (R12, R187). -/
def execCpyEnable (n : SchIx) (enable : Bool) (s : State) : Answer := .next (debugWrite s fun s => enableSch s n enable)

end Sys2Proof.Machine
end

