-- ==== Sys2Proof/Machine/Harvest.lean ====
section
/-! DEFINITION. Harvest streams, the replay store and the harvest rings (R357 to R363). -/

namespace Sys2Proof.Machine

def Stream.zero : Stream :=
  { req := { recsz := 64, perTide := 0, tally := 0, area := 0, slots := 0, len := 0 }, ring := none, nextSlot := 0,
    tides := [], made := 0, held := [], started := false }

def streamOf (s : State) (t : TenIx) (i : Nat) : Stream := (tenOf s t).streams.getD i Stream.zero

def modStream (s : State) (t : TenIx) (i : Nat) (f : Stream → Stream) : State :=
  modTen s t fun x => { x with streams := mapNth f i x.streams }

/-- Bytes of the replay store in use (HRV_STORE.USED). -/
def replayUsed (s : State) : Nat :=
  ((List.finRange 16).map fun t => ((tenOf s t).streams.map fun x => x.held.length * x.req.recsz).sum).sum

/-- The replay store holds 64 MiB (R357). -/
def replaySize : Nat := 2 ^ 26

/-- The replay store as the harvest service reads and writes it (R357). -/
def replayView (s : State) : RegView := { view := .placed s.plc.replay, limit := replaySize, mirrored := false, map := [] }

/-- The lowest `n` free pieces of the replay store, 64 bytes each (which ones: DESIGN CHOICE, log entry 153). -/
def freePieces (s : State) (n : Nat) : List Nat :=
  let used := (List.finRange 16).flatMap fun t => (tenOf s t).streams.flatMap fun x => x.held.flatten
  ((List.range (used.length + n)).filter fun p => !used.contains p).take n

/-- A record written to its pieces of the replay store. -/
def writeRecord (m : Mover) (v : RegView) (ps : List Nat) (img : List Byte) : Mover :=
  (ps.zip (groupsOf 64 img.length img)).foldl (fun m p => writeVia m Config.replayRegion v (64 * p.1) p.2) m

/-- A record read from its pieces, up to the first word that is withheld. -/
def readRecord (m : Mover) (v : RegView) (ps : List Nat) : Mover × List Byte :=
  ps.foldl (fun r p => let q := readVia r.1 Config.replayRegion v (64 * p) 64; (q.1, r.2 ++ q.2)) (m, [])

/-- HOST_STATUS.STORE_HI: more than 75 % full; MSI-X vector 18 as it becomes 1 (R344, R365). -/
def refreshStoreHi (s : State) : State :=
  let hi := decide (3 * replaySize < 4 * replayUsed s)
  let s1 := { s with host := { s.host with storeHi := hi } }
  if hi && !s.host.storeHi then sendMsix s1 18 else s1

/-- OLDEST SEQ held (HRV_OLDEST). -/
def Stream.oldest (x : Stream) : Dword := x.made - BitVec.ofNat 64 x.held.length + 1

/-- A record as it lies in the replay store (R359). -/
def recordImage (x : Stream) (ring stream : Nat) (seq tide : Dword) (payload : List Byte) : List Byte :=
  leBytes 8 seq.toNat ++ leBytes 8 tide.toNat ++ leBytes 4 payload.length ++
    [BitVec.ofNat 8 ring, BitVec.ofNat 8 stream, 0, 0] ++ leBytes 4 (crc32 payload).toNat ++ [0, 0, 0, 0] ++
    padTo 0 (x.req.recsz - 32) payload

/-- The request of the harvest service for the area of a stream's tenant. -/
def harvestReq (t : TenIx) (off : Nat) : SysReq :=
  { tenant := some t, lpan := 0, srcRegion := 1, srcOff := off, dstRegion := 0, dstOff := 0, list := none, action := .none,
    parityBad := false }

/-- HARVEST_TAKE: Rilef consumes the stream's tally, takes the next slot of the area into the replay store by SCH4, and
assigns the record its SEQ and header (R357). The harvest area lies in the quadrant partition of logical pan 0. An
uncorrectable word halts SCH4 (R181), and the slot makes no record. It waits while an access must. -/
def execHarvestTake (t : TenIx) (stream : Byte) (s : State) : Answer :=
  let x := streamOf s t stream.toNat
  let g : TlyIx := ⟨((tenOf s t).bind.tlyBase + x.req.tally.toNat) % 4096, by omega⟩
  match regionView s (some t) 0 1 with
  | none => .next s
  | some v =>
    if (tenOf s t).streams.length ≤ stream.toNat ∨ (tallyOf s g).value = 0 ∨ chanBusy s 4 ∨
        replaySize < replayUsed s + x.req.recsz then .next s
    else
      let base := x.req.area + x.nextSlot * x.req.recsz
      let rd := readVia (Mover.start s (some t) (.sys 4)) 1 v base x.req.len
      let tide := x.tides.headD ((tenOf s t).tide - (tenOf s t).idle)
      let img := recordImage x (match x.ring with | some r => r.val | none => 0) stream.toNat (x.made + 1) tide rd.2
      let ps := freePieces s (x.req.recsz / 64)
      let m := (writeRecord rd.1 (replayView s) ps img).finish
      let s1 := setTally m.s g.val { tallyOf s g with value := (tallyOf s g).value - 1, hand := false }
      let next (y : Stream) : Stream :=
        { y with nextSlot := (y.nextSlot + 1) % (max 1 y.req.slots), tides := y.tides.drop 1 }
      if m.blocked then .next (m.wait s)
      else
        match m.halt with
        | some h => .next (haltSch (modStream s1 t stream.toNat next) 4 (harvestReq t base) h.region h.off)
        | none =>
          .next (refreshStoreHi (modStream (countSch s1 4 img.length) t stream.toNat fun y =>
            { next y with made := y.made + 1, held := y.held ++ [ps] }))

/-- Rings run while the device is ATTACHED, and are HELD otherwise (R363) and on a fenced primary (R388). -/
def runOrHeld (s : State) : RingState := if s.host.attach == .attached && s.mir.role != .fenced then .run else .held

/-- The ring writes the SEQ of its newest record to its flag, then sends its MSI-X (R360, R365). -/
def writeFlag (s : State) (ring : RingIx) (seq : Dword) : State :=
  let r := ringOf s ring
  sendMsix
    (emit (modRing (countSch s 5 8) ring fun r => { r with sent := seq, next := seq, flushing := none })
      [.hostWrite r.flag (leBytes 8 seq.toNat)])
    ⟨(2 + ring.val) % 32, by omega⟩

/-- SEQ of the newest record that the ring may carry now: at most HRV_HEAD + 2^LOG2ENT (R360). -/
def lastWritable (r : Ring) (x : Stream) : Nat := min x.made.toNat (r.head.toNat + 2 ^ r.log2.toNat)

/-- The request of the harvest service for a held record of a ring. -/
def replayReq (t : TenIx) (off : Nat) : SysReq :=
  { tenant := some t, lpan := 0, srcRegion := Config.replayRegion, srcOff := off, dstRegion := 0, dstOff := 0, list := none,
    action := .none, parityBad := false }

/-- SCH5 reads the held records of a stream from SEQ `first` on, `n` of them, up to one with an uncorrectable word; answers
those read with their SEQ. -/
def readRecords (s : State) (t : TenIx) (x : Stream) (first n : Nat) : Mover × List (Nat × List Byte) :=
  (List.range n).foldl
    (fun (r : Mover × List (Nat × List Byte)) i =>
      if r.1.stopped then r
      else
        let q := readRecord r.1 (replayView s) (x.held.getD (first + i - x.oldest.toNat) [])
        (q.1, if q.1.stopped then r.2 else r.2 ++ [(first + i, q.2)]))
    (Mover.start s (some t) (.sys 5), [])

/-- Host address of the record of a SEQ (R360). -/
def recordAddr (r : Ring) (q : Nat) : Dword := r.base + BitVec.ofNat 64 (q % 2 ^ r.log2.toNat * r.recsz.toNat)

/-- Records that have been read go to the host ring (R360). -/
def sendRecords (s : State) (r : Ring) (rs : List (Nat × List Byte)) : State :=
  rs.foldl (fun q x => emit (countSch q 5 r.recsz.toNat) [.hostWrite (recordAddr r x.1) x.2]) s

/-- HARVEST_RECORD_WRITE: SCH5, while it takes work, writes up to `n` held records behind the last one sent to the host ring,
then the flag, or first the flush read of R361. An uncorrectable word of a record halts SCH5: the records before it are
written, and their flag is not (R181). It waits while an access must. -/
def execHarvestRecordWrite (ring : RingIx) (n : Nat) (s : State) : Answer :=
  let r := ringOf s ring
  let x := streamOf s r.tenant r.stream.toNat
  let first := max (r.next.toNat + 1) x.oldest.toNat
  let last := min (lastWritable r x) (first + n - 1)
  if chanBusy s 5 || !r.valid || r.state != .run || s.host.attach != .attached || !s.host.linkUp || r.flushing.isSome || n == 0 ||
      decide (last < first) then .next s
  else
    let rd := readRecords s r.tenant x first (last + 1 - first)
    if rd.1.blocked then .next (rd.1.wait s)
    else
      let s1 := sendRecords rd.1.finish.s r rd.2
      match rd.1.halt with
      | some h => .next (haltSch s1 5 (replayReq r.tenant h.off) h.region h.off)
      | none =>
        if r.flushRd then
          .next (emit (modRing s1 ring fun r => { r with flushing := some (BitVec.ofNat 64 last) }) [.hostRead (recordAddr r last)])
        else .next (writeFlag s1 ring (BitVec.ofNat 64 last))

/-- A flush read has failed: the ring enters ERROR (R361). -/
def failFlush (s : State) (ring : RingIx) : State :=
  logEvent (modRing s ring fun r => { r with state := .error, flushing := none }) 0xA6 [BitVec.ofNat 8 ring.val]
    (some (ringOf s ring).tenant)

/-- FLUSH_READ_COMPLETE (R361). -/
def execFlushReadComplete (ring : RingIx) (ok : Bool) (s : State) : Answer :=
  match (ringOf s ring).flushing with
  | none => .next s
  | some q => .next (if ok && s.host.linkUp then writeFlag s ring q else failFlush s ring)

/-- HRV_HEAD_WRITE: consumed records are freed; a value below HEAD or above SENT is dropped and counted (R360). -/
def execHrvHeadWrite (ring : RingIx) (head : Dword) (s : State) : Answer :=
  let r := ringOf s ring
  if head.toNat < r.head.toNat ∨ r.sent.toNat < head.toNat then .next (dropBar0 s)
  else
    let s1 := modRing s ring fun r => { r with head := head }
    .next (
      if r.valid then
        refreshStoreHi (modStream s1 r.tenant r.stream.toNat fun x =>
          { x with held := x.held.drop (head.toNat + 1 - x.oldest.toNat) })
      else s1)

/-- BIND_RING: bind or rebind a ring to a stream (R355, R358). -/
def execBindRing (slot : MbxIx) (s : State) : Answer :=
  runMailbox s slot 0x20 fun a s =>
    let n := fieldAt a 0x10 1
    let tn := fieldAt a 0x11 1
    let st := fieldAt a 0x12 1
    let lg := fieldAt a 0x13 1
    let flags := fieldAt a 0x14 1
    if h : n < 16 ∧ tn < 16 then
      let ring : RingIx := ⟨n, h.1⟩
      let t : TenIx := ⟨tn, h.2⟩
      let r := ringOf s ring
      let x := streamOf s t st
      let keep := bitOf flags 1
      let elsewhere : Bool := match x.ring with | some q => q.val != n | none => false
      let foreign := r.valid && (!keep || r.tenant.val != tn || r.stream.toNat != st)
      if lg < 4 ∨ 16 < lg ∨ 3 < flags ∨ (tenOf s t).state = .empty ∨ (tenOf s t).streams.length ≤ st ∨ elsewhere ∨ foreign then
        respond s slot 0xA2 []
      else
        let s1 := modStream s t st fun x =>
          if r.valid || (keep && x.started) then { x with ring := some ring, started := true }
          else { x with ring := some ring, started := true, held := [], made := 0 }
        let y := streamOf s1 t st
        let head : Dword := if r.valid then r.head else y.made - BitVec.ofNat 64 y.held.length
        let s2 := modRing s1 ring fun _ =>
          { valid := true, flushRd := bitOf flags 0, keep := keep, state := runOrHeld s, tenant := t,
            stream := BitVec.ofNat 8 st, log2 := BitVec.ofNat 5 lg, recsz := BitVec.ofNat 32 y.req.recsz,
            base := BitVec.ofNat 64 (fieldAt a 0x18 8), flag := BitVec.ofNat 64 (fieldAt a 0x20 8), head := head,
            sent := if r.valid then r.sent else head, next := head, flushing := none }
        respond (refreshStoreHi s2) slot 0 (leBytes 8 (y.made + 1).toNat)
    else respond s slot 0xA2 []

/-- Unbind a ring; its held records are discarded (R355). -/
def unbindRing (s : State) (ring : RingIx) : State :=
  let r := ringOf s ring
  modRing (modStream s r.tenant r.stream.toNat fun x => { x with ring := none, held := [] }) ring fun _ => Ring.reset

/-- UNBIND_RING (R355). -/
def execUnbindRing (slot : MbxIx) (s : State) : Answer :=
  runMailbox s slot 0x21 fun a s =>
    let n := fieldAt a 0x10 1
    if h : n < 16 then
      if (ringOf s ⟨n, h⟩).valid then respond (refreshStoreHi (unbindRing s ⟨n, h⟩)) slot 0 [] else respond s slot 0xA2 []
    else respond s slot 0xA2 []

/-- REPLAY_RING: resend the ring's records from FROM (R355, R361, R370). -/
def execReplayRing (slot : MbxIx) (s : State) : Answer :=
  runMailbox s slot 0x22 fun a s =>
    let n := fieldAt a 0x10 1
    let src := fieldAt a 0x18 8
    if h : n < 16 then
      let ring : RingIx := ⟨n, h⟩
      let r := ringOf s ring
      let x := streamOf s r.tenant r.stream.toNat
      if !r.valid || decide (x.made.toNat + 1 < src) then endBackground s slot 0xA2 []
      else if src < x.oldest.toNat then endBackground s slot 0xAA []
      else
        endBackground
          (modRing s ring fun r =>
            { r with
              head := if src ≤ r.head.toNat then BitVec.ofNat 64 (src - 1) else r.head,
              next := if src ≤ r.next.toNat then BitVec.ofNat 64 (src - 1) else r.next,
              state := runOrHeld s, flushing := none })
          slot 0 []
    else endBackground s slot 0xA2 []

end Sys2Proof.Machine
end

