-- ==== Sys2Proof/Machine/Placer.lean ====
section
/-! DEFINITION. Images and the placer: validation (R32 to R34, R472), fitting (R393 to R395), binding, unloading, the
starting gear (R473), budgets, trims and queries (R393, R398, R412). -/

namespace Sys2Proof.Machine

/-! ### The image header and its sections (R32, R33, R472) -/

structure Section where
  type : Nat
  off : Nat
  size : Nat
deriving DecidableEq, Repr

structure ImageHead where
  magic : Nat
  version : Nat
  hdrSize : Nat
  size : Nat
  tideUs : Nat
  bodies : Nat
  gearCount : Nat
  groups : Nat
  ctrlShare : Nat
  rsv : Nat
  pondGroups : Nat
  sram : Nat
  qsram : Nat
  dram : Nat
  digest : List Byte
  sectionCount : Nat
  crc : Nat
deriving DecidableEq, Repr

def decodeHead (e : List Byte) : ImageHead :=
  { magic := fieldAt e 0 4, version := fieldAt e 4 2, hdrSize := fieldAt e 6 2, size := fieldAt e 8 8,
    tideUs := fieldAt e 0x10 4, bodies := fieldAt e 0x14 4, gearCount := fieldAt e 0x18 1, groups := fieldAt e 0x19 1,
    ctrlShare := fieldAt e 0x1A 1, rsv := fieldAt e 0x1B 1, pondGroups := fieldAt e 0x1C 4, sram := fieldAt e 0x20 8,
    qsram := fieldAt e 0x28 8, dram := fieldAt e 0x30 8, digest := (e.drop 0x38).take 32,
    sectionCount := fieldAt e 0x58 4, crc := fieldAt e 0x5C 4 }

def decodeSections (e : List Byte) (n : Nat) : List Section :=
  (List.range n).map fun i =>
    { type := fieldAt e (16 * i) 4, off := fieldAt e (16 * i + 4) 8, size := fieldAt e (16 * i + 12) 4 }

/-- A gear descriptor, with its reserved bytes (R33). -/
structure GearRaw where
  gear : Nat
  role : Nat
  memClk : Nat
  refresh : Nat
  act : Nat
  rsv : Nat
  sram : Nat
  power : Nat
deriving DecidableEq, Repr

def decodeGear (e : List Byte) : GearRaw :=
  { gear := fieldAt e 0 1, role := fieldAt e 1 1, memClk := fieldAt e 2 1, refresh := fieldAt e 3 1, act := fieldAt e 4 2,
    rsv := fieldAt e 6 2 + fieldAt e 0x14 12, sram := fieldAt e 8 8, power := fieldAt e 0x10 4 }

/-- An image as Rilef reads it: header, sections, gear descriptors and check records (R472). -/
structure ImageRead where
  head : ImageHead
  sections : List Section
  gears : List GearRaw
  checks : List (List Byte)
  /-- Gear numbers that the sections of types 0x02 and 0x03 name, in order. -/
  codeGears : List Nat
  streamGears : List Nat
deriving DecidableEq, Repr

def sectionsOf (ss : List Section) (ty : Nat) : List Section := ss.filter fun x => x.type == ty

def readImage (e : List Byte) : ImageRead :=
  let h := decodeHead e
  let ss := decodeSections (e.drop 0x60) (min h.sectionCount ((e.length - 0x60) / 16))
  let part (x : Section) : List Byte := (e.drop x.off).take x.size
  { head := h, sections := ss,
    gears := match sectionsOf ss 1 with
      | g :: _ => (List.range (min h.gearCount 8)).map fun i => decodeGear ((e.drop (g.off + 32 * i)).take 32)
      | [] => [],
    checks := (sectionsOf ss 4).map part, codeGears := (sectionsOf ss 2).map fun x => fieldAt e x.off 1,
    streamGears := (sectionsOf ss 3).map fun x => fieldAt e x.off 1 }

def countOf (xs : List Nat) (n : Nat) : Nat := (xs.filter fun x => x == n).length

def badSections (i : ImageRead) (received : Nat) : Bool :=
  decide (min i.head.size received < 0x60 + 16 * i.head.sectionCount) ||
    i.sections.any fun x => decide (min i.head.size received < x.off + x.size)

/-- R472 and ERR_GEAR_COUNT. -/
def badGears (i : ImageRead) : Bool :=
  i.head.gearCount == 0 || decide (8 < i.head.gearCount) ||
    (i.gears.any fun g => decide (7 < g.gear) || decide (4 < g.role)) ||
    ((List.range 8).any fun n => decide (1 < countOf (i.gears.map (·.gear)) n)) ||
    (i.sections.any fun x => x.type == 0 || decide (6 < x.type)) ||
    (sectionsOf i.sections 1).length != 1 ||
    ((sectionsOf i.sections 1).any fun x => x.size != 32 * i.head.gearCount) ||
    (i.gears.any fun g => countOf i.codeGears g.gear != 1) ||
    i.codeGears.length != i.gears.length ||
    (if i.head.pondGroups = 0 then !i.streamGears.isEmpty
     else (i.gears.any fun g => countOf i.streamGears g.gear != 1) || i.streamGears.length != i.gears.length) ||
    decide (i.head.gearCount < (sectionsOf i.sections 4).length) || (sectionsOf i.sections 5).length != 1

/-- A check record of the right length: digest, one bound per body, CRC (R33). -/
def checkWhole (i : ImageRead) (c : List Byte) : Bool := c.length == 36 + 4 * i.head.bodies

def checkCrcBad (c : List Byte) : Bool := (crc32 (c.take (c.length - 4))).toNat != fieldAt c (c.length - 4) 4

def checkBounds (i : ImageRead) (c : List Byte) : List Word :=
  (List.range i.head.bodies).map fun b => BitVec.ofNat 32 (fieldAt c (32 + 4 * b) 4)

/-- The first refusal of R34 in table order, for an image of which `received` bytes have come in. `e` holds its header, and
what of it lies within IMAGE_SIZE and within the bytes received. -/
def imageRefusal (s : State) (e : List Byte) (i : ImageRead) (received : Nat) : Option Byte :=
  let h := i.head
  let whole := i.checks.filter (checkWhole i)
  if h.magic != 0x51535250 || h.hdrSize != 0x60 then some 0x10
  else if h.version != 2 then some 0x11
  else if (crc32 (e.take 0x5C)).toNat != h.crc || decide (received < h.size) || badSections i received ||
      whole.any checkCrcBad then some 0x12
  else if h.tideUs < 4 ∨ 16000 < h.tideUs ∨ h.bodies = 0 ∨ 65536 < h.bodies then some 0x13
  else if badGears i then some 0x14
  else if whole.any fun c => c.take 32 != h.digest then some 0x15
  else if i.checks.length != h.gearCount || whole.length != i.checks.length then some 0x16
  else if whole.any fun c => (checkBounds i c).any fun b => decide (h.tideUs * 800 - 400 < b.toNat) then some 0x17
  else if !i.gears.any fun g => g.refresh == 1 then some 0x18
  else if (List.finRange 16).all fun t => (tenOf s t).state != .empty then some 0x19
  else if h.groups = 0 ∨ 4 < h.groups ∨ h.ctrlShare = 0 ∨ 16 < h.ctrlShare ∨ h.rsv ≠ 0 ∨ (i.gears.any fun g => g.rsv != 0) then
    some 0x1B
  else none

/-- A reserved memory clock (R242) and the pond checks of R209 and R217: the code, and the detail of the entry that names
table and place of the first command that fails. -/
def streamRefusal (i : ImageRead) (img : ImageReq) : Option (Byte × List Byte) :=
  if i.gears.any fun g => decide (2 < g.memClk) then some (0x65, [0xFF, 0xFF])
  else match planRefusal img.plan with
  | some (e, n, j) => some (e, leBytes 4 n ++ leBytes 4 j)
  | none => if i.gears.any fun g => overBudget g.act (g.refresh == 1) then some (0x55, []) else none

def gearOf (i : ImageRead) (n : Nat) (g : GearRaw) : Gear :=
  { gear := BitVec.ofNat 3 g.gear, role := BitVec.ofNat 8 g.role, memClk := BitVec.ofNat 8 g.memClk,
    refresh := g.refresh == 1, actBanks := BitVec.ofNat 16 g.act, sramPerPan := BitVec.ofNat 64 g.sram,
    powerMw := BitVec.ofNat 32 g.power, bounds := checkBounds i (i.checks.getD n []) }

/-! ### What is free (R394) -/

def panSram : Nat := 80 * 2 ^ 20
/-- Quadrant SRAM beside the ingest staging buffers (log entry 41). -/
def quadSram : Nat := 64 * 2 ^ 20
def saveArea : Nat := 1056 * 2 ^ 10
def dramTotal : Nat := 1152 * 2 ^ 30
/-- The system areas (log entry 48). -/
def systemArea : Nat := 10 * 2 ^ 30

/-- DRAM bytes of one unit (R393). -/
def Tenant.unitBytes (x : Tenant) : Nat := (x.slots.map fun y => y.req.unitBytes).foldl max 0

/-- Units that a tenant holds: its budget, or a larger one that is about to take effect. -/
def Tenant.heldUnits (x : Tenant) : Nat := match x.newBudget with | some b => max b.1 x.budget | none => x.budget

def Tenant.dramUse (x : Tenant) : Nat := if x.live then x.dramBytes + x.heldUnits * x.unitBytes else 0

/-- Banks that hold nothing for the placer: those lost to retirement and those of failed pseudo-channels (R265, R394). -/
def lostBanks (s : State) : Nat :=
  ((goneBanks s).filter fun b => !pcFailed s b.stack (bankSeg b).pc.val).length +
    64 * ((List.finRange 12).map fun k => ((List.range 64).filter (pcFailed s k)).length).sum

/-- Free DRAM: neither a system area nor lost, the growth reserve or held by a tenant (R394). -/
def freeDram (s : State) : Nat :=
  dramTotal - systemArea - lostBanks s * bankBytes - s.plc.growLeft - ((List.finRange 16).map fun t => (tenOf s t).dramUse).sum

/-- A multiple of 256 KiB at or above, where partitions may begin. -/
def up256k (n : Nat) : Nat := (n + 262143) / 262144 * 262144

/-- What is left over of a memory beside the byte ranges in use, from a base on. -/
def runFrom (used : List (Nat × Nat)) (total base : Nat) : Nat :=
  if used.any fun r => decide (r.1 ≤ base) && decide (base < r.2) then 0
  else ((used.filter fun r => decide (base ≤ r.1)).map (·.1)).foldl min total - base

/-- Bases at which a partition may begin: the first byte, and behind each range in use. -/
def basesOf (used : List (Nat × Nat)) : List Nat := 0 :: used.map fun r => up256k r.2

/-- The longest run of free bytes that a partition may take. -/
def longestRun (used : List (Nat × Nat)) (total : Nat) : Nat := ((basesOf used).map (runFrom used total)).foldl max 0

/-- Byte ranges of a pan that tenants hold: partition and save area (R394). -/
def panRanges (s : State) (p : PanIx) : List (Nat × Nat) :=
  (liveTenants s).filterMap fun t =>
    let x := tenOf s t
    if x.bind.pans.contains p ∧ 0 < x.sramPerPan.toNat + (if x.sliced then saveArea else 0)
    then some (x.bind.panBase, x.bind.panBase + x.sramPerPan.toNat + (if x.sliced then saveArea else 0)) else none

def harvestBytes (streams : List StreamReq) : Nat := (streams.map fun x => x.area + x.slots * x.recsz).foldl max 0

/-- Limit of a group's quadrant partition (R357). -/
def Tenant.quadNeed (x : Tenant) (g : Nat) : Nat :=
  if g = 0 then max x.qsramPerGroup.toNat (harvestBytes (x.streams.map (·.req))) else x.qsramPerGroup.toNat

/-- Byte ranges of a quadrant's SRAM that tenants hold. -/
def quadRanges (s : State) (q : QuadIx) : List (Nat × Nat) :=
  (liveTenants s).flatMap fun t =>
    let x := tenOf s t
    (List.range x.groups).filterMap fun g =>
      if groupQuad x.bind.rot g = q ∧ 0 < x.quadNeed g then some (x.bind.quadBase, x.bind.quadBase + x.quadNeed g) else none

def pansOfQuad (q : QuadIx) : List PanIx := (List.finRange 36).filter fun p => quadOfPan p == q

/-- The pans that a load may take in a quadrant: the eight that its tenants use already, or any usable ones (R23, R44, R394); none
in a quadrant that failed its self-test (R286). -/
def openPans (s : State) (q : QuadIx) : List PanIx :=
  let taken := (pansOfQuad q).filter fun p => (liveTenants s).any fun t => (tenOf s t).bind.pans.contains p
  if s.plc.quadFail.getLsbD q.val then []
  else (if taken.length = 8 then taken else pansOfQuad q).filter (usable s)

/-- Lengths of the free runs of consecutive unassigned tallies or gates. -/
def hasRun (free : Nat → Bool) (n total : Nat) : Bool :=
  n == 0 || (List.range (total + 1 - n)).any fun b => (List.range n).all fun i => free (b + i)

def talliesFit (s : State) (n : Nat) : Bool := hasRun (fun k => (tabGet Tally.reset s.sync.tallies k).owner == 0x1F) n 4096

def gatesFit (s : State) (n : Nat) : Bool := hasRun (fun k => (tabGet GateSt.reset s.sync.gates k).owner == 0x1F) n 256

/-- What one configuration of the image needs (R395). -/
structure Need where
  groups : Nat
  sram : Nat
  save : Nat
  qsram : Nat
  harvest : Nat
  dram : Nat
deriving DecidableEq, Repr

def Need.quad (n : Need) (g : Nat) : Nat := if g = 0 then max n.qsram n.harvest else n.qsram

/-- Bytes missing for a rotation: the eight usable pans with the most free SRAM in each quadrant, a pan that is lacking missing
whole, and quadrant SRAM, missing whole where the quadrant failed. -/
def missingAt (s : State) (n : Need) (rot : Fin 4) : Nat :=
  ((List.range n.groups).map fun g =>
    let q := groupQuad rot g
    let frees := (sortBy (fun (f : Nat) => panSram - f)
      ((openPans s q).map fun p => longestRun (panRanges s p) panSram) ++ List.replicate 8 0).take 8
    let quad := if s.plc.quadFail.getLsbD q.val then 0 else longestRun (quadRanges s q) quadSram
    (frees.map fun f => n.sram + n.save - f).sum + (n.quad g - quad)).sum

def missingDram (s : State) (n : Need) : Nat := n.dram - freeDram s

/-- One base serves a need in eight pans of every quadrant of a rotation. DESIGN CHOICE (log entry 206): a tenant's partitions
begin at one offset in all its pans, and at one in all its quadrants. -/
def panBaseFits (s : State) (n : Need) (rot : Fin 4) : Bool :=
  let qs := (List.range n.groups).map (groupQuad rot)
  (basesOf (qs.flatMap fun q => (openPans s q).flatMap (panRanges s))).any fun b => qs.all fun q =>
    decide (8 ≤ ((openPans s q).filter fun p => decide (n.sram + n.save ≤ runFrom (panRanges s p) panSram b)).length)

def quadBaseFits (s : State) (n : Need) (rot : Fin 4) : Bool :=
  let gs := List.range n.groups
  (basesOf (gs.flatMap fun g => quadRanges s (groupQuad rot g))).any fun b => gs.all fun g =>
    decide (n.quad g ≤ runFrom (quadRanges s (groupQuad rot g)) quadSram b)

def fitsAt (s : State) (n : Need) (rot : Fin 4) : Bool :=
  missingAt s n rot == 0 && panBaseFits s n rot && quadBaseFits s n rot && (List.range n.groups).all fun g =>
    decide (8 ≤ usablePans s (groupQuad rot g)) && !s.plc.quadFail.getLsbD (groupQuad rot g).val

def fitsSram (s : State) (n : Need) : Bool := (List.finRange 4).any (fitsAt s n)

def fitsNeed (s : State) (n : Need) : Bool := fitsSram s n && missingDram s n == 0

/-- The shortfall of the smallest configuration, at the rotation that misses least (R395). -/
def shortfall (s : State) (n : Need) : Nat :=
  ((List.finRange 4).map (missingAt s n)).foldl min (missingAt s n 0) + missingDram s n

/-- How the placer would bind: eligible gears by descriptor place, SRAM, budget; or the shortfall (R395). -/
inductive Fit
  | ok (elig : List Nat) (need : Need) (budget : Nat)
  | short (bytes : Nat)
deriving DecidableEq, Repr

def needOf (i : ImageRead) (img : ImageReq) (gs : List Nat) (save budget : Nat) : Need :=
  let unit := (img.slots.map (·.unitBytes)).foldl max 0
  { groups := i.head.groups, sram := (gs.map fun k => (i.gears.getD k (decodeGear [])).sram).foldl max 0, save := save,
    qsram := i.head.qsram, harvest := harvestBytes img.streams, dram := i.head.dram + budget * unit }

/-- The steps of R395, in order; a tenant is never bound with its budget below MIN, nor with less than the unit that is bound for
every sequence slot (R394). -/
def fitImage (s : State) (i : ImageRead) (img : ImageReq) (save : Nat) : Fit :=
  let all := List.range i.gears.length
  let st := all.filter fun k => (i.gears.getD k (decodeGear [])).role == 2
  let step2 := st.any fun k => (i.gears.getD k (decodeGear [])).refresh == 1
  let gs := if step2 then st else all
  let n1 := needOf i img all save img.budget
  let n2 := needOf i img gs save img.budget
  let unit := (img.slots.map (·.unitBytes)).foldl max 0
  let room := (freeDram s - i.head.dram) / (max 1 unit)
  let shrunk := min img.budget room
  let n3 := needOf i img gs save shrunk
  let low := max img.minBudget img.slots.length
  let enough := decide (low ≤ img.budget)
  let least := max (if img.shrink then img.minBudget else img.budget) img.slots.length
  if !(talliesFit s img.tallies && gatesFit s img.gates.length) then
    (if (enough && (fitsNeed s n1 || fitsNeed s n2)) || (img.shrink && decide (low ≤ shrunk) && fitsNeed s n3) then .short 0
     else .short (shortfall s (needOf i img gs save least)))
  else if enough && fitsNeed s n1 then .ok all n1 img.budget
  else if enough && step2 && fitsNeed s n2 then .ok st n2 img.budget
  else if img.shrink && decide (low ≤ shrunk) && fitsNeed s n3 then .ok gs n3 shrunk
  else .short (shortfall s (needOf i img gs save least))

/-! ### Bindings that the rules allow (R22 to R24, R35, R229, R252) -/

/-- Pans of a binding: eight usable pans of the right quadrant for each group, all distinct; and the same eight as any other
tenant's of that quadrant, so that the ninth holds no tenant data (R22, R23, R44, R394). -/
def pansSound (s : State) (b : Binding) (groups : Nat) : Bool :=
  b.pans.length == 8 * groups && b.pans.Nodup &&
    ((liveTenants s).all fun t => (tenOf s t).bind.pans.all fun p =>
      b.pans.contains p || !b.pans.any fun q => quadOfPan q == quadOfPan p) &&
    (List.range b.pans.length).all fun l =>
      match b.pans[l]? with
      | some p => quadOfPan p == groupQuad b.rot (l / 8) && usable s p && !testing s (.qsr (quadOfPan p))
      | none => false

/-- Disjoint byte ranges of the partitions on the pans and quadrants that two tenants share. -/
def partsApart (s : State) (b : Binding) (n : Need) : Bool :=
  (List.finRange 16).all fun t =>
    let x := tenOf s t
    !x.live ||
      ((!b.pans.any x.bind.pans.contains ||
          decide (b.panBase + n.sram + n.save ≤ x.bind.panBase) ||
          decide (x.bind.panBase + x.sramPerPan.toNat + (if x.sliced then saveArea else 0) ≤ b.panBase)) &&
        (List.range n.groups).all fun g => (List.range x.groups).all fun h =>
          groupQuad b.rot g != groupQuad x.bind.rot h || decide (b.quadBase + n.quad g ≤ x.bind.quadBase) ||
            decide (x.bind.quadBase + x.quadNeed h ≤ b.quadBase))

def rangeFree (free : Nat → Bool) (base n total : Nat) : Bool :=
  decide (base + n ≤ total) && (List.range n).all fun i => free (base + i)

/-- Bytes that a tenant holds in each of its pans under a slice table: partition and save area (R394). -/
def Tenant.panEnd (x : Tenant) (sliced : Bool) : Nat := x.bind.panBase + x.sramPerPan.toNat + (if sliced then saveArea else 0)

/-- The tenant is sliced: some entry leaves it out. -/
def slicedIn (table : List SliceEntry) (t : TenIx) : Bool := table.any fun e => !e.mask.getLsbD t.val

/-- Every tenant's partition and, where the table slices it, its save area fit in its pans, beside those of the others (R394). -/
def savesSound (s : State) (table : List SliceEntry) : Bool :=
  let live := liveTenants s
  live.all fun t =>
    decide ((tenOf s t).panEnd (slicedIn table t) ≤ panSram) &&
      live.all fun u =>
        u == t || !((tenOf s t).bind.pans.any (tenOf s u).bind.pans.contains) ||
          decide ((tenOf s t).panEnd (slicedIn table t) ≤ (tenOf s u).bind.panBase) ||
          decide ((tenOf s u).panEnd (slicedIn table u) ≤ (tenOf s t).bind.panBase)

/-- A slice table that Rilef may set up: 1 to 64 entries, the last marked LAST, every live tenant in some entry, no other
(R36), with room for every save area. No tenant leaves an empty table. -/
def tableSound (s : State) (table : List SliceEntry) : Bool :=
  let live : List TenIx := (List.finRange 16).filter fun t => (tenOf s t).live
  if live.isEmpty then table.isEmpty
  else
    decide (1 ≤ table.length) && decide (table.length ≤ 64) &&
      ((List.range table.length).all fun i => (table.getD i { last := false, lenUs := 0, mask := 0 }).last == (i + 1 == table.length)) &&
      (table.all fun e =>
        ((List.finRange 16).all fun t => !e.mask.getLsbD t.val || (tenOf s t).live) && entrySound (tenantsIn s e.mask)) &&
      (live.all fun t => table.any fun e => e.mask.getLsbD t.val) && savesSound s table

/-- A region without a stated address order takes the default of the option block (R252). -/
def ordersSound (s : State) (img : ImageReq) (places : List Place) : Bool :=
  (img.regions.zip places).all fun x =>
    match x.2 with
    | .interleave _ _ _ order => order.val == (x.1.order.map (·.val)).getD (s.rst.opt.order.toNat % 4)
    | _ => true

/-- A multiple of 64 KiB at or above. -/
def up64k (n : Nat) : Nat := (n + 65535) / 65536 * 65536

/-- The harvest areas lie in stream order behind QSRAM_PER_GROUP, each at a multiple of 64 KiB, with records of a size that R357
allows, which a payload and its header fit (R359). -/
def streamsSound : Nat → List StreamReq → Bool
  | _, [] => true
  | n, x :: r =>
    x.area == up64k n && ((List.range 11).any fun k => x.recsz == 64 * 2 ^ k) && decide (x.len + 32 ≤ x.recsz) &&
      streamsSound (x.area + x.slots * x.recsz) r

/-- A binding that the rules allow for a need. -/
def bindSound (s : State) (img : ImageReq) (b : Binding) (n : Need) : Bool :=
  (tenOf s b.tenant).state == .empty && fitsAt s n b.rot && pansSound s b n.groups && partsApart s b n &&
    b.panBase % 2 ^ 18 == 0 && b.quadBase % 2 ^ 18 == 0 && decide (b.panBase + n.sram + n.save ≤ panSram) &&
    ((List.range n.groups).all fun g => decide (b.quadBase + n.quad g ≤ quadSram)) &&
    pondsSound s img b.members && b.places.length == img.regions.length && (b.places.all (placeSound s)) &&
    ordersSound s img b.places && slotsSound img b.members b.places &&
    (img.slots.all fun z => (banksOfPlace (b.places.getD z.region (.host 0))).length == z.pairs) && streamsSound n.qsram img.streams &&
    clearOf b.places (systemPlaces s ++ moveTargets s) &&
    ((List.range b.places.length).all fun i =>
      decide ((img.regions.getD i { bytes := 0, pond := none, order := none, mirrored := false }).bytes ≤ placeBytes (b.places.getD i (.host 0)))) &&
    ((List.range b.places.length).all fun i => (List.range i).all fun j =>
      !placesClash (b.places.getD i (.host 0)) (b.places.getD j (.host 0))) &&
    ((List.finRange 16).all fun t => !(tenOf s t).live ||
      (tenOf s t).regions.all fun r => b.places.all fun p => !placesClash r.place p) &&
    rangeFree (fun k => (tabGet Tally.reset s.sync.tallies k).owner == 0x1F) b.tlyBase img.tallies 4096 &&
    rangeFree (fun k => (tabGet GateSt.reset s.sync.gates k).owner == 0x1F) b.gateBase img.gates.length 256

/-! ### Binding pans -/

/-- Partition offset of the entry table of a gear's body code (R48). -/
def Tenant.codeBase (x : Tenant) (gear : BitVec 3) : Nat :=
  match x.img.codeBase.find? fun c => c.1 == gear with | some c => c.2 | none => 0

/-- Nothing is queued or in progress in a pan, and no body runs in it. -/
def Pan.emptied (x : Pan) : Pan :=
  { x with
    inBody := false, endIssued := false, stepping := false, wait := .none, fence := none, mid := false,
    midB := { s := 0, m := 0, e := 0, c := 0 }, midSlots := 0, fetched := none,
    mq := [], mfly := [], eq := [], efly := [], loads := [],
    buf0 := { x.buf0 with loading := false, reading := false, readEnd := 0 },
    buf1 := { x.buf1 with loading := false, reading := false, readEnd := 0 } }

/-- What a logical pan takes with it from one physical pan to another (R38, R79, R401, R474). -/
def Pan.kept (x : Pan) : SavedPan :=
  { v := x.v, t := x.t, chan := x.chan, trapTide := x.trapTide, trapErr := x.trapErr, trapCause := x.trapCause,
    trapSlot := x.trapSlot, trapPc := x.trapPc, trapAddr := x.trapAddr, stall := x.stall, busyLast := x.busyLast,
    busyMax := x.busyMax, boundaryTick := x.boundaryTick, mmaRows := x.mmaRows, mmaBusyLast := x.mmaBusyLast,
    mmaBusyMax := x.mmaBusyMax, mmaBusyNow := x.mmaBusyNow, echBusyLast := x.echBusyLast, echBusyMax := x.echBusyMax,
    echBusyNow := x.echBusyNow }

def Pan.putKept (x : Pan) (k : SavedPan) : Pan :=
  { x with
    v := k.v, t := k.t, chan := k.chan, trapTide := k.trapTide, trapErr := k.trapErr, trapCause := k.trapCause,
    trapSlot := k.trapSlot, trapPc := k.trapPc, trapAddr := k.trapAddr, stall := k.stall, busyLast := k.busyLast,
    busyMax := k.busyMax, boundaryTick := k.boundaryTick, mmaRows := k.mmaRows, mmaBusyLast := k.mmaBusyLast,
    mmaBusyMax := k.mmaBusyMax, mmaBusyNow := k.mmaBusyNow, echBusyLast := k.echBusyLast, echBusyMax := k.echBusyMax,
    echBusyNow := k.echBusyNow }

/-- A physical pan takes a logical pan of a tenant: bases, limits and synchronisation bases (R50, R76, R299). -/
def Pan.bindTo (x : Pan) (t : TenIx) (l : Fin 32) (y : Tenant) (q : QuadIx) : Pan :=
  { x.emptied with
    state := .off, spare := false, tenant := some t, lpan := some l, stores := [], partBase := BitVec.ofNat 64 y.bind.panBase,
    partLimit := y.sramPerPan, quad := q, quadBase := BitVec.ofNat 64 y.bind.quadBase,
    quadLimit := BitVec.ofNat 64 (y.quadNeed (l.val / 8)), codeBase := BitVec.ofNat 64 (y.codeBase y.gear),
    tlyBase := BitVec.ofNat 12 y.bind.tlyBase, gateBase := BitVec.ofNat 8 y.bind.gateBase }

/-- A physical pan is given up: clock gated, unbound (R78). -/
def Pan.unbind (x : Pan) : Pan :=
  { x.emptied with
    state := .off, tenant := none, lpan := none, stores := [], partBase := 0, partLimit := 0, quadBase := 0,
    quadLimit := 0, codeBase := 0, tlyBase := 0, gateBase := 0,
    chan := PanChan.reset }

/-- SPARE: the usable pan left over in a quadrant whose other eight are bound, with no tenant's data in it (R23, R44, R78).
DESIGN CHOICE (log entry 168): a left-over pan that is retired or failed its self-test serves as no spare and reads SPARE = 0.
-/
def refreshSpares (s : State) : State :=
  (List.finRange 36).foldl
    (fun r p =>
      let bound := ((pansOfQuad (quadOfPan p)).filter fun q => (panOf s q).tenant.isSome).length
      modPan r p fun x => { x with spare := decide (8 ≤ bound) && x.tenant.isNone && !x.stFail && !x.retired &&
        !((liveTenants s).any fun t => (tenOf s t).bind.pans.contains p) })
    s

def savedOf (s : State) (t : TenIx) (l : Fin 32) : SavedPan := tabGet SavedPan.none s.slice.saved (32 * t.val + l.val)

/-- Bind every pan of a tenant. What each logical pan keeps comes back from its save area (R38); right after load that is
zeros (R474). -/
def bindPans (s : State) (t : TenIx) : State :=
  refreshSpares ((tenOf s t).lpans.foldl
    (fun r lp =>
      modPan r lp.2 fun x => (x.bindTo t lp.1 (tenOf s t) (quadOfPan lp.2)).putKept (savedOf r t lp.1))
    s)

/-- Unbind every pan that now serves a tenant; what its logical pans keep goes to the save areas (R38). -/
def unbindPans (s : State) (t : TenIx) : State :=
  refreshSpares ((List.finRange 36).foldl
    (fun r p =>
      match (panOf s p).tenant, (panOf s p).lpan with
      | some u, some l =>
        if u = t then
          let s1 := { r with slice :=
            { r.slice with saved := tabSet SavedPan.none r.slice.saved (32 * t.val + l.val) (panOf s p).kept } }
          modPan s1 p Pan.unbind
        else r
      | _, _ => r)
    s)

/-- The save areas of a tenant number hold nothing of an earlier tenant (R474). -/
def freshSaved (s : State) (t : TenIx) : State :=
  { s with slice := { s.slice with
    saved := s.slice.saved.filter fun e => e.1 < 32 * t.val || decide (32 * t.val + 32 ≤ e.1) } }

/-- Give a range of tallies an owner and value 0 (R299). -/
def ownTallies (s : State) (base n : Nat) (owner : BitVec 5) : State :=
  let ts := tabSetList Tally.reset s.sync.tallies base (List.replicate n { value := 0, owner := owner, hand := false })
  { s with sync := { s.sync with tallies := ts } }

/-- Give a range of gates an owner and the participants of the image (R299, R310). -/
def ownGates (s : State) (base : Nat) (owner : BitVec 5) (gs : List GateReq) : State :=
  let one : GateReq → GateSt := fun g =>
    { GateSt.reset with owner := owner, mask := g.mask, ports := if g.mask = 0 then g.ports else 0 }
  { s with sync := { s.sync with gates := tabSetList GateSt.reset s.sync.gates base (gs.map one) } }

/-- The tallies of a range that a tenant owns return to no owner (R299). -/
def freeTallies (s : State) (base n : Nat) (t : TenIx) : State :=
  let free (r : Tab Tally) (k : Nat) : Tab Tally :=
    if (tabGet Tally.reset r k).owner.toNat = t.val then tabSet Tally.reset r k Tally.reset else r
  { s with sync := { s.sync with tallies := ((List.range n).map (base + ·)).foldl free s.sync.tallies } }

/-- The gates of a range that a tenant owns return to no owner (R299). -/
def freeGates (s : State) (base n : Nat) (t : TenIx) : State :=
  let free (r : Tab GateSt) (k : Nat) : Tab GateSt :=
    if (tabGet GateSt.reset r k).owner.toNat = t.val then tabSet GateSt.reset r k GateSt.reset else r
  { s with sync := { s.sync with gates := ((List.range n).map (base + ·)).foldl free s.sync.gates } }

/-- Bytes that the image puts into the SRAM partitions of a binding, up to a word whose merge read is uncorrectable: that word's
region and offset halt the channel (R181, R283). -/
def putInits (s : State) (b : Binding) (ins : List InitReq) : State × Option (Half × Nat) :=
  ins.foldl
    (fun r i =>
      if r.2.isSome then r
      else
        let put (key region : Nat) : State × Option (Half × Nat) :=
          let w := putBytes r.1 (8 * key + i.offset % 8) i.bytes (some b.tenant)
          (w.1, if w.2 then some (BitVec.ofNat 16 region, i.offset) else none)
        if i.quad then put (quadKey (groupQuad b.rot i.index).val (b.quadBase + i.offset)) 1
        else match b.pans[i.index]? with | some p => put (panKey p.val (b.panBase + i.offset)) 0 | none => r)
    (s, none)

def noEntry : SliceEntry := { last := false, lenUs := 0, mask := 0 }

/-- The tenants of the current entry: a tenant that was loaded since the table was built is none of them, whatever tenant had its
number before (R35, R38). -/
def SliceSt.mask (x : SliceSt) : Half := (x.table.getD x.cur noEntry).mask &&& ~~~x.barred

/-- A new slice table is taken at the end of the entry marked LAST, or at once where none is in force (R38). -/
def setTable (s : State) (table : List SliceEntry) : State :=
  if s.slice.table.isEmpty then
    { s with slice := { s.slice with table := table, cur := 0, next := none, barred := 0, begun := s.tick } }
  else { s with slice := { s.slice with next := some table } }

/-- A tenant that is loaded while a table is in force waits for the one that was built with it (R38). -/
def barUntilTable (s : State) (t : TenIx) : State :=
  if s.slice.table.isEmpty then s else { s with slice := { s.slice with barred := s.slice.barred ||| (1#16 <<< t.val) } }

/-- Whether the current slice entry runs a tenant. -/
def entryRuns (s : State) (t : TenIx) : Bool := s.slice.mask.getLsbD t.val

/-- Every live tenant's sliced mark follows the table in force. -/
def markSliced (s : State) (table : List SliceEntry) : State :=
  (List.finRange 16).foldl (fun r t => modTen r t fun x => { x with sliced := x.live && slicedIn table t }) s

/-- The tenant that a load creates (STATE LOADED, R41). -/
def loadedTenant (i : ImageRead) (img : ImageReq) (b : Binding) (elig : List Nat) (n : Need) (budget : Nat) (sliced : Bool) :
    Tenant :=
  { Tenant.reset with
    state := .loaded, tideUs := BitVec.ofNat 16 i.head.tideUs, bodyCount := i.head.bodies, groups := i.head.groups,
    ctrlShare := i.head.ctrlShare, sramPerPan := BitVec.ofNat 64 n.sram, qsramPerGroup := BitVec.ofNat 64 i.head.qsram,
    dramBytes := i.head.dram, digest := i.head.digest,
    gears := (List.range i.gears.length).map fun k => gearOf i k (i.gears.getD k (decodeGear [])),
    elig := (elig.map fun k => (1#8) <<< (i.gears.getD k (decodeGear [])).gear).foldl (· ||| ·) 0, img := img, bind := b,
    regions := (List.range img.regions.length).map fun k =>
      let r := img.regions.getD k { bytes := 0, pond := none, order := none, mirrored := false }
      { limit := r.bytes, place := b.places.getD k (.host 0), mirrored := r.mirrored || r.pond.isSome,
        map := b.maps.getD k [] },
    streams := img.streams.map fun r => { Stream.zero with req := r },
    slots := img.slots.map fun r => { req := r, blocks := 1, due := false, maxLen := none }, budget := budget,
    minBudget := img.minBudget, shrink := img.shrink, sliced := sliced, weight := 1 }

/-- Exposed banks of a stack by die and number. -/
def exposedBanks : List (DieIx × Fin 256) := (List.finRange 16).flatMap fun d => (List.finRange 256).map fun b => (d, b)

/-- What the fill leaves in a stack: the trace of its FILLs on every bank, every bank precharged, and the counts of every unit
cleared by the status read that ends it (R227, R288). -/
def fillStack (s : State) (k : StackIx) : State :=
  let s1 := exposedBanks.foldl (fun q e => prechargeBank q { stack := k, die := e.1, bank := e.2 }) s
  let s2 := (List.finRange 16).foldl (fun r d => fillTrace r k d (servingBanks r k d fun _ => true)) s1
  exposedBanks.foldl
    (fun r e => modUnit r (bankKey k.val e.1.val (physBank r k e.1 e.2.val)) fun u => { u with corr := 0, uec := 0 }) s2

/-- What the fill leaves in every stack; nothing outside the stacks changes. -/
def countFill (s : State) : State := { s with dram := ((List.finRange 12).foldl fillStack s).dram }

/-- The DRAM fill of power-on, which the first LOAD_IMAGE after a system reset runs too (R288, R418): every exposed bank reads as
zero, but for the flips that the injection registers name (R297); no queued write is left to cover it (R254). -/
def fillDram (s0 : State) : State :=
  let s := (List.finRange 12).foldl (fun r k => modStack r k fun x => { x with wq := [] }) (countFill s0)
  let s1 : State := { s with mem := s.mem.filter fun c => decide (c.1 < 16 * 2 ^ 40), log := { s.log with dramFilled := true },
                             rst := { s.rst with fillDue := false } }
  if s1.log.injArm then
    (List.finRange 12).foldl
      (fun r k => exposedBanks.foldl (fun q e => injectRange q (dramKey k.val e.1.val (physBank s k e.1 e.2.val) 0 0) (4 * 786432)) r) s1
  else s1

/-- The request of the placer that puts an image's bytes into the partitions of a tenant. -/
def loadReq (slot : MbxIx) (t : TenIx) (region : Half) : SysReq :=
  { tenant := some t, lpan := 0, srcRegion := region, srcOff := 0, dstRegion := 0, dstOff := 0, list := none,
    action := .mailbox slot, parityBad := false }

/-- The image's region as the placer's channel reads it: the header, and what lies within IMAGE_SIZE. -/
def readStaged (s : State) (v : RegView) : RegionRead × RegionRead :=
  let h := readRegion s v.view 0 (min v.limit 0x60)
  (h, readRegion s v.view 0 (min v.limit (max 0x60 (min v.limit (fieldAt h.bytes 8 8)))))

/-- Bind a fitted image as the command says, with its bytes in the partitions; none where the rules do not allow the binding. A
word of the partitions that cannot be merged halts the channel, and nothing is bound (R161, R181, R394). -/
def bindImage (s : State) (c : SchIx) (slot : MbxIx) (region : Half) (i : ImageRead) (img : ImageReq) (bind : Binding)
    (table : List SliceEntry) (elig : List Nat) (n : Need) (budget : Nat) : Option State :=
  let s0 := markSliced s table
  let made (r : State) : State := setTen (freshSaved r bind.tenant) bind.tenant
    (loadedTenant i img bind elig n budget (slicedIn table bind.tenant))
  if !(bindSound s0 img bind n && tableSound (made s0) table) then none
  else
    let q := putInits s0 bind img.inits
    match q.2 with
    | some x => some (haltSch q.1 c (loadReq slot bind.tenant region) x.1 x.2)
    | none =>
      let owner : BitVec 5 := BitVec.ofNat 5 bind.tenant.val
      let s1 := ownGates (ownTallies (markSliced (made q.1) table) bind.tlyBase img.tallies owner) bind.gateBase owner img.gates
      let s2 := countSch (setTable (barUntilTable s1 bind.tenant) table) c ((img.inits.map fun x => x.bytes.length).sum)
      let s3 := if bind.pans.all fun p => (panOf s2 p).tenant.isNone then bindPans s2 bind.tenant else s2
      some (endBackground s3 slot 0 [BitVec.ofNat 8 bind.tenant.val])

/-- LOAD_IMAGE: read the image in its region, run a pending fill (R418), validate the image (R34), fit it (R395), and bind it as
Rilef decides within the rules. Runs in the background (R354), on a channel of the placer that takes work (R161). A decision
that the rules do not allow is none, and changes nothing. Rilef accepts no load before the unused spares are filled (R289). An
image in host memory comes by reads that may fail (R364). DESIGN CHOICE (log entry 167): the bytes received are the bytes of the
staging region up to its limit; an IMAGE_SIZE above them is refused 0x12, one below them is not. DESIGN CHOICE (log entry 207):
the image is read before the fill, which erases a staging region in DRAM. -/
def execLoadImage (slot : MbxIx) (img : ImageReq) (bind : Binding) (table : List SliceEntry) (s : State) : Answer :=
  runMailbox s slot 0x03 fun a s =>
    let region : Half := BitVec.ofNat 16 (fieldAt a 0x10 2)
    match (if s.log.sparesFilled then moveChan s else none), regionView s none 0 region with
    | none, _ => s
    | some _, none => endBackground s slot 0xA2 []
    | some c, some v =>
      let (h, rd) := readStaged s v
      if rd.units.any (unitBlocked s (.sys c)) then askUnits s (.sys c) rd.units
      else
        let s0 := noteUnits s 0x40 rd.units none
        let s0 := if rd.host then usedFree (readLines s0 rd.lines) (rd.bytes.length + 1) else s0
        let s1 := if s0.rst.fillDue then fillDram s0 else s0
        let i := readImage rd.bytes
        if rd.host && !hostReads s0 then endBackground (logEvent s1 0xA9 [] none) slot 0xA9 []
        else if rd.bad || h.bad then endBackground s1 slot 0x40 []
        else
          match imageRefusal s rd.bytes i v.limit, streamRefusal i img with
          | some e, _ => endBackground s1 slot e []
          | none, some (e, d) => endBackground (logEvent s1 e d none) slot e []
          | none, none =>
            match fitImage (markSliced s1 table) i img (if slicedIn table bind.tenant then saveArea else 0) with
            | .short n => endBackground s1 slot 0xC0 (List.replicate 8 0 ++ leBytes 8 n)
            | .ok elig n budget => (bindImage s1 c slot region i img bind table elig n budget).getD s

/-- Keys of a tenant are revoked at unload (R379). -/
def revokeKeys (s : State) (t : TenIx) : State :=
  let keys := (s.net.keys.map fun kv => if kv.2.owner = some t then (kv.1, { kv.2 with valid := false }) else kv).filter
    fun kv => kv.2 != NetKey.reset
  { s with net := { s.net with keys := keys } }

/-- The growth reserve is refilled from freed DRAM before it counts as free (R398). -/
def refillReserve (s : State) (freed : Nat) : State :=
  { s with plc := { s.plc with growLeft := min s.plc.growRes (s.plc.growLeft + freed) } }

/-- A lane bound to nothing (R346, R351). -/
def Lane.freed (l : Lane) : Lane :=
  { l with valid := false, owner := 0, tly := 0, region := 0, off := 0, limit := 0, staged := [], lost := false, bells := [] }

/-- A message in progress whose bytes go to the tenant's regions moves no further byte (R379; log entry 101). -/
def loseMessages (s : State) (t : TenIx) : State :=
  let lose (m : RxMsg) : RxMsg := if m.key.owner == some t then { m with lost := true } else m
  { s with net := { s.net with ports := s.net.ports.map fun e => (e.1, { e.2 with cur := e.2.cur.map lose }) } }

/-- Remove a tenant and free what it holds: pans, lanes, rings, tallies, gates, keys (R299, R346, R379). -/
def dropTenant (s : State) (t : TenIx) : State :=
  let x := tenOf s t
  let s1 := freshSaved (unbindPans s t) t
  let s2 := (List.finRange 64).foldl
    (fun r n => if (laneOf s n).valid && (laneOf s n).owner.toNat == t.val
      then queueTake (modLane r n Lane.freed) 3 (laneOf s n).bells.length else r) s1
  let s3 := (List.finRange 16).foldl (fun r n => if (ringOf s n).valid && (ringOf s n).tenant == t then unbindRing r n else r) s2
  let s4 := freeGates (freeTallies s3 x.bind.tlyBase x.img.tallies t) x.bind.gateBase x.img.gates.length t
  let s5 := { s4 with sync :=
    { s4.sync with waiters := s4.sync.waiters.filter fun w => w.tenant != t,
                   gwaiters := s4.sync.gwaiters.filter fun w => w.tenant != t,
                   panArrive := s4.sync.panArrive.filter fun w => w.tenant != t,
                   entries := s4.sync.entries.filter fun e => e.1 != t } }
  refreshStoreHi (refillReserve (setTen (loseMessages (revokeKeys s5 t) t) t Tenant.reset) x.dramUse)

/-- Some pan of the tenant has issued part of a bundle, whose slots issue in one cycle: no tide ends within it (R52). -/
def bundleOpen (s : State) (t : TenIx) : Bool := (tenOf s t).lpans.any fun lp => (panOf s lp.2).mid

/-- UNLOAD (R355), in the background; not within a bundle, whose slots issue in one cycle (R52). -/
def execUnload (slot : MbxIx) (table : List SliceEntry) (s : State) : Answer :=
  runMailbox s slot 0x04 fun a s =>
    let n := fieldAt a 0x10 1
    if h : n < 16 then
      if !(tenOf s ⟨n, h⟩).live then endBackground s slot 0xA2 []
      else if bundleOpen s ⟨n, h⟩ then s
      else
        let s1 := retryDegraded (dropTenant s ⟨n, h⟩)
        if tableSound s1 table then endBackground (markSliced (setTable s1 table) table) slot 0 [] else s
    else endBackground s slot 0xA2 []

/-! ### Gears (R405, R406, R473) -/

/-- Eligible gears in the order of R405: by POWER_MW, then by number. -/
def gearOrder (x : Tenant) : List Gear :=
  sortBy (fun g => g.powerMw.toNat * 8 + g.gear.toNat) (x.gears.filter fun g => x.elig.getLsbD g.gear.toNat)

def gearNo (x : Tenant) (n : BitVec 3) : Option Gear := x.gears.find? fun g => g.gear == n

/-- Above 85 °C, in 1/16 °C (R406). -/
def stackHot (s : State) (k : StackIx) : Bool := decide (85 * 16 < (tabGet 0 s.sen.stack k.val).toInt)

/-- The HOT rule: the highest REFRESH = 1 gear not above the current power, else the one of lowest power (R406). -/
def hotGear (x : Tenant) (power : Nat) : Option Gear :=
  let gs := (gearOrder x).filter (·.refresh)
  match (gs.filter fun g => decide (g.powerMw.toNat ≤ power)).getLast? with
  | some g => some g
  | none => gs.head?

/-- Every stack of a tenant runs at a memory clock. -/
def allAtClock (s : State) (t : TenIx) (clk : Byte) : Bool := (tenantStacks s t).all fun k => (stackOf s k).memClk == clk

/-- By gear number. -/
def byNumber (gs : List Gear) : List Gear := sortBy (fun g => g.gear.toNat) gs

/-- The clock that a stack runs at once a committed change is complete (R31, R263). -/
def clockToBe (s : State) (k : StackIx) : Byte := (stackOf s k).defer.getD (stackOf s k).memClk

/-- Every stack of a tenant runs at a memory clock, or changes to it. -/
def allToBe (s : State) (t : TenIx) (clk : Byte) : Bool := (tenantStacks s t).all fun k => clockToBe s k == clk

/-- No clock change of a tenant's stacks is due or under way. -/
def clocksSettled (s : State) (t : TenIx) : Bool :=
  (tenantStacks s t).all fun k => (stackOf s k).defer.isNone && (stackOf s k).mode != .clockChange

/-- The starting gear, and whether a clock change must come first (R473). Where a change of clock is already
committed, the clock in use is the one that it brings, and the tenant begins with its shift tides (R31; log entry 149). DESIGN
CHOICE (log entry 166): under the HOT rule no
gear is current yet, so POWER_MW is measured against the gear that the other rules would pick, and against 0 where none runs
at the clock in use. -/
def startGear (s : State) (t : TenIx) : Option (Gear × Bool) :=
  let x := tenOf s t
  let el := byNumber (x.gears.filter fun g => x.elig.getLsbD g.gear.toNat)
  let here := el.filter fun g => allToBe s t g.memClk
  let std := here.filter fun g => g.role == 0
  let pick := match std.head? with | some g => some g | none => here.head?
  if x.hot || (tenantStacks s t).any (stackHot s) then
    (hotGear x (match pick with | some g => g.powerMw.toNat | none => 0)).map fun g => (g, !allToBe s t g.memClk)
  else
    match pick with
    | some g => some (g, false)
    | none =>
      match (el.filter fun g => g.role == 0).head?, el.head? with
      | some g, _ => some (g, true)
      | none, some g => some (g, true)
      | none, none => none

/-- A tenant that has a committed gear (R31): it has been started, and runs, is sliced out or is quiesced. A loaded one takes
its gear at START, a halted one runs no more (log entry 149). -/
def Tenant.geared (x : Tenant) : Bool := x.state == .running || x.state == .slicedOut || x.state == .quiesced

/-- Other tenants that are bound to one of these stacks and have a gear. -/
def sharers (s : State) (t : TenIx) (ks : List StackIx) : List TenIx :=
  (List.finRange 16).filter fun u => u != t && (tenOf s u).geared && (tenantStacks s u).any ks.contains

/-- R31: every other tenant on the stacks has a committed gear at the new clock. -/
def clockAgreed (s : State) (t : TenIx) (ks : List StackIx) (clk : Byte) : Bool :=
  (sharers s t ks).all fun u =>
    match gearNo (tenOf s u) (tenOf s u).commitGear with | some g => g.memClk == clk | none => false

/-- A committed clock change of the stacks (R263): the controllers start it when no training stands in its way; their
tenants pass shift tides until it is complete (R31). -/
def commitClock (s : State) (ks : List StackIx) (clk : Byte) : State :=
  let s1 := ks.foldl (fun r k => if (stackOf s k).memClk = clk then r else modStack r k fun x => { x with defer := some clk, newClk := clk }) s
  (List.finRange 16).foldl
    (fun r u => if (tenOf s u).live && (tenantStacks s u).any ks.contains then modTen r u fun x => { x with shift := true } else r) s1

def Tenant.quiesceDue (x : Tenant) : Bool := x.quiesceHost || x.quiesceThermal || x.quiesceFence

/-- QUIESCED: the gear request is discarded and the tide number stands still. -/
def quiesceTenant (s : State) (t : TenIx) : State :=
  modTen s t fun x => { x with state := .quiesced, nextGear := x.gear, commitGear := x.gear }

/-- START: the tenant begins its grid in its starting gear at a multiple of 800 ticks (R13, R355, R473). Refused while a
harvest stream is unbound, without a starting gear, or on a FENCED primary (R388). A tenant whose entry does not run is
quiesced where it stands while a host loss or CRITICAL quiesces (R367, R406). -/
def execStart (slot : MbxIx) (s : State) : Answer :=
  runMailbox s slot 0x05 fun a s =>
    let n := fieldAt a 0x10 1
    if h : n < 16 then
      let t : TenIx := ⟨n, h⟩
      let x := tenOf s t
      if x.state != .loaded || (x.streams.any fun st => st.ring.isNone) || s.mir.role == .fenced then respond s slot 0xA2 []
      else
        match startGear s t with
        | none => respond s slot 0xA2 []
        | some (g, change) =>
          let ks := tenantStacks s t
          if change && !clockAgreed s t ks g.memClk then respond s slot 0xA2 []
          else
            let s1 := modTen s t fun x =>
              { x with state := if entryRuns s t && !s.slice.turnover then .running else .slicedOut, gear := g.gear, nextGear := g.gear,
                       commitGear := g.gear,
                       quiesceHost := s.host.attach == .quiescing || s.host.attach == .quiesced,
                       quiesceThermal := s.gov.critical, hot := x.hot || ks.any (stackHot s),
                       anchor := BitVec.ofNat 64 ((s.tick.toNat / 800 + 1) * 800), tide := 0, idle := 0,
                       begun := false, inTide := false, shift := !clocksSettled s t }
            let s2 := if (tenOf s1 t).state == .slicedOut && !(s.slice.turnover && entryRuns s t) && (tenOf s1 t).quiesceDue
              then quiesceTenant s1 t else s1
            respond (if change then commitClock s2 ks g.memClk else s2) slot 0 []
    else respond s slot 0xA2 []

/-- SET_WEIGHT: Rilef rebuilds the slice table from the weights (R38, R355). -/
def execSetWeight (slot : MbxIx) (table : List SliceEntry) (s : State) : Answer :=
  runMailbox s slot 0x06 fun a s =>
    let n := fieldAt a 0x10 1
    let w := fieldAt a 0x12 2
    if h : n < 16 then
      if !(tenOf s ⟨n, h⟩).live ∨ w = 0 ∨ 1000 < w then respond s slot 0xA2 []
      else if !tableSound s table then s
      else respond (setTable (modTen s ⟨n, h⟩ fun x => { x with weight := BitVec.ofNat 16 w }) table) slot 0 []
    else respond s slot 0xA2 []

/-! ### Budgets, trims, queries (R393, R398, R412) -/

/-- Units bound in blocks. -/
def Tenant.placed (x : Tenant) : Nat := (x.slots.map (·.blocks)).sum

/-- PLC_BUDGET (R393, R412): what the tenant holds already, a raise that is still to take effect among it, needs no free DRAM. -/
def execPlcBudget (slot : MbxIx) (s : State) : Answer :=
  runMailbox s slot 0xC1 fun a s =>
    let n := fieldAt a 0x10 1
    let fl := fieldAt a 0x11 1
    let want := fieldAt a 0x18 8
    let low := fieldAt a 0x20 8
    if h : n < 16 then
      let x := tenOf s ⟨n, h⟩
      let free := freeDram s / (max 1 x.unitBytes)
      if !x.live ∨ 1 < fl ∨ want < x.placed then respond s slot 0xA2 []
      else if want ≤ x.heldUnits + free then
        respond (modTen s ⟨n, h⟩ fun x => { x with newBudget := some (want, low, bitOf fl 0) }) slot 0 (leBytes 8 want)
      else
        respond s slot 0xC0 (List.replicate 8 0 ++ leBytes 8 ((want - x.heldUnits) * x.unitBytes - freeDram s))
    else respond s slot 0xA2 []

/-- PLC_TRIM: takes effect at the slot's next boundary tick (R398). -/
def execPlcTrim (slot : MbxIx) (s : State) : Answer :=
  runMailbox s slot 0xC2 fun a s =>
    let n := fieldAt a 0x10 1
    let k := fieldAt a 0x12 2
    let tok := fieldAt a 0x18 8
    if h : n < 16 then
      match (tenOf s ⟨n, h⟩).slots[k]? with
      | none => respond s slot 0xA2 []
      | some y =>
        let keep := min y.blocks (max 1 (ceilDiv tok (max 1 y.req.ptok)))
        respond (modTen s ⟨n, h⟩ fun x => { x with trims := x.trims ++ [(k, keep)] }) slot 0 (leBytes 8 (keep * y.req.ptok))
    else respond s slot 0xA2 []

/-- PLC_QUERY (R412). -/
def execPlcQuery (slot : MbxIx) (s : State) : Answer :=
  runMailbox s slot 0xC5 fun _ s =>
    respond s slot 0 (leBytes 8 (freeDram s) ++ leBytes 8 s.plc.growLeft ++
      (List.finRange 4).map fun q => BitVec.ofNat 8 (usablePans s q))

/-- PLC_RETIRE: retire a named bank or pan (R400, R412). -/
def execPlcRetire (slot : MbxIx) (s : State) : Answer :=
  runMailbox s slot 0xC4 fun a s =>
    let kind := fieldAt a 0x10 1
    let u := fieldAt a 0x11 1
    let d := fieldAt a 0x12 1
    let b := fieldAt a 0x13 1
    if kind = 1 then
      if h : u < 36 then respond (retirePan s ⟨u, h⟩ 3) slot 0 [] else respond s slot 0xA2 []
    else if h : kind = 0 ∧ u < 12 ∧ d < 16 ∧ b < 256 then
      respond (retireBank s { stack := ⟨u, h.2.1⟩, die := ⟨d, h.2.2.1⟩, bank := ⟨b, h.2.2.2⟩ } 3) slot 0 []
    else respond s slot 0xA2 []

end Sys2Proof.Machine
end

