-- ==== Sys2Proof/Machine/Tides.lean ====
section
/-! DEFINITION. Tides (R13 to R18, R20, R29, R31, R43, R48), halted tenants, the slice table (R36 to R38), and what the
placer does at a boundary tick (R393, R396 to R398, R401). -/

namespace Sys2Proof.Machine

/-! ### Mirror records (R381) -/

/-- Gates as a snapshot lays them out (R315). -/
def gateBytes (g : GateSt) : List Byte :=
  leBytes 8 (gateCfg g).toNat ++ leBytes 8 (gateGen g).toNat ++ leBytes 8 (gateArr g).toNat ++ leBytes 8 0

/-- The body of a record behind its CRC: lanes, streams, tallies and gates of the tenant. -/
def mirrorTail (s : State) (t : TenIx) : List Byte :=
  let x := tenOf s t
  ((List.finRange 64).flatMap fun n =>
      leBytes 4 (if (laneOf s n).valid && (laneOf s n).owner.toNat == t.val then (laneOf s n).done.toNat else 0)) ++
    (x.streams.flatMap fun y => leBytes 8 y.made.toNat) ++
    ((List.range x.img.tallies).flatMap fun i =>
      let k := x.bind.tlyBase + i
      leBytes 8 (tallyWord (tabGet Tally.reset s.sync.tallies k) (waitersOn s.sync.waiters s.sync.coreWaits s.sync.entries k)).toNat) ++
    ((List.range x.img.gates.length).flatMap fun i => gateBytes (tabGet GateSt.reset s.sync.gates (x.bind.gateBase + i)))

/-- The tide that closes; before the first tide, the number in front of 0, so that TIDE + 1 is the first (R387). -/
def Tenant.closing (x : Tenant) : Dword := if x.begun then x.tide else BitVec.ofNat 64 (2 ^ 64 - 1)

/-- The mirror record of a tenant whose tide `tide` closes in gear `gear`, the next tide running `body` (R381). -/
def mirrorRecord (s : State) (t : TenIx) (body : Nat) : List Byte :=
  let x := tenOf s t
  let head := leBytes 4 0x5252494D ++ leBytes 1 t.val ++ leBytes 1 x.gear.toNat ++ leBytes 2 x.streams.length ++
    leBytes 8 (x.closing).toNat ++ leBytes 4 body ++ leBytes 4 x.mirrorBytes.toNat ++ padTo 0 32 x.digest ++ leBytes 4 0
  let tail := mirrorTail s t
  head ++ leBytes 4 (crc32 (head ++ leBytes 4 0 ++ tail)).toNat ++ tail

/-- The tenant is mirrored by this primary (R380). -/
def mirroredHere (s : State) (t : TenIx) : Bool := s.mir.role == .primary && s.mir.tenants.getLsbD t.val

/-- Send the record of a mirror point that closes: one more to be acknowledged (R381, R383). -/
def sendRecord (s : State) (t : TenIx) (body : Nat) : State :=
  let s1 := sendStream s [.mirrorRecord t (mirrorRecord s t body)]
  modTen { s1 with mir := { s1.mir with unacked := s1.mir.unacked ++ [(t, (tenOf s t).closing)] } } t fun x =>
    { x with lag := satAdd x.lag 1, mirrorBytes := 0 }

/-! ### The end of a tide -/

/-- Cycles counted for an operation that runs up to cycle `last`, less those behind a boundary tick. -/
def cutCycles (n : Word) (last tick : Dword) : Word := n - BitVec.ofNat 32 (last.toNat - 2 * tick.toNat)

/-- Per-tide counts of a pan move to their LAST and MAX fields (R102, R133, R186); of an operation in flight only the cycles
before the tick count. -/
def Pan.endTide (x0 : Pan) (tick : Dword) : Pan :=
  let x : Pan :=
    { x0 with mmaBusyNow := cutCycles x0.mmaBusyNow x0.mmaUntil tick, echBusyNow := cutCycles x0.echBusyNow x0.echUntil tick,
              mmaUntil := 0, echUntil := 0 }
  let busy : Word := if x.chan.cur.isSome && x.chan.state == .active then (x.chan.addBusy tick).busyNow else x.chan.busyNow
  { x with
    mmaBusyLast := x.mmaBusyNow, mmaBusyMax := maxU x.mmaBusyMax x.mmaBusyNow, mmaBusyNow := 0,
    echBusyLast := x.echBusyNow, echBusyMax := maxU x.echBusyMax x.echBusyNow, echBusyNow := 0,
    chan := { x.chan with bytes := x.chan.bytesNow, bytesNow := 0, busyLast := busy,
                          busyMax := maxU x.chan.busyMax busy, busyNow := 0,
                          startTick := tick } }

/-- Change every pan that a tenant is bound to. -/
def modPans (s : State) (t : TenIx) (f : Pan → Pan) : State := (tenOf s t).lpans.foldl (fun r lp => modPan r lp.2 f) s

/-- A pond stream table of the current gear and body that has not completed; a completed one stands one past its end. -/
def Tenant.openTable (x : Tenant) : Option PlanTable :=
  ((List.range x.img.plan.length).filterMap fun i => (x.img.plan[i]?).map fun p => (i, p)).findSome? fun ip =>
    if ip.2.gear == x.gear && ip.2.body == x.body && tabGet 0 x.planPos ip.1 != ip.2.items.length + 1 then some ip.2 else none

/-- Logical slot of the first unit that has not finished its body: a logical pan, or 32 and the number of a
pond group (R20; log entry 150). -/
def lateSlot (s : State) (t : TenIx) : Option Byte :=
  match (tenOf s t).lpans.find? fun lp => (panOf s lp.2).state != .ended with
  | some lp => some (BitVec.ofNat 8 lp.1.val)
  | none => (tenOf s t).openTable.map fun p => BitVec.ofNat 8 (32 + p.group)

/-- A pan of a halted tenant stops (R20). A trapped pan stays TRAPPED, a halted channel HALTED (R182). -/
def Pan.stop (x : Pan) : Pan :=
  { x.emptied with
    state := if x.state == .trapped then .trapped else .off,
    chan := { x.chan with queue := [], cur := none, lost := [], privSrc := [], privDst := [], refused := none, mirrored := [],
                          state := if x.chan.state == .halted then .halted else .idle } }

/-- Copies outstanding at a halt and CPYs issued after it (R182). -/
def PanChan.abandoned (c : PanChan) : Nat := if c.state == .halted then c.lost.length + (if c.cur.isSome then 1 else 0) else 0

/-- One ERR_COPY_ABANDON entry for each halted channel (R182). -/
def logAbandoned (s : State) (t : TenIx) : State :=
  (tenOf s t).lpans.foldl
    (fun r lp =>
      let n := (panOf s lp.2).chan.abandoned
      if n = 0 then r else logEvent r 0x41 (BitVec.ofNat 8 lp.1.val :: leBytes 2 n) (some t))
    s

/-- A tenant's waits, gate arrivals and entry condition leave the store. -/
def dropWaits (s : State) (t : TenIx) : State :=
  { s with sync :=
      { s.sync with waiters := s.sync.waiters.filter fun w => w.tenant != t,
                    gwaiters := s.sync.gwaiters.filter fun w => w.tenant != t,
                    panArrive := s.sync.panArrive.filter fun w => w.tenant != t,
                    entries := s.sync.entries.filter fun e => e.1 != t } }

/-- What a tenant's copies in progress have written to mirrored regions goes out as they end unfinished (R381). -/
def sendUnfinished (s : State) (t : TenIx) : State :=
  (tenOf s t).lpans.foldl (fun r lp => sendMirrored r t (panOf s lp.2).chan.mirrored) s

/-- HALTED: all units stop, regions and partitions stay, the gear request is discarded, the code is logged with the body and
the slot, and for a refused copy with its channel (R20, R43, R150). The entry's notice in HOST_EVQ, with its MSI-X message, is
the report to the host (DESIGN CHOICE, log entry 205). -/
def haltTenant (s : State) (t : TenIx) (code slot : Byte) : State :=
  let chan : List Byte := match (tenOf s t).haltUnit with | some l => [BitVec.ofNat 8 l.val] | none => []
  let s1 := logEvent s code (leBytes 2 (tenOf s t).body ++ [slot] ++ chan) (some t)
  modTen (modPans (dropWaits (logAbandoned (sendUnfinished s1 t) t) t) t Pan.stop) t fun x =>
    { x with state := .halted, haltCode := none, haltUnit := none, inTide := false, nextGear := x.gear, commitGear := x.gear, trims := [],
             newBudget := none }

/-- The logical slot that a halt's entry names: that of a refused copy (R150), else the late unit's (R20). -/
def Tenant.haltSlot (x : Tenant) (late : Option Byte) : Byte :=
  match x.haltUnit with | some l => BitVec.ofNat 8 l.val | none => late.getD 0xFF

/-- The tide in progress ends: a tenant with a unit that has not finished, or that a rule halts at its boundary, enters
HALTED; a mirror point sends its record. DESIGN CHOICE (log entry 151): where a tenant both overruns and carries the code of
another rule, that code alone is logged, since it names the cause; the slot logged is that of the refused copy's pan, else of the
late unit. -/
def closeTide (s : State) (t : TenIx) : State :=
  let x := tenOf s t
  if !x.inTide then
    match x.haltCode with
    | some c => haltTenant s t c (x.haltSlot none)
    | none => s
  else
    match x.haltCode, (if x.idleNow then none else lateSlot s t) with
    | none, none =>
      let point := mirroredHere s t && !x.idleNow && x.img.mirrorPoint.getD x.body false
      let next := ((x.tide + 1 - (if x.idleNow then x.idle + 1 else x.idle)).toNat) % (max 1 x.bodyCount)
      modTen (if point then sendRecord (modPans s t fun p => p.endTide s.tick) t next else modPans s t fun p => p.endTide s.tick) t fun y =>
        { y with inTide := false, idle := if y.idleNow then y.idle + 1 else y.idle }
    | c, l => haltTenant (modPans s t fun p => p.endTide s.tick) t (c.getD 0x1A) (x.haltSlot l)

/-! ### Quiesce (R43, R367, R388, R406) -/

/-- A quiesced tenant starts a new run of its grid once nothing holds it (R369, R406, R408). -/
def resumeTenant (s : State) (t : TenIx) : State :=
  if (tenOf s t).state == .quiesced && !(tenOf s t).quiesceDue then
    modTen s t fun x =>
      { x with state := if entryRuns s t && !s.slice.turnover then .running else .slicedOut, anchor := s.tick }
  else s

/-! ### What the placer binds at a boundary tick -/

def takeBudget (s : State) (t : TenIx) : State :=
  match (tenOf s t).newBudget with
  | none => s
  | some (b, m, sh) =>
    let before := (tenOf s t).dramUse
    let s1 := modTen s t fun x => { x with budget := b, minBudget := m, shrink := sh, newBudget := none }
    refillReserve s1 (before - (tenOf s1 t).dramUse)

/-- Change the block list of a sequence slot's region, whose limit follows (R136). -/
def Tenant.modBlocks (x : Tenant) (region : Nat) (f : List BlockPlace → List BlockPlace) : Tenant :=
  let one : Region → Region := fun r =>
    match r.place with
    | .blocks bb bs => { r with place := .blocks bb (f bs), limit := bb * (f bs).length }
    | _ => r
  { x with regions := mapNth one region x.regions }

/-- Trims keep the first blocks of every pair (R398). -/
def takeTrims (s : State) (t : TenIx) : State :=
  modTen s t fun x =>
    x.trims.foldl
      (fun y kn =>
        match y.slots[kn.1]? with
        | none => y
        | some z =>
          let keep := min kn.2 z.blocks
          { y.modBlocks z.req.region (fun bs => bs.take (keep * z.req.pairs)) with
            slots := mapNth (fun w => { w with blocks := keep }) kn.1 y.slots })
      { x with trims := [] }

/-- A copied move takes its binding (R401); banks move together, by bindBanks. -/
def bindMove (s : State) (t : TenIx) (m : MoveWhat) : State :=
  match m with
  | .pan a b =>
    let x := panOf s a
    let s1 := modTen s t fun y =>
      { y with bind := { y.bind with pans := y.bind.pans.map fun p => if p = a then b else p } }
    match x.tenant, x.lpan with
    | some u, some l =>
      if u = t then
        let s2 := modPan s1 b fun y => (y.bindTo t l (tenOf s1 t) (quadOfPan b)).putKept x.kept
        refreshSpares (modPan s2 a fun y => { y.unbind with degraded := false })
      else s1
    | _, _ => s1
  | .bank _ _ => s
  | .spare b j => mapSpare (prepareBanks s [b]) b j true

/-- A move that binds now: its copy is complete, and, where it writes the spare map, no command runs or is held on the bank and no
queued write of it must wait; the banks that leave one die bind together (R225, R401). -/
def moveBinds (s : State) (x : Tenant) (m : Move) : Bool :=
  m.copied &&
    match m.what with
    | .spare b _ => unitIdle s b && !drainWaits s [b]
    | .bank a _ => x.moves.all fun n =>
      match n.what with | .bank c _ => n.copied || c.stack != a.stack || c.die != a.die | _ => true
    | .pan _ _ => true

/-- The moves of banks among these. -/
def bankPairs (ms : List Move) : List (BankIx × BankIx) :=
  ms.filterMap fun m => match m.what with | .bank a b => some (a, b) | _ => none

/-- Banks that have moved from one die take their places in the regions and pond groups of a tenant; what no tenant uses any
more refills the growth reserve (R24, R398, R401). -/
def bindBanks (s : State) (t : TenIx) (ms : List (BankIx × BankIx)) : State :=
  let s1 := modTen s t fun y => y.moved ms
  refillReserve s1 (bankBytes * (ms.filter fun m => !bankGone s1 m.1 && (tenantsOfBanks s1 [m.1]).isEmpty).length)

/-- The moves that bind at a boundary tick, banks die by die (R401). -/
def bindMoves (s : State) (t : TenIx) : State :=
  let due := (tenOf s t).moves.filter (moveBinds s (tenOf s t))
  let pairs := bankPairs due
  let s1 := ((pairs.map fun m => (m.1.stack, m.1.die)).dedup).foldl
    (fun r d => bindBanks r t (pairs.filter fun m => m.1.stack == d.1 && m.1.die == d.2)) s
  modTen (due.foldl (fun r m => bindMove r t m.what) s1) t fun x =>
    { x with moves := x.moves.filter fun m => !moveBinds s (tenOf s t) m }

/-- The dies of new blocks join a pond group as its next members, where they are none of it yet (R234, R396). -/
def joinDies (members : List (List MemberPlace)) (group : Nat) (new : List BlockPlace) : List (List MemberPlace) :=
  new.foldl
    (fun ms b =>
      if (groupDies ms group).contains (b.at_.stack, b.at_.die) then ms
      else mapNth (fun g => g ++ [{ stack := b.at_.stack, die := b.at_.die, banks := [] }]) group ms)
    members

/-- The tenant with new blocks bound in a region, their dies in its pond group. -/
def Tenant.grown (x : Tenant) (region group : Nat) (new : List BlockPlace) : Tenant :=
  { x.modBlocks region (· ++ new) with bind := { x.bind with members := joinDies x.bind.members group new } }

/-- Blocks that a growth may bind: in free banks of fit dies that R229 allows, within the shares of R35 (R394, R397). -/
def growSound (s : State) (t : TenIx) (region group : Nat) (new : List BlockPlace) : Bool :=
  let x := tenOf s t
  let y := x.grown region group new
  let ps : List Place := y.regions.map fun r => r.place
  match ps[region]? with
  | some (.blocks bb bs) =>
    placeSound s (.blocks bb new) && apart ps && slotsSound x.img y.bind.members ps && !bs.isEmpty &&
      ((liveTenants s).all fun u => u == t || clearOf [.blocks bb new] ((tenOf s u).regions.map fun r => r.place)) &&
      clearOf [.blocks bb new] (systemPlaces s ++ moveTargets s) && sharesSound (setTen s t y)
  | _ => false

/-- Dies that the next block of a pair may lie on, each with the lowest bank (R228, R229): the die of its last block, above that
block's bank, while the run has room; else a later member, or a die that joins the group. -/
def nextDies (x : Tenant) (z : SeqSlot) (last : BlockPlace) : List (StackIx × DieIx × Nat) :=
  let here := (last.at_.stack, last.at_.die)
  let ds := groupDies x.bind.members z.req.group
  if z.blocks % max 1 z.req.run ≠ 0 then [(here.1, here.2, last.at_.bank.val + 1)]
  else (ds.drop (ds.idxOf here + 1) ++ everyDie.filter fun d => !ds.contains d).map fun d => (d.1, d.2, 0)

/-- Columns at which a block may begin in a bank, from the first on: the bank's first one and those behind what lies there. A
block that fits anywhere between two extents fits at the end of the earlier one. -/
def firstColumns (b : BankIx) (taken : List Place) : List Nat :=
  sortBy id (0 :: taken.flatMap fun p =>
    match p with
    | .blocks bb bs => (bs.filter fun x => x.at_ == b).map fun x => x.l0 + bb / 32
    | .interleave _ r n _ => if placeHolds b p then [32 * (r + n)] else []
    | _ => [])

/-- The first block of some size that fits on these dies, clear of the given places (R394, R397). -/
def firstBlock (s : State) (bb : Nat) (dies : List (StackIx × DieIx × Nat)) (taken : List Place) : Option BlockPlace :=
  dies.findSome? fun d => (List.finRange 256).findSome? fun j =>
    let b : BankIx := { stack := d.1, die := d.2.1, bank := j }
    if j.val < d.2.2 || !bankFit s b then none
    else (firstColumns b taken).findSome? fun l =>
      let y : BlockPlace := { at_ := b, l0 := l }
      if placeSound s (.blocks bb [y]) && clearOf [.blocks bb [y]] taken then some y else none

/-- Dies on which the tenant may take part within the shares of R35. -/
def shareDies (s : State) (t : TenIx) (group : Nat) (dies : List (StackIx × DieIx × Nat)) : List (StackIx × DieIx × Nat) :=
  let x := tenOf s t
  dies.filter fun d => x.dies.contains (d.1, d.2.1) ||
    sharesSound (setTen s t { x with bind := { x.bind with
      members := joinDies x.bind.members group [{ at_ := { stack := d.1, die := d.2.1, bank := 0 }, l0 := 0 }] } })

/-- One block for every pair of a slot, the first that fits taken for each in turn: the placer's own choice, where the command
gives none that the rules allow (DESIGN CHOICE, log entry 198). -/
def firstGrowth (s : State) (t : TenIx) (z : SeqSlot) : Option (List BlockPlace) :=
  let x := tenOf s t
  let region := x.regions.getD z.req.region { limit := 0, place := .host 0, mirrored := false, map := [] }
  match region.place with
  | .blocks bb bs =>
    let held := ((liveTenants s).flatMap fun u => (tenOf s u).regions.map (·.place)) ++ systemPlaces s ++ moveTargets s
    let new := (List.range z.req.pairs).foldl
      (fun (r : Option (List BlockPlace)) p => r.bind fun l =>
        (bs[(z.blocks - 1) * z.req.pairs + p]?).bind fun last =>
          (firstBlock s bb (shareDies s t z.req.group (nextDies x z last)) (.blocks bb l :: held)).map fun b => l ++ [b]) (some [])
    new.filter (growSound s t z.req.region z.req.group)
  | _ => none

/-- The blocks that a growth binds: those that the command gives, where the rules allow them, else the placer's own. -/
def growBlocks (s : State) (t : TenIx) (z : SeqSlot) (given : List BlockPlace) : Option (List BlockPlace) :=
  if given.length = z.req.pairs ∧ growSound s t z.req.region z.req.group given then some given else firstGrowth s t z

/-- Bind one block to every pair of slot k, whose growth was decided at an earlier boundary: one unit of the tenant's reservation
is used. A growth beyond BUDGET, which may have been lowered since, or without room is refused (R396, R397). -/
def bindSlot (s : State) (t : TenIx) (k : Nat) (z : SeqSlot) (given : List BlockPlace) : State :=
  let x := tenOf s t
  let done (r : State) (n : Nat) : State := modTen r t fun x =>
    { x with slots := mapNth (fun w => { w with due := false, blocks := w.blocks + n }) k x.slots }
  match (if x.budget < x.placed + 1 then none else growBlocks s t z given) with
  | some new => done (modTen s t fun x => x.grown z.req.region z.req.group new) 1
  | none => logEvent (done s 0) 0xC1 (leBytes 2 k) (some t)

/-- The growths that are due, in slot order, each with the blocks that the command gives for it. -/
def bindGrowth (s : State) (t : TenIx) (grow : List BlockPlace) : State :=
  ((List.range (tenOf s t).slots.length).foldl
    (fun (q : State × List BlockPlace) k =>
      match (tenOf q.1 t).slots[k]? with
      | none => q
      | some z => if !z.due then q else (bindSlot q.1 t k z (q.2.take z.req.pairs), q.2.drop z.req.pairs))
    (s, grow)).1

/-- Decide growths from the largest LEN read (R396); beyond BUDGET they are refused (R397). -/
def decideGrowth (s : State) (t : TenIx) : State :=
  (List.range (tenOf s t).slots.length).foldl
    (fun r k =>
      match (tenOf r t).slots[k]? with
      | none => r
      | some z =>
        let set (q : State) (due : Bool) : State := modTen q t fun x =>
          { x with slots := mapNth (fun w => { w with due := due, maxLen := none }) k x.slots }
        match z.maxLen with
        | none => r
        | some l =>
          if z.due || decide (l < (z.blocks - 1) * z.req.ptok) then set r z.due
          else if (tenOf r t).budget < (tenOf r t).placed + ((tenOf r t).slots.filter (·.due)).length + 1 then
            logEvent (set r false) 0xC1 (leBytes 2 k) (some t)
          else set r true)
    s

/-- The placer's part of a boundary tick. A growth waits for the next boundary where a move is bound (R408). -/
def placerBoundary (s : State) (t : TenIx) (grow : List BlockPlace) : State :=
  let moved := (tenOf s t).moves.any (·.copied)
  let s1 := retryDegraded (bindMoves (takeTrims (takeBudget s t) t) t)
  decideGrowth (if moved then s1 else bindGrowth s1 t grow) t

/-! ### Gears at a boundary tick -/

def hottest (s : State) : Half :=
  (List.range 12).foldl (fun (m : Half) k => if m.toInt < (tabGet 0 s.sen.stack k).toInt then tabGet 0 s.sen.stack k else m)
    (tabGet 0 s.sen.stack 0)

/-- ERR_GOV_GEAR: old and new gear, P in mW, hottest stack (R406); CHANGES counts it (R414). -/
def logGear (s : State) (t : TenIx) (old new : BitVec 3) : State :=
  logEvent { s with gov := { s.gov with changes := satAdd s.gov.changes 1 } } 0xC4
    ([BitVec.ofNat 8 old.toNat, BitVec.ofNat 8 new.toNat] ++ leBytes 4 s.gov.power.toNat ++ leBytes 2 (hottest s).toNat)
    (some t)

/-- The committed gear takes effect at the boundary tick, once its memory clock is in use (R29, R31, R43). -/
def enterGear (s : State) (t : TenIx) : State :=
  let x := tenOf s t
  match gearNo x x.commitGear with
  | none => s
  | some g =>
    if x.shift || x.commitGear == x.gear || !allAtClock s t g.memClk then s
    else logGear (modTen s t fun y => { y with gear := y.commitGear }) t x.gear x.commitGear

/-! ### Idle causes (R16, R17, R362, R383, R401, R407) -/

def harvestRoom (s : State) (t : TenIx) : Bool :=
  ((tenOf s t).streams.all fun y => decide (y.tides.length + y.req.perTide ≤ y.req.slots)) &&
    decide (replayUsed s + ((tenOf s t).streams.map fun y => y.req.perTide * y.req.recsz).sum ≤ replaySize)

def throttleDue (s : State) (t : TenIx) : Bool :=
  s.gov.depth != 0 && decide (s.gov.depth.toNat ≤ (tenOf s t).sinceThrottle)

def mirrorHeld (s : State) (t : TenIx) : Bool := mirroredHere s t && decide (s.mir.lagmax.toNat ≤ (tenOf s t).lag.toNat)

/-- Record a tide without harvest room (R362). -/
def noteNoRoom (s : State) (t : TenIx) : State :=
  let s1 := { s with host := { s.host with storeStalls := satAdd s.host.storeStalls 1 } }
  if (tenOf s t).storeFull then s1
  else modTen (logEvent s1 0xA7 [] (some t)) t fun x => { x with storeFull := true }

/-- Record a throttled tide: the first logs ERR_GOV_CAP (R407). -/
def noteThrottle (s : State) (t : TenIx) : State :=
  let s1 := modTen s t fun x => { x with sinceThrottle := 0 }
  if s.gov.throttledLogged then s1
  else logEvent { s1 with gov := { s1.gov with throttledLogged := true } } 0xC5 [] (some t)

/-- The causes other than the entry condition; each is recorded, and one idle tide serves all (R17, R408). -/
def otherCauses (s : State) (t : TenIx) : State × Bool :=
  let room := harvestRoom s t
  let thr := throttleDue s t
  let idle := (tenOf s t).shift || !(tenOf s t).moves.isEmpty || !room || thr || mirrorHeld s t
  let s1 := if room then s else noteNoRoom s t
  (if thr then noteThrottle s1 t else s1, idle)

/-- The entry-condition tally of a body. -/
def Tenant.entryTally (x : Tenant) (body : Nat) : Option TlyIx :=
  (x.img.entry.getD body none).map fun f => ⟨(x.bind.tlyBase + f.toNat) % 4096, by omega⟩

/-- Read the entry condition once: met, it takes one count; unmet, the tenant is listed as waiting (R17, R316). -/
def testEntry (s : State) (t : TenIx) (body : Nat) : State × Bool :=
  match (tenOf s t).entryTally body with
  | none => (s, true)
  | some g =>
    let x := tallyOf s g
    let s1 := { s with sync := { s.sync with entries := s.sync.entries.filter fun e => e.1 != t } }
    if x.value = 0 then
      (if s.sync.entries.any fun e => e.1 == t then s
       else { s with sync := { s.sync with entries := s.sync.entries ++ [(t, g, s.tick)] } }, false)
    else (setTally s1 g.val { x with value := x.value - 1, hand := false }, true)

/-! ### The start of a body (R48) -/

/-- What every boundary tick resets in a pan (R48). A VLD still outstanding returns later, and so does a load that met an
uncorrectable word; the register of another LD is reset (DESIGN CHOICE, log entry 165). The recorded state of an empty B buffer
reads 0 (DESIGN CHOICE, log entry 185), and so do the captured scales (DESIGN CHOICE, log entry 184). -/
def Pan.resetAtBoundary (x : Pan) (tick : Dword) : Pan :=
  { x.emptied with
    g := [], y := [], fa := 0, fb := 0, sc := 0, sa := 0, sb := 0, ascale := [], ascaleCount := 0, ascalePtr := 0,
    acc := [], buf0 := BBuf.reset, buf1 := BBuf.reset, cw := [], cwValid := 0, stall := 0, boundaryTick := tick,
    loads := x.loads.filter fun l => l.vector || l.ue }

/-- A body starts in a pan, whose code lies at `base` (R48). -/
def Pan.resetForBody (x : Pan) (tick base : Dword) : Pan :=
  { x.resetAtBoundary tick with inBody := true, codeBase := base, state := if x.pauseReq then .paused else .run }

/-- Start one pan at the entry word of a body in the code of its gear, which begins at `base` (R32), or trap it before its
first bundle (R48). -/
def startPan (s : State) (p : PanIx) (base : Dword) (body : Nat) : State :=
  let s1 := modPan s p fun x => x.resetForBody s.tick base
  let x := panOf s1 p
  let a : Dword := x.codeBase + BitVec.ofNat 64 (8 * body)
  if outsidePan x a 8 then trapPan s1 p 3 0 a a false
  else
    let w := readWord s1 (sramKey p x a)
    let s2 := noteWord s1 0x20 (sramKey p x a) w x.tenant
    let e := alignDown w.d 4
    if w.check = .uncorrectable then trapPan s2 p 1 0 a a false
    else if outsidePan x e 16 then trapPan s2 p 3 0 a e false
    else modPan s2 p fun x => { x with pc := e }

/-- A boundary tick at which no body starts: the pans are reset as at every boundary tick, and no unit works (R16, R48). -/
def idlePans (s : State) (t : TenIx) : State :=
  modPans s t fun x => { x.resetAtBoundary s.tick with state := if x.state == .trapped then .trapped else .off }

/-- Number the next tide (R13). -/
def nextTide (s : State) (t : TenIx) : State :=
  modTen s t fun x =>
    { x with tide := if x.begun then x.tide + 1 else x.tide, begun := true, inTide := true, planPos := [], planTags := [],
             planFault := [], attn := [] }

/-- The next tide begins, idle or with body (n − i) mod N (R15 to R17). -/
def beginTide (s : State) (t : TenIx) : State :=
  let s1 := enterGear (nextTide s t) t
  let x := tenOf s1 t
  let body := (x.tide - x.idle).toNat % (max 1 x.bodyCount)
  let (s2, idle) := otherCauses s1 t
  let (s3, go) := if idle then (s2, false) else testEntry s2 t body
  if go then
    let s4 := modTen s3 t fun y =>
      { y with idleNow := false, body := body, storeFull := false,
               sinceThrottle := if s3.gov.depth = 0 then 0 else y.sinceThrottle + 1 }
    let base : Dword := BitVec.ofNat 64 ((tenOf s4 t).codeBase (tenOf s4 t).gear)
    (tenOf s4 t).lpans.foldl (fun r lp => startPan r lp.2 base body) s4
  else idlePans (modTen s3 t fun y => { y with idleNow := true, body := body }) t

def curEntry (s : State) : SliceEntry := s.slice.table.getD s.slice.cur noEntry

/-- The entry that follows, in the table in force. -/
def nextEntry (s : State) : SliceEntry :=
  s.slice.table.getD (if (curEntry s).last then 0 else s.slice.cur + 1) noEntry

/-- Ticks of one tide of a tenant (R13). -/
def Tenant.tideTicks (x : Tenant) : Nat := x.tideUs.toNat * 800

/-- A whole tide that begins now ends within the current entry. Only an entry that other tenants follow bounds a run; with the
same tenants the grid goes on without a turnover (R37; log entry 152). -/
def tideFits (s : State) (t : TenIx) : Bool :=
  s.slice.mask == (nextEntry s).mask &&& ~~~s.slice.barred ||
    decide (s.tick.toNat + (tenOf s t).tideTicks ≤ s.slice.begun.toNat + (curEntry s).lenUs.toNat * 800)

/-- BOUNDARY_TICK: signals of the tick count first (R18); then the tide in progress ends (R20), a quiesce takes precedence
(R43), the placer's bindings change, and the next tide begins (R14 to R17, R48), unless the entry has no room for a whole tide:
then the units are idle for the rest of the entry, and the tide number stands (R37). -/
def execBoundaryTick (t : TenIx) (grow : List BlockPlace) (s : State) : Answer :=
  if (tenOf s t).state != .running || bundleOpen s t then .next s
  else
    let s1 := closeTide (applySignals s) t
    if (tenOf s1 t).state == .halted then .next s1
    else if (tenOf s1 t).quiesceDue then .next (quiesceTenant s1 t)
    else if !tideFits s1 t then .next (idlePans (placerBoundary s1 t grow) t)
    else .next (beginTide (placerBoundary s1 t grow) t)

/-! ### COMMIT_TICK -/

/-- Memory clock of a gear. -/
def clockOf (x : Tenant) (n : BitVec 3) : Option Byte := (gearNo x n).map fun g => g.memClk

/-- COMMIT_TICK: the gear requested is committed for the next tide (R29, R43); a change of memory clock is committed once
every tenant on the stacks has a committed gear at the new clock (R31). While that change is on its way, a gear of another
clock is not committed: it stays requested (log entry 149). -/
def execCommitTick (t : TenIx) (s : State) : Answer :=
  let x := tenOf s t
  if x.state != .running && x.state != .slicedOut then .next s
  else if x.shift && clockOf x x.nextGear != clockOf x x.commitGear then .next s
  else
    let s1 := modTen s t fun y => { y with commitGear := y.nextGear }
    match gearNo x x.nextGear with
    | none => .next s1
    | some g =>
      let ks := tenantStacks s t
      if !x.shift && !allAtClock s1 t g.memClk && clockAgreed s1 t ks g.memClk then .next (commitClock s1 ks g.memClk)
      else .next s1

/-! ### The slice table (R36 to R38) -/

def tenantsOfMask (m : Half) : List TenIx := (List.finRange 16).filter fun t => m.getLsbD t.val

/-- Running tenants of a mask. -/
def runningOf (s : State) (m : Half) : List TenIx := (tenantsOfMask m).filter fun t => (tenOf s t).state == .running

/-- No tenant is within a tide: none in progress, or the tick is a boundary of its grid (R38). -/
def betweenTides (s : State) : Bool :=
  (List.finRange 16).all fun t =>
    let x := tenOf s t
    x.state != .running || !x.inTide || (s.tick - x.anchor).toNat % (max 1 x.tideTicks) == 0

/-- The table, entry and cycle count behind the current entry; a pending table is taken after LAST, between whole tides of
every tenant (R38). -/
def advanceSlice (x : SliceSt) (tick : Dword) (between : Bool) : SliceSt :=
  if (x.table.getD x.cur noEntry).last then
    { x with cur := 0, cycles := x.cycles + 1, begun := tick, table := if between then x.next.getD x.table else x.table,
             next := if between then none else x.next, barred := if between && x.next.isSome then 0 else x.barred }
  else { x with cur := x.cur + 1, begun := tick }

/-- Pseudo-channels of a tenant's pond groups: those of its members' banks and of its pond blocks. -/
def Tenant.pondPcs (x : Tenant) : List (StackIx × PcIx) :=
  let of (b : BankIx) : StackIx × PcIx := (b.stack, (bankSeg b).pc)
  ((x.bind.members.flatten.flatMap fun y => y.banks.map fun k => of { stack := y.stack, die := y.die, bank := k }) ++
    x.regions.flatMap fun r => (banksOfPlace r.place).map of).dedup

/-- A tenant leaves at a turnover: its registers, channels and pond modes are saved and its pans unbound (R38). -/
def leaveSlice (s : State) (t : TenIx) : State :=
  modTen (unbindPans s t) t fun x =>
    { x with state := if x.state == .running then .slicedOut else x.state,
             pondModes := x.pondPcs.filter fun q => (stackOf s q.1).pond.getLsbD q.2.val }

/-- A tenant arrives: its pans are bound and restored, and pond mode is entered for its pond groups, with what it had when it
left (R38, R196). -/
def arriveSlice (s : State) (t : TenIx) : State :=
  let x := tenOf s t
  (x.pondPcs ++ x.pondModes).dedup.foldl (fun r q => enterPond r q.1 q.2) (bindPans s t)

/-- The turnover interval begins: tenants that leave are saved, tenants that arrive are restored (R38). -/
def turnover (s : State) (old new : Half) : State :=
  let s1 := (tenantsOfMask (old &&& ~~~new)).foldl leaveSlice s
  let s2 := (tenantsOfMask (new &&& ~~~old)).foldl arriveSlice s1
  { s2 with slice := { s2.slice with turnover := true } }

/-- SLICE_ENTRY_END: the entry ends and the next begins, with a turnover interval where its tenants differ (R36 to R38). A
quiesce takes precedence, and no turnover starts (R43). -/
def execSliceEntryEnd (s : State) : Answer :=
  if s.slice.table.isEmpty || s.slice.turnover || (List.finRange 16).any (bundleOpen s) then .next s
  else
    let old := s.slice.mask
    let sl := advanceSlice s.slice s.tick (betweenTides s)
    let new := sl.mask
    if old = new then .next { s with slice := sl }
    else
      let s1 := (runningOf s old).foldl (fun r t => closeTide r t) (applySignals s)
      if (tenantsOfMask old).any fun t => (tenOf s1 t).quiesceDue then
        .next ((runningOf s1 old).foldl (fun r t => if (tenOf r t).quiesceDue then quiesceTenant r t else r) s1)
      else .next (turnover { s1 with slice := sl } old new)

/-- TURNOVER_END: the arriving tenants resume their grids at this tick (R37, R42). -/
def execTurnoverEnd (s : State) : Answer :=
  if !s.slice.turnover then .next s
  else
    let m := s.slice.mask
    let s1 := { s with slice := { s.slice with turnover := false, begun := s.tick } }
    .next ((tenantsOfMask m).foldl
      (fun r t => modTen r t fun x =>
        if x.state == .slicedOut || x.state == .running then { x with state := .running, anchor := s.tick } else x) s1)

end Sys2Proof.Machine
end

