-- ==== Sys2Proof/Machine/Host.lean ====
section
/-! DEFINITION. The host side: the queues that the host reads (R331 to R335), the ingest window (R345 to R351), the mailbox
commands of lanes, regions, signals, gates, dumps and resets (R355), attach and host loss (R364 to R370). -/

namespace Sys2Proof.Machine

def modHost (s : State) (f : HostSt → HostSt) : State := { s with host := f s.host }

/-! ### Software-visible queues -/

/-- A word as the host reads it: VALID, POISON, LAST, payload (R333). -/
def queueWord (w : Dword) (poison : Bool) : Dword :=
  flagTo true 63 ||| flagTo poison 62 ||| flagTo true 61 ||| (w &&& 0x1FFFFFFFFFFFFFFF#64)

/-- What a read of an empty queue returns (R334). -/
def idleWord (s : State) : Dword := if s.host.compat then 0xFFFFFFFFFFFFFFFF else 0

/-- The value of a read of HOST_RESPQ, and the card after it. -/
def readRespq (s : State) : Dword × State :=
  let e := s.host.respq.head 64
  if s.host.respq.empty then (idleWord s, s)
  else
    (queueWord e.word e.poisoned,
      drainNotices
        (notePoison (modHost s fun h => { h with respq := h.respq.pop 64 }) 0 (s.host.respq.rp % 64) e.poisoned))

def readEvq (s : State) : Dword × State :=
  let e := s.host.evq.head 256
  if s.host.evq.empty then (idleWord s, s)
  else
    (queueWord e.word e.poisoned,
      notePoison (modHost s fun h => { h with evq := h.evq.pop 256 }) 1 (s.host.evq.rp % 256) e.poisoned)

/-- HOST_RESPQ_READ (R333 to R335). -/
def execHostRespqRead (s : State) : Answer := .next (emit (readRespq s).2 [.readData (readRespq s).1])

/-- HOST_EVQ_READ (R333 to R335). -/
def execHostEvqRead (s : State) : Answer := .next (emit (readEvq s).2 [.readData (readEvq s).1])

/-- A flush of HOST_RESPQ takes effect, and is counted; stalled notices go in (R331, R326). -/
def flushResp (s : State) : State :=
  drainAllNotices (modHost (modQErr s 0 fun x => { x with flush := x.flush + 1 }) fun h => { h with respq := h.respq.flush })

/-- A flush of HOST_EVQ takes effect, and is counted (R331). -/
def flushEv (s : State) : State :=
  modHost (modQErr s 1 fun x => { x with flush := x.flush + 1 }) fun h => { h with evq := h.evq.flush }

/-- FLUSH_RESP: a flush of instance 0 is requested; with no packet in progress it takes effect at once (R331, R339). -/
def execFlushResp (s : State) : Answer :=
  if s.host.respq.wp = s.host.respq.cp then .next (flushResp s)
  else .next (modHost s fun h => { h with respq := { h.respq with flushReq := true } })

/-- FLUSH_EV: a flush of instance 1 is requested; with no packet in progress it takes effect at once (R331, R339). -/
def execFlushEv (s : State) : Answer :=
  if s.host.evq.wp = s.host.evq.cp then .next (flushEv s)
  else .next (modHost s fun h => { h with evq := { h.evq with flushReq := true } })

/-- QUEUE_FLUSH_EFFECT: a flush that is pending takes effect once no packet is in progress (R331). -/
def execQueueFlushEffect (ev : Bool) (s : State) : Answer :=
  let q := if ev then s.host.evq else s.host.respq
  if !q.flushReq || q.wp != q.cp then .next s else .next (if ev then flushEv s else flushResp s)

/-! ### The ingest window -/

/-- Count drops on a lane while unbound, and open its 1 ms window (R347). -/
def Lane.dropUnbound (l : Lane) (tick : Dword) : Lane :=
  { l with unbound := satAdd l.unbound 1,
           winUnbound := match l.winUnbound with | none => some (tick, 1) | some (t0, c) => some (t0, c + 1) }

def Lane.dropOob (l : Lane) (tick : Dword) (n : Nat) : Lane :=
  if n = 0 then l
  else
    { l with oob := satAdd l.oob n,
             winOob := match l.winOob with | none => some (tick, n) | some (t0, c) => some (t0, c + n) }

/-- The region that a lane names, as its owner sees it (R346). -/
def laneView (s : State) (l : Lane) : Option RegView := regionView s (ownerTenant l.owner) 0 l.region

/-- Bytes that one write may put into a lane: those below LIMIT and below the region's limit (R347). -/
def laneTakes (l : Lane) (limit off : Nat) : Bool := decide (off < l.limit.toNat) && decide (l.off.toNat + off < limit)

/-- Staging buffer of a lane: 4 MiB (R345). -/
def stagingSize : Nat := 2 ^ 22

/-- Offset in region 0x8000 of position `i` of a lane's staging buffer, which is filled round and round (DESIGN CHOICE, log entry
195). -/
def stageOff (lane : LaneIx) (i : Nat) : Nat := stagingSize * lane.val + i % stagingSize

/-- Put bytes into a lane's staging buffer from a position on (R345). -/
def stageBytes (s : State) (lane : LaneIx) (i : Nat) (bs : List Byte) : State :=
  let n := stagingSize - i % stagingSize
  let put (r : State) (i : Nat) (xs : List Byte) : State :=
    if xs.isEmpty then r else (putBytes r (stagingLoc (stageOff lane i)) xs none).1
  put (put s i (bs.take n)) (i + n) (bs.drop n)

/-- The quadrant that holds a lane's staging buffer is under self-test (R345, R450). -/
def laneTested (s : State) (lane : LaneIx) : Bool := testing s (.qsr ⟨lane.val / 16, by omega⟩)

/-- INGEST_WRITE: the bytes are staged for the region, dropped beyond the limits, or dropped on an unbound lane; the write
waits while the staging buffer has no room for it, or its quadrant is under self-test (R347, R350, R450). -/
def execIngestWrite (lane : LaneIx) (off : BitVec 26) (data : List Byte) (s : State) : Answer :=
  let l := laneOf s lane
  if !l.valid then .next (modLane s lane fun l => l.dropUnbound s.tick)
  else
    let limit := match laneView s l with | some v => v.limit | none => 0
    let given : List (Nat × Byte) := (List.range data.length).map fun i => (off.toNat + i, data.getD i 0)
    let kept := given.filter fun a => laneTakes l limit a.1
    if stagingSize < l.staged.length + kept.length || laneTested s lane then .next s
    else
      .next (modLane (stageBytes s lane (l.stageAt + l.staged.length) (kept.map (·.2))) lane fun l =>
        ({ l with staged := l.staged ++ kept.map fun (a : Nat × Byte) => l.off.toNat + a.1 }).dropOob s.tick (data.length - kept.length))

/-- BAR2_READ: completes with zeros and is counted (R347). -/
def execBar2Read (_lane : LaneIx) (_off : BitVec 26) (s : State) : Answer :=
  .next (emit (modHost s fun h => { h with bar2Rd := satAdd h.bar2Rd 1 }) [.readData 0])

/-- INGEST_DOORBELL: rung, which wakes Rilef (R325), or dropped and counted on an unbound lane; it waits while the doorbell
queue is full or its consumer is held in reset (R336, R337, R348). -/
def execIngestDoorbell (lane : LaneIx) (token : Word) (s : State) : Answer :=
  if !(laneOf s lane).valid then .next (modLane s lane fun l => l.dropUnbound s.tick)
  else if s.rst.coreHeld || (queueOf s 3).full 256 then .next s
  else
    .next (queueSend (modLane s lane fun l => { l with bells := l.bells ++ [(token, l.staged.length)] }) 3
      [[BitVec.ofNat 64 lane.val]] none)

/-- The channel that drains a lane: SCH0 to SCH3 (R347). -/
def laneChan (lane : LaneIx) : SchIx := ⟨lane.val / 16, by omega⟩

/-- The staging region as SCH0 to SCH3 read it (R345). -/
def stagingView : RegView := { view := .staging, limit := 2 ^ 28, mirrored := false, map := [] }

/-- Move the first `n` staged bytes of a lane into its region in arrival order (R347); a narrow write merges (R282), and an
uncorrectable staged word halts the channel (R181). -/
def drainMover (s : State) (lane : LaneIx) (l : Lane) (v : RegView) (n : Nat) : Mover :=
  ((l.staged.take n).zipIdx.foldl
    (fun m b =>
      if m.stopped then m
      else
        let at_ := stageOff lane (l.stageAt + b.2)
        let r := m.read 8 { region := 0x8000, view := stagingView, byte := at_, hi := false, off := at_ }
        if r.1.stopped then r.1 else r.1.write 8 { region := l.region, view := v, byte := b.1, hi := false, off := b.1 } r.2)
    (Mover.start s (ownerTenant l.owner) (.sys (laneChan lane)))).finish

/-- The request that a lane's drain stands for when it halts its channel. -/
def drainReq (lane : LaneIx) (l : Lane) : SysReq :=
  { tenant := ownerTenant l.owner, lpan := 0, srcRegion := 0x8000, srcOff := stageOff lane l.stageAt, dstRegion := l.region,
    dstOff := l.off.toNat, list := none, action := .none, parityBad := false }

/-- Drain the first `n` staged bytes of a lane; answers the card and whether all reached the region, or, while an access must
wait, the card that waits. An uncorrectable word halts the channel (R181, R283), and the rest of what was to be drained is
lost. -/
def drainLane (s : State) (lane : LaneIx) (n : Nat) : Except Mover (State × Bool) :=
  let l := laneOf s lane
  let took (r : State) (lost : Bool) : State := modLane r lane fun x =>
    { x with staged := x.staged.drop n, stageAt := (x.stageAt + min n x.staged.length) % stagingSize,
             bells := x.bells.map fun b => (b.1, b.2 - n), lost := x.lost || lost }
  match laneView s l with
  | none => .ok (took s false, true)
  | some v =>
    let m := drainMover s lane l v n
    if m.blocked then .error m
    else
      let s1 := countSch (took m.s m.halt.isSome) (laneChan lane) (m.bits / 8)
      let s2 := match ownerTenant l.owner with | some t => sendMirrored s1 t m.wrote | none => s1
      match m.halt with
      | none => .ok (s2, true)
      | some h => .ok (haltSch s2 (laneChan lane) (drainReq lane l) h.region h.off, false)

/-- Doorbells are rung of which instance 3 holds no word, since a host loss cleared it: Rilef finds them by their flags (R336,
R337, R366, R370; DEDUCED, log entry 212). -/
def bellsByFlag (s : State) : Bool :=
  decide ((queueOf s 3).count 256 < ((List.finRange 64).map fun n => (laneOf s n).bells.length).sum)

/-- Rilef sees a doorbell to serve (R335). -/
def bellSeen (s : State) : Bool := bellsByFlag s || !(queueOf s 3).empty

/-- Serve a lane: drain what came before its oldest doorbell, then signal the tally by 1, once every byte before it is complete
(R348). Without a doorbell, drain what is staged: the drain never waits on the host (R350). It waits while the channel takes
no work. -/
def serveBell (s : State) (lane : LaneIx) : State :=
  let l := laneOf s lane
  if chanBusy s (laneChan lane) || laneTested s lane then s
  else
    match l.bells with
    | [] => if l.staged.isEmpty then s else match drainLane s lane l.staged.length with | .ok d => d.1 | .error m => m.wait s
    | (token, n) :: _ =>
      if !bellSeen s then s
      else
      match drainLane s lane n with
      | .error m => m.wait s
      | .ok d =>
        let s0 := modLane d.1 lane fun x => { x with bells := x.bells.drop 1 }
        let s1 := if bellsByFlag s then s0 else queueTake s0 3 1
        if d.2 && !l.lost then
          let s2 := modLane s1 lane fun x => { x with done := x.done + 1, token := token }
          sendSignal s2 { tly := ⟨l.tly.toNat, l.tly.isLt⟩, n := 1, src := .sys (laneChan lane) }
        else s1

/-- INGEST_DOORBELL_SIGNAL (R348). A poisoned entry does not say whose doorbell it is: Rilef then reads every lane's doorbell
flag and serves each that is set (R337). -/
def execIngestDoorbellSignal (bell : BellTake) (s : State) : Answer :=
  if !bell.bad || bellsByFlag s || (queueOf s 3).empty then .next (serveBell s bell.lane)
  else
    .next ((List.finRange 64).foldl (fun r n => if (laneOf r n).bells.isEmpty then r else serveBell r n)
      (notePoison s 3 (queueRead s 3) true))

/-! ### Mailbox: lanes and regions -/

/-- A region that a lane may be bound to (R346). -/
def laneRegionOk (s : State) (owner : Nat) (region : Half) : Bool :=
  if owner = 0x10 then (regionView s none 0 region).isSome
  else
    decide (2 ≤ region.toNat) && decide (region.toNat < 0x1000) &&
      (match ownerTenant (BitVec.ofNat 5 owner) with
        | some t => (tenOf s t).live && (regionView s (some t) 0 region).isSome
        | none => false)

/-- BIND_LANE (R346, R355). -/
def execBindLane (slot : MbxIx) (s : State) : Answer :=
  runMailbox s slot 0x10 fun a s =>
    let n := fieldAt a 0x10 1
    let owner := fieldAt a 0x11 1
    let region : Half := BitVec.ofNat 16 (fieldAt a 0x12 2)
    let tly := fieldAt a 0x14 4
    let off := fieldAt a 0x18 8
    let limit := fieldAt a 0x20 8
    if h : n < 64 ∧ tly < 4096 then
      if (laneOf s ⟨n, h.1⟩).valid || decide (0x10 < owner) || !laneRegionOk s owner region || decide (0x4000000 < limit) ||
          (tallyOf s ⟨tly, h.2⟩).owner.toNat != owner then respond s slot 0xA2 []
      else
        respond (modLane s ⟨n, h.1⟩ fun l =>
          { l with valid := true, owner := BitVec.ofNat 5 owner, tly := BitVec.ofNat 12 tly, region := region,
                   off := BitVec.ofNat 64 off, limit := BitVec.ofNat 64 limit, staged := [], lost := false, bells := [] }) slot 0 []
    else respond s slot 0xA2 []

/-- Serve every doorbell of a lane, then drain what is left, as far as its channel goes. -/
def drainAll (s : State) (lane : LaneIx) : State :=
  (List.range ((laneOf s lane).bells.length + 1)).foldl (fun r _ => serveBell r lane) s

/-- UNBIND_LANE: the lane's staged bytes drain first (R355), and the command waits while its channel takes no work. -/
def execUnbindLane (slot : MbxIx) (s : State) : Answer :=
  runMailbox s slot 0x11 fun a s =>
    let n := fieldAt a 0x10 1
    if h : n < 64 then
      if !(laneOf s ⟨n, h⟩).valid then respond s slot 0xA2 []
      else
        let r := drainAll s ⟨n, h⟩
        if !(laneOf r ⟨n, h⟩).staged.isEmpty || !(laneOf r ⟨n, h⟩).bells.isEmpty then r
        else
          respond (modLane r ⟨n, h⟩ Lane.freed) slot 0 []
    else respond s slot 0xA2 []

def sysRegion (s : State) (r : Half) : SysRegion := tabGet { limit := 0, place := .host 0 } s.host.regions r.toNat

/-- A system region number that Rilef may give (R136): none in use. -/
def regionFree (s : State) (r : Half) : Bool := decide (0x8000 < r.toNat) && (sysRegion s r).limit == 0

def setRegion (s : State) (r : Half) (x : SysRegion) : State :=
  modHost s fun h => { h with regions := tabSet { limit := 0, place := .host 0 } h.regions r.toNat x }

/-- The place holds this column. -/
def placeHasColumn (pl : Place) (b : BankIx) (l : Nat) : Bool :=
  match pl with
  | .blocks bb bs => bs.any fun x => x.at_ == b && decide (x.l0 ≤ l) && decide (l < x.l0 + bb / 32)
  | .interleave _ r n _ => placeHolds b pl && decide (32 * r ≤ l) && decide (l < 32 * (r + n))
  | _ => false

/-- The place holds the word of this key. -/
def placeHasWord (s : State) (pl : Place) (k : Nat) : Bool :=
  match placeOf k, bankOfKey s k with
  | .dram _ _ _ l _, some b => placeHasColumn pl b l
  | _, _ => false

/-- A place with zeros in every word, and no write of it queued. DESIGN CHOICE (log entry 207): before the fill of R418 a staging
region is cleared as it is set up, so that nothing else of the DRAM is readable through it. -/
def clearPlace (s : State) (pl : Place) : State :=
  let s1 : State := { s with mem := s.mem.filter fun c => !placeHasWord s pl (c.1 / 16) }
  (List.finRange 12).foldl
    (fun r k => modStack r k fun x =>
      { x with wq := (List.finRange 64).foldl (fun w q => tabModify [] w q.val fun es =>
          es.filter fun e => !placeHasColumn pl (entryBank k q e) (32 * e.row.toNat + e.col.val)) x.wq }) s1

/-- STAGE: a staging region for an image, at the number and place that Rilef picks, in the background (R354, R355). -/
def execStage (slot : MbxIx) (region : Half) (pl : Place) (s : State) : Answer :=
  runMailbox s slot 0x02 fun a s =>
    let size := fieldAt a 0x10 8
    if size = 0 ∨ freeDram s < size then endBackground s slot 0xA2 []
    else if !(regionFree s region && placeSound s pl && decide (size ≤ placeBytes pl) &&
        ((liveTenants s).all fun t => clearOf [pl] ((tenOf s t).regions.map fun r => r.place)) &&
        s.host.regions.all fun kv => !placesClash pl kv.2.place) then s
    else
      endBackground (setRegion (if s.rst.fillDue then clearPlace s pl else s) region { limit := size, place := pl }) slot 0
        (leBytes 2 region.toNat)

/-- MAP_HOST: a system region that names a host memory range (R355, R364). -/
def execMapHost (slot : MbxIx) (region : Half) (s : State) : Answer :=
  runMailbox s slot 0x23 fun a s =>
    let size := fieldAt a 0x20 8
    if size = 0 then respond s slot 0xA2 []
    else if !regionFree s region then s
    else respond (setRegion s region { limit := size, place := .host (fieldAt a 0x18 8) }) slot 0 (leBytes 2 region.toNat)

/-! ### Mailbox: signals, gates, dumps, resets -/

/-- SIGNAL: a signal of N on an assigned tally of any owner (R300, R306, R355). -/
def execSignal (slot : MbxIx) (s : State) : Answer :=
  runMailbox s slot 0x30 fun a s =>
    let t := fieldAt a 0x10 2
    let n := fieldAt a 0x12 2
    if h : t < 4096 then
      if n = 0 then respond s slot 0xA2 []
      else if (tallyOf s ⟨t, h⟩).owner = 0x1F then respond s slot 0x80 []
      else
        respond (sendSignal s { tly := ⟨t, h⟩, n := n, src := .mailbox slot }) slot 0 []
    else respond s slot 0xA2 []

/-- The arrival of a slot is on its way, or held. -/
def arrivalOut (s : State) (slot : MbxIx) : Bool :=
  (s.sync.portArrive.any fun p => p.2.2 == .mailbox slot) || s.sync.gates.any fun g => g.2.withheld.any fun w => w.2.1 == .mailbox slot

/-- GATE_ARRIVE: an arrival on a port of a port gate; the store answers it (R310 to R312). -/
def execGateArrive (slot : MbxIx) (s : State) : Answer :=
  runMailbox s slot 0x31 fun a s =>
    let g := fieldAt a 0x10 1
    let k := fieldAt a 0x11 1
    let x := tabGet GateSt.reset s.sync.gates g
    if arrivalOut s slot then s
    else if h : g < 256 ∧ k < 4 then
      if x.owner = 0x1F ∨ x.mask ≠ 0 ∨ x.ports.getLsbD k = false then endBackground s slot 0xA2 []
      else { s with sync := { s.sync with portArrive := s.sync.portArrive ++ [(⟨g, h.1⟩, ⟨k, h.2⟩, .mailbox slot)] } }
    else endBackground s slot 0xA2 []

/-- GATE_PORTS: PORTS of an assigned gate without pans, from the next tick (R310). -/
def execGatePorts (slot : MbxIx) (s : State) : Answer :=
  runMailbox s slot 0x32 fun a s =>
    let g := fieldAt a 0x10 1
    let p := fieldAt a 0x11 1
    let x := tabGet GateSt.reset s.sync.gates g
    if h : g < 256 then
      if 15 < p ∨ x.owner = 0x1F ∨ x.mask ≠ 0 then respond s slot 0xA2 []
      else
        respond { s with sync := { s.sync with newPorts := s.sync.newPorts ++ [(⟨g, h⟩, BitVec.ofNat 4 p)] } } slot 0 []
    else respond s slot 0xA2 []

def snapSize : Nat := 43072

/-- A place that a snapshot may be copied to: SRAM or a host buffer (R314). -/
def dumpPlace (v : RegView) : Bool :=
  match v.view with
  | .staging => true
  | .quad _ _ => true
  | .pan _ _ => true
  | .placed (.host _) => true
  | .placed (.quad _ _) => true
  | _ => false

/-- The snapshot of a slot is on its way. -/
def snapOut (s : State) (slot : MbxIx) : Bool :=
  s.sync.snapReq.contains (.mailbox slot) || s.sync.snapTaken.any fun f => f.1 == .mailbox slot

/-- SYNC_DUMP: a snapshot is requested, to be copied to a region (R314, R355). -/
def execSyncDump (slot : MbxIx) (s : State) : Answer :=
  runMailbox s slot 0x33 fun a s =>
    let region : Half := BitVec.ofNat 16 (fieldAt a 0x10 2)
    let off := fieldAt a 0x18 8
    if snapOut s slot then s
    else
      match regionView s none 0 region with
      | some v =>
        if dumpPlace v ∧ off + snapSize ≤ v.limit then
          { s with sync := { s.sync with snapReq := s.sync.snapReq ++ [.mailbox slot] } }
        else endBackground s slot 0xA2 []
      | none => endBackground s slot 0xA2 []

/-- Rilef writes bytes of its own at a place of a region: SRAM words, or a posted write to host memory. Answers whether a word was
withheld, its merge read being uncorrectable (R283). -/
def putAt (s : State) (v : RegView) (off : Nat) (bs : List Byte) : State × Bool :=
  match viewLoc s v.view off with
  | none => (s, false)
  | some loc =>
    if hostLoc ≤ loc then (if s.host.linkUp then emit s [.hostWrite (BitVec.ofNat 64 (loc - hostLoc)) bs] else s, false)
    else putBytes s loc bs none

/-- Bytes into a region of SRAM or host memory. The staging region runs on in the next quadrant at each 64 MiB (R345). -/
def putRegion (s : State) (v : RegView) (off : Nat) (bs : List Byte) : State × Bool :=
  let n := 2 ^ 26 - off % 2 ^ 26
  if v.view = .staging ∧ n < bs.length then
    let r := putAt s v off (bs.take n)
    if r.2 then r else putAt r.1 v (off + n) (bs.drop n)
  else putAt s v off bs

/-- Rilef copies a snapshot to the region that a SYNC_DUMP named, and ends the command with the snapshot's number, or, at a word
that cannot be merged, with ERR_COPY_UE, which is logged (R181, R283, R314; log entry 208). -/
def endDump (s : State) (slot : MbxIx) (x : SnapShot) (n : Word) : State :=
  let a := (acceptedOf s slot).image
  match regionView s none 0 (BitVec.ofNat 16 (fieldAt a 0x10 2)) with
  | none => endBackground s slot 0xA2 []
  | some v =>
    let r := putRegion s v (fieldAt a 0x18 8) (snapImage x n)
    if r.2 then endBackground (logEvent r.1 0x40 [0xFF] none) slot 0x40 [] else endBackground r.1 slot 0 (leBytes 8 n.toNat)

/-- SNAPSHOT_COMPLETE: the oldest snapshot taken becomes the dump window, with the next number, and goes where its
requester asked (R314, R315, R447). -/
def execSnapshotComplete (s : State) : Answer :=
  match s.sync.snapTaken with
  | [] => .next s
  | (f, x) :: rest =>
    let n := s.sync.snaps + 1
    let s1 := { s with sync := { s.sync with snapTaken := rest, snaps := n, window := some x } }
    match f with
    | .register => .next s1
    | .mailbox slot => .next (endDump s1 slot x n)
    | .triyx =>
      .next (replyLines s1 ((groupsOf 64 snapSize (snapImage x n)).map fun l =>
        (groupsOf 4 64 l).map fun w => BitVec.ofNat 64 (leNat w)))

/-- RESET: the HOST source asserts 10 µs after the response has been written (R355, R419). -/
def execReset (slot : MbxIx) (s : State) : Answer :=
  runMailbox s slot 0x41 fun a s =>
    match fieldAt a 0x10 1 with
    | 0 => endBackground s slot 0 []
    | 1 => endBackground s slot 0 []
    | _ => endBackground s slot 0xA2 []

/-! ### Attach and host loss (R366 to R370) -/

/-- Rings of an attached driver: a HELD ring runs again and resends from HRV_HEAD + 1, as does a KEEP ring that runs (R363, R369,
R370). -/
def Ring.resume (r : Ring) : Ring :=
  if r.valid && (r.state == .held || (r.state == .run && r.keep && r.flushing.isNone)) then { r with state := .run, next := r.head }
  else r

def modRings (s : State) (f : Ring → Ring) : State := (List.finRange 16).foldl (fun r n => modRing r n f) s

/-- The driver is attached; a fenced primary writes no harvest (R388). From QUIESCED the tenants wait for the end of
self-refresh (R369). -/
def attachNow (s : State) : State :=
  let s0 := (List.finRange 12).foldl (fun r k => if (stackOf r k).mode == .selfRefresh then leaveSelfRefresh r k else r) s
  let s1 := modHost s0 fun h => { h with attach := .attached, attachPend := false }
  if s.mir.role == .fenced then s1 else modRings s1 Ring.resume

/-- HOST_ATTACH: a write without the CONFIRM value is dropped; one while QUIESCING waits for QUIESCED; one while ATTACHED, by a
driver that has restarted, resumes its rings (R344, R369). -/
def execHostAttach (v : Dword) (s : State) : Answer :=
  if bitsOf v.toNat 48 16 ≠ 0xA5C3 then .next (dropBar0 s)
  else if v.getLsbD 0 = false then .next s
  else
    match s.host.attach with
    | .quiescing => .next (modHost s fun h => { h with attachPend := true })
    | _ => .next (attachNow s)

/-- A ring at a host loss: writes stop, and a flush read in flight fails (R361, R366). -/
def loseRing (s : State) (n : RingIx) : State :=
  let r := ringOf s n
  if r.flushing.isSome then failFlush s n
  else if r.state == .run then modRing s n fun r => { r with state := .held } else s

/-- PRESERVE: running tenants are quiesced at their next boundary tick, a sliced-out one where it stands; one that a
turnover is bringing in, at its first boundary (R367, R370). -/
def preserveTenant (s : State) (t : TenIx) : State :=
  let x := tenOf s t
  if x.state == .running || (x.state == .slicedOut && s.slice.turnover && entryRuns s t) then
    modTen s t fun y => { y with quiesceHost := true }
  else if x.state == .slicedOut then quiesceTenant (modTen s t fun y => { y with quiesceHost := true }) t
  else if x.state == .quiesced then modTen s t fun y => { y with quiesceHost := true }
  else s

/-- The crash mode at a host loss (R367, R368). -/
def crashMode (s : State) : State :=
  if s.host.crash then modHost s fun h => { h with attach := .detached }
  else (List.finRange 16).foldl preserveTenant (modHost s fun h => { h with attach := .quiescing, attachPend := false })

/-- The link is gone, and the loss is counted (R344, R366). -/
def linkLost (s : State) : State :=
  modHost s fun h => { h with linkUp := false, width := 0, speed := 0, flit := false, cache := false, downs := satAdd h.downs 1 }

/-- What every host loss does (R366); one while QUIESCING or QUIESCED is counted, and nothing more (R370). The queues with the
host link on one side are cleared, the doorbells received stay to be signalled, and notices that stalled go in (R326, R336).
-/
def loseHost (s : State) : State :=
  if s.host.attach == .quiescing || s.host.attach == .quiesced then linkLost s
  else
    let s1 := linkLost ((List.finRange 16).foldl loseRing s)
    let s2 := queueClear (modHost s1 fun h => { h with respq := h.respq.cleared, evq := h.evq.cleared, mbxq := h.mbxq.cleared }) 3
    crashMode (logEvent (drainAllNotices s2) 0xA8 [] none)

/-- HOST_LOSS (R366). -/
def execHostLoss (_k : LossKind) (s : State) : Answer := .next (loseHost s)

/-- LINK_RETRAIN: counted, nothing lost (R366). -/
def execLinkRetrain (s : State) : Answer := .next (modHost s fun h => { h with retrains := satAdd h.retrains 1 })

/-- SNOOP: the card keeps no line and answers RspIHitI (R364). -/
def execSnoop (_addr : Dword) (s : State) : Answer := .next (emit s [.snoopResp])

/-- What the link can negotiate: x1 to x16, 2.5 to 64 GT/s (R341, R344). -/
def linkFits (width : Byte) (speed : BitVec 4) : Bool :=
  [1, 2, 4, 8, 16].contains width.toNat && decide (1 ≤ speed.toNat) && decide (speed.toNat ≤ 6)

/-- LINK_UP: the link is trained and HOST_LINK shows what it negotiated (R341, R366). It trains only with PERST# high, the
host-link domain released and no self-test of the PHY (R436, R450). -/
def execLinkUp (width : Byte) (speed : BitVec 4) (flit cache : Bool) (s : State) : Answer :=
  .next (
    if linkFits width speed && !testing s .pcie && !s.rst.perstLow && !s.rst.sysHeld then
      drainAllNotices (modHost s fun h => { h with linkUp := true, width := width, speed := speed, flit := flit, cache := cache })
    else s)

end Sys2Proof.Machine
end

