-- ==== Sys2Proof/Machine/PanM.lean ====
section
/-! DEFINITION. M-slot commands and the matrix array (R64 to R67, R80 to R96). -/

namespace Sys2Proof.Machine

/-! ### Operand images -/

/-- Format state that an operation issued now will start under: that of the last MFMT queued, else the current one
(R80). -/
def fmtAhead (x : Pan) : Nat × Nat × Nat :=
  match (x.mq.reverse.findSome? fun e =>
      match e.op with
      | .mfmt fa fb sc _ => some (fa.toNat, fb.toNat, sc.toNat)
      | _ => none) with
  | some f => f
  | none => (x.fa.toNat, x.fb.toNat, x.sc.toNat)

/-- A format that carries block scales under SC = 1 (R90). -/
def scaledFmt (f : Nat) : Bool := f == 3 || f == 4 || f == 5 || f == 6

/-- Bytes of one B row of 256 elements (R83, R84). -/
def bRowBytes (fb : Nat) : Nat := 256 * fmtBits fb / 8

/-- Bytes of one A row (R82). -/
def aRowBytes (fa fb : Nat) : Nat := pairDepth fa fb * fmtBits fa / 8

/-- The first address out of range, or the first uncorrectable word, of reads at several addresses (R72, R73). -/
def readFault (x : Pan) (as : List (Dword × Nat)) (reads : List (Dword × List (Nat × Decoded))) :
    Option (Dword × Bool) :=
  match as.find? fun r => outsidePan x r.1 r.2 with
  | some r => some (r.1, false)
  | none =>
    (reads.findSome? fun r =>
      (r.2.zipIdx.find? fun w => w.1.2.check == .uncorrectable).map fun w => (alignDown r.1 3 + BitVec.ofNat 64 (8 * w.2), true))

/-- Row addresses of a B tile (R83). -/
def tileAddrs (base stride : Dword) (rows : Nat) : List Dword :=
  (List.range rows).map fun k => alignDown base 6 + BitVec.ofNat 64 k * alignDown stride 6

/-- Read the pieces that an M or E load names; nothing is read when one of them is out of range. -/
def readPieces (s : State) (p : PanIx) (as : List (Dword × Nat)) : List (Dword × List (Nat × Decoded)) :=
  if as.any fun r => outsidePan (panOf s p) r.1 r.2 then []
  else as.map fun r => (r.1, panRead s p (alignDown r.1 3) ((r.1.toNat % 8 + r.2 + 7) / 8))

/-- The bytes of a piece. -/
def pieceBytes (r : Dword × List (Nat × Decoded)) (n : Nat) : List Byte :=
  ((bytesOfWords (wordsOf r.2)).drop (r.1.toNat % 8)).take n

/-! ### M-slot commands -/

/-- Queue an M operation (R55). -/
def queueM (s : State) (p : PanIx) (b : Bundle) (op : MOp) : State :=
  modPan s p fun x =>
    { x with mq := x.mq ++ [{ op := op, pc := x.pc, reads := (usesM b.m).reads, writes := (usesM b.m).writes }] }

/-- MNOP (R64). -/
def execMnop (p : PanIx) (b : Bundle) (z : BitVec 26) (s : State) : Answer :=
  .next (issueSlot s p { b with m := encJ 0x00 z } 1 id)

/-- MFMT: set A and B formats; G[GS] is read when it executes (R64, R81). -/
def execMfmt (p : PanIx) (b : Bundle) (fa fb : BitVec 4) (sc : BitVec 2) (gs : Reg5) (z : BitVec 11) (s : State) : Answer :=
  let b1 := { b with m := encMfmt fa fb sc gs z }
  .next (issueSlot s p b1 1 fun s1 => queueM s1 p b1 (.mfmt fa fb sc gs))

/-- MSCA: load 8 × ROWS E8M0 A-block scales (R64, R86). -/
def execMsca (p : PanIx) (b : Bundle) (ga : Reg5) (rows : BitVec 7) (z : BitVec 14) (s : State) : Answer :=
  let b1 := { b with m := encMsca ga rows z }
  .next (issueSlot s p b1 1 fun s1 =>
    let x := panOf s1 p
    let n := 8 * (rows.toNat + 1)
    let as := [(x.readG ga.toNat, n)]
    let rs := readPieces s1 p as
    queueM (noteWords s1 0x23 (rs.flatMap (·.2)) x.tenant) p b1
      (.msca (rows.toNat + 1) (rs.flatMap fun r => pieceBytes r n) (readFault x as rs)))

/-- MLDB: load a B tile, and its block scales under SC = 1, from pan SRAM (R64, R83, R85). -/
def execMldb (p : PanIx) (b : Bundle) (ga gt gc : Reg5) (bs : BitVec 1) (z : BitVec 10) (s : State) : Answer :=
  let b1 := { b with m := encMldb ga gt gc bs z }
  .next (issueSlot s p b1 1 fun s1 =>
    let x := panOf s1 p
    let (fa, fb, sc) := fmtAhead x
    let depth := pairDepth fa fb
    let tas := (tileAddrs (x.readG ga.toNat) (x.readG gt.toNat) depth).map fun a => (a, bRowBytes fb)
    let sas := if sc == 1 && scaledFmt fb then [(alignDown (x.readG gc.toNat) 6, 8 * depth)] else []
    let rs := readPieces s1 p (tas ++ sas)
    queueM (noteWords s1 0x23 (rs.flatMap (·.2)) x.tenant) p b1
      (.mldb bs ((rs.take depth).flatMap fun r => pieceBytes r (bRowBytes fb))
        ((rs.drop depth).flatMap fun r => pieceBytes r (8 * depth)) (readFault x (tas ++ sas) rs)))

/-- MLDBT: load a B tile from tile buffer TB from row G[GR][7:0] (R64, R84). -/
def execMldbt (p : PanIx) (b : Bundle) (tb : BitVec 2) (gr : Reg5) (bs : BitVec 1) (z : BitVec 18) (s : State) : Answer :=
  let b1 := { b with m := encMldbt tb gr bs z }
  .next (issueSlot s p b1 1 fun s1 =>
    queueM s1 p b1 (.mldbt tb (((panOf s1 p).readG gr.toNat).truncate 8) bs))

/-- MMV: stream N A rows from VA.. against buffer BS (R64). -/
def execMmv (p : PanIx) (b : Bundle) (va vd : Reg5) (n : BitVec 4) (acc out bs : BitVec 1) (z : BitVec 9) (s : State) :
    Answer :=
  let b1 := { b with m := encMmv va vd n acc out bs z }
  .next (issueSlot s p b1 1 fun s1 => queueM s1 p b1 (.mmv va vd (n.toNat + 1) (acc == 1) (out == 1) bs))

/-- MMT: stream N A rows from tile buffer TA from row G[GR][7:0], D rows to TD from row G[GR][15:8] (R64). -/
def execMmt (p : PanIx) (b : Bundle) (gr : Reg5) (ta td : BitVec 2) (n : BitVec 8) (acc out bs : BitVec 1) (z : BitVec 6)
    (s : State) : Answer :=
  let b1 := { b with m := encMmt gr ta td n acc out bs z }
  .next (issueSlot s p b1 1 fun s1 =>
    let g := (panOf s1 p).readG gr.toNat
    queueM s1 p b1 (.mmt ta td (g.truncate 8) ((g >>> 8).truncate 8) (n.toNat + 1) (acc == 1) (out == 1) bs))

/-! ### The start of an operation -/

def Pan.buf (x : Pan) (bs : BitVec 1) : BBuf := if bs = 0 then x.buf0 else x.buf1

def Pan.setBuf (x : Pan) (bs : BitVec 1) (b : BBuf) : Pan :=
  { x with buf0 := if bs = 0 then b else x.buf0, buf1 := if bs = 0 then x.buf1 else b }

def isLoadRun (r : MFly) : Bool := match r.run with | .load _ _ => true | _ => false

def isScaleRun (r : MFly) : Bool := match r.run with | .scale _ _ => true | _ => false

def isStreamRun (r : MFly) : Bool := match r.run with | .stream .. => true | _ => false

/-- A B buffer as a load will leave it, under the format state current at its start (R80). -/
def newBuf (x : Pan) (tile scales : List Byte) (fromTile : Bool) : BBuf :=
  { fa := x.fa, fb := x.fb, sc := x.sc, sa := x.sa, sb := x.sb, d512 := pairDeep x.fa.toNat x.fb.toNat,
    mldbt := fromTile, loaded := true, loading := false, reading := false, readEnd := 0, tile := tile, scales := scales }

/-- A stream still reads the buffer (R65). -/
def BBuf.busy (b : BBuf) (tick : Dword) : Bool := b.reading && decide (tick.toNat < b.readEnd.toNat)

/-- Start a load into buffer BS: the buffer is LOADING under the recorded state. -/
def startLoad (x : Pan) (e : MEntry) (bs : BitVec 1) (nb : BBuf) : Pan :=
  let b : BBuf :=
    { nb with
      loaded := false, loading := true, reading := (x.buf bs).reading, readEnd := (x.buf bs).readEnd, tile := [],
      scales := [] }
  { x.setBuf bs b with
    mq := x.mq.tail, mfly := x.mfly ++ [{ run := .load bs nb, writes := e.writes }] }

/-- Entries of the A-scale store that one A row consumes (R86). -/
def aEntries (b : BBuf) : Nat :=
  if b.sc == 1 && scaledFmt b.fa.toNat then pairDepth b.fa.toNat b.fb.toNat / 256 else 0

/-- `n` entries of the A-scale store from the read pointer; an entry at or beyond the loaded count is 0xFF (R86). -/
def takeScales (x : Pan) (n : Nat) : List Byte :=
  (List.range n).flatMap fun j =>
    if x.ascalePtr.toNat + j < x.ascaleCount.toNat then (x.ascale.drop (8 * (x.ascalePtr.toNat + j))).take 8
    else List.replicate 8 0xFF

/-- Start a stream: it takes its A rows, B buffer and A scales (R80, R86), and counts rows and cycles (R66, R102). It reads
the buffer for a row interval to each row, two pan cycles to a tick. -/
def startStream (x : Pan) (tick : Dword) (e : MEntry) (bs : BitVec 1) (rows : List (List Byte)) (interval : Nat) (dst : MDest)
    (acc out : Bool) : Pan :=
  let b := x.buf bs
  let k := aEntries b * rows.length
  { x.setBuf bs { b with reading := true, readEnd := tick + BitVec.ofNat 64 ((rows.length * interval + 1) / 2) } with
    mq := x.mq.tail,
    mfly := x.mfly ++
      [{ run := .stream bs (rows.map fun r => r.take (aRowBytes b.fa.toNat b.fb.toNat)) b (takeScales x k) dst acc out,
         writes := e.writes }],
    ascalePtr := satAdd x.ascalePtr k,
    mmaRows := x.mmaRows + BitVec.ofNat 64 rows.length,
    mmaBusyNow := x.mmaBusyNow + BitVec.ofNat 32 (rows.length * interval),
    mmaUntil := BitVec.ofNat 64 (2 * tick.toNat + rows.length * interval) }

/-- The packed tile that MLDBT reads: consecutive rows of a tile buffer, wrapping (R56, R84). -/
def tileStream (x : Pan) (tb : BitVec 2) (row : Byte) (fa fb : Nat) : List Byte :=
  ((List.range (pairDepth fa fb * bRowBytes fb / 1024)).flatMap fun j =>
    laneBytes (x.readT tb.toNat ((row.toNat + j) % 256)))

/-- A stream still takes rows into the array, whatever its formats (R87). -/
def rowsEntering (x : Pan) (tick : Dword) : Bool :=
  x.mfly.any fun r => match r.run with | .stream bs _ _ _ _ _ _ => (x.buf bs).busy tick | _ => false

/-- What the head of the M queue needs to start (R57, R65, R87): whatever names a B buffer waits until no earlier stream reads
it, a load also for the load before it, a stream for its buffer to be loaded, for the scale store and for the array, which
takes the rows of one stream (R66), MSCA for the last row of every earlier stream. -/
def canStartM (x : Pan) (tick : Dword) (op : MOp) : Bool :=
  match op with
  | .mfmt .. => true
  | .msca .. => !x.mfly.any isScaleRun && !rowsEntering x tick
  | .mldb bs _ _ _ => !x.mfly.any isLoadRun && !(x.buf bs).busy tick
  | .mldbt _ _ bs => !x.mfly.any isLoadRun && !(x.buf bs).busy tick
  | .mmv _ _ _ _ _ bs => (x.buf bs).loaded && !x.mfly.any isScaleRun && !x.buf0.busy tick && !x.buf1.busy tick
  | .mmt _ _ _ _ _ _ _ bs => (x.buf bs).loaded && !x.mfly.any isScaleRun && !x.buf0.busy tick && !x.buf1.busy tick

/-- The late trap an operation raises at its start (R72, R73). -/
def mBad : MOp → Option (Dword × Bool)
  | .msca _ _ bad => bad
  | .mldb _ _ _ bad => bad
  | _ => none

/-- The effect of a start on the pan. DESIGN CHOICE (log entry 183): an MMT reads every A row as it starts and its D rows are
written as it completes, where TA and TD name overlapping rows of one buffer. DESIGN CHOICE (log entry 184): MMA_PTS keeps the
last captured scales while SC is not 2. -/
def startM (x : Pan) (tick : Dword) (e : MEntry) : Pan :=
  match e.op with
  | .mfmt fa fb sc gs =>
    { x with
      fa := fa, fb := fb, sc := sc,
      sa := if sc = 2 then (x.readG gs.toNat).truncate 32 else x.sa,
      sb := if sc = 2 then (x.readG gs.toNat >>> 32).truncate 32 else x.sb,
      mq := x.mq.tail, mfly := x.mfly ++ [{ run := .fmt, writes := [] }] }
  | .msca rows scales _ => { x with mq := x.mq.tail, mfly := x.mfly ++ [{ run := .scale rows scales, writes := [] }] }
  | .mldb bs tile scales _ => startLoad x e bs (newBuf x tile scales false)
  | .mldbt tb row bs => startLoad x e bs (newBuf x (tileStream x tb row x.fa.toNat x.fb.toNat) [] true)
  | .mmv va vd n acc out bs =>
    startStream x tick e bs ((List.range n).map fun j => laneBytes (x.readV ((va.toNat + j) % 32)))
      (mmvInterval (x.buf bs).fa.toNat (x.buf bs).fb.toNat) (.vec vd) acc out
  | .mmt ta td srow drow n acc out bs =>
    startStream x tick e bs ((List.range n).map fun j => laneBytes (x.readT ta.toNat ((srow.toNat + j) % 256)))
      (mmtInterval (x.buf bs).fa.toNat (x.buf bs).fb.toNat * (if acc && decide (16 < n) then 2 else 1)) (.tile td drow)
      acc out

/-- M_OP_START: the head of the M queue starts once its resources are ready, or raises its late trap (R57, R72). The slots of
a bundle issue in one cycle (R52), so that nothing starts between two of them. -/
def execMOpStart (p : PanIx) (s : State) : Answer :=
  match (panOf s p).mq with
  | [] => .next s
  | e :: _ =>
    if (panOf s p).mid || !canStartM (panOf s p) s.tick e.op then .next s
    else
      match mBad e.op with
      | some (a, ue) => .next (trapPan s p (if ue then 4 else 3) 1 e.pc a true)
      | none => .next (modPan s p fun x => startM x s.tick e)

/-! ### The reference formula (R92 to R96) -/

/-- A zero result is +0 (R96). -/
def canonAcc (w : Word) : Word := if isZero32 w then 0 else canon32 w

/-- The scale of block `blk` for A row with scale bytes `asc` and column `n` (R93). -/
def blockScale (b : BBuf) (asc : List Byte) (n blk : Nat) : Ext :=
  if b.sc = 1 then
    (if scaledFmt b.fa.toNat then e8m0 (asc.getD blk 0xFF) else .fin false 1 0).mul
      (if scaledFmt b.fb.toNat && !b.mldbt then e8m0 (b.scales.getD (256 * blk + n) 0) else .fin false 1 0)
  else if b.sc = 2 then (Ext.ofF32 b.sa).mul (Ext.ofF32 b.sb)
  else .fin false 1 0

/-- One block of one output: the A values and B values of its 32 K positions (R92). -/
def blockStep (exact : Bool) (sig : Ext) (ps : List (Ext × Ext)) (acc : Word) : Word :=
  if exact then
    rne32 ((Ext.ofF32 acc).add ((ps.foldl (fun s q => s.add (q.1.mul q.2)) Ext.zero).mul sig))
  else ps.foldl (fun a q => rne32 ((Ext.ofF32 a).add ((q.1.mul q.2).mul sig))) acc

/-- One output d[m][n] of one tile, continuing from `acc` (R92). -/
def dOutput (b : BBuf) (avals : List Ext) (asc : List Byte) (bcol : List Ext) (n : Nat) (acc : Word) : Word :=
  let exact := pairExact b.fa.toNat b.fb.toNat
  canonAcc ((List.range (avals.length / 32)).foldl
    (fun a blk =>
      blockStep exact (blockScale b asc n blk) (((avals.zip bcol).drop (32 * blk)).take 32) a) acc)

/-- Values of an A row (R82, R91). -/
def aValues (b : BBuf) (row : List Byte) : List Ext :=
  (List.range (pairDepth b.fa.toNat b.fb.toNat)).map fun k => fmtVal b.fa.toNat (b.sc == 1) (packedCode b.fa.toNat row k)

/-- Values of column `n` of the B tile (R83, R91). -/
def bColumn (b : BBuf) (n : Nat) : List Ext :=
  (groupsOf (bRowBytes b.fb.toNat) 512 b.tile).map fun r => fmtVal b.fb.toNat (b.sc == 1) (packedCode b.fb.toNat r n)

/-- A D row of 256 outputs (R88), continuing from `acc`. -/
def dRow (b : BBuf) (row : List Byte) (asc : List Byte) (acc : List Word) : List Word :=
  let av := aValues b row
  (List.range 256).map fun n => dOutput b av asc (bColumn b n) n (acc.getD n 0)

/-- What row i of a stream of n rows continues from (R67). -/
def accStart (x : Pan) (dst : MDest) (acc : Bool) (n i : Nat) : List Word :=
  if !acc then []
  else
    match dst with
    | .tile td drow => if 16 < n then x.readT td.toNat ((drow.toNat + i) % 256) else tabRange 0 x.acc (256 * i) 256
    | .vec _ => tabRange 0 x.acc (256 * i) 256

/-- Rows 0 to N − 1 of the accumulators take the finished rows, unless more than 16 were streamed (R67). -/
def putAcc (x : Pan) (ds : List (List Word)) : Pan :=
  { x with acc := if ds.length ≤ 16 then tabSetList 0 x.acc 0 ds.flatten else x.acc }

/-- OUT = 1: the finished rows go to VD.. or to TD (R67). -/
def putRows (x : Pan) (dst : MDest) (ds : List (List Word)) : Pan :=
  ds.zipIdx.foldl (fun y d =>
    match dst with
    | .vec vd => y.writeV ((vd.toNat + d.2) % 32) d.1
    | .tile td drow => y.writeT td.toNat ((drow.toNat + d.2) % 256) d.1) x

/-- The D rows of a stream (R67, R92). -/
def streamRows (x : Pan) (rows : List (List Byte)) (b : BBuf) (asc : List Byte) (dst : MDest) (acc : Bool) :
    List (List Word) :=
  rows.zipIdx.map fun r =>
    dRow b r.1 ((asc.drop (8 * aEntries b * r.2)).take (8 * aEntries b)) (accStart x dst acc rows.length r.2)

/-- A stream ends: accumulators, D rows, and the counts of special outputs (R67, R102). -/
def endStream (x : Pan) (rows : List (List Byte)) (b : BBuf) (asc : List Byte) (dst : MDest) (acc out : Bool) : Pan :=
  let ds := streamRows x rows b asc dst acc
  let x1 := putAcc x ds
  let x2 := if out then putRows x1 dst ds else x1
  { x2 with
    specNan := satAdd x2.specNan (ds.flatten.filter isNan32).length,
    specInf := satAdd x2.specInf (ds.flatten.filter isInf32).length }

/-- The effect of the k-th operation in flight completing. Streams complete in the order they started. -/
def completeM (x : Pan) (k : Nat) (f : MFly) : Pan :=
  let x1 : Pan := { x with mfly := dropNth k x.mfly }
  match f.run with
  | .fmt => x1
  | .scale rows scales => { x1 with ascale := scales, ascaleCount := BitVec.ofNat 8 rows, ascalePtr := 0 }
  | .load bs nb => x1.setBuf bs { nb with reading := (x.buf bs).reading, readEnd := (x.buf bs).readEnd }
  | .stream bs rows b asc dst acc out =>
    let x2 := endStream x1 rows b asc dst acc out
    x2.setBuf bs { x2.buf bs with reading := x2.mfly.any fun r => match r.run with | .stream c .. => c == bs | _ => false }

/-- M_OP_COMPLETE: the k-th M operation in flight reaches its latency (R57, R66). -/
def execMOpComplete (p : PanIx) (k : Nat) (s : State) : Answer :=
  match (panOf s p).mfly[k]? with
  | none => .next s
  | some f =>
    if isStreamRun f && ((panOf s p).mfly.take k).any isStreamRun then .next s
    else .next (modPan s p fun x => completeM x k f)

end Sys2Proof.Machine
end

