-- ==== Sys2Proof/Machine/Pond.lean ====
section
/-! DEFINITION. Pond units (R188 to R225): pond mode, the arrival, start and end of commands, their effects, the result row
and the spare map. A command's effect on its unit and its bank is computed when it ends, since no access sees the bank before
that (R213); the sluice latch is judged and taken at the start (R221). -/

namespace Sys2Proof.Machine

/-- The banks of a segment that a mask selects. -/
def segBanks (g : SegIx) (m : Half) : List BankIx :=
  ((List.finRange 16).filter fun k => m.getLsbD k.val).map (segBankIx g)

/-! ### Pond mode (R195 to R197) -/

def pondOn (s : State) (k : StackIx) (q : PcIx) : Bool := (stackOf s k).pond.getLsbD q.val

/-- The controller writes command rows of the pseudo-channel: pond mode, with no exit waiting (R197, R198). -/
def pondOpen (s : State) (k : StackIx) (q : PcIx) : Bool := pondOn s k q && !(stackOf s k).exiting.getLsbD q.val

/-- An injected column reaches a stack with bits of its word 0 flipped (R195, R297): its bytes as the stack corrects them, or none
where the word is uncorrectable. -/
def arriveColumn (s : State) (g : SegIx) (bs : List Byte) : Option (List Byte) :=
  if s.log.injArm && s.log.injMem == 2 && s.log.injUnit.toNat == g.stack.val && (stackOf s g.stack).inj.getLsbD g.pc.val then
    let w := decodeWord (flipStored (encodeWord (wordOfBytes (bs.take 8))) s.log.injD s.log.injC)
    if w.check == .uncorrectable then none else some (leBytes 8 w.d.toNat ++ bs.drop 8)
  else some bs

/-- Clear POND of a pseudo-channel whose units are all idle, where a write of 0 waits (R197). -/
def settleExit (s : State) (k : StackIx) (q : PcIx) : State :=
  if (stackOf s k).exiting.getLsbD q.val && (pcBanks k q).all (unitIdle s) then
    modStack s k fun x => { x with pond := x.pond &&& ~~~(pcBit q), exiting := x.exiting &&& ~~~(pcBit q) }
  else s

/-- POND_ENTER (R196): every bank of the pseudo-channel is precharged, then POND = 1. -/
def execPondEnter (k : StackIx) (q : PcIx) (s : State) : Answer :=
  .next (enterPond s k q)

/-- POND_EXIT (R197): at once where every unit is idle with an empty holding register, else when the last one is. -/
def execPondExit (k : StackIx) (q : PcIx) (s : State) : Answer :=
  .next <| settleExit (modStack s k fun x => { x with exiting := x.exiting ||| (x.pond &&& pcBit q) }) k q

/-- PMODE.INJ (R195, R297). -/
def execPmodeInj (k : StackIx) (q : PcIx) (inj : Bool) (s : State) : Answer :=
  .next <| modStack s k fun x => { x with inj := if inj then x.inj ||| pcBit q else x.inj &&& ~~~(pcBit q) }

/-! ### Registers of a unit -/

def wReg (u : Unit) (r : Nat) : List Byte := tabRange 0 u.w (32 * r) 32

def wBad (u : Unit) (r : Nat) : Bool := bitOf u.wPoison.toNat r

/-- Load a W register with its poison bit (R204, R222). -/
def setW (u : Unit) (r : Nat) (bs : List Byte) (bad : Bool) : Unit :=
  { u with
    w := tabSetList 0 u.w (32 * r) (padTo 0 32 bs),
    wPoison := if bad then u.wPoison ||| ((1#32) <<< r) else u.wPoison &&& ~~~((1#32) <<< r) }

def accOf (u : Unit) (i : Nat) : Word := tabGet 0 u.a i

def accBad (u : Unit) (i : Nat) : Bool := tabGet false u.aPoison i

/-- Write an accumulator: its poison bit is set by a poisoned value and cleared by nothing but FILL (R222). -/
def setAcc (u : Unit) (i : Nat) (v : Word) (bad : Bool) : Unit :=
  { u with a := tabSet 0 u.a i v, aPoison := tabSet false u.aPoison i (accBad u i || bad) }

/-! ### Columns (R222, R223) -/

/-- A column as a unit reads it: its stored words, its bytes with single bits corrected, and the two findings. -/
structure Column where
  stored : List Stored
  bytes : List Byte
  corr : Bool
  bad : Bool
deriving DecidableEq, Repr

def columnAt (m : Memory) (x : UnitAt) (l : Nat) : Column :=
  let ws := (List.range 4).map fun i => readStored m (dramKey x.st x.d x.phys l i)
  let ds := ws.map decodeWord
  { stored := ws, bytes := bytesOfWords (ds.map (·.d)),
    corr := ds.any fun e => match e.check with | .corrected _ => true | _ => false,
    bad := ds.any fun e => e.check == .uncorrectable }

/-- POND_ERR (R227). -/
def notePondErr (s : State) (st : StackIx) (code : Byte) (op : BitVec 6) (stat tag : BitVec 4) (die bank : Nat) : State :=
  modStack s st fun x =>
    { x with errCount := satAdd x.errCount 1, errCode := code, errOp := op, errStat := stat, errTag := tag,
             errDie := BitVec.ofNat 4 die, errBank := BitVec.ofNat 8 bank }

/-- ERR_POND_UE of a running command (R222). -/
def noteUnitUe (s : State) (x : UnitAt) (t : Option TenIx) (l : Nat) : State :=
  let u := unitOf s x.key
  let s1 := logEvent s 0x57 ([BitVec.ofNat 8 x.st, BitVec.ofNat 8 x.d, BitVec.ofNat 8 x.bank] ++ leBytes 4 l) t
  if h : x.st < 12 then
    notePondErr s1 ⟨x.st, h⟩ 0x57 (match u.running with | some r => r.op | none => u.lop) 0xA
      (match u.running with | some r => r.tag | none => u.tag) x.d x.bank
  else s1

/-- A unit reads a column: its counts, the error log, and ERR_POND_UE (R222, R280, R281). -/
def readColumn (s : State) (x : UnitAt) (t : Option TenIx) (l : Nat) : State × Column :=
  let c := columnAt s.mem x l
  let ws := (List.range 4).map fun i => (dramKey x.st x.d x.phys l i, readWord s (dramKey x.st x.d x.phys l i))
  let s1 := noteColumn s 0x57 ws t
  let s2 := modUnit s1 x.key fun u =>
    { u with
      corr := if c.corr then satAdd u.corr 1 else u.corr,
      uec := if c.bad then satAdd u.uec 1 else u.uec,
      ueaddr := if c.bad then BitVec.ofNat 20 l else u.ueaddr }
  (if c.bad then noteUnitUe s2 x t l else s2, c)

/-- Read columns in order. -/
def readColumns (s : State) (x : UnitAt) (t : Option TenIx) : List Nat → State × List Column
  | [] => (s, [])
  | l :: ls =>
    let r := readColumn s x t l
    let q := readColumns r.1 x t ls
    (q.1, r.2 :: q.2)

/-- Write a column with fresh check bits, and with P0 and P1 of every word inverted where its value is poisoned (R222). -/
def putColumn (s : State) (x : UnitAt) (l : Nat) (bs : List Byte) (bad : Bool) : State :=
  let ws := (wordsOfBytes (padTo 0 32 bs)).zipIdx.map fun w => storedFor s (dramKey x.st x.d x.phys l w.2) w.1
  storeColumn s x l (if bad then ws.map spoilWord else ws)

/-! ### Values (R91, R193) -/

/-- The element values of a column or a W register, with SC = 0. -/
def colValues (f : BitVec 4) (bs : List Byte) : List Ext :=
  (List.range (perColumn f.toNat)).map fun e => fmtVal f.toNat false (packedCode f.toNat bs e)

def sigOf (c : PondCmd) : Ext := Ext.ofF32 c.sig

/-- Linear columns of item i (R200). -/
def itemColumns (c : PondCmd) (i : Nat) : List Nat := (List.range c.nw.toNat).map fun j => c.l0 + i * c.step + j

/-! ### Effects (R204 to R208, R222, R223)

Each answers the state after the command, and whether it met an uncorrectable column or a poisoned W register. -/

/-- One score (R205), continuing from `acc`: rounded once for each column. -/
def dotScore (c : PondCmd) (ws cs : List (List Byte)) (acc : Word) : Word :=
  canonAcc <| (ws.zip cs).foldl
    (fun a p => blockStep true (sigOf c) ((colValues c.fmtW p.1).zip (colValues c.fmtA p.2)) a) acc

/-- Query q against item i. -/
def dotItem (x : UnitAt) (t : Option TenIx) (c : PondCmd) (mvw : Bool) (r : State × Bool) (qi : Nat × Nat) : State × Bool :=
  let cs := readColumns r.1 x t (itemColumns c qi.2)
  let u := unitOf cs.1 x.key
  let regs := (List.range c.nw.toNat).map fun j => c.wbase.toNat + qi.1 * c.nw.toNat + j
  let dst := c.adst.toNat + qi.1 * c.count.toNat + qi.2
  let cont := mvw && c.acc
  let met := regs.any (wBad u) || cs.2.any (·.bad)
  let v := dotScore c (regs.map (wReg u)) (cs.2.map (·.bytes)) (if cont then accOf u dst else 0)
  (modUnit cs.1 x.key fun y => setAcc y dst v (met || (cont && accBad u dst)), r.2 || met)

/-- DOT and MVW (R205): each query reads every item again, as the duration of R204 counts. -/
def dotEffect (s : State) (x : UnitAt) (t : Option TenIx) (c : PondCmd) (nq : Nat) (mvw : Bool) : State × Bool :=
  ((List.range nq).flatMap fun q => (List.range c.count.toNat).map fun i => (q, i)).foldl (dotItem x t c mvw) (s, false)

/-- SOFTP (R206). A masked position has no effect but its own zero, poisoned or not (R241). -/
def softpUnit (c : PondCmd) (u : Unit) : Unit :=
  let p := c.adst.toNat
  let a := c.asrc.toNat
  let nv := c.nv 3
  let idx := List.range c.count.toNat
  let m0 := accOf u p
  let m := (List.range nv).foldl (fun m i => max32 m (accOf u (a + i))) m0
  let mBad := accBad u p || (List.range nv).any fun i => accBad u (a + i)
  let k := expdWord m0 m false
  let es := idx.map fun i => (expdWord (accOf u (a + i)) m (decide (nv ≤ i)), decide (i < nv) && (mBad || accBad u (a + i)))
  let sum := es.foldl (fun v e => add32 v e.1) (mul32 (accOf u (p + 1)) k)
  let sBad := mBad || accBad u (p + 1) || es.any (·.2)
  let u1 := es.zipIdx.foldl (fun y e => setAcc y (a + e.2) e.1.1 e.1.2) u
  let u2 := (List.range c.vlen).foldl
    (fun y j => setAcc y (p + 2 + j) (mul32 (accOf y (p + 2 + j)) k) (mBad || accBad y (p + 2 + j))) u1
  setAcc (setAcc u2 p m mBad) (p + 1) sum sBad

/-- WSUM (R207): items in order, elements in element order. -/
def wsumItem (x : UnitAt) (t : Option TenIx) (c : PondCmd) (r : State × Bool) (i : Nat) : State × Bool :=
  let cs := readColumns r.1 x t (itemColumns c i)
  let w := c.asrc.toNat + i
  let vals := cs.2.flatMap fun l => (colValues c.fmtA l.bytes).map fun v => (v, l.bad)
  (modUnit cs.1 x.key fun u =>
      vals.zipIdx.foldl
        (fun y v =>
          let d := c.adst.toNat + v.2
          let prod := ((Ext.ofF32 (accOf y w)).mul v.1.1).mul (sigOf c)
          setAcc y d (canonAcc (rne32 ((Ext.ofF32 (accOf y d)).add prod))) (v.1.2 || accBad y w || accBad y d)) u,
    r.2 || cs.2.any (·.bad))

def wsumEffect (s : State) (x : UnitAt) (t : Option TenIx) (c : PondCmd) : State × Bool :=
  (List.range (c.nv 4)).foldl (wsumItem x t c) (s, false)

/-- A result of EWU: rounded once in binary32, converted to the array format (R114, R204). -/
def ewuCode (f : BitVec 4) (v : Word) : Nat := (convert f.toNat (Ext.ofF32 v)).code

/-- One column of EWU, column j of its item at linear column l. -/
def ewuColumn (x : UnitAt) (t : Option TenIx) (c : PondCmd) (r : State × Bool) (lj : Nat × Nat) : State × Bool :=
  let reg := c.wbase.toNat + lj.2
  let u := unitOf r.1 x.key
  let wv := (colValues c.fmtW (wReg u reg)).map rne32
  let wb := c.eop != 3 && wBad u reg
  if c.eop = 0 then
    (putColumn r.1 x lj.1 (packCodes c.fmtA.toNat (wv.map (ewuCode c.fmtA))) wb, r.2 || wb)
  else
    let cr := readColumn r.1 x t lj.1
    let cv := (colValues c.fmtA cr.2.bytes).map rne32
    let out := if c.eop = 1 then (cv.zip wv).map fun p => add32 p.1 p.2
      else if c.eop = 2 then (cv.zip wv).map fun p => mul32 p.1 p.2
      else cv.map fun v => mul32 v c.sig
    (putColumn cr.1 x lj.1 (packCodes c.fmtA.toNat (out.map (ewuCode c.fmtA))) (wb || cr.2.bad), r.2 || wb || cr.2.bad)

def ewuEffect (s : State) (x : UnitAt) (t : Option TenIx) (c : PondCmd) : State × Bool :=
  ((List.range c.count.toNat).flatMap fun i => (itemColumns c i).zipIdx).foldl (ewuColumn x t c) (s, false)

/-- FILL (R204). -/
def fillEffect (s : State) (x : UnitAt) (c : PondCmd) : State × Bool :=
  if c.aux0 then
    (modUnit s x.key fun u =>
      (List.range c.count.toNat).foldl
        (fun y i => { y with a := tabSet 0 y.a (c.adst.toNat + i) c.sig, aPoison := tabSet false y.aPoison (c.adst.toNat + i) false })
        u, false)
  else
    let u := unitOf s x.key
    let bad := wBad u c.wbase.toNat
    ((List.range c.count.toNat).foldl (fun r i => putColumn r x (c.l0 + i) (wReg u c.wbase.toNat) bad) s, bad)

/-- One column of COPYR (R222, R223). -/
def copyrColumn (x : UnitAt) (t : Option TenIx) (c : PondCmd) (r : State × Bool) (i : Nat) : State × Bool :=
  let cr := readColumn r.1 x t (c.l0 + i)
  (if cr.2.bad then storeColumn cr.1 x (c.dest + i) cr.2.stored else putColumn cr.1 x (c.dest + i) cr.2.bytes false,
    r.2 || cr.2.bad)

/-- CCOMB (R208). -/
def ccombUnit (c : PondCmd) (u : Unit) : Unit :=
  let r := c.asrc.toNat
  let o := c.adst.toNat
  let m := max32 (accOf u r) (accOf u o)
  let mBad := accBad u r || accBad u o
  let cr := expdWord (accOf u r) m false
  let co := expdWord (accOf u o) m false
  let vs := (List.range (c.vlen + 1)).map fun j =>
    (add32 (mul32 (accOf u (r + 1 + j)) cr) (mul32 (accOf u (o + 1 + j)) co),
      mBad || accBad u (r + 1 + j) || accBad u (o + 1 + j))
  vs.zipIdx.foldl (fun y v => setAcc y (o + 1 + v.2) v.1.1 v.1.2) (setAcc u o m mBad)

/-- One column of CHECK (R223). -/
def checkColumn (x : UnitAt) (t : Option TenIx) (c : PondCmd) (r : State × Bool) (i : Nat) : State × Bool :=
  let cr := readColumn r.1 x t (c.l0 + i)
  (if c.aux0 && cr.2.corr && !cr.2.bad then putColumn cr.1 x (c.l0 + i) cr.2.bytes false else cr.1, r.2 || cr.2.bad)

/-- LDW with SRC = 1 (R204, R222). -/
def ldwColumn (x : UnitAt) (t : Option TenIx) (c : PondCmd) (r : State × Bool) (j : Nat) : State × Bool :=
  let cr := readColumn r.1 x t (c.l0 + j)
  let raw := bytesOfWords (cr.2.stored.map (·.d))
  (modUnit cr.1 x.key fun u => setW u (c.wbase.toNat + j) (if cr.2.bad then raw else cr.2.bytes) cr.2.bad, r.2 || cr.2.bad)

/-- Deliver a CSEND to the latch of its target unless that holds data by now (R220, R221): the status it ends with. -/
def csendEffect (s : State) (x : UnitAt) (c : PondCmd) : State × BitVec 4 :=
  if h : x.st < 12 ∧ x.d < 16 then
    let tk := bankKey x.st x.d (physBank s ⟨x.st, h.1⟩ ⟨x.d, h.2⟩ c.tgt)
    if (unitOf s tk).latch.isEmpty then
      let u := unitOf s x.key
      let vs := (List.range c.count.toNat).map fun i => (accOf u (c.asrc.toNat + i), accBad u (c.asrc.toNat + i))
      (modUnit s tk fun y => { y with latch := vs }, 0)
    else (s, 7)
  else (s, 0)

/-- CRECV: the values taken from the latch at the start go to the accumulators (R204). -/
def crecvUnit (c : PondCmd) (u : Unit) : Unit :=
  { u.carry.zipIdx.foldl (fun y v => setAcc y (c.adst.toNat + v.2) v.1.1 v.1.2) u with carry := [] }

/-- The effect of a started command when it ends, and its status: OK, UE, or what the sluice chain gives (R204, R209). -/
def pondEffect (s : State) (x : UnitAt) (run : PondRun) : State × BitVec 4 :=
  let c := run.cmd
  let t := run.ten
  let ue (r : State × Bool) : State × BitVec 4 := (r.1, if r.2 then 0xA else 0)
  let cols := List.range c.count.toNat
  match run.op.toNat with
  | 1 => if c.aux0 then ue ((List.range c.nw.toNat).foldl (ldwColumn x t c) (s, false)) else (s, 0)
  | 2 => ue (dotEffect s x t c (c.nq 2) false)
  | 3 => (modUnit s x.key (softpUnit c), 0)
  | 4 => ue (wsumEffect s x t c)
  | 5 => ue (dotEffect s x t c 1 true)
  | 6 => ue (ewuEffect s x t c)
  | 7 => ue (fillEffect s x c)
  | 8 => ue (cols.foldl (copyrColumn x t c) (s, false))
  | 9 => csendEffect s x c
  | 10 => (modUnit s x.key (crecvUnit c), 0)
  | 11 => (modUnit s x.key (ccombUnit c), 0)
  | 12 => ue (cols.foldl (checkColumn x t c) (s, false))
  | _ => (s, 0)

/-! ### Start, hold, end (R203, R204, R209) -/

/-- Active banks of a die (R216). -/
def activeBanks (s : State) (st d : Nat) : Nat :=
  (s.dram.units.filter fun e => decide (bankKey st d 0 ≤ e.1) && decide (e.1 < bankKey st d 264) && e.2.running.isSome).length

/-- POND_PEAK (R227): judged as a command starts, so that it reads 0 from a read until the next start (DESIGN CHOICE, log entry
220). -/
def notePeak (s : State) (st : StackIx) (d : Nat) : State :=
  let n := activeBanks s st.val d
  modStack s st fun x =>
    if x.peak.toNat < n then { x with peak := BitVec.ofNat 9 n, peakDie := BitVec.ofNat 4 d } else x

/-- An LDW that waits for payload. -/
def waitsPayload (run : PondRun) : Bool := run.op == 1 && !run.cmd.aux0

/-- A command starts in its unit (R203): a status that stops it, the latch it takes or is judged by, the payload it waits
for. A NOP takes no time and ends at once. -/
def startRun (s : State) (b : BankIx) (run : PondRun) : State :=
  let x := unitAt s b
  let u := unitOf s x.key
  let tk := bankKey x.st x.d (physBank s b.stack b.die run.cmd.tgt)
  let stop := pondStop run.op run.cmd x.bank u.latch.length
  if run.op == 0 && stop.isNone then
    modUnit s x.key fun y => { y with lop := 0, stat := 0, win := if run.cmd.winv then run.cmd.win else y.win }
  else
    let stat : BitVec 4 := stop.getD (
      if run.op == 9 && !(unitOf s tk).latch.isEmpty then 7 else if run.op == 10 && u.latch.isEmpty then 8 else 0)
    let takes := run.op == 10 && stat == 0
    let s1 := modUnit s x.key fun y =>
      { y with
        running := some run, runStat := stat, carry := if takes then y.latch else [], latch := if takes then [] else y.latch,
        payload := if waitsPayload run && stat == 0 then run.cmd.nw.toNat - y.heldPay.length else 0, heldPay := [],
        win := if run.cmd.winv && stop.isNone then run.cmd.win else y.win }
    let s2 := if waitsPayload run && stat == 0 then
        modUnit s1 x.key fun y => u.heldPay.zipIdx.foldl (fun z p => setW z (run.cmd.wbase.toNat + p.2) p.1.1 p.1.2) y
      else s1
    notePeak s2 b.stack x.d

/-- A command reaches one bank of its BMASK (R203): it starts, waits or is refused. It waits for a refresh too (R259). -/
def acceptRun (s : State) (b : BankIx) (run : PondRun) : State :=
  let x := unitAt s b
  let u := unitOf s x.key
  if u.holding.isSome then modUnit s x.key fun y => { y with stat := 1 }
  else
    let s1 := modUnit s x.key fun y => { y with tag := run.tag }
    if u.running.isSome || (bankOf s (bankKeyOf b)).refreshing then modUnit s1 x.key fun y => { y with holding := some run, heldPay := [] }
    else startRun s1 b run

/-- A unit's LDW of this tag that still waits for payload. -/
def awaiting (r : Option PondRun) (tag : BitVec 4) : Bool :=
  match r with
  | some x => waitsPayload x && x.tag == tag
  | none => false

/-- One payload write reaches the units of the LDW (R201); one that arrives uncorrectable is poisoned (R222, R281). -/
def deliver (s : State) (b : BankIx) (tag : BitVec 4) (reg : Nat) (data : List Byte) (bad : Bool) : State :=
  modUnit s (unitAt s b).key fun u =>
    if awaiting u.running tag && u.payload != 0 then { setW u reg data bad with payload := u.payload - 1 }
    else if awaiting u.holding tag then { u with heldPay := u.heldPay ++ [(padTo 0 32 data, bad)] } else u

/-- The window closes early: the LDW ends with PAYLOAD in every unit of its BMASK (R201). Where it is still held it ends at
once, with the payload delivered so far in W (DESIGN CHOICE, log entry 218). -/
def cutShort (s : State) (b : BankIx) (tag : BitVec 4) : State :=
  modUnit s (unitAt s b).key fun u =>
    if awaiting u.running tag && u.payload != 0 then { u with running := none, payload := 0, lop := 1, stat := 0xB }
    else
      match u.holding with
      | some h =>
        if awaiting u.holding tag then
          { u.heldPay.zipIdx.foldl (fun z p => setW z (h.cmd.wbase.toNat + p.2) p.1.1 p.1.2) u with
            holding := none, heldPay := [], lop := 1, stat := 0xB }
        else u
      | none => u

def windowOf (s : State) (g : SegIx) : Window :=
  tabGet { tag := 0, bmask := 0, wbase := 0, left := 0, next := 0 } s.dram.windows (segKey g)

def setWindow (s : State) (g : SegIx) (w : Window) : State :=
  { s with dram := { s.dram with
    windows := tabSet { tag := 0, bmask := 0, wbase := 0, left := 0, next := 0 } s.dram.windows (segKey g)
      (if w.left = 0 then { tag := 0, bmask := 0, wbase := 0, left := 0, next := 0 } else w) } }

/-- An ordinary access waits for the bank as the command ends there, and goes before a held command (R213). -/
def noteWaiting (s : State) (b : BankIx) : State :=
  if (unitOf s (unitAt s b).key).holding.isSome && (stackOf s b.stack).queue.any fun q => reqBank b.stack q.req == b then
    modBank s (bankKeyOf b) fun x => { x with waiting := true }
  else s

/-- A per-bank refresh begins, its row closed (R257). -/
def beginRefresh (s : State) (b : BankIx) : State :=
  modBank (sendTo (closeRow s b) b (.refresh b)) (bankKeyOf b) fun x => { x with refreshing := true }

/-- The refresh of an idle bank that owes eight, at once (R259). -/
def forcedRefresh (s : State) (b : BankIx) : State :=
  if 8 ≤ (bankOf s (bankKeyOf b)).owed && !(bankOf s (bankKeyOf b)).refreshing &&
      (unitOf s (unitAt s b).key).running.isNone then
    logEvent (modStack (beginRefresh s b) b.stack fun x => { x with forced := satAdd x.forced 1 }) 0x63
      [BitVec.ofNat 8 b.stack.val, BitVec.ofNat 8 (bankSeg b).pc.val, BitVec.ofNat 8 b.die.val, BitVec.ofNat 8 b.bank.val] none
  else s

/-- A write to a command row decoded as a command (R199 to R203). A window that it closes ends the LDW, and a refresh that is due
there comes first (R259). -/
def commandWrite (s : State) (g : SegIx) (tag : BitVec 4) (a : Arrival) (op : BitVec 6) (c : PondCmd) (t : Option TenIx) :
    State :=
  let units (m : Half) : List Unit := (segBanks g m).map fun b => unitOf s (unitAt s b).key
  let w := windowOf s g
  let s1 := noteSent (modStack s g.stack fun x => { x with cmds := x.cmds + 1 }) g.stack g.pc
    (.pond g { op := op, tag := tag, cmd := c, ten := t } (units c.bmask) w (if w.left = 0 then [] else units w.bmask))
  let s2 := { s1 with dram := { s1.dram with tags := tabSet 0 s1.dram.tags (segKey g) ((tag.toNat + 1) % 16) } }
  let s3 := if w.left = 0 then s2 else
    setWindow ((segBanks g w.bmask).foldl (fun r b => forcedRefresh (noteWaiting (cutShort r b w.tag) b) b) s2) g { w with left := 0 }
  match a with
  | .uncorrectable => (allSegBanks g).foldl (fun r b => modUnit r (unitAt r b).key fun u => { u with stat := 6 }) s3
  | .good =>
    let run : PondRun := { op := op, tag := tag, cmd := c, ten := t }
    let s5 := (segBanks g c.bmask).foldl (fun r b => acceptRun r b run) s3
    if waitsPayload run then
      setWindow s5 g { tag := tag, bmask := c.bmask, wbase := c.wbase.toNat, left := c.nw.toNat, next := 0 }
    else s5

/-- A payload write of an open window (R201). -/
def payloadWrite (s : State) (g : SegIx) (w : Window) (data : List Byte) : State :=
  let reg := w.wbase + w.next
  let was := (segBanks g w.bmask).map fun b => (wReg (unitOf s (unitAt s b).key) reg, wBad (unitOf s (unitAt s b).key) reg)
  let got := arriveColumn s g data
  setWindow ((segBanks g w.bmask).foldl (fun r b => deliver r b w.tag reg (got.getD data) got.isNone)
      (noteSent s g.stack g.pc (.payload g w data was))) g
    { w with left := w.left - 1, next := w.next + 1 }

/-- A command column as the stack receives it (R199, R202, R297). The controller drains the banks of the command that it holds,
whatever injection makes of the column (R236; DEDUCED, log entry 210). -/
def rowCommand (s0 : State) (g : SegIx) (tag : BitVec 4) (a : Arrival) (op : BitVec 6) (c : PondCmd) (t : Option TenIx) : State :=
  let s := prepareBanks s0 (segBanks g c.bmask)
  match a, arriveColumn s g (encPond op c) with
  | .good, none => commandWrite s g tag .uncorrectable op c t
  | .good, some bs =>
    if bs = encPond op c then commandWrite s g tag .good op c t else commandWrite s g tag .good (decPond bs).1 (decPond bs).2 t
  | .uncorrectable, _ => commandWrite s g tag .uncorrectable op c t

/-- A write to command row 0xFFF0 + tag of a segment: dropped outside pond mode (R198), payload of a window open on that row,
else a command (R199, R201). While an exit waits the controller writes no command (R197), but an LDW under way keeps its payload
(log entry 161); and a command waits while its banks have queued writes that cannot be written yet (R213, R236). -/
def arrive (s : State) (g : SegIx) (tag : BitVec 4) (a : Arrival) (op : BitVec 6) (c : PondCmd) (t : Option TenIx) : State :=
  let w := windowOf s g
  if !pondOn s g.stack g.pc then s
  else if w.left ≠ 0 ∧ w.tag = tag then payloadWrite s g w (encPond op c)
  else if !pondOpen s g.stack g.pc || drainWaits s (segBanks g c.bmask) then s
  else rowCommand s g tag a op c t

/-- A write to a command row as its bytes: payload where a window is open on that row, else the command that they spell (R199,
R201). -/
def rowWrite (s : State) (g : SegIx) (tag : BitVec 4) (data : List Byte) (t : Option TenIx) : State :=
  let w := windowOf s g
  if pondOn s g.stack g.pc && w.left != 0 && w.tag == tag then payloadWrite s g w (padTo 0 32 data)
  else arrive s g tag .good (decPond data).1 (decPond data).2 t

/-- NOP (R204). -/
def execNop (g : SegIx) (tag : BitVec 4) (a : Arrival) (c : PondCmd) (s : State) : Answer := .next (arrive s g tag a 0 c none)

/-- LDW (R201, R204). -/
def execLdw (g : SegIx) (tag : BitVec 4) (a : Arrival) (c : PondCmd) (s : State) : Answer := .next (arrive s g tag a 1 c none)

/-- LDW_PAYLOAD (R201): a write to a command row; payload where a window is open on that row, else the command that its bytes
spell. -/
def execLdwPayload (g : SegIx) (tag : BitVec 4) (data : List Byte) (s : State) : Answer :=
  .next (rowWrite s g tag data none)

/-- DOT (R205). -/
def execDot (g : SegIx) (tag : BitVec 4) (a : Arrival) (c : PondCmd) (s : State) : Answer := .next (arrive s g tag a 2 c none)

/-- SOFTP (R206). -/
def execSoftp (g : SegIx) (tag : BitVec 4) (a : Arrival) (c : PondCmd) (s : State) : Answer :=
  .next (arrive s g tag a 3 c none)

/-- WSUM (R207). -/
def execWsum (g : SegIx) (tag : BitVec 4) (a : Arrival) (c : PondCmd) (s : State) : Answer := .next (arrive s g tag a 4 c none)

/-- MVW (R204, R205). -/
def execMvw (g : SegIx) (tag : BitVec 4) (a : Arrival) (c : PondCmd) (s : State) : Answer := .next (arrive s g tag a 5 c none)

/-- EWU (R204, R223). -/
def execEwu (g : SegIx) (tag : BitVec 4) (a : Arrival) (c : PondCmd) (s : State) : Answer := .next (arrive s g tag a 6 c none)

/-- FILL (R204). -/
def execFill (g : SegIx) (tag : BitVec 4) (a : Arrival) (c : PondCmd) (s : State) : Answer := .next (arrive s g tag a 7 c none)

/-- COPYR (R204, R222). -/
def execCopyr (g : SegIx) (tag : BitVec 4) (a : Arrival) (c : PondCmd) (s : State) : Answer :=
  .next (arrive s g tag a 8 c none)

/-- CSEND (R219 to R221). -/
def execCsend (g : SegIx) (tag : BitVec 4) (a : Arrival) (c : PondCmd) (s : State) : Answer :=
  .next (arrive s g tag a 9 c none)

/-- CRECV (R204, R221). -/
def execCrecv (g : SegIx) (tag : BitVec 4) (a : Arrival) (c : PondCmd) (s : State) : Answer :=
  .next (arrive s g tag a 10 c none)

/-- CCOMB (R208). -/
def execCcomb (g : SegIx) (tag : BitVec 4) (a : Arrival) (c : PondCmd) (s : State) : Answer :=
  .next (arrive s g tag a 11 c none)

/-- CHECK (R223). -/
def execCheck (g : SegIx) (tag : BitVec 4) (a : Arrival) (c : PondCmd) (s : State) : Answer :=
  .next (arrive s g tag a 12 c none)

/-- POND_COMMAND_START (R203): the held command starts in a unit that runs none, after any refresh of the bank (R259) and after
one of the accesses that waited for the bank (R213). A NOP leaves the unit idle, which a waiting exit may need (R197). -/
def execPondCommandStart (b : BankIx) (s : State) : Answer :=
  .next <|
    let x := unitAt s b
    let u := unitOf s x.key
    match u.holding, u.running with
    | some h, none =>
      let k := bankOf s (bankKeyOf b)
      if k.refreshing || (k.waiting && (stackOf s b.stack).queue.any fun q => reqBank b.stack q.req == b) ||
          k.asked.any (asking s) then s
      else
        settleExit (startRun (answered (modUnit s x.key fun y => { y with holding := none }) b) b h) b.stack (bankSeg b).pc
    | _, _ => s

/-- The running command of a bank ends (R204): effect, LOP and STAT. -/
def endRun (s : State) (b : BankIx) (run : PondRun) : State :=
  let x := unitAt s b
  let u := unitOf s x.key
  let r := if u.runStat = 0 then pondEffect s x run else (s, u.runStat)
  noteWaiting (modUnit r.1 x.key fun y => { y with running := none, runStat := 0, carry := [], lop := run.op, stat := r.2 }) b

/-- POND_COMMAND_END (R204, R197, R259). An LDW ends only after its payload. -/
def execPondCommandEnd (b : BankIx) (s : State) : Answer :=
  .next <|
    let u := unitOf s (unitAt s b).key
    match u.running with
    | none => s
    | some run =>
      if u.payload = 0 then settleExit (forcedRefresh (endRun s b run) b) b.stack (bankSeg b).pc else s

/-- The exposed bank that a unit's physical bank answers as. -/
def unitBank (s : State) (k : Nat) : Option BankIx :=
  let d := dieBank s (k / 264 / 16) (k / 264 % 16) (k % 264)
  if h : k / 264 / 16 < 12 ∧ k / 264 % 16 < 16 ∧ d < 256
  then some { stack := ⟨k / 264 / 16, h.1⟩, die := ⟨k / 264 % 16, h.2.1⟩, bank := ⟨d, h.2.2⟩ } else none

/-- The command that runs in a unit comes to its end; an LDW that gets no more payload ends with PAYLOAD. -/
def endNow (s : State) (b : BankIx) : State :=
  let u := unitOf s (unitAt s b).key
  match u.running with
  | some run => if u.payload = 0 then endRun s b run else cutShort s b run.tag
  | none => s

/-- A unit becomes idle: its running command ends, and the one that it holds runs. -/
def drainUnit (s : State) (b : BankIx) : State :=
  let s1 := endNow s b
  match (unitOf s1 (unitAt s1 b).key).holding with
  | some h => endNow (startRun (modUnit s1 (unitAt s1 b).key fun y => { y with holding := none }) b h) b
  | none => s1

/-- Every unit becomes idle, as pond mode is left before self-refresh (R197, R271). -/
def drainUnits (s : State) : State :=
  ((s.dram.units.filter fun e => e.2.running.isSome || e.2.holding.isSome).filterMap fun e => unitBank s e.1).foldl drainUnit s

/-! ### The result row (R210, R211) -/

/-- Column 0 of the result row. -/
def statusColumn (s : State) (b : BankIx) : List Byte :=
  let u := unitOf s (unitAt s b).key
  let st : Nat := if u.running.isSome then (if u.holding.isSome then 2 else 1) else 0
  let base := 128 * u.win.toNat
  let bits := (List.range 128).foldl (fun v e => if accBad u (base + e) then v + 2 ^ e else v) 0
  [BitVec.ofNat 8 (st + (if pondOn s b.stack (bankSeg b).pc then 4 else 0) + (if u.latch.isEmpty then 0 else 8)),
    u.tag.zeroExtend 8, u.lop.zeroExtend 8, u.stat.zeroExtend 8] ++ leBytes 2 u.corr.toNat ++ leBytes 2 u.uec.toNat ++
    leBytes 4 u.ueaddr.toNat ++ leBytes 2 u.latch.length ++ [u.win.zeroExtend 8, 0] ++ leBytes 16 bits

/-- Columns 16 to 31 of the result row, and whether a poisoned accumulator is among them. -/
def resultColumn (u : Unit) (c : Nat) : List Byte × Bool :=
  let i := 128 * u.win.toNat + 8 * (c - 16)
  ((List.range 8).flatMap fun e => leBytes 4 (accOf u (i + e)).toNat, (List.range 8).any fun e => accBad u (i + e))

/-- The controller gathers and the read clears CORR and UEC (R211, R227). -/
def clearStatus (s : State) (b : BankIx) : State :=
  let u := unitOf s (unitAt s b).key
  modStack (modUnit s (unitAt s b).key fun y => { y with corr := 0, uec := 0 }) b.stack fun x =>
    { x with chkUe := satAdd x.chkUe u.uec.toNat, chkCorr := satAdd x.chkCorr u.corr.toNat }

/-- RESULT_ROW_READ (R210, R211). Columns 16 to 31 wait while a command runs on the bank (R213). -/
def execResultRowRead (b : BankIx) (col : Fin 32) (s : State) : Answer :=
  .next <|
    let u := unitOf s (unitAt s b).key
    if !pondOn s b.stack (bankSeg b).pc then emit s [.rowData (some (List.replicate 32 0))]
    else if col.val = 0 then emit (clearStatus (sendTo s b (.result b col)) b) [.rowData (some (statusColumn s b))]
    else if col.val < 16 then emit (sendTo s b (.result b col)) [.rowData (some (List.replicate 32 0))]
    else if u.running.isSome then askBank s b none
    else
      let r := resultColumn u col.val
      emit (answered (sendTo s b (.result b col)) b) [.rowData (if r.2 then none else some r.1)]

end Sys2Proof.Machine
end

