-- ==== Sys2Proof/Machine/Requests.lean ====
section
/-! DEFINITION. Requests at the memory controllers (R244 to R250, R254, R255). When each request is served is the sender's to say. -/

namespace Sys2Proof.Machine

/-! ### Arrival (R244, R254, R255) -/

def sameColumn (a b : DramReq) : Bool :=
  a.pc == b.pc && a.sid == b.sid && a.bank == b.bank && a.row == b.row && a.col == b.col

/-- The write queue entry of the request's column (R254, R255). -/
def queuedWrite (x : Stack) (r : DramReq) : Option WqEntry :=
  (tabGet [] x.wq r.pc.val).find? fun e => e.sid == r.sid && e.bank == r.bank && e.row == r.row && e.col == r.col

/-- Key of a column's first word in the arrays. -/
def reqKey (s : State) (k : StackIx) (r : DramReq) : Nat :=
  let x := unitAt s (reqBank k r)
  dramKey x.st x.d x.phys (reqColumn r) 0

/-- Bits of the byte mask of word i of a column. -/
def wordMask (m : BitVec 32) (i : Nat) : Nat := bitsOf m.toNat (8 * i) 8

/-- A word of a column with the request's bytes in it; an untouched word keeps its stored bits (R282, R283). -/
def patchWord (s : State) (key : Nat) (r : DramReq) (i : Nat) (old : Stored) : Stored :=
  let m := wordMask r.mask i
  if m = 0 then old
  else
    let was := leBytes 8 (decodeWord old).d.toNat
    storedFor s (key + i) (wordOfBytes ((List.range 8).map fun j => if bitOf m j then r.data.getD (8 * i + j) 0 else was.getD j 0))

/-- A word that the request covers in part cannot be corrected, so that it does not merge (R283). -/
def mergeFails (r : DramReq) (ws : List Stored) : Bool :=
  ws.zipIdx.any fun w => wordMask r.mask w.2 != 0 && wordMask r.mask w.2 != 255 && (decodeWord w.1).check == .uncorrectable

def enqueue (s : State) (k : StackIx) (r : DramReq) : State :=
  modStack s k fun x => { x with queue := x.queue ++ [{ req := r, cls := srcClass r.src, since := s.tick, promoted := false }] }

/-- The merged column of a write joins its queued entry, the younger bytes winning, or takes an entry of its own (R254). -/
def placeWrite (s : State) (k : StackIx) (r : DramReq) (ws : List Stored) : State :=
  let new := (ws.zipIdx.map fun w => patchWord s (reqKey s k r) r w.2 w.1).flatMap storedBytes
  match queuedWrite (stackOf s k) r with
  | some e =>
    modStack s k fun y =>
      { y with wq := tabModify [] y.wq r.pc.val fun l => l.map fun z => if z = e then { z with data := new } else z }
  | none =>
    enqueue (modStack s k fun x =>
      { x with wq := tabModify [] x.wq r.pc.val fun l =>
          l ++ [{ sid := r.sid, bank := r.bank, row := r.row, col := r.col, data := new }] }) k r

/-- A write reaches the controller (R254, R282, R283). It waits outside while the queue of its pseudo-channel is full, and
while the read of its merge must wait (R213). That read opens its row as any does (R250). A narrow write corrects the words it
meets and counts them; one that cannot be merged is not carried out and halts its channel (R181). -/
def takeWrite (s : State) (k : StackIx) (r : DramReq) : State :=
  let held := (queuedWrite (stackOf s k) r).isSome
  let whole := r.mask == BitVec.allOnes 32
  let ws := seenColumn s (reqKey s k r)
  if !held && decide (64 ≤ (tabGet [] (stackOf s k).wq r.pc.val).length) then s
  else if !held && !whole && accessWaits s r.src (reqBank k r) (reqColumn r) then askBank s (reqBank k r) (some r.src)
  else if whole then placeWrite s k r ws
  else
    let s0 := if held then s else answered (readArray s (reqBank k r) (reqColumn r) r.hint) (reqBank k r)
    let s1 := noteColumn s0 0x40 (decodedFrom (reqKey s k r) ws) (reqTenant s r.src)
    let s2 := if held then s1 else modStack s1 k fun y => { y with merge := satAdd y.merge 1 }
    if mergeFails r ws then haltSource s2 r.src true else placeWrite s2 k r ws

/-- A read served from the write queue, the whole column with its check bits, so that its findings count as any reader's do
(R255, R280, R281). -/
def forwardRead (s : State) (k : StackIx) (r : DramReq) (e : WqEntry) : State :=
  let ws := entryStored e
  let s1 := noteColumn (modStack s k fun x => { x with fwd := satAdd x.fwd 1 }) 0x40 (decodedFrom (reqKey s k r) ws)
    (reqTenant s r.src)
  let s2 := emit s1 [.dramData k (deliverColumn ws)]
  if (deliverColumn ws).isNone then haltSource s2 r.src false else s2

/-- DRAM_REQUEST (R244, R254, R255). Rows at or above 0x6000 hold no array: a write is dropped, a read answers zeros (R198). -/
def execDramRequest (k : StackIx) (r : DramReq) (s : State) : Answer :=
  .next <|
    if 0x6000 ≤ r.row.toNat then (if r.write then s else emit s [.dramData k (some (List.replicate 32 0))])
    else if r.write then takeWrite s k r
    else
      match queuedWrite (stackOf s k) r with
      | some e => forwardRead s k r e
      | none => enqueue s k r

/-! ### Service (R213, R244 to R248, R250) -/

/-- Entry n of the queue, `a`, yields to entry j, `b`, which may be served (R244, R246, R248): to an older one of its class,
planned and promoted requests of SCHED apart; and to a higher class. SCHED goes before the others on its own pseudo-channel,
where it has no slots that it waits for (`slots`; R245). -/
def yields (a b : Queued) (n j : Nat) (slots : Bool) : Bool :=
  (a.rank == b.rank && (decide (b.since.toNat < a.since.toNat) || (b.since == a.since && decide (j < n)))) ||
    (decide (b.rank < a.rank) && (decide (2 ≤ b.rank) || (a.req.pc == b.req.pc && (decide (a.rank ≤ 1) || !slots))))

/-- An earlier request to the column waits, which this one never passes (R246). -/
def behindColumn (l : List (Queued × Nat)) (a : Queued × Nat) : Bool :=
  l.any fun b => decide (b.2 < a.2) && sameColumn a.1.req b.1.req

/-- Whether entry n may be served now, among those that can be. Where the plan has SCHED slots on the pseudo-channel, requests of
SCHED are served in them alone, and one of another class must not end too late for the next (R245, R248; log entry 160). -/
def mayServe (s : State) (k : StackIx) (n : Nat) : Bool :=
  let l := (stackOf s k).queue.zipIdx
  match (stackOf s k).queue[n]? with
  | none => false
  | some a =>
    let slots := hasSlots s k a.req.pc
    servable s k a && !behindColumn l (a, n) && (decide (2 ≤ a.rank) || !slots) &&
      !slotHolds s a.rank (reqBank k a.req) (reqColumn a.req) &&
      !(l.any fun b => b.2 != n && servable s k b.1 && !behindColumn l b && yields a b.1 n b.2 slots)

/-- Serve entry n (R246, R250, R254): a read from the array, a write with what is queued for its column. -/
def serveAt (s : State) (k : StackIx) (n : Nat) (q : Queued) : State :=
  if q.req.write then
    match queuedWrite (stackOf s k) q.req with
    | some e => drainEntry s k q.req.pc e
    | none => modStack s k fun x => { x with queue := dropNth n x.queue }
  else serveRead (modStack s k fun x => { x with queue := dropNth n x.queue }) k q

/-- DRAM_REQUEST_SERVE (R213, R244 to R250). -/
def execDramRequestServe (k : StackIx) (n : Nat) (s : State) : Answer :=
  .next <|
    match (stackOf s k).queue[n]? with
    | none => s
    | some q => if mayServe s k n then serveAt s k n q else s

/-- The oldest of some queue entries (R246). -/
def oldest (l : List (Queued × Nat)) : Option (Queued × Nat) :=
  l.foldl (fun r a => match r with | some b => if a.1.since.toNat < b.1.since.toNat then some a else r | none => some a) none

/-- A transfer slot of the plan serves the oldest planned request of its pseudo-channel, or, where none waits, the oldest one
promoted into SCHED (R245, R248). -/
def serveSlot (s : State) (x : Tenant) (region seg : Nat) : State :=
  match transferSeg x region seg with
  | none => s
  | some g =>
    let l := (stackOf s g.stack).queue.zipIdx
    let fits (rank : Nat) : List (Queued × Nat) :=
      l.filter fun a => a.1.req.pc == g.pc && a.1.rank == rank && servable s g.stack a.1 && !behindColumn l a
    match (oldest (fits 0)).or (oldest (fits 1)) with
    | some a => serveAt s g.stack a.2 a.1
    | none => s

/-- REQUEST_PROMOTION (R247, R248): a request whose time in its class has reached the limit goes one class up, and its count
restarts; a limit of 0 disables it. A µs is 800 ticks. -/
def execRequestPromotion (k : StackIx) (n : Nat) (s : State) : Answer :=
  .next <|
    let x := stackOf s k
    match x.queue[n]? with
    | none => s
    | some q =>
      let due (limit : Half) : Bool := limit != 0 && decide (q.since.toNat + 800 * limit.toNat ≤ s.tick.toNat)
      let up (cls : SvcClass) (f : Stack → Stack) : State :=
        modStack s k fun y =>
          f { y with queue := mapNth (fun z => { z with cls := cls, since := s.tick, promoted := cls == .sched }) n y.queue }
      match q.cls with
      | .sched => s
      | .host => if due x.ageHost then up .sched fun y => { y with toSched := satAdd y.toSched 1 } else s
      | .net => if due x.ageNet then up .host fun y => { y with toHost := satAdd y.toHost 1 } else s
      | .maint => if due x.ageMaint then up .net fun y => { y with toNet := satAdd y.toNet 1 } else s

/-- ROW_IDLE_CLOSE (R250): a row kept open closes after 1 µs without an access. -/
def execRowIdleClose (b : BankIx) (s : State) : Answer :=
  .next <|
    let x := bankOf s (bankKeyOf b)
    if x.keep && decide (x.lastUse.toNat + 800 ≤ s.tick.toNat) then closeRow s b else s

end Sys2Proof.Machine
end

