-- ==== Sys2Proof/Machine/Streams.lean ====
section
/-! DEFINITION. Pond streams (R212, R217, R231 to R239, R249, R251, R266, R269, R307): the controllers take the entries of an image's
pond stream tables in order, gated by the attention records. The ticks at which they do so are the sender's. -/

namespace Sys2Proof.Machine

/-! ### Where SRAM of a stream lies -/

/-- Byte location of a partition-relative address in logical pan 0's partitions (R50; DEDUCED, log entry 51). -/
def streamLoc (s : State) (t : TenIx) (a : Nat) : Option Nat :=
  (panFor s t 0).map fun p => 8 * sramKey p (panOf s p) (BitVec.ofNat 64 a) + a % 8

/-! ### Attention records (R231 to R234) -/

/-- Tokens that the bound blocks of a pair can hold (R234). -/
def placedLength (x : Tenant) (slot : Nat) : Nat :=
  match x.slots[slot]? with
  | some y => y.blocks * y.req.ptok
  | none => 0

def slotRun (x : Tenant) (r : AttnRef) : Nat := match x.slots[r.slot]? with | some y => max 1 y.req.run | none => 1

/-- The block stands at its run's last live position (R237). -/
def lastLive (x : Tenant) (r : AttnRef) (len : Nat) : Bool :=
  decide (firstToken x r r.block < len) &&
    ((r.block + 1) % slotRun x r == 0 || decide (len ≤ firstToken x r (r.block + 1)))

/-- Note the largest length read of a slot, by which its growth is decided (R396). -/
def noteLen (x : Tenant) (slot len : Nat) : Tenant :=
  { x with slots := mapNth (fun y => { y with maxLen := some (max len (y.maxLen.getD 0)) }) slot x.slots }

/-- The one reading of a record in the tide (R232): an uncorrectable word, or a LEN above the placed length, makes the
controller skip the pair's commands and halts the tenant at its next boundary tick (R232, R234). -/
def readAttn (s : State) (t : TenIx) (r : AttnRef) : State :=
  let x := tenOf s t
  if (findAttn x r).isSome then s
  else
    match streamLoc s t r.record with
    | none => s
    | some loc =>
      let head := readBytes s loc 8
      let row := readBytes s (loc + 0x20) (128 * r.heads)
      let s1 := noteWords s 0x40 (head.2 ++ row.2) (some t)
      let len := fieldAt head.1 0 4
      let rec_ : AttnRead :=
        { record := r.record, len := len, qsig := BitVec.ofNat 32 (fieldAt head.1 4 4), qrow := row.1, skip := false }
      let who := BitVec.ofNat 8 t.val :: leBytes 4 x.tide.toNat ++ leBytes 2 r.pair
      let skip (s : State) (code : Byte) (d : List Byte) : State :=
        modTen (logEvent s code d (some t)) t fun y =>
          { y with attn := y.attn ++ [{ rec_ with skip := true }], haltCode := some (y.haltCode.getD code) }
      if (firstBad (head.2 ++ row.2)).isSome then skip s1 0x40 (who ++ leBytes 4 r.record)
      else if placedLength x r.slot < len then skip (modTen s1 t fun y => noteLen y r.slot len) 0x58 who
      else modTen s1 t fun y => { noteLen y r.slot len with attn := y.attn ++ [rec_] }

/-- ATTN_RECORD_READ (R232). -/
def execAttnRecordRead (t : TenIx) (r : AttnRef) (s : State) : Answer :=
  .next <| if (tenOf s t).inTide && !(tenOf s t).idleNow then readAttn s t r else s

/-- A command's NV field (R204). -/
def withNv (op : BitVec 6) (c : PondCmd) (n : Nat) : PondCmd :=
  let aux := c.aux.toNat
  if op = 3 then { c with aux := BitVec.ofNat 32 (aux % 2 ^ 11 + (n % 2 ^ 11) * 2 ^ 11 + aux / 2 ^ 22 * 2 ^ 22) }
  else { c with aux := BitVec.ofNat 32 (n % 2 ^ 11 + aux / 2 ^ 11 * 2 ^ 11) }

/-- Whether a gated entry is written, against the reading of its record (R233). DOT, SOFTP and WSUM look at their own first
token as well as the block's; CSEND is for positions below the run's last live one (R237, R238). -/
def gateOpen (x : Tenant) (op : BitVec 6) (r : AttnRef) (a : AttnRead) : Bool :=
  !a.skip && decide (firstToken x r r.block < a.len) && (!(op == 2 || op == 3 || op == 4) || decide (r.t0 < a.len)) &&
    (op != 9 || !lastLive x r a.len)

/-- The fields that the record supplies (R233). -/
def gateFields (op : BitVec 6) (c : PondCmd) (r : AttnRef) (a : AttnRead) : PondCmd :=
  if op = 2 then { c with sig := a.qsig }
  else if op = 3 ∨ op = 4 then withNv op c (min c.count.toNat (a.len - r.t0))
  else c

/-- TGT of a CSEND as the bank's number. -/
def withTgt (c : PondCmd) (bank : Fin 256) : PondCmd :=
  { c with aux := BitVec.ofNat 32 (c.aux.toNat / 256 * 256 + bank.val) }

/-- The command of a block: columns counted from the block's own first column, and the next position's bank as the target of
CSEND (R228, R237). -/
def blockFields (x : Tenant) (op : BitVec 6) (c : PondCmd) (r : AttnRef) (b : BlockPlace) : PondCmd :=
  let c1 := if usesRow op c then
      { c with row := BitVec.ofNat 16 ((c.l0 + b.l0) / 32), col := BitVec.ofNat 8 ((c.l0 + b.l0) % 32) }
    else c
  if op = 9 then
    match blockOf x r (r.block + 1) with
    | some n => withTgt c1 n.at_.bank
    | none => c1
  else c1

/-! ### Budget (R216, R217) -/

/-- Milliwatts of a running command (R216). -/
def commandMw (op : BitVec 6) (c : PondCmd) : Nat := if op == 7 && !c.aux0 then 8 else 22

def runningOn (s : State) (st d : Nat) : List PondRun :=
  s.dram.units.filterMap fun e => if bankKey st d 0 ≤ e.1 ∧ e.1 < bankKey st d 264 then e.2.running else none

/-- Power of a die in mW: the background of the cadence in force and every running command (R216, R217). -/
def dieMw (s : State) (st : StackIx) (d : Nat) : Nat :=
  (if (stackOf s st).refX2 then 1050 else 700) + ((runningOn s st.val d).map fun r => commandMw r.op r.cmd).sum

/-- ⌊ACT_BANKS × CTRL_SHARE / 16⌋ of the running gear (R217). -/
def activeLimit (x : Tenant) : Nat :=
  match gearNo x x.gear with
  | some g => g.actBanks.toNat * x.ctrlShare / 16
  | none => 0

/-- Banks of the mask in which a command starts at once. Where it only goes into holding registers it adds nothing to the count
or to the die's power, and its start later is not judged (DESIGN CHOICE, log entry 219). -/
def startingBanks (s : State) (g : SegIx) (m : Half) : Nat :=
  ((segBanks g m).filter fun b => (unitOf s (unitAt s b).key).running.isNone).length

/-- A command would exceed the tenant's count or the die's limit (R217). A NOP takes no time and counts for nothing. -/
def overLimit (s : State) (t : TenIx) (g : SegIx) (op : BitVec 6) (c : PondCmd) : Bool :=
  let d := (segDie g).val
  let new := startingBanks s g c.bmask
  let mine := ((runningOn s g.stack.val d).filter fun r => r.ten == some t).length
  op != 0 && new != 0 &&
    (decide (activeLimit (tenOf s t) < mine + new) || decide (2820 < dieMw s g.stack d + new * commandMw op c))

/-! ### Writing a command -/

/-- A command to positions of a member: where it goes, and a CSEND's target as the bank at its position (R24). -/
def memberFields (x : Tenant) (group m : Nat) (op : BitVec 6) (c : PondCmd) : PondCmd :=
  if op = 9 then
    match memberBank x group m c.tgt with
    | some b => withTgt c b.bank
    | none => c
  else c

/-- The controller waits for every named holding register to be empty (R249). -/
def holdFull (s : State) (g : SegIx) (m : Half) : Bool :=
  (segBanks g m).any fun b => (unitOf s (unitAt s b).key).holding.isSome

/-- Write a command of a stream with its payload; the tag taken is expected from now on (R199, R201, R212). -/
def writeCommand (s : State) (t : TenIx) (g : SegIx) (op : BitVec 6) (c : PondCmd) (payload : List Byte) : State :=
  let tag := tabGet 0 s.dram.tags (segKey g)
  let bs := segBanks g c.bmask
  let s2 := arrive s g (BitVec.ofNat 4 tag) .good op c (some t)
  let s3 := if op == 1 && !c.aux0 then
      (groupsOf 32 c.nw.toNat (padTo 0 (32 * c.nw.toNat) payload)).foldl
        (fun r p => rowWrite r g (BitVec.ofNat 4 tag) p (some t)) s2
    else s2
  modTen s3 t fun x => { x with planTags := bs.foldl (fun y b => tabSet 0 y (bankKeyOf b) (tag + 1)) x.planTags }

def advance (s : State) (t : TenIx) (table n : Nat) : State :=
  modTen s t fun x => { x with planPos := tabSet 0 x.planPos table n }

/-- ERR_POND_BUDGET: the command is not written and the tenant halts (R217). -/
def refuseBudget (s : State) (t : TenIx) (g : SegIx) (op : BitVec 6) (c : PondCmd) : State :=
  let d := (segDie g).val
  let bank := match (segBanks g c.bmask).head? with | some b => b.bank.val | none => 0
  let s1 := logEvent s 0x55 [BitVec.ofNat 8 g.stack.val, BitVec.ofNat 8 d, BitVec.ofNat 8 bank] (some t)
  let s2 := notePondErr s1 g.stack 0x55 op 0 (BitVec.ofNat 4 (tabGet 0 s.dram.tags (segKey g))) d bank
  modTen s2 t fun x => { x with haltCode := some (x.haltCode.getD 0x55) }

/-! ### Read-back and the status reads -/

/-- Accumulators that a read-back delivers through the window, up to the first poisoned column (R181, R210, R211, R239), and
whether it met one. -/
def readbackWords (u : Unit) (win : BitVec 3) (first count : Nat) : List Word × Bool :=
  let at_ (i : Nat) : Nat := 128 * u.win.toNat + (first + i - 128 * win.toNat)
  let bad (i : Nat) : Bool := (List.range 8).any fun e => accBad u (at_ i / 8 * 8 + e)
  let good := (List.range count).takeWhile fun i => !bad i
  (good.map fun i => accOf u (at_ i), decide (good.length < count))

/-- Columns of the result row that a read-back reads: those of the accumulators delivered, and the poisoned one. -/
def readbackColumns (win : BitVec 3) (first good : Nat) (bad : Bool) : List (Fin 32) :=
  let at_ (i : Nat) : Fin 32 := ⟨16 + (first + i - 128 * win.toNat) % 128 / 8, by omega⟩
  ((List.range (good + if bad then 1 else 0)).map at_).dedup

/-- Read back to SRAM (R239). A poisoned column, or a word that cannot be merged (R283), halts the read-back: the table stands
still and the tenant halts at its next boundary tick. -/
def readback (s : State) (t : TenIx) (table pos : Nat) (b : BankIx) (win : BitVec 3) (first count sram : Nat) : State :=
  let u := unitOf s (unitAt s b).key
  let r := readbackWords u win first count
  let s := (readbackColumns win first r.1.length r.2).foldl (fun q c => sendTo q b (.result b c)) s
  let put := match streamLoc s t sram with
    | some loc => putBytes s loc (r.1.flatMap fun (w : Word) => leBytes 4 w.toNat) (some t)
    | none => (s, false)
  let s1 := put.1
  if r.2 || put.2 then
    let s2 := logEvent s1 0x40
      ([BitVec.ofNat 8 b.stack.val, BitVec.ofNat 8 b.die.val, BitVec.ofNat 8 b.bank.val, BitVec.ofNat 8 t.val] ++
        leBytes 4 (tenOf s t).tide.toNat) (some t)
    modTen (advance s2 t table 0xFFFFFFFF) t fun x => { x with haltCode := some (x.haltCode.getD 0x40) }
  else advance s1 t table (pos + 1)

/-- A status read (R212): of a bank that the tide's tables commanded, STAT must be OK or UE and TAG the expected one. A fault
keeps the table from signalling (R307). -/
def statusRead (s : State) (t : TenIx) (table : Nat) (b : BankIx) : State :=
  let u := unitOf s (unitAt s b).key
  let want := tabGet 0 (tenOf s t).planTags (bankKeyOf b)
  if want = 0 then s
  else
    let s1 := clearStatus (sendTo s b (.result b 0)) b
    if (u.stat = 0 ∨ u.stat = 0xA) ∧ u.tag.toNat + 1 = want then s1
    else
      let s2 := logEvent s1 0x56
        [BitVec.ofNat 8 b.stack.val, BitVec.ofNat 8 b.die.val, BitVec.ofNat 8 b.bank.val, u.lop.zeroExtend 8,
          u.tag.zeroExtend 8] (some t)
      modTen (notePondErr s2 b.stack 0x56 u.lop u.stat u.tag b.die.val b.bank.val) t fun x =>
        { x with haltCode := some (x.haltCode.getD 0x56), planFault := x.planFault ++ [table] }

/-! ### The streams -/

/-- Write a command to its segments one after the other, each within the budget (R217); the first beyond it ends the
tenant's writing. -/
def writeTargets (s : State) (t : TenIx) (op : BitVec 6) (c : PondCmd) (payload : List Byte) (ts : List (SegIx × Half)) : State :=
  ts.foldl
    (fun r g =>
      let cmd := { c with bmask := g.2 }
      if overLimit r t g.1 op cmd then refuseBudget r t g.1 op cmd else writeCommand r t g.1 op cmd payload)
    s

/-- Write a command where its segments can take it: pond mode, no exit waiting, holding registers empty, no queued write that must
wait (R197, R198, R213, R249); else the table waits. -/
def writeEntry (s : State) (t : TenIx) (table pos : Nat) (op : BitVec 6) (c : PondCmd) (payload : List Byte)
    (ts : List (SegIx × Half)) : State :=
  if ts.any fun g => holdFull s g.1 g.2 || !pondOpen s g.1.stack g.1.pc || drainWaits s (segBanks g.1 g.2) then s
  else advance (writeTargets s t op c payload ts) t table (pos + 1)

/-- One command of a pair of an attention record (R231 to R233). The LDW with the queries goes to every bank that holds a live
block of the pair, any other command to its own block's bank. -/
def issueAttention (s : State) (t : TenIx) (table pos : Nat) (op : BitVec 6) (c : PondCmd) (payload : List Byte) (r : AttnRef) :
    State :=
  let s1 := readAttn s t r
  let x := tenOf s1 t
  match findAttn x r with
  | none => advance s1 t table (pos + 1)
  | some a =>
    if op = 1 ∧ c.aux0 = false then
      if a.skip then advance s1 t table (pos + 1)
      else writeEntry s1 t table pos op c a.qrow (targetsOf (liveBanks x r a.len))
    else
      match gateOpen x op r a, blockOf x r r.block with
      | true, some b => writeEntry s1 t table pos op (blockFields x op (gateFields op c r a) r b) payload (targetsOf [b.at_])
      | _, _ => advance s1 t table (pos + 1)

/-- One command of a stream (R217, R232, R233, R249). -/
def issueCommand (s : State) (t : TenIx) (table pos group m : Nat) (seg : Fin 16) (op : BitVec 6) (c : PondCmd)
    (payload : List Byte) (attn : Option AttnRef) : State :=
  match attn with
  | some r => issueAttention s t table pos op c payload r
  | none =>
    let x := tenOf s t
    writeEntry s t table pos op (memberFields x group m op c) payload (targetsOf (memberBanks x group m seg c.bmask))

/-- A read-back waits while a command runs on the bank, and outside pond mode (R198, R211). -/
def readEntry (s : State) (t : TenIx) (table pos : Nat) (b : BankIx) (win : BitVec 3) (first count sram : Nat) : State :=
  if !pondOn s b.stack (bankSeg b).pc then s
  else if (unitOf s (unitAt s b).key).running.isSome then askBank s b (some (.stream t))
  else readback (answered s b) t table pos b win first count sram

/-- Byte of a pair's partial area at which a part of a partial begins (R239). -/
def partialAt (x : Tenant) (area : Nat) (q : PartialRef) : Nat :=
  area + 4 * ((q.attn.block / slotRun x q.attn * q.attn.heads + q.head) * (q.vlen + 2) + q.elem)

/-- One read-back of a stream. A part of a pair's partials is read at the run's last live position only (R237, R239). -/
def issueReadback (s : State) (t : TenIx) (table pos group m : Nat) (bank : Fin 256) (win : BitVec 3) (first count sram : Nat)
    (part : Option PartialRef) : State :=
  match part with
  | none =>
    match memberBank (tenOf s t) group m bank.val with
    | some b => readEntry s t table pos b win first count sram
    | none => advance s t table (pos + 1)
  | some q =>
    let s1 := readAttn s t q.attn
    let x := tenOf s1 t
    match findAttn x q.attn, blockOf x q.attn q.attn.block with
    | some a, some b =>
      if a.skip || !lastLive x q.attn a.len then advance s1 t table (pos + 1)
      else readEntry s1 t table pos b.at_ win first count (partialAt x sram q)
    | _, _ => advance s1 t table (pos + 1)

/-- The bank of a status read. -/
def statusBank (x : Tenant) (group m : Nat) (bank : Fin 256) : Option AttnRef → Option BankIx
  | none => memberBank x group m bank.val
  | some r => (blockOf x r r.block).map fun b => b.at_

/-- POND_STREAM_ISSUE (R269): the next entry of a table. An entry for a place that the tenant does not have passes unused. -/
def execPondStreamIssue (t : TenIx) (table : Nat) (s : State) : Answer :=
  .next <|
    let x := tenOf s t
    match x.img.plan[table]? with
    | none => s
    | some p =>
      let pos := tabGet 0 x.planPos table
      if !streamLive x p then s
      else
        match p.items[pos]? with
        | none => s
        | some (_, .cmd m seg op c payload attn) => issueCommand s t table pos p.group m seg op c payload attn
        | some (_, .readback m bank win first count sram part) => issueReadback s t table pos p.group m bank win first count sram part
        | some (_, .status m bank attn) =>
          match statusBank x p.group m bank attn with
          | some b =>
            if pondOn s b.stack (bankSeg b).pc then advance (statusRead s t table b) t table (pos + 1) else s
          | none => advance s t table (pos + 1)
        | some (_, .transfer region seg) => advance (serveSlot s x region seg) t table (pos + 1)

/-- The controller that a table's signal names: that of its group's first member. -/
def tableCtrl (x : Tenant) (p : PlanTable) : StackIx := match memberOf x p.group 0 with | some m => m.stack | none => 0

/-- POND_STREAM_COMPLETE (R307): the table's last entry has passed; its tally is signalled unless its own end-of-table status
read found a fault. -/
def execPondStreamComplete (t : TenIx) (table : Nat) (s : State) : Answer :=
  .next <|
    let x := tenOf s t
    match x.img.plan[table]? with
    | none => s
    | some p =>
      if !streamLive x p || tabGet 0 x.planPos table != p.items.length then s
      else
        let s1 := advance s t table (p.items.length + 1)
        match p.signal, x.planFault.contains table with
        | some f, false =>
          let g : TlyIx := ⟨(x.bind.tlyBase + f.toNat) % 4096, by omega⟩
          sendSignal s1 { tly := g, n := 1, src := .pond (tableCtrl x p) t }
        | _, _ => s1

end Sys2Proof.Machine
end

