-- ==== Sys2Proof/Machine/Integrity.lean ====
section
/-! DEFINITION. The rake pass, the clearing of the logs and the fill of unused spares (R289, R290, R293, R294, R296). -/

namespace Sys2Proof.Machine

/-- A log entry as the host or Triyx reads it: decoded word by word, its findings recorded as any reader's; an entry with an
uncorrectable word reads with KIND 3 and every other byte 0 (R280, R284; log entry 162). -/
def readLogEntry (s : State) (ev : Bool) (n : Nat) : List Byte × State :=
  let e := tabGet LogEntry.zero (if ev then s.log.events else s.log.errors) n
  let ws := (storedList 4 e.stored).zipIdx.map fun w => (logKey (if ev then 1 else 0) (32 * n + 8 * w.2), decodeWord w.1)
  let bs := if ws.any fun w => w.2.check == .uncorrectable then (List.replicate 32 0).set 13 3 else bytesOfWords (wordsOf ws)
  (bs, noteWords s 0 ws none)

/-- The key names a word of a memory that the rake pass reads; one of a bank that a spare has replaced, or of a spare not in
use, is reached by no access (R224). -/
def keyExists (s : State) (k : Nat) : Bool :=
  match placeOf k with
  | .pan p a => decide (p < 36) && decide (a < 80 * 2 ^ 20)
  | .sys c a => decide (c < 4) && decide (a < Config.coreMemory)
  | .log l a => decide (l < 2) && decide (a < 32 * if l = 0 then 4096 else 16384)
  | .quad q a => decide (q < 4) && decide (a < 128 * 2 ^ 20)
  | .dram st d b l _ => decide (st < 12) && decide (d < 16) && decide (b < 264) && decide (l < 786432) && (bankOfKey s k).isSome

/-- One stored word of a log (R276). -/
def logStored (s : State) (l a : Nat) : Stored :=
  (storedList 4 (tabGet LogEntry.zero (if l = 0 then s.log.errors else s.log.events) (a / 32)).stored).getD (a / 8 % 4) (encodeWord 0)

/-- A word of a log written again with its check bits. -/
def writeLogWord (s : State) (l a : Nat) (d : Dword) : State :=
  let put (e : LogEntry) : LogEntry :=
    { e with stored := ((storedList 4 e.stored).set (a / 8 % 4) (encodeWord d)).flatMap storedBytes }
  if l = 0 then { s with log := { s.log with errors := tabModify LogEntry.zero s.log.errors (a / 32) put } }
  else { s with log := { s.log with events := tabModify LogEntry.zero s.log.events (a / 32) put } }

/-- The words that the rake pass reads for one address: the column of a DRAM word, else the word. -/
def rakeWords (s : State) (k : Nat) : List (Nat × Decoded) :=
  match placeOf k with
  | .log l a => [(k, decodeWord (logStored s l a))]
  | _ => if isDram k then readWords s (k / 4 * 4) 4 else readWords s k 1

/-- The rake pass writes a word that it corrected. -/
def rakeWrite (s : State) (k : Nat) (d : Dword) : State :=
  match placeOf k with | .log l a => writeLogWord s l a d | _ => writeWord s k d

/-- Uncorrectable words stay as stored, are logged as ERR_CHK_UE, entry and event, and kept in the rake list (R284, R290,
R294). -/
def rakeBad (s : State) (ws : List (Nat × Decoded)) : State :=
  let bad := ws.filter fun w => w.2.check == .uncorrectable
  if bad.isEmpty then s
  else
    let s1 := bad.foldl (fun r w => logEvent (logWord r 0x71 w.1 w.2 none) 0x71 ((errDetail r w.1 w.2.syn 0xFF).take 8) none)
      { s with log := s.log.countUe (isDram ((bad.map (·.1)).headD 0)) }
    { s1 with log := { s1.log with rakeList := s1.log.rakeList ++ (bad.map (·.1)).filter fun k => !s1.log.rakeList.contains k } }

/-- The words that the read corrected, of an address without an uncorrectable one: a column that CHECK with SCRUB rewrites keeps
those (R223). -/
def fixable (ws : List (Nat × Decoded)) : List (Nat × Decoded) :=
  if ws.any fun w => w.2.check == .uncorrectable then []
  else ws.filter fun w => match w.2.check with | .corrected _ => true | _ => false

/-- Rewrite the words that the read corrected, in the read's own pair of cycles (R293, R294). -/
def rakeRewrite (s : State) (ws : List (Nat × Decoded)) : State := (fixable ws).foldl (fun r w => rakeWrite r w.1 w.2.d) s

/-- Each word rewritten is logged as ERR_RAKE_FIXED with MEM, UNIT, SUB and ADDR (R294). -/
def rakeFix (s : State) (ws : List (Nat × Decoded)) : State :=
  (fixable ws).foldl
    (fun r w =>
      let s1 := logEvent r 0x74 ((errDetail r w.1 w.2.syn 0xFF).take 8) none
      { s1 with log := { s1.log with rakeFixed := satAdd s1.log.rakeFixed 1 } }) s

/-- CHECK of one column with SCRUB (R204, R293). -/
def scrubCmd (b : BankIx) (l : Nat) : PondCmd :=
  { (decPond []).2 with
    bmask := (1#16) <<< (b.bank.val % 16), row := BitVec.ofNat 16 (l / 32), col := BitVec.ofNat 8 (l % 32), count := 1, aux := 1 }

/-- A rake CHECK may be issued: the segment's command rows take a command, no payload window open on it (R197, R201), the bank
is idle, no SCHED transfer or command of the plan names it while the CHECK lasts (18 ns), no queued write of it must wait, and
one more active bank leaves the die within 2.82 W (R294). -/
def scrubFits (s : State) (b : BankIx) : Bool :=
  let g := bankSeg b
  (!pondOn s g.stack g.pc || pondOpen s g.stack g.pc) && (windowOf s g).left == 0 && unitIdle s b && !bankBusy s b && !(dueBanks s (s.tick.toNat + 15)).contains b &&
    decide (dieMw s b.stack b.die.val + commandMw 12 (scrubCmd b 0) ≤ 2820)

/-- What a rake CHECK leaves besides the column: the command counted and sent, the sequence number, TAG, LOP, STAT and counts
of the unit, the peak of active banks (R204, R210, R216, R227, R266). The words are as the column's read found them. -/
def scrubUnit (s : State) (b : BankIx) (l : Nat) (ws : List (Nat × Decoded)) : State :=
  let g := bankSeg b
  let x := unitAt s b
  let tag : BitVec 4 := BitVec.ofNat 4 (tabGet 0 s.dram.tags (segKey g))
  let corr := ws.any fun w => match w.2.check with | .corrected _ => true | _ => false
  let bad := ws.any fun w => w.2.check == .uncorrectable
  let run : PondRun := { op := 12, tag := tag, cmd := scrubCmd b l, ten := none }
  let s1 := noteSent (modStack s g.stack fun y => { y with cmds := y.cmds + 1 }) g.stack g.pc (.pond g run [unitOf s x.key] (windowOf s g) [])
  let s2 := { s1 with dram := { s1.dram with tags := tabSet 0 s1.dram.tags (segKey g) ((tag.toNat + 1) % 16) } }
  let s3 := notePeak (modUnit s2 x.key fun u => { u with tag := tag, running := some run }) b.stack b.die.val
  modUnit s3 x.key fun u =>
    { u with
      running := none, lop := 12, stat := if bad then 0xA else 0, corr := if corr then satAdd u.corr 1 else u.corr,
      uec := if bad then satAdd u.uec 1 else u.uec, ueaddr := if bad then BitVec.ofNat 20 l else u.ueaddr }

/-- A command row write in pond mode, which is left again, once its command has ended, where the pseudo-channel was not in it
(R196 to R198; log entry 164). -/
def inPond (s : State) (k : StackIx) (q : PcIx) (f : State → State) : State :=
  if pondOn s k q then f s
  else settleExit (modStack (f (enterPond s k q)) k fun x => { x with exiting := x.exiting ||| pcBit q }) k q

/-- One read and rewrite of the rake pass (R293, R294); `note` records its findings other than uncorrectable words. A DRAM
column of a bank in service is taken by CHECK with SCRUB, the queued writes of its bank first (R236) and its row closed
(R251); none where the bank does not take it now, or its unit is under self-test (R450). Pond mode is entered for it and left
again where the pseudo-channel was not in it (log entry 164). A CHECK that injection changed is what the stack makes of it
(R297). -/
def rakeStep (s : State) (k : Nat) (note : State → List (Nat × Decoded) → State) : Option State :=
  if wordTested s k then none else
  match bankOfKey s k with
  | none =>
    let ws := rakeWords s k
    if isDram k then some s else some (rakeFix (rakeBad (note (rakeRewrite s ws) ws) ws) ws)
  | some b =>
    if !scrubFits s b then none
    else
      let s1 := prepareBanks s [b]
      let s2 := if pondOn s b.stack (bankSeg b).pc then s1 else (pcBanks b.stack (bankSeg b).pc).foldl closeRow s1
      let ws := rakeWords s2 k
      let c := encPond 12 (scrubCmd b (k / 4 % 2 ^ 20))
      if arriveColumn s2 (bankSeg b) c != some c then
        some (inPond s2 b.stack (bankSeg b).pc fun s2 => rowCommand s2 (bankSeg b) (BitVec.ofNat 4 (tabGet 0 s2.dram.tags (segKey (bankSeg b)))) .good 12 (scrubCmd b (k / 4 % 2 ^ 20)) none)
      else
      some (rakeFix (rakeBad (note (rakeRewrite (scrubUnit s2 b (k / 4 % 2 ^ 20) ws) ws) ws) ws) ws)

/-- RAKE_TARGETED_REWRITE (R293, R294): the oldest address awaiting rewrite. The read confirms its entry and adds none for that
word, nor for another word of the column that awaits its rewrite; the column's other words are recorded as by any reader. -/
def execRakeTargetedRewrite (s : State) : Answer :=
  .next <|
    match s.log.rakePending with
    | [] => s
    | k :: rest =>
      if !s.log.rakeEn then s
      else
        (rakeStep { s with log := { s.log with rakePending := rest } } k fun r ws =>
          noteColumn r 0x71 (ws.filter fun w => w.1 != k && !rest.contains w.1 && w.2.check != .uncorrectable) none).getD s

/-- RAKE_SWEEP (R293, R294): one word or column of the sweep, read as by any reader; the last one completes it. -/
def execRakeSweep (k : Nat) (last : Bool) (s : State) : Answer :=
  .next <|
    if !s.log.rakeEn || !s.log.rakeSweep || !keyExists s k then s
    else
      match rakeStep s k fun r ws =>
          let good := ws.filter fun w => w.2.check != .uncorrectable
          if isDram k then noteColumn r 0x71 good none else noteWords r 0x71 good none with
      | none => s
      | some r => { r with log := { r.log with rakeSweeps := if last then r.log.rakeSweeps + 1 else r.log.rakeSweeps } }

/-- The event log emptied; its head returns to 0, as a power-on reset leaves it (R290, R296). -/
def LogSt.clearEvents (l : LogSt) : LogSt := { l with events := [], evHead := 0, evCount := 0 }

/-- The error log emptied (R290, R296). -/
def LogSt.clearErrors (l : LogSt) : LogSt := { l with errors := [], erHead := 0, erCount := 0 }

/-- EV_CLR (R296). -/
def execEvClr (s : State) : Answer := .next { s with log := s.log.clearEvents }

/-- ER_CLR (R296). -/
def execErClr (s : State) : Answer := .next { s with log := s.log.clearErrors }

/-- A word of a spare bank that no entry of SPVAL puts into use, of a unit that passed self-test. -/
def inUnusedSpare (s : State) (k : Nat) : Bool :=
  match placeOf k with
  | .dram st d b _ _ =>
    decide (256 ≤ b) && !(tabGet 0 (tabGet Stack.reset s.dram.stk st).spval d).getLsbD (b - 256) && !(bankOf s (bankKey st d b)).retired
  | _ => false

/-- Unused spares of a die, by their physical banks; a failing one is never mapped (R286). -/
def unusedSpares (s : State) (k : StackIx) (d : DieIx) : List Nat :=
  ((List.range 8).filter fun j =>
    !(tabGet 0 (stackOf s k).spval d.val).getLsbD j && !(bankOf s (bankKey k.val d.val (256 + j))).retired).map fun j => 256 + j

/-- The lowest banks of a die that hold no tenant data, over which `n` spares are mapped (R289; which banks: DESIGN CHOICE, log
entry 163). -/
def fillHosts (s : State) (k : StackIx) (d : DieIx) (n : Nat) : List BankIx :=
  (((List.finRange 256).map fun j => ({ stack := k, die := d, bank := j } : BankIx)).filter fun b =>
    (bankOwners s b).isEmpty).take n

/-- SPARE_FILL (R289): once Rilef's cores run, it fills every unused spare with zero words and valid check bits, by array FILL
through the spare map, which ends as it was; the spares of a die are filled together, by the 813 FILLs of R288 (log entry 163).
SPARES_FILLED reports it. -/
def execSpareFill (s : State) : Answer :=
  .next <|
    if s.rst.coreHeld then s
    else
      let s1 : State := { s with mem := s.mem.filter (fun e => !inUnusedSpare s (e.1 / 16)), log := { s.log with sparesFilled := true } }
      (List.finRange 12).foldl
        (fun r k => (List.finRange 16).foldl
          (fun q d =>
            let ps := unusedSpares s k d
            fillTrace (ps.foldl (fun z p => injectRange z (dramKey k.val d.val p 0 0) (4 * 786432)) q) k d
              (ps.zip (fillHosts s k d ps.length))) r) s1

end Sys2Proof.Machine
end

