-- ==== Sys2Proof/Machine/Net.lean ====
section
/-! DEFINITION. Ethernet ports and RDMA (R372 to R379, R390). -/

namespace Sys2Proof.Machine

/-! ### Frames (R337, R372, R373) -/

/-- Entries that the port's oldest `k` frames take. -/
def PortSt.words (x : PortSt) (k : Nat) : Nat := ((x.frames.take k).map (·.entries)).sum

/-- Where the poisoned words of frames lie, the first frame starting at entry `e` (R330). -/
def badEntries : List RxFrame → Nat → List Nat
  | [], _ => []
  | f :: fs, e => (match f.bad with | some j => [e + min j (f.entries - 1)] | none => []) ++ badEntries fs (e + f.entries)

/-- The port's oldest `k` frames have arrived, and the channel that places them sees them (R329, R335). -/
def framesSeen (s : State) (n : PortIx) (k : Nat) : Bool :=
  decide (k ≤ (portOf s n).frames.length) && queueSees s (36 + n.val) ((portOf s n).words k)

/-- A frame counted as dropped (R372, R373). -/
def dropFrame (s : State) (n : PortIx) : State := modPort s n fun x => { x with drop := satAdd x.drop 1 }

/-- A frame counted as corrupt (R391; of a poisoned one DESIGN CHOICE, log entry 199). -/
def corruptFrame (s : State) (n : PortIx) : State := modPort s n fun x => { x with icrc := satAdd x.icrc 1 }

/-- The port's oldest `k` frames leave its receive queue; one with a poisoned word is dropped as corrupt (R330, R337). -/
def takeFrames (s : State) (n : PortIx) (k : Nat) : State :=
  let x := portOf s n
  let i := 36 + n.val
  (badEntries (x.frames.take k) (queueRead s i)).foldl (fun r e => corruptFrame (notePoison r i (e % 4096) true) n)
    (queueTake (modPort s n fun x => { x with frames := x.frames.drop k }) i (x.words k))

/-- A frame that the receive queue has no room for is dropped (R326, R373); while its consumer is held in reset the port sees it
full (R336). -/
def frameFits (s : State) (n : PortIx) (need : Nat) : Bool :=
  !s.rst.coreHeld && decide (need ≤ (queueOf s (36 + n.val)).room 4096)

/-- The oldest message of a transmit queue goes out, `k` entries of it; one with a poisoned word goes with a bad FCS (R330,
R337). -/
def sendQueued (s : State) (n : PortIx) (o : Out) (k : Nat) : State :=
  let d := takeChecked s (38 + n.val) k
  emit d.1 [if d.2.isEmpty then o else .badFcs n]

/-- A stopped port goes on: what its transmit queue holds goes out, then what the mirror stream holds (R372, R381). -/
def resumePort (s : State) (n : PortIx) : State :=
  sendStream ((portOf s n).txq.foldl (fun r m => sendQueued r n m.1 m.2) (modPort s n fun x => { x with txOff := false, txq := [] })) []

/-- A frame joins the receive queue, whose commit is notified (R325), or is dropped where its entries are not free (R326); XOFF is
sent when fewer than 1,024 stay free (R373). Its bytes in the queue are free (log entry 175). -/
def queueFrame (s : State) (n : PortIx) (f : RxFrame) : State :=
  let i := 36 + n.val
  if !frameFits s n f.entries then queueDrop (dropFrame s n) i
  else
    let s1 := modPort (usedFree (queueSend s i (freeEntries s 512 f.entries) f.bad) (8 * f.entries)) n fun x =>
      { x with frames := x.frames ++ [f] }
    if !(portOf s n).xoff && decide ((queueOf s1 i).room 4096 < 1024) then emit (modPort s1 n fun x => { x with xoff := true }) [.pfc n true]
    else s1

/-- ARP, neighbour discovery and echo at the front of the queue are taken, and answered by Rilef once it runs (R372). -/
def serveFrames : Nat → State → PortIx → State
  | 0, s, _ => s
  | k + 1, s, n =>
    match (portOf s n).frames with
    | [] => s
    | f :: _ =>
      if f.service && framesSeen s n 1 && !txWait s n [frameEntries 0] then
        let s1 := takeFrames s n 1
        serveFrames k (if s.rst.fw == 1 && f.bad.isNone then answerFrame s1 n (.ethAnswer n) else s1) n
      else s

/-- The service frames at the front of a port's queue. -/
def serveFront (s : State) (n : PortIx) : State := serveFrames (portOf s n).frames.length s n

/-- FRAME_RECEIVE (R372, R373, R337): a bad FCS, an oversized frame or one that the port does not support is dropped and
counted; priority flow control stops and restarts the port's transmission; ARP, neighbour discovery, echo and RDMA frames go into
the receive queue. -/
def execFrameReceive (n : PortIx) (kind : FrameKind) (bytes : Nat) (fcsOk : Bool) (s : State) : Answer :=
  .next <|
    let need := (bytes + 63) / 64
    if !(portOf s n).link then s
    else if !fcsOk then corruptFrame s n
    else if 10240 < bytes then dropFrame s n
    else
      match kind with
      | .pause => dropFrame s n
      | .other => dropFrame s n
      | .pfc stop => if stop then modPort s n fun x => { x with txOff := true } else resumePort s n
      | .service bad => queueFrame s n { entries := need, bad := bad, ecn := false, service := true }
      | .rdma bad ecn => queueFrame s n { entries := need, bad := bad, ecn := ecn, service := false }

/-! ### Keys and queue pairs -/

def keyOf (s : State) (k : Nat) : NetKey := tabGet NetKey.reset s.net.keys k

def modKey (s : State) (k : Nat) (f : NetKey → NetKey) : State :=
  { s with net := { s.net with keys := tabModify NetKey.reset s.net.keys k f } }

/-- The message may be taken up: the link is up and its queue pair is set (R374, R379). -/
def qpReady (s : State) (n : PortIx) (q : Fin 64) : Bool := (portOf s n).link && (qpOf s n q).state == .ready

/-- Packets of a message at the pair's path MTU (R374); one of length 0 has one. -/
def packets (x : Qp) (len : Nat) : Nat := max 1 ((len + 1024 * 2 ^ x.mtu.toNat - 1) / (1024 * 2 ^ x.mtu.toNat))

/-- The region that a key names. -/
def keyView (s : State) (k : NetKey) : Option RegView := regionView s k.owner 0 k.region

/-- The checks of R376 in order: the NAK syndrome of the first that fails (log entry 46). -/
def keyFault (s : State) (key : Word) (write imm : Bool) (off : Dword) (len : Nat) : Option Byte :=
  let k := keyOf s (key.toNat % 256)
  if !k.valid || k.gen.toNat != key.toNat / 256 then some 0x62
  else if (write && !k.wr) || (!write && !k.rd) then some 0x62
  else
    match keyView s k with
    | none => some 0x62
    | some v =>
      if k.klen < off.toNat + len || v.limit < k.koff + off.toNat + len then some 0x62
      else if imm && k.tly.isNone then some 0x61 else none

/-- A refused message: NAK, counted, and logged at most once a key in 1 ms (R376). -/
def refuseMessage (s : State) (n : PortIx) (q : Fin 64) (key : Word) (syn : Byte) : State :=
  let e := key.toNat % 256
  let s1 := answerFrame (modPort s n fun x => { x with access := satAdd x.access 1 }) n (.nak n q syn)
  let quiet := match (keyOf s e).winLog with | some t => decide (s.tick.toNat < t.toNat + 800000) | none => false
  if quiet then s1
  else
    logEvent (modKey s1 e fun k => { k with winLog := some s.tick }) 0xB0
      ([BitVec.ofNat 8 n.val, BitVec.ofNat 8 q.val] ++ leBytes 4 key.toNat) (keyOf s e).owner

/-- A packet out of sequence: a sequence-error NAK, counted (R377, R391; log entry 46). -/
def refuseSequence (s : State) (n : PortIx) (q : Fin 64) : State :=
  answerFrame (modPort s n fun x => { x with seqErr := satAdd x.seqErr 1 }) n (.nak n q 0x60)

def rxChan (n : PortIx) : SchIx := ⟨6 + 2 * n.val, by omega⟩

def txChan (n : PortIx) : SchIx := ⟨7 + 2 * n.val, by omega⟩

/-- The request that a message stands for when it halts its channel: RESTART returns it as a NAK (R168, R183). -/
def netReq (k : NetKey) (off : Nat) (n : PortIx) (q : Fin 64) : SysReq :=
  { tenant := k.owner, lpan := 0, srcRegion := k.region, srcOff := off, dstRegion := k.region, dstOff := off, list := none,
    action := .netAck n q, parityBad := false }

/-- Place bytes of a message in the region, column by column (R377, R378, R282), then `done`. A narrow write that meets an
uncorrectable word halts the channel instead, and ends the message (R181, R283). Nothing while an access must wait. -/
def placePacket (s : State) (n : PortIx) (m : RxMsg) (data : List Byte) (done : State → State) : Except Mover State :=
  match keyView s m.key with
  | none => .ok (done s)
  | some v =>
    let w := (writeVia (Mover.start s m.key.owner (.sys (rxChan n))) m.key.region v m.off data).finish
    if w.blocked then .error w
    else
      let s1 := countSch (modPort w.s n fun x => { x with rxBytes := x.rxBytes + BitVec.ofNat 64 (w.bits / 8) }) (rxChan n)
        (w.bits / 8)
      let s2 := match m.key.owner with | some t => sendMirrored s1 t w.wrote | none => s1
      match w.halt with
      | none => .ok (done s2)
      | some h => .ok (haltSch s2 (rxChan n) (netReq m.key m.off n m.qp) h.region h.off)

def setMsg (s : State) (n : PortIx) (m : Option RxMsg) : State := modPort s n fun x => { x with cur := m }

/-- What is left of a message whose bytes no longer move; `nak`: its next packet is out of sequence. -/
def RxMsg.drop (m : RxMsg) (nak : Bool) : Option RxMsg :=
  if m.left ≤ 1 then none else some { m with left := m.left - 1, lost := true, nak := nak }

/-- The port's oldest frame leaves its queue; one marked for congestion is answered with a notification (R374). -/
def takeFrame (s : State) (n : PortIx) (q : Fin 64) : State :=
  let cnp := match (portOf s n).frames with | f :: _ => f.ecn && f.bad.isNone | [] => false
  if cnp then answerFrame (takeFrames s n 1) n (.cnp n q) else takeFrames s n 1

/-- The oldest frame is an RDMA packet that the port's channel sees, with room in the transmit queue for its answers (R326,
R335). -/
def packetReady (s : State) (n : PortIx) : Bool :=
  (match (portOf s n).frames with | f :: _ => !f.service | [] => false) && framesSeen s n 1 && !txWait s n [2 * frameEntries 0]

/-- The oldest frame has a word that fails its parity check. -/
def packetBad (s : State) (n : PortIx) : Bool := match (portOf s n).frames with | f :: _ => f.bad.isSome | [] => false

/-- Path MTU of a queue pair in bytes (R374). -/
def Qp.bytes (x : Qp) : Nat := 1024 * 2 ^ x.mtu.toNat

/-- The message after its next packet has been placed, `done` once it was the last: its answer, and the signal that its immediate
asks for (R377). -/
def packetDone (s : State) (n : PortIx) (m : RxMsg) (len : Nat) : State :=
  let s1 := modQp s n m.qp fun x => { x with psn := x.psn + 1 }
  if m.left ≤ 1 then
    let s2 := setMsg s1 n none
    let t := m.key.tly.map fun y => (⟨y.toNat, y.isLt⟩ : TlyIx)
    answerFrame (if m.imm then modQp s2 n m.qp fun y => { y with imm := y.imm ++ [t] } else s2) n (.ack n m.qp)
  else setMsg s1 n (some { m with off := m.off + len, data := m.data.drop len, left := m.left - 1 })

/-- The next packet of the message that a port takes (R377): it is placed and its frame leaves the queue; one with a poisoned word
is dropped as corrupt, and the message is lost (R337; log entry 199). Answers false where nothing moves. -/
def nextPacket (s : State) (n : PortIx) : State × Bool :=
  match (portOf s n).cur with
  | none => (s, false)
  | some m =>
    if !packetReady s n || chanBusy s (rxChan n) then (s, false)
    else if packetBad s n then (setMsg (takeFrame s n m.qp) n (m.drop (!m.lost)), true)
    else if m.lost then
      let s1 := setMsg (takeFrame s n m.qp) n (m.drop false)
      (if m.nak then refuseSequence s1 n m.qp else s1, true)
    else
      let data := m.data.take (qpOf s n m.qp).bytes
      match placePacket (takeFrame s n m.qp) n m data fun x => packetDone x n m data.length with
      | .error w => (w.wait s, false)
      | .ok r => if chanBusy r (rxChan n) then (setMsg r n (m.drop false), false) else (r, true)

/-- The packets that have come, of the message that a port takes. -/
def takePackets : Nat → State → PortIx → State
  | 0, s, _ => s
  | k + 1, s, n => let r := nextPacket s n; if r.2 then takePackets k r.1 n else r.1

/-- What a port's receive queue holds is taken as far as it goes: service frames, and the packets of the message in progress. -/
def portTurn (s : State) (n : PortIx) : State :=
  let s1 := serveFront s n
  serveFront (takePackets (portOf s1 n).frames.length s1 n) n

/-- The first packet of a message is there to be taken, and no other message is in progress on the port. -/
def messageReady (s : State) (n : PortIx) (q : Fin 64) : Bool := qpReady s n q && (portOf s n).cur.isNone && packetReady s n

/-- A WRITE whose first packet has come: sequence and key are checked with it, and the message is accepted or refused (R376); its
packets are then taken as they come. It waits while the port's channel takes no work. -/
def takeWriteMessage (s : State) (n : PortIx) (q : Fin 64) (psn : BitVec 24) (key : Word) (imm : Bool) (off : Dword) (data : List Byte) :
    State :=
  if !messageReady s n q || chanBusy s (rxChan n) then s
  else
    let k := keyOf s (key.toNat % 256)
    let m : RxMsg :=
      { qp := q, key := k, off := k.koff + off.toNat, data := data, left := packets (qpOf s n q) data.length, imm := imm, lost := false,
        nak := false }
    let refuse (f : State → State) : State := portTurn (f (setMsg (takeFrame s n q) n (m.drop false))) n
    if packetBad s n then portTurn (setMsg (takeFrame s n q) n (m.drop true)) n
    else if psn != (qpOf s n q).psn then refuse fun r => refuseSequence r n q
    else
      match keyFault s key true imm off data.length with
      | some syn => refuse fun r => refuseMessage r n q key syn
      | none => portTurn (setMsg s n (some m)) n

/-- RDMA_WRITE (R374 to R378). -/
def execRdmaWrite (n : PortIx) (q : Fin 64) (psn : BitVec 24) (key : Word) (off : Dword) (data : List Byte) (s : State) : Answer :=
  .next (takeWriteMessage s n q psn key false off data)

/-- A message of one packet, its frame taken; a corrupt one is lost (R337). Then the sequence is checked, and `act` takes the
rest; it waits while `act` must. -/
def takeOne (s : State) (n : PortIx) (q : Fin 64) (psn : BitVec 24) (act : State → Except Mover State) : State :=
  if !messageReady s n q then s
  else
    let s1 := takeFrame s n q
    if packetBad s n then serveFront s1 n
    else if psn != (qpOf s n q).psn then serveFront (refuseSequence s1 n q) n
    else match act s1 with | .error w => w.wait s | .ok r => serveFront r n

/-- Entries of each packet of a READ response (R374). -/
def readFrames (x : Qp) (len : Nat) : List Nat :=
  let mtu := 1024 * 2 ^ x.mtu.toNat
  (List.range (packets x len)).map fun i => frameEntries (min mtu (len - i * mtu))

/-- RDMA_READ (R374 to R376): the bytes go out; an uncorrectable word halts the transmit channel (R181), and host memory that
does not answer ends the message with a remote operational error (R364; log entry 46). -/
def execRdmaRead (n : PortIx) (q : Fin 64) (psn : BitVec 24) (key : Word) (off : Dword) (len : Word) (s : State) : Answer :=
  .next <| if chanBusy s (txChan n) then s else takeOne s n q psn fun r1 =>
    match keyFault s key false false off len.toNat with
    | some syn => .ok (refuseMessage r1 n q key syn)
    | none =>
    let r := modQp r1 n q fun x => { x with psn := x.psn + BitVec.ofNat 24 (packets x len.toNat) }
    let k := keyOf r (key.toNat % 256)
    let base := k.koff + off.toNat
    match keyView r k with
    | none => .ok r
    | some v =>
      let rd := readVia (Mover.start r k.owner (.sys (txChan n))) k.region v base len.toNat
      let r1 := rd.1.finish.s
      if rd.1.blocked then .error rd.1
      else
        match rd.1.halt with
        | some h => .ok (haltSch r1 (txChan n) (netReq k base n q) h.region h.off)
        | none =>
          if rd.1.hostFail then .ok (answerFrame r1 n (.nak n q 0x63))
          else if txWait r1 n (readFrames (qpOf r n q) len.toNat) then .error rd.1
          else
            .ok (transmit (modPort (countSch r1 (txChan n) len.toNat) n fun x =>
              { x with txBytes := x.txBytes + BitVec.ofNat 64 len.toNat }) n (.readResp n q rd.2) (readFrames (qpOf r n q) len.toNat))

/-- RDMA_WRITE_IMM (R377): the bytes are placed, and the key's tally is signalled once they are complete; a message of length 0
only signals. -/
def execRdmaWriteImm (n : PortIx) (q : Fin 64) (psn : BitVec 24) (key : Word) (off : Dword) (data : List Byte) (s : State) :
    Answer :=
  .next (takeWriteMessage s n q psn key true off data)

/-- RDMA_IMM_SIGNAL (R377): the oldest accepted message with immediate signals its key's tally by 1. -/
def execRdmaImmSignal (n : PortIx) (q : Fin 64) (s : State) : Answer :=
  .next <|
    match (qpOf s n q).imm with
    | [] => s
    | t :: rest =>
      let s1 := modQp s n q fun x => { x with imm := rest }
      match t with
      | some y => sendSignal s1 { tly := y, n := 1, src := .rdma n }
      | none => s1

/-- RDMA_OTHER_OPCODE: a NAK for an invalid request (R374); its frame is taken as one of a message. -/
def execRdmaOtherOpcode (n : PortIx) (q : Fin 64) (psn : BitVec 24) (_opcode : Byte) (s : State) : Answer :=
  .next (takeOne s n q psn fun r => .ok (answerFrame r n (.nak n q 0x61)))

/-- What an instance still holds is lost; a packet in progress is abandoned (R327, R379). -/
def queueLost (s : State) (i : Nat) : State :=
  modQueue (queueAbandon s i) i fun q => { q with rp := q.cp, cpSeen := gray q.cp }

/-- NET_LINK_DOWN (R327, R379): queue pairs that were set go to the error state, and messages in progress, in the receive queue or
in the transmit queue, are lost. -/
def execNetLinkDown (n : PortIx) (s : State) : Answer :=
  .next <|
    if !(portOf s n).link then s
    else
      let s1 := (List.finRange 64).foldl
        (fun r q => if (qpOf r n q).state == .ready then modQp r n q fun x => { x with state := .error } else r) s
      logEvent
        (modPort (queueLost (queueLost s1 (36 + n.val)) (38 + n.val)) n fun x =>
          { x with link := false, fec := false, xoff := false, frames := [], cur := none, txOff := false, txq := [] })
        0xB1 [BitVec.ofNat 8 n.val] none

/-! ### Mailbox commands (R390) -/

def argPort (n : Nat) : Option PortIx := if h : n < 2 then some ⟨n, h⟩ else none

def argQp (n : Nat) : Option (Fin 64) := if h : n < 64 then some ⟨n, h⟩ else none

/-- NET_PORT_CFG. -/
def execNetPortCfg (slot : MbxIx) (s : State) : Answer :=
  runMailbox s slot 0x80 fun a s =>
    match argPort (fieldAt a 0x10 1) with
    | none => respond s slot 0xA2 []
    | some n =>
      if 3 < fieldAt a 0x11 1 ∨ 4095 < fieldAt a 0x12 2 ∨ 7 < fieldAt a 0x14 1 then respond s slot 0xA2 []
      else
        respond (modPort s n fun x =>
          { x with cfgFlags := BitVec.ofNat 8 (fieldAt a 0x11 1), vlan := BitVec.ofNat 16 (fieldAt a 0x12 2),
                   pfc := BitVec.ofNat 8 (fieldAt a 0x14 1), mac := (a.drop 0x18).take 6, ip := (a.drop 0x20).take 16 }) slot 0 []

/-- NET_KEY_BIND (R375): entry and, for a tenant's region, tenant are Rilef's to choose (log entry 52); an entry already bound
or a region that the owner does not have makes no choice. -/
def execNetKeyBind (slot : MbxIx) (entry : Byte) (owner : Option TenIx) (s : State) : Answer :=
  runMailbox s slot 0x81 fun a s =>
    let region : Half := BitVec.ofNat 16 (fieldAt a 0x10 2)
    let tly := fieldAt a 0x14 2
    let koff := fieldAt a 0x18 8
    let klen := fieldAt a 0x20 8
    let own : Option TenIx := if 0x8000 ≤ region.toNat then none else owner
    let e := entry.toNat
    let badTly := tly != 0xFFFF && (if h : tly < 4096 then (tallyOf s ⟨tly, h⟩).owner == 0x1F else true)
    let view := if region.toNat < 2 || region == 0x8000 then none else regionView s own 0 region
    match view with
    | none => respond s slot 0xA2 []
    | some v =>
      if 3 < fieldAt a 0x12 1 || fieldAt a 0x13 1 != 0 || badTly || decide (v.limit < koff + klen) ||
          ((List.range 256).all fun i => (keyOf s i).valid) then respond s slot 0xA2 []
      else if (keyOf s e).valid then s
      else
        let gen := (keyOf s e).gen + 1
        respond (modKey s e fun k =>
          { k with valid := true, wr := bitOf (fieldAt a 0x12 1) 0, rd := bitOf (fieldAt a 0x12 1) 1,
                   tly := if tly = 0xFFFF then none else some (BitVec.ofNat 12 tly), region := region, gen := gen, owner := own,
                   koff := koff, klen := klen }) slot 0 (leBytes 4 (gen.toNat * 256 + e))

/-- NET_KEY_REVOKE (R379). -/
def execNetKeyRevoke (slot : MbxIx) (s : State) : Answer :=
  runMailbox s slot 0x82 fun a s =>
    let key := fieldAt a 0x10 4
    let e := key % 256
    if !(keyOf s e).valid || (keyOf s e).gen.toNat != key / 256 then respond s slot 0xA2 []
    else respond (modKey s e fun k => { k with valid := false }) slot 0 []

/-- A port or queue pair that is set again carries what the mirror stream holds (R379, R381). -/
def resumeStream (s : State) : State := sendStream s []

/-- A message in progress on a pair that is set again or removed is lost (R379). -/
def losePair (s : State) (n : PortIx) (q : Fin 64) : State :=
  modPort s n fun x => { x with cur := x.cur.map fun m => if m.qp == q then { m with lost := true, nak := false } else m }

/-- NET_QP_SET (R374, R379). Signals of messages already complete stay to be sent (R377). -/
def execNetQpSet (slot : MbxIx) (s : State) : Answer :=
  runMailbox s slot 0x83 fun a s =>
    match argPort (fieldAt a 0x10 1), argQp (fieldAt a 0x12 2) with
    | some n, some q =>
      if 2 < fieldAt a 0x11 1 then respond s slot 0xA2 []
      else
        respond (resumeStream <| modQp (losePair s n q) n q fun x =>
          { state := .ready, mtu := BitVec.ofNat 8 (fieldAt a 0x11 1), remote := BitVec.ofNat 32 (fieldAt a 0x14 4),
            psn := BitVec.ofNat 24 (fieldAt a 0x18 4), gid := (a.drop 0x20).take 16, imm := x.imm }) slot 0 []
    | _, _ => respond s slot 0xA2 []

/-- NET_QP_DESTROY. -/
def execNetQpDestroy (slot : MbxIx) (s : State) : Answer :=
  runMailbox s slot 0x84 fun a s =>
    match argPort (fieldAt a 0x10 1), argQp (fieldAt a 0x12 2) with
    | some n, some q => respond (modQp (losePair s n q) n q fun x => { Qp.reset with imm := x.imm }) slot 0 []
    | _, _ => respond s slot 0xA2 []

/-- PORT_LINK_UP (R372); not while the port is under self-test (R450) or its MAC held in reset (R416). -/
def execPortLinkUp (n : PortIx) (s : State) : Answer :=
  .next <| if testing s (.eth n) || s.rst.sysHeld then s else resumeStream (modPort s n fun x => { x with link := true, fec := true })

end Sys2Proof.Machine
end

