-- ==== Sys2Proof/Machine/Mirror.lean ====
section
/-! DEFINITION. The mirror pair (R380 to R390). -/

namespace Sys2Proof.Machine

def modMir (s : State) (f : MirSt → MirSt) : State := { s with mir := f s.mir }

/-- HBTO in ticks (R386, R391): units of 100 µs. -/
def hbTicks (s : State) : Nat := s.mir.hbto.toNat * 80000

/-- Quiesce every tenant of a fenced primary: running ones at their next boundary tick, sliced-out ones where they stand
(R388). -/
def fenceTenant (s : State) (t : TenIx) : State :=
  let x := tenOf s t
  if x.state == .slicedOut then quiesceTenant (modTen s t fun y => { y with quiesceFence := true }) t
  else if x.state == .running || x.state == .quiesced then modTen s t fun y => { y with quiesceFence := true }
  else s

/-! ### Pairing (R384, R389, R390) -/

/-- The request of the mirror service for a region of a tenant. -/
def mirrorReq (t : TenIx) (region : Half) (off : Nat) : SysReq :=
  { tenant := some t, lpan := 0, srcRegion := region, srcOff := off, dstRegion := region, dstOff := off, list := none,
    action := .none, parityBad := false }

/-- Every mirrored region of a tenant whole, by SCH10, up to a word that it cannot read. -/
def baselineRegions (s : State) (t : TenIx) : Mover :=
  (((tenOf s t).regions.zipIdx.filter fun r => r.1.mirrored).foldl
    (fun m g =>
      let region : Half := BitVec.ofNat 16 (g.2 + 2)
      if m.stopped then m
      else
        match regionView m.s (some t) 0 region with
        | none => m
        | some v =>
          let q := readVia m region v 0 v.limit
          { q.1 with s := sendMirrored q.1.s t [(region, 0, q.2)] })
    (Mover.start s (some t) (.sys 10))).finish

/-- The regions of one tenant of the baseline. Nothing while an access must wait; an uncorrectable word halts SCH10 (R181),
and the baseline ends there. -/
def sendBaseline (s : State) (t : TenIx) : Except Mover State :=
  let m := baselineRegions s t
  if m.blocked then .error m
  else
    match m.halt with
    | some h => .ok (haltSch m.s 10 (mirrorReq t h.region 0) h.region h.off)
    | none => .ok m.s

/-- The baseline record of one tenant. -/
def sendFirstRecord (s : State) (t : TenIx) : State :=
  let x := tenOf s t
  sendRecord s t (if x.begun then (x.tide + 1 - x.idle).toNat % (max 1 x.bodyCount) else 0)

/-- The baseline of the pair: every mirrored region of every tenant, then one record for each (R384). Nothing while SCH10 takes no
work. -/
def sendBaselines (s : State) (ts : List TenIx) : Except Mover State :=
  let r : Except Mover State := ts.foldl (fun r t => r.bind fun x => if (schOf x 10).state == .halted then .ok x else sendBaseline x t)
    (if chanBusy s 10 then .error (Mover.start s none (.sys 10)) else .ok s)
  r.map fun x => if (schOf x 10).state == .halted then x else ts.foldl sendFirstRecord x

def maskTenants (m : Half) : List TenIx := (List.finRange 16).filter fun t => m.getLsbD t.val

/-- A primary that sees TKO_IN asserted becomes FENCED: it stops harvest writes and the mirror stream and quiesces its tenants
(R388). -/
def fence (s : State) : State :=
  if s.mir.role == .primary && s.mir.tkoIn then
    let s1 := logEvent (modMir s fun m => { m with role := .fenced, outq := [] }) 0xB6 [] none
    (List.finRange 16).foldl fenceTenant ((List.finRange 16).foldl loseRing s1)
  else s

/-- MIR_PAIR (R382, R384, R389, R390): the card sends its own identity; a primary that sees TKO_IN asserted is fenced at once
(R388). `partner` is the digest that the partner sends, `interval` the bytes of its largest mirror interval. The command of a
primary waits while SCH10 takes no work. -/
def execMirPair (slot : MbxIx) (partner : List Byte) (interval : Nat) (s : State) : Answer :=
  runMailbox s slot 0x90 fun a s =>
    let role := fieldAt a 0x10 1
    let mask : Half := BitVec.ofNat 16 (fieldAt a 0x14 2)
    match argPort (fieldAt a 0x11 1), argQp (fieldAt a 0x12 2) with
    | some n, some q =>
      if role = 0 || 2 < role || s.mir.role != .unpaired || (qpOf s n q).state != .ready ||
          ((maskTenants mask).any fun t => !(tenOf s t).live) then respond s slot 0xA2 []
      else
      let kept := s
      let s := emit s [.identity (Config.sha256 Config.certificate)]
      if 2 ^ 28 < interval then respond (logEvent s 0xB8 [] none) slot 0xB8 []
      else if s.mir.partner.isEmpty || s.mir.partner != padTo 0 32 partner then
        respond (logEvent (modMir s fun m => { m with idMism := true }) 0xB2 [] none) slot 0xB2 []
      else
        let s1 := modMir s fun m =>
          { m with role := if role = 1 then .primary else .secondary, sync := .baseline, port := n, qp := q, tenants := mask,
                   idMism := false, lastEdge := s.tick, lastPacket := s.tick, hbLost := false, silent := false, buffer := [],
                   records := [], unacked := [], outq := [] }
        let s2 := (maskTenants mask).foldl
          (fun r t => modTen r t fun x => { x with mirroredValid := false, lag := 0, mirrorBytes := 0 }) s1
        if role = 1 then
          match sendBaselines s2 (maskTenants mask) with
          | .ok r => respond (fence r) slot 0 []
          | .error m => m.wait kept
        else respond s2 slot 0 []
    | _, _ => respond s slot 0xA2 []

/-- MIR_ACCEPT (R389, R435): Rilef stores the partner's digest, at once and in the option block. -/
def execMirAccept (slot : MbxIx) (s : State) : Answer :=
  runMailbox s slot 0x91 fun a s =>
    let d := padTo 0 32 ((a.drop 0x10).take 32)
    let s1 := writeOption s fun o => { o with partner := d }
    respond { s1 with mir := { s1.mir with partner := d, idMism := false },
                      rst := { s1.rst with opt := { s1.rst.opt with partner := d } } } slot 0 []

/-- MIR_UNPAIR (R385, R388, R390): TKO_OUT is released; what a fence held resumes, rings of an attached driver among it (log
entry 53). -/
def execMirUnpair (slot : MbxIx) (s : State) : Answer :=
  runMailbox s slot 0x92 fun _ s =>
    let s1 := modMir s fun m =>
      { m with role := .unpaired, sync := .none, tenants := 0, tkoOut := false, buffer := [], records := [], unacked := [], outq := [],
               hbLost := false, silent := false }
    let s2 := if s.mir.role == .fenced && s.host.attach == .attached then modRings s1 Ring.resume else s1
    respond ((List.finRange 16).foldl (fun r t => resumeTenant (modTen r t fun x => { x with quiesceFence := false, lag := 0 }) t) s2)
      slot 0 []

/-! ### The stream (R381 to R383) -/

/-- Payload bytes that the pair's port has placed in the mirror buffer (NET_RXBYTES, R391). -/
def countMirror (s : State) (n : Nat) : State := modPort s s.mir.port fun x => { x with rxBytes := x.rxBytes + BitVec.ofNat 64 n }

/-- MIRROR_WRITE_RECEIVE: the secondary holds the write in its mirror buffer (R382). -/
def execMirrorWriteReceive (t : TenIx) (region : Half) (off : Nat) (data : List Byte) (s : State) : Answer :=
  .next <|
    if s.mir.role == .secondary then
      modMir (countMirror s data.length) fun m =>
        { m with buffer := m.buffer ++ [{ ten := t, region := region, off := off, len := data.length, stored := protect data }],
                 lastPacket := s.tick, silent := false }
    else s

/-- A record with its CRC field taken as 0 (R381). -/
def recordCrcOk (rec_ : List Byte) : Bool :=
  (crc32 (rec_.take 0x3C ++ leBytes 4 0 ++ rec_.drop 0x40)).toNat == fieldAt rec_ 0x3C 4

/-- The record is whole, right and for a tenant of the pair with this image (R382). -/
def recordTenant (s : State) (rec_ : List Byte) : Option TenIx :=
  let n := fieldAt rec_ 4 1
  if h : n < 16 then
    let t : TenIx := ⟨n, h⟩
    if fieldAt rec_ 0 4 == 0x5252494D && recordCrcOk rec_ && s.mir.tenants.getLsbD n && (tenOf s t).live &&
        (rec_.drop 0x18).take 32 == padTo 0 32 (tenOf s t).digest then some t else none
  else none

/-- SCH11 reads a buffered write, its findings noted (R280), and writes it to its region. An uncorrectable word of the buffer
halts the channel (R181); the buffer's region number is the placer's (log entry 153). -/
def applyWrite (m : Mover) (w : MirWrite) : Mover :=
  let ws := protectedWords (freeKey m.s) w.stored
  let m1 := { m with s := noteWords m.s 0x40 ws (some w.ten) }
  match ws.findIdx? fun x => x.2.check == .uncorrectable with
  | some i => { m1 with s := usedFree m1.s 1, halt := some { rmw := false, region := (freshFree m1.s).truncate 16, off := 8 * i } }
  | none =>
    match regionView m1.s (some w.ten) 0 w.region with
    | some v => if w.off + w.len ≤ v.limit then writeVia m1 w.region v w.off ((bytesOfWords (wordsOf ws)).take w.len) else m1
    | none => m1

/-- The buffered writes of a tenant as SCH11 applies them to its own regions, in arrival order (R161, R382). -/
def bufferMover (s : State) (t : TenIx) : Mover :=
  ((s.mir.buffer.filter fun w => w.ten == t).foldl (fun m w => if m.stopped then m else applyWrite m w)
    (Mover.start s (some t) (.sys 11))).finish

/-- Apply the buffered writes of a tenant, then `done`. Nothing while an access must wait. A narrow write that meets an
uncorrectable word halts SCH11 (R181, R283); then the record is not applied, and the buffer keeps the writes (log entry 157). -/
def applyBuffer (s : State) (t : TenIx) (done : State → State) : Except Mover State :=
  let m := bufferMover s t
  if m.blocked then .error m
  else
    let s1 := countSch m.s 11 (m.bits / 8)
    match m.halt with
    | some h => .ok (haltSch s1 11 (mirrorReq t h.region 0) h.region h.off)
    | none => .ok (done (modMir s1 fun m => { m with buffer := m.buffer.filter fun w => w.ten != t }))

/-- SYNCED once every tenant of the pair has a record applied (R384). -/
def refreshSync (s : State) : State :=
  if s.mir.sync == .baseline && (maskTenants s.mir.tenants).all (fun t => !(tabGet [] s.mir.records t.val).isEmpty) then
    modMir s fun m => { m with sync := .synced }
  else s

/-- MIRROR_RECORD_RECEIVE (R382, R384): it waits while SCH11 takes no work. -/
def execMirrorRecordReceive (rec_ : List Byte) (s : State) : Answer :=
  .next <|
    if s.mir.role != .secondary || chanBusy s 11 then s
    else
      let s1 := modMir (countMirror s rec_.length) fun m => { m with lastPacket := s.tick, silent := false }
      match recordTenant s1 rec_ with
      | none => s1
      | some t =>
        let tide : Dword := BitVec.ofNat 64 (fieldAt rec_ 8 8)
        orWait s (applyBuffer s1 t fun s2 =>
          let s3 := modMir s2 fun m => { m with records := tabSet [] m.records t.val rec_ }
          let s4 := modTen s3 t fun x => { x with mirroredValid := true, mirroredTide := tide.truncate 32 }
          refreshSync (emit s4 [.mirrorAckOut t tide]))

/-- MIRROR_ACK (R382 to R384): the primary's mirror points up to that tide are acknowledged; with the baseline of every tenant
acknowledged the pair is SYNCED. -/
def execMirrorAck (t : TenIx) (tide : Dword) (s : State) : Answer :=
  .next <|
    if s.mir.role != .primary then s
    else
      let left := s.mir.unacked.filter fun u => !(u.1 == t && decide (u.2.toNat ≤ tide.toNat))
      let whole := (maskTenants s.mir.tenants).all fun u => u == t || (tenOf s u).mirroredValid
      let s1 := modMir s fun m =>
        { m with unacked := left, lastPacket := s.tick, silent := false,
                 sync := if m.sync == .baseline && whole then .synced else m.sync }
      modTen s1 t fun x =>
        { x with lag := BitVec.ofNat 8 (left.filter fun u => u.1 == t).length, mirroredValid := true,
                 mirroredTide := tide.truncate 32 }

/-! ### The pair header and takeover (R385 to R388) -/

/-- HEARTBEAT_TOGGLE: HB_OUT toggles while the mirror service runs, on a paired card whose Rilef has started, and is held
otherwise (R385, R425). -/
def execHeartbeatToggle (s : State) : Answer :=
  .next <| if s.mir.role == .unpaired || s.rst.coreHeld || s.rst.fw != 1 then s else modMir s fun m => { m with hbOut := !m.hbOut }

/-- HB_IN_EDGE (R386). -/
def execHbInEdge (s : State) : Answer :=
  .next <| modMir s fun m => { m with hbIn := !m.hbIn, lastEdge := s.tick, hbLost := false }

/-- The heartbeat's window has ended (R386). -/
def edgeLate (s : State) : Bool := decide (s.mir.lastEdge.toNat + hbTicks s ≤ s.tick.toNat)

/-- The stream's window has ended (R386). -/
def packetLate (s : State) : Bool := decide (s.mir.lastPacket.toNat + hbTicks s ≤ s.tick.toNat)

/-- Tick at which the later of the two windows ends (R386, R387). -/
def takeoverMet (s : State) : Nat := max s.mir.lastEdge.toNat s.mir.lastPacket.toNat + hbTicks s

/-- Both windows have ended: TKO_OUT, the last record's tallies, gates and counts, the anchor of each tenant (R387). A secondary
that is not SYNCED leaves the pair (R386). -/
def takeOver (s : State) : State :=
  if s.mir.sync != .synced then
    logEvent (modMir s fun m => { m with role := .unpaired, sync := .none }) 0xB7 [] none
  else
    let anchor : Dword := BitVec.ofNat 64 ((takeoverMet s + 16000 + 799) / 800 * 800)
    let s1 := logEvent (modMir s fun m => { m with role := .taken, tkoOut := true, buffer := [] }) 0xB5 [] none
    (maskTenants s.mir.tenants).foldl (fun r t => restore r t anchor) s1
where
  /-- A gate as its 32 bytes say (R315). -/
  gateOf32 (old : GateSt) (b : List Byte) : GateSt :=
    let cfg := fieldAt b 0 8
    let gen := fieldAt b 8 8
    let arr := fieldAt b 16 8
    { old with
      mask := BitVec.ofNat 32 cfg, ports := BitVec.ofNat 4 (cfg / 2 ^ 32), gen := BitVec.ofNat 32 gen,
      ovr := BitVec.ofNat 16 (gen / 2 ^ 32), arr := BitVec.ofNat 32 arr, held := BitVec.ofNat 4 (arr / 2 ^ 40),
      pcnt := (List.range 4).foldl (fun c k => tabSet 0 c k (bitsOf arr (32 + 2 * k) 2)) [] }
  /-- One tenant's state from its last record (R381, R387). -/
  restore (s : State) (t : TenIx) (anchor : Dword) : State :=
    let rec_ := tabGet [] s.mir.records t.val
    let x := tenOf s t
    let n := fieldAt rec_ 6 2
    let s1 := (List.finRange 64).foldl
      (fun r l => if (laneOf r l).valid && (laneOf r l).owner.toNat == t.val then
        modLane r l fun y => { y with done := BitVec.ofNat 32 (fieldAt rec_ (0x40 + 4 * l.val) 4) } else r) s
    let s2 := (List.range (min n x.streams.length)).foldl
      (fun r i =>
        let seq : Dword := BitVec.ofNat 64 (fieldAt rec_ (0x140 + 8 * i) 8)
        let r1 := modStream r t i fun y => { y with made := seq, held := [] }
        match (streamOf r t i).ring with
        | some g => modRing r1 g fun y => { y with sent := seq, next := seq }
        | none => r1) s1
    let tly := 0x140 + 8 * n
    let s3 := (List.range x.img.tallies).foldl
      (fun r i =>
        let k := x.bind.tlyBase + i
        let w := fieldAt rec_ (tly + 8 * i) 8
        setTally r k { tabGet Tally.reset r.sync.tallies k with value := BitVec.ofNat 32 w, hand := bitOf w 56 }) s2
    let gat := tly + 8 * x.img.tallies
    let s4 := (List.range x.img.gates.length).foldl
      (fun r i =>
        let k := x.bind.gateBase + i
        setGate r k (gateOf32 (tabGet GateSt.reset r.sync.gates k) ((rec_.drop (gat + 32 * i)).take 32))) s3
    modTen s4 t fun y => { y with anchor := anchor }

/-- HEARTBEAT_LOST (R386), once no edge has come for HBTO: with the stream silent by the same tick, a takeover; else
ERR_MIR_HB_LINE. -/
def execHeartbeatLost (s : State) : Answer :=
  .next <|
    if s.mir.role != .secondary || s.mir.hbLost || !edgeLate s then s
    else
      let s1 := modMir s fun m => { m with hbLost := true }
      if s.mir.silent || packetLate s then takeOver s1
      else logEvent s1 0xB3 [] none

/-- STREAM_SILENT (R386), once no packet has come for HBTO: with the heartbeat lost by the same tick, a takeover; else
ERR_MIR_LINK. -/
def execStreamSilent (s : State) : Answer :=
  .next <|
    if s.mir.role != .secondary || s.mir.silent || !packetLate s then s
    else
      let s1 := modMir s fun m => { m with silent := true }
      if s.mir.hbLost || edgeLate s then takeOver s1
      else logEvent s1 0xB4 [] none

/-- TAKEOVER_TENANT_START (R387): the tenant starts tide TIDE + 1, running body BODY, at its anchor, in the gear of the record
where it is eligible at the clock in use, else in its starting gear (log entry 54). -/
def execTakeoverTenantStart (t : TenIx) (s : State) : Answer :=
  .next <|
    let x := tenOf s t
    let rec_ := tabGet [] s.mir.records t.val
    if s.mir.role != .taken || x.state != .loaded || rec_.isEmpty then s
    else
      let tide : Dword := BitVec.ofNat 64 (fieldAt rec_ 8 8) + 1
      let body := fieldAt rec_ 0x10 4
      let g0 := (gearNo x (BitVec.ofNat 3 (fieldAt rec_ 5 1))).filter fun g =>
        x.elig.getLsbD g.gear.toNat && allAtClock s t g.memClk
      let pick := match g0 with | some g => some (g, false) | none => startGear s t
      match pick with
      | none => s
      | some (g, change) =>
        let s1 := modTen s t fun y =>
          { y with state := if entryRuns s t && !s.slice.turnover then .running else .slicedOut, gear := g.gear,
                   nextGear := g.gear, commitGear := g.gear, tide := tide, idle := tide - BitVec.ofNat 64 body, begun := false,
                   inTide := false }
        if change then commitClock s1 (tenantStacks s t) g.memClk else s1

/-- TKO_IN_ASSERT (R388): a primary becomes FENCED. -/
def execTkoInAssert (s : State) : Answer := .next (fence (modMir s fun m => { m with tkoIn := true }))

end Sys2Proof.Machine
end

