-- ==== Sys2Proof/Machine/Flags.lean ====
section
/-! DEFINITION. Summary registers (R122, R123): what one operation of the element chain reports, and how it enters Y. -/

namespace Sys2Proof.Machine

/-- The summary of an operation: the flags of R122, the permute-range count, and the counts of R133. -/
structure Summary where
  nanz : Nat
  anyf : Bool
  anyt : Bool
  sat : Nat
  infs : Nat
  nans : Nat
  empty : Bool
  prc : Nat
deriving DecidableEq, Repr

def Summary.none : Summary :=
  { nanz := 0, anyf := false, anyt := false, sat := 0, infs := 0, nans := 0, empty := false, prc := 0 }

def Summary.join (a b : Summary) : Summary :=
  { nanz := a.nanz + b.nanz, anyf := a.anyf || b.anyf, anyt := a.anyt || b.anyt, sat := a.sat + b.sat,
    infs := a.infs + b.infs, nans := a.nans + b.nans, empty := a.empty || b.empty, prc := a.prc + b.prc }

/-- RVAL of a Y register. -/
def yRval (y : Dword) : Word := y.truncate 32

/-- Bits 48 to 54 of a summary (R122). `rn` and `ri` say that the folded reduction is NaN or infinite. -/
def summaryBits (m : Summary) (rn ri : Bool) : Dword :=
  flagTo m.empty 48 ||| flagTo (decide (0 < m.nans) || rn) 49 ||| flagTo (decide (0 < m.infs) || ri) 50 |||
    flagTo (decide (0 < m.sat)) 51 ||| flagTo m.anyt 52 ||| flagTo m.anyf 53 ||| flagTo (decide (0 < m.nanz)) 54

/-- Y[YR] after an operation with YW = 1 (R123): flags ORed in, PRC added with saturation, RVAL replaced when there is a
reduction. -/
def updateY (y : Dword) (m : Summary) (acc : Option Word) : Dword :=
  let rn := match acc with | some a => isNan32 a | none => false
  let ri := match acc with | some a => isInf32 a | none => false
  let prc := satAdd (BitVec.ofNat 16 (bitsOf y.toNat 32 16)) m.prc
  (fieldTo (bitsOf y.toNat 48 7) 48 ||| summaryBits m rn ri) ||| fieldTo prc.toNat 32 |||
    fieldTo ((match acc with | some a => a | none => yRval y).toNat) 0

end Sys2Proof.Machine
end

