-- ==== Sys2Proof/Machine/PanE.lean ====
section
/-! DEFINITION. E-slot commands and the element chain (R68, R103 to R130). -/

namespace Sys2Proof.Machine

/-! ### The chain-table entry (R106 to R109) -/

/-- A chain-table entry, decoded. -/
structure Chain where
  nstep : Nat
  ifmt : Nat
  ofmt : Nat
  wen : Bool
  yw : Bool
  cont : Bool
  mxout : Bool
  gb : Nat
  yr : Nat
  vl : Nat
  mlim : Nat
  rop : Nat
  rout : Bool
  pop : Nat
  pimm : Nat
  fill : Word
  i0 : Word
  i1 : Word
  i2 : Word
  steps : List Nat
deriving DecidableEq, Repr

def decodeChain (e : List Byte) : Chain :=
  let f (off n : Nat) : Nat := fieldAt e off n
  { nstep := f 0 1, ifmt := bitsOf (f 1 1) 0 4, ofmt := bitsOf (f 1 1) 4 4, wen := bitOf (f 2 1) 0, yw := bitOf (f 2 1) 1,
    cont := bitOf (f 2 1) 2, mxout := bitOf (f 2 1) 3, gb := bitsOf (f 3 1) 0 5, yr := bitsOf (f 3 1) 5 3, vl := f 4 2,
    mlim := f 6 2, rop := f 8 1, rout := f 9 1 == 1, pop := f 10 1, pimm := f 11 1, fill := BitVec.ofNat 32 (f 12 4),
    i0 := BitVec.ofNat 32 (f 16 4), i1 := BitVec.ofNat 32 (f 20 4), i2 := BitVec.ofNat 32 (f 24 4),
    steps := (List.range 16).map fun s => f (0x20 + 2 * s) 2 }

def stepOp (w : Nat) : Nat := bitsOf w 10 6
def stepP (w : Nat) : Nat := bitsOf w 7 3
def stepQ (w : Nat) : Nat := bitsOf w 4 3
def stepR (w : Nat) : Nat := bitsOf w 1 3
def stepSave (w : Nat) : Bool := bitOf w 0

/-- How many of P, Q, R an operation uses; CVT uses P and R (R111). -/
def stepOperands (op : Nat) : Bool × Bool × Bool :=
  match op with
  | 0x01 | 0x08 | 0x09 | 0x11 | 0x18 | 0x19 | 0x1A | 0x1B | 0x1C | 0x1D => (true, false, false)
  | 0x02 | 0x03 | 0x04 | 0x06 | 0x07 | 0x0A | 0x1E | 0x1F | 0x20 | 0x21 | 0x22 | 0x23 => (true, true, false)
  | 0x05 => (true, true, true)
  | 0x10 => (true, false, true)
  | _ => (false, false, false)

/-- Whether an operation exists and may stand at a stage position, 1 to 8 (R111). -/
def stepAllowed (op pos : Nat) : Bool :=
  if op ≤ 0x0A then true
  else if op = 0x10 then pos == 1 || pos == 8
  else if op = 0x11 then pos == 2
  else if 0x18 ≤ op ∧ op ≤ 0x1F then pos == 4
  else if 0x20 ≤ op ∧ op ≤ 0x25 then pos == 6
  else false

def stepFormed (w pos : Nat) : Bool :=
  let (p, q, r) := stepOperands (stepOp w)
  stepAllowed (stepOp w) pos && (p || stepP w == 0) && (q || stepQ w == 0) && (r || stepR w == 0)

/-- Well-formed in the sense of R109. -/
def chainFormed (e : List Byte) : Bool :=
  let c := decodeChain e
  decide (1 ≤ c.nstep) && decide (c.nstep ≤ 16) &&
    ((c.steps.zipIdx).all fun s => if s.2 < c.nstep then stepFormed s.1 (s.2 % 8 + 1) else s.1 == 0) &&
    decide (c.ifmt ≤ 7) && decide (c.ofmt ≤ 7) && decide (1 ≤ c.vl) && decide (c.vl ≤ 256) && decide (c.mlim ≤ 256) &&
    decide (c.rop ≤ 3) && decide (fieldAt e 9 1 ≤ 1) && decide (c.pop ≤ 7) && (!c.rout || c.rop != 0) &&
    (!c.mxout || ((c.ofmt == 3 || c.ofmt == 4 || c.ofmt == 5 || c.ofmt == 6) && !c.rout)) &&
    bitsOf (fieldAt e 2 1) 4 4 == 0 && fieldAt e 0x1C 4 == 0

/-! ### One lane (R103, R110 to R115) -/

structure Lane256 where
  x : Word
  z : Word
  p : Bool
  m : Bool
  sat : Nat
  nanz : Nat
  empty : Bool
deriving DecidableEq, Repr

/-- Value of an operand source (R110): `b` is the lane's B value, `g` the broadcast register. -/
def operand (c : Chain) (g : Dword) (b : Word) (l : Lane256) (sel : Nat) : Word :=
  canon32 (match sel with
    | 0 => l.x
    | 1 => l.z
    | 2 => b
    | 3 => g.truncate 32
    | 4 => (g >>> 32).truncate 32
    | 5 => c.i0
    | 6 => c.i1
    | _ => c.i2)

/-- SCALEB: P × 2^(e − 127), rounded once, with 2^−6 when IFMT is INT8 (R115). -/
def scaleb (c : Chain) (p : Word) (e : Byte) : Word :=
  rne32 (((Ext.ofF32 p).mul (e8m0 e)).mul (.fin false 1 (if c.ifmt = 6 then -6 else 0)))

/-- CVT: to a format and back exactly (R114). -/
def cvtStep (l : Lane256) (f : Nat) (p : Word) : Lane256 :=
  let k := convert f (Ext.ofF32 p)
  { l with x := rne32 (fmtVal f false k.code), sat := l.sat + k.sat.toNat, nanz := l.nanz + k.nanz.toNat }

/-- One step of one lane (R111). `sb` is the lane's block-scale byte of B. -/
def laneStep (c : Chain) (g : Dword) (b : Word) (sb : Byte) (w : Nat) (l : Lane256) : Lane256 :=
  let p := operand c g b l (stepP w)
  let q := operand c g b l (stepQ w)
  let r := operand c g b l (stepR w)
  let l1 : Lane256 :=
    match stepOp w with
    | 0x01 => { l with x := p }
    | 0x02 => { l with x := add32 p q }
    | 0x03 => { l with x := sub32 p q }
    | 0x04 => { l with x := mul32 p q }
    | 0x05 => { l with x := fma32 p q r }
    | 0x06 => { l with x := min32 p q }
    | 0x07 => { l with x := max32 p q }
    | 0x08 => { l with x := rne32 (Ext.ofF32 p).abs }
    | 0x09 => { l with x := rne32 (Ext.ofF32 p).neg }
    | 0x0A => { l with x := if l.p then p else q }
    | 0x10 => cvtStep l (stepR w) p
    | 0x11 => { l with x := scaleb c p sb }
    | 0x18 => { l with x := exp2Word p }
    | 0x19 => { l with x := log2Word p }
    | 0x1A => { l with x := rcpWord p }
    | 0x1B => { l with x := rsqWord p }
    | 0x1C => { l with x := tanhWord p }
    | 0x1D => { l with x := sigWord p }
    | 0x1E => { l with x := expdWord p q l.m }
    | 0x1F => { l with x := (snormWord p q).1, empty := l.empty || (snormWord p q).2 }
    | 0x20 => { l with p := eq32 p q }
    | 0x21 => { l with p := !eq32 p q }
    | 0x22 => { l with p := lt32 p q }
    | 0x23 => { l with p := le32 p q }
    | 0x24 => { l with p := !l.p }
    | 0x25 => { l with m := l.m || l.p }
    | _ => l
  if stepSave w then { l1 with z := l1.x } else l1

def laneSteps (c : Chain) (g : Dword) (b : Word) (sb : Byte) (ws : List Nat) (l : Lane256) : Lane256 :=
  ws.foldl (fun l w => laneStep c g b sb w l) l

/-! ### One register or row (R112 to R121) -/

/-- Source lane of the permutation, if it is in range (R118, R119). -/
def permSource (c : Chain) (bs : List Word) (i : Nat) : Option Nat :=
  let s : Int :=
    match c.pop with
    | 1 => (bs.getD i 0).toInt
    | 2 => ((i + c.pimm) % c.vl : Nat)
    | 3 => (i : Int) + c.pimm
    | 4 => (i : Int) - c.pimm
    | 5 => (c.vl : Int) - 1 - i
    | 6 => c.pimm
    | 7 => (i ^^^ c.pimm : Nat)
    | _ => i
  if 0 ≤ s ∧ s < c.vl then some s.toNat else none

/-- The permutation of X over the active lanes, with the number out of range (R118, R119). -/
def permute (c : Chain) (bs : List Word) (ls : List Lane256) : List Lane256 × Nat :=
  if c.pop = 0 then (ls, 0)
  else
    (ls.zipIdx.map fun l =>
        { l.1 with x := match permSource c bs l.2 with
                        | some j => match ls[j]? with | some k => k.x | none => c.fill
                        | none => c.fill },
      ((List.range ls.length).filter fun i => (permSource c bs i).isNone).length)

/-- The operation of a reduction and its identity (R120). -/
def reduceOp (rop : Nat) (a b : Word) : Word :=
  match rop with
  | 1 => add32 a b
  | 2 => max32 a b
  | _ => min32 a b

def reduceId (rop : Nat) : Word :=
  match rop with
  | 1 => 0x80000000
  | 2 => inf32 true
  | _ => inf32 false

/-- One level of the fixed tree: neighbours are paired (R120). -/
def pairUp (op : Word → Word → Word) : List Word → List Word
  | a :: b :: r => op a b :: pairUp op r
  | r => r

/-- The canonical lane order: eight levels over 256 lanes (R120). -/
def reduceTree (rop : Nat) (vs : List Word) : Word :=
  ((pairUp (reduceOp rop))^[8] vs).headD (reduceId rop)

/-- The reduction of one register: masked and inactive lanes hold the identity (R120). -/
def reduceLanes (rop : Nat) (ls : List Lane256) : Word :=
  reduceTree rop (padTo (reduceId rop) 256 (ls.map fun l => if l.m then reduceId rop else l.x))

/-- The shared scale of a block of values (R117): the exponent E and the scale byte. -/
def mxScale (f : Nat) (vs : List Word) : Int × Byte :=
  let emax : Int := match f with | 3 => 8 | 4 => 15 | 5 => 2 | _ => 0
  let top := vs.foldl (fun (t : Option Int) v =>
    match Ext.ofF32 v with
    | .fin _ m e => if m = 0 then t else some (match t with | some k => max k (leadExp m e) | none => leadExp m e)
    | _ => t) none
  let e : Int := match top with | some k => max (-127) (min 127 (k - emax)) | none => -127
  (e, if vs.any isNan32 then 0xFF else BitVec.ofNat 8 (e + 127).toNat)

/-- An active element under MXOUT, taken exactly (R117). -/
def mxElement (f : Nat) (e : Int) (v : Word) : Ext := (Ext.ofF32 v).mul (.fin false 1 (if f = 6 then 6 - e else -e))

/-- The 1,024-byte image of a result and the conversions of its active lanes (R116, R117). -/
def packResult (c : Chain) (vs : List Word) : List Byte × List Conv :=
  let fillCode := (convert c.ofmt (Ext.ofF32 c.fill)).code
  let scales := (List.range 8).map fun b => mxScale c.ofmt ((vs.drop (32 * b)).take 32)
  let conv := vs.zipIdx.map fun v =>
    convert c.ofmt (if c.mxout then mxElement c.ofmt (scales.getD (v.2 / 32) (0, 0)).1 v.1 else Ext.ofF32 v.1)
  let data := padTo 0 1024 (packCodes c.ofmt (padTo fillCode 256 (conv.map (·.code))))
  (if c.mxout then listPatch data 512 (scales.map (·.2)) else data, conv)

/-- What one register or row yields: the result image to write, if any, its reduction and its summary. -/
structure RowOut where
  image : Option (List Word)
  r : Word
  sum : Summary
deriving DecidableEq, Repr

/-- The steps before the permutation and those after it (R112). -/
def stepSplit (c : Chain) : Nat := if c.nstep ≤ 8 then 6 else 14

/-- Process one register or row: `src` its lanes, `bs` the lanes of B, `g` the broadcast (R112 to R120). DESIGN CHOICE (log entry
209): with WEN = 0 nothing is converted (R116), so that packing counts nothing in SAT and NANZ. -/
def chainRow (c : Chain) (g : Dword) (src bs : List Word) : RowOut :=
  let img := laneBytes src
  let bimg := laneBytes (bs.take 2)
  let sb (i : Nat) : Byte := bimg.getD (i / 32) 0
  let n := stepSplit c
  let first : List Lane256 := (List.range c.vl).map fun i =>
    laneSteps c g (bs.getD i 0) (sb i) (c.steps.take n)
      { x := rne32 (fmtVal c.ifmt false (packedCode c.ifmt img i)), z := 0, p := false, m := decide (c.mlim ≤ i), sat := 0,
        nanz := 0, empty := false }
  let pm := permute c bs first
  let ls := pm.1.zipIdx.map fun l => laneSteps c g (bs.getD l.2 0) (sb l.2) ((c.steps.drop n).take 2) l.1
  let r := reduceLanes c.rop ls
  let vs := if c.rout then List.replicate c.vl r else ls.map (·.x)
  let pk := packResult c vs
  let conv := if c.wen then pk.2 else []
  { image := if c.wen then some (lanesOfBytes pk.1) else none,
    r := r,
    sum :=
      { nanz := (ls.map (·.nanz)).sum + (conv.filter (·.nanz)).length, anyf := ls.any fun l => !l.p,
        anyt := ls.any fun l => l.p, sat := (ls.map (·.sat)).sum + (conv.filter (·.sat)).length,
        infs := (vs.filter isInf32).length, nans := (vs.filter isNan32).length, empty := ls.any fun l => l.empty,
        prc := pm.2 } }

/-! ### A whole operation (R121, R123, R130) -/

/-- Progress of an operation: the pan with the writes so far, those writes, the folded reduction and the summary. -/
structure EProg where
  x : Pan
  v : List (Nat × List Word)
  t : List (Nat × List Word)
  acc : Word
  sum : Summary
deriving DecidableEq, Repr

def foldAcc (c : Chain) (acc r : Word) : Word := if c.rop = 0 then acc else reduceOp c.rop acc r

/-- Register j of ERUN: it reads after every write of the earlier ones (R130). -/
def erunStep (c : Chain) (g : Dword) (vs vd vb : Nat) (q : EProg) (j : Nat) : EProg :=
  let o := chainRow c g (q.x.readV ((vs + j) % 32)) (q.x.readV ((vb + j) % 32))
  let d := (vd + j) % 32
  { q with
    x := match o.image with | some ls => q.x.writeV d ls | none => q.x,
    v := match o.image with | some ls => q.v ++ [(d, ls)] | none => q.v,
    acc := foldAcc c q.acc o.r, sum := q.sum.join o.sum }

/-- Row j of ERUNT; B is held for all rows (R68, R130). -/
def eruntStep (c : Chain) (g : Dword) (ts td srow drow : Nat) (bs : List Word) (q : EProg) (j : Nat) : EProg :=
  let o := chainRow c g (q.x.readT ts ((srow + j) % 256)) bs
  let d := (drow + j) % 256
  { q with
    x := match o.image with | some ls => q.x.writeT td d ls | none => q.x,
    t := match o.image with | some ls => q.t ++ [(256 * td + d, ls)] | none => q.t,
    acc := foldAcc c q.acc o.r, sum := q.sum.join o.sum }

def eprogStart (x : Pan) (c : Chain) : EProg :=
  { x := x, v := [], t := [], acc := if c.cont then yRval (x.readY c.yr) else reduceId c.rop, sum := Summary.none }

/-- The result of an operation that ran (R121, R123, R133). -/
def eprogResult (x : Pan) (c : Chain) (q : EProg) : EResult :=
  { v := q.v, t := q.t,
    y := if c.yw then
        some (BitVec.ofNat 3 c.yr, updateY (x.readY c.yr) q.sum (if c.rop = 0 then none else some q.acc)) else none,
    cw := [], nan := q.sum.nans, inf := q.sum.infs, sat := q.sum.sat, nanz := q.sum.nanz }

def EResult.none : EResult := { v := [], t := [], y := .none, cw := [], nan := 0, inf := 0, sat := 0, nanz := 0 }

/-- The chain-table entry that an operation runs. -/
def entryOf (x : Pan) (cwi : BitVec 6) : List Byte := tabGet [] x.cw cwi.toNat

/-- What an E operation will write (R68, R109, R110, R130). -/
def eResult (x : Pan) (op : EOp) : EResult :=
  match op with
  | .erun cwi vs vd vb n =>
    let c := decodeChain (entryOf x cwi)
    eprogResult x c ((List.range n).foldl (erunStep c (x.readG c.gb) vs.toNat vd.toNat vb.toNat) (eprogStart x c))
  | .erunt cwi ts td srow drow n vb =>
    let c := decodeChain (entryOf x cwi)
    eprogResult x c ((List.range n).foldl
      (eruntStep c (x.readG c.gb) ts.toNat td.toNat srow.toNat drow.toNat (x.readV vb.toNat)) (eprogStart x c))
  | .ecwld cw es _ => { EResult.none with cw := es.zipIdx.map fun e => ((cw.toNat + e.2) % 64, e.1, chainFormed e.1) }
  | .eyclr yr => { EResult.none with y := some (yr, 0) }

/-- Cycles from the start of a chain operation of `n` registers or rows to its last result: `lat` to a result, the next one
`rate` later, or once the write of every earlier one that it reads is done (`waits i j`: j reads what i writes; R130). -/
def chainCycles (lat rate n : Nat) (waits : Nat → Nat → Bool) : Nat :=
  ((List.range n).foldl
    (fun (fins : List Nat) j =>
      let ready := fins.zipIdx.foldl (fun m f => if waits f.2 j then max m f.1 else m) 0
      fins ++ [max ready (match fins.getLast? with | some f => f - lat + rate | none => 0) + lat]) []).getLastD 0

/-- Cycles that a chain operation is in flight (R68, R130). DESIGN CHOICE (log entry 173): ECWLD and EYCLR run no chain and
count no cycle in ECH_BUSY. -/
def eCycles (x : Pan) (op : EOp) : Nat :=
  match op with
  | .erun cwi vs vd vb n =>
    let c := decodeChain (entryOf x cwi)
    let waits (i j : Nat) : Bool :=
      c.wen && ((vd.toNat + i) % 32 == (vs.toNat + j) % 32 || (vd.toNat + i) % 32 == (vb.toNat + j) % 32)
    if c.nstep ≤ 8 then chainCycles 10 1 n waits else chainCycles 18 2 n waits
  | .erunt cwi ts td srow drow n _ =>
    chainCycles 14 4 n fun i j =>
      (decodeChain (entryOf x cwi)).wen && ts == td && (drow.toNat + i) % 256 == (srow.toNat + j) % 256
  | _ => 0

/-! ### E-slot commands -/

/-- Queue an E operation with the registers R54 counts for it (R55). -/
def queueE (s : State) (p : PanIx) (b : Bundle) (op : EOp) : State :=
  modPan s p fun x =>
    { x with eq := x.eq ++
        [{ op := op, pc := x.pc, reads := (usesE b.e).reads ++ (chainUses x b.e).reads,
           writes := (usesE b.e).writes ++ (chainUses x b.e).writes }] }

/-- ENOP (R68). -/
def execEnop (p : PanIx) (b : Bundle) (z : BitVec 26) (s : State) : Answer :=
  .next (issueSlot s p { b with e := encJ 0x00 z } 2 id)

/-- ERUN: VD+j = entry(VS+j, VB+j, broadcast) (R68). -/
def execErun (p : PanIx) (b : Bundle) (cwi : BitVec 6) (vs vd vb n : Reg5) (s : State) : Answer :=
  let b1 := { b with e := encErun cwi vs vd vb n }
  .next (issueSlot s p b1 2 fun s1 => queueE s1 p b1 (.erun cwi vs vd vb (n.toNat + 1)))

/-- ERUNT: as ERUN on tile-buffer rows; G[GR] gives source row, destination row and row count minus 1 (R68). -/
def execErunt (p : PanIx) (b : Bundle) (cwi : BitVec 6) (ts td : BitVec 2) (gr vb : Reg5) (z : BitVec 6) (s : State) :
    Answer :=
  let b1 := { b with e := encErunt cwi ts td gr vb z }
  .next (issueSlot s p b1 2 fun s1 =>
    let g := (panOf s1 p).readG gr.toNat
    queueE s1 p b1 (.erunt cwi ts td (g.truncate 8) ((g >>> 8).truncate 8) (bitsOf g.toNat 16 8 + 1) vb))

/-- ECWLD: load CNT chain-table entries from pan SRAM at G[GA] (R68). -/
def execEcwld (p : PanIx) (b : Bundle) (cw : BitVec 6) (ga : Reg5) (cnt : BitVec 6) (z : BitVec 9) (s : State) : Answer :=
  let b1 := { b with e := encEcwld cw ga cnt z }
  .next (issueSlot s p b1 2 fun s1 =>
    let x := panOf s1 p
    let a := x.readG ga.toNat
    let n := 64 * (cnt.toNat + 1)
    if outsidePan x a n then queueE s1 p b1 (.ecwld cw [] (some (a, false)))
    else
      let ws := panRead s1 p (alignDown a 3) ((a.toNat % 8 + n + 7) / 8)
      let bad := (ws.zipIdx.find? fun w => w.1.2.check == .uncorrectable).map fun w =>
        (alignDown a 3 + BitVec.ofNat 64 (8 * w.2), true)
      let bytes := ((bytesOfWords (wordsOf ws)).drop (a.toNat % 8)).take n
      queueE (noteWords s1 0x23 ws x.tenant) p b1 (.ecwld cw (groupsOf 64 64 bytes) bad))

/-- EYCLR: Y[YR] = 0 (R68). -/
def execEyclr (p : PanIx) (b : Bundle) (yr : BitVec 3) (z : BitVec 23) (s : State) : Answer :=
  let b1 := { b with e := encEyclr yr z }
  .next (issueSlot s p b1 2 fun s1 => queueE s1 p b1 (.eyclr yr))

/-- The late trap an E operation raises at its start: cause and address (R68, R72, R73). -/
def eTrap (x : Pan) (op : EOp) : Option (BitVec 4 × Dword) :=
  match op with
  | .erun cwi _ _ _ _ => if x.cwValid.getLsbD cwi.toNat then none else some (2, 0)
  | .erunt cwi _ _ _ _ _ _ => if x.cwValid.getLsbD cwi.toNat then none else some (2, 0)
  | .ecwld _ _ (some (a, ue)) => some (if ue then 4 else 3, a)
  | _ => none

/-- An operation that is in flight for `n` cycles from a tick, of two cycles each: the cycles that no earlier operation covers
count once (R133). -/
def countE (x : Pan) (tick : Dword) (n : Nat) : Pan :=
  let fin := 2 * tick.toNat + n
  let from_ := max (2 * tick.toNat) x.echUntil.toNat
  if from_ < fin then
    { x with echBusyNow := x.echBusyNow + BitVec.ofNat 32 (fin - from_), echUntil := BitVec.ofNat 64 fin }
  else x

/-- An E operation leaves the queue as it starts. DESIGN CHOICE (log entry 172): ECH_STAT shows the operations that have not
started yet. -/
def startE (x : Pan) (tick : Dword) (e : EEntry) : Pan :=
  { countE x tick (eCycles x e.op) with
    eq := x.eq.tail, efly := x.efly ++ [{ res := eResult x e.op, writes := e.writes }] }

/-- E_OP_START: the head of the E queue starts (R57, R110), not between two slots of a bundle (R52). -/
def execEOpStart (p : PanIx) (s : State) : Answer :=
  match (panOf s p).eq with
  | [] => .next s
  | e :: _ =>
    if (panOf s p).mid then .next s
    else
      match eTrap (panOf s p) e.op with
      | some (c, a) => .next (trapPan s p c 2 e.pc a true)
      | none => .next (modPan s p fun x => startE x s.tick e)

/-- Mark a chain-table entry valid or invalid. -/
def setValid (v : Dword) (n : Nat) (ok : Bool) : Dword := if ok then v ||| ((1#64) <<< n) else v &&& ~~~((1#64) <<< n)

/-- The writes of a completed E operation (R116, R123, R133). -/
def completeE (x : Pan) (r : EResult) : Pan :=
  let x1 := r.v.foldl (fun (y : Pan) w => y.writeV w.1 w.2) x
  let x2 := r.t.foldl (fun (y : Pan) w => y.writeT 0 w.1 w.2) x1
  { x2 with
    y := match r.y with | some (n, v) => tabSet 0 x2.y n.toNat v | none => x2.y,
    cw := r.cw.foldl (fun t c => tabSet [] t c.1 c.2.1) x2.cw,
    cwValid := r.cw.foldl (fun v c => setValid v c.1 c.2.2) x2.cwValid,
    efly := x.efly.tail,
    echNan := satAdd x2.echNan r.nan, echInf := satAdd x2.echInf r.inf, echSat := satAdd x2.echSat r.sat,
    echNanz := satAdd x2.echNanz r.nanz }

/-- E_OP_COMPLETE: the oldest E operation in flight writes its results (R68, R123). -/
def execEOpComplete (p : PanIx) (s : State) : Answer :=
  match (panOf s p).efly with
  | [] => .next s
  | f :: _ => .next (modPan s p fun x => completeE x f.res)

end Sys2Proof.Machine
end

