-- ==== Sys2Proof/Machine/PanS.lean ====
section
/-! DEFINITION. S-slot commands (R59 to R63), and the events of a pan's loads, stores, end and debug control (R58, R63,
R75, R77). -/

namespace Sys2Proof.Machine

/-- SNOP: no operation (R52, R60). -/
def execSnop (p : PanIx) (b : Bundle) (z : BitVec 26) (s : State) : Answer :=
  .next (issueBranch s p { b with s := encJ 0x00 z } Pan.nextPc)

/-- ADD: rd = ra + rb, modulo 2^64 (R60). -/
def execAdd (p : PanIx) (b : Bundle) (rd ra rb : Reg5) (z : BitVec 11) (s : State) : Answer :=
  .next (issueG s p { b with s := encR 0x01 rd ra rb z } rd fun x => x.readG ra.toNat + x.readG rb.toNat)

/-- SUB: rd = ra − rb, modulo 2^64 (R60). -/
def execSub (p : PanIx) (b : Bundle) (rd ra rb : Reg5) (z : BitVec 11) (s : State) : Answer :=
  .next (issueG s p { b with s := encR 0x02 rd ra rb z } rd fun x => x.readG ra.toNat - x.readG rb.toNat)

/-- AND (R60). -/
def execAnd (p : PanIx) (b : Bundle) (rd ra rb : Reg5) (z : BitVec 11) (s : State) : Answer :=
  .next (issueG s p { b with s := encR 0x03 rd ra rb z } rd fun x => x.readG ra.toNat &&& x.readG rb.toNat)

/-- OR (R60). -/
def execOr (p : PanIx) (b : Bundle) (rd ra rb : Reg5) (z : BitVec 11) (s : State) : Answer :=
  .next (issueG s p { b with s := encR 0x04 rd ra rb z } rd fun x => x.readG ra.toNat ||| x.readG rb.toNat)

/-- XOR (R60). -/
def execXor (p : PanIx) (b : Bundle) (rd ra rb : Reg5) (z : BitVec 11) (s : State) : Answer :=
  .next (issueG s p { b with s := encR 0x05 rd ra rb z } rd fun x => x.readG ra.toNat ^^^ x.readG rb.toNat)

/-- The shift count rb[5:0] (R60). -/
def shiftCount (v : Dword) : Nat := v.toNat % 64

/-- SHL: left shift by rb[5:0] (R60). -/
def execShl (p : PanIx) (b : Bundle) (rd ra rb : Reg5) (z : BitVec 11) (s : State) : Answer :=
  .next (issueG s p { b with s := encR 0x06 rd ra rb z } rd fun x => x.readG ra.toNat <<< shiftCount (x.readG rb.toNat))

/-- SHR: logical right shift by rb[5:0] (R60). -/
def execShr (p : PanIx) (b : Bundle) (rd ra rb : Reg5) (z : BitVec 11) (s : State) : Answer :=
  .next (issueG s p { b with s := encR 0x07 rd ra rb z } rd fun x => x.readG ra.toNat >>> shiftCount (x.readG rb.toNat))

/-- SAR: arithmetic right shift by rb[5:0] (R60). -/
def execSar (p : PanIx) (b : Bundle) (rd ra rb : Reg5) (z : BitVec 11) (s : State) : Answer :=
  .next (issueG s p { b with s := encR 0x08 rd ra rb z } rd fun x =>
    (x.readG ra.toNat).sshiftRight (shiftCount (x.readG rb.toNat)))

/-- MUL: the low 64 bits of the product (R60). -/
def execMul (p : PanIx) (b : Bundle) (rd ra rb : Reg5) (z : BitVec 11) (s : State) : Answer :=
  .next (issueG s p { b with s := encR 0x09 rd ra rb z } rd fun x => x.readG ra.toNat * x.readG rb.toNat)

/-- SLT: 1 if ra < rb signed, else 0 (R60). -/
def execSlt (p : PanIx) (b : Bundle) (rd ra rb : Reg5) (z : BitVec 11) (s : State) : Answer :=
  .next (issueG s p { b with s := encR 0x0A rd ra rb z } rd fun x =>
    if (x.readG ra.toNat).slt (x.readG rb.toNat) then 1 else 0)

/-- SLTU: 1 if ra < rb unsigned, else 0 (R60). -/
def execSltu (p : PanIx) (b : Bundle) (rd ra rb : Reg5) (z : BitVec 11) (s : State) : Answer :=
  .next (issueG s p { b with s := encR 0x0B rd ra rb z } rd fun x =>
    if (x.readG ra.toNat).ult (x.readG rb.toNat) then 1 else 0)

/-- ADDI: rd = ra + sext(IMM16) (R60). -/
def execAddi (p : PanIx) (b : Bundle) (rd ra : Reg5) (imm : Half) (s : State) : Answer :=
  .next (issueG s p { b with s := encI 0x10 rd ra imm } rd fun x => x.readG ra.toNat + imm.signExtend 64)

/-- ANDI, zero-extended (R60). -/
def execAndi (p : PanIx) (b : Bundle) (rd ra : Reg5) (imm : Half) (s : State) : Answer :=
  .next (issueG s p { b with s := encI 0x11 rd ra imm } rd fun x => x.readG ra.toNat &&& imm.zeroExtend 64)

/-- ORI, zero-extended (R60). -/
def execOri (p : PanIx) (b : Bundle) (rd ra : Reg5) (imm : Half) (s : State) : Answer :=
  .next (issueG s p { b with s := encI 0x12 rd ra imm } rd fun x => x.readG ra.toNat ||| imm.zeroExtend 64)

/-- XORI, zero-extended (R60). -/
def execXori (p : PanIx) (b : Bundle) (rd ra : Reg5) (imm : Half) (s : State) : Answer :=
  .next (issueG s p { b with s := encI 0x13 rd ra imm } rd fun x => x.readG ra.toNat ^^^ imm.zeroExtend 64)

/-- SHLI: left shift by IMM16[5:0] (R60). -/
def execShli (p : PanIx) (b : Bundle) (rd ra : Reg5) (imm : Half) (s : State) : Answer :=
  .next (issueG s p { b with s := encI 0x14 rd ra imm } rd fun x => x.readG ra.toNat <<< (imm.toNat % 64))

/-- SHRI: logical right shift by IMM16[5:0] (R60). -/
def execShri (p : PanIx) (b : Bundle) (rd ra : Reg5) (imm : Half) (s : State) : Answer :=
  .next (issueG s p { b with s := encI 0x15 rd ra imm } rd fun x => x.readG ra.toNat >>> (imm.toNat % 64))

/-- SARI: arithmetic right shift by IMM16[5:0] (R60). -/
def execSari (p : PanIx) (b : Bundle) (rd ra : Reg5) (imm : Half) (s : State) : Answer :=
  .next (issueG s p { b with s := encI 0x16 rd ra imm } rd fun x => (x.readG ra.toNat).sshiftRight (imm.toNat % 64))

/-- Replace bits [16h + 15:16h] (R60, MOVK). -/
def movkValue (v : Dword) (h : BitVec 2) (imm : Half) : Dword :=
  (v &&& ~~~(0xFFFF#64 <<< (16 * h.toNat))) ||| (imm.zeroExtend 64 <<< (16 * h.toNat))

/-- MOVK: IMM16 into the quarter h of rd, other bits kept (R60). -/
def execMovk (p : PanIx) (b : Bundle) (rd : Reg5) (z : BitVec 3) (h : BitVec 2) (imm : Half) (s : State) : Answer :=
  .next (issueG s p { b with s := encI 0x17 rd (z ++ h) imm } rd fun x => movkValue (x.readG rd.toNat) h imm)

/-- LD: load the word at ra + sext(IMM16) × 8 (R60). The word is read as the bundle issues, through the pan's own
unwritten stores (R70), and reaches rd by LOAD_RETURN. -/
def execLd (p : PanIx) (b : Bundle) (rd ra : Reg5) (imm : Half) (s : State) : Answer :=
  .next (issueS s p { b with s := encI 0x18 rd ra imm }
    (fun s1 =>
      let a := ldAddr (panOf s1 p) ra imm
      let ws := panRead s1 p a 1
      modPan (noteWords s1 0x23 ws (panOf s1 p).tenant) p fun x =>
        { x with loads := x.loads ++
          [{ vector := false, reg := rd, addr := a, pc := x.pc, data := wordsOf ws, ue := (firstBad ws).isSome }] })
    Pan.nextPc false)

/-- ST: store rd at ra + sext(IMM16) × 8 (R60). Its bank writes it by STORE_WRITTEN. -/
def execSt (p : PanIx) (b : Bundle) (rd ra : Reg5) (imm : Half) (s : State) : Answer :=
  .next (issueS s p { b with s := encI 0x19 rd ra imm }
    (fun s1 => modPan s1 p fun x =>
      { x with stores := x.stores ++
        [{ quad := addrQuad (ldAddr x ra imm), word := sramKey p x (ldAddr x ra imm), data := [x.readG rd.toNat] }] })
    Pan.nextPc false)

/-- LDY: rd = Y[IMM16[2:0]] (R60). -/
def execLdy (p : PanIx) (b : Bundle) (rd ra : Reg5) (imm : Half) (s : State) : Answer :=
  .next (issueG s p { b with s := encI 0x1A rd ra imm } rd fun x => x.readY (imm.toNat % 8))

/-- The position values of LDS (R62), for a pan of tenant `t`. -/
def positionValue (x : Pan) (t : Tenant) (code : Nat) : Dword :=
  let l := match x.lpan with | some l => l.val | none => 0
  match code with
  | 0 => BitVec.ofNat 64 l
  | 1 => BitVec.ofNat 64 (l / 8)
  | 2 => BitVec.ofNat 64 t.body
  | 3 => t.tide - t.idle
  | 4 => BitVec.ofNat 64 t.groups
  | _ => 0

/-- The tenant that a pan serves. -/
def tenantOfPan (s : State) (x : Pan) : Tenant := match x.tenant with | some t => tenOf s t | none => Tenant.reset

/-- LDS: rd = position value IMM16[3:0] (R60, R62). -/
def execLds (p : PanIx) (b : Bundle) (rd ra : Reg5) (imm : Half) (s : State) : Answer :=
  .next (issueG s p { b with s := encI 0x1B rd ra imm } rd fun x => positionValue x (tenantOfPan s x) (imm.toNat % 16))

/-- Where a conditional branch goes (R59, R61). -/
def Pan.branchIf (x : Pan) (taken : Bool) (off : Half) : Dword := if taken then x.branchPc (off.signExtend 64) else x.nextPc

/-- BEQ (R60). -/
def execBeq (p : PanIx) (b : Bundle) (ra rb : Reg5) (off : Half) (s : State) : Answer :=
  .next (issueBranch s p { b with s := encI 0x20 ra rb off } fun x =>
    x.branchIf (x.readG ra.toNat == x.readG rb.toNat) off)

/-- BNE (R60). -/
def execBne (p : PanIx) (b : Bundle) (ra rb : Reg5) (off : Half) (s : State) : Answer :=
  .next (issueBranch s p { b with s := encI 0x21 ra rb off } fun x =>
    x.branchIf (x.readG ra.toNat != x.readG rb.toNat) off)

/-- BLT: signed (R60). -/
def execBlt (p : PanIx) (b : Bundle) (ra rb : Reg5) (off : Half) (s : State) : Answer :=
  .next (issueBranch s p { b with s := encI 0x22 ra rb off } fun x =>
    x.branchIf ((x.readG ra.toNat).slt (x.readG rb.toNat)) off)

/-- BGE: signed (R60). -/
def execBge (p : PanIx) (b : Bundle) (ra rb : Reg5) (off : Half) (s : State) : Answer :=
  .next (issueBranch s p { b with s := encI 0x23 ra rb off } fun x =>
    x.branchIf (!(x.readG ra.toNat).slt (x.readG rb.toNat)) off)

/-- BY: branch if bit BIT of Y[YR] equals SENSE (R60). -/
def execBranchY (p : PanIx) (b : Bundle) (yr : BitVec 3) (bit : BitVec 6) (sense : BitVec 1) (off : Half) (s : State) :
    Answer :=
  .next (issueBranch s p { b with s := encY 0x24 yr bit sense off } fun x =>
    x.branchIf ((x.readY yr.toNat).getLsbD bit.toNat == (sense == 1)) off)

/-- J: branch always by OFF26 (R60). -/
def execJ (p : PanIx) (b : Bundle) (off : BitVec 26) (s : State) : Answer :=
  .next (issueBranch s p { b with s := encJ 0x25 off } fun x => x.branchPc (off.signExtend 64))

/-- JAL: rd = address of the next bundle; branch by sext(IMM16) (R60). -/
def execJal (p : PanIx) (b : Bundle) (rd ra : Reg5) (imm : Half) (s : State) : Answer :=
  .next (issueS s p { b with s := encI 0x26 rd ra imm } (fun s1 => modPan s1 p fun x => x.writeG rd.toNat x.nextPc)
    (fun x => x.branchPc (imm.signExtend 64)) false)

/-- JR: branch to the bundle address in ra, bits [3:0] ignored (R60). -/
def execJr (p : PanIx) (b : Bundle) (rd ra rb : Reg5) (z : BitVec 11) (s : State) : Answer :=
  .next (issueBranch s p { b with s := encR 0x27 rd ra rb z } fun x => alignDown (x.readG ra.toNat) 4)

/-- ENDB stops issue (R63). -/
def execEndb (p : PanIx) (b : Bundle) (z : BitVec 26) (s : State) : Answer :=
  .next (issueS s p { b with s := encJ 0x28 z } (fun s1 => modPan s1 p fun x => { x with endIssued := true }) Pan.nextPc false)

/-- BRK pauses the pan when a debugger is attached, and is the BREAK issue trap otherwise (R75; PC moves past it, log
entry 32). -/
def execBrk (p : PanIx) (b : Bundle) (z : BitVec 26) (s : State) : Answer :=
  .next (issueS s p { b with s := encJ 0x29 z } id Pan.nextPc true)

/-- LOAD_RETURN: the k-th outstanding load writes its register, or raises DATA_UE as a late trap (R58, R72, R73). It does not
come between two slots of a bundle (R52). DESIGN CHOICE (log entry 171): PAN_TRAP_ADDR of a load is the address it starts at;
of MLDB, MSCA and ECWLD it is that of the failing word. -/
def execLoadReturn (p : PanIx) (k : Nat) (s : State) : Answer :=
  match (panOf s p).loads[k]? with
  | none => .next s
  | some l =>
    if (panOf s p).mid then .next s
    else if l.ue then
      .next (trapPan (modPan s p fun x => { x with loads := dropNth k x.loads }) p 4 (if l.vector then 3 else 0) l.pc l.addr
        true)
    else
      .next (modPan s p fun x =>
        let x1 : Pan := { x with loads := dropNth k x.loads }
        if l.vector then x1.writeV l.reg.toNat (lanesOfBytes (bytesOfWords l.data))
        else x1.writeG l.reg.toNat (l.data.headD 0))

/-- STORE_WRITTEN: the bank writes the oldest store (R58). -/
def execStoreWritten (p : PanIx) (s : State) : Answer :=
  match (panOf s p).stores with
  | [] => .next s
  | st :: rest => .next (modPan (writeWords s st.word st.data) p fun x => { x with stores := rest })

/-- The four conditions of R63, for a pan whose ENDB has issued and which is neither trapped nor paused. -/
def Pan.mayEnd (x : Pan) : Bool :=
  x.endIssued && (x.state == .run || x.state == .stall) && x.mq.isEmpty && x.eq.isEmpty && x.mfly.isEmpty &&
    x.efly.isEmpty && x.stores.isEmpty && x.chan.cur.isNone && x.chan.queue.isEmpty &&
    x.wait == .none && x.fence.isNone

/-- Pan cycles since the pan's last boundary tick: two to a tick (R3, R305). -/
def Pan.cyclesAt (x : Pan) (tick : Dword) : Word := ((tick - x.boundaryTick) * 2).truncate 32

/-- PAN_ENDED: the pan becomes ended (R63), and PAN_TIDE_BUSY takes its cycles (R79). -/
def execPanEnded (p : PanIx) (s : State) : Answer :=
  if (panOf s p).mayEnd then
    .next (modPan s p fun x =>
      { x with state := .ended, busyLast := x.cyclesAt s.tick, busyMax := maxU x.busyMax (x.cyclesAt s.tick) })
  else .next s

/-- PAN_CTRL.PAUSE: 1 stops issue after the current bundle, 0 lets it go on (R75, R77). -/
def execPanPause (p : PanIx) (pause : Bool) (s : State) : Answer :=
  .next (debugWrite s fun s => modPan s p fun x =>
    { x with
      pauseReq := pause,
      state :=
        if pause then (if (x.state == .run || x.state == .stall) && !x.mid then .paused else x.state)
        else if x.state == .paused then .run else x.state })

/-- PAN_CTRL.STEP: writing 1 while paused issues one bundle (R77). -/
def execPanStep (p : PanIx) (s : State) : Answer :=
  .next (debugWrite s fun s => modPan s p fun x => { x with stepping := x.stepping || x.state == .paused })

end Sys2Proof.Machine
end

