-- ==== Sys2Proof/Machine/Dmc.lean ====
section
/-! DEFINITION. The memory controllers (R242 to R275): refresh, training, clock changes, parity replay, self-refresh. When each
event falls is the sender's to say. -/

namespace Sys2Proof.Machine

/-! ### Refresh (R256 to R260) -/

/-- Every bank of a stack. -/
def stackBanks (k : StackIx) : List BankIx :=
  (List.finRange 16).flatMap fun d => (List.finRange 256).map fun b => { stack := k, die := d, bank := b }

/-- Doubled accrual: a hot stack, or a gear with REFRESH = 1 that runs on it (R260). -/
def doubledRefresh (s : State) (k : StackIx) : Bool :=
  (stackOf s k).hot ||
    (liveTenants s).any fun t =>
      (tenOf s t).state == .running && (tenantStacks s t).contains k &&
        (match gearNo (tenOf s t) (tenOf s t).gear with | some g => g.refresh | none => false)

/-- One bank owes one refresh more, and is refreshed at once when it owes eight and is idle (R257, R259). A tick that falls while
it owes eight counts after the refresh that is due, so that OWED stays at 8 and no tick is lost. -/
def accrue (s : State) (b : BankIx) : State :=
  let n := min 8 ((bankOf s (bankKeyOf b)).owed + 1)
  forcedRefresh
    (modStack (modBank s (bankKeyOf b) fun x => { x with owed := n, late := x.late || x.owed == 8 }) b.stack fun x =>
      { x with maxOwed := maxU x.maxOwed (BitVec.ofNat 4 n) }) b

/-- The stack is in self-refresh: at a clock change until t + 22 µs (R263), and at a host loss until an attach ends it; the
full pass that follows is outside it (R272, R369). -/
def inSelfRefresh (s : State) (k : StackIx) : Bool :=
  let x := stackOf s k
  (x.mode == .selfRefresh && s.host.attach != .attached) || (x.mode == .clockChange && decide (s.tick.toNat < x.changeTick.toNat + 22 * 800))

/-- REFRESH_TICK (R257, R259, R260). A stack in self-refresh refreshes itself. -/
def execRefreshTick (k : StackIx) (s : State) : Answer :=
  .next <|
    if inSelfRefresh s k then s
    else (stackBanks k).foldl accrue (modStack s k fun x => { x with refX2 := doubledRefresh s k })

/-- A refresh window of a bank is open: no command runs or waits on it, and no SCHED transfer or command of the plan names it
within the 240 ns that a refresh or a training step takes (R256 to R258, R261). -/
def windowOpen (s : State) (b : BankIx) : Bool :=
  !bankBusy s b && unitIdle s b && !(dueBanks s (s.tick.toNat + 192)).contains b

/-- A bank that is owed a refresh and may have it now (R257, R258). -/
def refreshable (s : State) (b : BankIx) : Bool := (bankOf s (bankKeyOf b)).owed != 0 && windowOpen s b

/-- REFRESH_ISSUE (R214, R257, R258): in a refresh window, of the banks of a segment that are owed one the lowest first (log
entry 158). -/
def execRefreshIssue (b : BankIx) (s : State) : Answer :=
  .next <|
    if refreshable s b && (allSegBanks (bankSeg b)).all fun a => decide (b.bank.val ≤ a.bank.val) || !refreshable s a
    then beginRefresh s b else s

/-- REFRESH_COMPLETE (R256, R257, R259), of a refresh or of a training step, which pays none that the bank owes (R261). A bank
that owes eight is refreshed again before anything else starts on it. -/
def execRefreshComplete (b : BankIx) (s : State) : Answer :=
  .next <|
    if !(bankOf s (bankKeyOf b)).refreshing then s
    else
      forcedRefresh
        (modBank s (bankKeyOf b) fun y =>
          { y with refreshing := false, train := false, owed := if y.late || y.train then y.owed else y.owed - 1,
                   late := y.late && y.train }) b

/-! ### Training and clock changes (R261 to R265) -/

/-- A place with a segment of pseudo-channel q of a stack, in any SID. -/
def placeUsesPc (k : StackIx) (q : PcIx) : Place → Bool
  | .interleave segs _ _ _ => segs.any fun g => g.1 == k && 16 * (g.2.1.val % 4) + g.2.2.val == q.val
  | .blocks _ bs => bs.any fun x => x.at_.stack == k && (bankSeg x.at_).pc == q
  | _ => false

/-- A member of a pond group has banks on a pseudo-channel. -/
def memberUsesPc (k : StackIx) (q : PcIx) (m : MemberPlace) : Bool :=
  m.banks.any fun b => bankSeg { stack := m.stack, die := m.die, bank := b } == { stack := k, pc := q, sid := ⟨m.die.val / 4, by omega⟩ }

/-- Tenants bound to a pseudo-channel, by a region or by a member of a pond group. -/
def tenantsOfPc (s : State) (k : StackIx) (q : PcIx) : List TenIx :=
  (liveTenants s).filter fun t =>
    ((tenOf s t).regions.any fun r => placeUsesPc k q r.place) || (tenOf s t).bind.members.any fun g => g.any (memberUsesPc k q)

/-- A pseudo-channel is marked failed, and the tenants bound to it halt at their next boundary tick (R265, R268). -/
def failPc (s : State) (k : StackIx) (q : PcIx) (code : Byte) : State :=
  let s1 := logEvent (modStack s k fun x => { x with pcFail := x.pcFail ||| pcBit q }) code
    [BitVec.ofNat 8 k.val, BitVec.ofNat 8 q.val] none
  haltNext s1 (tenantsOfPc s k q) code

/-- A step of a periodic pass: it takes a refresh window and treats its bank as a refresh does (R261). -/
def trainBank (s : State) (b : BankIx) : State :=
  if (stackOf s b.stack).mode == .training && windowOpen s b then
    modBank (closeRow s b) (bankKeyOf b) fun x => { x with refreshing := true, train := true }
  else s

/-- TRAINING_PERIODIC (R261): a pass begins, but not while a clock change is asked for (R262); or a step of the pass begins, which
REFRESH_COMPLETE ends. Which banks the steps take is the sender's (log entry 201). -/
def execTrainingPeriodic (x : TrainStep) (s : State) : Answer :=
  .next <|
    match x.bank with
    | none =>
      if (stackOf s x.stack).mode == .run && (stackOf s x.stack).defer.isNone then
        modStack s x.stack fun y => { y with mode := .training }
      else s
    | some (d, b) => trainBank s { stack := x.stack, die := d, bank := b }

/-- Pseudo-channels of a mask that have not been marked failed. -/
def badPcs (x : Stack) (bad : Dword) : List PcIx :=
  (List.finRange 64).filter fun q => bad.getLsbD q.val && !x.pcFail.getLsbD q.val

/-- The failed passes of the pseudo-channels of one pass (R265): each counts, and the third marks it failed. -/
def countFails (s : State) (k : StackIx) (bad : Dword) : State :=
  (badPcs (stackOf s k) bad).foldl
    (fun r q =>
      let n := tabGet 0 (stackOf r k).failRun q.val + 1
      let s1 := modStack r k fun x => { x with failRun := tabSet 0 x.failRun q.val (if n < 3 then n else 0) }
      if n < 3 then s1 else failPc s1 k q 0x60) s

/-- The counts of pseudo-channels that found an eye restart. -/
def clearFails (s : State) (k : StackIx) (bad : Dword) : State :=
  modStack s k fun x => { x with failRun := x.failRun.filter fun e => bad.getLsbD e.1 }

/-- A full pass is due or runs: at the new clock (R263), or as the stack leaves self-refresh after an attach (R272). -/
def fullPass (s : State) (k : StackIx) : Bool :=
  let x := stackOf s k
  !x.trained && ((x.mode == .clockChange && !inSelfRefresh s k) || (x.mode == .selfRefresh && s.host.attach == .attached))

/-- TRAINING_PASS_END (R261 to R263, R265, R272): with a clock change deferred, the data are discarded; else the settings are
applied, or the pass is repeated at once while a pseudo-channel has failed fewer than three times. -/
def execTrainingPassEnd (k : StackIx) (bad : Dword) (s : State) : Answer :=
  .next <|
    let x := stackOf s k
    if x.mode != .training && !fullPass s k then s
    else if x.mode == .training && x.defer.isSome then
      logEvent (modStack s k fun y => { y with mode := .run, discard := satAdd y.discard 1 }) 0x62 [BitVec.ofNat 8 k.val, 0xFF] none
    else
      let s1 := countFails (clearFails s k bad) k bad
      if (badPcs (stackOf s1 k) bad).isEmpty then
        modStack s1 k fun y =>
          { y with passes := y.passes + 1, mode := if y.mode == .training then .run else y.mode,
                   trained := y.mode != .training }
      else modStack s1 k fun y => { y with retry := satAdd y.retry 1 }

/-- Write every queued column of a stack to the arrays (R263). -/
def drainStack (s : State) (k : StackIx) : State :=
  (stackOf s k).wq.foldl (fun r kv => kv.2.foldl (fun q e => drainEntry q k ⟨kv.1 % 64, Nat.mod_lt _ (by decide)⟩ e) r) s

/-- No command runs or waits in a stack, and no refresh or training step is under way. -/
def stackIdle (s : State) (k : StackIx) : Bool :=
  let here (n : Nat) : Bool := decide (bankKey k.val 0 0 ≤ n) && decide (n < bankKey k.val 15 264)
  (s.dram.units.all fun e => !here e.1 || (e.2.running.isNone && e.2.holding.isNone)) &&
    s.dram.banks.all fun e => !here e.1 || !e.2.refreshing

/-- The banks of a stack that have a row open. -/
def openBanks (s : State) (k : StackIx) : List BankIx := (stackBanks k).filter fun b => (bankOf s (bankKeyOf b)).openRow.isSome

/-- Write queues drained, pond mode left, every bank precharged (R263, R271). -/
def quietStack (s : State) (k : StackIx) : State :=
  modStack ((openBanks (drainStack s k) k).foldl closeRow (drainStack s k)) k fun x => { x with pond := 0, exiting := 0, trained := false }

/-- CLOCK_CHANGE_START (R262, R263): once no pass is gathering data and every unit is idle, the queues drain, pond mode is
left, and self-refresh is entered and left at the new divider. -/
def execClockChangeStart (k : StackIx) (s : State) : Answer :=
  .next <|
    let x := stackOf s k
    match x.defer with
    | none => s
    | some clk =>
      if x.mode != .run || !stackIdle s k then s
      else
        leaveSelfRefresh
          (modStack (quietStack s k) k fun y =>
            { y with mode := .clockChange, memClk := clk, newClk := clk, defer := none, changeTick := s.tick }) k

/-- CLOCK_CHANGE_COMPLETE (R31, R263): after the full pass at the new clock the change is reported; tenants all of whose
stacks have reported pass no more shift tides. -/
def execClockChangeComplete (k : StackIx) (s : State) : Answer :=
  .next <|
    if (stackOf s k).mode != .clockChange || !(stackOf s k).trained then s
    else
      let s1 := modStack s k fun x => { x with mode := .run, trained := false }
      (liveTenants s1).foldl
        (fun r t => if (tenOf r t).shift && clocksSettled r t then modTen r t fun x => { x with shift := false } else r) s1

/-! ### Parity (R266 to R268) -/

/-- A command that the stack never came to accept leaves a unit that it reached as it stood before: where it still runs or
waits, with the latch that it took, WIN and the W registers; where it ended at once, as a NOP or with BUSY, with LOP and STAT;
and with its TAG (R215, R267, R268). -/
def cancelRun (s : State) (b : BankIx) (run : PondRun) (was : Unit) : State :=
  modUnit s (unitAt s b).key fun u =>
    let v : Unit :=
      if u.running = some run then
        { u with running := none, runStat := 0, payload := 0, carry := [], latch := if u.carry.isEmpty then u.latch else u.carry,
                 win := was.win, w := was.w, wPoison := was.wPoison }
      else if u.holding = some run then { u with holding := none, heldPay := [] }
      else if u.tag = run.tag ∧ run.op = 0 then { u with lop := was.lop, stat := was.stat, win := was.win }
      else if u.stat = 1 then { u with stat := was.stat }
      else u
    { v with tag := if v.tag = run.tag then was.tag else v.tag }

/-- The window that such a command closed is open again, and the LDW that it ended waits for its payload as before (R201,
R215). -/
def reopenWindow (s : State) (g : SegIx) (w : Window) (cut : List Unit) : State :=
  if w.left = 0 then s
  else
    setWindow (((segBanks g w.bmask).zip cut).foldl
      (fun r b => modUnit r (unitAt r b.1).key fun u =>
        if u.lop = 1 ∧ u.stat = 0xB then
          { u with running := if awaiting b.2.running w.tag then b.2.running else u.running, payload := b.2.payload,
                   holding := if awaiting b.2.holding w.tag then b.2.holding else u.holding, heldPay := b.2.heldPay,
                   lop := b.2.lop, stat := b.2.stat, w := b.2.w, wPoison := b.2.wPoison }
        else u) s) g w

/-- A payload write that the stack never came to accept leaves the W register of a unit as it was (R215). -/
def cancelPayload (s : State) (b : BankIx) (w : Window) (was : List Byte × Bool) : State :=
  modUnit s (unitAt s b).key fun u =>
    if awaiting u.holding w.tag then { u with heldPay := u.heldPay.dropLast }
    else
      { setW u (w.wbase + w.next) was.1 was.2 with payload := if awaiting u.running w.tag then u.payload + 1 else u.payload }

/-- What stood before an ignored command returns: a unit that ends so is refreshed if that is due, and lets a waiting exit take
effect (R197, R259). -/
def cancelSent (s : State) (c : SentCmd) : State :=
  match c with
  | .pond g run was w cut =>
    let bs := segBanks g run.cmd.bmask
    let s1 := (bs.zip was).foldl (fun r b => cancelRun r b.1 run b.2) s
    let s2 := if waitsPayload run && (windowOf s1 g).tag == run.tag then setWindow s1 g { windowOf s1 g with left := 0 } else s1
    settleExit (bs.foldl forcedRefresh (reopenWindow s2 g w cut)) g.stack g.pc
  | .payload g w _ was => setWindow (((segBanks g w.bmask).zip was).foldl (fun r b => cancelPayload r b.1 w b.2) s) g w
  | _ => s

/-- PARITY_ALERT (R215, R267, R268): place n of the retry buffer fails. The stack executed none of the commands that the
controller retransmits, so that each takes effect once: the effect stands as it was given (log entry 47). The fourth alert on one
command in succession marks the pseudo-channel failed, and the pond commands from that one on never start. -/
def execParityAlert (k : StackIx) (q : PcIx) (n : Fin 16) (s : State) : Answer :=
  .next <|
    let x := stackOf s k
    let sent := tabGet [] x.sent q.val
    if sent.length ≤ n.val then s
    else
      let old := tabGet 0 x.alerts q.val
      let count := if old % 16 = n.val then old / 16 + 1 else 1
      let s1 := logEvent
        (modStack s k fun y =>
          { y with replays := satAdd y.replays 1, lastPc := BitVec.ofNat 6 q.val,
                   alerts := tabSet 0 y.alerts q.val (if count < 4 then 16 * count + n.val else 0) })
        0x64 [BitVec.ofNat 8 k.val, BitVec.ofNat 8 q.val] none
      if count < 4 then s1 else failPc ((sent.drop n.val).reverse.foldl cancelSent s1) k q 0x61

/-! ### Self-refresh (R270 to R272, R367, R369) -/

/-- Eighth e of a die (R270) holds part of a place. -/
def placeUsesEighth (k : StackIx) (d : DieIx) (e : Nat) : Place → Bool
  | .interleave segs _ _ _ => segs.any fun g => g.1 == k && g.2.1 == d && g.2.2.val / 2 == e
  | .blocks _ bs => bs.any fun x => x.at_.stack == k && x.at_.die == d && x.at_.bank.val / 32 == e
  | _ => false

/-- Places of the tenants' regions, of the system regions and of the placer's tables (R271; log entry 153). -/
def heldPlaces (s : State) : List Place :=
  ((liveTenants s).flatMap fun t => (tenOf s t).regions.map (·.place)) ++ systemPlaces s

/-- The mask of eighths kept on dies `d0` to `d0 + 7`. -/
def keepMask (s : State) (k : StackIx) (d0 : Nat) : Dword :=
  let ps := heldPlaces s
  BitVec.ofNat 64 <| (List.range 64).foldl
    (fun v i =>
      let d : DieIx := ⟨(d0 + i / 8) % 16, Nat.mod_lt _ (by decide)⟩
      if ps.any (placeUsesEighth k d (i % 8)) then v + 2 ^ i else v) 0

/-- Eighth e of die d is kept (R275). -/
def eighthKept (x : Stack) (d e : Nat) : Bool :=
  if d < 8 then x.pasr0.getLsbD (8 * d + e) else x.pasr1.getLsbD (8 * (d - 8) + e)

/-- Enter self-refresh with the eighths of the masks kept (R271). -/
def enterSelfRefresh (s : State) (k : StackIx) (keep0 keep1 : Dword) : State :=
  modStack (quietStack s k) k fun x => { x with mode := .selfRefresh, pasr0 := keep0, pasr1 := keep1 }

/-- A tenant that a host loss has still to quiesce: one that runs, or that a turnover is bringing in (R367, R370). -/
def stillQuiescing (s : State) (t : TenIx) : Bool :=
  (tenOf s t).state == .running || ((tenOf s t).state == .slicedOut && (tenOf s t).quiesceHost)

/-- SELF_REFRESH_ENTERED (R271, R367, R369): after the last tenant is quiesced and the last unit idle (R197), every controller
is in self-refresh, ATTACH becomes QUIESCED, and an attach written while QUIESCING takes effect. -/
def execSelfRefreshEntered (s : State) : Answer :=
  .next <|
    if s.host.attach != .quiescing || (liveTenants s).any (stillQuiescing s) || (List.finRange 12).any (fun k => !stackIdle s k) then s
    else
      let s1 := (List.finRange 12).foldl (fun r k => enterSelfRefresh r k (keepMask s k 0) (keepMask s k 8)) s
      let s2 := modHost s1 fun h => { h with attach := .quiesced }
      if s.host.attachPend then attachNow s2 else s2

/-- SPMAP and SPVAL of every stack as the retirement record says (R225). -/
def rewriteSpares (s : State) : State :=
  (List.finRange 12).foldl
    (fun r k =>
      modStack r k fun x =>
        (s.plc.retire.filter fun e => !e.pan && e.stack.toNat == k.val && decide (e.spare.toNat < 8)).foldl
          (fun y e =>
            { y with spmap := tabSet 0 y.spmap (8 * e.die.toNat + e.spare.toNat) e.bank,
                     spval := tabModify 0 y.spval e.die.toNat fun v => v ||| ((1#8) <<< e.spare.toNat) })
          { x with spmap := [], spval := [] }) s

/-- A word of an eighth that self-refresh dropped, or of a spare not in use, which is always dropped (R270). -/
def droppedKey (s : State) (n : Nat) : Bool :=
  match placeOf n with
  | .dram st d _ _ _ =>
    match bankOfKey s n with
    | some k => !eighthKept (tabGet Stack.reset s.dram.stk st) d (k.bank.val / 32)
    | none => true
  | _ => false

/-- Banks of a die in the eighths that self-refresh dropped. -/
def droppedBanks (s : State) (k : StackIx) (d : DieIx) : List (Nat × BankIx) :=
  servingBanks s k d fun b => !eighthKept (stackOf s k) d.val (b.val / 32)

/-- Change a state die by die. -/
def forDies (s : State) (f : State → StackIx → DieIx → State) : State :=
  (List.finRange 12).foldl (fun r k => (List.finRange 16).foldl (fun q d => f q k d) r) s

/-- Every eighth that self-refresh dropped reads as zero columns with valid check bits, but for the flips that the injection
registers name (R272, R297). -/
def fillDropped (s : State) : State :=
  let s1 : State := { s with mem := s.mem.filter fun e => !droppedKey s (e.1 / 16) }
  if s.log.injArm then
    forDies s1 fun r k d => (droppedBanks s k d).foldl (fun q b => injectRange q (dramKey k.val d.val b.1 0 0) (4 * 786432)) r
  else s1

/-- The array FILLs of the dropped eighths, those of a die together (R272, R288). -/
def countDropped (s : State) : State := forDies s fun r k d => fillTrace r k d (droppedBanks s k d)

/-- After the full pass the spare map is rewritten and the dropped eighths are filled, and the stacks serve again (R272). -/
def exitSelfRefresh (s : State) : State :=
  (List.finRange 12).foldl
    (fun r k => modStack r k fun x => { x with mode := .run, trained := false })
    (countDropped (fillDropped (rewriteSpares s)))

/-- SELF_REFRESH_EXIT_DONE (R272, R369): after an attach from QUIESCED and a full pass of each stack the stacks have left
self-refresh, and each quiesced
tenant starts a new run of its grid. -/
def execSelfRefreshExitDone (s : State) : Answer :=
  .next <|
    if s.host.attach != .attached ||
        (List.finRange 12).any (fun k => (stackOf s k).mode != .selfRefresh || !(stackOf s k).trained) then s
    else
      (List.finRange 16).foldl (fun r t => resumeTenant (modTen r t fun x => { x with quiesceHost := false }) t)
        (exitSelfRefresh s)

end Sys2Proof.Machine
end

