-- ==== Sys2Proof/Machine/Governor.lean ====
section
/-! DEFINITION. Placement moves (R401), sensors (R403), the governor (R404 to R408) and the calendar's commands (R409,
R412). -/

namespace Sys2Proof.Machine

/-! ### Placement moves (R401) -/

/-- A tenant whose data a move may copy: no tide of it is at work. -/
def moveReady (s : State) (t : TenIx) : Bool :=
  (tenOf s t).state != .running || !(tenOf s t).inTide || (tenOf s t).idleNow

/-- Tenants that wait for one move. -/
def moveOwners (s : State) (m : MoveWhat) : List TenIx :=
  (List.finRange 16).filter fun t => (tenOf s t).moves.any fun x => x.what == m && !x.copied

/-- The words of an SRAM range that the memory lists. -/
def listedWords (m : Memory) (k n : Nat) : List Nat :=
  ((m.filter fun e => decide (16 * k ≤ e.1) && decide (e.1 < 16 * (k + n))).map fun e => e.1 / 16).dedup

/-- The request of the placer that carries a pan's partition. -/
def moveReq (t : TenIx) : SysReq :=
  { tenant := some t, lpan := 0, srcRegion := 0, srcOff := 0, dstRegion := 0, dstOff := 0, list := none, action := .none,
    parityBad := false }

/-- Copy words of one SRAM to another through the check code, a corrected word arriving corrected. -/
def copyWords (s : State) (src dst : Nat) (ks : List Nat) (t : TenIx) : State :=
  ks.foldl
    (fun r k =>
      let w := readWord s k
      let r1 := noteWord r 0x40 k w (some t)
      match w.check with
      | .corrected _ => writeWord r1 (k - src + dst) w.d
      | _ => r1)
    s

/-- A channel copies `n` words from one SRAM to another. At an uncorrectable word it halts, what came before it being written
(R181); answers whether the copy is complete. -/
def copySram (s : State) (c : SchIx) (src dst n : Nat) (t : TenIx) : State × Bool :=
  let ks := listedWords s.mem src n
  let bad := ks.find? fun k => (readWord s k).check == .uncorrectable
  let m := match bad with | some k => k - src | none => n
  let s1 := copyWords (injectRange { s with mem := tabCopy s.mem (16 * src) (16 * dst) (16 * m) } dst m) src dst
    (ks.filter fun k => decide (k < src + m)) t
  let s2 := countSch s1 c (8 * m)
  match bad with
  | some k => (haltSch (noteWord s2 0x40 k (readWord s k) (some t)) c (moveReq t) 0 (8 * (k - src)), false)
  | none => (s2, true)

/-- What a move carries: a tenant's partition on a pan with its save area, or a bank raw, its queued writes first (R236). Nothing
while a bank must wait. -/
def copyMove (s : State) (c : SchIx) (t : TenIx) : MoveWhat → Option (State × Bool)
  | .pan a b =>
    let x := tenOf s t
    some (copySram s c (panKey a.val x.bind.panBase) (panKey b.val x.bind.panBase)
      ((x.sramPerPan.toNat + (if x.sliced then saveArea else 0) + 7) / 8) t)
  | .bank a b =>
    if drainWaits s [a, b] then none
    else
      let s1 := prepareBanks s [a, b]
      let src := dramKey a.stack.val a.die.val (physBank s a.stack a.die a.bank.val) 0 0
      let dst := dramKey b.stack.val b.die.val (physBank s b.stack b.die b.bank.val) 0 0
      some ({ countSch s1 c bankBytes with mem := tabCopy s1.mem (16 * src) (16 * dst) (16 * 2 ^ 22) }, true)
  | .spare b j =>
    if drainWaits s [b] then none
    else
      let s1 := prepareBanks s [b]
      some ({ countSch s1 c bankBytes with
              mem := rawBank s1.mem b.stack.val b.die.val (physBank s1 b.stack b.die b.bank.val) (256 + j.val) }, true)

/-- The tenant is at a boundary of its grid: no tide in progress, or one that begins at this tick. -/
def atBoundary (s : State) (t : TenIx) : Bool := !(tenOf s t).inTide || planStart s (tenOf s t) == some s.tick

/-- The data of a bank are where its new spare map puts them: no tenant has any, or its move is copied (R225). -/
def spareReady (s : State) (b : BankIx) (m : MoveWhat) : Bool :=
  (bankOwners s b).all fun t => atBoundary s t && (tenOf s t).moves.any fun x => x.copied && x.what == m

/-- Banks that a write of the spare map gives to another physical bank. -/
def remapped (s r : State) (b : BankIx) : List BankIx :=
  ((List.finRange 256).map fun n => { b with bank := n }).filter fun c =>
    physBank s c.stack c.die c.bank.val != physBank r c.stack c.die c.bank.val

/-- What no tenant has in a bank that is remapped goes with it on a channel of the placer. -/
def carryBanks (s r : State) (c : SchIx) (bs : List BankIx) : State :=
  bs.foldl
    (fun q b => { countSch q c bankBytes with
      mem := rawBank q.mem b.stack.val b.die.val (physBank s b.stack b.die b.bank.val) (physBank r b.stack b.die b.bank.val) }) s

/-- SPMAP_WRITE (R224, R225): at a boundary tick of the tenants with data in the bank, with no command running or held on it
and its queued writes in its array, and only once the placer has copied those data; else nothing happens, nor where it would
map a spare whose fill SPARES_FILLED does not report or whose unit failed (R286, R289). A bank without tenant data is copied
here, on a channel of the placer (R161; log entry 55). -/
def execSpmapWrite (k : StackIx) (d : DieIx) (j : Fin 8) (bank : Byte) (valid : Bool) (s : State) : Answer :=
  .next <|
    let b : BankIx := { stack := k, die := d, bank := ⟨bank.toNat, bank.isLt⟩ }
    let bs := remapped s (mapSpare s b j valid) b
    let free := bs.filter fun c => (bankOwners s c).isEmpty
    if valid && (!s.log.sparesFilled || (bankOf s (bankKey k.val d.val (256 + j.val))).retired) then s
    else if !(b :: bs).all (unitIdle s) || drainWaits s (b :: bs) || !bs.all (fun c => spareReady s c (.spare b j)) then s
    else
      let s1 := prepareBanks s (b :: bs)
      let done (r : State) : State := (List.finRange 16).foldl
        (fun q t => if (tenOf q t).moves.isEmpty then q else modTen q t fun x =>
          { x with moves := x.moves.filter fun m => m.what != .spare b j || !m.copied }) (mapSpare r b j valid)
      if free.isEmpty then done s1
      else match moveChan s1 with | some c => done (carryBanks s1 (mapSpare s1 b j valid) c free) | none => s

/-- PLACEMENT_MOVE_COMPLETE: the copy is complete, and the binding changes at the next boundary tick (R401). Every tenant
with blocks in a bank takes part in its one copy. It waits while SCH12 to SCH15 take no work; a copy that halts its channel is not
complete, and its request is the placer's to make again (log entry 56). -/
def execPlacementMoveComplete (t : TenIx) (m : MoveWhat) (s : State) : Answer :=
  .next <|
    let ts := moveOwners s m
    if !ts.contains t || !ts.all (moveReady s) then s
    else
      match (moveChan s).bind fun c => copyMove s c t m with
      | none => s
      | some (r, false) => r
      | some (r, true) =>
        ts.foldl (fun r u => modTen r u fun x =>
          { x with moves := x.moves.map fun y => if y.what == m then { y with copied := true } else y }) r

/-! ### Sensors (R403) -/

/-- The larger of two signed temperatures. -/
def hotter (a b : Half) : Half := if a.toInt < b.toInt then b else a

def newMax (old : Option Half) (v : Half) : Option Half := some (match old with | some m => hotter m v | none => v)

/-- Stack temperatures come in steps of 1 °C. -/
def wholeDegree (v : Half) : Half := v &&& 0xFFF0

/-- One sweep's readings are kept, with each maximum. -/
def SenSt.take (x : SenSt) (r : Sweep) : SenSt :=
  let die := r.die.take 64
  let stack := (r.stack.take 12).map wholeDegree
  { die := tabSetList 0 x.die 0 die,
    dieMax := (List.range die.length).foldl (fun m i => tabModify none m i fun o => newMax o (die.getD i 0)) x.dieMax,
    stack := tabSetList 0 x.stack 0 stack,
    stackMax := (List.range stack.length).foldl (fun m i => tabModify none m i fun o => newMax o (stack.getD i 0)) x.stackMax,
    railMv := tabSetList 0 x.railMv 0 (r.railMv.take 14), railMa := tabSetList 0 x.railMa 0 (r.railMa.take 14),
    inMv := r.inMv, inMa := r.inMa, cool := r.cool, pond := x.pond, pondNow := x.pondNow }

def degrees (n : Nat) : Int := 16 * (n : Int)

def anyDie (s : State) (f : Int → Bool) : Bool := (List.range 64).any fun i => f (tabGet 0 s.sen.die i).toInt

def anyStack (s : State) (f : Int → Bool) : Bool := (List.range 12).any fun i => f (tabGet 0 s.sen.stack i).toInt

/-- A reading of CRITICAL (R406, R467). -/
def criticalNow (s : State) : Bool :=
  anyDie s (fun v => decide (degrees 105 ≤ v)) || anyStack s (fun v => decide (degrees 95 ≤ v)) ||
    decide (degrees 50 < s.sen.cool.toInt)

/-- CRITICAL holds a tenant at its next boundary tick, a sliced-out one where it stands (R367, R406). -/
def thermalTenant (s : State) (t : TenIx) : State :=
  let x := tenOf s t
  if x.state == .running || (x.state == .slicedOut && s.slice.turnover && entryRuns s t) || x.state == .quiesced then
    modTen s t fun y => { y with quiesceThermal := true }
  else if x.state == .slicedOut then quiesceTenant (modTen s t fun y => { y with quiesceThermal := true }) t
  else s

/-- CRITICAL begins: every tenant is quiesced, without self-refresh (R406). -/
def enterCritical (s : State) : State :=
  (List.finRange 16).foldl thermalTenant
    (logEvent { s with gov := { s.gov with critical := true, coolRun := 0 } } 0xC6 (leBytes 2 (hottest s).toNat) none)

/-- A tenant whose gears the governor selects. -/
def Tenant.governed (x : Tenant) : Bool := x.state == .running || x.state == .slicedOut

def gearPower (x : Tenant) (n : BitVec 3) : Nat := match gearNo x n with | some g => g.powerMw.toNat | none => 0

/-- The HOT rule's request for one tenant (R406): measured against the gear it runs, or a lower one already requested. A
tenant without a gear takes one under the rule when it starts. -/
def hotTenant (s : State) (t : TenIx) : State :=
  let x := tenOf s t
  if !x.geared then modTen s t fun y => { y with hot := true }
  else
  match hotGear x (min (gearPower x x.gear) (gearPower x x.nextGear)) with
  | some g => modTen s t fun y => { y with hot := true, nextGear := g.gear }
  | none => s

/-- Note a sweep in a tenant's count of windows at 82 °C or below. -/
def noteWarm (s : State) (t : TenIx) : State :=
  if (tenantStacks s t).any fun k => decide (degrees 82 < (tabGet 0 s.sen.stack k.val).toInt) then
    { s with gov := { s.gov with hotRun := tabSet 0 s.gov.hotRun t.val 1 } }
  else s

/-- HOT for every tenant bound to a stack above 85 °C (R406). -/
def hotStep (s : State) (t : TenIx) : State :=
  let s1 := noteWarm s t
  if (tenOf s t).live && (tenantStacks s t).any (stackHot s) then hotTenant s1 t else s1

/-- A stack above 85 °C accrues refreshes at the doubled cadence (R260). -/
def markHot (s : State) : State :=
  (List.finRange 12).foldl (fun r k => modStack r k fun x => { x with hot := stackHot s k }) s

/-- The samples of a sweep as the sequencer puts them into instance 43 (R337; log entry 175). -/
def sweepSamples (r : Sweep) : List Dword :=
  (r.die.take 64 ++ r.stack.take 12 ++ r.railMv.take 14).map (fun h => fieldTo h.toNat 0) ++
    (r.railMa.take 14).map (fun w => fieldTo w.toNat 0) ++
    [fieldTo r.inMv.toNat 0, fieldTo r.inMa.toNat 0, fieldTo r.cool.toNat 0]

/-- The input power of a sweep has a sample that is discarded. -/
def powerLost (r : Sweep) : Bool := r.bad == some 104 || r.bad == some 105

/-- The readings that the governor goes by: a sample whose word is poisoned is discarded, and its sensor's last one stands
until the next (R337; DEDUCED, log entry 203). -/
def governorSen (s : State) (r : Sweep) : SenSt :=
  let x := s.sen.take r
  match r.bad with
  | none => x
  | some i =>
    if i < 64 then { x with die := tabSet 0 x.die i (tabGet 0 s.sen.die i) }
    else if i < 76 then { x with stack := tabSet 0 x.stack (i - 64) (tabGet 0 s.sen.stack (i - 64)) }
    else if i = 106 then { x with cool := s.sen.cool }
    else x

/-- The samples of a sweep go through instance 43. -/
def passSamples (s : State) (r : Sweep) : State :=
  let s1 := (sweepSamples r).zipIdx.foldl
    (fun x w => queueTake (queueSend x 43 [[w.1]] (if r.bad == some w.2 then some 0 else none)) 43 1) s
  match r.bad with
  | some i => notePoison s1 43 ((queueRead s 43 + i) % 256) true
  | none => s1

/-- What the governor does with a sweep. -/
def governSweep (s : State) (r : Sweep) : State :=
  let s1 : State := if powerLost r then s else { s with
    gov := { s.gov with powerSum := s.gov.powerSum + r.inMv.toNat * r.inMa.toNat, powerN := s.gov.powerN + 1 } }
  let s2 := markHot s1
  let warm := anyDie s2 (fun v => decide (degrees 95 < v)) || anyStack s2 (fun v => decide (degrees 85 < v))
  let s3 : State := { s2 with gov := { s2.gov with warmNow := s2.gov.warmNow || warm } }
  let s4 := (List.finRange 16).foldl hotStep s3
  if criticalNow s4 && !s4.gov.critical then enterCritical s4 else s4

/-- SENSOR_SWEEP (R403, R406, R409). The input power is summed for the window's mean (R404). While the governor is held in
reset the sequencer sees instance 43 full, and drops every sample (R326, R336, R337). -/
def execSensorSweep (r : Sweep) (s : State) : Answer :=
  let s1 : State := { s with sen := s.sen.take r, cal := { s.cal with scap := r.scap } }
  .next <|
    if s.rst.coreHeld then (sweepSamples r).foldl (fun x _ => queueDrop x 43) s1
    else
      let x := governSweep (passSamples { s1 with sen := governorSen s r } r) r
      { x with sen := s1.sen }

/-! ### Gear steps (R404, R405) -/

def gearRank (g : Gear) : Nat := g.powerMw.toNat * 8 + g.gear.toNat

/-- Eligible gears at a clock, in order; under the HOT rule only those with REFRESH = 1. -/
def gearsAt (x : Tenant) (clk : Byte) : List Gear := (gearOrder x).filter fun g => g.memClk == clk && (!x.hot || g.refresh)

def nextLower (x : Tenant) (clk : Byte) : Option Gear :=
  match gearNo x x.nextGear with
  | some c => ((gearsAt x clk).filter fun g => decide (gearRank g < gearRank c)).getLast?
  | none => none

def nextHigher (x : Tenant) (clk : Byte) : Option Gear :=
  match gearNo x x.nextGear with
  | some c => ((gearsAt x clk).filter fun g => decide (gearRank c < gearRank g)).head?
  | none => none

/-- Memory clock of the gear a tenant has or has requested. -/
def tenClock (x : Tenant) : Byte := match gearNo x x.nextGear with | some g => g.memClk | none => 0

/-- A change of clock is asked for or under way. -/
def clockPending (s : State) (t : TenIx) : Bool := (tenOf s t).shift || !allAtClock s t (tenClock (tenOf s t))

/-- A change of clock that nothing but its commit ticks and the controllers stand before: every tenant that shares its stacks asks
for the same clock (R31). -/
def clockUnderWay (s : State) (t : TenIx) : Bool :=
  (tenOf s t).shift ||
    (clockPending s t && (sharers s t (tenantStacks s t)).all fun u => tenClock (tenOf s u) == tenClock (tenOf s t))

def runningTenants (s : State) : List TenIx := (List.finRange 16).filter fun t => (tenOf s t).state == .running

/-- Running tenants from the highest or the lowest POWER_MW; equal ones by number. -/
def byPower (s : State) (highest : Bool) : List TenIx :=
  sortBy
    (fun t => (if highest then 2 ^ 32 - gearPower (tenOf s t) (tenOf s t).nextGear else gearPower (tenOf s t) (tenOf s t).nextGear) *
      16 + t.val)
    (runningTenants s)

def requestGear (s : State) (t : TenIx) (g : Gear) : State := modTen s t fun x => { x with nextGear := g.gear }

/-- The step down of R404: the first tenant that has a lower gear at its clock. -/
def stepDown (s : State) : Option State :=
  (byPower s true).findSome? fun t =>
    if clockPending s t then none else (nextLower (tenOf s t) (tenClock (tenOf s t))).map (requestGear s t)

/-- The step up of R404: `fits` says whether the added power leaves room. A HOT request still to take effect wins (R408). -/
def stepUp (s : State) (fits : Nat → Bool) : Option State :=
  (byPower s false).findSome? fun t =>
    let x := tenOf s t
    if clockPending s t || (x.hot && x.nextGear != x.gear) then none
    else
      match nextHigher x (tenClock x) with
      | some g => if fits (g.powerMw.toNat - gearPower x x.nextGear) then some (requestGear s t g) else none
      | none => none

/-- Live tenants that share stacks with a set of tenants. -/
def joined (s : State) (ts : List TenIx) : List TenIx :=
  let ks := ts.flatMap (tenantStacks s)
  (List.finRange 16).filter fun u => (tenOf s u).live && (ts.contains u || (tenantStacks s u).any ks.contains)

/-- Every tenant that a change of one tenant's clock draws in: those on its stacks, those on theirs, and so on. -/
def clockGroup (s : State) (t : TenIx) : List TenIx := (List.range 16).foldl (fun ts _ => joined s ts) [t]

/-- A tenant's gear at another clock: the nearest in the order of R405 in the direction of the change, else the nearest in the
other. -/
def gearAtClock (x : Tenant) (clk : Byte) (down : Bool) : Option Gear :=
  if down then (nextLower x clk).or (nextHigher x clk) else (nextHigher x clk).or (nextLower x clk)

/-- A change of the memory clock of a group by one (R31, R404): every tenant of the group has an eligible gear there, and each
that runs requests one; the change itself is committed at their commit ticks. A quiesced tenant requests none, so it must have a
gear there already. -/
def moveClock (s : State) (down : Bool) : Option State :=
  (byPower s down).findSome? fun t =>
    let clk := tenClock (tenOf s t)
    let grp := clockGroup s t
    let new := if down then clk + 1 else clk - 1
    if clockPending s t || (if down then decide (2 ≤ clk.toNat) else clk == 0) ||
        grp.any (fun u => (gearsAt (tenOf s u) new).isEmpty || ((tenOf s u).state == .quiesced && tenClock (tenOf s u) != new))
    then none
    else some (grp.foldl
      (fun r u =>
        if (tenOf s u).governed then
          match gearAtClock (tenOf s u) new down with | some g => requestGear r u g | none => r
        else r) s)

/-! ### The window (R404, R406, R407) -/

/-- Throttling starts at 16, or halves D (R407). -/
def deepen (s : State) : State :=
  if s.gov.depth = 0 then { s with gov := { s.gov with depth := 16, throttledLogged := false } }
  else { s with gov := { s.gov with depth := if s.gov.depth = 1 then 1 else s.gov.depth >>> 1 } }

/-- D doubles, and throttling ends beyond 16 (R407). -/
def relax (s : State) : State :=
  { s with gov := { s.gov with depth := if s.gov.depth.toNat < 16 then s.gov.depth <<< 1 else 0 } }

/-- P ≥ cap: a gear, else a clock, else throttling. While a change of clock is under way nothing more is done. -/
def overCap (s : State) : State :=
  match stepDown s with
  | some r => r
  | none =>
    if (runningTenants s).any (clockUnderWay s) then s
    else match moveClock s true with
      | some r => r
      | none => deepen s

/-- A stack of a running tenant runs at a reduced clock. -/
def reduced (s : State) : Bool := (runningTenants s).any fun t => !allAtClock s t 0

def setLow (s : State) (a b : Nat) : State := { s with gov := { s.gov with low8 := a, low64 := b } }

/-- P < cap − HYST in one more window. -/
def underCap (s : State) (fits : Nat → Bool) : State :=
  let a := min 8 (s.gov.low8 + 1)
  let b := if reduced s then min 64 (s.gov.low64 + 1) else 0
  if a = 8 ∧ s.gov.depth ≠ 0 then setLow (relax s) 0 0
  else
    match (if a = 8 then stepUp s fits else none), (if b = 64 then moveClock s false else none) with
    | some r, _ => setLow r 0 0
    | none, some r => setLow r 0 0
    | none, none => setLow s a b

/-- The end of CRITICAL after 1,000 cool windows: each tenant starts a new run (R406, R408). -/
def endCritical (s : State) : State :=
  (List.finRange 16).foldl (fun r t => resumeTenant (modTen r t fun x => { x with quiesceThermal := false }) t)
    { s with gov := { s.gov with critical := false, coolRun := 0 } }

def coolWindow (s : State) : State :=
  let n := if s.gov.warmNow then 0 else s.gov.coolRun + 1
  let s1 : State := { s with gov := { s.gov with coolRun := n, warmNow := false } }
  if !s.gov.critical then { s1 with gov := { s1.gov with coolRun := 0 } } else if 1000 ≤ n then endCritical s1 else s1

/-- The end of the HOT rule for a tenant after 8 windows at 82 °C or below (R406). -/
def hotWindow (s : State) (t : TenIx) : State :=
  if !(tenOf s t).hot then { s with gov := { s.gov with hotRun := tabSet 0 s.gov.hotRun t.val 0 } }
  else
    let n := tabGet 0 s.gov.hotRun t.val
    let m := if n % 2 = 1 then 0 else n + 2
    let s1 : State := { s with gov := { s.gov with hotRun := tabSet 0 s.gov.hotRun t.val (if 16 ≤ m then 0 else m) } }
    if 16 ≤ m then modTen s1 t fun x => { x with hot := false } else s1

/-- P of the window in mW. The spec does not say how a mean between two whole numbers of mW reads: one of the two, freely
(log entry 57). -/
def takePower (s : State) : State :=
  let d := 1000 * s.gov.powerN
  let exact : Bool := s.gov.powerSum % d == 0
  let up := if exact then 0 else (freshFree s).toNat % 2
  let s1 := if exact then s else usedFree s 1
  { s1 with gov := { s1.gov with
      power := BitVec.ofNat 32 (s.gov.powerSum / d + up), powerSum := 0, powerN := 0,
      capped := decide (s.gov.cap.toNat * 10 ^ 6 * s.gov.powerN ≤ s.gov.powerSum) } }

/-- Pond activity of the window that ends, in whole bank-µs (R403, R414). -/
def SenSt.endWindow (x : SenSt) : SenSt :=
  { x with pond := (List.range 12).foldl (fun c k => tabSet 0 c k (BitVec.ofNat 32 (tabGet 0 x.pondNow k / 800))) x.pond, pondNow := [] }

/-- GOVERNOR_WINDOW: the end of a 1 ms window (R404 to R407). The comparisons take the mean itself, as the sum of the samples
against the limit times their number. A window without a sample has no mean, and nothing is done. Counts and throttling go on
under CRITICAL, when no tenant runs that a gear could be requested for. -/
def execGovernorWindow (s0 : State) : Answer :=
  let s : State := { s0 with sen := s0.sen.endWindow }
  .next <|
    if s.gov.powerN = 0 then s
    else
      let n := s.gov.powerN
      let sum := s.gov.powerSum
      let cap := s.gov.cap.toNat * 10 ^ 6 * n
      let low := (s.gov.cap.toNat - s.gov.hyst.toNat) * 10 ^ 6 * n
      let s1 := (List.finRange 16).foldl hotWindow (coolWindow (takePower s))
      if cap ≤ sum then setLow (overCap s1) 0 0
      else if sum < low then underCap s1 fun add => decide (add * 1000 * n < low - sum)
      else setLow s1 0 0

/-! ### Mailbox commands and the calendar (R404, R409, R412) -/

/-- GOV_SET_CAP: 1,200 W to the cap of the option block (R404, R412). -/
def execGovSetCap (slot : MbxIx) (s : State) : Answer :=
  runMailbox s slot 0xC0 fun a s =>
    let w := fieldAt a 0x10 2
    if w < 1200 ∨ s.gov.optCap.toNat < w then respond s slot 0xA2 []
    else respond { s with gov := { s.gov with cap := BitVec.ofNat 16 w } } slot 0 []

/-- Set the calendar, and VALID (R409). The timebase stays. -/
def setCalendar (s : State) (sec frac : Nat) : State :=
  { s with cal := { s.cal with sec := BitVec.ofNat 49 sec, frac := BitVec.ofNat 15 frac, acc := 0, set := true, valid := true } }

/-- CAL_SET (R409, R412): seconds that CAL_NOW.SEC can hold. -/
def execCalSet (slot : MbxIx) (s : State) : Answer :=
  runMailbox s slot 0xC3 fun a s =>
    let sec := fieldAt a 0x18 8
    let frac := fieldAt a 0x20 2
    if 32767 < frac ∨ 2 ^ 49 ≤ sec then respond s slot 0xA2 [] else respond (setCalendar s sec frac) slot 0 []

/-- CAL_HOLD_LOSS: the comparator latches the loss (R409). -/
def execCalHoldLoss (s : State) : Answer := .next { s with cal := { s.cal with lossLatched := true } }

end Sys2Proof.Machine
end

