-- ==== Sys2Proof/Machine/Reset.lean ====
section
/-! DEFINITION. Reaches and sources of reset (R416 to R425, R459, R460), bring-up (R431 to R438), the pins and LEDs (R425, R470),
configuration requests (R436) and OSFP modules (R464). -/

namespace Sys2Proof.Machine

def modRst (s : State) (f : RstSt → RstSt) : State := { s with rst := f s.rst }

def reachNo : Reach → Nat
  | .core => 0
  | .system => 1
  | .powerOn => 2

/-! ### Pins, LEDs and clocks as views (R425, R426, R428, R431, R440, R470) -/

def anyQuiesced (s : State) : Bool := (List.finRange 16).any fun t => (tenOf s t).state == .quiesced

/-- LED_RUN: held while a reset holds Rilef, dark until Rilef is ready (R425, R470). The spec gives no state for a tenant
quiesced by a fence alone: the free constant decides (log entry 2). -/
def ledRunNow (s : State) : Led :=
  if !s.rst.standby then .dark
  else if s.rst.fw != 1 then (if s.rst.coreHeld && s.rst.fw != 2 then s.rst.ledRun else .dark)
  else if s.host.attach == .quiescing || s.host.attach == .quiesced || s.gov.critical then .blink
  else if anyQuiesced s then (if Config.fencedLedLit then .lit else .dark)
  else .lit

/-- LED_FLT: held while a reset holds Rilef (R425). -/
def ledFltNow (s : State) : Led :=
  if !s.rst.standby then .dark
  else if s.rst.fw != 1 && s.rst.coreHeld then s.rst.ledFlt
  else if ((List.finRange 16).any fun t => (tenOf s t).state == .halted) || s.rst.clkHeld != 0 || s.mir.role == .fenced then .lit
  else .dark

/-- The LEDs keep what they show when a core or system reset takes effect (R425). -/
def holdLeds (s : State) : State :=
  let run := ledRunNow s
  let flt := ledFltNow s
  modRst s fun x => { x with ledRun := run, ledFlt := flt }

def setBits (ns : List Nat) : Nat := (ns.map fun n => 2 ^ n).sum

/-- The domain of a stack's controller relocks: t + 1 to t + 21 µs of a clock change (R263, R430). -/
def relocking (s : State) (k : StackIx) : Bool :=
  let x := stackOf s k
  x.mode == .clockChange && decide (x.changeTick.toNat + 800 ≤ s.tick.toNat) && decide (s.tick.toNat < x.changeTick.toNat + 21 * 800)

/-- CLK_GOOD: root-derived clocks with the root locked, but for a memory channel that relocks; the calendar; and the clocks
taken from outside while they are there (R426, R430, R431). A link that is up shows its clock; else, and for the debug port's
TCK, a free value says whether it is there. 0 while the always-on domain, which holds the register, is in reset (R440). -/
def clkGood (s : State) : BitVec 60 :=
  let root := if s.rst.lock
    then (List.range 55).filter fun n => !(List.finRange 12).any fun k => n == 37 + k.val && relocking s k else []
  let shown (up : Bool) (n : Nat) : List Nat := if up || Config.outsideClock n s.tick.toNat then [n] else []
  let ext := shown s.host.linkUp 55 ++ shown (portOf s 0).link 56 ++ shown (portOf s 1).link 57 ++ shown false 59
  if s.rst.poHeld then 0 else BitVec.ofNat 60 (setBits (root ++ ext ++ [58])) &&& ~~~s.rst.clkHeld

/-- Pan domains that run, eight to a quadrant: those whose logical pan is bound, and those that self-test routes to a physical
pan (R428). -/
def panDomains (s : State) : List Nat :=
  (List.range 32).filter fun n => s.rst.phase == 4 || (List.finRange 36).any fun p =>
    (quadOfPan p).val == n / 8 &&
      match (panOf s p).lpan with
      | some l => l.val % 8 == n % 8
      | none => testing s (.pan p) && Config.testDomain p.val % 8 == n % 8

/-- CLK_RUN: good and not gated. -/
def clkRun (s : State) : BitVec 60 :=
  let gated := ((List.range 32).filter fun n => !(panDomains s).contains n).map (· + 5)
  clkGood s &&& ~~~BitVec.ofNat 60 (setBits gated)

/-- RST_CAUSE (R440). -/
def rstCause (s : State) : Dword :=
  fieldTo (if s.rst.src = 0 then 0xF else s.rst.first.toNat) 28 ||| fieldTo s.rst.lastReach.toNat 26 ||| fieldTo s.rst.src.toNat 0

/-! ### What each reach clears (R416, R417, R184, R319, R336) -/

/-- Copies or requests in flight of each channel, those behind a halted pan channel too (R182). -/
def inFlight (s : State) : List (Option TenIx × Byte × Nat) :=
  let pans := (List.finRange 36).filterMap fun p =>
    let x := panOf s p
    let n := x.chan.queue.length + (if x.chan.cur.isSome then 1 else 0) + x.chan.lost.length
    if n = 0 then none
    else some (x.tenant, (match x.lpan with | some l => BitVec.ofNat 8 l.val | none => 0xFF), n)
  let sys := (List.finRange 16).filterMap fun k =>
    let x := schOf s k
    let n := x.queue.length + (if x.cur.isSome then 1 else 0)
    if n = 0 then none else some (none, BitVec.ofNat 8 (32 + k.val), n)
  pans ++ sys

/-- A pan after a core reset: every unit cleared, its binding and its health kept (R416, R417). -/
def Pan.coreReset (x : Pan) : Pan :=
  { Pan.reset with
    spare := x.spare, stFail := x.stFail, retired := x.retired, degraded := x.degraded, tenant := x.tenant, lpan := x.lpan,
    partBase := x.partBase, partLimit := x.partLimit, quad := x.quad, quadBase := x.quadBase, quadLimit := x.quadLimit,
    codeBase := x.codeBase, tlyBase := x.tlyBase, gateBase := x.gateBase, ceCount := x.ceCount }

/-- A tenant after a core reset: HALTED, its regions and partitions kept (R417). -/
def Tenant.coreReset (x : Tenant) : Tenant :=
  if x.state == .empty then x
  else
    { x with
      state := .halted, inTide := false, idleNow := false, haltCode := none, haltUnit := none, nextGear := x.gear, commitGear := x.gear,
      quiesceHost := false, quiesceThermal := false, quiesceFence := false, shift := false, moves := [], trims := [],
      newBudget := none, hot := false, attn := [], planPos := [], planTags := [], planFault := [] }

/-- The store after a core or system reset (R319). Snapshots recorded and asked for outside the mailbox stay. -/
def SyncSt.cleared (x : SyncSt) : SyncSt :=
  let keep (f : SnapFor) : Bool := match f with | .mailbox _ => false | _ => true
  { x with
    tallies := [], gates := [], flight := [], arrived := [], panArrive := [], portArrive := [], waiters := [], coreWaits := [], gwaiters := [],
    entries := [], newPorts := [], snapReq := x.snapReq.filter keep, snapTaken := x.snapTaken.filter fun e => keep e.1 }

def SysChan.cleared (x : SysChan) : SysChan := { SysChan.reset with bytes := x.bytes }

/-- The controllers' scheduling state is cleared. Writes taken are in the arrays first: a core reset keeps all DRAM contents. -/
def clearScheduling (s : State) : State :=
  (List.finRange 12).foldl
    (fun r k => modStack (drainStack r k) k fun x => { x with queue := [], sent := [], alerts := [] }) s

/-- Instances with a side in a domain that a core reset clears (R336, R337): all but HOST_EVQ, the Triyx queues and the debug
queue. -/
def coreQueue (i : Nat) : Bool := i != 1 && i != 40 && i != 41 && i != 42

/-- Queues with a side in the core reach are cleared (R336, R337). -/
def HostSt.coreReset (h : HostSt) : HostSt :=
  { h with
    respq := h.respq.cleared, respWait := [], mbxq := h.mbxq.cleared,
    queues := tabClean Queue.reset (h.queues.map fun e => (e.1, if coreQueue e.1 then e.2.cleared else e.2)),
    lanes := h.lanes.map fun e => (e.1, { e.2 with bells := [] }) }

def NetSt.coreReset (n : NetSt) : NetSt := { n with ports := n.ports.map fun e => (e.1, { e.2 with frames := [], cur := none, txq := [] }) }

/-- The core reach. -/
def clearCore (s : State) : State :=
  let s1 := clearScheduling s
  { s1 with
    pans := tabClean Pan.reset (s1.pans.map fun e => (e.1, e.2.coreReset)), sync := s1.sync.cleared,
    ten := tabClean Tenant.reset (s1.ten.map fun e => (e.1, e.2.coreReset)), slice := { s1.slice with turnover := false },
    sch := tabClean SysChan.reset (s1.sch.map fun e => (e.1, e.2.cleared)),
    host := { s1.host.coreReset with lanes := tabClean Lane.reset s1.host.coreReset.lanes },
    net := { s1.net.coreReset with ports := tabClean PortSt.reset s1.net.coreReset.ports }, mir := { s1.mir with outq := [] },
    rst := { s1.rst with coreHeld := true, fw := 0, stopped := 0, phase := 8, wdogArmed := false, abandoned := s1.rst.abandoned ++ inFlight s } }

/-- Counts kept since power-on, and the spare map that self-refresh keeps the data of. -/
def Stack.systemReset (x : Stack) : Stack :=
  { Stack.reset with passes := x.passes, cmds := x.cmds, spmap := x.spmap, spval := x.spval }

/-- The stacks at a system reset: every pond command ends (R197), then self-refresh with every eighth kept (R271), or their
contents lost with their power (R419). -/
def clearStacks (s : State) (lost : Bool) : State :=
  let all : Dword := 0xFFFFFFFFFFFFFFFF
  let s1 := (List.finRange 12).foldl
    (fun r k =>
      if (stackOf r k).ready && !lost then
        modStack (enterSelfRefresh r k all all) k fun x =>
          { x.systemReset with mode := .selfRefresh, pasr0 := all, pasr1 := all, ready := true }
      else modStack r k Stack.systemReset) (if lost then s else drainUnits s)
  { s1 with dram := { s1.dram with banks := [], windows := [], tags := [], units := if lost then [] else s1.dram.units } }

/-- CHK_ fields that a system reset clears (R475). -/
def LogSt.systemReset (l : LogSt) : LogSt :=
  { l with stPond := 0, stSram := 0, sparesFilled := false, dramFilled := false, sramFilled := false, stDone := false,
           rakePending := [], rakeList := [] }

/-- The host link's domain: sequence numbers return to 1 and SEQ_LOST is set (R354); the option-block fields stay till they are
loaded again. Queues with a side in the reach are cleared, their entries not (R336). -/
def HostSt.systemReset (h : HostSt) : HostSt :=
  { HostSt.reset with
    crash := h.crash, perstSys := h.perstSys, compat := h.compat, respq := h.respq.cleared, evq := h.evq.cleared,
    mbxq := h.mbxq.cleared, queues := h.coreReset.queues }

/-- The mirror service; the pins hold (R425). -/
def MirSt.systemReset (m : MirSt) : MirSt :=
  { MirSt.reset with hbto := m.hbto, lagmax := m.lagmax, partner := m.partner, hbOut := m.hbOut, tkoOut := m.tkoOut, hbIn := m.hbIn,
                     tkoIn := m.tkoIn }

/-- The session's authorisation ends (R441, R448). -/
def SvcSt.systemReset (x : SvcSt) : SvcSt := { x with auth := false, nonce := none }

/-- The system reach. The bring-up sequence starts again at its option step (R437). -/
def clearSystem (s : State) (lost : Bool) : State :=
  let s1 := clearStacks s lost
  { s1 with
    pans := [], sync := s1.sync.cleared, ten := [], slice := SliceSt.reset,
    sch := tabClean SysChan.reset (s1.sch.map fun e => (e.1, e.2.cleared)), desc := [], log := s1.log.systemReset,
    host := s1.host.systemReset, net := { ports := [], keys := [], qps := [] }, mir := s1.mir.systemReset,
    plc := { s1.plc with quadFail := 0, growLeft := s1.plc.growRes },
    gov := { GovSt.reset with optCap := s1.gov.optCap, cap := s1.gov.optCap, hyst := s1.gov.hyst }, svc := s1.svc.systemReset,
    rst := { s1.rst with
             coreHeld := true, sysHeld := true, fw := 0, stopped := 0, phase := 1, fwCopyGood := false, wdogArmed := false, clkHeld := 0,
             dramLost := s1.rst.dramLost || lost, abandoned := s1.rst.abandoned ++ inFlight s } }

/-- The power-on reach: everything but the calendar and the SPI NOR, the supplies and the levels on the input pins. -/
def clearPowerOn (s : State) : State :=
  { State.reset with
    pending := s.pending, free := s.free, out := s.out, cal := { s.cal with set := false, epoch := 0, scap := 0 },
    mir := { MirSt.reset with hbIn := s.mir.hbIn, tkoIn := s.mir.tkoIn }, svc := { SvcSt.reset with testLost := s.svc.testLost },
    rst := { RstSt.reset with
             flash := s.rst.flash, standby := s.rst.standby, main48 := s.rst.main48, prsntLow := s.rst.prsntLow,
             perstLow := s.rst.perstLow, rstNLow := s.rst.rstNLow, cages := s.rst.cages } }

/-! ### Sources (R419, R424) -/

/-- A source asserts: its bit in SRC, and FIRST; of sources that assert together FIRST takes the wider reach, then the lower
code. `rank` is 0 for a link reset only, else one more than the reach. -/
def noteSource (s : State) (code rank : Nat) : State :=
  let old := if s.rst.first = 4 ∧ !s.rst.asserted.getLsbD 4 then 0 else reachNo (tabGet .core s.rst.reachOf s.rst.first.toNat) + 1
  let takes : Bool := s.rst.src == 0 ||
    (s.rst.firstFresh && (decide (old < rank) || (old == rank && decide (code < s.rst.first.toNat))))
  modRst s fun x =>
    { x with src := x.src ||| ((1#8) <<< code), first := if takes then BitVec.ofNat 4 code else x.first,
             firstFresh := takes || x.firstFresh }

/-- The domain of a reach is held already. -/
def reachHeld (s : State) : Reach → Bool
  | .core => s.rst.coreHeld
  | .system => s.rst.sysHeld
  | .powerOn => s.rst.poHeld

/-- A self-test in progress is abandoned: its command is over, and its final line is still to come (R450). -/
def SvcSt.dropTest (x : SvcSt) : SvcSt :=
  if x.test.isSome then { x with test := none, active := false, final := none, testLost := x.lseq } else x

/-- A reset takes effect, and is logged at once where the logs stay (R416, R424); a self-test in progress is abandoned (R450). -/
def takeReset (s : State) (r : Reach) (lost : Bool) : State :=
  let s0 := modSvc (holdLeds s) SvcSt.dropTest
  let s1 := modRst s0 fun x => { x with lastReach := BitVec.ofNat 2 (reachNo r) }
  match r with
  | .core => logEvent (clearCore s1) 0xD6 (leBytes 8 (rstCause s1).toNat) none
  | .system => logEvent (clearSystem s1 lost) 0xD6 (leBytes 8 (rstCause s1).toNat) none
  | .powerOn => clearPowerOn s1

/-- The wider of two reaches. -/
def wider (a b : Reach) : Reach := if reachNo a ≤ reachNo b then b else a

/-- A source asserts at a reach (R419). Nothing asserts without standby power. One that is asserted already holds the wider of its
reaches until it is released (R423). -/
def assertSource (s : State) (code : Nat) (r : Reach) (lost : Bool) : State :=
  if !s.rst.standby then s
  else
    let s1 := noteSource s code (reachNo r + 1)
    let holds := if s.rst.asserted.getLsbD code then wider (tabGet .core s.rst.reachOf code) r else r
    let s2 := modRst s1 fun x =>
      { x with asserted := x.asserted ||| ((1#8) <<< code), reachOf := tabSet .core x.reachOf code holds,
               dramLost := x.dramLost || lost }
    if reachHeld s2 r then s2 else takeReset s2 r lost

def releaseSource (s : State) (code : Nat) : State := modRst s fun x => { x with asserted := x.asserted &&& ~~~((1#8) <<< code) }

/-- Some asserted source names this reach or a wider one. -/
def sourceHolds (s : State) (r : Reach) : Bool :=
  (List.range 8).any fun c => s.rst.asserted.getLsbD c && decide (reachNo r ≤ reachNo (tabGet .core s.rst.reachOf c))

/-- A power-on reset by loss or return of standby power (R419, R460). -/
def standbyReset (s : State) (up : Bool) : State :=
  let s1 := clearPowerOn (modSvc s fun x => { x with testLost := none })
  modRst s1 fun x => { x with standby := up, ledPwr := if up then .lit else .dark, ledFlt := if up then .lit else .dark }

/-- POR: standby power is lost, with every package rail shut down, or returns (R419, R460). -/
def execPor (low : Bool) (s : State) : Answer := .next (standbyReset s (!low))

/-- Rails and root PLL are lost. -/
def dropRails (s : State) : State := modRst s fun x => { x with rails := false, lock := false }

/-- The rails are to be ramped again, once the 48 V input is there (R419, R436). -/
def rampAgain (s : State) : State :=
  modRst s fun x => { x with phase := if x.phase.toNat < 2 then x.phase else if x.main48 then 2 else 0 }

/-- BROWNOUT: the 48 V input is low, or a package rail lost its power-good (R419). A sequencer whose system reach is held already
goes back to the rails. -/
def brownOut (s : State) : State := rampAgain (assertSource (dropRails s) 1 .system true)

def execBrownout (input : Bool) (s : State) : Answer :=
  .next (brownOut (if input then modRst s fun x => { x with main48 := false } else s))

/-- PRSNT_N_HIGH: BROWNOUT asserts at once, and the hot-swap stage opens (R459). -/
def execPrsntNHigh (s : State) : Answer := .next (brownOut (modRst s fun x => { x with prsntLow := false, main48 := false }))

/-- INPUT_48V_GOOD: the hot-swap stage conducts; a sequencer in WAIT_MAIN ramps the rails (R436, R459). -/
def execInput48vGood (s : State) : Answer :=
  .next <| modRst s fun x =>
    { x with prsntLow := true, main48 := true, phase := if x.phase = 0 ∧ !x.poHeld then 2 else x.phase }

/-- RST_N_ASSERT (R419, R420). -/
def execRstNAssert (s : State) : Answer := .next (assertSource (modRst s fun x => { x with rstNLow := true }) 2 .system false)

/-- RST_N_RELEASE (R420). -/
def execRstNRelease (s : State) : Answer := .next (releaseSource (modRst s fun x => { x with rstNLow := false }) 2)

/-- WDOG_EXPIRY: a core reset, or a system reset where Rilef has not rearmed the watchdog since an expiry (R419, R421). -/
def execWdogExpiry (s : State) : Answer :=
  let r : Reach := if s.rst.wdogOnce then .system else .core
  .next (assertSource (modRst s fun x => { x with wdogExpiry := satAdd x.wdogExpiry 1, wdogOnce := true, wdogArmed := false }) 3 r false)

/-- WDOG_KICK: Rilef writes the kick register and so rearms the watchdog (R421), unless a core has stopped (R284). -/
def execWdogKick (s : State) : Answer :=
  if s.rst.stopped != 0 then .next s else .next (modRst s fun x => { x with wdogArmed := true, wdogOnce := false })

/-- PERST_ASSERT: by option a system reset, or a host loss that resets no reach (R366, R419). -/
def execPerstAssert (s : State) : Answer :=
  let s1 := modRst s fun x => { x with perstLow := true }
  if s.host.perstSys then .next (assertSource s1 4 .system false)
  else if !s.rst.standby then .next s1
  else if s.rst.sysHeld then .next (noteSource s1 4 0)
  else .next (loseHost (noteSource s1 4 0))

/-- PERST_DEASSERT: the source is released; the link trains (R419, R436), as LINK_UP reports. -/
def execPerstDeassert (s : State) : Answer := .next (releaseSource (modRst s fun x => { x with perstLow := false }) 4)

/-- RST_CTRL (R422): a write without CONFIRM is dropped and counted; else the HOST source asserts after 10 µs. -/
def rstCtrl (s : State) (confirm : Half) (r : Reach) : State :=
  if confirm = 0xA5C3 then modRst s fun x => { x with hostPend := x.hostPend ++ [r] } else dropBar0 s

def execRstCtrlCore (confirm : Half) (s : State) : Answer := .next (rstCtrl s confirm .core)

def execRstCtrlSystem (confirm : Half) (s : State) : Answer := .next (rstCtrl s confirm .system)

/-- HOST_SOURCE_ASSERT: 10 µs after its request, source HOST asserts at the reach named (R419). -/
def execHostSourceAssert (s : State) : Answer :=
  match s.rst.hostPend with
  | [] => .next s
  | r :: rest => .next (assertSource (modRst s fun x => { x with hostPend := rest }) 6 r false)

/-- RESET_SOURCE_TIMEOUT: the 10 µs pulse of WDOG, TRIYX, HOST or DBG ends (R419). -/
def execResetSourceTimeout (source : Fin 8) (s : State) : Answer :=
  if [3, 5, 6, 7].contains source.val then .next (releaseSource s source.val) else .next s

/-- An operation of the debug port reaches the debug logic. -/
def debugFits (s : State) : Bool := !s.rst.poHeld && s.rst.standby && !(queueOf s 42).full 64

/-- An operation of the debug port goes through instance 42, its word free, or is dropped where the port sees the queue full
(R326, R337; log entry 175). -/
def debugOperation (s : State) (bad : Bool) : State :=
  if s.rst.poHeld || !s.rst.standby then s
  else if !debugFits s then queueDrop s 42
  else
    let s1 := usedFree (queueTake (queueSend s 42 (freeEntries s 64 1) (if bad then some 0 else none)) 42 1) 1
    notePoison s1 42 (queueRead s 42) bad

/-- DBG_RESET_REQUEST: accepted only while the debug range is open (R419, R454); with a poisoned word it is refused, and with the
queue full it is dropped (R337). -/
def execDbgResetRequest (op : DebugReset) (s : State) : Answer :=
  let s1 := debugOperation s op.bad
  if s.dbg.open_ && !op.bad && debugFits s then .next (assertSource s1 7 (if op.system then .system else .core) false) else .next s1

/-! ### Release (R423) -/

/-- The final line of a test that a reset abandoned (R450); it is stored unless another command has been accepted since. -/
def abortTest (s : State) : State :=
  match s.svc.testLost with
  | none => s
  | some q =>
    let f : FinalLine := { err := some 0xE6, lines := 0, text := [] }
    sendLine (modSvc s fun x =>
      { x with testLost := none, final := if x.lseq = some q then some f else x.final, cRefused := satAdd x.cRefused 1 }) (.finalLine q f)

/-- The notice of a reset, and the end of a test that it abandoned (R446, R450). -/
def announce (s : State) : State := abortTest (sendLine s (.notice 1 (rstCause s)))

/-- R423 for the core reach: no source asserted, the system reach released, every clock good, Rilef's copy checked. -/
def coreFree (s : State) : Bool :=
  s.rst.coreHeld && !s.rst.sysHeld && !s.rst.poHeld && !sourceHolds s .core && s.rst.lock && s.rst.clkHeld == 0 &&
    s.rst.phase == 8 && s.rst.fwCopyGood

/-- Log the copies that the reset abandoned (R184). -/
def logHeldCopies (s : State) : State :=
  s.rst.abandoned.foldl (fun r a => logEvent r 0x41 (a.2.1 :: leBytes 2 a.2.2) a.1)
    (modRst s fun x => { x with abandoned := [] })

/-- The core domains leave reset and the system control cores start Rilef (R436, R438). -/
def releaseCore (s : State) : State :=
  if coreFree s then
    let s1 := logHeldCopies (modRst s fun x => { x with coreHeld := false, phase := 9 })
    if s.rst.lastReach = 0 then announce s1 else s1
  else s

def systemFree (s : State) : Bool :=
  s.rst.sysHeld && !s.rst.poHeld && !sourceHolds s .system && s.rst.lock && s.rst.clkHeld == 0

/-- The system domains leave reset: the timebase starts from 0, and CAL_EPOCH latches the calendar (R410, R423). -/
def releaseSystem (s : State) : State :=
  if systemFree s then
    let s1 : State := { s with
      tick := 0, cal := { s.cal with epoch := fieldTo s.cal.sec.toNat 15 ||| fieldTo s.cal.frac.toNat 0 },
      rst := { s.rst with sysHeld := false } }
    if s.rst.lastReach = 1 then announce s1 else s1
  else s

/-- The calendar at power-on (R409): after a loss it is invalid and counts from 0. An invalid calendar is logged. -/
def judgeCalendar (s : State) : State :=
  let s1 : State := if s.cal.lossLatched then
      { s with cal := { s.cal with sec := 0, frac := 0, acc := 0, valid := false, lossLatched := false } } else s
  if s1.cal.valid then s1 else logEvent s1 0xC7 [] none

/-- The always-on domain leaves reset: POR has seen its 16 good cycles; a Triyx reset of power-on reach has ended (R419, R424). -/
def releasePowerOn (s : State) : State :=
  let s1 := releaseSource s 0
  if !s.rst.poHeld || !s.rst.standby || sourceHolds s1 .powerOn then s
  else
    let s2 := modRst s1 fun x => { x with poHeld := false, phase := 1 }
    announce (judgeCalendar (logEvent s2 0xD6 (leBytes 8 (rstCause s2).toNat) none))

/-- RESET_RELEASE: the domain of a reach is released where R423 allows it. -/
def execResetRelease (r : Reach) (s : State) : Answer :=
  match r with
  | .core => .next (releaseCore s)
  | .system => .next (releaseSystem s)
  | .powerOn => .next (releasePowerOn s)

/-- CLK_TIMEOUT: a root-derived or calendar clock was not good within 1 ms; its domain stays held. Clocks from outside the
card are waited for without limit (R431). -/
def execClkTimeout (domain : Fin 60) (s : State) : Answer :=
  if domain.val < 55 ∨ domain.val = 58 then
    .next (logEvent (modRst s fun x => { x with clkHeld := x.clkHeld ||| ((1#60) <<< domain.val) }) 0xD0
      [BitVec.ofNat 8 domain.val] none)
  else .next s

/-! ### The option block and the retirement record (R433, R434) -/

/-- The bytes of an option block copy up to its CRC (R433). -/
def optBytes (bs : List Byte) : List Byte := padTo 0 4092 (bs.take 4092)

/-- Offsets of the reserved fields that are not 0 (R433). -/
def badReserved (bs : List Byte) : List Nat :=
  [(0x00C, 4), (0x017, 1), (0x039, 7), (0x060, 3996)].filterMap fun f =>
    if (((optBytes bs).drop f.1).take f.2).all (· == 0) then none else some f.1

/-- The fields that a copy's bytes hold (R433). -/
def decodeOptions (bs : List Byte) : OptBlock :=
  let f (off n : Nat) : Nat := fieldAt bs off n
  { capW := BitVec.ofNat 16 (f 0x10 2), hystW := BitVec.ofNat 16 (f 0x12 2), hostF := BitVec.ofNat 8 (f 0x14 1),
    order := BitVec.ofNat 8 (f 0x15 1), rake := BitVec.ofNat 8 (f 0x16 1), rakeHours := BitVec.ofNat 16 (f 0x18 2),
    ageHost := BitVec.ofNat 16 (f 0x1A 2), ageNet := BitVec.ofNat 16 (f 0x1C 2), ageMaint := BitVec.ofNat 16 (f 0x1E 2),
    growRes := BitVec.ofNat 64 (f 0x20 8), retireCe := BitVec.ofNat 32 (f 0x28 4), retirePan := BitVec.ofNat 32 (f 0x2C 4),
    baud := BitVec.ofNat 32 (f 0x30 4), wdogMs := BitVec.ofNat 16 (f 0x34 2), hbto := BitVec.ofNat 16 (f 0x36 2),
    lagmax := BitVec.ofNat 8 (f 0x38 1),
    partner := if f 0x40 32 = 0 then [] else ((optBytes bs).drop 0x40).take 32, rsv := badReserved bs }

/-- An option block copy is valid when MAGIC, VERSION, SIZE and CRC are all correct (R434). -/
def optionsValid (bs : List Byte) : Bool :=
  fieldAt bs 0 4 == 0x4254504F && fieldAt bs 4 2 == 1 && fieldAt bs 6 2 == 0x1000 &&
    fieldAt bs 0xFFC 4 == (crc32 (optBytes bs)).toNat

/-- What the loader finds in an option block copy. -/
def readOptions (bs : List Byte) : CopyRead OptBlock :=
  { valid := optionsValid bs, gen := BitVec.ofNat 32 (fieldAt bs 8 4), content := decodeOptions bs }

/-- The copy that the loader takes, by number. -/
def chooseCopy {α : Type} (a b : CopyRead α) : Option Bool :=
  if a.valid && b.valid then some (copy1Newer a.gen b.gen)
  else if a.valid then some false
  else if b.valid then some true
  else none

/-- One field: its value where it is in range, else its default and its offset. -/
def inRange (ok : Bool) (off : Nat) : List Nat := if ok then [] else [off]

def within (v lo hi : Nat) : Bool := decide (lo ≤ v) && decide (v ≤ hi)

/-- Offsets of the fields outside their ranges, in order (R433). -/
def badFields (o : OptBlock) : List Nat :=
  let rsv (off : Nat) : List Nat := inRange (!o.rsv.contains off) off
  rsv 0x0C ++ inRange (within o.capW.toNat 1200 1900) 0x10 ++ inRange (within o.hystW.toNat 10 200) 0x12 ++
    inRange (within o.hostF.toNat 0 7) 0x14 ++ inRange (within o.order.toNat 0 3) 0x15 ++ inRange (within o.rake.toNat 0 3) 0x16 ++ rsv 0x17 ++
    inRange (within o.rakeHours.toNat 1 65535) 0x18 ++ inRange (within o.growRes.toNat 0 (128 * 2 ^ 30)) 0x20 ++
    inRange (within o.retireCe.toNat 1 65535) 0x28 ++ inRange (within o.retirePan.toNat 1 65535) 0x2C ++
    inRange (within o.baud.toNat 9600 3000000) 0x30 ++ inRange (within o.wdogMs.toNat 10 10000) 0x34 ++
    inRange (within o.hbto.toNat 2 1000) 0x36 ++ inRange (within o.lagmax.toNat 1 63) 0x38 ++
    rsv 0x39 ++ rsv 0x60

/-- The block as it takes effect: fields outside their ranges take their defaults. -/
def effectiveOptions (o : OptBlock) : OptBlock :=
  let d := OptBlock.default
  let bad := badFields o
  { capW := if bad.contains 0x10 then d.capW else o.capW, hystW := if bad.contains 0x12 then d.hystW else o.hystW,
    hostF := if bad.contains 0x14 then d.hostF else o.hostF, order := if bad.contains 0x15 then d.order else o.order,
    rake := if bad.contains 0x16 then d.rake else o.rake, rakeHours := if bad.contains 0x18 then d.rakeHours else o.rakeHours,
    ageHost := o.ageHost, ageNet := o.ageNet, ageMaint := o.ageMaint,
    growRes := if bad.contains 0x20 then d.growRes else o.growRes, retireCe := if bad.contains 0x28 then d.retireCe else o.retireCe,
    retirePan := if bad.contains 0x2C then d.retirePan else o.retirePan, baud := if bad.contains 0x30 then d.baud else o.baud,
    wdogMs := if bad.contains 0x34 then d.wdogMs else o.wdogMs, hbto := if bad.contains 0x36 then d.hbto else o.hbto,
    lagmax := if bad.contains 0x38 then d.lagmax else o.lagmax, partner := o.partner, rsv := [] }

/-- The option fields take effect (R404, R386, R394, R399, R421, R435, R475). BAUD applies at power-on alone, since the session's
rate survives a system reset (R441). -/
def applyOptions (s : State) (o : OptBlock) : State :=
  let s1 := (List.finRange 12).foldl
    (fun r k => modStack r k fun x =>
      { x with order := o.order.truncate 2, ageHost := o.ageHost, ageNet := o.ageNet, ageMaint := o.ageMaint }) s
  { s1 with
    gov := { s1.gov with optCap := o.capW, cap := o.capW, hyst := o.hystW },
    host := { s1.host with crash := o.hostF.getLsbD 0, perstSys := o.hostF.getLsbD 1, compat := o.hostF.getLsbD 2 },
    log := { s1.log with rakePeriod := o.rakeHours, rakeEn := o.rake.getLsbD 0, rakeSweep := o.rake.getLsbD 1 },
    plc := { s1.plc with growRes := o.growRes.toNat, growLeft := o.growRes.toNat, retireCe := o.retireCe.toNat,
                         retirePan := o.retirePan.toNat },
    mir := { s1.mir with hbto := o.hbto, lagmax := o.lagmax.truncate 6, partner := o.partner },
    svc := { s1.svc with baud := if s1.rst.lastReach = 2 then o.baud.truncate 24 else s1.svc.baud },
    rst := { s1.rst with opt := o, wdogTimeout := o.wdogMs } }

/-- The placer excludes every unit of the record (R402). -/
def applyRecord (s : State) (r : List RetireEntry) : State :=
  r.foldl
    (fun q e =>
      if e.pan then
        if h : e.bank.toNat < 36 then modPan q ⟨e.bank.toNat, h⟩ fun x => { x with retired := true } else q
      else modBank q (bankKey e.stack.toNat e.die.toNat e.bank.toNat) fun x => { x with retired := true })
    { s with plc := { s.plc with retire := r } }

def keepCopy {α : Type} (c : CopyRead α) : Option (Word × α) := if c.valid then some (c.gen, c.content) else none

def copyCode (c : Option Bool) : BitVec 2 := match c with | some true => 1 | some false => 0 | none => 3

/-- A copy as the loader reads it: what the flash holds once the card has read it, which bytes that fail their check no longer
show; as the command says before (R432, R435; log entry 213). -/
def keptCopyRead {α : Type} (seen : Bool) (held : Option (Word × α)) (r : CopyRead α) : CopyRead α :=
  if seen then
    match held with
    | some x => { valid := r.valid, gen := x.1, content := x.2 }
    | none => { r with valid := false }
  else r

/-- One of two copies invalid. -/
def oneBad {α : Type} (a b : CopyRead α) : Bool := a.valid != b.valid

/-- The bring-up step after the option step: the rails, or, with rails up and root locked, the self-test (R436, R437). -/
def afterOptions (s : State) : State :=
  modRst s fun x => { x with phase := if x.rails && x.lock then 4 else if x.main48 then 2 else 0 }

/-- OPTION_LOAD_DONE (R402, R433 to R436). The loader reads both copies while no source of system reach or wider but BROWNOUT,
which waits for the rails, is asserted. -/
def execOptionLoadDone (b0 b1 : List Byte) (q0 q1 : CopyRead (List RetireEntry)) (s : State) : Answer :=
  if s.rst.phase != 1 || s.rst.poHeld || s.rst.clkHeld != 0 || sourceHolds (releaseSource s 1) .system then .next s
  else
    let f := s.rst.flash
    let o0 := keptCopyRead f.optRead f.opt0 (readOptions b0)
    let o1 := keptCopyRead f.optRead f.opt1 (readOptions b1)
    let r0 := keptCopyRead f.optRead f.ret0 q0
    let r1 := keptCopyRead f.optRead f.ret1 q1
    let oc := chooseCopy o0 o1
    let rc := chooseCopy r0 r1
    let raw := match oc with | some true => o1.content | some false => o0.content | none => OptBlock.default
    let rec_ := match rc with | some true => r1.content | some false => r0.content | none => []
    let gen : Word := match oc with | some true => o1.gen | some false => o0.gen | none => 0
    let fl : Flash := { f with opt0 := keepCopy o0, opt1 := keepCopy o1, ret0 := keepCopy r0, ret1 := keepCopy r1, optRead := true }
    let s1 := modRst s fun x =>
      { x with flash := fl, optGen := gen, optCopy := copyCode oc, retCopy := copyCode rc, c0Valid := o0.valid, c1Valid := o1.valid,
               r0Valid := r0.valid, r1Valid := r1.valid }
    let s2 := applyRecord (applyOptions s1 (effectiveOptions raw)) rec_
    let s3 := if oneBad o0 o1 then logEvent s2 0xD2 [] none else s2
    let s4 := if oneBad r0 r1 then logEvent s3 0xD2 [] none else s3
    let s5 := if oc.isNone then logEvent s4 0xD1 [] none else s4
    let s6 := if rc.isNone then logEvent s5 0xD1 (leBytes 4 0x4000) none else s5
    .next (afterOptions (logEvents s6 0xD3 ((badFields raw).map (leBytes 2)) none))

/-! ### Bring-up (R436) -/

/-- RAILS_GOOD: BROWNOUT is released (R419), and the root PLL is next. Bring-up has stopped where a clock was not good in time
(R431). -/
def execRailsGood (s : State) : Answer :=
  if s.rst.phase = 2 ∧ s.rst.clkHeld = 0 then .next (releaseSource (modRst s fun x => { x with rails := true, phase := 3 }) 1) else .next s

/-- PLL_LOCKED: the root-derived domains are released under R431. -/
def execPllLocked (s : State) : Answer :=
  if s.rst.phase = 3 ∧ s.rst.rails ∧ s.rst.clkHeld = 0 then
    .next (releaseSystem (modRst s fun x => { x with lock := true, locks := x.locks + 1, phase := 4 }))
  else .next s

/-- A failing spare unit: no record maps it (R286); a bank that it served takes another spare. -/
def failSpare (s : State) (st : StackIx) (d : DieIx) (j : Nat) : State :=
  let s1 := modBank s (bankKey st.val d.val (256 + j)) fun x => { x with retired := true }
  let mine (e : RetireEntry) : Bool := !e.pan && e.stack.toNat == st.val && e.die.toNat == d.val && e.spare.toNat == j
  if s.plc.retire.any mine then
    let new : BitVec 4 := match freeSpare s1 st d with | some i => BitVec.ofNat 4 i.val | none => 0xF
    let r := s.plc.retire.map fun e => if mine e then { e with spare := new } else e
    { s1 with plc := { s1.plc with retire := r }, rst := { s1.rst with flash := s1.rst.flash.putRetire r } }
  else s1

/-- A failing pond unit (R286). -/
def failUnit (s : State) (st : StackIx) (d : DieIx) (b : Fin 264) : State :=
  let s1 := logEvent s 0x73 [2, BitVec.ofNat 8 st.val, BitVec.ofNat 8 d.val] none
  if h : b.val < 256 then retireBankWith true s1 { stack := st, die := d, bank := ⟨b.val, h⟩ } 2
  else failSpare s1 st d (b.val - 256)

/-- A failing checker of a pan's SRAM, logged with its bank where it is known: ST_FAIL, which retires the pan (R286, R399). -/
def failPan (s : State) (p : PanIx) (bank : List Byte) : State :=
  retirePan (logEvent (modPan s p fun x => { x with stFail := true, spare := false }) 0x73 ([0, BitVec.ofNat 8 p.val] ++ bank) none) p 2

/-- A failing checker of a quadrant's SRAM (R286). -/
def failQuad (s : State) (q : QuadIx) (bank : List Byte) : State :=
  logEvent { s with plc := { s.plc with quadFail := s.plc.quadFail ||| ((1#4) <<< q.val) } } 0x73
    ([1, BitVec.ofNat 8 q.val] ++ bank) none

/-- SELFTEST_DONE: the checkers that failed the patterns of R285 (checkerPasses), one to each SRAM bank and pond unit, are marked,
logged and counted (R285, R286, R296). ST_SRAM holds at most 255 (log entry 163). -/
def execSelftestDone (pans : List (PanIx × Fin 64)) (quads : List (QuadIx × Fin 64)) (units : List (StackIx × DieIx × Fin 264))
    (s : State) : Answer :=
  if s.rst.phase != 4 || s.rst.sysHeld || s.rst.clkHeld != 0 then .next s
  else
    let s1 := pans.foldl (fun r p => failPan r p.1 [BitVec.ofNat 8 p.2.val]) s
    let s2 := quads.foldl (fun r q => failQuad r q.1 [BitVec.ofNat 8 q.2.val]) s1
    let s3 := units.foldl (fun r u => failUnit r u.1 u.2.1 u.2.2) s2
    .next { s3 with
      log := { s3.log with stDone := true, stPond := BitVec.ofNat 16 units.length, stSram := BitVec.ofNat 8 (min 255 (pans.length + quads.length)) },
      rst := { s3.rst with phase := 5 } }

/-- Every SRAM word is zero, those of the system control cores too (R287), but for the flips that the injection registers name
(R297). -/
def fillSram (s : State) : State :=
  let s1 : State := { s with mem := s.mem.filter fun e => decide (16 * 2 ^ 40 ≤ e.1), log := { s.log with sramFilled := true } }
  (List.range 4).foldl (fun r q => injectRange r (quadKey q 0) (2 ^ 24))
    ((List.range 36).foldl (fun r p => injectRange r (panKey p 0) (10 * 2 ^ 20)) s1)

/-- SRAM_FILL_DONE (R287). -/
def execSramFillDone (s : State) : Answer :=
  if s.rst.phase != 5 || s.rst.sysHeld || s.rst.clkHeld != 0 then .next s
  else .next (modRst (fillSram s) fun x => { x with phase := 6 })

/-- Initialised and trained stacks: pond unit state cleared (R194), the spare map written from the record (R225), and the
pseudo-channels of `bad`, whose pass failed and was repeated twice, marked failed (R261, R265). -/
def trainStacks (s : State) (bad : List (StackIx × PcIx)) : State :=
  let s1 := (List.finRange 12).foldl
    (fun r k =>
      let failed := bad.any fun b => b.1 == k
      modStack (leaveSelfRefresh r k) k fun x =>
        { x with mode := .run, ready := true, passes := x.passes + 1, pond := 0, trained := false,
                 retry := if failed then satAdd x.retry 2 else x.retry })
    (rewriteSpares s)
  bad.foldl (fun r b => failPc r b.1 b.2 0x60) s1

/-- DRAM_TRAINED: after power-on or BROWNOUT the fill follows; after another system reset the stacks have left self-refresh,
and the fill waits for the first LOAD_IMAGE (R418, R436, R437). -/
def execDramTrained (bad : List (StackIx × PcIx)) (s : State) : Answer :=
  if s.rst.phase != 6 || s.rst.sysHeld || s.rst.clkHeld != 0 then .next s
  else if s.rst.dramLost then .next (modRst (trainStacks s bad) fun x => { x with phase := 7 })
  else .next (releaseCore (modRst (trainStacks s bad) fun x => { x with phase := 8, fillDue := true }))

/-- DRAM_FILL_DONE: every exposed bank reads as zero, pond mode is left, DRAM_FILLED reports it (R288). -/
def execDramFillDone (s : State) : Answer :=
  if s.rst.phase != 7 || s.rst.sysHeld || s.rst.clkHeld != 0 then .next s
  else .next (releaseCore (modRst (fillDram s) fun x => { x with phase := 8, dramLost := false }))

/-- FW_COPY_DONE: Rilef's image is chosen as R434 says, and its copy checked; the core domains are released once the fill is over.
Without an image bring-up stops (R434, R436). After a core reset the command says that the CRC of the copy in use failed, and that
the image was copied again (R438). -/
def execFwCopyDone (x y : CopyRead (List Byte)) (s : State) : Answer :=
  if s.rst.sysHeld || s.rst.poHeld || (s.rst.fwCopyGood && !(s.rst.coreHeld && s.rst.lastReach == 0)) || s.rst.phase.toNat < 6 then
    .next s
  else
    let f := s.rst.flash
    let a := keptCopyRead f.fwRead f.fwA x
    let b := keptCopyRead f.fwRead f.fwB y
    let c := chooseCopy a b
    let fl : Flash := { f with fwA := keepCopy a, fwB := keepCopy b, fwRead := true }
    let s1 := modRst s fun x => { x with flash := fl, fwSel := c == some true, fwCopyGood := c.isSome, fw := if c.isSome then x.fw else 2 }
    let s2 := if oneBad a b then logEvent s1 0xD2 [] none else s1
    if c.isNone then .next (logEvent s2 0xD4 [] none) else .next (releaseCore s2)

/-- Commands accepted before a core reset and not completed end with ERR_RST_ABORTED (R417). -/
def abortMailbox (s : State) : State :=
  (List.finRange 64).foldl (fun r n => if slotPending r n then respond r n 0xD5 [] else r) s

def cageOf (s : State) (n : PortIx) : Cage := tabGet Cage.empty s.rst.cages n.val

/-- Rilef reads a cage's module through CMIS and drives its pins; one above 30 W stays in low-power mode, with MODULE = 3
(R391, R425, R464). Its INT is served. -/
def readCage (s : State) (n : PortIx) : State :=
  let c := cageOf s n
  let m : BitVec 2 := if !c.present then 0 else if c.fault || c.over30 then 3 else if c.ready then 2 else 1
  let bit : BitVec 2 := (1#2) <<< n.val
  modRst (modPort s n fun x => { x with module := m }) fun x =>
    { x with cages := tabSet Cage.empty x.cages n.val { c with int := false },
             ospfRstN := if c.present then x.ospfRstN ||| bit else x.ospfRstN &&& ~~~bit,
             ospfLpwN := if c.present && !c.over30 then x.ospfLpwN ||| bit else x.ospfLpwN &&& ~~~bit }

/-- When Rilef starts it drives the pins of each service: the modules that it finds in the cages, and the pair header, which
takes its power-on default where the mirror role is not restored (R425, R464). -/
def restorePins (s : State) : State :=
  let s1 := (List.finRange 2).foldl readCage s
  if s.mir.role == .unpaired then { s1 with mir := { s1.mir with hbOut := true, tkoOut := false } } else s1

/-- RILEF_READY (R417, R421, R425, R437, R470). -/
def execRilefReady (s : State) : Answer :=
  if s.rst.coreHeld || s.rst.fw == 1 || s.rst.phase != 9 then .next s
  else
    .next (abortMailbox (restorePins (modRst s fun x => { x with fw := 1, wdogArmed := true, wdogOnce := false })))

/-! ### Configuration requests and modules (R342, R436, R464) -/

/-- The capability structures that the function has (R341), by number, and whether each is an extended one. PRESUMED (log
entry 22): their numbers and the layout of what stands in them are PCI Express's; where each stands is free. -/
def capabilities : List (Nat × Bool) := [(0x01, false), (0x10, false), (0x11, false), (0x01, true), (0x23, true), (0x2E, true)]

/-- Bytes of each structure. -/
def capabilitySize (i : Nat) : Nat := [8, 0x3C, 12, 0x48, 0x38, 0x18].getD i 0

/-- The capability structure that a register lies in, with its place in the list and the register's byte offset in it. -/
def capabilityAt (off : Nat) : Option (Nat × Nat) :=
  ((List.range 6).find? fun i =>
    decide (Config.capabilityPlace i ≤ off) && decide (off < Config.capabilityPlace i + capabilitySize i)).map
    fun i => (i, off - Config.capabilityPlace i)

/-- The place of the next structure of the same kind. -/
def nextCapability (i : Nat) : Nat := if i = 2 ∨ i = 5 then 0 else Config.capabilityPlace (i + 1)

/-- What R341 and the window's layout fix of a capability register, over the free value `w`. -/
def capabilityWord (i at_ : Nat) (w : Word) : Word :=
  match i, at_ with
  -- power management: D0 and D3hot alone
  | 0, 0 => (w &&& 0xF9FF0000) ||| BitVec.ofNat 32 (256 * nextCapability 0 + 0x01)
  -- PCI Express: endpoint; payloads to 512 bytes, no function level reset
  | 1, 0 => (w &&& 0xFF0F0000) ||| BitVec.ofNat 32 (256 * nextCapability 1 + 0x10)
  | 1, 4 => (w &&& 0xEFFFFFF8) ||| 2
  -- Link Capabilities: 64 GT/s, x16, no ASPM; Link Capabilities 2: every speed from 2.5 to 64 GT/s
  | 1, 0x0C => (w &&& 0xFFFFF000) ||| 0x106
  | 1, 0x2C => (w &&& 0xFFFFFF01) ||| 0x7E
  -- MSI-X: 32 vectors, table and pending bits in BAR0
  | 2, 0 => (w &&& 0xC0000000) ||| BitVec.ofNat 32 (31 * 65536 + 256 * nextCapability 2 + 0x11)
  | 2, 4 => 0x8000
  | 2, 8 => 0x9000
  -- CXL DVSEC: CXL's vendor, the device's structure; CXL.cache and CXL.io, no CXL.mem and so no ranges of memory
  | 4, 4 => (w &&& 0x000F0000) ||| 0x03801E98
  | 4, 8 => (w &&& 0xFFC80000) ||| 0x00030000
  | i, 0 => (w &&& 0x000F0000) ||| BitVec.ofNat 32 (2 ^ 20 * nextCapability i + (capabilities.getD i (0, true)).1)
  | _, _ => w

/-- A register of configuration space: the identity and the BARs of R342, no expansion ROM, the capability structures of R341; the
rest the spec does not lay out (log entry 22). The host writes the bases of the BARs, whose address bits are free. -/
def configWord (off : BitVec 12) : Word :=
  let r := off.toNat / 4 * 4
  let w := Config.configSpace r
  match r with
  | 0x00 => (0x0880#16 ++ Config.vendorId : Word)
  | 0x08 => (0x120000#24 ++ w.truncate 8 : Word)
  | 0x10 => (w &&& 0xFC000000) ||| 0x4
  | 0x18 => 0xC
  | 0x20 => 0
  | 0x24 => 0
  | 0x30 => 0
  | 0x34 => BitVec.ofNat 32 (Config.capabilityPlace 0)
  -- no INTx: Interrupt Pin 0
  | 0x3C => w &&& 0xFFFF00FF
  | r => match capabilityAt r with | some c => capabilityWord c.1 c.2 w | none => w

/-- CONFIG_REQUEST: Retry Status until Rilef is ready (R436). -/
def execConfigRequest (off : BitVec 12) (s : State) : Answer :=
  if s.rst.fw = 1 then .next (emit s [.cfgData (configWord off)]) else .next (emit s [.cfgRetry])

/-- MODULE_PRESENCE_CHANGE: PRSn and INT show it, and Rilef reads the module as soon as it runs (R464). -/
def execModulePresenceChange (port : PortIx) (present ready fault over30 : Bool) (s : State) : Answer :=
  let c : Cage := if present then { present := true, int := true, ready := ready, fault := fault, over30 := over30 } else Cage.empty
  let s1 := modRst s fun x => { x with cages := tabSet Cage.empty x.cages port.val c }
  .next (if s.rst.fw = 1 then readCage s1 port else s1)

end Sys2Proof.Machine
end

