-- ==== Sys2Proof/Machine/Bar0.lean ====
section
/-! DEFINITION. The register window BAR0 (R9 to R12, R343): for each block one function that reads a register, with what the
read clears, and one that writes it. An offset that a reading function does not know is reserved, or locked. -/

namespace Sys2Proof.Machine

/-- A register's value and the card after the read; none for a reserved or locked offset. -/
abbrev RegRead := Option (Dword × State)

/-- A read that changes nothing. -/
def plain (s : State) (v : Dword) : RegRead := some (v, s)

/-- Entry number and offset in the entry, for an offset within a table of `n` entries of `size` bytes from `base`. -/
def entryAt (base size n o : Nat) : Option (Nat × Nat) :=
  if base ≤ o ∧ o < base + size * n then some ((o - base) / size, (o - base) % size) else none

/-- Eight bytes of an image as a register. -/
def imageWord (bs : List Byte) (o : Nat) : Dword := BitVec.ofNat 64 (fieldAt bs o 8)

/-- A list of registers at consecutive offsets. -/
def pick (s : State) (rs : List Dword) (o : Nat) : RegRead := (rs[o / 8]?).map fun v => (v, s)

/-! ### Identity and global status (R338, R339, R344, R455), MSI-X (R343) -/

def attachCode : Attach → Nat
  | .attached => 0
  | .detached => 1
  | .quiescing => 2
  | .quiesced => 3

def hostStatus (s : State) : Dword :=
  flagTo s.host.seqLost 10 ||| flagTo s.host.storeHi 9 ||| fieldTo (attachCode s.host.attach) 6 ||| flagTo s.host.crash 5 |||
    flagTo s.host.perstSys 4

def hostLink (s : State) : Dword :=
  fieldTo s.host.retrains.toNat 32 ||| fieldTo s.host.downs.toNat 16 ||| fieldTo s.host.width.toNat 8 |||
    fieldTo s.host.speed.toNat 4 ||| flagTo s.host.flit 3 ||| flagTo s.host.cache 2

def hostQstat (s : State) : Dword :=
  flagTo s.host.evq.flushReq 31 ||| fieldTo (s.host.evq.seen 256) 16 ||| flagTo s.host.respq.flushReq 15 |||
    fieldTo (s.host.respq.seen 64) 0

/-- Committed words of an instance now (R339). -/
def queueFill (s : State) (n : Nat) : Nat :=
  if n = 0 then s.host.respq.count 64
  else if n = 1 then s.host.evq.count 256
  else if n = 2 then s.host.mbxq.count 64
  else (tabGet Queue.reset s.host.queues n).count (queueDepth n)

/-- HOST_QERR: PAR and DROP clear, and HWM starts again from what the queue holds (R339). -/
def readQerr (s : State) (n : Nat) : Dword × State :=
  let q := tabGet QErr.reset s.host.qerr n
  (fieldTo q.par.toNat 48 ||| fieldTo q.drop.toNat 32 ||| fieldTo q.flush.toNat 16 ||| fieldTo q.hwm.toNat 0,
    modQErr s n fun q => { q with par := 0, drop := 0, hwm := BitVec.ofNat 13 (queueFill s n) })

/-- The service port's rate: at most 115,200 baud until the root is locked (R429). -/
def baudNow (s : State) : Nat := if s.rst.lock then s.svc.baud.toNat else min 115200 s.svc.baud.toNat

def svcStat (s : State) : Dword :=
  flagTo s.svc.auth 41 ||| flagTo s.svc.active 40 ||| fieldTo (baudNow s) 16 ||| fieldTo (lastSeq s).toNat 0

def readSvcCount (s : State) : Dword × State :=
  (fieldTo s.svc.cCrc.toNat 48 ||| fieldTo s.svc.cRefused.toNat 32 ||| fieldTo s.svc.lines.toNat 0,
    modSvc s fun x => { x with cCrc := 0, cRefused := 0 })

/-- DBG_CHAL: the challenge is replaced by a new random value after each read (R454, R455). -/
def readChal (s : State) : Dword × State :=
  (fieldTo s.dbg.chal.toNat 0,
    { usedFree s 1 with dbg := { s.dbg with lastRead := some s.dbg.chal, chal := (freshFree s).truncate 32 } })

def dbgStat (s : State) : Dword :=
  fieldTo s.dbg.opens.toNat 32 ||| fieldTo (if s.dbg.byTriyx then 2 else if s.dbg.byHost then 1 else 0) 1 ||| flagTo s.dbg.open_ 0

def readIdentity (s : State) (o : Nat) : RegRead :=
  match entryAt 0x4100 8 44 o, entryAt 0x8000 8 64 o with
  | some (n, _), _ => some (readQerr s n)
  | none, some (n, _) => plain s (tabGet (msixDefault n) s.host.msix n)
  | none, none =>
    match o with
    | 0x0000 => plain s (fieldTo 0x0880 48 ||| fieldTo 0x41 40 ||| fieldTo 0xB0 32)
    | 0x0008 => plain s Config.serial
    | 0x0010 => plain s (hostStatus s)
    | 0x0018 => some (hostLink s, modHost s fun h => { h with retrains := 0, downs := 0 })
    | 0x0020 =>
      some (fieldTo s.host.bar2Rd.toNat 32 ||| fieldTo s.host.bar0Drop.toNat 0,
        modHost s fun h => { h with bar2Rd := 0, bar0Drop := 0 })
    | 0x0028 => plain s 0
    | 0x4000 => some (readRespq s)
    | 0x4008 => some (readEvq s)
    | 0x4010 => plain s (flagTo s.host.compat 2)
    | 0x4018 => plain s (hostQstat s)
    | 0x9000 => plain s (fieldTo s.host.msixPend.toNat 0)
    | 0xE000 => plain s (svcStat s)
    | 0xE008 => some (readSvcCount s)
    | 0xF000 => some (readChal s)
    | 0xF008 => plain s 0
    | 0xF010 => plain s (dbgStat s)
    | _ => none

/-- Lock the debug range (R454). -/
def lockDebug (s : State) : State := { s with dbg := { s.dbg with open_ := false, byHost := false, byTriyx := false } }

/-- Open the debug range: counted and logged (R454). -/
def openDebug (s : State) (triyx : Bool) : State :=
  logEvent
    { s with dbg := { s.dbg with open_ := true, byHost := !triyx, byTriyx := triyx, opens := s.dbg.opens + 1 } } 0xE7
    [if triyx then 2 else 1] none

/-- A write of DBG_UNLOCK (R454): LOCK locks; else RESP must be the inverse of the challenge last read. A wrong value is dropped
and counted, and leaves the range as it was. -/
def writeUnlock (s : State) (confirm : Half) (lock : Bool) (resp : Word) : State :=
  if confirm ≠ 0xA5C3 then dropBar0 s
  else if lock then lockDebug s
  else if s.dbg.lastRead = some (~~~resp) then openDebug s false
  else dropBar0 s

/-- A write of half an MSI-X table entry; a message held pending is sent as its vector's mask is cleared. -/
def writeMsix (s : State) (n : Nat) (v : Dword) : State :=
  let s1 := modHost s fun h => { h with msix := tabSet (msixDefault n) h.msix n v }
  if h : n / 2 < 32 then
    if n % 2 = 1 ∧ !msixMasked s1.host ⟨n / 2, h⟩ ∧ s.host.msixPend.getLsbD (n / 2) then
      sendMsix (modHost s1 fun x => { x with msixPend := x.msixPend &&& ~~~((1#32) <<< (n / 2)) }) ⟨n / 2, h⟩
    else s1
  else s1

/-- The state that a command of its own leaves, for a register whose writes are that command. -/
def after (s : State) (a : Answer) : State := match a with | .next t => t | _ => s

def writeQctl (s : State) (v : Dword) : State :=
  let s1 := modHost s fun h => { h with compat := v.getLsbD 2 }
  let s2 := if v.getLsbD 1 then after s1 (execFlushEv s1) else s1
  if v.getLsbD 0 then after s2 (execFlushResp s2) else s2

def writeIdentity (s : State) (o : Nat) (v : Dword) : State :=
  match entryAt 0x8000 8 64 o with
  | some (n, _) => writeMsix s n v
  | none =>
    match o with
    | 0x0010 => if v.getLsbD 10 then modHost s fun h => { h with seqLost := false } else s
    | 0x0028 => after s (execHostAttach v s)
    | 0x4010 => writeQctl s v
    | 0xF008 => writeUnlock s (BitVec.ofNat 16 (bitsOf v.toNat 48 16)) (v.getLsbD 32) (v.truncate 32)
    | _ => s

/-! ### Mailbox, ingest lanes, harvest rings (R351, R356, R363) -/

def readMailbox (s : State) (o : Nat) : RegRead :=
  match entryAt 0x100000 64 64 o, entryAt 0x110000 64 256 o with
  | some (n, k), _ => plain s (imageWord (tabRange 0 s.host.slots (64 * n) 64) k)
  | none, some (n, k) => plain s (imageWord (tabGet [] s.host.journal n) k)
  | none, none =>
    match o with
    | 0x101000 => plain s 0
    | 0x101008 => plain s s.host.hnext
    | 0x101010 => plain s (s.host.dnext - 1)
    | 0x101018 => plain s s.host.pend
    | _ => none

def writeMailbox (s : State) (o : Nat) (v : Dword) : State :=
  match entryAt 0x100000 64 64 o with
  | some (n, k) => modHost s fun h => { h with slots := tabSetList 0 h.slots (64 * n + k) (leBytes 8 v.toNat) }
  | none => if o = 0x101000 then after s (execMbxDoorbell ⟨v.toNat % 64, by omega⟩ s) else s

def readLane (s : State) (n : LaneIx) (k : Nat) : RegRead :=
  let l := laneOf s n
  match k with
  | 0x00 => plain s (flagTo l.valid 63 ||| fieldTo l.owner.toNat 48 ||| fieldTo l.tly.toNat 32 ||| fieldTo l.region.toNat 16)
  | 0x08 => plain s l.off
  | 0x10 => plain s l.limit
  | 0x18 => plain s 0
  | 0x20 => plain s (fieldTo l.done.toNat 32 ||| fieldTo l.staged.length 0)
  | 0x28 => plain s (fieldTo l.token.toNat 0)
  | 0x30 => some (fieldTo l.unbound.toNat 32 ||| fieldTo l.oob.toNat 0, modLane s n fun l => { l with unbound := 0, oob := 0 })
  | _ => none

def readIngest (s : State) (o : Nat) : RegRead :=
  match entryAt 0x200000 64 64 o with
  | some (n, k) => if h : n < 64 then readLane s ⟨n, h⟩ k else none
  | none => none

def writeIngest (s : State) (o : Nat) (v : Dword) : State :=
  match entryAt 0x200000 64 64 o with
  | some (n, k) => if h : n < 64 ∧ k = 0x18 then after s (execIngestDoorbell ⟨n, h.1⟩ (v.truncate 32) s) else s
  | none => s

def ringCode : RingState → Nat
  | .idle => 0
  | .run => 1
  | .held => 2
  | .error => 3

/-- HRV_MADE of a ring: 0 while unbound. -/
def ringMade (s : State) (r : Ring) : Dword := if r.valid then (streamOf s r.tenant r.stream.toNat).made else 0

/-- HRV_OLDEST of a ring: 1 while unbound. -/
def ringOldest (s : State) (r : Ring) : Dword := if r.valid then (streamOf s r.tenant r.stream.toNat).oldest else 1

def readRing (s : State) (r : Ring) (k : Nat) : RegRead :=
  match k with
  | 0x00 =>
    plain s (flagTo r.valid 63 ||| flagTo r.flushRd 62 ||| fieldTo (ringCode r.state) 60 ||| fieldTo r.tenant.val 56 |||
      fieldTo r.stream.toNat 48 ||| fieldTo r.log2.toNat 32 ||| fieldTo r.recsz.toNat 0)
  | 0x08 => plain s r.base
  | 0x10 => plain s r.flag
  | 0x18 => plain s r.head
  | 0x20 => plain s r.sent
  | 0x28 => plain s (ringMade s r)
  | 0x30 => plain s (ringOldest s r)
  | _ => none

def readRings (s : State) (o : Nat) : RegRead :=
  match entryAt 0x300000 64 16 o with
  | some (n, k) => if h : n < 16 then readRing s (ringOf s ⟨n, h⟩) k else none
  | none =>
    if o = 0x301000 then
      some (fieldTo s.host.storeStalls.toNat 32 ||| fieldTo (replayUsed s) 0, modHost s fun h => { h with storeStalls := 0 })
    else none

def writeRings (s : State) (o : Nat) (v : Dword) : State :=
  match entryAt 0x300000 64 16 o with
  | some (n, k) => if h : n < 16 ∧ k = 0x18 then after s (execHrvHeadWrite ⟨n, h.1⟩ v s) else s
  | none => s

/-! ### Tallies and gates (R320, R321) -/

def readSync (s : State) (o : Nat) : RegRead :=
  match entryAt 0x400000 8 4096 o, entryAt 0x408000 32 256 o, entryAt 0x420000 8 5384 o with
  | some (n, _), _, _ => plain s (tallyWord (tabGet Tally.reset s.sync.tallies n) (waitersOn s.sync.waiters s.sync.coreWaits s.sync.entries n))
  | none, some (n, k), _ =>
    let g := tabGet GateSt.reset s.sync.gates n
    pick s [gateCfg g, gateGen g, gateArr g] k
  | none, none, some (n, _) =>
    plain s (match s.sync.window with | some x => imageWord (snapImage x s.sync.snaps) (8 * n) | none => 0)
  | none, none, none =>
    match o with
    | 0x40A000 => plain s 0
    | 0x40A008 => plain s 0
    | 0x40A010 =>
      some (fieldTo s.sync.handDone.toNat 32 ||| fieldTo s.sync.handReject.toNat 16,
        { s with sync := { s.sync with handReject := 0 } })
    | 0x40A018 => plain s 0
    | 0x40A020 =>
      plain s (fieldTo s.sync.snaps.toNat 32 ||| flagTo (!s.sync.snapReq.isEmpty || !s.sync.snapTaken.isEmpty) 0)
    | _ => none

/-- TLY_HAND (R317, R318, R321). -/
def writeTlyHand (s : State) (v : Dword) : State :=
  let confirm : Half := BitVec.ofNat 16 (bitsOf v.toNat 48 16)
  let t : TlyIx := ⟨bitsOf v.toNat 32 12, Nat.mod_lt _ (by decide)⟩
  match bitsOf v.toNat 44 2 with
  | 0 => handWrite s confirm (.tlySet t (v.truncate 32))
  | 1 => handWrite s confirm (.tlySig t (v.truncate 32))
  | _ => rejectHand s

/-- GATE_HAND (R317, R318, R321). -/
def writeGateHand (s : State) (v : Dword) : State :=
  let confirm : Half := BitVec.ofNat 16 (bitsOf v.toNat 48 16)
  let g : GateIx := ⟨v.toNat % 256, Nat.mod_lt _ (by decide)⟩
  match bitsOf v.toNat 40 2 with
  | 0 => handWrite s confirm (.gateRel g)
  | 1 => handWrite s confirm (.gateRst g)
  | _ => rejectHand s

def writeSync (s : State) (o : Nat) (v : Dword) : State :=
  match o with
  | 0x40A000 => writeTlyHand s v
  | 0x40A008 => writeGateHand s v
  | 0x40A018 => if v.getLsbD 0 then after s (execSnap s) else s
  | _ => s

/-! ### Reset, clocks and options (R433, R440) -/

def rstStat (s : State) : Dword :=
  fieldTo s.rst.phase.toNat 12 ||| fieldTo s.rst.fw.toNat 8 ||| flagTo s.rst.coreHeld 1 ||| flagTo s.rst.sysHeld 0

def optStat (s : State) : Dword :=
  fieldTo s.rst.optGen.toNat 32 ||| fieldTo s.rst.retCopy.toNat 6 ||| fieldTo s.rst.optCopy.toNat 4 ||| flagTo s.rst.r1Valid 3 |||
    flagTo s.rst.r0Valid 2 ||| flagTo s.rst.c1Valid 1 ||| flagTo s.rst.c0Valid 0

/-- The bytes of an option block before its CRC (R433). -/
def optBody (gen : Word) (o : OptBlock) : List Byte :=
  padTo 0 4092
    (leBytes 4 0x4254504F ++ leBytes 2 1 ++ leBytes 2 0x1000 ++ leBytes 4 gen.toNat ++ leBytes 4 0 ++ leBytes 2 o.capW.toNat ++
      leBytes 2 o.hystW.toNat ++ [o.hostF, o.order, o.rake, 0] ++ leBytes 2 o.rakeHours.toNat ++ leBytes 2 o.ageHost.toNat ++
      leBytes 2 o.ageNet.toNat ++ leBytes 2 o.ageMaint.toNat ++ leBytes 8 o.growRes.toNat ++ leBytes 4 o.retireCe.toNat ++
      leBytes 4 o.retirePan.toNat ++ leBytes 4 o.baud.toNat ++ leBytes 2 o.wdogMs.toNat ++ leBytes 2 o.hbto.toNat ++ [o.lagmax] ++
      List.replicate 7 0 ++ padTo 0 32 o.partner)

def optImage (gen : Word) (o : OptBlock) : List Byte :=
  let b := optBody gen o
  b ++ leBytes 4 (crc32 b).toNat

def readReset (s : State) (o : Nat) : RegRead :=
  match entryAt 0x501000 8 512 o with
  | some (n, _) => plain s (imageWord (optImage s.rst.optGen s.rst.opt) (8 * n))
  | none =>
    match o with
    | 0x500000 => plain s (rstCause s)
    | 0x500008 => plain s 0
    | 0x500010 => plain s (rstStat s)
    | 0x500018 =>
      some (fieldTo s.rst.wdogExpiry.toNat 32 ||| fieldTo s.rst.wdogTimeout.toNat 0, modRst s fun x => { x with wdogExpiry := 0 })
    | 0x500100 => plain s (fieldTo (clkGood s).toNat 0)
    | 0x500108 => plain s (fieldTo (clkRun s).toNat 0)
    | 0x500110 => plain s (fieldTo s.rst.clkHeld.toNat 0)
    | 0x500118 => plain s (fieldTo s.rst.locks.toNat 32 ||| flagTo s.rst.lock 0)
    | 0x500200 => plain s (optStat s)
    | _ => none

/-- RST_CTRL (R422): REACH 0 and 3 are dropped and counted. -/
def writeRstCtrl (s : State) (v : Dword) : State :=
  let confirm : Half := BitVec.ofNat 16 (bitsOf v.toNat 48 16)
  match v.toNat % 4 with
  | 1 => rstCtrl s confirm .core
  | 2 => rstCtrl s confirm .system
  | _ => dropBar0 s

def writeReset (s : State) (o : Nat) (v : Dword) : State :=
  match o with
  | 0x500000 => modRst s fun x => { x with src := x.src &&& ~~~(v.truncate 8) }
  | 0x500008 => writeRstCtrl s v
  | _ => s

/-! ### Governor, sensors, calendar, slices (R39 to R41, R414) -/

def govState (s : State) : Nat :=
  if s.gov.critical then 4
  else if (List.finRange 16).any fun t => (tenOf s t).hot then 3
  else if s.gov.depth ≠ 0 then 2
  else if s.gov.capped then 1
  else 0

def govStat (s : State) : Dword :=
  fieldTo s.gov.depth.toNat 51 ||| fieldTo (govState s) 48 ||| fieldTo s.gov.changes.toNat 32 ||| fieldTo s.gov.power.toNat 0

/-- MAX and TEMP; MAX starts again with the next sweep. -/
def tempWord (top : Option Half) (now : Half) : Dword := fieldTo (top.getD 0).toNat 16 ||| fieldTo now.toNat 0

def railWord (mv : Half) (ma : Word) : Dword := fieldTo mv.toNat 32 ||| fieldTo ma.toNat 0

def calNow (s : State) : Dword := fieldTo s.cal.sec.toNat 15 ||| fieldTo s.cal.frac.toNat 0

def calStat (s : State) : Dword := fieldTo s.cal.scap.toNat 16 ||| flagTo s.cal.set 1 ||| flagTo s.cal.valid 0

def sliceWord (e : SliceEntry) : Dword :=
  flagTo e.last 41 ||| flagTo true 40 ||| fieldTo e.lenUs.toNat 16 ||| fieldTo e.mask.toNat 0

def sliceStat (s : State) : Dword :=
  fieldTo s.slice.cycles.toNat 32 ||| flagTo s.slice.turnover 12 ||| fieldTo (s.slice.table.length - 1) 6 ||| fieldTo s.slice.cur 0

def tenStateCode : TenState → Nat
  | .empty => 0
  | .loaded => 1
  | .running => 2
  | .slicedOut => 3
  | .quiesced => 4
  | .halted => 5

def tideStat (x : Tenant) : Dword :=
  fieldTo x.tideUs.toNat 48 ||| fieldTo (tenStateCode x.state) 40 ||| fieldTo x.nextGear.toNat 35 ||| fieldTo x.gear.toNat 32 |||
    fieldTo (x.tide.toNat % 2 ^ 32) 0

def readSensors (s : State) (o : Nat) : RegRead :=
  match entryAt 0x601000 8 64 o, entryAt 0x601200 8 12 o, entryAt 0x601300 8 14 o, entryAt 0x601400 8 12 o with
  | some (n, _), _, _, _ =>
    some (tempWord (tabGet none s.sen.dieMax n) (tabGet 0 s.sen.die n),
      { s with sen := { s.sen with dieMax := tabSet none s.sen.dieMax n none } })
  | none, some (n, _), _, _ =>
    some (tempWord (tabGet none s.sen.stackMax n) (tabGet 0 s.sen.stack n),
      { s with sen := { s.sen with stackMax := tabSet none s.sen.stackMax n none } })
  | none, none, some (n, _), _ => plain s (railWord (tabGet 0 s.sen.railMv n) (tabGet 0 s.sen.railMa n))
  | none, none, none, some (n, _) => plain s (fieldTo (tabGet 0 s.sen.pond n).toNat 0)
  | none, none, none, none =>
    match o with
    | 0x601380 => plain s (railWord s.sen.inMv s.sen.inMa)
    | 0x601388 => plain s (fieldTo s.sen.cool.toNat 0)
    | _ => none

def readGovernor (s : State) (o : Nat) : RegRead :=
  match entryAt 0x608000 8 64 o, entryAt 0x609000 8 16 o, entryAt 0x609100 8 16 o with
  | some (n, _), _, _ => plain s (match s.slice.table[n]? with | some e => sliceWord e | none => 0)
  | none, some (n, _), _ => plain s (tideStat (tabGet Tenant.reset s.ten n))
  | none, none, some (n, _) => plain s (tabGet Tenant.reset s.ten n).anchor
  | none, none, none =>
    match o with
    | 0x600000 => plain s (fieldTo s.gov.optCap.toNat 32 ||| fieldTo s.gov.cap.toNat 16 ||| fieldTo s.gov.hyst.toNat 0)
    | 0x600008 => some (govStat s, { s with gov := { s.gov with changes := 0 } })
    | 0x602000 => plain s (calNow s)
    | 0x602008 => plain s s.cal.epoch
    | 0x602010 => plain s (calStat s)
    | 0x602018 => plain s s.tick
    | 0x608200 => plain s (sliceStat s)
    | _ => readSensors s o

/-! ### Logs (R291, R296) -/

def chkStat (l : LogSt) : Dword :=
  fieldTo l.stPond.toNat 24 ||| fieldTo l.stSram.toNat 16 ||| flagTo l.sparesFilled 3 ||| flagTo l.dramFilled 2 |||
    flagTo l.sramFilled 1 ||| flagTo l.stDone 0

def setLog (s : State) (l : LogSt) : State := { s with log := l }

def readLogs (s : State) (o : Nat) : RegRead :=
  let l := s.log
  match entryAt 0x710000 32 4096 o, entryAt 0x740000 32 16384 o with
  | some (n, k), _ => some (imageWord (readLogEntry s false n).1 k, (readLogEntry s false n).2)
  | none, some (n, k) => some (imageWord (readLogEntry s true n).1 k, (readLogEntry s true n).2)
  | none, none =>
    match o with
    | 0x700000 => plain s (chkStat l)
    | 0x700008 => some (fieldTo l.ceDram.toNat 32 ||| fieldTo l.ceSram.toNat 0, setLog s { l with ceDram := 0, ceSram := 0 })
    | 0x700010 => some (fieldTo l.ueDram.toNat 32 ||| fieldTo l.ueSram.toNat 0, setLog s { l with ueDram := 0, ueSram := 0 })
    | 0x700018 =>
      some (fieldTo l.evOvf.toNat 48 ||| fieldTo l.erOvf.toNat 32 ||| fieldTo l.evHead 16 ||| fieldTo l.erHead 0,
        setLog s { l with evOvf := 0, erOvf := 0 })
    | 0x700020 => plain s 0
    | 0x700028 => plain s (fieldTo l.rakePeriod.toNat 16 ||| flagTo l.rakeSweep 1 ||| flagTo l.rakeEn 0)
    | 0x700030 =>
      some (fieldTo l.rakeFixed.toNat 32 ||| fieldTo l.rakePending.length 16 ||| fieldTo l.rakeSweeps.toNat 0,
        setLog s { l with rakeFixed := 0 })
    | 0x700038 => some (fieldTo l.rakeSkip.toNat 0, setLog s { l with rakeSkip := 0 })
    | _ => none

def writeLogs (s : State) (o : Nat) (v : Dword) : State :=
  match o with
  | 0x700020 =>
    let s1 := if v.getLsbD 1 then after s (execEvClr s) else s
    if v.getLsbD 0 then after s1 (execErClr s1) else s1
  | 0x700028 =>
    setLog s { s.log with rakePeriod := BitVec.ofNat 16 (bitsOf v.toNat 16 16), rakeSweep := v.getLsbD 1, rakeEn := v.getLsbD 0 }
  | _ => s

/-! ### Network and mirror (R391) -/

def portStat (s : State) (p : PortIx) : Dword :=
  let x := portOf s p
  fieldTo ((List.finRange 64).filter fun q => (qpOf s p q).state == .ready).length 8 ||| flagTo x.xoff 7 ||| flagTo x.fec 3 |||
    flagTo x.link 2 ||| fieldTo x.module.toNat 0

def readPort (s : State) (p : PortIx) (k : Nat) : RegRead :=
  let x := portOf s p
  match k with
  | 0x00 => plain s (portStat s p)
  | 0x08 => plain s x.rxBytes
  | 0x10 => plain s x.txBytes
  | 0x18 =>
    some (fieldTo x.icrc.toNat 48 ||| fieldTo x.access.toNat 32 ||| fieldTo x.seqErr.toNat 16 ||| fieldTo x.drop.toNat 0,
      modPort s p fun x => { x with icrc := 0, access := 0, seqErr := 0, drop := 0 })
  | _ => none

def keyWord (k : NetKey) : Dword :=
  flagTo k.valid 63 ||| flagTo k.wr 62 ||| flagTo k.rd 61 ||| flagTo (k.valid && k.tly.isNone) 60 |||
    fieldTo (match k.tly with | some t => t.toNat | none => 0) 40 ||| fieldTo k.region.toNat 24 ||| fieldTo k.gen.toNat 0

def roleCode : MirRole → Nat
  | .unpaired => 0
  | .primary => 1
  | .secondary => 2
  | .taken => 3
  | .fenced => 4

def syncCode : MirSync → Nat
  | .none => 0
  | .baseline => 1
  | .synced => 2

/-- HB_OK: on a paired card, HB_IN has shown an edge within HBTO (R386, R391). -/
def heartbeatOk (s : State) : Bool := s.mir.role != .unpaired && !edgeLate s

def mirStat (s : State) : Dword :=
  flagTo s.mir.idMism 9 ||| fieldTo s.mir.port.val 8 ||| flagTo s.mir.tkoOut 7 ||| flagTo s.mir.tkoIn 6 |||
    flagTo (heartbeatOk s) 5 ||| fieldTo (syncCode s.mir.sync) 3 ||| fieldTo (roleCode s.mir.role) 0

def mirLast (x : Tenant) : Dword :=
  fieldTo x.lag.toNat 40 ||| flagTo x.mirroredValid 32 ||| fieldTo x.mirroredTide.toNat 0

def readNet (s : State) (o : Nat) : RegRead :=
  match entryAt 0x800000 0x100 2 o, entryAt 0x810000 8 256 o, entryAt 0x820020 8 4 o, entryAt 0x820100 8 16 o with
  | some (n, k), _, _, _ => if h : n < 2 then readPort s ⟨n, h⟩ k else none
  | none, some (n, _), _, _ => plain s (keyWord (keyOf s n))
  | none, none, some (n, _), _ => plain s (imageWord s.mir.partner (8 * n))
  | none, none, none, some (n, _) => plain s (mirLast (tabGet Tenant.reset s.ten n))
  | none, none, none, none =>
    match o with
    | 0x820000 => plain s (mirStat s)
    | 0x820008 => plain s (fieldTo s.mir.hbto.toNat 16 ||| fieldTo s.mir.lagmax.toNat 0)
    | _ => none

def writeNet (s : State) (o : Nat) (v : Dword) : State :=
  if o = 0x820008 then
    { s with mir := { s.mir with hbto := BitVec.ofNat 16 (bitsOf v.toNat 16 16), lagmax := v.truncate 6 } }
  else s

/-! ### Placer and tenants (R160, R415) -/

def tenCfg (x : Tenant) : Dword :=
  if !x.live then 0
  else
    fieldTo x.elig.toNat 32 ||| flagTo x.shrink 26 ||| flagTo x.sliced 25 ||| flagTo true 24 |||
      fieldTo (setBits (((List.range x.groups).map fun g => (groupQuad x.bind.rot g).val).eraseDups)) 4 |||
      fieldTo x.bind.rot.val 2 ||| fieldTo (x.groups - 1) 0

def readTenant (s : State) (x : Tenant) (k : Nat) : RegRead :=
  match k with
  | 0x00 => plain s (tenCfg x)
  | 0x08 => plain s (if x.live then x.sramPerPan else 0)
  | 0x10 => plain s (BitVec.ofNat 64 (x.dramBytes + (x.slots.map fun y => y.blocks * y.req.unitBytes).sum))
  | 0x18 => plain s (fieldTo x.minBudget 32 ||| fieldTo x.budget 0)
  | 0x20 => plain s (BitVec.ofNat 64 (x.slots.map fun y => y.blocks).sum)
  | _ => none

def panHealth (x : Pan) : Nat := if x.stFail then 3 else if x.degraded then 1 else if x.retired then 2 else 0

def panMap (x : Pan) : Dword :=
  fieldTo (panHealth x) 11 ||| fieldTo (match x.tenant with | some t => t.val | none => 0x1F) 6 |||
    fieldTo (match x.lpan with | some l => l.val | none => 0x3F) 0

def retireWord (e : RetireEntry) : Dword :=
  flagTo true 63 ||| flagTo e.pan 62 ||| fieldTo e.stack.toNat 28 ||| fieldTo e.die.toNat 24 ||| fieldTo e.bank.toNat 16 |||
    fieldTo (if e.spare = 0xF then 0 else e.spare.toNat + 1) 12 ||| fieldTo e.cause.toNat 8

def descOf (s : State) (t : Nat) : DescRegs := tabGet DescRegs.reset s.desc t

def modDesc (s : State) (t : Nat) (f : DescRegs → DescRegs) : State := { s with desc := tabModify DescRegs.reset s.desc t f }

def descWord (d : DescRegs) : Dword :=
  fieldTo d.count.toNat 48 ||| fieldTo d.err.toNat 40 ||| fieldTo d.role.toNat 38 ||| flagTo d.sys 37 ||| fieldTo d.chan.toNat 32 |||
    fieldTo d.addr.toNat 0

def readDesc (s : State) (t k : Nat) : RegRead :=
  match k with
  | 0x00 => some (descWord (descOf s t), modDesc s t fun d => { d with count := 0 })
  | 0x08 => some (fieldTo (descOf s t).oor.toNat 0, modDesc s t fun d => { d with oor := 0 })
  | 0x10 => some (fieldTo (descOf s t).drop.toNat 0, modDesc s t fun d => { d with drop := 0 })
  | _ => none

def readPlacer (s : State) (o : Nat) : RegRead :=
  match entryAt 0x900000 0x40 16 o, entryAt 0x901000 8 36 o, entryAt 0x904000 8 1024 o, entryAt 0x9F0000 0x20 16 o with
  | some (n, k), _, _, _ => readTenant s (tabGet Tenant.reset s.ten n) k
  | none, some (n, _), _, _ => plain s (panMap (tabGet Pan.reset s.pans n))
  | none, none, some (n, _), _ => plain s (match s.plc.retire[n]? with | some e => retireWord e | none => 0)
  | none, none, none, some (n, k) => readDesc s n k
  | none, none, none, none =>
    if o = 0x902000 then plain s (fieldTo (s.plc.growLeft / 2 ^ 20) 32 ||| fieldTo (freeDram s / 2 ^ 20) 0) else none

/-! ### Debug range: pans (R76 to R79, R99 to R102, R132, R133, R185, R186) -/

def panStateCode : PanState → Nat
  | .off => 0
  | .run => 1
  | .stall => 2
  | .ended => 3
  | .trapped => 4
  | .paused => 5
  | .selftest => 6

def panStat (p : PanIx) (x : Pan) : Dword :=
  fieldTo (match x.lpan with | some l => l.val | none => 0xFF) 32 ||| fieldTo (match x.tenant with | some t => t.val | none => 0) 28 |||
    fieldTo (quadOfPan p).val 26 ||| fieldTo (panStateCode x.state) 21 ||| flagTo x.spare 20 ||| flagTo x.stFail 19

/-- Bits [27:4] of an address, as PAN_PC and PAN_TRAP_PC hold them. -/
def bundleField (a : Dword) : Dword := a &&& 0x0FFFFFF0#64

def panTrap (x : Pan) : Dword :=
  fieldTo x.trapTide.toNat 32 ||| fieldTo x.trapErr.toNat 24 ||| fieldTo x.trapCause.toNat 20 ||| fieldTo x.trapSlot.toNat 18

/-- MAX and LAST of a busy count. -/
def busyWord (top last : Word) : Dword := fieldTo top.toNat 32 ||| fieldTo last.toNat 0

/-- Registers that read only while the pan is PAUSED or TRAPPED. -/
def Pan.shown (x : Pan) : Bool := x.state == .paused || x.state == .trapped

/-- MMA_BUF of one buffer at a tick; READ is 1 while a stream reads it (R101). -/
def bufWord (b : BBuf) (tick : Dword) (lo : Nat) : Dword :=
  fieldTo b.sc.toNat (lo + 14) ||| fieldTo b.fb.toNat (lo + 10) ||| fieldTo b.fa.toNat (lo + 6) ||| flagTo b.d512 (lo + 4) |||
    flagTo b.mldbt (lo + 3) ||| flagTo (b.busy tick) (lo + 2) ||| flagTo b.loading (lo + 1) ||| flagTo b.loaded lo

/-- ECH_STAT: the operation at the head of the E queue (R133). DESIGN CHOICE (log entry 172): for ECWLD CWI is its CW field,
for EYCLR it is 0, and TWO is 0 for both. -/
def echStat (x : Pan) : Dword :=
  let cwi : BitVec 6 :=
    match x.eq with
    | { op := .erun c _ _ _ _, .. } :: _ => c
    | { op := .erunt c _ _ _ _ _ _, .. } :: _ => c
    | { op := .ecwld c _ _, .. } :: _ => c
    | _ => 0
  let run : Bool := match x.eq with
    | { op := .erun .., .. } :: _ => true
    | { op := .erunt .., .. } :: _ => true
    | _ => false
  let tile : Bool := match x.eq with | { op := .erunt .., .. } :: _ => true | _ => false
  fieldTo cwi.toNat 10 ||| flagTo (run && decide (8 < (decodeChain (entryOf x cwi)).nstep)) 9 ||| flagTo tile 8 |||
    fieldTo x.eq.length 0

def chanCode : ChanState → Nat
  | .idle => 0
  | .active => 1
  | .halted => 2
  | .stopped => 3

def cpyStat (c : PanChan) : Dword :=
  fieldTo c.err.toNat 8 ||| fieldTo (chanCode c.state) 6 ||| flagTo c.ovlp 5 ||| flagTo c.tswap 4 |||
    fieldTo (min 8 c.outstanding) 0

def readPan (s : State) (p : PanIx) (k : Nat) : RegRead :=
  let x := panOf s p
  match entryAt 0x100 8 32 k, entryAt 0x340 8 8 k with
  | some (n, _), _ => plain s (if x.shown then x.readG n else 0)
  | none, some (n, _) => plain s (if x.shown then x.readY n else 0)
  | none, none =>
    match k with
    | 0x000 => plain s (flagTo x.pauseReq 0)
    | 0x008 => plain s (panStat p x)
    | 0x010 => plain s (bundleField x.pc)
    | 0x018 => plain s (panTrap x)
    | 0x020 => plain s (bundleField (fieldTo x.trapPc.toNat 0))
    | 0x028 => plain s x.trapAddr
    | 0x030 => plain s x.partBase
    | 0x038 => plain s x.partLimit
    | 0x040 => plain s x.codeBase
    | 0x048 => plain s (fieldTo x.gateBase.toNat 16 ||| fieldTo x.tlyBase.toNat 0)
    | 0x050 => plain s (busyWord x.busyMax x.busyLast)
    | 0x058 => plain s x.stall
    | 0x200 => plain s (fieldTo x.fa.toNat 6 ||| fieldTo x.fb.toNat 2 ||| fieldTo x.sc.toNat 0)
    | 0x208 => plain s (fieldTo x.sb.toNat 32 ||| fieldTo x.sa.toNat 0)
    | 0x210 => plain s (bufWord x.buf1 s.tick 16 ||| bufWord x.buf0 s.tick 0)
    | 0x218 => plain s (fieldTo x.ascalePtr.toNat 8 ||| fieldTo x.ascaleCount.toNat 0)
    | 0x220 => plain s x.mmaRows
    | 0x228 => plain s (busyWord x.mmaBusyMax x.mmaBusyLast)
    | 0x230 => some (busyWord x.specNan x.specInf, modPan s p fun x => { x with specNan := 0, specInf := 0 })
    | 0x300 => plain s (echStat x)
    | 0x308 => plain s x.cwValid
    | 0x310 => plain s (busyWord x.echBusyMax x.echBusyLast)
    | 0x318 =>
      some (fieldTo x.echNan.toNat 48 ||| fieldTo x.echInf.toNat 32 ||| fieldTo x.echSat.toNat 16 ||| fieldTo x.echNanz.toNat 0,
        modPan s p fun x => { x with echNan := 0, echInf := 0, echSat := 0, echNanz := 0 })
    | 0x400 => plain s (cpyStat x.chan)
    | 0x408 => plain s (fieldTo x.chan.haltTide.toNat 32 ||| flagTo x.chan.haltRmw 29 ||| fieldTo x.chan.haltDaddr.toNat 0)
    | 0x410 => plain s (fieldTo x.chan.haltRegion.toNat 40 ||| fieldTo x.chan.haltOff.toNat 0)
    | 0x418 => plain s x.chan.bytes
    | 0x420 => plain s (busyWord x.chan.busyMax x.chan.busyLast)
    | _ => none

def writePan (s : State) (p : PanIx) (k : Nat) (v : Dword) : State :=
  if k = 0 then
    if v.getLsbD 1 && (panOf s p).state == .paused then
      after s (execPanStep p (modPan s p fun x => { x with pauseReq := v.getLsbD 0 }))
    else after s (execPanPause p (v.getLsbD 0) s)
  else s

/-! ### Debug range: system channels (R187), stacks (R227, R275), injection (R297) -/

/-- Memory class of a system channel (R161): 1 HOST, 2 NET, 3 MAINT. -/
def schClass (n : SchIx) : Nat := if n.val < 6 then 1 else if n.val < 12 then 2 else 3

def schStat (n : SchIx) (c : SysChan) : Dword :=
  fieldTo c.err.toNat 16 ||| fieldTo (schClass n) 14 ||| fieldTo (chanCode c.state) 12 |||
    fieldTo (min 16 (c.queue.length + (if c.cur.isSome then 1 else 0))) 0

def readSch (s : State) (n : SchIx) (k : Nat) : RegRead :=
  let c := schOf s n
  match k with
  | 0x00 => plain s (flagTo c.enable 0)
  | 0x08 => plain s (schStat n c)
  | 0x10 => plain s (fieldTo c.haltRegion.toNat 0)
  | 0x18 => plain s (fieldTo c.haltOff.toNat 0)
  | 0x20 => plain s c.bytes
  | _ => none

def writeSch (s : State) (n : SchIx) (k : Nat) (v : Dword) : State :=
  if k = 0 then
    debugWrite s fun s =>
      let s1 := enableSch s n (v.getLsbD 0)
      if v.getLsbD 1 then restartSch s1 n else s1
  else s

def pondErr (x : Stack) : Dword :=
  fieldTo x.errCount.toNat 48 ||| fieldTo x.errCode.toNat 40 ||| fieldTo x.errOp.toNat 34 ||| fieldTo x.errStat.toNat 30 |||
    fieldTo x.errTag.toNat 26 ||| fieldTo x.errDie.toNat 22 ||| fieldTo x.errBank.toNat 14

/-- SPVAL of eight dies, a byte each. -/
def spareValid (x : Stack) (d0 : Nat) : Dword := wordOfBytes ((List.range 8).map fun j => tabGet 0 x.spval (d0 + j))

def readPond (s : State) (st : StackIx) (k : Nat) : RegRead :=
  let x := stackOf s st
  match entryAt 0x200 8 16 k with
  | some (d, _) => plain s (wordOfBytes (tabRange 0 x.spmap (8 * d) 8))
  | none =>
    match k with
    | 0x000 => plain s x.pond
    | 0x008 => some (fieldTo x.peakDie.toNat 9 ||| fieldTo x.peak.toNat 0, modStack s st fun x => { x with peak := 0 })
    | 0x010 => some (pondErr x, modStack s st fun x => { x with errCount := 0 })
    | 0x018 => some (fieldTo x.chkUe.toNat 32 ||| fieldTo x.chkCorr.toNat 0, modStack s st fun x => { x with chkUe := 0, chkCorr := 0 })
    | 0x020 => plain s x.cmds
    | 0x100 => plain s (spareValid x 0)
    | 0x108 => plain s (spareValid x 8)
    | _ => none

def modeCode : DmcMode → Nat
  | .run => 0
  | .training => 1
  | .selfRefresh => 2
  | .clockChange => 3

/-- DMC_STAT. A committed clock change is deferred while a training pass runs (R262). -/
def dmcStat (x : Stack) : Dword :=
  fieldTo x.memClk.toNat 8 ||| flagTo x.refX2 7 ||| flagTo x.hot 6 ||| fieldTo x.order.toNat 4 |||
  flagTo (x.defer.isSome && x.mode == .training) 3 |||
    fieldTo (modeCode x.mode) 1

def readDmc (s : State) (st : StackIx) (k : Nat) : RegRead :=
  let x := stackOf s st
  match k with
  | 0x000 => plain s (dmcStat x)
  | 0x008 => plain s (fieldTo x.ageMaint.toNat 32 ||| fieldTo x.ageNet.toNat 16 ||| fieldTo x.ageHost.toNat 0)
  | 0x010 =>
    some (fieldTo x.forced.toNat 32 ||| fieldTo x.maxOwed.toNat 0, modStack s st fun x => { x with forced := 0, maxOwed := 0 })
  | 0x018 =>
    some (fieldTo x.passes.toNat 32 ||| fieldTo x.discard.toNat 16 ||| fieldTo x.retry.toNat 0,
      modStack s st fun x => { x with discard := 0, retry := 0 })
  | 0x020 => some (fieldTo x.replays.toNat 32 ||| fieldTo x.lastPc.toNat 0, modStack s st fun x => { x with replays := 0 })
  | 0x028 => some (fieldTo x.fwd.toNat 32 ||| fieldTo x.merge.toNat 0, modStack s st fun x => { x with fwd := 0, merge := 0 })
  | 0x030 =>
    some (fieldTo x.toNet.toNat 32 ||| fieldTo x.toHost.toNat 16 ||| fieldTo x.toSched.toNat 0,
      modStack s st fun x => { x with toNet := 0, toHost := 0, toSched := 0 })
  | 0x038 => plain s x.pcFail
  | 0x040 => plain s x.pasr0
  | 0x048 => plain s x.pasr1
  | _ => none

def writeDmc (s : State) (st : StackIx) (k : Nat) (v : Dword) : State :=
  if k = 0x008 then
    modStack s st fun x =>
      { x with ageMaint := BitVec.ofNat 16 (bitsOf v.toNat 32 16), ageNet := BitVec.ofNat 16 (bitsOf v.toNat 16 16),
               ageHost := BitVec.ofNat 16 (bitsOf v.toNat 0 16) }
  else s

def injSel (l : LogSt) : Dword :=
  flagTo l.injArm 16 ||| fieldTo l.injMem.toNat 14 ||| fieldTo l.injUnit.toNat 8 ||| fieldTo l.injBank.toNat 0

def writeInj (s : State) (o : Nat) (v : Dword) : State :=
  match o with
  | 0x1600000 => setLog s { s.log with injD := v }
  | 0x1600008 => setLog s { s.log with injC := v.truncate 16 }
  | 0x1600010 =>
    setLog s { s.log with injArm := v.getLsbD 16, injMem := BitVec.ofNat 2 (bitsOf v.toNat 14 2),
                          injUnit := BitVec.ofNat 6 (bitsOf v.toNat 8 6), injBank := v.truncate 8 }
  | _ => s

def readDebug (s : State) (o : Nat) : RegRead :=
  match entryAt 0x1000000 0x10000 36 o, entryAt 0x1300000 0x1000 16 o, entryAt 0x1400000 0x10000 12 o,
      entryAt 0x1500000 0x10000 12 o with
  | some (n, k), _, _, _ => if h : n < 36 then readPan s ⟨n, h⟩ k else none
  | none, some (n, k), _, _ => if h : n < 16 then readSch s ⟨n, h⟩ k else none
  | none, none, some (n, k), _ => if h : n < 12 then readPond s ⟨n, h⟩ k else none
  | none, none, none, some (n, k) => if h : n < 12 then readDmc s ⟨n, h⟩ k else none
  | none, none, none, none =>
    match o with
    | 0x1600000 => plain s s.log.injD
    | 0x1600008 => plain s (fieldTo s.log.injC.toNat 0)
    | 0x1600010 => plain s (injSel s.log)
    | _ => none

def writeDebug (s : State) (o : Nat) (v : Dword) : State :=
  match entryAt 0x1000000 0x10000 36 o, entryAt 0x1300000 0x1000 16 o, entryAt 0x1500000 0x10000 12 o with
  | some (n, k), _, _ => if h : n < 36 then writePan s ⟨n, h⟩ k v else s
  | none, some (n, k), _ => if h : n < 16 then writeSch s ⟨n, h⟩ k v else s
  | none, none, some (n, k) => if h : n < 12 then writeDmc s ⟨n, h⟩ k v else s
  | none, none, none => writeInj s o v

/-! ### The window (R10 to R12, R343) -/

/-- The block of an offset: its number of mebibytes, the debug range from 16. -/
def readBlock (s : State) (o : Nat) : RegRead :=
  match o / 2 ^ 20 with
  | 0 => readIdentity s o
  | 1 => readMailbox s o
  | 2 => readIngest s o
  | 3 => readRings s o
  | 4 => readSync s o
  | 5 => readReset s o
  | 6 => readGovernor s o
  | 7 => readLogs s o
  | 8 => readNet s o
  | 9 => readPlacer s o
  | _ => if o < 0x1000000 || !s.dbg.open_ then none else readDebug s o

def writeBlock (s : State) (o : Nat) (v : Dword) : State :=
  match o / 2 ^ 20 with
  | 0 => writeIdentity s o v
  | 1 => writeMailbox s o v
  | 2 => writeIngest s o v
  | 3 => writeRings s o v
  | 4 => writeSync s o v
  | 5 => writeReset s o v
  | 6 => s
  | 7 => writeLogs s o v
  | 8 => writeNet s o v
  | 9 => s
  | _ => if o < 0x1000000 then s else writeDebug s o v

/-- The register at an offset: its low three bits are ignored (log entry 59). -/
def regOffset (o : Nat) : Nat := o / 8 * 8

/-- A read of BAR0 (R9, R11): reserved and locked offsets read 0. -/
def bar0Read (s : State) (o : Nat) : Dword × State := (readBlock s (regOffset o)).getD (0, s)

/-- BAR0_WRITE (R12, R343): applied in order; a reserved or locked offset drops and counts the write; a write of a read-only
register has no effect. -/
def execBar0Write (off : BitVec 26) (v : Dword) (s : State) : Answer :=
  if (readBlock s (regOffset off.toNat)).isSome then .next (writeBlock s (regOffset off.toNat) v) else .next (dropBar0 s)

end Sys2Proof.Machine
end

