-- ==== Sys2Proof/Machine/Service.lean ====
section
/-! DEFINITION. The service port Triyx (R441 to R451), the module's identity over SPDM (R452), the debug range and the debug port
(R454). -/

namespace Sys2Proof.Machine

/-! ### Reads (R447) -/

/-- Bytes as words of eight, least significant byte first. -/
def textWords (bs : List Byte) : List Dword := (groupsOf 8 bs.length bs).map wordOfBytes

/-- Bytes as 32-bit words. -/
def wordsOf32 (bs : List Byte) : List Dword := (groupsOf 4 bs.length bs).map wordOfBytes

/-- The part number "BQ-FLM880-A" (R2). -/
def partNumber : List Byte := [0x42, 0x51, 0x2D, 0x46, 0x4C, 0x4D, 0x38, 0x38, 0x30, 0x2D, 0x41]

/-- The Rilef image in use and its generation; nothing where none has been copied (R434). -/
def imageInUse (s : State) : List Dword :=
  if s.rst.fwCopyGood then
    match (if s.rst.fwSel then s.rst.flash.fwB else s.rst.flash.fwA) with
    | some (g, _) => [if s.rst.fwSel then 1 else 0, g.zeroExtend 64]
    | none => []
  else []

/-- IDNT (R2, R447). -/
def idnt (s : State) : State :=
  replyLines s [textWords partNumber, [0x41], [0xB0], [Config.serial], imageInUse s, wordsOf32 (Config.sha256 Config.certificate)]

/-- One line for each sensor group of R403; rails that are down read 0. -/
def sensorLines (s : State) : List (List Dword) :=
  let up (v : Nat) : Dword := if s.rst.rails then fieldTo v 0 else 0
  [(List.range 64).map fun n => fieldTo (tabGet 0 s.sen.die n).toNat 0,
    (List.range 12).map fun n => fieldTo (tabGet 0 s.sen.stack n).toNat 0,
    (List.range 14).flatMap fun n => [up (tabGet 0 s.sen.railMv n).toNat, up (tabGet 0 s.sen.railMa n).toNat],
    [fieldTo s.sen.inMv.toNat 0, fieldTo s.sen.inMa.toNat 0],
    [fieldTo s.sen.cool.toNat 0],
    (List.range 12).map fun n => fieldTo (tabGet 0 s.sen.pond n).toNat 0]

/-- Read registers one after the other, as a host read would: RC fields clear. -/
def readRegs (s : State) (os : List Nat) : List (List Dword) × State :=
  os.foldl (fun r o => (r.1 ++ [[(bar0Read r.2 o).1]], (bar0Read r.2 o).2)) ([], s)

/-- Reply with registers. -/
def replyRegs (s : State) (os : List Nat) : State := replyLines (readRegs s os).2 (readRegs s os).1

/-- RCAU: RST_CAUSE, RST_STAT, RST_WDOG, CLK_GOOD, CLK_HELD, CLK_PLL (R447). -/
def rcau (s : State) : State := replyRegs s [0x500000, 0x500010, 0x500018, 0x500100, 0x500110, 0x500118]

/-- CALR: CAL_NOW, CAL_STAT, CAL_EPOCH (R447). -/
def calr (s : State) : State := replyRegs s [0x602000, 0x602010, 0x602008]

/-- OPTR: OPT_STAT, then OPT_BLOCK as 64 lines of 16 words (R447). -/
def optr (s : State) : State :=
    replyLines s ([optStat s] :: (groupsOf 64 64 (optImage s.rst.optGen s.rst.opt)).map wordsOf32)

/-- RREG: a register of BAR0, read as a host read would read it (R447). -/
def rreg (off : Nat) (s : State) : State :=
    if off % 8 ≠ 0 ∨ 2 ^ 26 ≤ off then replyErr s 0xE1 else replyRegs s [off]

/-- LOGR: entries of a log from an index on, each as its eight 32-bit words (R291, R447; log entry 60). -/
def logr (ev : Bool) (first count : Nat) (s : State) : State :=
    let size := if ev then 16384 else 4096
    if count = 0 ∨ 256 < count ∨ size ≤ first then replyErr s 0xE1
    else
      let r := (List.range count).foldl
        (fun (r : List (List Dword) × State) i =>
          let e := readLogEntry r.2 ev ((first + i) % size)
          (r.1 ++ [wordsOf32 e.1], e.2)) ([], s)
      replyLines r.2 r.1

/-- LOGC: clear a log if its head still equals HEAD (R447, R449). -/
def logc (ev : Bool) (head : Half) (s : State) : State :=
    if (if ev then s.log.evHead else s.log.erHead) ≠ head.toNat then replyErr s 0xE5
    else replyOk (setLog s (if ev then s.log.clearEvents else s.log.clearErrors)) 0

/-- RETR: retirement record entries, as GOV_RETIRE (R415, R447). -/
def retr (first count : Nat) (s : State) : State :=
    if count = 0 ∨ 64 < count ∨ 1024 < first + count then replyErr s 0xE1
    else
      replyLines s ((List.range count).map fun i =>
        [match s.plc.retire[first + i]? with | some e => retireWord e | none => 0])

/-! ### Self-test (R450) -/

/-- The unit is in use. -/
def unitBusy (s : State) : TestUnit → Bool
  | .pan p => (liveTenants s).any fun t => (tenOf s t).bind.pans.contains p
  | .qsr q => (liveTenants s).any fun t => (List.range (tenOf s t).groups).any fun g => groupQuad (tenOf s t).bind.rot g == q
  | .stk k => (liveTenants s).any fun t => (tenOf s t).regions.any fun r => (stacksOfPlace r.place).contains k
  | .sch n => (schOf s n).cur.isSome || !(schOf s n).queue.isEmpty
  | .pcie => s.host.linkUp
  | .eth p => (portOf s p).link

/-- TEST: the unit's self-test runs, and serves nothing else until it ends (R450). -/
def startTest (u : TestUnit) (s : State) : State :=
    if !s.rst.rails then replyErr s 0xE3
    else if unitBusy s u then replyErr s 0xE2
    else
      let s1 := modSvc s fun x => { x with test := some u }
      match u with
      | .pan p => modPan s1 p fun x => { x with state := .selftest }
      | _ => s1

/-- The stored word lies in the unit's memory. -/
def inUnit (u : TestUnit) (k : Nat) : Bool :=
  match u, placeOf k with
  | .pan p, .pan i _ => p.val == i
  | .qsr q, .quad i _ => q.val == i
  | .stk st, .dram i _ _ _ _ => st.val == i
  | _, _ => false

/-- The unit's memory is left filled with zero words; no queued write is left to cover a stack's (R254). -/
def zeroUnit (s : State) (u : TestUnit) : State :=
  let s0 := match u with | .stk k => modStack s k fun x => { x with wq := [] } | _ => s
  let s1 : State := { s0 with mem := s0.mem.filter fun e => !inUnit u (e.1 / 16) }
  match u with
  | .pan p => injectRange s1 (panKey p.val 0) (10 * 2 ^ 20)
  | .qsr q => injectRange s1 (quadKey q.val 0) (2 ^ 24)
  | .stk k =>
    if s1.log.injArm then
      (List.range (16 * 264)).foldl (fun r i => injectRange r (dramKey k.val (i / 264) (i % 264) 0 0) (4 * 786432)) s1
    else s1
  | _ => s1

/-- Unit kind and number in the log entry of a failed test. -/
def testBytes : TestUnit → List Byte
  | .pan p => [0, BitVec.ofNat 8 p.val]
  | .qsr q => [1, BitVec.ofNat 8 q.val]
  | .stk k => [2, BitVec.ofNat 8 k.val]
  | .sch n => [3, BitVec.ofNat 8 n.val]
  | .pcie => [4, 0]
  | .eth p => [5, BitVec.ofNat 8 p.val]

/-- The die and unit, 0 to 263, that a failure line of a stack names. -/
def failedUnit (l : List Dword) : Option (DieIx × Fin 264) :=
  match l with
  | d :: b :: _ => if h : d.toNat < 16 ∧ b.toNat < 264 then some (⟨d.toNat, h.1⟩, ⟨b.toNat, h.2⟩) else none
  | _ => none

/-- What a FAIL does: the pan is marked ST_FAIL and retired, the quadrant marked failed, the pond units' banks retired (R286,
R399), and every failure is logged (R290). -/
def failTest (s : State) (u : TestUnit) (ls : List (List Dword)) : State :=
  match u with
  | .pan p => failPan s p []
  | .qsr q => failQuad s q []
  | .stk st => (ls.filterMap failedUnit).eraseDups.foldl (fun r b => failUnit r st b.1 b.2) s
  | _ => logEvent s 0x73 (testBytes u) none

/-- A PASS clears ST_FAIL for a unit that is not in the retirement record (R450). -/
def passTest (s : State) (u : TestUnit) : State :=
  match u with
  | .pan p =>
    if s.plc.retire.any fun e => e.pan && e.bank.toNat == p.val then s else modPan s p fun x => { x with stFail := false }
  | _ => s

/-- The pan of a finished test is gated again. -/
def endTest (s : State) (u : TestUnit) : State :=
  match u with
  | .pan p => modPan s p fun x => { x with state := .off }
  | _ => s

def passText : List Byte := [0x50, 0x41, 0x53, 0x53]

def failText : List Byte := [0x46, 0x41, 0x49, 0x4C]

/-- TEST_COMPLETE: a data line for each failure, then PASS or FAIL in the final line (R447, R450). -/
def execTestComplete (failures : List (List Dword)) (s : State) : Answer :=
  match s.svc.test with
  | none => .next s
  | some u =>
    let s1 := endTest (zeroUnit (modSvc s fun x => { x with test := none }) u) u
    let s2 := if failures.isEmpty then passTest s1 u else failTest s1 u failures
    .next (finalReply (dataLines s2 failures)
      { err := none, lines := failures.length, text := if failures.isEmpty then passText else failText })

/-! ### Reset, dump, hand operations, calendar (R447) -/

/-- RSET: the final line first, then source TRIYX of the named reach (R419). -/
def rset (r : Reach) (confirm : Half) (s : State) : State :=
  if confirm ≠ 0xA5C3 then replyErr s 0xE1 else replyOk (modSvc s fun x => { x with resetPend := some r }) 0

/-- Source TRIYX asserts. One of power-on reach records itself in the cause register of the new power-on (R419). -/
def triyxReset (s : State) (r : Reach) : State :=
  match r with
  | .powerOn =>
    modRst (assertSource s 5 .powerOn false) fun x =>
      { x with src := 0x20, first := 5, asserted := 0x20, reachOf := tabSet .core [] 5 .powerOn }
  | r => assertSource s 5 r false

/-- DUMP: a snapshot with SOURCE 2, sent when it is complete (R314, R447). -/
def dump (s : State) : State := { s with sync := { s.sync with snapReq := s.sync.snapReq ++ [.triyx] } }

def argTally (t : Nat) : Option TlyIx := if h : t < 4096 then some ⟨t, h⟩ else none

def argGate (g : Nat) : Option GateIx := if h : g < 256 then some ⟨g, h⟩ else none

def argWord (v : Nat) : Option Word := if v < 2 ^ 32 then some (BitVec.ofNat 32 v) else none

/-- The hand operation that HSET's arguments name, in range (R317, R447). -/
def hsetOp : HsetOp → Option HandOp
  | .tlySet t v => match argTally t, argWord v with | some t, some v => some (.tlySet t v) | _, _ => none
  | .tlySig t v => match argTally t, argWord v with | some t, some v => some (.tlySig t v) | _, _ => none
  | .gateRel g => (argGate g).map .gateRel
  | .gateRst g => (argGate g).map .gateRst

/-- HSET: a hand operation for step 1 of the next tick, whose application answers the command (R317, R449). -/
def hset (op : HsetOp) (confirm : Half) (s : State) : State :=
  match hsetOp op with
  | some h =>
    if confirm = 0xA5C3 then { s with sync := { s.sync with handTriyx := s.sync.handTriyx ++ [h] } } else replyErr s 0xE1
  | none => replyErr s 0xE1

/-- CALS: set the calendar (R409, R447). -/
def cals (sec frac : Nat) (s : State) : State :=
    if 2 ^ 49 ≤ sec ∨ 32767 < frac then replyErr s 0xE1 else replyOk (setCalendar s sec frac) 0

/-- BAUD: the rate takes effect once the final line is sent (R442). -/
def baud (rate : Nat) (s : State) : State :=
    if rate < 9600 ∨ 3000000 < rate then replyErr s 0xE1
    else replyOk (modSvc s fun x => { x with baudPend := some (BitVec.ofNat 24 rate) }) 0

/-! ### Authorisation (R448) -/

/-- AUTH: a fresh nonce, two free values. -/
def authNonce (s : State) : State :=
    let hi := freshFree s
    let lo := freshFree (usedFree s 1)
    let n : BitVec 128 := hi ++ lo
    replyLines (modSvc (usedFree s 2) fun x => { x with nonce := some n })
      [(List.range 4).map fun i => BitVec.ofNat 64 (bitsOf n.toNat (96 - 32 * i) 32)]

/-- The message that AUTS signs: the last nonce, as its groups read, then the serial number (log entry 61). -/
def authMessage (n : BitVec 128) : List Byte := (leBytes 16 n.toNat).reverse ++ leBytes 8 Config.serial.toNat

/-- The signature verifies, under the key whose digest is fused into the module. -/
def signatureGood (s : State) (signature : List Word) (pubkey : List Byte) : Bool :=
  match s.svc.nonce with
  | some n => Config.sha384 pubkey == Config.serviceKeyDigest && Config.ecdsaValid pubkey (authMessage n) signature
  | none => false

/-- AUTS: 24 groups that answer the nonce; success and failure are logged, and a failure ends the authorisation. -/
def auts (signature : List Word) (pubkey : List Byte) (s : State) : State :=
    if signature.length ≠ 24 then replyErr s 0xE1
    else if signatureGood s signature pubkey then replyOk (logEvent (modSvc s fun x => { x with auth := true }) 0xE4 [] none) 0
    else replyErr (logEvent (modSvc s fun x => { x with auth := false }) 0xE4 [1] none) 0xE4

/-- 600 s in ticks of 1.25 ns (R448). -/
def authTicks : Nat := 480000000000

/-- AUTH_TIMEOUT: the authorisation ends once 600 s have passed without a command (R448). -/
def execAuthTimeout (s : State) : Answer :=
  .next (if authTicks ≤ s.svc.sinceCmd then modSvc s fun x => { x with auth := false } else s)

/-- A command marked A: refused outside an authorised session (R447). -/
def authorised (s : State) (act : State → State) : State := if s.svc.auth then act s else replyErr s 0xE4

/-- The change that OPTW makes: a field of R433 by its offset and size; none for anything else. PARTNER is written in pieces of
eight bytes. -/
def optField (off size v : Nat) : Option (OptBlock → OptBlock) :=
  match off, size with
  | 0x10, 2 => some fun o => { o with capW := BitVec.ofNat 16 v }
  | 0x12, 2 => some fun o => { o with hystW := BitVec.ofNat 16 v }
  | 0x14, 1 => some fun o => { o with hostF := BitVec.ofNat 8 v }
  | 0x15, 1 => some fun o => { o with order := BitVec.ofNat 8 v }
  | 0x16, 1 => some fun o => { o with rake := BitVec.ofNat 8 v }
  | 0x18, 2 => some fun o => { o with rakeHours := BitVec.ofNat 16 v }
  | 0x1A, 2 => some fun o => { o with ageHost := BitVec.ofNat 16 v }
  | 0x1C, 2 => some fun o => { o with ageNet := BitVec.ofNat 16 v }
  | 0x1E, 2 => some fun o => { o with ageMaint := BitVec.ofNat 16 v }
  | 0x20, 8 => some fun o => { o with growRes := BitVec.ofNat 64 v }
  | 0x28, 4 => some fun o => { o with retireCe := BitVec.ofNat 32 v }
  | 0x2C, 4 => some fun o => { o with retirePan := BitVec.ofNat 32 v }
  | 0x30, 4 => some fun o => { o with baud := BitVec.ofNat 32 v }
  | 0x34, 2 => some fun o => { o with wdogMs := BitVec.ofNat 16 v }
  | 0x36, 2 => some fun o => { o with hbto := BitVec.ofNat 16 v }
  | 0x38, 1 => some fun o => { o with lagmax := BitVec.ofNat 8 v }
  | 0x40, 8 => some (piece 0)
  | 0x48, 8 => some (piece 8)
  | 0x50, 8 => some (piece 16)
  | 0x58, 8 => some (piece 24)
  | _, _ => none
where
  piece (i : Nat) (o : OptBlock) : OptBlock := { o with partner := listPatch (padTo 0 32 o.partner) i (leBytes 8 v) }

/-- OPTW (A): one field, in the copy not in use (R435); PARTNER also takes effect at once, by Rilef. -/
def optw (off size v : Nat) (s : State) : State := authorised s fun s =>
    match optField off size v with
    | some f =>
      if 2 ^ (8 * size) ≤ v ∨ (badFields (f OptBlock.default)).contains off then replyErr s 0xE1
      else
        let s1 := writeOption s f
        let p := (f { OptBlock.default with partner := s.mir.partner }).partner
        replyOk (if 0x40 ≤ off ∧ s.rst.fw = 1 then modMir s1 fun m => { m with partner := p } else s1) 0
    | none => replyErr s 0xE1

/-- RETC (A): remove one entry from the retirement record (R402, R447). -/
def retc (entry : Nat) (s : State) : State := authorised s fun s =>
    if entry < s.plc.retire.length then
      let r := dropNth entry s.plc.retire
      replyOk { s with plc := { s.plc with retire := r }, rst := { s.rst with flash := s.rst.flash.putRetire r } } 0
    else replyErr s 0xE1

/-- DBUN (A) (R454). -/
def dbun (open_ : Bool) (s : State) : State := authorised s fun s => replyOk (if open_ then openDebug s true else lockDebug s) 0

/-! ### The handler (R445, R447) -/

/-- What each verb does once its command is accepted (R447). -/
def verbAct : Verb → State → State
  | .idnt => idnt
  | .sens => fun s => replyLines s (sensorLines s)
  | .rcau => rcau
  | .calr => calr
  | .optr => optr
  | .auth => authNonce
  | .dump => dump
  | .unknown => fun s => replyErr s 0xE1
  | .test u => startTest u
  | .logr ev first count => logr ev first count
  | .logc ev head => logc ev head
  | .rset r confirm => rset r confirm
  | .hset op confirm => hset op confirm
  | .cals sec frac => cals sec frac
  | .rreg off => rreg off
  | .baud rate => baud rate
  | .auts sig key => auts sig key
  | .optw off size v => optw off size v
  | .retr first count => retr first count
  | .retc entry => retc entry
  | .dbun o => dbun o

/-- The handler takes a line: with the last accepted SEQ the stored final line is sent again; any other command is accepted
and runs (R445); a line that is no command fails (R444), one whose characters hold a good command is none of these and leaves
no trace. -/
def runLine (s : State) : TriyxLine → State
  | .command seq v =>
    if s.svc.lseq = some seq then
      let s1 := modSvc s fun x => { x with sinceCmd := 0 }
      match s.svc.final with | some f => sendLine s1 (.finalLine seq f) | none => s1
    else verbAct v (modSvc s fun x => { x with lseq := some seq, active := true, lines := x.lines + 1, sinceCmd := 0 })
  | .broken cs => if (lineSeq cs).isSome then s else lineFailed s

/-- The handler executes no command, and no line waits (R445). -/
def handlerFree (s : State) : Bool := !s.svc.active && s.svc.queue.isEmpty

/-- A line arrives in instance 40 (R337): one of more than 512 characters, or that finds no room, is dropped whole (R326,
R444). The handler takes it at once, or it waits there while a command executes (R445). None arrives while the always-on
domain is held. -/
def arriveLine (s : State) (l : TriyxLine) (bad : Option Nat) : State :=
  let cs := lineChars l
  if s.rst.poHeld || !s.rst.standby then s
  else if 512 < cs.length || decide ((queueOf s 40).room 1024 < cs.length) then queueDrop s 40
  else
    let s1 := queueSend s 40 (charWords cs) bad
    if handlerFree s then
      let s2 := queueTake s1 40 cs.length
      match bad with
      | some i => lineFailed (notePoison s2 40 ((queueRead s 40 + i) % 1024) true)
      | none => runLine s2 l
    else modSvc s1 fun x => { x with queue := x.queue ++ [l] }

/-- A command line arrives. -/
def triyx (s : State) (seq : Half) (v : Verb) : State := arriveLine s (.command seq v) none

/-- The oldest waiting line is taken once no command executes (R445), its characters checked as they are read (R330, R337). -/
def nextLine (s : State) : State :=
  match s.svc.queue with
  | [] => s
  | l :: rest =>
    if s.svc.active || s.rst.poHeld || !s.rst.standby then s
    else
      let d := takeChecked (modSvc s fun x => { x with queue := rest }) 40 (lineChars l).length
      if d.2.isEmpty then runLine d.1 l else lineFailed d.1

/-- IDNT. -/
def execIdnt (seq : Half) (s : State) : Answer := .next (triyx s seq .idnt)

/-- SENS (R403). -/
def execSens (seq : Half) (s : State) : Answer := .next (triyx s seq .sens)

def execTest (seq : Half) (u : TestUnit) (s : State) : Answer := .next (triyx s seq (.test u))

def execLogr (seq : Half) (ev : Bool) (first count : Nat) (s : State) : Answer := .next (triyx s seq (.logr ev first count))

def execLogc (seq : Half) (ev : Bool) (head : Half) (s : State) : Answer := .next (triyx s seq (.logc ev head))

def execRcau (seq : Half) (s : State) : Answer := .next (triyx s seq .rcau)

def execRsetC (seq confirm : Half) (s : State) : Answer := .next (triyx s seq (.rset .core confirm))

def execRsetS (seq confirm : Half) (s : State) : Answer := .next (triyx s seq (.rset .system confirm))

def execRsetP (seq confirm : Half) (s : State) : Answer := .next (triyx s seq (.rset .powerOn confirm))

def execDump (seq : Half) (s : State) : Answer := .next (triyx s seq .dump)

/-- HSET TLY n SET v (R317). -/
def execHsetTlySet (seq : Half) (t v : Nat) (confirm : Half) (s : State) : Answer := .next (triyx s seq (.hset (.tlySet t v) confirm))

/-- HSET TLY n SIG v (R317). -/
def execHsetTlySig (seq : Half) (t v : Nat) (confirm : Half) (s : State) : Answer := .next (triyx s seq (.hset (.tlySig t v) confirm))

/-- HSET GATE n REL (R317). -/
def execHsetGateRel (seq : Half) (g : Nat) (confirm : Half) (s : State) : Answer := .next (triyx s seq (.hset (.gateRel g) confirm))

/-- HSET GATE n RST (R317). -/
def execHsetGateRst (seq : Half) (g : Nat) (confirm : Half) (s : State) : Answer := .next (triyx s seq (.hset (.gateRst g) confirm))

def execCalr (seq : Half) (s : State) : Answer := .next (triyx s seq .calr)

def execCals (seq : Half) (sec frac : Nat) (s : State) : Answer := .next (triyx s seq (.cals sec frac))

def execOptr (seq : Half) (s : State) : Answer := .next (triyx s seq .optr)

def execRreg (seq : Half) (off : Nat) (s : State) : Answer := .next (triyx s seq (.rreg off))

def execBaud (seq : Half) (rate : Nat) (s : State) : Answer := .next (triyx s seq (.baud rate))

def execAuth (seq : Half) (s : State) : Answer := .next (triyx s seq .auth)

def execAuts (seq : Half) (signature : List Word) (pubkey : List Byte) (s : State) : Answer := .next (triyx s seq (.auts signature pubkey))

def execOptw (seq : Half) (off size v : Nat) (s : State) : Answer := .next (triyx s seq (.optw off size v))

def execRetr (seq : Half) (first count : Nat) (s : State) : Answer := .next (triyx s seq (.retr first count))

def execRetc (seq : Half) (entry : Nat) (s : State) : Answer := .next (triyx s seq (.retc entry))

def execDbunOpen (seq : Half) (s : State) : Answer := .next (triyx s seq (.dbun true))

def execDbunLock (seq : Half) (s : State) : Answer := .next (triyx s seq (.dbun false))

/-- UNKNOWN_VERB (R447). -/
def execUnknownVerb (seq : Half) (s : State) : Answer := .next (triyx s seq .unknown)

/-- BAD_LINE: a line by its characters that is no command: too long, failing its CRC or yielding no SEQ, or with a character that
fails its parity check (R330, R337, R444). -/
def execBadLine (fault : LineFault) (s : State) : Answer :=
  match fault with
  | .bytes cs => .next (arriveLine s (.broken cs) none)
  | .poison cs i => .next (arriveLine s (.broken cs) (some (min i (cs.length - 1))))

/-- FINAL_LINE_SENT: the transmit queue is empty, a pending rate takes effect (R442), and a pending reset asserts its source
(R419). -/
def execFinalLineSent (s : State) : Answer :=
  let s0 := drainLines s
  let s1 := match s.svc.baudPend with
    | some b => modSvc s0 fun x => { x with baud := b, baudPend := none }
    | none => s0
  match s.svc.resetPend with
  | some r => .next (triyxReset (modSvc s1 fun x => { x with resetPend := none }) r)
  | none => .next s1

/-! ### Debug range and debug port (R454) -/

/-- DBG_CHAL_READ: a host read of DBG_CHAL. -/
def execDbgChalRead (s : State) : Answer := .next (emit (readChal s).2 [.readData (readChal s).1])

/-- DBG_UNLOCK: a write with LOCK = 0. -/
def execDbgUnlock (confirm : Half) (resp : Word) (s : State) : Answer := .next (writeUnlock s confirm false resp)

/-- DBG_LOCK: a write with LOCK = 1. -/
def execDbgLock (confirm : Half) (s : State) : Answer := .next (writeUnlock s confirm true 0)

/-- The instruction of the debug port: 0 BYPASS, 1 IDCODE, 2 SAMPLE/PRELOAD, 3 EXTEST. -/
def setJtag (s : State) (n : BitVec 2) : State := modSvc s fun x => { x with jtag := n }

def execBypass (s : State) : Answer := .next (setJtag s 0)

/-- IDCODE: the port shifts out the identification code (log entry 22). -/
def execIdcode (s : State) : Answer := .next (emit (setJtag s 1) [.tdo Config.jtagIdcode])

def execSamplePreload (s : State) : Answer := .next (setJtag s 2)

def execExtest (s : State) : Answer := .next (setJtag s 3)

/-! ### Identity over SPDM (R452; log entry 62) -/

def spdm (s : State) (code : Byte) (data : List Byte) : State := emit s [.spdm code data]

/-- An ERROR response: 1 invalid request, 4 unexpected request, 7 unsupported request. -/
def spdmError (s : State) (why : Byte) : State := spdm s 0x7F [why]

/-- A request that follows the negotiation of algorithms. -/
def spdmReady (s : State) (act : State → State) : State :=
  if s.svc.spdmVersion && s.svc.spdmAlgs then act s else spdmError s 4

/-- GET_VERSION: 1.3 only. -/
def execGetVersion (s : State) : Answer :=
  .next (spdm (modSvc s fun x => { x with spdmVersion := true, spdmAlgs := false }) 0x04 [0x00, 0x13])

/-- GET_CAPABILITIES: CERT_CAP, CHAL_CAP, MEAS_CAP with signature. -/
def execGetCapabilities (s : State) : Answer :=
  .next (if s.svc.spdmVersion then spdm s 0x61 (leBytes 4 0x16) else spdmError s 4)

/-- NEGOTIATE_ALGORITHMS: ECDSA P-384 and SHA-384 only. -/
def execNegotiateAlgorithms (asym hash : Word) (s : State) : Answer :=
  .next (
    if !s.svc.spdmVersion then spdmError s 4
    else if asym.getLsbD 7 && hash.getLsbD 1 then
      spdm (modSvc s fun x => { x with spdmAlgs := true }) 0x63 (leBytes 4 0x80 ++ leBytes 4 0x02)
    else spdmError s 1)

/-- GET_DIGESTS: slot 0 only. -/
def execGetDigests (s : State) : Answer :=
  .next (spdmReady s fun s => spdm s 0x01 (0x01 :: Config.sha384 Config.certificate))

/-- GET_CERTIFICATE: a portion of the certificate of slot 0, with the length of what remains. -/
def execGetCertificate (slot : BitVec 4) (off len : Half) (s : State) : Answer :=
  .next (spdmReady s fun s =>
    let c := Config.certificate
    if slot ≠ 0 ∨ c.length ≤ off.toNat then spdmError s 1
    else
      let part := (c.drop off.toNat).take len.toNat
      spdm s 0x02 (leBytes 2 part.length ++ leBytes 2 (c.length - off.toNat - part.length) ++ part))

/-- CHALLENGE: slot 0, signed with the identity key. -/
def execChallenge (slot : BitVec 4) (nonce : List Byte) (s : State) : Answer :=
  .next (spdmReady s fun s =>
    if slot ≠ 0 then spdmError s 1
    else
      let body := Config.sha384 Config.certificate ++ nonce
      spdm s 0x03 (body ++ Config.identitySign body))

/-- The bytes of the Rilef image in use. -/
def imageBytes (s : State) : List Byte :=
  match (if s.rst.fwSel then s.rst.flash.fwB else s.rst.flash.fwA) with
  | some (_, b) => b
  | none => []

/-- A measurement by its index (R452). -/
def measurement (s : State) (index : Nat) : Option (List Byte) :=
  match index with
  | 1 => some (Config.sha384 (imageBytes s))
  | 2 => some (Config.sha384 (optImage s.rst.optGen s.rst.opt))
  | 3 => some (Config.sha384 (s.plc.retire.flatMap fun e => leBytes 8 (retireWord e).toNat))
  | 4 => some [0x41, 0xB0]
  | _ => none

/-- GET_MEASUREMENTS: one of the four, with a signature over the request's nonce and the measurement. -/
def execGetMeasurements (index : Byte) (nonce : List Byte) (s : State) : Answer :=
  .next (spdmReady s fun s =>
    match measurement s index.toNat with
    | some m => spdm s 0x60 (index :: m ++ Config.identitySign (nonce ++ index :: m))
    | none => spdmError s 1)

end Sys2Proof.Machine
end

