-- ==== Sys2Proof/Machine/Tick.lean ====
section
/-! DEFINITION. The tick of the synchronisation store (R302) and what every tick brings to the queues (R326, R329, R373, R445). -/

namespace Sys2Proof.Machine

/-- A port that holds off its partner sends XON once it sees more than 2,048 entries of its receive queue free (R329, R373). -/
def releaseFlow (s : State) : State :=
  (List.finRange 2).foldl
    (fun r n =>
      if (portOf r n).xoff && !r.rst.coreHeld && decide (2048 < (queueOf r (36 + n.val)).room 4096) then
        emit (modPort r n fun x => { x with xoff := false }) [.pfc n false]
      else r) s

/-- What a tick leaves at the other side of every queue (R329), and on the pair header (R385): notices that stalled go into
HOST_RESPQ as its producer sees room (R326), what the ports' receive queues show is taken, and the Triyx handler, once free,
takes its next line (R445). -/
def crossTick (s : State) (r : TickReq) : State :=
  let s1 := (List.finRange 2).foldl portTurn (drainAllNotices (syncQueues (r.upsets.foldl queueUpset s)))
  let s2 := nextLine (releaseFlow s1)
  if r.tkoRelease then { s2 with mir := { s2.mir with tkoIn := false } } else s2

/-- SYNC_STORE_TICK: the tick in progress ends, with what Rilef's services bring to it (R302); `idle` further ticks pass, and
the next one begins with its step 1. Hand operations written in a tick take effect in the next (R317). The pointers of every
queue come through to its other side (R329; DEDUCED, log entry 197). -/
def execSyncStoreTick (r : TickReq) (s : State) : Answer :=
  let s1 := endOfTick (r.calls.foldl coreCall s)
  let s2 := applyStep1 (passTicks s1 1)
  if r.idle = 0 then .next (crossTick (closeWindows s2) r)
  else
    let s3 := endOfTick s2
    let s4 := passTicks s3 r.idle.toNat
    .next (crossTick (closeWindows (expireWaiters s4 (s4.tick - 1))) r)

end Sys2Proof.Machine
end

