-- ==== Sys2Proof/Machine/Dispatch.lean ====
section
/-! DEFINITION. One arm for each command: a direct call of its meaning. -/

namespace Sys2Proof.Machine

/-- The effect of a command on everything but the queue. -/
def exec (i : Instr) (s : State) : Host.Outcome State Fault Refusal :=
  match i with
  | .boundaryTick t grow => Sys2Proof.Machine.execBoundaryTick t grow s
  | .commitTick t => Sys2Proof.Machine.execCommitTick t s
  | .sliceEntryEnd => Sys2Proof.Machine.execSliceEntryEnd s
  | .turnoverEnd => Sys2Proof.Machine.execTurnoverEnd s
  | .snop p b z => Sys2Proof.Machine.execSnop p b z s
  | .add p b rd ra rb z => Sys2Proof.Machine.execAdd p b rd ra rb z s
  | .sub p b rd ra rb z => Sys2Proof.Machine.execSub p b rd ra rb z s
  | .and p b rd ra rb z => Sys2Proof.Machine.execAnd p b rd ra rb z s
  | .or p b rd ra rb z => Sys2Proof.Machine.execOr p b rd ra rb z s
  | .xor p b rd ra rb z => Sys2Proof.Machine.execXor p b rd ra rb z s
  | .shl p b rd ra rb z => Sys2Proof.Machine.execShl p b rd ra rb z s
  | .shr p b rd ra rb z => Sys2Proof.Machine.execShr p b rd ra rb z s
  | .sar p b rd ra rb z => Sys2Proof.Machine.execSar p b rd ra rb z s
  | .mul p b rd ra rb z => Sys2Proof.Machine.execMul p b rd ra rb z s
  | .slt p b rd ra rb z => Sys2Proof.Machine.execSlt p b rd ra rb z s
  | .sltu p b rd ra rb z => Sys2Proof.Machine.execSltu p b rd ra rb z s
  | .addi p b rd ra imm => Sys2Proof.Machine.execAddi p b rd ra imm s
  | .andi p b rd ra imm => Sys2Proof.Machine.execAndi p b rd ra imm s
  | .ori p b rd ra imm => Sys2Proof.Machine.execOri p b rd ra imm s
  | .xori p b rd ra imm => Sys2Proof.Machine.execXori p b rd ra imm s
  | .shli p b rd ra imm => Sys2Proof.Machine.execShli p b rd ra imm s
  | .shri p b rd ra imm => Sys2Proof.Machine.execShri p b rd ra imm s
  | .sari p b rd ra imm => Sys2Proof.Machine.execSari p b rd ra imm s
  | .movk p b rd z h imm => Sys2Proof.Machine.execMovk p b rd z h imm s
  | .ld p b rd ra imm => Sys2Proof.Machine.execLd p b rd ra imm s
  | .st p b rd ra imm => Sys2Proof.Machine.execSt p b rd ra imm s
  | .ldy p b rd ra imm => Sys2Proof.Machine.execLdy p b rd ra imm s
  | .lds p b rd ra imm => Sys2Proof.Machine.execLds p b rd ra imm s
  | .beq p b ra rb off => Sys2Proof.Machine.execBeq p b ra rb off s
  | .bne p b ra rb off => Sys2Proof.Machine.execBne p b ra rb off s
  | .blt p b ra rb off => Sys2Proof.Machine.execBlt p b ra rb off s
  | .bge p b ra rb off => Sys2Proof.Machine.execBge p b ra rb off s
  | .branchY p b yr bit sense off => Sys2Proof.Machine.execBranchY p b yr bit sense off s
  | .j p b off => Sys2Proof.Machine.execJ p b off s
  | .jal p b rd ra imm => Sys2Proof.Machine.execJal p b rd ra imm s
  | .jr p b rd ra rb z => Sys2Proof.Machine.execJr p b rd ra rb z s
  | .endb p b z => Sys2Proof.Machine.execEndb p b z s
  | .brk p b z => Sys2Proof.Machine.execBrk p b z s
  | .loadReturn p k => Sys2Proof.Machine.execLoadReturn p k s
  | .storeWritten p => Sys2Proof.Machine.execStoreWritten p s
  | .panEnded p => Sys2Proof.Machine.execPanEnded p s
  | .mnop p b z => Sys2Proof.Machine.execMnop p b z s
  | .mfmt p b fa fb sc gs z => Sys2Proof.Machine.execMfmt p b fa fb sc gs z s
  | .msca p b ga rows z => Sys2Proof.Machine.execMsca p b ga rows z s
  | .mldb p b ga gt gc bs z => Sys2Proof.Machine.execMldb p b ga gt gc bs z s
  | .mldbt p b tb gr bs z => Sys2Proof.Machine.execMldbt p b tb gr bs z s
  | .mmv p b va vd n acc out bs z => Sys2Proof.Machine.execMmv p b va vd n acc out bs z s
  | .mmt p b gr ta td n acc out bs z => Sys2Proof.Machine.execMmt p b gr ta td n acc out bs z s
  | .mOpStart p => Sys2Proof.Machine.execMOpStart p s
  | .mOpComplete p k => Sys2Proof.Machine.execMOpComplete p k s
  | .enop p b z => Sys2Proof.Machine.execEnop p b z s
  | .erun p b cwi vs vd vb n => Sys2Proof.Machine.execErun p b cwi vs vd vb n s
  | .erunt p b cwi ts td gr vb z => Sys2Proof.Machine.execErunt p b cwi ts td gr vb z s
  | .ecwld p b cw ga cnt z => Sys2Proof.Machine.execEcwld p b cw ga cnt z s
  | .eyclr p b yr z => Sys2Proof.Machine.execEyclr p b yr z s
  | .eOpStart p => Sys2Proof.Machine.execEOpStart p s
  | .eOpComplete p => Sys2Proof.Machine.execEOpComplete p s
  | .cnop p b z => Sys2Proof.Machine.execCnop p b z s
  | .vld p b vr ga size imm => Sys2Proof.Machine.execVld p b vr ga size imm s
  | .vst p b vr ga size imm => Sys2Proof.Machine.execVst p b vr ga size imm s
  | .cpy p b gs gd sig z tly => Sys2Proof.Machine.execCpy p b gs gd sig z tly s
  | .fence p b z scope => Sys2Proof.Machine.execFence p b z scope s
  | .fenceComplete p => Sys2Proof.Machine.execFenceComplete p s
  | .sig p b z inc tly => Sys2Proof.Machine.execSig p b z inc tly s
  | .wait p b rd gt z tly => Sys2Proof.Machine.execWait p b rd gt z tly s
  | .waitn p b rd gt z tly => Sys2Proof.Machine.execWaitn p b rd gt z tly s
  | .gate p b z g => Sys2Proof.Machine.execGate p b z g s
  | .panPause p pause => Sys2Proof.Machine.execPanPause p pause s
  | .panStep p => Sys2Proof.Machine.execPanStep p s
  | .copyStart p => Sys2Proof.Machine.execCopyStart p s
  | .copyComplete p => Sys2Proof.Machine.execCopyComplete p s
  | .sysRequest n r => Sys2Proof.Machine.execSysRequest n r s
  | .sysRequestStart n => Sys2Proof.Machine.execSysRequestStart n s
  | .sysRequestComplete n => Sys2Proof.Machine.execSysRequestComplete n s
  | .cpyRestart n => Sys2Proof.Machine.execCpyRestart n s
  | .cpyEnable n enable => Sys2Proof.Machine.execCpyEnable n enable s
  | .syncStoreTick idle => Sys2Proof.Machine.execSyncStoreTick idle s
  | .tallySignal pick => Sys2Proof.Machine.execTallySignal pick s
  | .waitTimeout p => Sys2Proof.Machine.execWaitTimeout p s
  | .tlyHandSet confirm t v => Sys2Proof.Machine.execTlyHandSet confirm t v s
  | .tlyHandSignal confirm t v => Sys2Proof.Machine.execTlyHandSignal confirm t v s
  | .gateHandRelease confirm g => Sys2Proof.Machine.execGateHandRelease confirm g s
  | .gateHandReset confirm g => Sys2Proof.Machine.execGateHandReset confirm g s
  | .snap => Sys2Proof.Machine.execSnap s
  | .snapshotComplete => Sys2Proof.Machine.execSnapshotComplete s
  | .hostRespqRead => Sys2Proof.Machine.execHostRespqRead s
  | .hostEvqRead => Sys2Proof.Machine.execHostEvqRead s
  | .flushResp => Sys2Proof.Machine.execFlushResp s
  | .flushEv => Sys2Proof.Machine.execFlushEv s
  | .queueFlushEffect ev => Sys2Proof.Machine.execQueueFlushEffect ev s
  | .bar0Write off v => Sys2Proof.Machine.execBar0Write off v s
  | .ingestWrite lane off data => Sys2Proof.Machine.execIngestWrite lane off data s
  | .bar2Read lane off => Sys2Proof.Machine.execBar2Read lane off s
  | .ingestDoorbell lane token => Sys2Proof.Machine.execIngestDoorbell lane token s
  | .ingestDoorbellSignal bell => Sys2Proof.Machine.execIngestDoorbellSignal bell s
  | .mbxDoorbell slot => Sys2Proof.Machine.execMbxDoorbell slot s
  | .mbxAccept => Sys2Proof.Machine.execMbxAccept s
  | .mbxBackgroundComplete slot => Sys2Proof.Machine.execMbxBackgroundComplete slot s
  | .ping slot => Sys2Proof.Machine.execPing slot s
  | .stage slot region pl => Sys2Proof.Machine.execStage slot region pl s
  | .loadImage slot img bind table => Sys2Proof.Machine.execLoadImage slot img bind table s
  | .unload slot table => Sys2Proof.Machine.execUnload slot table s
  | .start slot => Sys2Proof.Machine.execStart slot s
  | .setWeight slot table => Sys2Proof.Machine.execSetWeight slot table s
  | .bindLane slot => Sys2Proof.Machine.execBindLane slot s
  | .unbindLane slot => Sys2Proof.Machine.execUnbindLane slot s
  | .bindRing slot => Sys2Proof.Machine.execBindRing slot s
  | .unbindRing slot => Sys2Proof.Machine.execUnbindRing slot s
  | .replayRing slot => Sys2Proof.Machine.execReplayRing slot s
  | .mapHost slot region => Sys2Proof.Machine.execMapHost slot region s
  | .signal slot => Sys2Proof.Machine.execSignal slot s
  | .gateArrive slot => Sys2Proof.Machine.execGateArrive slot s
  | .gatePorts slot => Sys2Proof.Machine.execGatePorts slot s
  | .syncDump slot => Sys2Proof.Machine.execSyncDump slot s
  | .crashMode slot => Sys2Proof.Machine.execCrashMode slot s
  | .reset slot => Sys2Proof.Machine.execReset slot s
  | .hrvHeadWrite ring head => Sys2Proof.Machine.execHrvHeadWrite ring head s
  | .harvestTake t stream => Sys2Proof.Machine.execHarvestTake t stream s
  | .harvestRecordWrite ring n => Sys2Proof.Machine.execHarvestRecordWrite ring n s
  | .flushReadComplete ring ok => Sys2Proof.Machine.execFlushReadComplete ring ok s
  | .hostAttach v => Sys2Proof.Machine.execHostAttach v s
  | .hostLoss k => Sys2Proof.Machine.execHostLoss k s
  | .linkRetrain => Sys2Proof.Machine.execLinkRetrain s
  | .snoop addr => Sys2Proof.Machine.execSnoop addr s
  | .configRequest off => Sys2Proof.Machine.execConfigRequest off s
  | .getVersion => Sys2Proof.Machine.execGetVersion s
  | .getCapabilities => Sys2Proof.Machine.execGetCapabilities s
  | .negotiateAlgorithms asym hash => Sys2Proof.Machine.execNegotiateAlgorithms asym hash s
  | .getDigests => Sys2Proof.Machine.execGetDigests s
  | .getCertificate slot off len => Sys2Proof.Machine.execGetCertificate slot off len s
  | .challenge slot nonce => Sys2Proof.Machine.execChallenge slot nonce s
  | .getMeasurements index nonce => Sys2Proof.Machine.execGetMeasurements index nonce s
  | .pondEnter st q => Sys2Proof.Machine.execPondEnter st q s
  | .pondExit st q => Sys2Proof.Machine.execPondExit st q s
  | .pmodeInj st q inj => Sys2Proof.Machine.execPmodeInj st q inj s
  | .nop g tag a c => Sys2Proof.Machine.execNop g tag a c s
  | .ldw g tag a c => Sys2Proof.Machine.execLdw g tag a c s
  | .ldwPayload g tag data => Sys2Proof.Machine.execLdwPayload g tag data s
  | .dot g tag a c => Sys2Proof.Machine.execDot g tag a c s
  | .softp g tag a c => Sys2Proof.Machine.execSoftp g tag a c s
  | .wsum g tag a c => Sys2Proof.Machine.execWsum g tag a c s
  | .mvw g tag a c => Sys2Proof.Machine.execMvw g tag a c s
  | .ewu g tag a c => Sys2Proof.Machine.execEwu g tag a c s
  | .fill g tag a c => Sys2Proof.Machine.execFill g tag a c s
  | .copyr g tag a c => Sys2Proof.Machine.execCopyr g tag a c s
  | .csend g tag a c => Sys2Proof.Machine.execCsend g tag a c s
  | .crecv g tag a c => Sys2Proof.Machine.execCrecv g tag a c s
  | .ccomb g tag a c => Sys2Proof.Machine.execCcomb g tag a c s
  | .check g tag a c => Sys2Proof.Machine.execCheck g tag a c s
  | .pondCommandStart b => Sys2Proof.Machine.execPondCommandStart b s
  | .pondCommandEnd b => Sys2Proof.Machine.execPondCommandEnd b s
  | .resultRowRead b col => Sys2Proof.Machine.execResultRowRead b col s
  | .spmapWrite st d j bank valid => Sys2Proof.Machine.execSpmapWrite st d j bank valid s
  | .pondStreamIssue t table => Sys2Proof.Machine.execPondStreamIssue t table s
  | .attnRecordRead t r => Sys2Proof.Machine.execAttnRecordRead t r s
  | .pondStreamComplete t table => Sys2Proof.Machine.execPondStreamComplete t table s
  | .dramRequest st r => Sys2Proof.Machine.execDramRequest st r s
  | .dramRequestServe st k => Sys2Proof.Machine.execDramRequestServe st k s
  | .requestPromotion st k => Sys2Proof.Machine.execRequestPromotion st k s
  | .rowIdleClose b => Sys2Proof.Machine.execRowIdleClose b s
  | .refreshTick st => Sys2Proof.Machine.execRefreshTick st s
  | .refreshIssue b => Sys2Proof.Machine.execRefreshIssue b s
  | .refreshComplete b => Sys2Proof.Machine.execRefreshComplete b s
  | .trainingPeriodic st => Sys2Proof.Machine.execTrainingPeriodic st s
  | .trainingPassEnd st bad => Sys2Proof.Machine.execTrainingPassEnd st bad s
  | .clockChangeStart st => Sys2Proof.Machine.execClockChangeStart st s
  | .clockChangeComplete st => Sys2Proof.Machine.execClockChangeComplete st s
  | .parityAlert st q k => Sys2Proof.Machine.execParityAlert st q k s
  | .selfRefreshExitDone => Sys2Proof.Machine.execSelfRefreshExitDone s
  | .rakeTargetedRewrite => Sys2Proof.Machine.execRakeTargetedRewrite s
  | .rakeSweep key last => Sys2Proof.Machine.execRakeSweep key last s
  | .evClr => Sys2Proof.Machine.execEvClr s
  | .erClr => Sys2Proof.Machine.execErClr s
  | .spareFill => Sys2Proof.Machine.execSpareFill s
  | .frameReceive port kind bytes fcsOk => Sys2Proof.Machine.execFrameReceive port kind bytes fcsOk s
  | .rdmaWrite port qp psn key off data => Sys2Proof.Machine.execRdmaWrite port qp psn key off data s
  | .rdmaRead port qp psn key off len => Sys2Proof.Machine.execRdmaRead port qp psn key off len s
  | .rdmaWriteImm port qp psn key off data => Sys2Proof.Machine.execRdmaWriteImm port qp psn key off data s
  | .rdmaImmSignal port qp => Sys2Proof.Machine.execRdmaImmSignal port qp s
  | .rdmaOtherOpcode port qp psn opcode => Sys2Proof.Machine.execRdmaOtherOpcode port qp psn opcode s
  | .netLinkDown port => Sys2Proof.Machine.execNetLinkDown port s
  | .netPortCfg slot => Sys2Proof.Machine.execNetPortCfg slot s
  | .netKeyBind slot entry owner => Sys2Proof.Machine.execNetKeyBind slot entry owner s
  | .netKeyRevoke slot => Sys2Proof.Machine.execNetKeyRevoke slot s
  | .netQpSet slot => Sys2Proof.Machine.execNetQpSet slot s
  | .netQpDestroy slot => Sys2Proof.Machine.execNetQpDestroy slot s
  | .mirPair slot partner interval => Sys2Proof.Machine.execMirPair slot partner interval s
  | .mirAccept slot => Sys2Proof.Machine.execMirAccept slot s
  | .mirUnpair slot => Sys2Proof.Machine.execMirUnpair slot s
  | .mirrorWriteReceive t region off data => Sys2Proof.Machine.execMirrorWriteReceive t region off data s
  | .mirrorRecordReceive rec => Sys2Proof.Machine.execMirrorRecordReceive rec s
  | .mirrorAck t tide => Sys2Proof.Machine.execMirrorAck t tide s
  | .heartbeatToggle => Sys2Proof.Machine.execHeartbeatToggle s
  | .hbInEdge => Sys2Proof.Machine.execHbInEdge s
  | .heartbeatLost => Sys2Proof.Machine.execHeartbeatLost s
  | .streamSilent => Sys2Proof.Machine.execStreamSilent s
  | .takeoverTenantStart t => Sys2Proof.Machine.execTakeoverTenantStart t s
  | .tkoInAssert => Sys2Proof.Machine.execTkoInAssert s
  | .placementMoveComplete t m => Sys2Proof.Machine.execPlacementMoveComplete t m s
  | .sensorSweep r => Sys2Proof.Machine.execSensorSweep r s
  | .governorWindow => Sys2Proof.Machine.execGovernorWindow s
  | .govSetCap slot => Sys2Proof.Machine.execGovSetCap slot s
  | .plcBudget slot => Sys2Proof.Machine.execPlcBudget slot s
  | .plcTrim slot => Sys2Proof.Machine.execPlcTrim slot s
  | .calSet slot => Sys2Proof.Machine.execCalSet slot s
  | .plcRetire slot => Sys2Proof.Machine.execPlcRetire slot s
  | .plcQuery slot => Sys2Proof.Machine.execPlcQuery slot s
  | .calHoldLoss => Sys2Proof.Machine.execCalHoldLoss s
  | .por low => Sys2Proof.Machine.execPor low s
  | .brownout input => Sys2Proof.Machine.execBrownout input s
  | .prsntNHigh => Sys2Proof.Machine.execPrsntNHigh s
  | .input48vGood => Sys2Proof.Machine.execInput48vGood s
  | .rstNAssert => Sys2Proof.Machine.execRstNAssert s
  | .rstNRelease => Sys2Proof.Machine.execRstNRelease s
  | .wdogExpiry => Sys2Proof.Machine.execWdogExpiry s
  | .wdogKick => Sys2Proof.Machine.execWdogKick s
  | .perstAssert => Sys2Proof.Machine.execPerstAssert s
  | .perstDeassert => Sys2Proof.Machine.execPerstDeassert s
  | .rstCtrlCore confirm => Sys2Proof.Machine.execRstCtrlCore confirm s
  | .rstCtrlSystem confirm => Sys2Proof.Machine.execRstCtrlSystem confirm s
  | .resetSourceTimeout source => Sys2Proof.Machine.execResetSourceTimeout source s
  | .resetRelease r => Sys2Proof.Machine.execResetRelease r s
  | .clkTimeout domain => Sys2Proof.Machine.execClkTimeout domain s
  | .optionLoadDone o0 o1 r0 r1 => Sys2Proof.Machine.execOptionLoadDone o0 o1 r0 r1 s
  | .railsGood => Sys2Proof.Machine.execRailsGood s
  | .pllLocked => Sys2Proof.Machine.execPllLocked s
  | .selftestDone pans quads units => Sys2Proof.Machine.execSelftestDone pans quads units s
  | .sramFillDone => Sys2Proof.Machine.execSramFillDone s
  | .dramTrained bad => Sys2Proof.Machine.execDramTrained bad s
  | .dramFillDone => Sys2Proof.Machine.execDramFillDone s
  | .fwCopyDone a b => Sys2Proof.Machine.execFwCopyDone a b s
  | .rilefReady => Sys2Proof.Machine.execRilefReady s
  | .idnt seq => Sys2Proof.Machine.execIdnt seq s
  | .sens seq => Sys2Proof.Machine.execSens seq s
  | .test seq u => Sys2Proof.Machine.execTest seq u s
  | .testComplete failures => Sys2Proof.Machine.execTestComplete failures s
  | .logr seq ev first count => Sys2Proof.Machine.execLogr seq ev first count s
  | .logc seq ev head => Sys2Proof.Machine.execLogc seq ev head s
  | .rcau seq => Sys2Proof.Machine.execRcau seq s
  | .rsetC seq confirm => Sys2Proof.Machine.execRsetC seq confirm s
  | .rsetS seq confirm => Sys2Proof.Machine.execRsetS seq confirm s
  | .rsetP seq confirm => Sys2Proof.Machine.execRsetP seq confirm s
  | .dump seq => Sys2Proof.Machine.execDump seq s
  | .hsetTlySet seq t v confirm => Sys2Proof.Machine.execHsetTlySet seq t v confirm s
  | .hsetTlySig seq t v confirm => Sys2Proof.Machine.execHsetTlySig seq t v confirm s
  | .hsetGateRel seq g confirm => Sys2Proof.Machine.execHsetGateRel seq g confirm s
  | .hsetGateRst seq g confirm => Sys2Proof.Machine.execHsetGateRst seq g confirm s
  | .calr seq => Sys2Proof.Machine.execCalr seq s
  | .cals seq sec frac => Sys2Proof.Machine.execCals seq sec frac s
  | .optr seq => Sys2Proof.Machine.execOptr seq s
  | .rreg seq off => Sys2Proof.Machine.execRreg seq off s
  | .baud seq rate => Sys2Proof.Machine.execBaud seq rate s
  | .auth seq => Sys2Proof.Machine.execAuth seq s
  | .auts seq signature pubkey => Sys2Proof.Machine.execAuts seq signature pubkey s
  | .authTimeout => Sys2Proof.Machine.execAuthTimeout s
  | .optw seq off size v => Sys2Proof.Machine.execOptw seq off size v s
  | .retr seq first count => Sys2Proof.Machine.execRetr seq first count s
  | .retc seq entry => Sys2Proof.Machine.execRetc seq entry s
  | .dbunOpen seq => Sys2Proof.Machine.execDbunOpen seq s
  | .dbunLock seq => Sys2Proof.Machine.execDbunLock seq s
  | .dbgChalRead => Sys2Proof.Machine.execDbgChalRead s
  | .dbgUnlock confirm resp => Sys2Proof.Machine.execDbgUnlock confirm resp s
  | .dbgLock confirm => Sys2Proof.Machine.execDbgLock confirm s
  | .bypass => Sys2Proof.Machine.execBypass s
  | .idcode => Sys2Proof.Machine.execIdcode s
  | .samplePreload => Sys2Proof.Machine.execSamplePreload s
  | .extest => Sys2Proof.Machine.execExtest s
  | .dbgResetRequest op => Sys2Proof.Machine.execDbgResetRequest op s
  | .selfRefreshEntered => Sys2Proof.Machine.execSelfRefreshEntered s
  | .linkUp width speed flit cache => Sys2Proof.Machine.execLinkUp width speed flit cache s
  | .portLinkUp port => Sys2Proof.Machine.execPortLinkUp port s
  | .modulePresenceChange port present ready fault over30 => Sys2Proof.Machine.execModulePresenceChange port present ready fault over30 s
  | .hostSourceAssert => Sys2Proof.Machine.execHostSourceAssert s
  | .finalLineSent => Sys2Proof.Machine.execFinalLineSent s
  | .badLine fault => Sys2Proof.Machine.execBadLine fault s
  | .unknownVerb seq => Sys2Proof.Machine.execUnknownVerb seq s

end Sys2Proof.Machine
end

