-- ==== Sys2Proof/Safety.lean ====
section
/-! DEFINITION. What counts as a safe run. -/

namespace Sys2Proof

/-- A command is safe in a state when it answers a next state. -/
def Safe (i : Instr) (s : Machine.State) : Prop := ∃ t, Machine.exec i s = .next t

end Sys2Proof
end

