-- ==== Sys2Proof/WellFormed.lean ====
section
/-! DEFINITION. The commands whose operands have the shape that the spec gives them: the sizes of what is sent, and the parts
that a list must name once each. The operands of the other commands are well formed at every value; what the spec refuses, a
reserved field of a bundle among it, is the effect of the command. -/

namespace Sys2Proof

/-- A sweep reads every sensor of R403. -/
def sweepFormed (r : Sweep) : Bool :=
  r.die.length == 64 && r.stack.length == 12 && r.railMv.length == 14 && r.railMa.length == 14 &&
    r.bad.all fun i => decide (i < 107)

/-- A service signals with N from 1 to 65,535 (R300). -/
def pickFormed : SigPick → Bool
  | .flight _ _ => true
  | .rilef _ _ n => decide (1 ≤ n) && decide (n < 65536)
  | .mirror _ n => decide (1 ≤ n) && decide (n < 65536)

/-- The operands of a command are well formed. -/
def Instr.wellFormed : Instr → Bool
  | .boundaryTick .. => true
  | .commitTick .. => true
  | .sliceEntryEnd => true
  | .turnoverEnd => true
  | .snop .. => true
  | .add .. => true
  | .sub .. => true
  | .and .. => true
  | .or .. => true
  | .xor .. => true
  | .shl .. => true
  | .shr .. => true
  | .sar .. => true
  | .mul .. => true
  | .slt .. => true
  | .sltu .. => true
  | .addi .. => true
  | .andi .. => true
  | .ori .. => true
  | .xori .. => true
  | .shli .. => true
  | .shri .. => true
  | .sari .. => true
  | .movk .. => true
  | .ld .. => true
  | .st .. => true
  | .ldy .. => true
  | .lds .. => true
  | .beq .. => true
  | .bne .. => true
  | .blt .. => true
  | .bge .. => true
  | .branchY .. => true
  | .j .. => true
  | .jal .. => true
  | .jr .. => true
  | .endb .. => true
  | .brk .. => true
  | .loadReturn .. => true
  | .storeWritten .. => true
  | .panEnded .. => true
  | .mnop .. => true
  | .mfmt .. => true
  | .msca .. => true
  | .mldb .. => true
  | .mldbt .. => true
  | .mmv .. => true
  | .mmt .. => true
  | .mOpStart .. => true
  | .mOpComplete .. => true
  | .enop .. => true
  | .erun .. => true
  | .erunt .. => true
  | .ecwld .. => true
  | .eyclr .. => true
  | .eOpStart .. => true
  | .eOpComplete .. => true
  | .cnop .. => true
  | .vld .. => true
  | .vst .. => true
  | .cpy .. => true
  | .fence .. => true
  | .fenceComplete .. => true
  | .sig .. => true
  | .wait .. => true
  | .waitn .. => true
  | .gate .. => true
  | .panPause .. => true
  | .panStep .. => true
  | .copyStart .. => true
  | .copyComplete .. => true
  | .sysRequest .. => true
  | .sysRequestStart .. => true
  | .sysRequestComplete .. => true
  | .cpyRestart .. => true
  | .cpyEnable .. => true
  | .syncStoreTick .. => true
  | .tallySignal pick => pickFormed pick
  | .waitTimeout .. => true
  | .tlyHandSet .. => true
  | .tlyHandSignal .. => true
  | .gateHandRelease .. => true
  | .gateHandReset .. => true
  | .snap => true
  | .snapshotComplete => true
  | .hostRespqRead => true
  | .hostEvqRead => true
  | .flushResp => true
  | .flushEv => true
  | .queueFlushEffect .. => true
  | .bar0Write off _ => off.toNat % 8 == 0
  | .ingestWrite _ off data => decide (0 < data.length) && decide (off.toNat + data.length ≤ 2 ^ 26)
  | .bar2Read .. => true
  | .ingestDoorbell .. => true
  | .ingestDoorbellSignal .. => true
  | .mbxDoorbell .. => true
  | .mbxAccept => true
  | .mbxBackgroundComplete .. => true
  | .ping .. => true
  | .stage .. => true
  | .loadImage .. => true
  | .unload .. => true
  | .start .. => true
  | .setWeight .. => true
  | .bindLane .. => true
  | .unbindLane .. => true
  | .bindRing .. => true
  | .unbindRing .. => true
  | .replayRing .. => true
  | .mapHost .. => true
  | .signal .. => true
  | .gateArrive .. => true
  | .gatePorts .. => true
  | .syncDump .. => true
  | .crashMode .. => true
  | .reset .. => true
  | .hrvHeadWrite .. => true
  | .harvestTake .. => true
  | .harvestRecordWrite .. => true
  | .flushReadComplete .. => true
  | .hostAttach .. => true
  | .hostLoss .. => true
  | .linkRetrain => true
  | .snoop .. => true
  | .configRequest off => off.toNat % 4 == 0
  | .getVersion => true
  | .getCapabilities => true
  | .negotiateAlgorithms .. => true
  | .getDigests => true
  | .getCertificate .. => true
  | .challenge _ nonce => nonce.length == 32
  | .getMeasurements _ nonce => nonce.length == 32
  | .pondEnter .. => true
  | .pondExit .. => true
  | .pmodeInj .. => true
  | .nop .. => true
  | .ldw .. => true
  | .ldwPayload _ _ data => data.length == 32
  | .dot .. => true
  | .softp .. => true
  | .wsum .. => true
  | .mvw .. => true
  | .ewu .. => true
  | .fill .. => true
  | .copyr .. => true
  | .csend .. => true
  | .crecv .. => true
  | .ccomb .. => true
  | .check .. => true
  | .pondCommandStart .. => true
  | .pondCommandEnd .. => true
  | .resultRowRead .. => true
  | .spmapWrite .. => true
  | .pondStreamIssue .. => true
  | .attnRecordRead .. => true
  | .pondStreamComplete .. => true
  | .dramRequest _ r => r.data.length == (if r.write then 32 else 0)
  | .dramRequestServe .. => true
  | .requestPromotion .. => true
  | .rowIdleClose .. => true
  | .refreshTick .. => true
  | .refreshIssue .. => true
  | .refreshComplete .. => true
  | .trainingPeriodic .. => true
  | .trainingPassEnd .. => true
  | .clockChangeStart .. => true
  | .clockChangeComplete .. => true
  | .parityAlert .. => true
  | .selfRefreshExitDone => true
  | .rakeTargetedRewrite => true
  | .rakeSweep .. => true
  | .evClr => true
  | .erClr => true
  | .spareFill => true
  | .frameReceive _ _ bytes _ => decide (0 < bytes)
  | .rdmaWrite _ _ _ _ _ data => decide (data.length ≤ 2 ^ 31)
  | .rdmaRead _ _ _ _ _ len => decide (len.toNat ≤ 2 ^ 31)
  | .rdmaWriteImm _ _ _ _ _ data => decide (data.length ≤ 2 ^ 31)
  | .rdmaImmSignal .. => true
  | .rdmaOtherOpcode .. => true
  | .netLinkDown .. => true
  | .netPortCfg .. => true
  | .netKeyBind .. => true
  | .netKeyRevoke .. => true
  | .netQpSet .. => true
  | .netQpDestroy .. => true
  | .mirPair _ partner _ => partner.length == 32
  | .mirAccept .. => true
  | .mirUnpair .. => true
  | .mirrorWriteReceive _ _ _ data => decide (0 < data.length)
  | .mirrorRecordReceive rec_ => decide (320 ≤ rec_.length)
  | .mirrorAck .. => true
  | .heartbeatToggle => true
  | .hbInEdge => true
  | .heartbeatLost => true
  | .streamSilent => true
  | .takeoverTenantStart .. => true
  | .tkoInAssert => true
  | .placementMoveComplete .. => true
  | .sensorSweep r => sweepFormed r
  | .governorWindow => true
  | .govSetCap .. => true
  | .plcBudget .. => true
  | .plcTrim .. => true
  | .calSet .. => true
  | .plcRetire .. => true
  | .plcQuery .. => true
  | .calHoldLoss => true
  | .por .. => true
  | .brownout .. => true
  | .prsntNHigh => true
  | .input48vGood => true
  | .rstNAssert => true
  | .rstNRelease => true
  | .wdogExpiry => true
  | .wdogKick => true
  | .perstAssert => true
  | .perstDeassert => true
  | .rstCtrlCore .. => true
  | .rstCtrlSystem .. => true
  | .resetSourceTimeout .. => true
  | .resetRelease .. => true
  | .clkTimeout .. => true
  | .optionLoadDone o0 o1 _ _ => o0.length == 4096 && o1.length == 4096
  | .railsGood => true
  | .pllLocked => true
  | .selftestDone pans quads units => decide pans.Nodup && decide quads.Nodup && decide units.Nodup
  | .sramFillDone => true
  | .dramTrained bad => decide bad.Nodup
  | .dramFillDone => true
  | .fwCopyDone .. => true
  | .rilefReady => true
  | .idnt .. => true
  | .sens .. => true
  | .test .. => true
  | .testComplete .. => true
  | .logr .. => true
  | .logc .. => true
  | .rcau .. => true
  | .rsetC .. => true
  | .rsetS .. => true
  | .rsetP .. => true
  | .dump .. => true
  | .hsetTlySet .. => true
  | .hsetTlySig .. => true
  | .hsetGateRel .. => true
  | .hsetGateRst .. => true
  | .calr .. => true
  | .cals .. => true
  | .optr .. => true
  | .rreg .. => true
  | .baud .. => true
  | .auth .. => true
  | .auts .. => true
  | .authTimeout => true
  | .optw .. => true
  | .retr .. => true
  | .retc .. => true
  | .dbunOpen .. => true
  | .dbunLock .. => true
  | .dbgChalRead => true
  | .dbgUnlock .. => true
  | .dbgLock .. => true
  | .bypass => true
  | .idcode => true
  | .samplePreload => true
  | .extest => true
  | .dbgResetRequest .. => true
  | .selfRefreshEntered => true
  | .linkUp .. => true
  | .portLinkUp .. => true
  | .modulePresenceChange .. => true
  | .hostSourceAssert => true
  | .finalLineSent => true
  | .badLine .. => true
  | .unknownVerb .. => true

end Sys2Proof
end

