-- ==== Sys2Proof/Certificates/Slice0/Obligations.lean ====
section
/-! DEFINITION. The statements for the provers, written from the numbered rules of the spec. Each conclusion about a
command is that exec answers the next state the rules give; an equation of states says all that changes, and so the
frame as well. -/

namespace Sys2Proof.Machine

/-! ### Words shared by the statements -/

/-- Slot `sl` (0 to 3: S, M, E, C) of bundle `b` issues in pan `p`: `b` stands at PC, neither a wait nor an issue trap holds
it, and it is that slot's turn (R46, R52 to R55, R72). -/
def Goes (s : State) (p : PanIx) (sl : BitVec 2) (b : Bundle) : Prop := verdict (fetchRow s p) p b sl = .go

/-- The pan after its bundle, with `pc` the address of the next one; `pause` where the bundle itself pauses the pan. -/
def Pan.after (x : Pan) (pc : Dword) (pause : Bool) : Pan :=
  { x with
    pc := pc, mid := false, midB := { s := 0, m := 0, e := 0, c := 0 }, midSlots := 0, stepping := false,
    state := if x.pauseReq = true ∨ pause = true ∨ x.state = .paused then .paused else .run }

/-- `s` after the bundle at PC has written G[rd] with `v` of the pan as it stood, every other register and everything
else as before; a write to G0 is discarded (R47). -/
def wroteG (s : State) (p : PanIx) (rd : Reg5) (v : Pan → Dword) : State :=
  modPan (fetchRow s p) p fun x => (x.writeG rd.toNat (v x)).after (x.pc + 16) false

/-- `s` after a bundle whose S slot only decides the next address. -/
def wentTo (s : State) (p : PanIx) (pc : Pan → Dword) : State :=
  modPan (fetchRow s p) p fun x => x.after (pc x) false

/-- `s` after slot `sl` of bundle `b`, an M, E or C slot whose effect on the pan alone is `f`. -/
def slotDid (s : State) (p : PanIx) (sl : BitVec 2) (b : Bundle) (f : Pan → Pan) : State :=
  modPan (fetchRow s p) p fun x => f (x.opened b sl)

/-- `s` once the channel of pan `p` has taken copy `c` from its queue and keeps its descriptors (R148, R164). -/
def takenCopy (s : State) (p : PanIx) (c : PanCopy) (rest : List PanCopy) : State :=
  modPan s p fun x => { x with chan := { x.chan with
    privSrc := (readBytes s (8 * sramKey p (panOf s p) (c.gs.zeroExtend 64) + c.gs.toNat % 8)
      (if (readJob s p c).1.srcComp.isSome then 128 else 64)).1,
    privDst := (readBytes s (8 * sramKey p (panOf s p) (c.gd.zeroExtend 64) + c.gd.toNat % 8)
      (if (readJob s p c).1.dstComp.isSome then 128 else 64)).1,
    queue := rest, cur := some c, state := .active, startTick := s.tick, ovlp := false, tswap := false, mirrored := [] } }

/-- `s` once the copy in progress on the channel of pan `p` is complete: the copies behind it wait as before (R164, R186). -/
def freedChannel (s : State) (p : PanIx) : State :=
  modPan s p fun x => { x with chan := { x.chan with
    cur := none, state := .idle, ovlp := false, tswap := false, mirrored := [], privSrc := [], privDst := [],
    busyNow := x.chan.busyNow + ((s.tick - x.chan.startTick) * 2).truncate 32, startTick := s.tick } }

/-- The numbered units are held in canonical form: rising numbers, no unit listed that is as at reset. -/
def Canon (s : State) : Prop :=
  tabWf Pan.reset s.pans = true ∧ tabWf Tenant.reset s.ten = true ∧ tabWf SysChan.reset s.sch = true ∧
  tabWf Stack.reset s.dram.stk = true ∧ tabWf Tally.reset s.sync.tallies = true ∧
  tabWf Unit.reset s.dram.units = true ∧ tabWf BankSt.reset s.dram.banks = true ∧
  tabWf GateSt.reset s.sync.gates = true ∧ tabWf Lane.reset s.host.lanes = true ∧ tabWf Ring.reset s.host.rings = true ∧
  tabWf Queue.reset s.host.queues = true ∧ tabWf PortSt.reset s.net.ports = true ∧ tabWf NetKey.reset s.net.keys = true ∧ tabWf Qp.reset s.net.qps = true

/-- A command line of Triyx comes through: the always-on domain runs, and the line is no longer than a line may be and finds
room in queue instance 40 (R326, R337, R444). -/
def LineComes (s : State) (seq : Half) (v : Verb) : Prop :=
  s.rst.poHeld = false ∧ s.rst.standby = true ∧ (lineChars (.command seq v)).length ≤ 512 ∧
    (lineChars (.command seq v)).length ≤ (queueOf s 40).room 1024

/-- Triyx takes a new command: its line comes through, none executes or waits, and SEQ differs from the last one's (R445). -/
def Fresh (s : State) (seq : Half) (v : Verb) : Prop :=
  LineComes s seq v ∧ s.svc.active = false ∧ s.svc.queue = [] ∧ s.svc.lseq ≠ some seq

/-- The state once the handler has read the line of a command from queue instance 40 (R337). -/
def lineRead (s : State) (seq : Half) (v : Verb) : State := queuePass s 40 (charWords (lineChars (.command seq v)))

/-- The state in which an accepted command runs: its line has come through queue instance 40 (R337, R445). -/
def accepted (s : State) (seq : Half) (v : Verb) : State :=
  modSvc (lineRead s seq v) fun x => { x with lseq := some seq, active := true, lines := x.lines + 1, sinceCmd := 0 }

/-- No frame lies in a port's receive queue and no Triyx line waits, which a tick would bring to their consumers. -/
def Calm (s : State) : Prop := (∀ n : PortIx, (portOf s n).frames = []) ∧ s.svc.queue = []

/-- The words of the data lines among what is sent. -/
def linesSent (os : List Out) : List (List Dword) := os.filterMap fun o => match o with | .line _ ws => some ws | _ => none

/-- A hand operation accepted from Triyx waits for the next tick (R317, R449). -/
def handedOver (s : State) (seq : Half) (v : Verb) (op : HandOp) : State :=
  { accepted s seq v with sync := { s.sync with handTriyx := s.sync.handTriyx ++ [op] } }

end Sys2Proof.Machine

open Sys2Proof Sys2Proof.Machine

/-! ### The queue, reset and the whole machine -/

/-- A step takes the command at the front of the queue and runs it with the queue's rest. An empty queue idles: the
model's own choice (log entry 5). -/
def Obligations.StepRunsFrontCommand : Prop :=
  (∀ (c : Instr) (rest : List Instr) (s : State),
    step { s with pending := c :: rest } = exec c { s with pending := rest }) ∧
  (∀ s : State, s.pending = [] → step s = .next s)

/-- Every command answers a next state, in every state: no ordinary operand ends a run. No command touches the queue
of waiting commands. -/
def Obligations.EveryCommandAnswersNext : Prop :=
  (∀ (c : Instr) (s : State), ∃ t, exec c s = .next t) ∧
  (∀ (c : Instr) (s t : State), exec c s = .next t → t.pending = s.pending)

/-- The memory keeps its canonical form through every step. -/
def Obligations.MemoryFormKeptByStep : Prop :=
  ∀ s t : State, Memory.wf s.mem = true → step s = .next t → Memory.wf t.mem = true

/-- So do the tables that hold the numbered units. -/
def Obligations.UnitTablesKeptByStep : Prop :=
  ∀ s t : State, Canon s → step s = .next t → Canon t

/-- The memory and the tables of units after reset have the canonical form, and nothing waits. -/
def Obligations.ResetMemoryForm : Prop :=
  Memory.wf State.reset.mem = true ∧ Canon State.reset ∧ State.reset.pending = []

/-- What a power-on reset leaves in the registers whose values the spec states (R41, R77, R79, R321, R344, R352, R394, R424,
R433, R440, R443, R454). The model's own value: CAP, which the spec gives as the option block's, is 1,200 W before an option
block is read (log entry 20). -/
def Obligations.ResetRegisterValues : Prop :=
  State.reset.rst.src = 0x01 ∧ State.reset.rst.first = 0 ∧ State.reset.rst.lastReach = 2 ∧
  State.reset.dbg.open_ = false ∧ State.reset.dbg.opens = 0 ∧ State.reset.host.hnext = 1 ∧
  State.reset.host.attach = .detached ∧ State.reset.host.seqLost = true ∧ State.reset.svc.baud = 115200 ∧
  State.reset.svc.auth = false ∧ State.reset.rst.coreHeld = true ∧ State.reset.rst.sysHeld = true ∧
  State.reset.gov.cap = 1200 ∧ State.reset.mir.role = .unpaired ∧ State.reset.rst.retCopy = 3 ∧
  (∀ t : TlyIx, tallyOf State.reset t = { value := 0, owner := 0x1F, hand := false }) ∧
  (∀ g : GateIx, (gateOf State.reset g).owner = 0x1F) ∧
  (∀ t : TenIx, (tenOf State.reset t).state = .empty) ∧
  (∀ p : PanIx, (panOf State.reset p).state = .off ∧ (panOf State.reset p).lpan = none ∧
    (panOf State.reset p).partLimit = 0 ∧ (panOf State.reset p).stall = 0)

/-- The debug range never opens but by a write of DBG_UNLOCK (as a command or as the BAR0 write it is) or by DBUN OPEN of
an authenticated service session (R448, R454). -/
def Obligations.DebugRangeOpensOnlyByUnlock : Prop :=
  ∀ (c : Instr) (s t : State), exec c s = .next t → s.dbg.open_ = false → t.dbg.open_ = true →
    (∃ confirm resp, c = .dbgUnlock confirm resp) ∨ (∃ off v, c = .bar0Write off v ∧ off.toNat / 8 * 8 = 0xF008) ∨
      (∃ seq, c = .dbunOpen seq ∧ s.svc.auth = true)

/-! ### Pans: issue of a bundle -/

/-- What holds a slot of a bundle. A pan that issues nothing keeps the command without effect. A bundle whose slots have begun
to issue goes on with the slots it still has, and no other bundle does. Of a new one: outside the partition is SRAM_RANGE, a
poisoned row FETCH_UE; a row whose slot no opcode table allows is ILLEGAL whatever bundle the command spells; a bundle that
the row at PC does not spell has no effect; a duplicate register is ILLEGAL; a wait of R52 to R55 stalls; an S or C address
outside the partition is SRAM_RANGE with its slot; BRK with no debugger attached is BREAK; and else the slot goes, the S slot
as the last (R46, R50, R52, R53, R60, R69, R73). The model's own choices: the order of the causes (log entry 30), the slots
one command each with S as the last and an undefined word whatever is spelled (log entry 3), a debugger attached while the
debug range is open (log entry 32), and the trap address 0 of ILLEGAL and BREAK (log entry 170). -/
def Obligations.IssueVerdicts : Prop :=
  ∀ (s : State) (p : PanIx) (b : Bundle) (sl : BitVec 2),
    ((panOf s p).issues = false → verdict s p b sl = .no) ∧
    ((panOf s p).issues = true → (panOf s p).mid = true →
      ((panOf s p).midB = b → (panOf s p).midSlots.getLsbD sl.toNat = false →
        (sl ≠ 0 ∨ (panOf s p).othersIssued b = true) → verdict s p b sl = .go) ∧
      (((panOf s p).midB ≠ b ∨ (panOf s p).midSlots.getLsbD sl.toNat = true ∨
        (sl = 0 ∧ (panOf s p).othersIssued b = false)) → verdict s p b sl = .no)) ∧
    ((panOf s p).issues = true → (panOf s p).mid = false →
      (outsidePan (panOf s p) (panOf s p).pc 16 = true → verdict s p b sl = .trap 3 0 (panOf s p).pc) ∧
      (outsidePan (panOf s p) (panOf s p).pc 16 = false →
        (∀ k, firstBad (fetchWords s p) = some k → verdict s p b sl = .trap 1 0 (panOf s p).pc) ∧
        (firstBad (fetchWords s p) = none → ∀ w, illegalSlot (bundleAt s p) = some w → verdict s p b sl = .trap 2 w 0) ∧
        (firstBad (fetchWords s p) = none → illegalSlot (bundleAt s p) = none → bundleAt s p ≠ b → verdict s p b sl = .no) ∧
        (firstBad (fetchWords s p) = none → bundleAt s p = b →
          (∀ w, illegalSlot b = none → clashSlot b = some w → verdict s p b sl = .trap 2 w 0) ∧
          (illegalSlot b = none → clashSlot b = none →
            (mustWait (panOf s p) b = true → verdict s p b sl = .stall) ∧
            (mustWait (panOf s p) b = false →
              (∀ w a, rangeTrap (panOf s p) b = some (w, a) → verdict s p b sl = .trap 3 w a) ∧
              (rangeTrap (panOf s p) b = none →
                (slotOp b.s = 0x29 → s.dbg.open_ = false → verdict s p b sl = .trap 5 0 0) ∧
                ((slotOp b.s ≠ 0x29 ∨ s.dbg.open_ = true) → verdict s p b sl =
                  if sl ≠ 0 ∨ (b.m = 0 ∧ b.e = 0 ∧ b.c = 0) then .go else .no)))))))

/-- A bundle that traps at issue: the pan is TRAPPED with its trap registers filled, no slot takes effect, and the next
bundle does not issue; one that waits only counts a stalled cycle. Said of SNOP, which carries any bundle. -/
def Obligations.IssueTrapAndStall : Prop :=
  ∀ (s : State) (p : PanIx) (b : Bundle) (z : BitVec 26),
    (∀ c sl a, verdict (fetchRow s p) p { b with s := encJ 0x00 z } 0 = .trap c sl a →
      exec (.snop p b z) s = .next (trapPan (fetchRow s p) p c sl (panOf s p).pc a false)) ∧
    (verdict (fetchRow s p) p { b with s := encJ 0x00 z } 0 = .stall →
      exec (.snop p b z) s = .next (modPan (fetchRow s p) p fun x =>
        { x with state := if x.state = .paused then .paused else .stall, stall := x.stall + 1 })) ∧
    (verdict (fetchRow s p) p { b with s := encJ 0x00 z } 0 = .no → exec (.snop p b z) s = .next (fetchRow s p))

/-- What a trap leaves in the pan: the TRAPPED state, the tide, the error code and cause of R73, the slot, the
bundle's address without its low four bits, and the offending address; a late trap empties both engine queues. The G,
Y, V and T registers, the accumulators and the memory stay as they were (R72, R73, R79). Fetching the row of a bundle
changes no register of any pan, no stored word, no tally and no gate: it marks the row as fetched and logs what the
check code finds (R74, R280). -/
def Obligations.TrapRegistersAndFetchFrame : Prop :=
  (∀ (s : State) (p : PanIx) (cause : BitVec 4) (slot : BitVec 2) (pc a : Dword) (late : Bool),
    (panOf (trapPan s p cause slot pc a late) p).state = .trapped ∧
    (panOf (trapPan s p cause slot pc a late) p).trapCause = cause ∧
    (panOf (trapPan s p cause slot pc a late) p).trapErr = 0x1F + cause.zeroExtend 8 ∧
    (panOf (trapPan s p cause slot pc a late) p).trapSlot = slot ∧
    (panOf (trapPan s p cause slot pc a late) p).trapAddr = a ∧
    (panOf (trapPan s p cause slot pc a late) p).trapPc = (pc &&& ~~~(0xF#64)).truncate 28 ∧
    (panOf (trapPan s p cause slot pc a late) p).trapTide = tideWord s (panOf s p).tenant ∧
    (late = true → (panOf (trapPan s p cause slot pc a late) p).mq = [] ∧
      (panOf (trapPan s p cause slot pc a late) p).eq = []) ∧
    (panOf (trapPan s p cause slot pc a late) p).g = (panOf s p).g ∧
    (panOf (trapPan s p cause slot pc a late) p).y = (panOf s p).y ∧
    (panOf (trapPan s p cause slot pc a late) p).v = (panOf s p).v ∧
    (panOf (trapPan s p cause slot pc a late) p).t = (panOf s p).t ∧
    (panOf (trapPan s p cause slot pc a late) p).acc = (panOf s p).acc ∧
    (trapPan s p cause slot pc a late).mem = s.mem) ∧
  (∀ (s : State) (p q : PanIx),
    (fetchRow s p).mem = s.mem ∧ (fetchRow s p).sync = s.sync ∧ (fetchRow s p).host.slots = s.host.slots ∧
    (panOf (fetchRow s p) q).g = (panOf s q).g ∧ (panOf (fetchRow s p) q).y = (panOf s q).y ∧
    (panOf (fetchRow s p) q).v = (panOf s q).v ∧ (panOf (fetchRow s p) q).t = (panOf s q).t ∧
    (panOf (fetchRow s p) q).acc = (panOf s q).acc ∧ (panOf (fetchRow s p) q).pc = (panOf s q).pc ∧
    (panOf (fetchRow s p) q).state = (panOf s q).state)

/-! ### Pans: the S slot -/

/-- G0 reads as 0 and a write to it is discarded; every other G register and every Y register holds 64 bits: any value
written to it reads back, and the other registers stand (R47). -/
def Obligations.RegisterFile : Prop :=
  ∀ (x : Pan) (v : Dword) (n m : Fin 32) (i j : Fin 8),
    x.readG 0 = 0 ∧ x.writeG 0 v = x ∧
    (n.val ≠ 0 → (x.writeG n.val v).readG n.val = v) ∧ (m ≠ n → (x.writeG n.val v).readG m.val = x.readG m.val) ∧
    Pan.readY { x with y := tabSet 0 x.y i.val v } i.val = v ∧
    (j ≠ i → Pan.readY { x with y := tabSet 0 x.y i.val v } j.val = x.readY j.val)

/-- ADD to SLTU: rd takes the table's value of ra and rb, and nothing else changes but the address of the next bundle
(R47, R60). ADDI to SARI and MOVK (R60). MOVK replaces bits [16h + 15:16h] of rd and keeps the others. -/
def Obligations.RegisterArithmetic : Prop :=
  (∀ (s : State) (p : PanIx) (b : Bundle) (rd ra rb : Reg5) (z : BitVec 11),
    (Goes s p 0 { b with s := encR 0x01 rd ra rb z } → exec (.add p b rd ra rb z) s =
      .next (wroteG s p rd fun x => x.readG ra.toNat + x.readG rb.toNat)) ∧
    (Goes s p 0 { b with s := encR 0x02 rd ra rb z } → exec (.sub p b rd ra rb z) s =
      .next (wroteG s p rd fun x => x.readG ra.toNat - x.readG rb.toNat)) ∧
    (Goes s p 0 { b with s := encR 0x03 rd ra rb z } → exec (.and p b rd ra rb z) s =
      .next (wroteG s p rd fun x => x.readG ra.toNat &&& x.readG rb.toNat)) ∧
    (Goes s p 0 { b with s := encR 0x04 rd ra rb z } → exec (.or p b rd ra rb z) s =
      .next (wroteG s p rd fun x => x.readG ra.toNat ||| x.readG rb.toNat)) ∧
    (Goes s p 0 { b with s := encR 0x05 rd ra rb z } → exec (.xor p b rd ra rb z) s =
      .next (wroteG s p rd fun x => x.readG ra.toNat ^^^ x.readG rb.toNat)) ∧
    (Goes s p 0 { b with s := encR 0x06 rd ra rb z } → exec (.shl p b rd ra rb z) s =
      .next (wroteG s p rd fun x => x.readG ra.toNat <<< ((x.readG rb.toNat).toNat % 64))) ∧
    (Goes s p 0 { b with s := encR 0x07 rd ra rb z } → exec (.shr p b rd ra rb z) s =
      .next (wroteG s p rd fun x => x.readG ra.toNat >>> ((x.readG rb.toNat).toNat % 64))) ∧
    (Goes s p 0 { b with s := encR 0x08 rd ra rb z } → exec (.sar p b rd ra rb z) s =
      .next (wroteG s p rd fun x => (x.readG ra.toNat).sshiftRight ((x.readG rb.toNat).toNat % 64))) ∧
    (Goes s p 0 { b with s := encR 0x09 rd ra rb z } → exec (.mul p b rd ra rb z) s =
      .next (wroteG s p rd fun x => BitVec.ofNat 64 ((x.readG ra.toNat).toNat * (x.readG rb.toNat).toNat))) ∧
    (Goes s p 0 { b with s := encR 0x0A rd ra rb z } → exec (.slt p b rd ra rb z) s =
      .next (wroteG s p rd fun x => if (x.readG ra.toNat).toInt < (x.readG rb.toNat).toInt then 1 else 0)) ∧
    (Goes s p 0 { b with s := encR 0x0B rd ra rb z } → exec (.sltu p b rd ra rb z) s =
      .next (wroteG s p rd fun x => if (x.readG ra.toNat).toNat < (x.readG rb.toNat).toNat then 1 else 0))) ∧
  (∀ (s : State) (p : PanIx) (b : Bundle) (rd ra : Reg5) (imm : Half) (z : BitVec 3) (h : BitVec 2),
    (Goes s p 0 { b with s := encI 0x10 rd ra imm } → exec (.addi p b rd ra imm) s =
      .next (wroteG s p rd fun x => x.readG ra.toNat + imm.signExtend 64)) ∧
    (Goes s p 0 { b with s := encI 0x11 rd ra imm } → exec (.andi p b rd ra imm) s =
      .next (wroteG s p rd fun x => x.readG ra.toNat &&& imm.zeroExtend 64)) ∧
    (Goes s p 0 { b with s := encI 0x12 rd ra imm } → exec (.ori p b rd ra imm) s =
      .next (wroteG s p rd fun x => x.readG ra.toNat ||| imm.zeroExtend 64)) ∧
    (Goes s p 0 { b with s := encI 0x13 rd ra imm } → exec (.xori p b rd ra imm) s =
      .next (wroteG s p rd fun x => x.readG ra.toNat ^^^ imm.zeroExtend 64)) ∧
    (Goes s p 0 { b with s := encI 0x14 rd ra imm } → exec (.shli p b rd ra imm) s =
      .next (wroteG s p rd fun x => x.readG ra.toNat <<< (imm.toNat % 64))) ∧
    (Goes s p 0 { b with s := encI 0x15 rd ra imm } → exec (.shri p b rd ra imm) s =
      .next (wroteG s p rd fun x => x.readG ra.toNat >>> (imm.toNat % 64))) ∧
    (Goes s p 0 { b with s := encI 0x16 rd ra imm } → exec (.sari p b rd ra imm) s =
      .next (wroteG s p rd fun x => (x.readG ra.toNat).sshiftRight (imm.toNat % 64))) ∧
    (Goes s p 0 { b with s := encI 0x17 rd (z ++ h) imm } → ∃ v : Pan → Dword,
      exec (.movk p b rd z h imm) s = .next (wroteG s p rd v) ∧
      ∀ (x : Pan) (i : Nat), i < 64 → (v x).getLsbD i =
        if 16 * h.toNat ≤ i ∧ i < 16 * h.toNat + 16 then imm.getLsbD (i - 16 * h.toNat)
        else (x.readG rd.toNat).getLsbD i))

/-- LDY reads Y[IMM16[2:0]]. LDS reads the logical pan, its group, the body index, the non-idle tides before this one
and the groups held, by code (R60, R62). -/
def Obligations.SpecialReads : Prop :=
  ∀ (s : State) (p : PanIx) (b : Bundle) (rd ra : Reg5) (imm : Half) (t : TenIx) (l : Fin 32),
    (Goes s p 0 { b with s := encI 0x1A rd ra imm } → exec (.ldy p b rd ra imm) s =
      .next (wroteG s p rd fun x => x.readY (imm.toNat % 8))) ∧
    (Goes s p 0 { b with s := encI 0x1B rd ra imm } → (panOf s p).tenant = some t → (panOf s p).lpan = some l →
      ∃ v : Pan → Dword, exec (.lds p b rd ra imm) s = .next (wroteG s p rd v) ∧
        v (panOf (fetchRow s p) p) =
          (match imm.toNat % 16 with
           | 0 => BitVec.ofNat 64 l.val
           | 1 => BitVec.ofNat 64 (l.val / 8)
           | 2 => BitVec.ofNat 64 (tenOf s t).body
           | 3 => (tenOf s t).tide - (tenOf s t).idle
           | 4 => BitVec.ofNat 64 (tenOf s t).groups
           | _ => 0))

/-- Conditional branches, J, JAL, JR and SNOP: the next bundle is the one after, or OFF bundles from the branch, or the
address in ra without its low four bits; JAL also leaves the address of the next bundle in rd (R59 to R61). -/
def Obligations.Branches : Prop :=
  ∀ (s : State) (p : PanIx) (b : Bundle) (rd ra rb : Reg5) (off : Half) (off26 z26 : BitVec 26) (z : BitVec 11)
    (yr : BitVec 3) (bit : BitVec 6) (sense : BitVec 1),
    (Goes s p 0 { b with s := encI 0x20 ra rb off } → exec (.beq p b ra rb off) s =
      .next (wentTo s p fun x =>
        if x.readG ra.toNat = x.readG rb.toNat then x.pc + off.signExtend 64 * 16 else x.pc + 16)) ∧
    (Goes s p 0 { b with s := encI 0x21 ra rb off } → exec (.bne p b ra rb off) s =
      .next (wentTo s p fun x =>
        if x.readG ra.toNat ≠ x.readG rb.toNat then x.pc + off.signExtend 64 * 16 else x.pc + 16)) ∧
    (Goes s p 0 { b with s := encI 0x22 ra rb off } → exec (.blt p b ra rb off) s =
      .next (wentTo s p fun x =>
        if (x.readG ra.toNat).toInt < (x.readG rb.toNat).toInt then x.pc + off.signExtend 64 * 16 else x.pc + 16)) ∧
    (Goes s p 0 { b with s := encI 0x23 ra rb off } → exec (.bge p b ra rb off) s =
      .next (wentTo s p fun x =>
        if (x.readG rb.toNat).toInt ≤ (x.readG ra.toNat).toInt then x.pc + off.signExtend 64 * 16 else x.pc + 16)) ∧
    (Goes s p 0 { b with s := encY 0x24 yr bit sense off } → exec (.branchY p b yr bit sense off) s =
      .next (wentTo s p fun x =>
        if (x.readY yr.toNat).getLsbD bit.toNat = decide (sense = 1) then x.pc + off.signExtend 64 * 16
        else x.pc + 16)) ∧
    (Goes s p 0 { b with s := encJ 0x25 off26 } → exec (.j p b off26) s =
      .next (wentTo s p fun x => x.pc + off26.signExtend 64 * 16)) ∧
    (Goes s p 0 { b with s := encI 0x26 rd ra off } → exec (.jal p b rd ra off) s =
      .next (modPan (fetchRow s p) p fun x =>
        (x.writeG rd.toNat (x.pc + 16)).after (x.pc + off.signExtend 64 * 16) false)) ∧
    (Goes s p 0 { b with s := encR 0x27 rd ra rb z } → exec (.jr p b rd ra rb z) s =
      .next (wentTo s p fun x => x.readG ra.toNat &&& ~~~(0xF#64))) ∧
    (Goes s p 0 { b with s := encJ 0x00 z26 } → exec (.snop p b z26) s = .next (wentTo s p fun x => x.pc + 16))

/-- LD, ST, VLD and VST as they issue. A load reads its words through the pan's own unwritten stores and waits to be returned;
a store waits for its bank. The addresses are ra + sext(IMM16) × 8 and G[GA] + IMM14 × 64, aligned; no register and no stored
word changes yet (R50, R60, R69, R70). The bank writes the oldest store, the return of a load writes its register, and a load
that met an uncorrectable word raises DATA_UE as a late trap without writing it (R58, R72, R73). The model's own choices: a
load reads as it issues, through the pan's unwritten stores (log entry 73), and the trap address of a late DATA_UE is the
load's (log entry 171). -/
def Obligations.LoadsAndStores : Prop :=
  (∀ (s : State) (p : PanIx) (b : Bundle) (rd ra : Reg5) (imm : Half) (size : BitVec 2) (imm14 : BitVec 14),
    (Goes s p 0 { b with s := encI 0x19 rd ra imm } → exec (.st p b rd ra imm) s =
      .next (modPan (fetchRow s p) p fun x =>
        Pan.after { x with stores := x.stores ++
          [{ quad := (ldAddr x ra imm).getLsbD 28, word := sramKey p x (ldAddr x ra imm),
             data := [x.readG rd.toNat] }] } (x.pc + 16) false)) ∧
    (Goes s p 3 { b with c := encVmem 0x02 rd ra size imm14 } → exec (.vst p b rd ra size imm14) s =
      .next (slotDid s p 3 { b with c := encVmem 0x02 rd ra size imm14 } fun x =>
        { x with stores := x.stores ++
          [{ quad := (vldAddr x ra imm14).getLsbD 28, word := sramKey p x (vldAddr x ra imm14),
             data := wordsOfBytes ((laneBytes (x.readV rd.toNat)).take (1024 / 2 ^ size.toNat)) }] })) ∧
    (Goes s p 0 { b with s := encI 0x18 rd ra imm } → ∃ t,
      exec (.ld p b rd ra imm) s = .next t ∧ t.mem = s.mem ∧ (panOf t p).pc = (panOf s p).pc + 16 ∧
      (panOf t p).g = (panOf s p).g ∧
      (panOf t p).loads = (panOf s p).loads ++
        [{ vector := false, reg := rd, addr := ldAddr (panOf s p) ra imm, pc := (panOf s p).pc,
           data := wordsOf (panRead s p (ldAddr (panOf s p) ra imm) 1),
           ue := (firstBad (panRead s p (ldAddr (panOf s p) ra imm) 1)).isSome }]) ∧
    (Goes s p 3 { b with c := encVmem 0x01 rd ra size imm14 } → ∃ t,
      exec (.vld p b rd ra size imm14) s = .next t ∧ t.mem = s.mem ∧ (panOf t p).v = (panOf s p).v ∧
      (panOf t p).g = (panOf s p).g ∧ (panOf t p).pc = (panOf s p).pc ∧
      (panOf t p).loads = (panOf s p).loads ++
        [{ vector := true, reg := rd, addr := vldAddr (panOf s p) ra imm14, pc := (panOf s p).pc,
           data := wordsOf (panRead s p (vldAddr (panOf s p) ra imm14) 128),
           ue := (firstBad (panRead s p (vldAddr (panOf s p) ra imm14) 128)).isSome }])) ∧
  (∀ (s : State) (p : PanIx) (k : Nat) (l : PanLoad) (st : PanStore) (rest : List PanStore),
    ((panOf s p).stores = st :: rest → exec (.storeWritten p) s =
      .next (modPan (writeWords s st.word st.data) p fun x => { x with stores := rest })) ∧
    ((panOf s p).mid = false → (panOf s p).loads[k]? = some l → l.ue = false → l.vector = false → exec (.loadReturn p k) s =
      .next (modPan s p fun x =>
        Pan.writeG { x with loads := x.loads.eraseIdx k } l.reg.toNat (l.data.headD 0))) ∧
    ((panOf s p).mid = false → (panOf s p).loads[k]? = some l → l.ue = false → l.vector = true → exec (.loadReturn p k) s =
      .next (modPan s p fun x =>
        Pan.writeV { x with loads := x.loads.eraseIdx k } l.reg.toNat (lanesOfBytes (bytesOfWords l.data)))) ∧
    ((panOf s p).mid = false → (panOf s p).loads[k]? = some l → l.ue = true → exec (.loadReturn p k) s =
      .next (trapPan (modPan s p fun x => { x with loads := x.loads.eraseIdx k }) p 4
        (if l.vector then 3 else 0) l.pc l.addr true)) ∧
    ((panOf s p).mid = true → exec (.loadReturn p k) s = .next s))

/-- ENDB, BRK under a debugger, the end of a body, PAUSE and STEP. ENDB stops issue; BRK with the debug range open pauses the
pan; the pan becomes ended when both engines are empty, every store is written, no copy, wait, gate or fence is outstanding,
and PAN_TIDE_BUSY takes its cycles (R63, R75, R77, R79). The model's own choices: a debugger is attached while the debug range
is open, and BRK then pauses with PC behind it (log entry 32); what STEP does (log entry 177). -/
def Obligations.EndAndPause : Prop :=
  ∀ (s : State) (p : PanIx) (b : Bundle) (z : BitVec 26),
    (Goes s p 0 { b with s := encJ 0x28 z } → exec (.endb p b z) s =
      .next (modPan (fetchRow s p) p fun x => Pan.after { x with endIssued := true } (x.pc + 16) false)) ∧
    (Goes s p 0 { b with s := encJ 0x29 z } → exec (.brk p b z) s =
      .next (modPan (fetchRow s p) p fun x => x.after (x.pc + 16) true)) ∧
    ((panOf s p).endIssued = true → ((panOf s p).state = .run ∨ (panOf s p).state = .stall) →
      (panOf s p).mq = [] → (panOf s p).eq = [] → (panOf s p).mfly = [] → (panOf s p).efly = [] →
      (panOf s p).stores = [] → (panOf s p).chan.cur = none → (panOf s p).chan.queue = [] →
      (panOf s p).wait = .none → (panOf s p).fence = none →
      exec (.panEnded p) s = .next (modPan s p fun x =>
        { x with state := .ended, busyLast := (panOf s p).cyclesAt s.tick,
                 busyMax := maxU (panOf s p).busyMax ((panOf s p).cyclesAt s.tick) })) ∧
    (s.dbg.open_ = true → (panOf s p).state = .run → (panOf s p).mid = false → exec (.panPause p true) s =
      .next (modPan s p fun x => { x with pauseReq := true, state := .paused })) ∧
    (s.dbg.open_ = true → (panOf s p).mid = true → exec (.panPause p true) s =
      .next (modPan s p fun x => { x with pauseReq := true })) ∧
    (s.dbg.open_ = true → (panOf s p).state = .paused → exec (.panPause p false) s =
      .next (modPan s p fun x => { x with pauseReq := false, state := .run })) ∧
    (s.dbg.open_ = true → (panOf s p).state = .paused → exec (.panStep p) s =
      .next (modPan s p fun x => { x with stepping := true })) ∧
    (s.dbg.open_ = false → exec (.panStep p) s = .next (dropBar0 s) ∧
      ∀ v, exec (.panPause p v) s = .next (dropBar0 s))

/-! ### Pans: the M, E and C slots and the engines -/

/-- MNOP, ENOP and CNOP have no effect of their own (R64, R68, R69). MFMT, MLDBT, MMV and MMT enter the M queue with
what their fields and G[GR] say; the array is not touched yet (R55, R64). -/
def Obligations.MatrixSlotsQueue : Prop :=
  (∀ (s : State) (p : PanIx) (b : Bundle) (z : BitVec 26),
    (Goes s p 1 { b with m := encJ 0x00 z } → exec (.mnop p b z) s = .next (slotDid s p 1 { b with m := encJ 0x00 z } id)) ∧
    (Goes s p 2 { b with e := encJ 0x00 z } → exec (.enop p b z) s = .next (slotDid s p 2 { b with e := encJ 0x00 z } id)) ∧
    (Goes s p 3 { b with c := encJ 0x00 z } → exec (.cnop p b z) s = .next (slotDid s p 3 { b with c := encJ 0x00 z } id))) ∧
  (∀ (s : State) (p : PanIx) (b : Bundle) (fa fb : BitVec 4) (sc ta td : BitVec 2) (gr va vd : Reg5) (n4 : BitVec 4)
    (n8 : BitVec 8) (acc out bs : BitVec 1) (z11 : BitVec 11) (z18 : BitVec 18) (z9 : BitVec 9) (z6 : BitVec 6),
    (Goes s p 1 { b with m := encMfmt fa fb sc gr z11 } → exec (.mfmt p b fa fb sc gr z11) s =
      .next (slotDid s p 1 { b with m := encMfmt fa fb sc gr z11 } fun x => { x with mq := x.mq ++
        [{ op := .mfmt fa fb sc gr, pc := x.pc, reads := (usesM (encMfmt fa fb sc gr z11)).reads,
           writes := (usesM (encMfmt fa fb sc gr z11)).writes }] })) ∧
    (Goes s p 1 { b with m := encMldbt ta gr bs z18 } → exec (.mldbt p b ta gr bs z18) s =
      .next (slotDid s p 1 { b with m := encMldbt ta gr bs z18 } fun x => { x with mq := x.mq ++
        [{ op := .mldbt ta ((x.readG gr.toNat).truncate 8) bs, pc := x.pc,
           reads := (usesM (encMldbt ta gr bs z18)).reads,
           writes := (usesM (encMldbt ta gr bs z18)).writes }] })) ∧
    (Goes s p 1 { b with m := encMmv va vd n4 acc out bs z9 } → exec (.mmv p b va vd n4 acc out bs z9) s =
      .next (slotDid s p 1 { b with m := encMmv va vd n4 acc out bs z9 } fun x => { x with mq := x.mq ++
        [{ op := .mmv va vd (n4.toNat + 1) (acc == 1) (out == 1) bs, pc := x.pc,
           reads := (usesM (encMmv va vd n4 acc out bs z9)).reads,
           writes := (usesM (encMmv va vd n4 acc out bs z9)).writes }] })) ∧
    (Goes s p 1 { b with m := encMmt gr ta td n8 acc out bs z6 } → exec (.mmt p b gr ta td n8 acc out bs z6) s =
      .next (slotDid s p 1 { b with m := encMmt gr ta td n8 acc out bs z6 } fun x => { x with mq := x.mq ++
        [{ op := .mmt ta td ((x.readG gr.toNat).truncate 8) ((x.readG gr.toNat >>> 8).truncate 8) (n8.toNat + 1)
             (acc == 1) (out == 1) bs,
           pc := x.pc, reads := (usesM (encMmt gr ta td n8 acc out bs z6)).reads,
           writes := (usesM (encMmt gr ta td n8 acc out bs z6)).writes }] })))

/-- MSCA, MLDB and ECWLD read pan SRAM as they issue and enter their queue with the bytes read; a piece outside the pan
partition, or a word that cannot be corrected, makes the entry carry the trap it will raise when it starts. No register and no
stored word changes (R64, R68, R70, R72, R73, R83); that they read as the bundle issues is the model's choice (log entry 73).
ERUN, ERUNT and EYCLR enter the E queue, ERUNT with the rows that G[GR] gives (R55, R68). -/
def Obligations.ElementAndMemoryOperandsQueue : Prop :=
  (∀ (s : State) (p : PanIx) (b : Bundle) (ga gt gc : Reg5) (rows : BitVec 7) (bs : BitVec 1) (z14 : BitVec 14)
    (z10 : BitVec 10) (cw cnt : BitVec 6) (z9 : BitVec 9),
    (∀ a n ws, (panOf s p).readG ga.toNat = a → 8 * (rows.toNat + 1) = n →
      panRead s p (alignDown a 3) ((a.toNat % 8 + n + 7) / 8) = ws →
      Goes s p 1 { b with m := encMsca ga rows z14 } → ∃ t scales bad,
      exec (.msca p b ga rows z14) s = .next t ∧ t.mem = s.mem ∧ (panOf t p).g = (panOf s p).g ∧
      (panOf t p).ascale = (panOf s p).ascale ∧
      (panOf t p).mq.map (·.op) = (panOf s p).mq.map (·.op) ++ [.msca (rows.toNat + 1) scales bad] ∧
      (outsidePan (panOf s p) a n = true → bad = some (a, false)) ∧
      (outsidePan (panOf s p) a n = false → scales = ((bytesOfWords (wordsOf ws)).drop (a.toNat % 8)).take n ∧
        ((∀ w ∈ ws, w.2.check ≠ .uncorrectable) → bad = none) ∧
        ((∃ w ∈ ws, w.2.check = .uncorrectable) → ∃ a', bad = some (a', true)))) ∧
    (∀ fa fb sc as, fmtAhead (panOf s p) = (fa, fb, sc) →
      tileAddrs ((panOf s p).readG ga.toNat) ((panOf s p).readG gt.toNat) (pairDepth fa fb) = as →
      Goes s p 1 { b with m := encMldb ga gt gc bs z10 } → ∃ t tile scales bad,
      exec (.mldb p b ga gt gc bs z10) s = .next t ∧ t.mem = s.mem ∧ (panOf t p).g = (panOf s p).g ∧
      (panOf t p).buf0 = (panOf s p).buf0 ∧ (panOf t p).buf1 = (panOf s p).buf1 ∧
      (panOf t p).mq.map (·.op) = (panOf s p).mq.map (·.op) ++ [.mldb bs tile scales bad] ∧
      ((∃ a ∈ as, outsidePan (panOf s p) a (bRowBytes fb) = true) → ∃ a ∈ as, bad = some (a, false)) ∧
      ((∀ a ∈ as, outsidePan (panOf s p) a (bRowBytes fb) = false) → (sc == 1 && scaledFmt fb) = false →
        tile = (as.flatMap fun a => (bytesOfWords (wordsOf (panRead s p a (bRowBytes fb / 8)))).take (bRowBytes fb)) ∧
        scales = [] ∧
        ((∀ a ∈ as, ∀ w ∈ panRead s p a (bRowBytes fb / 8), w.2.check ≠ .uncorrectable) → bad = none))) ∧
    (∀ a n ws, (panOf s p).readG ga.toNat = a → 64 * (cnt.toNat + 1) = n →
      panRead s p (alignDown a 3) ((a.toNat % 8 + n + 7) / 8) = ws →
      Goes s p 2 { b with e := encEcwld cw ga cnt z9 } → ∃ t entries bad,
      exec (.ecwld p b cw ga cnt z9) s = .next t ∧ t.mem = s.mem ∧ (panOf t p).g = (panOf s p).g ∧
      (panOf t p).cw = (panOf s p).cw ∧ (panOf t p).cwValid = (panOf s p).cwValid ∧
      (panOf t p).eq.map (·.op) = (panOf s p).eq.map (·.op) ++ [.ecwld cw entries bad] ∧
      (outsidePan (panOf s p) a n = true → bad = some (a, false)) ∧
      (outsidePan (panOf s p) a n = false →
        entries = groupsOf 64 64 (((bytesOfWords (wordsOf ws)).drop (a.toNat % 8)).take n) ∧
        ((∀ w ∈ ws, w.2.check ≠ .uncorrectable) → bad = none) ∧
        ((∃ w ∈ ws, w.2.check = .uncorrectable) → ∃ a', bad = some (a', true))))) ∧
  (∀ (s : State) (p : PanIx) (b : Bundle) (cwi : BitVec 6) (vs vd vb n gr : Reg5) (ts td : BitVec 2) (z6 : BitVec 6)
    (yr : BitVec 3) (z23 : BitVec 23),
    (Goes s p 2 { b with e := encErun cwi vs vd vb n } → exec (.erun p b cwi vs vd vb n) s =
      .next (slotDid s p 2 { b with e := encErun cwi vs vd vb n } fun x => { x with eq := x.eq ++
        [{ op := .erun cwi vs vd vb (n.toNat + 1), pc := x.pc,
           reads := (usesE (encErun cwi vs vd vb n)).reads ++ (chainUses x (encErun cwi vs vd vb n)).reads,
           writes := (usesE (encErun cwi vs vd vb n)).writes ++ (chainUses x (encErun cwi vs vd vb n)).writes }] })) ∧
    (Goes s p 2 { b with e := encErunt cwi ts td gr vb z6 } → exec (.erunt p b cwi ts td gr vb z6) s =
      .next (slotDid s p 2 { b with e := encErunt cwi ts td gr vb z6 } fun x => { x with eq := x.eq ++
        [{ op := .erunt cwi ts td ((x.readG gr.toNat).truncate 8) ((x.readG gr.toNat >>> 8).truncate 8)
             ((x.readG gr.toNat).toNat / 2 ^ 16 % 2 ^ 8 + 1) vb,
           pc := x.pc,
           reads := (usesE (encErunt cwi ts td gr vb z6)).reads ++ (chainUses x (encErunt cwi ts td gr vb z6)).reads,
           writes := (usesE (encErunt cwi ts td gr vb z6)).writes ++
             (chainUses x (encErunt cwi ts td gr vb z6)).writes }] })) ∧
    (Goes s p 2 { b with e := encEyclr yr z23 } → exec (.eyclr p b yr z23) s =
      .next (slotDid s p 2 { b with e := encEyclr yr z23 } fun x => { x with eq := x.eq ++
        [{ op := .eyclr yr, pc := x.pc, reads := [], writes := [32 + yr.toNat] }] })))

/-- From `s` to `u` a wait or arrival of a pan of tenant `t` has been dropped with an error code: nothing waits in the store,
the code is logged, and the tenant halts at its next boundary tick with it, unless an earlier cause stands (R306, R313). -/
def Sys2Proof.Machine.DroppedWait (s u : State) (p : PanIx) (t : TenIx) (code : Byte) : Prop :=
  u.sync = s.sync ∧ u.mem = s.mem ∧ (tenOf u t).haltCode.isSome = true ∧
    ((panOf s p).fetched = some (sramKey p (panOf s p) (panOf s p).rowAddr) →
      (tenOf u t).haltCode = some ((tenOf s t).haltCode.getD code) ∧
      (tabGet LogEntry.zero u.log.events s.log.evHead).code = code)

/-- CPY, FENCE, SIG, WAIT, WAITN and GATE of a pan bound to a tenant (R69, R182, R300, R307, R308, R311). A copy joins the
channel's queue, or is discarded behind a halted channel, which keeps it for the count; a fence holds issue with its scope, 0
as 0xF; a signal joins those in flight; a wait and a gate arrival stand in the pan's waiter slot. A wait on a tally of another
owner is dropped and logged with 0x80, and the pan's tenant halts at its next boundary tick; an arrival at a gate of another
owner, or whose MASK leaves the pan out, does the same with 0x84 (R306, R313). -/
def Obligations.SynchronisingSlots : Prop :=
  (∀ (s : State) (p : PanIx) (b : Bundle) (rd gt : Reg5) (sig : BitVec 1) (z3 : BitVec 3) (tly : BitVec 12)
    (z22 : BitVec 22) (scope inc z4 : BitVec 4) (z10 : BitVec 10) (z18 : BitVec 18) (g : Byte) (t : TenIx)
    (l : Fin 32),
    (Goes s p 3 { b with c := encCpy rd gt sig z3 tly } → exec (.cpy p b rd gt sig z3 tly) s =
      .next (slotDid s p 3 { b with c := encCpy rd gt sig z3 tly } fun x => { x with chan :=
        if x.chan.state = .halted then { x.chan with lost := x.chan.lost ++
          [{ gs := (x.readG rd.toNat).truncate 29, gd := (x.readG gt.toNat).truncate 29,
             sig := if sig = 1 then some (x.tally tly) else none }] }
        else { x.chan with queue := x.chan.queue ++
          [{ gs := (x.readG rd.toNat).truncate 29, gd := (x.readG gt.toNat).truncate 29,
             sig := if sig = 1 then some (x.tally tly) else none }] } })) ∧
    (Goes s p 3 { b with c := encFence z22 scope } → exec (.fence p b z22 scope) s =
      .next (slotDid s p 3 { b with c := encFence z22 scope } fun x => { x with fence := some (if scope = 0 then 0xF else scope) })) ∧
    ((panOf s p).tenant = some t → (panOf s p).lpan = some l →
      (Goes s p 3 { b with c := encSig z10 inc tly } → ∃ u, exec (.sig p b z10 inc tly) s = .next u ∧
        u.mem = s.mem ∧ u.sync = { s.sync with flight := s.sync.flight ++
          [{ tly := (panOf s p).tally tly, n := inc.toNat + 1, src := .pan l t }] }) ∧
      ((tallyOf s ((panOf s p).tally tly)).owner.toNat = t.val →
        (Goes s p 3 { b with c := encWait 0x06 rd gt z4 tly } → exec (.wait p b rd gt z4 tly) s =
          .next { slotDid s p 3 { b with c := encWait 0x06 rd gt z4 tly } fun x => { x with wait := .tally rd } with
            sync := { s.sync with waiters := s.sync.waiters ++
              [{ pan := p, tenant := t, lpan := l, tly := (panOf s p).tally tly, consuming := true, issue := s.tick,
                 expiry := if gt = 0 then none
                   else some (s.tick.toNat + ((panOf s p).readG gt.toNat).toNat) }] } }) ∧
        (Goes s p 3 { b with c := encWait 0x07 rd gt z4 tly } → exec (.waitn p b rd gt z4 tly) s =
          .next { slotDid s p 3 { b with c := encWait 0x07 rd gt z4 tly } fun x => { x with wait := .tally rd } with
            sync := { s.sync with waiters := s.sync.waiters ++
              [{ pan := p, tenant := t, lpan := l, tly := (panOf s p).tally tly, consuming := false, issue := s.tick,
                 expiry := if gt = 0 then none
                   else some (s.tick.toNat + ((panOf s p).readG gt.toNat).toNat) }] } })) ∧
      ((gateOf s ((panOf s p).gateIx g)).owner.toNat = t.val →
        (gateOf s ((panOf s p).gateIx g)).mask.getLsbD l.val = true →
        Goes s p 3 { b with c := encGate z18 g } → exec (.gate p b z18 g) s =
          .next { slotDid s p 3 { b with c := encGate z18 g } fun x => { x with wait := .gate } with
            sync := { s.sync with panArrive := s.sync.panArrive ++
              [{ pan := p, tenant := t, lpan := l, gate := (panOf s p).gateIx g, gen := 0, issue := s.tick }] } }))) ∧
  (∀ (s : State) (p : PanIx) (b : Bundle) (rd gt : Reg5) (z4 : BitVec 4) (tly : BitVec 12) (z18 : BitVec 18) (g : Byte)
    (t : TenIx),
    (panOf s p).tenant = some t →
      ((tallyOf s ((panOf s p).tally tly)).owner.toNat ≠ t.val →
        (Goes s p 3 { b with c := encWait 0x06 rd gt z4 tly } →
          ∃ u, exec (.wait p b rd gt z4 tly) s = .next u ∧ DroppedWait s u p t 0x80 ∧ (panOf u p).wait = .tally rd) ∧
        (Goes s p 3 { b with c := encWait 0x07 rd gt z4 tly } →
          ∃ u, exec (.waitn p b rd gt z4 tly) s = .next u ∧ DroppedWait s u p t 0x80 ∧ (panOf u p).wait = .tally rd)) ∧
      ((gateOf s ((panOf s p).gateIx g)).owner.toNat ≠ t.val ∨
          (∃ l, (panOf s p).lpan = some l ∧ (gateOf s ((panOf s p).gateIx g)).mask.getLsbD l.val = false) →
        Goes s p 3 { b with c := encGate z18 g } →
        ∃ u, exec (.gate p b z18 g) s = .next u ∧ DroppedWait s u p t 0x84 ∧ (panOf u p).wait = .gate))

/-- Entries of the A-scale store that one A row consumes: one to a tile of depth 256 and two to one of depth 512, where the A
format carries block scales under SC = 1 (R86, R90). -/
def Sys2Proof.Machine.scaleEntries (b : BBuf) : Nat :=
  if b.sc = 1 ∧ (b.fa = 3 ∨ b.fa = 4 ∨ b.fa = 5 ∨ b.fa = 6) then pairDepth b.fa.toNat b.fb.toNat / 256 else 0

/-- The bytes of `n` entries of the A-scale store from the read pointer on; an entry that was not loaded reads 0xFF (R86). -/
def Sys2Proof.Machine.scalesFrom (x : Pan) (n : Nat) : List Byte :=
  ((List.range n).map fun j =>
    if x.ascaleCount.toNat ≤ x.ascalePtr.toNat + j then List.replicate 8 (0xFF#8)
    else (x.ascale.drop (8 * (x.ascalePtr.toNat + j))).take 8).flatten

/-- The head of an engine's queue starts. MFMT takes the format state and, for SC = 2, both per-tensor scales from G[GS]; MSCA
starts its load once no load or stream uses the scale store; a load of a B buffer waits for the load before it and for the
streams that read its buffer, a stream for its buffer, the scale store and the array; an element operation takes the result
its operands give, and E_OP_START counts the cycles that no earlier operation covers; a read outside the partition or of an
uncorrectable word, and an invalid chain-table entry, are late traps of that slot (R57, R64, R65, R68, R72, R73, R86, R133). A
scale load that completes replaces the scale store and resets its read pointer, a load gives the buffer its tile, EYCLR clears
its Y register; nothing starts between the slots of a bundle, so that a late trap lets each of them take effect (R52, R72);
FENCE ends once every store and copy of the pan is done (R64, R65, R68, R86, R308). A stream takes its A scales from the
store's read pointer on, 0xFF beyond what was loaded, and moves the pointer (R86). The model's own choices: one stream at a
time and loads that wait (log entry 178), nothing starts between the slots of a bundle (log entry 182), and the trap address 0
of ILLEGAL (log entry 170). -/
def Obligations.EnginesStartAndComplete : Prop :=
  (∀ (s : State) (p : PanIx) (e : MEntry) (rest : List MEntry) (f : EEntry) (frest : List EEntry),
    ((panOf s p).mid = true → exec (.mOpStart p) s = .next s ∧ exec (.eOpStart p) s = .next s) ∧
    ((panOf s p).mid = false → (panOf s p).mq = e :: rest →
      (∀ fa fb sc gs, e.op = .mfmt fa fb sc gs → exec (.mOpStart p) s = .next (modPan s p fun x =>
        { x with fa := fa, fb := fb, sc := sc,
                 sa := if sc = 2 then (x.readG gs.toNat).truncate 32 else x.sa,
                 sb := if sc = 2 then (x.readG gs.toNat >>> 32).truncate 32 else x.sb,
                 mq := rest, mfly := x.mfly ++ [{ run := .fmt, writes := [] }] })) ∧
      (∀ rows scales bad, e.op = .msca rows scales bad → (panOf s p).mfly.any isScaleRun = true →
        exec (.mOpStart p) s = .next s) ∧
      (∀ rows scales, e.op = .msca rows scales none → (panOf s p).mfly.any isScaleRun = false →
        rowsEntering (panOf s p) s.tick = false → exec (.mOpStart p) s = .next (modPan s p fun x =>
          { x with mq := rest, mfly := x.mfly ++ [{ run := .scale rows scales, writes := [] }] })) ∧
      (∀ rows scales a ue, e.op = .msca rows scales (some (a, ue)) → (panOf s p).mfly.any isScaleRun = false →
        rowsEntering (panOf s p) s.tick = false →
        exec (.mOpStart p) s = .next (trapPan s p (if ue then 4 else 3) 1 e.pc a true)) ∧
      (∀ bs tile scales a ue, e.op = .mldb bs tile scales (some (a, ue)) → (panOf s p).mfly.any isLoadRun = false →
        ((panOf s p).buf bs).busy s.tick = false → exec (.mOpStart p) s =
        .next (trapPan s p (if ue then 4 else 3) 1 e.pc a true)) ∧
      (∀ bs, (∃ tile scales bad, e.op = .mldb bs tile scales bad) ∨ (∃ tb row, e.op = .mldbt tb row bs) →
        (panOf s p).mfly.any isLoadRun = true ∨ ((panOf s p).buf bs).busy s.tick = true → exec (.mOpStart p) s = .next s) ∧
      (∀ bs tile scales, e.op = .mldb bs tile scales none → (panOf s p).mfly.any isLoadRun = false →
        ((panOf s p).buf bs).busy s.tick = false → ∃ x nb, exec (.mOpStart p) s = .next (setPan s p x) ∧ x.mq = rest ∧
          (x.buf bs).loading = true ∧ (x.buf bs).loaded = false ∧
          x.mfly = (panOf s p).mfly ++ [{ run := .load bs nb, writes := e.writes }] ∧ nb.loaded = true ∧ nb.mldbt = false ∧
          nb.tile = tile ∧ nb.scales = scales ∧ nb.fa = (panOf s p).fa ∧ nb.fb = (panOf s p).fb ∧ nb.sc = (panOf s p).sc ∧
          x.acc = (panOf s p).acc ∧ x.v = (panOf s p).v ∧ x.t = (panOf s p).t) ∧
      (∀ tb row bs, e.op = .mldbt tb row bs → (panOf s p).mfly.any isLoadRun = false →
        ((panOf s p).buf bs).busy s.tick = false → ∃ x nb, exec (.mOpStart p) s = .next (setPan s p x) ∧ x.mq = rest ∧
          (x.buf bs).loading = true ∧ (x.buf bs).loaded = false ∧
          x.mfly = (panOf s p).mfly ++ [{ run := .load bs nb, writes := e.writes }] ∧ nb.loaded = true ∧ nb.mldbt = true ∧
          nb.tile = tileStream (panOf s p) tb row (panOf s p).fa.toNat (panOf s p).fb.toNat ∧ nb.scales = [] ∧
          x.acc = (panOf s p).acc ∧ x.v = (panOf s p).v ∧ x.t = (panOf s p).t) ∧
      (∀ bs, (∃ va vd n acc out, e.op = .mmv va vd n acc out bs) ∨ (∃ ta td sr dr n acc out, e.op = .mmt ta td sr dr n acc out bs) →
        ((panOf s p).buf bs).loaded = false ∨ (panOf s p).mfly.any isScaleRun = true ∨
          (panOf s p).buf0.busy s.tick = true ∨ (panOf s p).buf1.busy s.tick = true → exec (.mOpStart p) s = .next s) ∧
      (∀ bs w, (panOf s p).buf bs = w → w.loaded = true → (panOf s p).mfly.any isScaleRun = false →
        (panOf s p).buf0.busy s.tick = false → (panOf s p).buf1.busy s.tick = false →
        (∀ va vd n acc out asc, e.op = .mmv va vd n acc out bs → asc = scalesFrom (panOf s p) (scaleEntries w * n) →
          ∃ x, exec (.mOpStart p) s = .next (setPan s p x) ∧ x.mq = rest ∧
          x.ascalePtr = satAdd (panOf s p).ascalePtr (scaleEntries w * n) ∧ x.ascale = (panOf s p).ascale ∧
          (x.buf bs).reading = true ∧ x.mmaRows = (panOf s p).mmaRows + BitVec.ofNat 64 n ∧
          x.mfly = (panOf s p).mfly ++ [⟨.stream bs ((List.range n).map fun j =>
            (laneBytes ((panOf s p).readV ((va.toNat + j) % 32))).take (aRowBytes w.fa.toNat w.fb.toNat)) w asc (.vec vd) acc out,
            e.writes⟩] ∧ x.acc = (panOf s p).acc ∧ x.v = (panOf s p).v) ∧
        (∀ ta td sr dr n acc out asc, e.op = .mmt ta td sr dr n acc out bs → asc = scalesFrom (panOf s p) (scaleEntries w * n) →
          ∃ x, exec (.mOpStart p) s = .next (setPan s p x) ∧
          x.ascalePtr = satAdd (panOf s p).ascalePtr (scaleEntries w * n) ∧ x.ascale = (panOf s p).ascale ∧
          x.mq = rest ∧ (x.buf bs).reading = true ∧ x.mmaRows = (panOf s p).mmaRows + BitVec.ofNat 64 n ∧
          x.mfly = (panOf s p).mfly ++ [⟨.stream bs ((List.range n).map fun j =>
            (laneBytes ((panOf s p).readT ta.toNat ((sr.toNat + j) % 256))).take (aRowBytes w.fa.toNat w.fb.toNat)) w asc
            (.tile td dr) acc out, e.writes⟩] ∧ x.acc = (panOf s p).acc ∧ x.t = (panOf s p).t))) ∧
    ((panOf s p).mid = false → (panOf s p).eq = f :: frest →
      (∀ cwi, (∃ vs vd vb n, f.op = .erun cwi vs vd vb n) ∨ (∃ ts td sr dr n vb, f.op = .erunt cwi ts td sr dr n vb) →
        (panOf s p).cwValid.getLsbD cwi.toNat = false → exec (.eOpStart p) s = .next (trapPan s p 2 2 f.pc 0 true)) ∧
      (∀ cw es a ue, f.op = .ecwld cw es (some (a, ue)) →
        exec (.eOpStart p) s = .next (trapPan s p (if ue then 4 else 3) 2 f.pc a true)) ∧
      (∀ yr, f.op = .eyclr yr → exec (.eOpStart p) s = .next (modPan s p fun x =>
        { x with eq := frest,
                 efly := x.efly ++
                   [{ res := { v := [], t := [], y := some (yr, 0), cw := [], nan := 0, inf := 0, sat := 0, nanz := 0 },
                      writes := f.writes }] })) ∧
      (∀ cwi, (∃ vs vd vb n, f.op = .erun cwi vs vd vb n) ∨ (∃ ts td sr dr n vb, f.op = .erunt cwi ts td sr dr n vb) →
        (panOf s p).cwValid.getLsbD cwi.toNat = true →
        exec (.eOpStart p) s = .next (modPan s p fun x =>
          { countE x s.tick (eCycles x f.op) with
            eq := frest, efly := x.efly ++ [{ res := eResult x f.op, writes := f.writes }] })) ∧
      (∀ cw es, f.op = .ecwld cw es none → exec (.eOpStart p) s = .next (modPan s p fun x =>
        { x with eq := frest,
                 efly := x.efly ++
                   [{ res :=
                        { v := [], t := [], y := none,
                          cw := es.zipIdx.map fun e => ((cw.toNat + e.2) % 64, e.1, chainFormed e.1),
                          nan := 0, inf := 0, sat := 0, nanz := 0 },
                      writes := f.writes }] })))) ∧
  (∀ (s : State) (p : PanIx) (k : Nat) (m : MFly) (f : EFly) (frest : List EFly),
    (∀ rows scales, (panOf s p).mfly[k]? = some m → m.run = .scale rows scales → exec (.mOpComplete p k) s =
      .next (modPan s p fun x =>
        { x with mfly := x.mfly.eraseIdx k, ascale := scales, ascaleCount := BitVec.ofNat 8 rows, ascalePtr := 0 })) ∧
    ((panOf s p).mfly[k]? = none → exec (.mOpComplete p k) s = .next s) ∧
    (∀ bs nb, (panOf s p).mfly[k]? = some m → m.run = .load bs nb → ∃ x, exec (.mOpComplete p k) s = .next (setPan s p x) ∧
      x.mfly = (panOf s p).mfly.eraseIdx k ∧ (x.buf bs).tile = nb.tile ∧ (x.buf bs).scales = nb.scales ∧
      (x.buf bs).loaded = nb.loaded ∧ (x.buf bs).loading = nb.loading ∧ (x.buf bs).reading = ((panOf s p).buf bs).reading ∧
      x.acc = (panOf s p).acc ∧ x.ascale = (panOf s p).ascale) ∧
    ((panOf s p).mfly[k]? = some m → m.run = .fmt → exec (.mOpComplete p k) s =
      .next (modPan s p fun x => { x with mfly := x.mfly.eraseIdx k })) ∧
    (∀ yr, (panOf s p).efly = f :: frest →
      f.res = { v := [], t := [], y := some (yr, 0), cw := [], nan := 0, inf := 0, sat := 0, nanz := 0 } →
      exec (.eOpComplete p) s =
        .next (modPan s p fun x => { x with efly := frest, y := tabSet 0 x.y yr.toNat 0 })) ∧
    (∀ scope, (panOf s p).fence = some scope → (panOf s p).stores = [] → (panOf s p).chan.queue = [] →
      (panOf s p).chan.cur = none →
      exec (.fenceComplete p) s = .next (modPan s p fun x => { x with fence := none })) ∧
    (∀ scope, (panOf s p).fence = some scope → scope ≠ 0 → scope ≠ 1 → (panOf s p).stores ≠ [] →
      exec (.fenceComplete p) s = .next s))

/-! Helpers for what the engines compute, written from R82 to R96 and R110 to R121. -/

/-- Element k of an A row (R82, R91). -/
def Sys2Proof.Machine.elementA (b : BBuf) (row : List Byte) (k : Nat) : Ext :=
  fmtVal b.fa.toNat (b.sc == 1) (packedCode b.fa.toNat row k)

/-- Element B[k][n] of a loaded tile (R83, R84, R91). -/
def Sys2Proof.Machine.elementB (b : BBuf) (n k : Nat) : Ext :=
  fmtVal b.fb.toNat (b.sc == 1)
    (packedCode b.fb.toNat ((b.tile.drop (k * bRowBytes b.fb.toNat)).take (bRowBytes b.fb.toNat)) n)

/-- scale(m, n, b) of row i of a stream whose A rows consumed the scales `asc` (R84 to R86, R90, R93). -/
def Sys2Proof.Machine.factorAt (b : BBuf) (asc : List Byte) (i n blk : Nat) : Ext :=
  if b.sc = 0 ∨ b.sc = 3 then .fin false 1 0
  else if b.sc = 2 then (Ext.ofF32 b.sa).mul (Ext.ofF32 b.sb)
  else
    (if b.fa ∈ [3, 4, 5, 6] then e8m0 (asc.getD (8 * scaleEntries b * i + blk) 0xFF) else .fin false 1 0).mul
      (if b.fb ∈ [3, 4, 5, 6] ∧ b.mldbt = false then e8m0 (b.scales.getD (256 * blk + n) 0) else .fin false 1 0)

/-- acc after block `blk` of one output (R92, R94). -/
def Sys2Proof.Machine.blockAt (b : BBuf) (row asc : List Byte) (i n : Nat) (acc : Word) (blk : Nat) : Word :=
  if pairExact b.fa.toNat b.fb.toNat then
    rne32 ((Ext.ofF32 acc).add (((List.range 32).foldl
      (fun t k => t.add ((elementA b row (32 * blk + k)).mul (elementB b n (32 * blk + k)))) Ext.zero).mul (factorAt b asc i n blk)))
  else
    (List.range 32).foldl (fun a k => rne32 ((Ext.ofF32 a).add
      (((elementA b row (32 * blk + k)).mul (elementB b n (32 * blk + k))).mul (factorAt b asc i n blk)))) acc

/-- d[m][n] of one tile, continuing from `acc` (R92, R96). -/
def Sys2Proof.Machine.outputAt (b : BBuf) (row asc : List Byte) (i n : Nat) (acc : Word) : Word :=
  let d := (List.range (pairDepth b.fa.toNat b.fb.toNat / 32)).foldl (blockAt b row asc i n) acc
  if isZero32 d then 0 else if isNan32 d then 0x7FC00000 else d

/-- Lane i before the permutation of the last pass: the element unpacked, then the steps up to position 6 of that pass (R112,
R113). -/
def Sys2Proof.Machine.laneBefore (c : Chain) (g : Dword) (src bs : List Word) (i : Nat) : Lane256 :=
  (c.steps.take (if c.nstep ≤ 8 then 6 else 14)).foldl
    (fun l w => laneStep c g (bs.getD i 0) ((laneBytes (bs.take 2)).getD (i / 32) 0) w l)
    { x := rne32 (fmtVal c.ifmt false (packedCode c.ifmt (laneBytes src) i)), z := 0, p := false, m := decide (c.mlim ≤ i),
      sat := 0, nanz := 0, empty := false }

/-- Lane i after its last step (R112, R118, R119). -/
def Sys2Proof.Machine.laneAfter (c : Chain) (g : Dword) (src bs : List Word) (i : Nat) : Lane256 :=
  ((c.steps.drop (if c.nstep ≤ 8 then 6 else 14)).take 2).foldl
    (fun l w => laneStep c g (bs.getD i 0) ((laneBytes (bs.take 2)).getD (i / 32) 0) w l)
    (if c.pop = 0 then laneBefore c g src bs i
      else { laneBefore c g src bs i with
        x := match permSource c bs i with | some j => (laneBefore c g src bs j).x | none => c.fill })

/-- The fixed tree over 2^k lanes (R120). -/
def Sys2Proof.Machine.treeOver (op : Word → Word → Word) (v : Nat → Word) : Nat → Nat → Word
  | 0, i => v i
  | k + 1, i => op (treeOver op v k (2 * i)) (treeOver op v k (2 * i + 1))

/-- v_i of an active lane (R116). -/
def Sys2Proof.Machine.valueAt (c : Chain) (g : Dword) (src bs : List Word) (i : Nat) : Word :=
  if c.rout then (chainRow c g src bs).r else (laneAfter c g src bs i).x

/-- Element i of a packed result (R116, R117). -/
def Sys2Proof.Machine.convAt (c : Chain) (g : Dword) (src bs : List Word) (i : Nat) : Conv :=
  if c.vl ≤ i then convert c.ofmt (Ext.ofF32 c.fill)
  else if c.mxout then
    convert c.ofmt (mxElement c.ofmt
      (mxScale c.ofmt ((List.range (min 32 (c.vl - 32 * (i / 32)))).map fun k => valueAt c g src bs (32 * (i / 32) + k))).1
      (valueAt c g src bs i))
  else convert c.ofmt (Ext.ofF32 (valueAt c g src bs i))

/-- What register j of an ERUN yields: its source and B after every write of the earlier ones (R130). -/
def Sys2Proof.Machine.erunRow (x : Pan) (cwi : BitVec 6) (vs vd vb : Reg5) (j : Nat) : RowOut :=
  let c := decodeChain (entryOf x cwi)
  let y := (eResult x (.erun cwi vs vd vb j)).v.foldl (fun y w => y.writeV w.1 w.2) x
  chainRow c (x.readG c.gb) (y.readV ((vs.toNat + j) % 32)) (y.readV ((vb.toNat + j) % 32))

/-- What row j of an ERUNT yields; B is held for all rows (R68, R130). -/
def Sys2Proof.Machine.eruntRow (x : Pan) (cwi : BitVec 6) (ts td : BitVec 2) (sr dr : Byte) (vb : Reg5) (j : Nat) : RowOut :=
  let c := decodeChain (entryOf x cwi)
  let y := (eResult x (.erunt cwi ts td sr dr j vb)).t.foldl (fun y w => y.writeT 0 w.1 w.2) x
  chainRow c (x.readG c.gb) (y.readT ts.toNat ((sr.toNat + j) % 256)) (x.readV vb.toNat)

/-- Y[YR] after an operation whose rows yielded `os`, if it writes it (R121, R123). -/
def Sys2Proof.Machine.yAfter (x : Pan) (c : Chain) (os : List RowOut) : Option (BitVec 3 × Dword) :=
  if c.yw then
    some (BitVec.ofNat 3 c.yr, updateY (x.readY c.yr) ((os.map (·.sum)).foldl Summary.join Summary.none)
      (if c.rop = 0 then none
        else some (os.foldl (fun a o => reduceOp c.rop a o.r)
          (if c.cont then (x.readY c.yr).truncate 32 else reduceId c.rop))))
  else none

/-- What a stream of rows leaves (R67): row i of D continues from zero, from accumulator row i, or, for an MMT of more than 16
rows, from the row of TD it will overwrite; the finished rows stand in the accumulators unless more than 16 were streamed, and
go to VD or TD under OUT = 1; rows beyond the stream's keep their values. A stream or an element operation completes:
M_OP_COMPLETE of a stream gives the pan that the stream's rows leave, and E_OP_COMPLETE writes the result's registers, rows,
chain-table entries and Y (R66 to R68, R123). Every output follows the reference formula, block by block, on the exact or the
FP32 path, with the factor SC gives (R92 to R96). A step of the chain gives X, p, M and Z as the table of operations says
(R111), EXPD and SNORM by their conditions (R127, R128); a register's lanes run their steps around the permutation, are
reduced in the fixed tree, and are packed; the registers of one operation run one after another, each after the writes of the
earlier ones, and Y takes flags, count and the folded reduction (R112, R116 to R123, R130). The model's own choice: with WEN =
0 packing counts nothing (log entry 209). -/
def Obligations.StreamsAndResultsAreWritten : Prop :=
  (∀ (x : Pan) (rows : List (List Byte)) (b : BBuf) (asc : List Byte) (dst : MDest) (acc out : Bool),
    (∀ i, i < rows.length → rows.length ≤ 16 → ∀ j, j < 256 →
      tabGet 0 (endStream x rows b asc dst acc out).acc (256 * i + j) =
        ((streamRows x rows b asc dst acc).getD i []).getD j 0) ∧
    (∀ i, rows.length ≤ i → i < 16 → ∀ j, j < 256 →
      tabGet 0 (endStream x rows b asc dst acc out).acc (256 * i + j) = tabGet 0 x.acc (256 * i + j)) ∧
    (16 < rows.length → (endStream x rows b asc dst acc out).acc = x.acc) ∧
    (out = false → (endStream x rows b asc dst acc out).v = x.v ∧ (endStream x rows b asc dst acc out).t = x.t) ∧
    (acc = false → ∀ i, accStart x dst acc rows.length i = []) ∧
    (acc = true → ∀ td drow i, 16 < rows.length →
      accStart x (.tile td drow) acc rows.length i = x.readT td.toNat ((drow.toNat + i) % 256)) ∧
    (acc = true → ∀ i, rows.length ≤ 16 → accStart x dst acc rows.length i = tabRange 0 x.acc (256 * i) 256)) ∧
  (∀ (s : State) (p : PanIx) (k : Nat) (m : MFly) (f : EFly) (frest : List EFly),
    (∀ bs rows b asc dst acc out, (panOf s p).mfly[k]? = some m → m.run = .stream bs rows b asc dst acc out →
      ((panOf s p).mfly.take k).any isStreamRun = false →
      ∃ x, exec (.mOpComplete p k) s = .next (setPan s p x) ∧
        x.acc = (endStream (panOf s p) rows b asc dst acc out).acc ∧
        x.v = (endStream (panOf s p) rows b asc dst acc out).v ∧
        x.t = (endStream (panOf s p) rows b asc dst acc out).t ∧
        x.g = (panOf s p).g ∧ x.y = (panOf s p).y ∧ x.mfly = (panOf s p).mfly.eraseIdx k) ∧
    ((panOf s p).efly = f :: frest →
      ∃ x, exec (.eOpComplete p) s = .next (setPan s p x) ∧ x.g = (panOf s p).g ∧ x.acc = (panOf s p).acc ∧
        x.efly = frest ∧
        (f.res.v = [] → x.v = (panOf s p).v) ∧ (f.res.t = [] → x.t = (panOf s p).t) ∧
        (∀ r ls, f.res.v = [(r, ls)] → x.v = tabSetList 0 (panOf s p).v (256 * r) (ls.take 256)) ∧
        (∀ n v, f.res.y = some (n, v) → x.y = tabSet 0 (panOf s p).y n.toNat v) ∧
        (f.res.y = none → x.y = (panOf s p).y))) ∧
  (∀ (x : Pan) (rows : List (List Byte)) (b : BBuf) (asc : List Byte) (dst : MDest) (acc : Bool) (i n : Nat) (row : List Byte),
    rows[i]? = some row → n < 256 → b.tile.length = pairDepth b.fa.toNat b.fb.toNat * bRowBytes b.fb.toNat →
    ((streamRows x rows b asc dst acc).getD i []).getD n 0 =
      outputAt b row asc i n ((accStart x dst acc rows.length i).getD n 0)) ∧
  (∀ (c : Chain) (g : Dword) (b : Word) (sb : Byte) (l : Lane256) (op pc qc rc save w : Nat) (p q r : Word),
    op < 64 → pc < 8 → qc < 8 → rc < 8 → save < 2 → w = 1024 * op + 128 * pc + 16 * qc + 2 * rc + save →
    [l.x, l.z, b, g.truncate 32, (g >>> 32).truncate 32, c.i0, c.i1, c.i2].map canon32 =
        (List.range 8).map (operand c g b l) ∧
    (p = operand c g b l pc → q = operand c g b l qc → r = operand c g b l rc →
      (∀ v, (op, v) ∈ [(0x00, l.x), (0x01, p), (0x02, add32 p q), (0x03, sub32 p q), (0x04, mul32 p q), (0x05, fma32 p q r),
          (0x06, min32 p q), (0x07, max32 p q), (0x08, rne32 (Ext.ofF32 p).abs), (0x09, rne32 (Ext.ofF32 p).neg),
          (0x0A, if l.p then p else q), (0x18, exp2Word p), (0x19, log2Word p), (0x1A, rcpWord p), (0x1B, rsqWord p),
          (0x1C, tanhWord p), (0x1D, sigWord p), (0x1E, expdWord p q l.m),
          (0x11, rne32 (((Ext.ofF32 p).mul (e8m0 sb)).mul (.fin false 1 (if c.ifmt = 6 then -6 else 0))))] →
        laneStep c g b sb w l = { l with x := v, z := if save = 1 then v else l.z }) ∧
      (op = 0x10 → laneStep c g b sb w l =
        { l with x := rne32 (fmtVal rc false (convert rc (Ext.ofF32 p)).code),
                 z := if save = 1 then rne32 (fmtVal rc false (convert rc (Ext.ofF32 p)).code) else l.z,
                 sat := l.sat + (convert rc (Ext.ofF32 p)).sat.toNat, nanz := l.nanz + (convert rc (Ext.ofF32 p)).nanz.toNat }) ∧
      (op = 0x1F → ∀ v, (isNan32 p || isNan32 q) = false →
        v = (if isZero32 q then 0 else div32 p q) → laneStep c g b sb w l =
          { l with x := v, z := if save = 1 then v else l.z, empty := l.empty || isZero32 q }) ∧
      (op = 0x1F → (isNan32 p || isNan32 q) = true → laneStep c g b sb w l =
        { l with x := 0x7FC00000, z := if save = 1 then 0x7FC00000 else l.z }) ∧
      (∀ v, (op, v) ∈ [(0x20, eq32 p q), (0x21, !eq32 p q), (0x22, lt32 p q), (0x23, le32 p q), (0x24, !l.p)] →
        laneStep c g b sb w l = { l with p := v, z := if save = 1 then l.x else l.z }) ∧
      (op = 0x25 → laneStep c g b sb w l = { l with m := l.m || l.p, z := if save = 1 then l.x else l.z }))) ∧
  (∀ (p q : Word) (masked : Bool),
    (isNan32 q = true ∨ isNan32 p = true ∧ masked = false → expdWord p q masked = 0x7FC00000) ∧
    (isNan32 q = false → masked = true ∨ p = 0xFF800000 → expdWord p q masked = 0) ∧
    (isNan32 p = false → masked = false → p ≠ 0xFF800000 → q = 0x7F800000 →
      expdWord p q masked = if p = 0x7F800000 then 0x3F800000 else 0) ∧
    (isNan32 p = false → masked = false → q = 0xFF800000 → expdWord p q masked = 0) ∧
    (isNan32 p = false → isNan32 q = false → masked = false → p ≠ 0xFF800000 → q ≠ 0x7F800000 → q ≠ 0xFF800000 →
      expdWord p q masked = exp2Word (sub32 p q))) ∧
  (∀ (c : Chain) (g : Dword) (src bs : List Word) (o : RowOut), c.vl ≤ 256 → chainRow c g src bs = o →
    o.r = treeOver (reduceOp c.rop)
      (fun i => if c.vl ≤ i ∨ (laneAfter c g src bs i).m = true then reduceId c.rop else (laneAfter c g src bs i).x) 8 0 ∧
    (c.wen = false → o.image = none) ∧
    (c.wen = true → c.mxout = false → o.image = some (lanesOfBytes (padTo 0 1024 (packCodes c.ofmt
      ((List.range 256).map fun i => (convAt c g src bs i).code))))) ∧
    (c.wen = true → c.mxout = true → o.image = some (lanesOfBytes (listPatch (padTo 0 1024 (packCodes c.ofmt
      ((List.range 256).map fun i => (convAt c g src bs i).code))) 512 ((List.range 8).map fun k =>
        (mxScale c.ofmt ((List.range (min 32 (c.vl - 32 * k))).map fun j => valueAt c g src bs (32 * k + j))).2)))) ∧
    o.sum.prc = (if c.pop = 0 then 0 else ((List.range c.vl).filter fun i => (permSource c bs i).isNone).length) ∧
    o.sum.nans = ((List.range c.vl).filter fun i => isNan32 (valueAt c g src bs i)).length ∧
    o.sum.infs = ((List.range c.vl).filter fun i => isInf32 (valueAt c g src bs i)).length ∧
    o.sum.anyt = ((List.range c.vl).any fun i => (laneAfter c g src bs i).p) ∧
    o.sum.anyf = ((List.range c.vl).any fun i => !(laneAfter c g src bs i).p) ∧
    o.sum.empty = ((List.range c.vl).any fun i => (laneAfter c g src bs i).empty) ∧
    o.sum.sat = ((List.range c.vl).map fun i => (laneAfter c g src bs i).sat).sum +
      (if c.wen then ((List.range c.vl).filter fun i => (convAt c g src bs i).sat).length else 0) ∧
    o.sum.nanz = ((List.range c.vl).map fun i => (laneAfter c g src bs i).nanz).sum +
      (if c.wen then ((List.range c.vl).filter fun i => (convAt c g src bs i).nanz).length else 0)) ∧
  (∀ (c : Chain) (bs : List Word) (i j : Nat), i < c.vl →
    (c.pop = 1 → (permSource c bs i = some j ↔ j < c.vl ∧ (bs.getD i 0).toInt = j)) ∧
    (c.pop = 2 → permSource c bs i = some ((i + c.pimm) % c.vl)) ∧
    (c.pop = 3 → (permSource c bs i = some j ↔ j < c.vl ∧ j = i + c.pimm)) ∧
    (c.pop = 4 → (permSource c bs i = some j ↔ j + c.pimm = i)) ∧
    (c.pop = 5 → permSource c bs i = some (c.vl - 1 - i)) ∧
    (c.pop = 6 → (permSource c bs i = some j ↔ j < c.vl ∧ j = c.pimm)) ∧
    (c.pop = 7 → (permSource c bs i = some j ↔ j < c.vl ∧ j = i ^^^ c.pimm))) ∧
  (∀ (x : Pan) (cwi : BitVec 6) (vs vd vb : Reg5) (ts td : BitVec 2) (sr dr : Byte) (n : Nat) (c : Chain),
    c = decodeChain (entryOf x cwi) →
    (eResult x (.erun cwi vs vd vb 0)).v = [] ∧
    (eResult x (.erun cwi vs vd vb (n + 1))).v = (eResult x (.erun cwi vs vd vb n)).v ++
      ((erunRow x cwi vs vd vb n).image.map fun ls => ((vd.toNat + n) % 32, ls)).toList ∧
    (eResult x (.erun cwi vs vd vb n)).y = yAfter x c ((List.range n).map (erunRow x cwi vs vd vb)) ∧
    (eResult x (.erunt cwi ts td sr dr 0 vb)).t = [] ∧
    (eResult x (.erunt cwi ts td sr dr (n + 1) vb)).t = (eResult x (.erunt cwi ts td sr dr n vb)).t ++
      ((eruntRow x cwi ts td sr dr vb n).image.map fun ls => (256 * td.toNat + (dr.toNat + n) % 256, ls)).toList ∧
    (eResult x (.erunt cwi ts td sr dr n vb)).y = yAfter x c ((List.range n).map (eruntRow x cwi ts td sr dr vb))) ∧
  (∀ (y : Dword) (m : Summary) (acc : Option Word) (i : Nat) (w : Dword), updateY y m acc = w →
    w.truncate 32 = acc.getD (y.truncate 32) ∧
    bitsOf w.toNat 32 16 = min (bitsOf y.toNat 32 16 + m.prc) 0xFFFF ∧
    w.getLsbD 48 = (y.getLsbD 48 || m.empty) ∧
    w.getLsbD 49 = (y.getLsbD 49 || decide (0 < m.nans) || (acc.map isNan32).getD false) ∧
    w.getLsbD 50 = (y.getLsbD 50 || decide (0 < m.infs) || (acc.map isInf32).getD false) ∧
    w.getLsbD 51 = (y.getLsbD 51 || decide (0 < m.sat)) ∧
    w.getLsbD 52 = (y.getLsbD 52 || m.anyt) ∧
    w.getLsbD 53 = (y.getLsbD 53 || m.anyf) ∧
    w.getLsbD 54 = (y.getLsbD 54 || decide (0 < m.nanz)) ∧
    (55 ≤ i → w.getLsbD i = false))

/-- The pan copy channel. A copy that the rules of R149 refuse never starts: it leaves the channel idle with its code, no
stored word changed, and the tenant halts at the boundary tick; an accepted one moves its elements; a completed one frees the
channel, and its completion tally, if it names one, is signalled once, whatever copies wait behind it (R149, R150, R164,
R166). A halted channel starts nothing (R182). The model's own choices: a refusal is recorded as the copy would start (log
entry 76), CPY_BYTES counts whole bytes (log entry 191), and CPY_STAT reads ACTIVE only while a copy is in progress (log entry
216). -/
def Obligations.PanCopies : Prop :=
  ∀ (s : State) (p : PanIx) (t : TenIx) (l : Fin 32) (c : PanCopy) (rest : List PanCopy) (g : TlyIx),
    (panOf s p).tenant = some t → (panOf s p).lpan = some l →
    ((panOf s p).chan.cur = some c → c.sig = some g → (panOf s p).chan.state ≠ .halted →
      s.mir.role ≠ .primary →
      ∃ u, exec (.copyComplete p) s = .next u ∧
        u = sendSignal (freedChannel s p) { tly := g, n := 1, src := .panCopy l t } ∧
        u.sync = { s.sync with flight := s.sync.flight ++ [{ tly := g, n := 1, src := .panCopy l t }] } ∧
        u.mem = s.mem ∧ u.ten = s.ten ∧ u.log = s.log) ∧
    ((panOf s p).chan.cur = some c → c.sig = none → (panOf s p).chan.state ≠ .halted →
      s.mir.role ≠ .primary → exec (.copyComplete p) s = .next (freedChannel s p)) ∧
    ((panOf s p).chan.cur = none → (panOf s p).chan.queue = c :: rest → (panOf s p).chan.state = .halted →
      exec (.copyStart p) s = .next s) ∧
    ((panOf s p).chan.cur = none → (panOf s p).chan.queue = c :: rest → (panOf s p).chan.state ≠ .halted →
      (∀ w ∈ (readJob s p c).2.1 ++ (readJob s p c).2.2, w.2.check = .clean) →
      (∀ r, refuse (takenCopy s p c rest) false (some t) l (readJob s p c).1 { src := false, dst := false, list := false } =
          some r →
        ∃ u, exec (.copyStart p) s = .next u ∧ u.mem = s.mem ∧ (panOf u p).chan.cur = none ∧
          (panOf u p).chan.err = r.code ∧ (panOf u p).chan.queue = rest ∧
          (tenOf u t).haltCode = some ((tenOf s t).haltCode.getD r.code) ∧
          ((tenOf s t).haltCode = none → (tenOf u t).haltUnit = some l)) ∧
      (∀ m, refuse (takenCopy s p c rest) false (some t) l (readJob s p c).1 { src := false, dst := false, list := false } =
          none →
        (runCopy false l (readJob s p c).1 (Mover.start (takenCopy s p c rest) (some t) (.pan p))).1 = m →
        m.halt = none → m.blocked = false →
        exec (.copyStart p) s = .next (modPan m.s p fun x => { x with chan := { x.chan with
          ovlp := !squareTranspose (readJob s p c).1.src (readJob s p c).1.dst &&
            (readJob s p c).1.src != (readJob s p c).1.dst &&
            planesOverlap (takenCopy s p c rest) { sys := false, tenant := some t, lpan := l, dst := false } (readJob s p c).1,
          tswap := squareTranspose (readJob s p c).1.src (readJob s p c).1.dst,
          bytesNow := x.chan.bytesNow + BitVec.ofNat 64 (m.bits / 8), mirrored := m.wrote } })))

/-! ### Tallies, gates, waiters and snapshots -/

/-- A hand write with the CONFIRM value waits for step 1 of the next tick; any other is dropped and counted in REJECT.
SNAP requests a snapshot of the tick's end (R314, R317, R318). -/
def Obligations.HandWritesNeedConfirm : Prop :=
  ∀ (s : State) (confirm : Half) (t : TlyIx) (v : Word) (g : GateIx),
    (confirm = 0xA5C3 →
      exec (.tlyHandSet confirm t v) s =
        .next { s with sync := { s.sync with handBar0 := s.sync.handBar0 ++ [.tlySet t v] } } ∧
      exec (.tlyHandSignal confirm t v) s =
        .next { s with sync := { s.sync with handBar0 := s.sync.handBar0 ++ [.tlySig t v] } } ∧
      exec (.gateHandRelease confirm g) s =
        .next { s with sync := { s.sync with handBar0 := s.sync.handBar0 ++ [.gateRel g] } } ∧
      exec (.gateHandReset confirm g) s =
        .next { s with sync := { s.sync with handBar0 := s.sync.handBar0 ++ [.gateRst g] } }) ∧
    (confirm ≠ 0xA5C3 → ∀ c ∈ [Instr.tlyHandSet confirm t v, .tlyHandSignal confirm t v, .gateHandRelease confirm g,
        .gateHandReset confirm g],
      exec c s = .next { s with sync := { s.sync with handReject := satAdd s.sync.handReject 1 } }) ∧
    exec .snap s = .next { s with sync := { s.sync with snapReq := s.sync.snapReq ++ [.register] } }

/-- A signal adds its count to VALUE and touches no other tally. One that would raise VALUE above 0xFFFF_FFFF leaves it there
and logs ERR_TLY_SATURATE (0x81) with the tally number in two bytes, the source code and the source unit as the table of R301
gives them; TENANT is the tally's owner, or 0xFF where Rilef owns it. -/
def Obligations.SignalsAddAndSaturate : Prop :=
  ∀ (s : State) (t u : TlyIx) (n : Nat) (src : SigSource) (hand : Bool) (r : State) (e : LogEntry),
    addTally s t n src hand = r → tabGet LogEntry.zero r.log.events s.log.evHead = e →
    (tallyOf r t).owner = (tallyOf s t).owner ∧ (u ≠ t → tallyOf r u = tallyOf s u) ∧
    ((tallyOf s t).value.toNat + n ≤ 0xFFFFFFFF →
      (tallyOf r t).value.toNat = (tallyOf s t).value.toNat + n ∧ r.log = s.log) ∧
    (0xFFFFFFFF < (tallyOf s t).value.toNat + n →
      (tallyOf r t).value = 0xFFFFFFFF ∧ e.code = 0x81 ∧ e.detail.take 2 = leBytes 2 t.val ∧
      (∀ l o, src = .pan l o → e.detail[2]? = some 0 ∧ e.detail[3]? = some (BitVec.ofNat 8 l.val)) ∧
      (∀ l o, src = .panCopy l o → e.detail[2]? = some 1 ∧ e.detail[3]? = some (BitVec.ofNat 8 l.val)) ∧
      (∀ k o, src = .pond k o → e.detail[2]? = some 2 ∧ e.detail[3]? = some (BitVec.ofNat 8 k.val)) ∧
      (∀ c, src = .sys c → e.detail[2]? = some 3 ∧ e.detail[3]? = some (BitVec.ofNat 8 c.val)) ∧
      (∀ m, src = .mailbox m → e.detail[2]? = some 4 ∧ e.detail[3]? = some (BitVec.ofNat 8 m.val)) ∧
      (∀ p, src = .rdma p → e.detail[2]? = some 5 ∧ e.detail[3]? = some (BitVec.ofNat 8 p.val)) ∧
      (src = .mirror → e.detail[2]? = some 6 ∧ e.detail[3]? = some 0xFF) ∧
      (∀ c, src = .rilef c → e.detail[2]? = some 7 ∧ e.detail[3]? = some (BitVec.ofNat 8 c.val)) ∧
      (∀ fromTriyx, src = .hand fromTriyx → e.detail[2]? = some 8 ∧
        e.detail[3]? = some (if fromTriyx then 1 else 0)) ∧
      (∀ o : TenIx, (tallyOf s t).owner.toNat = o.val → e.tenant = BitVec.ofNat 8 o.val) ∧
      ((tallyOf s t).owner = 0x10 → e.tenant = 0xFF))

/-- A signal that reaches the store, the oldest of its queue first and once the store sees it, stands among those of the tick;
one whose word is poisoned is not applied, is logged with 0x90 and its instance, and halts the tenants of its quadrant or
stack (R329, R330, R337); one of a tenant's own work on a tally of another owner is dropped, and the tenant halts at its next
boundary tick with ERR_TLY_OWNER (R302, R306). One tick of the store with one signal in and nobody waiting: the signal is
added, the other tallies and the memory stand, and the timebase moves on by one unless the system reach is held (R302, R303,
R337, R416). -/
def Obligations.SignalsReachTheStore : Prop :=
  (∀ (s : State) (k : Nat) (g : Signal) (core : Fin 4) (t : TlyIx) (n : Nat) (bad : Bool),
    exec (.tallySignal (.rilef core t n)) s =
      .next { s with sync := { s.sync with arrived := s.sync.arrived ++ [{ tly := t, n := n, src := .rilef core }] } } ∧
    exec (.tallySignal (.mirror t n)) s =
      .next { s with sync := { s.sync with arrived := s.sync.arrived ++ [{ tly := t, n := n, src := .mirror }] } } ∧
    (s.sync.flight[k]? = some g → signalBehind s k g.src = true ∨ signalUnseen s g.src = true →
      exec (.tallySignal (.flight k bad)) s = .next s) ∧
    (∀ i, s.sync.flight[k]? = some g → signalBehind s k g.src = false → signalUnseen s g.src = false →
      signalQueue s g.src = some i → bad = true ∨ queuePoison s i 1 ≠ [] → ∃ u,
      exec (.tallySignal (.flight k bad)) s = .next u ∧ u.sync = { s.sync with flight := s.sync.flight.eraseIdx k } ∧
      u.mem = s.mem ∧ (∀ o ∈ signalTenants s g.src, (tenOf u o).haltCode.isSome = true) ∧
      (tabGet LogEntry.zero u.log.events s.log.evHead).code = 0x90 ∧
      (tabGet LogEntry.zero u.log.events s.log.evHead).detail.take 1 = [BitVec.ofNat 8 i]) ∧
    (s.sync.flight[k]? = some g → signalBehind s k g.src = false → signalUnseen s g.src = false → bad = false →
      (∀ i, signalQueue s g.src = some i → queuePoison s i 1 = []) →
      (∀ o, srcTenant g.src = some o → (tallyOf s g.tly).owner.toNat ≠ o.val → ∃ u,
        exec (.tallySignal (.flight k bad)) s = .next u ∧ u.sync.arrived = s.sync.arrived ∧
        u.sync.flight = s.sync.flight.eraseIdx k ∧ u.sync.tallies = s.sync.tallies ∧
        (tenOf u o).haltCode = some ((tenOf s o).haltCode.getD 0x80) ∧ u.log.evCount ≥ s.log.evCount) ∧
      ((srcTenant g.src = none ∨ ∃ o, srcTenant g.src = some o ∧ (tallyOf s g.tly).owner.toNat = o.val) →
        ∃ u, exec (.tallySignal (.flight k bad)) s = .next u ∧ u.sync = { s.sync with
          flight := s.sync.flight.eraseIdx k, arrived := s.sync.arrived ++ [g] } ∧ u.mem = s.mem ∧ u.pans = s.pans ∧
          u.ten = s.ten ∧ u.log = s.log ∧
          (∀ i, signalQueue s g.src = some i →
            u.host = (queueTake { s with sync := { s.sync with flight := s.sync.flight.eraseIdx k } } i 1).host) ∧
          (signalQueue s g.src = none → u.host = s.host)))) ∧
  (∀ (s : State) (g : Signal) (u : TlyIx) (tko : Bool) (ups : List (Nat × Nat)), Calm s →
    s.sync.arrived = [g] → s.sync.waiters = [] → s.sync.coreWaits = [] → s.sync.portArrive = [] → s.sync.panArrive = [] →
    s.sync.handBar0 = [] → s.sync.handTriyx = [] → s.sync.newPorts = [] → s.sync.snapReq = [] →
    ∃ t, exec (.syncStoreTick ⟨0, tko, [], ups⟩) s = .next t ∧ t.mem = s.mem ∧ t.pans = s.pans ∧ t.sync.arrived = [] ∧
      (tallyOf t g.tly).value.toNat = min ((tallyOf s g.tly).value.toNat + g.n) 0xFFFFFFFF ∧
      (u ≠ g.tly → tallyOf t u = tallyOf s u) ∧
      (s.rst.sysHeld = false → t.tick = s.tick + 1) ∧ (s.rst.sysHeld = true → t.tick = s.tick))

/-- Waiters of a tick. A consuming wait on a tally of 1 or more takes 1 and writes 1 to its register; of two consuming
waits on a tally of 1, the older (then the lower tenant, then the lower logical pan) is served, whatever order they
stand in; one still unsatisfied in its expiry tick writes 0 (R300, R302, R304). WAIT_TIMEOUT: in its expiry tick, with
the tick's signals in and the tally at 0, a wait completes with 0; earlier, or with signals still to add, it stands
(R302, R304). -/
def Obligations.WaitersAreServed : Prop :=
  (∀ (s : State) (w w1 w2 : Waiter) (rd : Reg5) (tko : Bool) (ups : List (Nat × Nat)), Calm s →
    s.sync.arrived = [] → s.sync.portArrive = [] → s.sync.panArrive = [] → s.sync.handBar0 = [] →
    s.sync.handTriyx = [] → s.sync.newPorts = [] → s.sync.snapReq = [] → s.sync.coreWaits = [] →
    (s.sync.waiters = [w] → (panOf s w.pan).wait = .tally rd → (tallyOf s w.tly).value ≠ 0 →
      ∃ t, exec (.syncStoreTick ⟨0, tko, [], ups⟩) s = .next t ∧ t.sync.waiters = [] ∧ (panOf t w.pan).wait = .none ∧
        (panOf t w.pan).g = ((panOf s w.pan).writeG rd.toNat 1).g ∧
        (tallyOf t w.tly).value = (if w.consuming then (tallyOf s w.tly).value - 1 else (tallyOf s w.tly).value)) ∧
    (s.sync.waiters = [w] → (panOf s w.pan).wait = .tally rd → (tallyOf s w.tly).value = 0 →
      (w.expiry = none → ∃ t, exec (.syncStoreTick ⟨0, tko, [], ups⟩) s = .next t ∧ t.sync.waiters = [w] ∧ t.pans = s.pans) ∧
      (∀ e, w.expiry = some e → e ≤ s.tick.toNat →
        ∃ t, exec (.syncStoreTick ⟨0, tko, [], ups⟩) s = .next t ∧ t.sync.waiters = [] ∧ (panOf t w.pan).wait = .none ∧
          (panOf t w.pan).g = ((panOf s w.pan).writeG rd.toNat 0).g)) ∧
    ((s.sync.waiters = [w1, w2] ∨ s.sync.waiters = [w2, w1]) → w1.tly = w2.tly → w1.consuming = true →
      w1.expiry = none → w2.consuming = true → w2.expiry = none → (tallyOf s w1.tly).value = 1 →
      waitOrder (.pan w1) < waitOrder (.pan w2) →
      ∃ t, exec (.syncStoreTick ⟨0, tko, [], ups⟩) s = .next t ∧ t.sync.waiters = [w2] ∧ (tallyOf t w1.tly).value = 0)) ∧
  (∀ (s : State) (p : PanIx) (w : Waiter) (e : Nat),
    s.sync.waiters.find? (fun v => v.pan == p) = some w → w.expiry = some e →
    (e ≤ s.tick.toNat → s.sync.arrived = [] → (tallyOf s w.tly).value = 0 →
      exec (.waitTimeout p) s = .next
        { modPan s w.pan (fun x => match x.wait with
            | .tally rd => { x.writeG rd.toNat 0 with wait := .none }
            | _ => x) with
          sync := { s.sync with waiters := s.sync.waiters.filter fun v => v.pan != p } }) ∧
    (s.tick.toNat < e → exec (.waitTimeout p) s = .next s) ∧
    (s.sync.arrived ≠ [] → exec (.waitTimeout p) s = .next s) ∧
    ((tallyOf s w.tly).value ≠ 0 → exec (.waitTimeout p) s = .next s))

/-- A release of a gate: GEN rises by 1, every count falls by 1 and a count of 0 stays 0, held arrivals are applied and HELD
clears, OWNER, MASK and PORTS stay, and every pan waiting in the gate completes; other gates stand (R311, R312). Step 1 of a
tick applies a hand operation: SET leaves the given value and SIGNAL adds it, and both mark the tally HAND, RELEASE releases
the gate, RESET raises GEN and clears every count and HELD bit; each counts in DONE (R317, R318, R321). A snapshot that
completes becomes the dump window as one unit, with the next number; a mailbox request copies it to the region that it names
and ends its command with that number, or with 0xA2 where there is no such region, or with ERR_COPY_UE at a word that cannot
be merged; one of Triyx answers its line with the 43,072 bytes (R314, R315, R321). The model's own choices: the 13 bytes of
DETAIL of ERR_TLY_HAND run over TENANT and TIDE (log entries 43 and 45), and what a copy that fails logs (log entry 208). -/
def Obligations.GatesAndHandOperations : Prop :=
  (∀ (s : State) (n m : GateIx),
    (gateOf (releaseGate s n.val) n).gen = (gateOf s n).gen + 1 ∧
    (gateOf (releaseGate s n.val) n).arr = 0 ∧ (gateOf (releaseGate s n.val) n).held = 0 ∧
    (∀ k, k < 4 → tabGet 0 (gateOf (releaseGate s n.val) n).pcnt k =
      tabGet 0 (gateOf s n).pcnt k - 1 + (if (gateOf s n).held.getLsbD k then 1 else 0)) ∧
    (gateOf (releaseGate s n.val) n).owner = (gateOf s n).owner ∧
    (gateOf (releaseGate s n.val) n).mask = (gateOf s n).mask ∧
    (gateOf (releaseGate s n.val) n).ports = (gateOf s n).ports ∧
    (m ≠ n → gateOf (releaseGate s n.val) m = gateOf s m) ∧
    (∀ w ∈ s.sync.gwaiters, w.gate = n → (panOf (releaseGate s n.val) w.pan).wait = .none) ∧
    (∀ w ∈ (releaseGate s n.val).sync.gwaiters, w.gate ≠ n)) ∧
  (∀ (s : State) (t : TlyIx) (v : Word) (g : GateIx) (triyx : Bool),
    (tallyOf (applyHand triyx s (.tlySet t v)) t).value = v ∧
    (tallyOf (applyHand triyx s (.tlySet t v)) t).hand = true ∧
    (tallyOf (applyHand triyx s (.tlySet t v)) t).owner = (tallyOf s t).owner ∧
    (applyHand triyx s (.tlySet t v)).sync.handDone = s.sync.handDone + 1 ∧
    (gateOf (applyHand triyx s (.gateRst g)) g).gen = (gateOf s g).gen + 1 ∧
    (gateOf (applyHand triyx s (.gateRst g)) g).arr = 0 ∧ (gateOf (applyHand triyx s (.gateRst g)) g).pcnt = [] ∧
    (gateOf (applyHand triyx s (.gateRst g)) g).held = 0 ∧
    (applyHand triyx s (.gateRst g)).sync.handDone = s.sync.handDone + 1 ∧
    (tallyOf (applyHand triyx s (.tlySig t v)) t).value.toNat = min ((tallyOf s t).value.toNat + v.toNat) 0xFFFFFFFF ∧
    (tallyOf (applyHand triyx s (.tlySig t v)) t).hand = true ∧
    (tallyOf (applyHand triyx s (.tlySig t v)) t).owner = (tallyOf s t).owner ∧
    (∀ u, u ≠ t → tallyOf (applyHand triyx s (.tlySig t v)) u = tallyOf s u ∧ tallyOf (applyHand triyx s (.tlySet t v)) u = tallyOf s u) ∧
    (applyHand triyx s (.tlySig t v)).sync.handDone = s.sync.handDone + 1 ∧
    ((gateOf (releaseGate s g.val) g).ready = false →
      gateOf (applyHand triyx s (.gateRel g)) g = gateOf (releaseGate s g.val) g ∧
      (applyHand triyx s (.gateRel g)).sync.gwaiters = (releaseGate s g.val).sync.gwaiters) ∧
    (applyHand triyx s (.gateRel g)).sync.handDone = s.sync.handDone + 1 ∧
    (tabGet LogEntry.zero (applyHand triyx s (.tlySet t v)).log.events s.log.evHead).code = 0x83 ∧
    ((tabGet LogEntry.zero (applyHand triyx s (.tlySet t v)).log.events s.log.evHead).detail =
        [if triyx then 1 else 0, 0] ++ leBytes 2 t.val ++ [0] ++ leBytes 4 (tallyOf s t).value.toNat ++
          leBytes 4 v.toNat)) ∧
  (∀ (s : State) (x : SnapShot) (rest : List (SnapFor × SnapShot)),
    (s.sync.snapTaken = (.register, x) :: rest → exec .snapshotComplete s = .next { s with sync :=
      { s.sync with snapTaken := rest, snaps := s.sync.snaps + 1, window := some x } }) ∧
    (s.sync.snapTaken = (.triyx, x) :: rest → ∃ t, exec .snapshotComplete s = .next t ∧
      t.sync = { s.sync with snapTaken := rest, snaps := s.sync.snaps + 1, window := some x } ∧
      t.svc.active = false ∧ t.svc.final = some { err := none, lines := 673, text := [] } ∧ t.mem = s.mem ∧
      linesSent (t.out.drop s.out.length) = ((groupsOf 64 43072 (snapImage x (s.sync.snaps + 1))).map fun l =>
        (groupsOf 4 64 l).map fun w => BitVec.ofNat 64 (leNat w))) ∧
    (∀ slot s1 v r bad, s.sync.snapTaken = (.mailbox slot, x) :: rest →
      s1 = { s with sync := { s.sync with snapTaken := rest, snaps := s.sync.snaps + 1, window := some x } } →
      regionView s1 none 0 (BitVec.ofNat 16 (fieldAt (acceptedOf s slot).image 0x10 2)) = some v →
      putRegion s1 v (fieldAt (acceptedOf s slot).image 0x18 8) (snapImage x (s.sync.snaps + 1)) = (r, bad) →
      (bad = false → exec .snapshotComplete s = .next (endBackground r slot 0 (leBytes 8 (s.sync.snaps + 1).toNat))) ∧
      (bad = true → exec .snapshotComplete s = .next (endBackground (logEvent r 0x40 [0xFF] none) slot 0x40 []))) ∧
    (∀ slot, s.sync.snapTaken = (.mailbox slot, x) :: rest →
      regionView { s with sync := { s.sync with snapTaken := rest, snaps := s.sync.snaps + 1, window := some x } } none 0
        (BitVec.ofNat 16 (fieldAt (acceptedOf s slot).image 0x10 2)) = none →
      exec .snapshotComplete s = .next (endBackground { s with sync :=
        { s.sync with snapTaken := rest, snaps := s.sync.snaps + 1, window := some x } } slot 0xA2 [])))

/-! ### System channels -/

/-- System channels. A request joins the channel's queue and wakes the channel, and with 16 outstanding, or with the queue
full, its producer stalls; the channel takes its oldest request, unless it is halted, stopped, disabled or under self-test; a
request whose word failed parity ends with 0x90, one whose descriptors name no bytes with its refusal code, and neither moves
an element; a completed one performs its completion action; RESTART returns a halted request with 0x40, whatever the lock of
the debug range; ENABLE = 0 stops an idle channel, which the host writes while that range is open; once SCH10 takes work
again, the mirror stream that waited for it goes out (R150, R161, R168, R183, R187, R337). An accepted request moves its
elements: exec answers the state of the mover's run with the counters of the list, the channel's bytes, and the request ended
with code 0 (R149, R153, R157, R168); while an access of it must wait, the request stays where it is and its banks are asked
(R213). The model's own choices: the NAK syndrome 0x63 of a message that ends with its channel (log entry 46), and CPY_SBYTES
in whole bytes (log entry 191). -/
def Obligations.SystemChannels : Prop :=
  (∀ (s : State) (n : SchIx) (r : SysReq) (rest : List SysReq) (t : TlyIx),
    ((schOf s n).pending < 16 → (queueOf s (20 + n.val)).full 16 = false → exec (.sysRequest n r) s =
      .next (emit (queueWrite (modSch s n fun c => { c with queue := c.queue ++ [r] }) (20 + n.val) [reqWords r]
        (if r.parityBad then some 0 else none)) [.wake (20 + n.val)])) ∧
    (16 ≤ (schOf s n).pending ∨ (queueOf s (20 + n.val)).full 16 = true → exec (.sysRequest n r) s = .next s) ∧
    ((schOf s n).cur = none → (schOf s n).queue = r :: rest →
      ((schOf s n).state = .halted ∨ (schOf s n).state = .stopped ∨ (schOf s n).enable = false ∨
        s.svc.test = some (.sch n) → exec (.sysRequestStart n) s = .next s) ∧
      ((schOf s n).state ≠ .halted → (schOf s n).state ≠ .stopped → (schOf s n).enable = true →
        s.svc.test ≠ some (.sch n) →
        (queuePoison s (20 + n.val) 1 ≠ [] → ∃ u, exec (.sysRequestStart n) s = .next u ∧ (schOf u n).cur = some r ∧
          (schOf u n).done = some 0x90 ∧ (schOf u n).err = 0x90 ∧ (schOf u n).queue = rest ∧ u.mem = s.mem) ∧
        (queuePoison s (20 + n.val) 1 = [] → ∀ s1 x, s1 = queueTake (modSch s n fun c =>
            { c with queue := rest, cur := some r, done := none, state := .active, mirrored := [] }) (20 + n.val) 1 →
          (readRequest s1 r).units = [] → (readRequest s1 r).host = false → (readRequest s1 r).bad = none →
          refuse s1 true r.tenant r.lpan (readRequest s1 r).job (readRequest s1 r).gone = some x →
          ∃ u, exec (.sysRequestStart n) s = .next u ∧ (schOf u n).done = some x.code ∧ (schOf u n).err = (if x.code = 0
            then (schOf s n).err else x.code) ∧ u.mem = s.mem))) ∧
    ((schOf s n).cur = some r → (schOf s n).done = some 0 → r.action = .tally t → s.mir.role ≠ .primary →
      exec (.sysRequestComplete n) s = .next (resumeSch { s with
        sch := (modSch s n SysChan.rested).sch,
        sync := { s.sync with flight := s.sync.flight ++ [{ tly := t, n := 1, src := .sys n }] } } n)) ∧
    (n.val ≠ 10 → resumeSch s n = s) ∧ (n.val = 10 → resumeSch s n = sendStream s []) ∧
    ((schOf s n).state = .halted → (schOf s n).cur = some r →
      (r.action = .none → exec (.cpyRestart n) s = .next (resumeSch (modSch s n SysChan.rested) n)) ∧
      (∀ port qp, r.action = .netAck port qp →
        exec (.cpyRestart n) s = .next (resumeSch
        (answerFrame (modQp (modSch s n SysChan.rested) port qp fun x => { x with state := .error }) port (.nak port qp 0x63)) n))) ∧
    (s.dbg.open_ = true → (schOf s n).state = .idle → exec (.cpyEnable n false) s =
      .next (resumeSch (modSch s n fun c => { c with enable := false, state := .stopped }) n)) ∧
    (s.dbg.open_ = true → (schOf s n).state = .stopped → exec (.cpyEnable n true) s =
      .next (resumeSch (modSch s n fun c => { c with enable := true, state := .idle }) n)) ∧
    ((schOf s n).state ≠ .halted → exec (.cpyRestart n) s = .next s) ∧
    (s.dbg.open_ = false → ∀ e, exec (.cpyEnable n e) s = .next (dropBar0 s))) ∧
  (∀ (s s1 : State) (n : SchIx) (r : SysReq) (rest : List SysReq) (m : Mover) (oor drop : Nat),
    (schOf s n).cur = none → (schOf s n).queue = r :: rest → (schOf s n).state ≠ .halted →
    (schOf s n).state ≠ .stopped → (schOf s n).enable = true → s.svc.test ≠ some (.sch n) →
    queuePoison s (20 + n.val) 1 = [] →
    s1 = queueTake (modSch s n fun c =>
      { c with queue := rest, cur := some r, done := none, state := .active, mirrored := [] }) (20 + n.val) 1 →
    ((readRequest s1 r).units.any (unitBlocked s1 (.sys n)) = true →
      exec (.sysRequestStart n) s = .next (askUnits s (.sys n) (readRequest s1 r).units)) ∧
    ((readRequest s1 r).units.any (unitBlocked s1 (.sys n)) = false →
    noteUnits s1 0x40 (readRequest s1 r).units r.tenant = s1 → (readRequest s1 r).host = false →
    (readRequest s1 r).bad = none →
    refuse s1 true r.tenant r.lpan (readRequest s1 r).job (readRequest s1 r).gone = none →
    runCopy true r.lpan (readRequest s1 r).job (Mover.start s1 r.tenant (.sys n)) = (m, oor, drop) →
    (m.blocked = true → exec (.sysRequestStart n) s = .next (m.wait s)) ∧
    (m.halt = none → m.hostFail = false → m.blocked = false →
    exec (.sysRequestStart n) s = .next (modSch (modSch (countList m.s r.tenant oor drop) n fun c =>
        { c with bytes := c.bytes + BitVec.ofNat 64 (m.bits / 8), mirrored := m.wrote }) n fun c =>
      { c with done := some 0 }))))

/-! ### Mailbox -/

/-- Rilef runs, and slot `n` holds the accepted command `img`, of opcode `op`, that has not ended yet. -/
def Sys2Proof.Machine.Holds (s : State) (n : MbxIx) (op : Nat) (img : List Byte) : Prop :=
  s.rst.coreHeld = false ∧ slotPending s n = true ∧ (acceptedOf s n).image = img ∧ fieldAt img 0 2 = op ∧ (acceptedOf s n).result = none

/-- Doorbells and acceptance. A doorbell of a slot still pending is dropped and logged as 0xA3; otherwise it joins its queue
of 64. Rilef accepts the oldest while HOST_RESPQ has room and no foreground command runs: HSEQ equal to HNEXT accepts the
slot's copy, sets its MBX_PEND bit and raises HNEXT; above it the response is 0xA1 and HNEXT stands; below it the command does
not run again: one still running is dropped, else its response comes back from the journal with its own DSEQ, and one that the
journal no longer holds is answered 0xA1 (R353, R354, R356). Every response takes the next DSEQ, stands in its slot and in the
journal at DSEQ mod 256, clears the slot's MBX_PEND bit, and commits one notice of DSEQ and slot to HOST_RESPQ; with the queue
full the notice waits instead (R326, R352, R354, R356). A background command that has ended is answered with the status and
result it ended with (R354). -/
def Obligations.MailboxAcceptsAndResponds : Prop :=
  (∀ (s : State) (slot : MbxIx) (img : List Byte),
    (slotPending s slot = true → exec (.mbxDoorbell slot) s = .next (logEvent s 0xA3 [BitVec.ofNat 8 slot.val] none)) ∧
    (slotPending s slot = false → s.rst.coreHeld = false → s.host.mbxq.full 64 = false → ∃ t,
      exec (.mbxDoorbell slot) s = .next t ∧ t.host.mbxq = s.host.mbxq.push 64 (BitVec.ofNat 64 slot.val) ∧
      t.host.slots = s.host.slots ∧ t.host.pend = s.host.pend ∧ t.mem = s.mem ∧ t.log = s.log) ∧
    (s.rst.fw = 1 → respqFull s = false → s.host.respWait = [] → foregroundBusy s = false →
      s.host.mbxq.empty = false → (s.host.mbxq.head 64).poisoned = false →
      (s.host.mbxq.head 64).word = BitVec.ofNat 64 slot.val → slotPending s slot = false → slotBytes s slot = img →
      (BitVec.ofNat 64 (fieldAt img 8 8) = s.host.hnext → knownOpcodes.contains (fieldAt img 0 2) = true →
        exec .mbxAccept s = .next { s with host := { s.host with
          mbxq := s.host.mbxq.pop 64, hnext := s.host.hnext + 1, pend := s.host.pend ||| ((1#64) <<< slot.val),
          accepted := tabSet Accepted.none s.host.accepted slot.val { image := img, result := none } } }) ∧
      (BitVec.ofNat 64 (fieldAt img 8 8) = s.host.hnext → knownOpcodes.contains (fieldAt img 0 2) = false →
        ∃ t, exec .mbxAccept s = .next t ∧ t.host.hnext = s.host.hnext + 1 ∧ t.host.dnext = s.host.dnext + 1 ∧
          t.host.slots = tabSetList 0 s.host.slots (64 * slot.val) (responseImage img 0xA0 s.host.dnext []) ∧
          t.host.mbxq = s.host.mbxq.pop 64) ∧
      (s.host.hnext.toNat < (BitVec.ofNat 64 (fieldAt img 8 8)).toNat →
        ∃ t, exec .mbxAccept s = .next t ∧ t.host.hnext = s.host.hnext ∧ t.host.dnext = s.host.dnext + 1 ∧
          t.host.slots = tabSetList 0 s.host.slots (64 * slot.val) (responseImage img 0xA1 s.host.dnext []) ∧
          t.host.mbxq = s.host.mbxq.pop 64) ∧
      ((BitVec.ofNat 64 (fieldAt img 8 8)).toNat < s.host.hnext.toNat →
        (∀ n : MbxIx, slotPending s n = true → fieldAt (acceptedOf s n).image 8 8 = fieldAt img 8 8 →
          exec .mbxAccept s = .next { s with host := { s.host with mbxq := s.host.mbxq.pop 64 } }) ∧
        ((∀ n : MbxIx, slotPending s n = true → fieldAt (acceptedOf s n).image 8 8 ≠ fieldAt img 8 8) →
          (∀ j r, j < 256 → tabGet [] s.host.journal j = r → r.length = 64 → fieldAt r 8 8 = fieldAt img 8 8 →
            fieldAt r 2 1 ≠ 0xA1 → (∀ i, i < j → fieldAt (tabGet [] s.host.journal i) 8 8 ≠ fieldAt img 8 8) →
            ∃ t, exec .mbxAccept s = .next t ∧ t.host.slots = tabSetList 0 s.host.slots (64 * slot.val) r ∧
              t.host.respq = s.host.respq.push 64 (fieldTo (fieldAt r 16 8 % 2 ^ 32) 6 ||| fieldTo slot.val 0) ∧
              t.host.hnext = s.host.hnext ∧ t.host.dnext = s.host.dnext ∧ t.host.journal = s.host.journal ∧
              t.host.mbxq = s.host.mbxq.pop 64 ∧ t.mem = s.mem ∧ t.ten = s.ten) ∧
          ((∀ j, j < 256 → fieldAt (tabGet [] s.host.journal j) 8 8 ≠ fieldAt img 8 8) →
            ∃ t, exec .mbxAccept s = .next t ∧ t.host.hnext = s.host.hnext ∧ t.host.dnext = s.host.dnext + 1 ∧
              t.host.slots = tabSetList 0 s.host.slots (64 * slot.val) (responseImage img 0xA1 s.host.dnext []) ∧
              t.host.mbxq = s.host.mbxq.pop 64)))) ∧
    (s.rst.fw ≠ 1 ∨ respqFull s = true → exec .mbxAccept s = .next s)) ∧
  (∀ (s : State) (slot : MbxIx) (status : Byte) (result : List Byte) (img : List Byte),
    img = responseImage (acceptedOf s slot).image status s.host.dnext result →
    (respond s slot status result).host.dnext = s.host.dnext + 1 ∧
    (respond s slot status result).host.slots = tabSetList 0 s.host.slots (64 * slot.val) img ∧
    (respond s slot status result).host.journal = tabSet [] s.host.journal (s.host.dnext.toNat % 256) img ∧
    (respond s slot status result).host.pend = s.host.pend &&& ~~~((1#64) <<< slot.val) ∧
    (respond s slot status result).host.hnext = s.host.hnext ∧
    (respqFull s = false → s.host.respWait = [] →
      (respond s slot status result).host.respq =
        s.host.respq.push 64 (fieldTo (s.host.dnext.toNat % 2 ^ 32) 6 ||| fieldTo slot.val 0)) ∧
    (respqFull s = true → (respond s slot status result).host.respq = s.host.respq ∧
      (respond s slot status result).host.respWait.length = s.host.respWait.length + 1) ∧
    (respond s slot status result).mem = s.mem ∧ (respond s slot status result).log = s.log ∧
    (respond s slot status result).sync = s.sync ∧
    ((acceptedOf s slot).result = some (status, result) → slotPending s slot = true → s.rst.coreHeld = false →
      exec (.mbxBackgroundComplete slot) s = .next (askReset (respond s slot status result) (acceptedOf s slot).image status) ∧
      (fieldAt (acceptedOf s slot).image 0 2 ≠ 0x41 → exec (.mbxBackgroundComplete slot) s = .next (respond s slot status result))))

/-- PING answers the timebase tick; CRASH_MODE sets the mode of the next host loss; RESET ends in the background, and once its
response is written asks the HOST source for the reach named; an argument outside its range is answered 0xA2 (R355, R419). -/
def Obligations.MailboxPingCrashReset : Prop :=
  ∀ (s : State) (slot : MbxIx) (img : List Byte),
    (Holds s slot 0x01 img → exec (.ping slot) s = .next (respond s slot 0 (leBytes 8 s.tick.toNat))) ∧
    (Holds s slot 0x40 img →
      (fieldAt img 0x10 1 ≤ 1 → exec (.crashMode slot) s =
        .next (respond { s with host := { s.host with crash := decide (fieldAt img 0x10 1 = 1) } } slot 0 [])) ∧
      (1 < fieldAt img 0x10 1 → exec (.crashMode slot) s = .next (respond s slot 0xA2 []))) ∧
    (Holds s slot 0x41 img →
      (fieldAt img 0x10 1 ≤ 1 → exec (.reset slot) s = .next (endBackground s slot 0 [])) ∧
      (1 < fieldAt img 0x10 1 → exec (.reset slot) s = .next (endBackground s slot 0xA2 []))) ∧
    (slotPending s slot = true → (acceptedOf s slot).image = img → fieldAt img 0 2 = 0x41 →
      (acceptedOf s slot).result = some (0, []) → ∃ u, exec (.mbxBackgroundComplete slot) s = .next u ∧
        slotPending u slot = false ∧ u.mem = s.mem ∧
        u.rst.hostPend = s.rst.hostPend ++ [if fieldAt img 0x10 1 = 0 then .core else .system])

/-- SIGNAL, GATE_PORTS, GATE_ARRIVE and SYNC_DUMP. A mailbox signal may name a tally of any owner but an unassigned one
(0x80); PORTS of an assigned gate without pans change in the next tick; an arrival is made on a port of a port gate,
and refused with 0xA2 on any other; a dump is requested once for its slot (R300, R306, R310, R314, R355). -/
def Obligations.MailboxSynchronisation : Prop :=
  ∀ (s : State) (slot : MbxIx) (img : List Byte) (t : TlyIx) (g : GateIx) (k : Fin 4) (n : Nat) (v : RegView),
    (Holds s slot 0x30 img → fieldAt img 0x10 2 = t.val → fieldAt img 0x12 2 = n →
      (n ≠ 0 → (tallyOf s t).owner ≠ 0x1F → exec (.signal slot) s = .next (respond { s with sync := { s.sync with
        flight := s.sync.flight ++ [{ tly := t, n := n, src := .mailbox slot }] } } slot 0 [])) ∧
      (n ≠ 0 → (tallyOf s t).owner = 0x1F → exec (.signal slot) s = .next (respond s slot 0x80 [])) ∧
      (n = 0 → exec (.signal slot) s = .next (respond s slot 0xA2 []))) ∧
    (Holds s slot 0x32 img → fieldAt img 0x10 1 = g.val →
      (fieldAt img 0x11 1 ≤ 15 → (gateOf s g).owner ≠ 0x1F → (gateOf s g).mask = 0 →
        exec (.gatePorts slot) s = .next (respond { s with sync := { s.sync with
          newPorts := s.sync.newPorts ++ [(g, BitVec.ofNat 4 (fieldAt img 0x11 1))] } } slot 0 [])) ∧
      ((gateOf s g).owner = 0x1F ∨ (gateOf s g).mask ≠ 0 →
        exec (.gatePorts slot) s = .next (respond s slot 0xA2 []))) ∧
    (Holds s slot 0x31 img → arrivalOut s slot = false → fieldAt img 0x10 1 = g.val → fieldAt img 0x11 1 = k.val →
      ((gateOf s g).owner ≠ 0x1F → (gateOf s g).mask = 0 → (gateOf s g).ports.getLsbD k.val = true →
        exec (.gateArrive slot) s = .next { s with sync := { s.sync with
          portArrive := s.sync.portArrive ++ [(g, k, .mailbox slot)] } }) ∧
      ((gateOf s g).owner = 0x1F ∨ (gateOf s g).mask ≠ 0 ∨ (gateOf s g).ports.getLsbD k.val = false →
        exec (.gateArrive slot) s = .next (endBackground s slot 0xA2 []))) ∧
    (Holds s slot 0x33 img → snapOut s slot = false →
      regionView s none 0 (BitVec.ofNat 16 (fieldAt img 0x10 2)) = some v →
      (dumpPlace v = true → fieldAt img 0x18 8 + 43072 ≤ v.limit → exec (.syncDump slot) s =
        .next { s with sync := { s.sync with snapReq := s.sync.snapReq ++ [.mailbox slot] } }) ∧
      (v.limit < fieldAt img 0x18 8 + 43072 → exec (.syncDump slot) s = .next (endBackground s slot 0xA2 [])))

/-- Lanes and regions by mailbox. BIND_LANE takes an unbound lane whose arguments name a region and a tally of its owner;
UNBIND_LANE frees a lane with nothing staged; STAGE and MAP_HOST give a free system region (R136, R345, R346, R355,
R364). -/
def Obligations.MailboxLanesAndRegions : Prop :=
  ∀ (s : State) (slot : MbxIx) (img : List Byte) (n : LaneIx) (t : TlyIx) (region : Half) (pl : Place),
    (Holds s slot 0x10 img → fieldAt img 0x10 1 = n.val → fieldAt img 0x14 4 = t.val →
      ((laneOf s n).valid = false → fieldAt img 0x11 1 ≤ 0x10 →
        laneRegionOk s (fieldAt img 0x11 1) (BitVec.ofNat 16 (fieldAt img 0x12 2)) = true →
        fieldAt img 0x20 8 ≤ 0x4000000 → (tallyOf s t).owner.toNat = fieldAt img 0x11 1 →
        exec (.bindLane slot) s = .next (respond (modLane s n fun l =>
          { l with valid := true, owner := BitVec.ofNat 5 (fieldAt img 0x11 1), tly := BitVec.ofNat 12 t.val,
                   region := BitVec.ofNat 16 (fieldAt img 0x12 2), off := BitVec.ofNat 64 (fieldAt img 0x18 8),
                   limit := BitVec.ofNat 64 (fieldAt img 0x20 8), staged := [], lost := false, bells := [] }) slot 0 [])) ∧
      ((laneOf s n).valid = true → exec (.bindLane slot) s = .next (respond s slot 0xA2 []))) ∧
    (Holds s slot 0x11 img → fieldAt img 0x10 1 = n.val →
      ((laneOf s n).valid = false → exec (.unbindLane slot) s = .next (respond s slot 0xA2 [])) ∧
      ((laneOf s n).valid = true → (laneOf s n).bells = [] → (laneOf s n).staged = [] →
        chanBusy s (laneChan n) = false → ∃ u, exec (.unbindLane slot) s = .next u ∧ (laneOf u n).valid = false ∧
          slotPending u slot = false ∧ u.mem = s.mem)) ∧
    (Holds s slot 0x02 img → fieldAt img 0x10 8 ≠ 0 → fieldAt img 0x10 8 ≤ freeDram s →
      regionFree s region = true → placeSound s pl = true → fieldAt img 0x10 8 ≤ placeBytes pl →
      (∀ u ∈ liveTenants s, clearOf [pl] ((tenOf s u).regions.map fun r => r.place) = true) →
      (∀ kv ∈ s.host.regions, placesClash pl kv.2.place = false) →
      exec (.stage slot region pl) s = .next (endBackground
        { s with
          host :=
          { s.host with
            regions := tabSet { limit := 0, place := .host 0 } s.host.regions region.toNat
              { limit := fieldAt img 0x10 8, place := pl } } } slot 0 (leBytes 2 region.toNat))) ∧
    (Holds s slot 0x23 img →
      (fieldAt img 0x20 8 = 0 → exec (.mapHost slot region) s = .next (respond s slot 0xA2 [])) ∧
      (fieldAt img 0x20 8 ≠ 0 → regionFree s region = true → exec (.mapHost slot region) s = .next (respond
        { s with
          host :=
          { s.host with
            regions := tabSet { limit := 0, place := .host 0 } s.host.regions region.toNat
              { limit := fieldAt img 0x20 8, place := .host (fieldAt img 0x18 8) } } } slot 0 (leBytes 2 region.toNat))))

/-! ### Host queues, ingest, attach and the link -/

/-- A read of HOST_RESPQ or HOST_EVQ takes the oldest word, with VALID and LAST set, POISON as its parity says and 61 bits
of payload; a read of an empty queue changes no pointer and answers 0, or all ones in compatibility mode (R333 to
R335). -/
def Obligations.QueueReads : Prop :=
  ∀ (s : State),
    (s.host.respq.empty = false → (s.host.respq.head 64).poisoned = false → s.host.respWait = [] →
      exec .hostRespqRead s = .next { s with
        host := { s.host with respq := { s.host.respq with rp := (s.host.respq.rp + 1) % 128 } },
        out := s.out ++ [.readData (((s.host.respq.head 64).word &&& 0x1FFFFFFFFFFFFFFF) ||| 0xA000000000000000)] }) ∧
    (s.host.respq.empty = true → exec .hostRespqRead s = .next { s with
      out := s.out ++ [.readData (if s.host.compat then 0xFFFFFFFFFFFFFFFF else 0)] }) ∧
    (s.host.evq.empty = false → (s.host.evq.head 256).poisoned = false → exec .hostEvqRead s = .next { s with
      host := { s.host with evq := { s.host.evq with rp := (s.host.evq.rp + 1) % 512 } },
      out := s.out ++ [.readData (((s.host.evq.head 256).word &&& 0x1FFFFFFFFFFFFFFF) ||| 0xA000000000000000)] }) ∧
    (s.host.evq.empty = true → exec .hostEvqRead s = .next { s with
      out := s.out ++ [.readData (if s.host.compat then 0xFFFFFFFFFFFFFFFF else 0)] }) ∧
    (s.host.evq.empty = false → (s.host.evq.head 256).poisoned = true → ∃ t, exec .hostEvqRead s = .next t ∧
      t.out.getLast? = some
        (.readData (((s.host.evq.head 256).word &&& 0x1FFFFFFFFFFFFFFF) ||| 0xE000000000000000)) ∧
      (tabGet QErr.reset t.host.qerr 1).par = satAdd (tabGet QErr.reset s.host.qerr 1).par 1)

/-- A flush takes effect at once where no packet is in progress: RP is set to CP, every committed word is discarded, and one flush
is counted. In the middle of a packet it is requested, and takes effect at the next packet boundary: the commit of the packet, or
its abandonment; QUEUE_FLUSH_EFFECT is the effect of one that is pending (R327, R331). -/
def Obligations.QueueFlushes : Prop :=
  (∀ s : State,
    (s.host.respq.wp = s.host.respq.cp → s.host.respWait = [] → exec .flushResp s = .next { s with host := { s.host with
      respq := s.host.respq.flush, qerr := tabModify QErr.reset s.host.qerr 0 fun x => { x with flush := x.flush + 1 } } }) ∧
    (s.host.evq.wp = s.host.evq.cp → exec .flushEv s = .next { s with host := { s.host with
      evq := s.host.evq.flush, qerr := tabModify QErr.reset s.host.qerr 1 fun x => { x with flush := x.flush + 1 } } }) ∧
    (s.host.respq.wp ≠ s.host.respq.cp →
      exec .flushResp s = .next { s with host := { s.host with respq := { s.host.respq with flushReq := true } } } ∧
      exec (.queueFlushEffect false) s = .next s) ∧
    (s.host.evq.wp ≠ s.host.evq.cp →
      exec .flushEv s = .next { s with host := { s.host with evq := { s.host.evq with flushReq := true } } } ∧
      exec (.queueFlushEffect true) s = .next s) ∧
    (s.host.evq.flushReq = true → s.host.evq.wp = s.host.evq.cp → exec (.queueFlushEffect true) s = .next { s with host :=
      { s.host with
        evq := s.host.evq.flush, qerr := tabModify QErr.reset s.host.qerr 1 fun x => { x with flush := x.flush + 1 } } }) ∧
    (s.host.respq.flushReq = true → s.host.respq.wp = s.host.respq.cp → s.host.respWait = [] →
      exec (.queueFlushEffect false) s = .next { s with host := { s.host with
        respq := s.host.respq.flush, qerr := tabModify QErr.reset s.host.qerr 0 fun x => { x with flush := x.flush + 1 } } })) ∧
  (∀ (q : Queue) (d : Nat) (w : Dword),
    q.flush.rp = q.cp ∧ q.flush.wp = q.wp ∧ q.flush.cp = q.cp ∧ q.flush.mem = q.mem ∧ q.flush.flushReq = false ∧
    (q.flushReq = true → (q.push d w).rp = (q.wp + 1) % (2 * d) ∧ (q.push d w).cp = (q.wp + 1) % (2 * d) ∧
      (q.push d w).flushReq = false ∧ q.abandon.wp = q.cp ∧ q.abandon.rp = q.cp ∧ q.abandon.flushReq = false) ∧
    (q.flushReq = false → (q.push d w).rp = q.rp ∧ (q.push d w).cp = (q.wp + 1) % (2 * d) ∧
      q.abandon = { q with wp := q.cp }))

/-- The ingest window. A byte at lane offset o is staged for region byte OFF + o; bytes beyond a lane's LIMIT are dropped and
counted, and every write and doorbell of an unbound lane; a host read of BAR2 answers zeros and is counted; a doorbell, served
once the bytes before it are in place, signals the lane's tally by 1, and staged bytes drain without one (R345 to R348, R350).
Nothing is staged or drained while the quadrant of the staging buffer is under self-test (R450). The model's own choice:
doorbells whose words a host loss has cleared are found by their flags (log entry 212). -/
def Obligations.IngestWindow : Prop :=
  ∀ (s : State) (lane : LaneIx) (off : BitVec 26) (data : List Byte) (token : Word) (n : Nat)
    (rest : List (Word × Nat)) (v : RegView),
    ((laneOf s lane).valid = true → laneView s (laneOf s lane) = some v →
      off.toNat + data.length ≤ (laneOf s lane).limit.toNat →
      (laneOf s lane).off.toNat + off.toNat + data.length ≤ v.limit →
      (laneOf s lane).staged.length + data.length ≤ 4194304 → laneTested s lane = false →
      exec (.ingestWrite lane off data) s = .next (modLane
        (stageBytes s lane ((laneOf s lane).stageAt + (laneOf s lane).staged.length) data) lane fun l =>
        { l with staged := l.staged ++ (List.range data.length).map fun i => l.off.toNat + (off.toNat + i) })) ∧
    ((laneOf s lane).valid = true → (laneOf s lane).limit.toNat ≤ off.toNat → data ≠ [] →
      (laneOf s lane).staged.length ≤ 4194304 → laneTested s lane = false → ∃ u,
      exec (.ingestWrite lane off data) s = .next u ∧ (laneOf u lane).staged = (laneOf s lane).staged ∧
      (laneOf u lane).oob = satAdd (laneOf s lane).oob data.length) ∧
    ((laneOf s lane).valid = false →
      (∃ u, exec (.ingestWrite lane off data) s = .next u ∧ (laneOf u lane).staged = (laneOf s lane).staged ∧
        (laneOf u lane).unbound = satAdd (laneOf s lane).unbound 1) ∧
      (∃ u, exec (.ingestDoorbell lane token) s = .next u ∧ (laneOf u lane).bells = (laneOf s lane).bells ∧
        (laneOf u lane).unbound = satAdd (laneOf s lane).unbound 1)) ∧
    exec (.bar2Read lane off) s = .next { s with
      host := { s.host with bar2Rd := satAdd s.host.bar2Rd 1 }, out := s.out ++ [.readData 0] } ∧
    ((laneOf s lane).valid = true → s.rst.coreHeld = false → (queueOf s 3).full 256 = false → ∃ u,
      exec (.ingestDoorbell lane token) s = .next u ∧
      (laneOf u lane).bells = (laneOf s lane).bells ++ [(token, (laneOf s lane).staged.length)] ∧
      (laneOf u lane).staged = (laneOf s lane).staged ∧ u.mem = s.mem) ∧
    ((laneOf s lane).valid = true → s.rst.coreHeld = true ∨ (queueOf s 3).full 256 = true →
      exec (.ingestDoorbell lane token) s = .next s) ∧
    ((laneOf s lane).staged = [] → (laneOf s lane).bells = [] → exec (.ingestDoorbellSignal ⟨lane, false⟩) s = .next s) ∧
    ((laneOf s lane).valid = true → laneTested s lane = true →
      exec (.ingestWrite lane off data) s = .next s ∧ exec (.ingestDoorbellSignal ⟨lane, false⟩) s = .next s) ∧
    ((laneOf s lane).bells = [] → (laneOf s lane).staged ≠ [] → chanBusy s (laneChan lane) = false → laneTested s lane = false →
      (∀ w, drainLane s lane (laneOf s lane).staged.length = .ok w → exec (.ingestDoorbellSignal ⟨lane, false⟩) s = .next w.1 ∧
        (laneOf w.1 lane).staged = [] ∧ (laneOf w.1 lane).done = (laneOf s lane).done) ∧
      (∀ m, drainLane s lane (laneOf s lane).staged.length = .error m →
        exec (.ingestDoorbellSignal ⟨lane, false⟩) s = .next (m.wait s))) ∧
    ((laneOf s lane).valid = true → (laneOf s lane).staged = [] → (laneOf s lane).lost = false → bellSeen s = true →
      (laneOf s lane).bells = (token, n) :: rest → chanBusy s (laneChan lane) = false → laneTested s lane = false → ∃ u,
        exec (.ingestDoorbellSignal ⟨lane, false⟩) s = .next u ∧
        (laneOf u lane).done = (laneOf s lane).done + 1 ∧ (laneOf u lane).token = token ∧
        (laneOf u lane).bells.length = rest.length ∧ u.mem = s.mem ∧
        u.sync.flight = s.sync.flight ++
          [{ tly := ⟨(laneOf s lane).tly.toNat, (laneOf s lane).tly.isLt⟩, n := 1, src := .sys (laneChan lane) }])

/-- The host link. A write of HOST_ATTACH without CONFIRM is dropped and counted; with it, a detached card attaches and one
that is quiescing remembers it. A link that trains shows its width, speed, flit and cache modes; a retrain is counted and
loses nothing; a loss drops the link, empties HOST_RESPQ and, in crash mode RESTART, detaches the card. A snoop is answered
RspIHitI, and a configuration request Retry Status until Rilef is ready (R341, R344, R364, R366, R367, R369, R436). The link
trains only with PERST# high, its domain released and no self-test of the PHY (R436, R450). The model's own choices: a write
of HOST_ATTACH without CONFIRM is dropped and counted (log entry 124), and Retry Status comes whenever Rilef does not run,
after a core reset too (log entry 120). -/
def Obligations.HostLinkEvents : Prop :=
  ∀ (s : State) (v addr : Dword) (k : LossKind) (width : Byte) (speed : BitVec 4) (flit cache : Bool) (off : BitVec 12),
    (v.toNat / 2 ^ 48 ≠ 0xA5C3 → exec (.hostAttach v) s = .next (dropBar0 s)) ∧
    (v.toNat / 2 ^ 48 = 0xA5C3 → v.getLsbD 0 = true →
      (s.host.attach = .detached → tabWf Ring.reset s.host.rings = true → ∃ t, exec (.hostAttach v) s = .next t ∧
        t.host.attach = .attached ∧ t.host.attachPend = false ∧ t.mem = s.mem ∧
        (s.mir.role = .fenced → t.host.rings = s.host.rings) ∧
        (s.mir.role ≠ .fenced → ∀ n, (ringOf s n).valid = true → (ringOf s n).state = .held → (ringOf t n).state = .run ∧
          (ringOf t n).sent = (ringOf s n).sent ∧
          (ringOf t n).next = (ringOf s n).head)) ∧
      (s.host.attach = .attached → s.mir.role ≠ .fenced → tabWf Ring.reset s.host.rings = true → ∃ t,
        exec (.hostAttach v) s = .next t ∧ t.mem = s.mem ∧ ∀ n, (ringOf s n).valid = true → (ringOf s n).state = .run →
          (ringOf s n).keep = true → (ringOf s n).flushing = none → (ringOf t n).next = (ringOf s n).head) ∧
      (s.host.attach = .quiescing → exec (.hostAttach v) s =
        .next { s with host := { s.host with attachPend := true } })) ∧
    exec .linkRetrain s = .next { s with host := { s.host with retrains := satAdd s.host.retrains 1 } } ∧
    exec (.snoop addr) s = .next { s with out := s.out ++ [.snoopResp] } ∧
    (linkFits width speed = false ∨ s.rst.perstLow = true ∨ s.rst.sysHeld = true ∨ s.svc.test = some .pcie →
      exec (.linkUp width speed flit cache) s = .next s) ∧
    (linkFits width speed = true → s.rst.perstLow = false → s.rst.sysHeld = false → s.svc.test ≠ some .pcie →
      s.host.respWait = [] → exec (.linkUp width speed flit cache) s = .next { s with host := { s.host with
      linkUp := true, width := width, speed := speed, flit := flit, cache := cache } }) ∧
    (∃ t, exec (.hostLoss k) s = .next t ∧ t.host.linkUp = false ∧ t.host.downs = satAdd s.host.downs 1 ∧
      t.host.hnext = s.host.hnext ∧ t.host.dnext = s.host.dnext ∧ t.mem = s.mem ∧
      (s.host.attach = .attached ∨ s.host.attach = .detached → s.host.respWait = [] →
        t.host.respq.count 64 = 0 ∧ t.host.mbxq.count 64 = 0) ∧
      (s.host.attach = .quiescing ∨ s.host.attach = .quiesced → t = linkLost s) ∧
      (s.host.crash = true → s.host.attach = .attached → t.host.attach = .detached) ∧
      (s.host.crash = false → s.host.attach = .attached → t.host.attach = .quiescing) ∧
      (s.host.attach = .quiesced → t.host.attach = .quiesced)) ∧
    (s.rst.fw ≠ 1 → exec (.configRequest off) s = .next { s with out := s.out ++ [.cfgRetry] }) ∧
    (s.rst.fw = 1 → ∃ w, exec (.configRequest off) s = .next { s with out := s.out ++ [.cfgData w] } ∧
      (off.toNat < 4 → w.toNat / 2 ^ 16 = 0x0880))

/-! ### Tides, slices, the placer -/

/-- Boundary ticks. A tenant that does not run is left alone. A tenant due to quiesce enters QUIESCED with its gear request
discarded; a unit still at work halts it and the tide stands still; otherwise the next tide begins, numbered one higher (the
first is 0), if it ends within the slice entry, and else the units stay idle. At a commit tick the requested gear is committed
and the running gear stays; while a clock change is on its way, a gear of another clock is not (R13, R20, R29, R43). Slices.
An entry with the same tenants follows without an interval, and the entry marked LAST ends the cycle, counts it and starts the
table again, or the new table that waits where no tenant is within a tide; other tenants make a turnover interval, in which
those that leave are SLICED OUT. At its end the arriving tenants run, anchored at this tick (R36 to R38). Neither comes within
a bundle (R52; log entry 182). The model's own choices: which tide still fits its entry (log entry 152), how an entry closes
(log entry 86), and a gear of another clock held back during a change (log entry 149). -/
def Obligations.TidesAndSlicesAdvance : Prop :=
  (∀ (s : State) (t : TenIx) (grow : List BlockPlace), Canon s →
    ((tenOf s t).state ≠ .running → exec (.boundaryTick t grow) s = .next s) ∧
    (bundleOpen s t = true → exec (.boundaryTick t grow) s = .next s) ∧
    ((tenOf s t).state = .running → (tenOf s t).haltCode = none → bundleOpen s t = false →
      ((tenOf s t).inTide = false → (tenOf s t).quiesceDue = true →
        ∃ u, exec (.boundaryTick t grow) s = .next u ∧ (tenOf u t).state = .quiesced ∧
          (tenOf u t).tide = (tenOf s t).tide ∧ (tenOf u t).nextGear = (tenOf s t).gear ∧
          (tenOf u t).commitGear = (tenOf s t).gear ∧ u.mem = s.mem) ∧
      ((tenOf s t).inTide = true → (tenOf s t).idleNow = false → lateSlot s t ≠ none →
        ∃ u, exec (.boundaryTick t grow) s = .next u ∧ (tenOf u t).state = .halted ∧ (tenOf u t).inTide = false ∧
          (tenOf u t).tide = (tenOf s t).tide ∧ (tenOf u t).nextGear = (tenOf s t).gear ∧ u.mem = s.mem) ∧
      (((tenOf s t).inTide = false ∨ (tenOf s t).idleNow = true ∨ lateSlot s t = none) → (tenOf s t).quiesceDue = false →
        (tideFits s t = true → ∃ u, exec (.boundaryTick t grow) s = .next u ∧ (tenOf u t).inTide = true ∧
          (tenOf u t).begun = true ∧
          (tenOf u t).tide = (if (tenOf s t).begun then (tenOf s t).tide + 1 else (tenOf s t).tide)) ∧
        (tideFits s t = false → ∃ u, exec (.boundaryTick t grow) s = .next u ∧ (tenOf u t).inTide = false ∧
          (tenOf u t).state = .running ∧ (tenOf u t).tide = (tenOf s t).tide))) ∧
    ((tenOf s t).state = .running ∨ (tenOf s t).state = .slicedOut →
      ((tenOf s t).shift = true → clockOf (tenOf s t) (tenOf s t).nextGear ≠ clockOf (tenOf s t) (tenOf s t).commitGear →
        exec (.commitTick t) s = .next s) ∧
      ((tenOf s t).shift = false ∨ clockOf (tenOf s t) (tenOf s t).nextGear = clockOf (tenOf s t) (tenOf s t).commitGear →
      ∃ u, exec (.commitTick t) s = .next u ∧ (tenOf u t).commitGear = (tenOf s t).nextGear ∧
        (tenOf u t).gear = (tenOf s t).gear ∧ (tenOf u t).tide = (tenOf s t).tide ∧ u.mem = s.mem ∧ u.pans = s.pans)) ∧
    ((tenOf s t).state ≠ .running → (tenOf s t).state ≠ .slicedOut → exec (.commitTick t) s = .next s)) ∧
  (∀ (s : State) (e e' : SliceEntry) (n : Nat) (tbl : List SliceEntry) (old new : Half), Canon s → s.slice.cur = n →
    (s.slice.table = [] → exec .sliceEntryEnd s = .next s) ∧
    (∀ t, bundleOpen s t = true → exec .sliceEntryEnd s = .next s) ∧
    (s.slice.table[n]? = some e → s.slice.turnover = false → (∀ t, bundleOpen s t = false) →
      old = e.mask &&& ~~~s.slice.barred → new = e'.mask &&& ~~~s.slice.barred →
      (e.last = false → s.slice.table[n + 1]? = some e' → new = old →
        exec .sliceEntryEnd s = .next { s with slice := { s.slice with cur := n + 1, begun := s.tick } }) ∧
      (e.last = true → (s.slice.next = none ∨ betweenTides s = false) → s.slice.table.head? = some e' → new = old →
        exec .sliceEntryEnd s = .next { s with
          slice := { s.slice with cur := 0, cycles := s.slice.cycles + 1, begun := s.tick } }) ∧
      (e.last = true → s.slice.next = some tbl → betweenTides s = true → tbl.head? = some e' → e'.mask = old →
        exec .sliceEntryEnd s = .next { s with slice := { s.slice with
          cur := 0, cycles := s.slice.cycles + 1, begun := s.tick, table := tbl, next := none, barred := 0 } }) ∧
      ((∀ t : TenIx, old.getLsbD t.val = true → (tenOf s t).inTide = false ∧ (tenOf s t).haltCode = none ∧
          (tenOf s t).quiesceDue = false) →
        (e.last = false → s.slice.table[n + 1]? = some e' → new ≠ old →
          ∃ u, exec .sliceEntryEnd s = .next u ∧ u.slice.turnover = true ∧ u.slice.cur = n + 1 ∧
            ∀ t : TenIx, old.getLsbD t.val = true → new.getLsbD t.val = false → (tenOf s t).state = .running →
              (tenOf u t).state = .slicedOut) ∧
        (e.last = true → s.slice.next = some tbl → betweenTides s = true → tbl.head? = some e' → e'.mask ≠ old →
          ∃ u, exec .sliceEntryEnd s = .next u ∧ u.slice = { s.slice with
              turnover := true, cur := 0, cycles := s.slice.cycles + 1, begun := s.tick, table := tbl, next := none, barred := 0 } ∧
            ∀ t : TenIx, old.getLsbD t.val = true → e'.mask.getLsbD t.val = false → (tenOf s t).state = .running →
              (tenOf u t).state = .slicedOut))) ∧
    (s.slice.turnover = true → exec .sliceEntryEnd s = .next s) ∧
    (s.slice.turnover = false → exec .turnoverEnd s = .next s) ∧
    (s.slice.turnover = true → s.slice.table[n]? = some e →
      ∃ u, exec .turnoverEnd s = .next u ∧ u.slice = { s.slice with turnover := false, begun := s.tick } ∧ u.mem = s.mem ∧
        u.pans = s.pans ∧ ∀ t : TenIx,
          ((e.mask &&& ~~~s.slice.barred).getLsbD t.val = true → (tenOf s t).state = .slicedOut →
            (tenOf u t).state = .running ∧ (tenOf u t).anchor = s.tick) ∧
          ((e.mask &&& ~~~s.slice.barred).getLsbD t.val = false → tenOf u t = tenOf s t)))

/-- Tenants come and go by mailbox. LOAD_IMAGE, once the unused spares are filled, reads the image in its region on a channel
of the placer, refuses it with the code of R34 or for want of room, and else binds a LOADED tenant that owns its tallies and
that runs in no entry of the table in force; UNLOAD leaves an EMPTY tenant; START sets the starting gear, tide 0 and an anchor
at the next multiple of 800 ticks, and quiesces at once a tenant whose entry does not run while a host loss or CRITICAL
quiesces; SET_WEIGHT takes 1 to 1,000 and hands Rilef's table over at the end of the cycle (R13, R34, R35, R38, R209, R289,
R299, R355, R395, R473). The model's own choices: the image is read before a pending fill, and a halt of the channel holds the
load as its request (log entry 207); the bytes received are those of the staging region up to its limit (log entry 167); no
unload falls within a bundle (log entry 182); the anchor is the first multiple of 800 after the current tick (log entry 135);
and what no rule names a code for is refused with 0x40 (log entry 80). -/
def Obligations.TenantCommands : Prop :=
  ∀ (s : State) (slot : MbxIx) (img : List Byte) (t : TenIx) (req : ImageReq) (b : Binding) (table : List SliceEntry)
    (v : RegView) (c : SchIx), Canon s →
    (Holds s slot 0x03 img → s.log.sparesFilled = false ∨ moveChan s = none →
      exec (.loadImage slot req b table) s = .next s) ∧
    (Holds s slot 0x03 img → s.log.sparesFilled = true → moveChan s = some c →
      (regionView s none 0 (BitVec.ofNat 16 (fieldAt img 0x10 2)) = none →
        exec (.loadImage slot req b table) s = .next (endBackground s slot 0xA2 [])) ∧
      (regionView s none 0 (BitVec.ofNat 16 (fieldAt img 0x10 2)) = some v →
        ∀ h rd : RegionRead, readRegion s v.view 0 (min v.limit 0x60) = h →
          readRegion s v.view 0 (min v.limit (max 0x60 (min v.limit (fieldAt h.bytes 8 8)))) = rd →
        (rd.units.any (unitBlocked s (.sys c)) = true →
          exec (.loadImage slot req b table) s = .next (askUnits s (.sys c) rd.units)) ∧
        ∀ s0 s1, (if rd.host then usedFree (readLines (noteUnits s 0x40 rd.units none) rd.lines) (rd.bytes.length + 1)
            else noteUnits s 0x40 rd.units none) = s0 →
          (if s0.rst.fillDue then fillDram s0 else s0) = s1 → rd.units.any (unitBlocked s (.sys c)) = false →
        (rd.host = true → hostReads s0 = false →
          exec (.loadImage slot req b table) s = .next (endBackground (logEvent s1 0xA9 [] none) slot 0xA9 [])) ∧
        (rd.host = false ∨ hostReads s0 = true → rd.bad = true ∨ h.bad = true →
          exec (.loadImage slot req b table) s = .next (endBackground s1 slot 0x40 [])) ∧
        (rd.host = false ∨ hostReads s0 = true → rd.bad = false → h.bad = false →
          (∀ code, imageRefusal s rd.bytes (readImage rd.bytes) v.limit = some code →
            exec (.loadImage slot req b table) s = .next (endBackground s1 slot code [])) ∧
          (imageRefusal s rd.bytes (readImage rd.bytes) v.limit = none →
            (∀ code d, streamRefusal (readImage rd.bytes) req = some (code, d) →
              exec (.loadImage slot req b table) s = .next (endBackground (logEvent s1 code d none) slot code [])) ∧
            (streamRefusal (readImage rd.bytes) req = none →
              (∀ n, fitImage (markSliced s1 table) (readImage rd.bytes) req (if slicedIn table b.tenant then saveArea else 0) = .short n →
                exec (.loadImage slot req b table) s =
                  .next (endBackground s1 slot 0xC0 (List.replicate 8 0 ++ leBytes 8 n))) ∧
              (∀ elig need budget,
                fitImage (markSliced s1 table) (readImage rd.bytes) req (if slicedIn table b.tenant then saveArea else 0) =
                  .ok elig need budget →
                bindSound (markSliced s1 table) req b need = true → Canon s1 →
                tableSound (setTen (freshSaved (markSliced s1 table) b.tenant) b.tenant
                  (loadedTenant (readImage rd.bytes) req b elig need budget (slicedIn table b.tenant))) table = true →
                (∀ x, (putInits (markSliced s1 table) b req.inits).2 = some x →
                  exec (.loadImage slot req b table) s = .next (haltSch (putInits (markSliced s1 table) b req.inits).1 c
                    (loadReq slot b.tenant (BitVec.ofNat 16 (fieldAt img 0x10 2))) x.1 x.2)) ∧
                ((putInits (markSliced s1 table) b req.inits).2 = none →
                ∃ u, exec (.loadImage slot req b table) s = .next (endBackground u slot 0 [BitVec.ofNat 8 b.tenant.val]) ∧
                  (tenOf u b.tenant).state = .loaded ∧ (tenOf u b.tenant).bind = b ∧ (tenOf u b.tenant).budget = budget ∧
                  (∀ i, i < req.tallies → tabGet Tally.reset u.sync.tallies (b.tlyBase + i) =
                    { value := 0, owner := BitVec.ofNat 5 b.tenant.val, hand := false }) ∧
                  (s.slice.table ≠ [] → entryRuns u b.tenant = false ∧ u.slice.next = some table) ∧
                  ∀ q : TenIx, q ≠ b.tenant → (tenOf u q).state = (tenOf s1 q).state))))))) ∧
    (Holds s slot 0x04 img → fieldAt img 0x10 1 = t.val →
      ((tenOf s t).state = .empty → exec (.unload slot table) s = .next (endBackground s slot 0xA2 [])) ∧
      ((tenOf s t).state ≠ .empty → bundleOpen s t = true → exec (.unload slot table) s = .next s) ∧
      ((tenOf s t).state ≠ .empty → bundleOpen s t = false → tableSound (retryDegraded (dropTenant s t)) table = true →
        (∀ p : PanIx, (panOf s p).tenant = some t → (panOf s p).lpan ≠ none) →
        ∃ u, exec (.unload slot table) s = .next (endBackground u slot 0 []) ∧ (tenOf u t).state = .empty ∧
          ∀ p : PanIx, (panOf u p).tenant ≠ some t)) ∧
    (Holds s slot 0x05 img → fieldAt img 0x10 1 = t.val →
      ((tenOf s t).state ≠ .loaded → exec (.start slot) s = .next (respond s slot 0xA2 [])) ∧
      (∀ g, (tenOf s t).state = .loaded → ((tenOf s t).streams.all fun x => x.ring.isSome) = true → s.mir.role ≠ .fenced →
        startGear s t = some (g, false) →
        ∃ u, exec (.start slot) s = .next (respond u slot 0 []) ∧ (tenOf u t).gear = g.gear ∧
          (tenOf u t).nextGear = g.gear ∧ (tenOf u t).tide = 0 ∧ (tenOf u t).idle = 0 ∧
          (tenOf u t).anchor = BitVec.ofNat 64 ((s.tick.toNat / 800 + 1) * 800) ∧
          (tenOf u t).state = (if entryRuns s t = true ∧ s.slice.turnover = false then .running
            else if (s.slice.turnover = false ∨ entryRuns s t = false) ∧ (s.host.attach = .quiescing ∨ s.host.attach = .quiesced ∨
              s.gov.critical = true ∨ (tenOf s t).quiesceFence = true) then .quiesced else .slicedOut) ∧
          u.mem = s.mem ∧ ∀ q : TenIx, q ≠ t → tenOf u q = tenOf s q)) ∧
    (Holds s slot 0x06 img → fieldAt img 0x10 1 = t.val →
      (fieldAt img 0x12 2 = 0 ∨ 1000 < fieldAt img 0x12 2 →
        exec (.setWeight slot table) s = .next (respond s slot 0xA2 [])) ∧
      ((tenOf s t).state ≠ .empty → 1 ≤ fieldAt img 0x12 2 → fieldAt img 0x12 2 ≤ 1000 → tableSound s table = true →
        s.slice.table ≠ [] → ∃ u, exec (.setWeight slot table) s = .next (respond u slot 0 []) ∧
          (tenOf u t).weight = BitVec.ofNat 16 (fieldAt img 0x12 2) ∧
          u.slice = { s.slice with next := some table } ∧ u.mem = s.mem ∧ u.pans = s.pans))

/-- Budgets, trims, queries, retirement, the power cap and the calendar by mailbox, and the end of a placement move. A budget
below what is placed is refused 0xA2, one beyond the free DRAM 0xC0 with the bytes missing; a trim keeps at least one block
and answers the tokens kept; the cap is 1,200 W to that of the option block; a placement move that is copied binds at the
next boundary tick (R393, R398, R400, R401, R404, R409, R412). -/
def Obligations.PlacerAndCapCommands : Prop :=
  ∀ (s : State) (slot : MbxIx) (img : List Byte) (t : TenIx) (p : PanIx) (k : Nat) (z : SeqSlot) (m : MoveWhat), Canon s →
    (Holds s slot 0xC1 img → fieldAt img 0x10 1 = t.val → (tenOf s t).state ≠ .empty → fieldAt img 0x11 1 ≤ 1 →
      (fieldAt img 0x18 8 < (tenOf s t).placed → exec (.plcBudget slot) s = .next (respond s slot 0xA2 [])) ∧
      ((tenOf s t).placed ≤ fieldAt img 0x18 8 →
        fieldAt img 0x18 8 ≤ (tenOf s t).heldUnits + freeDram s / max 1 (tenOf s t).unitBytes →
        exec (.plcBudget slot) s = .next (respond (modTen s t fun x =>
          { x with newBudget := some (fieldAt img 0x18 8, fieldAt img 0x20 8, decide (fieldAt img 0x11 1 = 1)) })
          slot 0 (leBytes 8 (fieldAt img 0x18 8)))) ∧
      ((tenOf s t).placed ≤ fieldAt img 0x18 8 →
        (tenOf s t).heldUnits + freeDram s / max 1 (tenOf s t).unitBytes < fieldAt img 0x18 8 →
        exec (.plcBudget slot) s = .next (respond s slot 0xC0 (List.replicate 8 0 ++
          leBytes 8 ((fieldAt img 0x18 8 - (tenOf s t).heldUnits) * (tenOf s t).unitBytes - freeDram s))))) ∧
    (Holds s slot 0xC2 img → fieldAt img 0x10 1 = t.val → fieldAt img 0x12 2 = k →
      ((tenOf s t).slots[k]? = none → exec (.plcTrim slot) s = .next (respond s slot 0xA2 [])) ∧
      ((tenOf s t).slots[k]? = some z → 0 < z.req.ptok → ∃ keep, exec (.plcTrim slot) s =
        .next (respond (modTen s t fun x => { x with trims := x.trims ++ [(k, keep)] }) slot 0
          (leBytes 8 (keep * z.req.ptok))) ∧
        keep = min z.blocks (max 1 ((fieldAt img 0x18 8 + z.req.ptok - 1) / z.req.ptok)))) ∧
    (Holds s slot 0xC4 img → fieldAt img 0x10 1 = 1 →
      (fieldAt img 0x11 1 = p.val → ∃ u, exec (.plcRetire slot) s = .next (respond u slot 0 []) ∧
        (panOf u p).retired = true ∧ u.mem = s.mem) ∧
      (36 ≤ fieldAt img 0x11 1 → exec (.plcRetire slot) s = .next (respond s slot 0xA2 []))) ∧
    (Holds s slot 0xC5 img → exec (.plcQuery slot) s = .next (respond s slot 0 (leBytes 8 (freeDram s) ++
      leBytes 8 s.plc.growLeft ++ (List.finRange 4).map fun q => BitVec.ofNat 8 (usablePans s q)))) ∧
    (Holds s slot 0xC0 img →
      (1200 ≤ fieldAt img 0x10 2 → fieldAt img 0x10 2 ≤ s.gov.optCap.toNat → exec (.govSetCap slot) s = .next
        (respond { s with gov := { s.gov with cap := BitVec.ofNat 16 (fieldAt img 0x10 2) } } slot 0 [])) ∧
      (fieldAt img 0x10 2 < 1200 ∨ s.gov.optCap.toNat < fieldAt img 0x10 2 →
        exec (.govSetCap slot) s = .next (respond s slot 0xA2 []))) ∧
    (Holds s slot 0xC3 img →
      (fieldAt img 0x20 2 ≤ 32767 → fieldAt img 0x18 8 < 2 ^ 49 → ∃ u, exec (.calSet slot) s =
        .next (respond u slot 0 []) ∧ u.cal.sec.toNat = fieldAt img 0x18 8 ∧ u.cal.frac.toNat = fieldAt img 0x20 2 ∧
        u.cal.valid = true ∧ u.tick = s.tick) ∧
      (32767 < fieldAt img 0x20 2 → exec (.calSet slot) s = .next (respond s slot 0xA2 []))) ∧
    (∀ c w, moveOwners s m = [t] → moveReady s t = true → moveChan s = some c → copyMove s c t m = some (w, true) →
      ∃ u, exec (.placementMoveComplete t m) s = .next u ∧
        (∀ y ∈ (tenOf u t).moves, y.what = m → y.copied = true) ∧ (tenOf u t).bind = (tenOf w t).bind ∧ u.mem = w.mem ∧
        u.sch = w.sch) ∧
    (∀ c w, moveOwners s m = [t] → moveReady s t = true → moveChan s = some c → copyMove s c t m = some (w, false) →
      exec (.placementMoveComplete t m) s = .next w) ∧
    (moveOwners s m = [t] → moveReady s t = true → moveChan s = none → exec (.placementMoveComplete t m) s = .next s) ∧
    ((moveOwners s m).contains t = false → exec (.placementMoveComplete t m) s = .next s)

/-! ### Harvest -/

/-- Harvest streams and their rings. Rilef consumes the stream's tally, numbers the record and writes it to the replay store;
the ring writes records behind HRV_SENT and then its flag, or waits for the flush read where it has one, and a flush read that
fails leaves it in ERROR; a HEAD between HEAD and SENT frees records and any other is dropped and counted; BIND_RING answers
the next SEQ, UNBIND_RING empties the ring, REPLAY_RING resends from FROM (R355, R357 to R361, R363, R365). Which pieces of
the replay store a record takes is the model's choice (log entry 153). -/
def Obligations.HarvestRings : Prop :=
  ∀ (s : State) (slot : MbxIx) (img : List Byte) (t : TenIx) (n : RingIx) (st : Nat) (g : TlyIx) (head q : Dword),
    Canon s →
    (Holds s slot 0x20 img → fieldAt img 0x10 1 = n.val → fieldAt img 0x11 1 = t.val → fieldAt img 0x12 1 = st →
      4 ≤ fieldAt img 0x13 1 → fieldAt img 0x13 1 ≤ 16 → fieldAt img 0x14 1 ≤ 3 → (tenOf s t).state ≠ .empty →
      st < (tenOf s t).streams.length → (streamOf s t st).ring = none → (ringOf s n).valid = false →
      ∃ u, exec (.bindRing slot) s = .next (respond u slot 0 (leBytes 8 ((streamOf u t st).made + 1).toNat)) ∧
        (streamOf u t st).ring = some n ∧ (ringOf u n).valid = true ∧ (ringOf u n).tenant = t ∧
        (ringOf u n).base = BitVec.ofNat 64 (fieldAt img 0x18 8) ∧ (ringOf u n).flag = BitVec.ofNat 64 (fieldAt img 0x20 8) ∧
        (ringOf u n).state = (if s.host.attach = .attached ∧ s.mir.role ≠ .fenced then .run else .held) ∧
        (ringOf u n).sent = (ringOf u n).head ∧ (ringOf u n).next = (ringOf u n).head ∧
        (fieldAt img 0x14 1 < 2 → (streamOf u t st).made = 0 ∧ (streamOf u t st).held = [])) ∧
    (Holds s slot 0x21 img → fieldAt img 0x10 1 = n.val →
      ((ringOf s n).valid = false → exec (.unbindRing slot) s = .next (respond s slot 0xA2 [])) ∧
      ((ringOf s n).valid = true → ∃ u, exec (.unbindRing slot) s = .next (respond u slot 0 []) ∧
        (ringOf u n).valid = false ∧ u.mem = s.mem)) ∧
    (Holds s slot 0x22 img → fieldAt img 0x10 1 = n.val → (ringOf s n).valid = true →
      (fieldAt img 0x18 8 < (streamOf s (ringOf s n).tenant (ringOf s n).stream.toNat).oldest.toNat →
        fieldAt img 0x18 8 ≤ (streamOf s (ringOf s n).tenant (ringOf s n).stream.toNat).made.toNat + 1 →
        exec (.replayRing slot) s = .next (endBackground s slot 0xAA [])) ∧
      (0 < fieldAt img 0x18 8 →
        (streamOf s (ringOf s n).tenant (ringOf s n).stream.toNat).oldest.toNat ≤ fieldAt img 0x18 8 →
        fieldAt img 0x18 8 ≤ (streamOf s (ringOf s n).tenant (ringOf s n).stream.toNat).made.toNat + 1 →
        ∃ u, exec (.replayRing slot) s = .next (endBackground u slot 0 []) ∧ (ringOf u n).flushing = none ∧
          (ringOf u n).state = (if s.host.attach = .attached ∧ s.mir.role ≠ .fenced then .run else .held) ∧
          (ringOf u n).sent = (ringOf s n).sent ∧
          (ringOf u n).next.toNat = min (ringOf s n).next.toNat (fieldAt img 0x18 8 - 1) ∧ u.mem = s.mem)) ∧
    ((ringOf s n).valid = true → (ringOf s n).head.toNat ≤ head.toNat → head.toNat ≤ (ringOf s n).sent.toNat →
      ∃ u, exec (.hrvHeadWrite n head) s = .next u ∧ (ringOf u n).head = head ∧ (ringOf u n).sent = (ringOf s n).sent ∧
        u.mem = s.mem) ∧
    (head.toNat < (ringOf s n).head.toNat ∨ (ringOf s n).sent.toNat < head.toNat →
      exec (.hrvHeadWrite n head) s = .next (dropBar0 s)) ∧
    (∀ v, regionView s (some t) 0 1 = some v → st < (tenOf s t).streams.length → st < 256 →
      g.val = ((tenOf s t).bind.tlyBase + (streamOf s t st).req.tally.toNat) % 4096 →
      ((tallyOf s g).value = 0 ∨ chanBusy s 4 = true → exec (.harvestTake t (BitVec.ofNat 8 st)) s = .next s) ∧
      ((tallyOf s g).value ≠ 0 → chanBusy s 4 = false →
        replayUsed s + (streamOf s t st).req.recsz ≤ replaySize → ∀ x rd m, streamOf s t st = x →
        readVia (Mover.start s (some t) (.sys 4)) 1 v (x.req.area + x.nextSlot * x.req.recsz) x.req.len = rd →
        (writeRecord rd.1 (replayView s) (freePieces s (x.req.recsz / 64))
          (recordImage x (match x.ring with | some r => r.val | none => 0) st (x.made + 1)
            (x.tides.headD ((tenOf s t).tide - (tenOf s t).idle)) rd.2)).finish = m →
        (m.blocked = true → exec (.harvestTake t (BitVec.ofNat 8 st)) s = .next (m.wait s)) ∧
        (m.blocked = false → m.halt = none →
        ∃ u, exec (.harvestTake t (BitVec.ofNat 8 st)) s = .next u ∧
          (tallyOf u g).value = (tallyOf s g).value - 1 ∧ (streamOf u t st).made = x.made + 1 ∧
          (streamOf u t st).held = x.held ++ [freePieces s (x.req.recsz / 64)] ∧ u.mem = m.s.mem))) ∧
    ((ringOf s n).valid = true → (ringOf s n).state = .run → s.host.attach = .attached → s.host.linkUp = true →
      (ringOf s n).flushing = none → chanBusy s 5 = false →
      ∀ x, streamOf s (ringOf s n).tenant (ringOf s n).stream.toNat = x → x.oldest.toNat ≤ (ringOf s n).next.toNat + 1 →
      (ringOf s n).next.toNat < x.made.toNat →
      (ringOf s n).next.toNat < (ringOf s n).head.toNat + 2 ^ (ringOf s n).log2.toNat →
      ∀ rd w, readRecords s (ringOf s n).tenant x ((ringOf s n).next.toNat + 1) 1 = rd →
      sendRecords rd.1.finish.s (ringOf s n) rd.2 = w →
      (rd.1.blocked = true → exec (.harvestRecordWrite n 1) s = .next (rd.1.wait s)) ∧
      (∀ h, rd.1.blocked = false → rd.1.halt = some h → exec (.harvestRecordWrite n 1) s =
        .next (haltSch w 5 (replayReq (ringOf s n).tenant h.off) h.region h.off)) ∧
      (rd.1.blocked = false → rd.1.halt = none → (ringOf s n).flushRd = false →
        ∃ u img, exec (.harvestRecordWrite n 1) s = .next u ∧
        (ringOf u n).sent.toNat = (ringOf s n).next.toNat + 1 ∧ (ringOf u n).next = (ringOf u n).sent ∧
        (readRecord (Mover.start s (some (ringOf s n).tenant) (.sys 5)) (replayView s)
          (x.held.getD ((ringOf s n).next.toNat + 1 - x.oldest.toNat) [])).2 = img ∧
        Out.hostWrite (recordAddr (ringOf s n) ((ringOf s n).next.toNat + 1)) img ∈ u.out ∧
        Out.hostWrite (ringOf s n).flag (leBytes 8 ((ringOf s n).next.toNat + 1)) ∈ u.out ∧ u.mem = w.mem) ∧
      (rd.1.blocked = false → rd.1.halt = none → (ringOf s n).flushRd = true →
        ∃ u, exec (.harvestRecordWrite n 1) s = .next u ∧ (ringOf u n).sent = (ringOf s n).sent ∧
        (ringOf u n).flushing = some (BitVec.ofNat 64 ((ringOf s n).next.toNat + 1)) ∧ u.mem = w.mem)) ∧
    ((ringOf s n).flushing = some q → (ringOf s n).valid = true →
      (s.host.linkUp = true → ∃ u, exec (.flushReadComplete n true) s = .next u ∧ (ringOf u n).sent = q ∧
        (ringOf u n).flushing = none ∧ Out.hostWrite (ringOf s n).flag (leBytes 8 q.toNat) ∈ u.out ∧ u.mem = s.mem) ∧
      (∃ u, exec (.flushReadComplete n false) s = .next u ∧ (ringOf u n).state = .error ∧ u.mem = s.mem)) ∧
    ((ringOf s n).flushing = none → exec (.flushReadComplete n true) s = .next s)

/-! ### Pond units -/

/-- Pond mode and the rows of the map. Entering precharges every bank of the pseudo-channel and sets its POND bit; a write of
0 clears it at once where every unit is idle, and otherwise waits. PMODE.INJ is one bit. The result row answers zeros outside
pond mode and in columns 1 to 15, the accumulators of the window in columns 16 to 31, and column 0 clears CORR and UEC. A
write of SPMAP waits for the bank's unit, its queued writes and the placement move of the tenants with data there, and then maps
the spare to the bank and sets or clears its valid bit; data of no tenant go along on a channel of the placer; a spare that is
unfilled or whose unit failed is not mapped (R161, R195 to R198, R210, R211, R224, R225, R286, R289). When the write copies and
when it waits is the model's choice (log entry 55). -/
def Obligations.PondModeAndRows : Prop :=
  ∀ (s : State) (k : StackIx) (q : PcIx) (b : BankIx) (c : Fin 32) (d : DieIx) (j : Fin 8) (bank : Byte) (inj : Bool), Canon s →
    (∃ u, exec (.pondEnter k q) s = .next u ∧ pondOn u k q = true ∧ u.mem = s.mem ∧ u.dram.units = s.dram.units ∧
      (∀ x ∈ pcBanks k q, (bankOf u (bankKeyOf x)).openRow = none) ∧
      ∀ q' : PcIx, q' ≠ q → pondOn u k q' = pondOn s k q') ∧
    ((pcBanks k q).all (unitIdle s) = true → ∃ u, exec (.pondExit k q) s = .next u ∧ pondOn u k q = false ∧
      u.mem = s.mem ∧ ∀ q' : PcIx, q' ≠ q → pondOn u k q' = pondOn s k q') ∧
    ((pcBanks k q).all (unitIdle s) = false → pondOn s k q = true → ∃ u, exec (.pondExit k q) s = .next u ∧
      pondOn u k q = true ∧ (stackOf u k).exiting.getLsbD q.val = true ∧ u.mem = s.mem) ∧
    (∃ u, exec (.pmodeInj k q inj) s = .next u ∧ (stackOf u k).inj.getLsbD q.val = inj ∧
      (stackOf u k).pond = (stackOf s k).pond ∧ u.mem = s.mem ∧
      ∀ q' : PcIx, q' ≠ q → (stackOf u k).inj.getLsbD q'.val = (stackOf s k).inj.getLsbD q'.val) ∧
    (pondOn s b.stack (bankSeg b).pc = false → exec (.resultRowRead b c) s =
      .next (emit s [.rowData (some (List.replicate 32 0))])) ∧
    (pondOn s b.stack (bankSeg b).pc = true →
      (1 ≤ c.val → c.val < 16 → exec (.resultRowRead b c) s =
        .next (emit (sendTo s b (.result b c)) [.rowData (some (List.replicate 32 0))])) ∧
      (16 ≤ c.val → ∀ x, unitOf s (unitAt s b).key = x →
        (x.running.isSome = true → exec (.resultRowRead b c) s = .next (askBank s b none)) ∧
        (x.running = none →
          ((∀ e, e < 8 → accBad x (128 * x.win.toNat + 8 * (c.val - 16) + e) = false) → exec (.resultRowRead b c) s =
            .next (emit (answered (sendTo s b (.result b c)) b) [.rowData (some ((List.range 8).flatMap fun e =>
              leBytes 4 (accOf x (128 * x.win.toNat + 8 * (c.val - 16) + e)).toNat))])) ∧
          ((∃ e, e < 8 ∧ accBad x (128 * x.win.toNat + 8 * (c.val - 16) + e) = true) →
            exec (.resultRowRead b c) s = .next (emit (answered (sendTo s b (.result b c)) b) [.rowData none])))) ∧
      (c.val = 0 → ∃ u, exec (.resultRowRead b c) s = .next u ∧ u.out = s.out ++ [.rowData (some (statusColumn s b))] ∧
        (unitOf u (unitAt s b).key).corr = 0 ∧ (unitOf u (unitAt s b).key).uec = 0 ∧ u.mem = s.mem)) ∧
    (∀ (x : BankIx) (valid : Bool) (bs : List BankIx), x = { stack := k, die := d, bank := ⟨bank.toNat, bank.isLt⟩ } →
      bs = remapped s (mapSpare s x j valid) x →
      (unitIdle s x = false ∨ drainWaits s [x] = true → exec (.spmapWrite k d j bank valid) s = .next s) ∧
      ((∃ c ∈ bs, spareReady s c (.spare x j) = false) → exec (.spmapWrite k d j bank valid) s = .next s) ∧
      (valid = true → s.log.sparesFilled = false ∨ (bankOf s (bankKey k.val d.val (256 + j.val))).retired = true →
        exec (.spmapWrite k d j bank valid) s = .next s) ∧
      (valid = false ∨ (s.log.sparesFilled = true ∧ (bankOf s (bankKey k.val d.val (256 + j.val))).retired = false) →
        (x :: bs).all (unitIdle s) = true → drainWaits s (x :: bs) = false → (∀ c ∈ bs, spareReady s c (.spare x j) = true) →
        (∀ c ∈ bs, bankOwners s c ≠ []) ∨ (∃ ch, moveChan (prepareBanks s (x :: bs)) = some ch) →
        ∃ u, exec (.spmapWrite k d j bank valid) s = .next u ∧ tabGet 0 (stackOf u k).spmap (8 * d.val + j.val) = bank ∧
          (tabGet 0 (stackOf u k).spval d.val).getLsbD j.val = valid ∧
          ((∀ c ∈ bs, bankOwners s c ≠ []) → u.mem = (prepareBanks s (x :: bs)).mem)))

/-- Pond commands arrive. A write to a command row takes one of the segment's tags as its command tag; outside pond mode it is
dropped, and it waits for an exit from it and for queued writes of its banks that cannot be written yet; one that cannot be
corrected starts nothing and sets STAT to CMD_UE in the segment's units, and so does one that an injection flips beyond
correction. Otherwise each bank of BMASK that is idle starts it,
with the status of the first check that fails, one that runs a command holds it, and one that holds a command already refuses
it with STAT BUSY. Payload goes to the next W register of the window open on its row (R198 to R203, R209). The model's own
choices: the status is judged and the latch taken as the command starts (log entry 92), and the controller drains the banks of the
command that it holds, whatever an injection makes of its column (log entry 210). -/
def Obligations.PondCommandsArrive : Prop :=
  ∀ (s : State) (g : SegIx) (tag : BitVec 4) (c : PondCmd) (a : Arrival) (i : Instr) (op : BitVec 6) (data : List Byte),
    Canon s →
    (i, op) ∈ [(Instr.nop g tag a c, (0 : BitVec 6)), (.ldw g tag a c, 1), (.dot g tag a c, 2), (.softp g tag a c, 3),
      (.wsum g tag a c, 4), (.mvw g tag a c, 5), (.ewu g tag a c, 6), (.fill g tag a c, 7), (.copyr g tag a c, 8),
      (.csend g tag a c, 9), (.crecv g tag a c, 10), (.ccomb g tag a c, 11), (.check g tag a c, 12)] →
    (pondOn s g.stack g.pc = false → exec i s = .next s ∧ exec (.ldwPayload g tag data) s = .next s) ∧
    ((windowOf s g).left = 0 → (stackOf s g.stack).exiting.getLsbD g.pc.val = true ∨ drainWaits s (segBanks g c.bmask) = true →
      exec i s = .next s) ∧
    (pondOn s g.stack g.pc = true → (stackOf s g.stack).exiting.getLsbD g.pc.val = false →
      drainWaits s (segBanks g c.bmask) = false → (windowOf s g).left = 0 → ∀ p, prepareBanks s (segBanks g c.bmask) = p →
      (a = .good → arriveColumn p g (encPond op c) = none →
        exec i s = .next (commandWrite p g tag .uncorrectable op c none)) ∧
      (∀ bs, a = .good → arriveColumn p g (encPond op c) = some bs → bs ≠ encPond op c →
        exec i s = .next (commandWrite p g tag .good (decPond bs).1 (decPond bs).2 none)) ∧
      (a = .uncorrectable → ∃ u, exec i s = .next u ∧ u.mem = p.mem ∧ ∀ b ∈ allSegBanks g,
        (unitOf u (unitAt s b).key).stat = 6 ∧
        (unitOf u (unitAt s b).key).running = (unitOf s (unitAt s b).key).running) ∧
      (a = .good → arriveColumn p g (encPond op c) = some (encPond op c) → ∃ u, exec i s = .next u ∧ tabGet 0 u.dram.tags (segKey g) = (tag.toNat + 1) % 16 ∧
        ∀ b ∈ segBanks g c.bmask, ∀ x y : Machine.Unit, unitOf s (unitAt s b).key = x → unitOf u (unitAt s b).key = y →
          (x.holding.isSome = true → y = { x with stat := 1 }) ∧
          (x.holding = none → x.running.isSome = true →
            y = { x with tag := tag, heldPay := [], holding := some { op := op, tag := tag, cmd := c, ten := none } }) ∧
          (x.holding = none → x.running = none → (bankOf s (bankKeyOf b)).refreshing = false →
            (op = 0 → pondStop op c (unitAt s b).bank x.latch.length = none →
              y.running = none ∧ y.lop = 0 ∧ y.stat = 0 ∧ y.tag = tag) ∧
            (op ≠ 0 ∨ pondStop op c (unitAt s b).bank x.latch.length ≠ none →
              y.running = some { op := op, tag := tag, cmd := c, ten := none } ∧ y.tag = tag ∧ y.a = x.a ∧
              (∀ st, pondStop op c (unitAt s b).bank x.latch.length = some st → y.runStat = st ∧ y.latch = x.latch) ∧
              (pondStop op c (unitAt s b).bank x.latch.length = none →
                (op ≠ 9 → op ≠ 10 → y.runStat = 0 ∧ y.latch = x.latch) ∧
                (op = 10 → x.latch = [] → y.runStat = 8) ∧
                (op = 10 → x.latch ≠ [] → y.runStat = 0 ∧ y.latch = [] ∧ y.carry = x.latch)))))) ∧
    (pondOn s g.stack g.pc = true → (windowOf s g).left ≠ 0 → (windowOf s g).tag = tag →
      ∃ u, exec (.ldwPayload g tag data) s = .next u ∧ u.mem = s.mem ∧
        (1 < (windowOf s g).left → (windowOf u g).left = (windowOf s g).left - 1) ∧
        ∀ b ∈ segBanks g (windowOf s g).bmask, ∀ x, unitOf s (unitAt s b).key = x → awaiting x.running tag = true →
          x.payload ≠ 0 → unitOf u (unitAt s b).key =
            { setW x ((windowOf s g).wbase + (windowOf s g).next)
                ((arriveColumn s g (padTo 0 32 data)).getD (padTo 0 32 data)) (arriveColumn s g (padTo 0 32 data)).isNone with
              payload := x.payload - 1 })

/-- Score of query `q` against item `i` of a DOT or MVW that continues from `start`: the exact sum of each column's products,
times SIG, added with one rounding, in column order (R91, R205). -/
def Sys2Proof.Machine.scoreOf (m : Memory) (x : Machine.Unit) (p : UnitAt) (c : PondCmd) (q i : Nat) (start : Word) : Word :=
  canonAcc ((List.range c.nw.toNat).foldl (fun a j => rne32 ((Ext.ofF32 a).add
    (((List.range (min (perColumn c.fmtW.toNat) (perColumn c.fmtA.toNat))).foldl (fun v e => v.add
      ((fmtVal c.fmtW.toNat false (packedCode c.fmtW.toNat (wReg x (c.wbase.toNat + q * c.nw.toNat + j)) e)).mul
        (fmtVal c.fmtA.toNat false (packedCode c.fmtA.toNat (columnAt m p (c.l0 + i * c.step + j)).bytes e)))) Ext.zero).mul
      (Ext.ofF32 c.sig)))) start)

/-- Whether a score reads a poisoned W register or an uncorrectable column (R222). -/
def Sys2Proof.Machine.scoreBad (m : Memory) (x : Machine.Unit) (p : UnitAt) (c : PondCmd) (q i : Nat) : Bool :=
  (List.range c.nw.toNat).any fun j =>
    wBad x (c.wbase.toNat + q * c.nw.toNat + j) || (columnAt m p (c.l0 + i * c.step + j)).bad

/-- Accumulators after WSUM: item by item below NV and element by element, each product exact and each sum rounded once (R207). -/
def Sys2Proof.Machine.weighted (m : Memory) (p : UnitAt) (c : PondCmd) (f : Nat → Word) : Nat → Word :=
  ((List.range (c.nv 4)).flatMap fun i => (List.range (c.nw.toNat * perColumn c.fmtA.toNat)).map fun j => (i, j)).foldl
    (fun f e n => if n = c.adst.toNat + e.2 then canonAcc (rne32 ((Ext.ofF32 (f n)).add (((Ext.ofF32 (f (c.asrc.toNat + e.1))).mul
      (fmtVal c.fmtA.toNat false (packedCode c.fmtA.toNat
        (columnAt m p (c.l0 + e.1 * c.step + e.2 / perColumn c.fmtA.toNat)).bytes (e.2 % perColumn c.fmtA.toNat)))).mul
      (Ext.ofF32 c.sig)))) else f n) f

/-- Memory after a column is written with fresh check bits, or so that every word of it reads as uncorrectable (R222, R223). -/
def Sys2Proof.Machine.withColumn (s : State) (p : UnitAt) (m : Memory) (l : Nat) (bs : List Byte) (bad : Bool) : Memory :=
  (putColumn { s with mem := m } p l bs bad).mem

/-- Memory after EWU writes column `l`, column `j` of its item: W, column + W, column × W or column × SIG, each rounded once in
binary32 and converted to the array format (R204, R222). -/
def Sys2Proof.Machine.ewuWrites (s : State) (x : Machine.Unit) (p : UnitAt) (c : PondCmd) (m : Memory) (l j : Nat) : Memory :=
  let w := (colValues c.fmtW (wReg x (c.wbase.toNat + j))).map rne32
  let v := (colValues c.fmtA (columnAt m p l).bytes).map rne32
  withColumn s p m l
    (packCodes c.fmtA.toNat ((if c.eop = 0 then w else if c.eop = 1 then (v.zip w).map fun e => add32 e.1 e.2
      else if c.eop = 2 then (v.zip w).map fun e => mul32 e.1 e.2 else v.map fun e => mul32 e c.sig).map (ewuCode c.fmtA)))
    ((decide (c.eop ≠ 3) && wBad x (c.wbase.toNat + j)) || (decide (c.eop ≠ 0) && (columnAt m p l).bad))

/-- Pond commands start and end. A held command starts in a unit that runs none, and waits for a refresh of its bank and
for an access that waited before it; a running
one ends with LOP its opcode and the STAT its start judged, without effect where that is not OK, and not before its payload
has come. LDW with SRC = 1 loads W registers from columns; DOT and MVW write their scores and WSUM its sums; SOFTP and CCOMB
update their partials; EWU, FILL with TGT = 0, COPYR and CHECK with SCRUB write columns, in order; FILL with TGT = 1 writes SIG to
its accumulators and clears their poison bits; CRECV writes the values it took; CSEND fills the latch of its target, or ends with
CHAIN_FULL where the latch holds data; every other command ends OK or UE, and nothing but these effects touches W registers,
accumulators or memory (R203 to R209, R213, R220 to R223). The model's own choice: the status is judged as the command starts,
and its effect comes as it ends (log entry 92). -/
def Obligations.PondCommandsRun : Prop :=
  ∀ (s : State) (b : BankIx) (run : PondRun) (x : Machine.Unit), Canon s → unitOf s (unitAt s b).key = x →
    (x.holding = none ∨ x.running.isSome = true ∨ (bankOf s (bankKeyOf b)).refreshing = true ∨
        ((bankOf s (bankKeyOf b)).waiting = true ∧ ∃ q ∈ (stackOf s b.stack).queue, reqBank b.stack q.req = b) ∨
        (bankOf s (bankKeyOf b)).asked.any (asking s) = true →
      exec (.pondCommandStart b) s = .next s) ∧
    (x.holding = some run → x.running = none → (bankOf s (bankKeyOf b)).refreshing = false →
      ((bankOf s (bankKeyOf b)).waiting = true → ∀ q ∈ (stackOf s b.stack).queue, reqBank b.stack q.req ≠ b) →
      (bankOf s (bankKeyOf b)).asked.any (asking s) = false →
      ∃ u y, exec (.pondCommandStart b) s = .next u ∧ u.mem = s.mem ∧ unitOf u (unitAt s b).key = y ∧ y.holding = none ∧
        (run.op = 0 → pondStop 0 run.cmd (unitAt s b).bank x.latch.length = none → y.running = none ∧ y.lop = 0 ∧ y.stat = 0) ∧
        (run.op ≠ 0 → y.running = some run ∧
          ∀ st, pondStop run.op run.cmd (unitAt s b).bank x.latch.length = some st → y.runStat = st)) ∧
    (x.running = none → exec (.pondCommandEnd b) s = .next s) ∧
    (x.running = some run → x.payload ≠ 0 → exec (.pondCommandEnd b) s = .next s) ∧
    (x.running = some run → x.payload = 0 →
      (x.runStat ≠ 0 → ∃ u, exec (.pondCommandEnd b) s = .next u ∧ u.mem = s.mem ∧ unitOf u (unitAt s b).key =
        { x with running := none, runStat := 0, carry := [], lop := run.op, stat := x.runStat }) ∧
      (x.runStat = 0 → ∃ u y, exec (.pondCommandEnd b) s = .next u ∧ unitOf u (unitAt s b).key = y ∧
        y.running = none ∧ y.lop = run.op ∧ y.tag = x.tag ∧
        (run.op ≠ 9 → y.stat = 0 ∨ y.stat = 0xA) ∧
        (run.op = 3 ∨ run.op = 10 ∨ run.op = 11 → y.stat = 0) ∧
        (run.op ≠ 1 ∨ run.cmd.aux0 = false → y.w = x.w ∧ y.wPoison = x.wPoison) ∧
        (run.op = 1 ∨ run.op = 6 ∨ run.op = 8 ∨ run.op = 9 ∨ run.op = 12 ∨ (run.op = 7 ∧ run.cmd.aux0 = false) →
          y.a = x.a ∧ y.aPoison = x.aPoison) ∧
        (run.op ≠ 6 → run.op ≠ 8 → run.op ≠ 12 → (run.op = 7 → run.cmd.aux0 = true) → u.mem = s.mem) ∧
        (∀ (p : UnitAt) (c : PondCmd), unitAt s b = p → run.cmd = c →
          (run.op = 1 → c.aux0 = true → c.wbase.toNat + c.nw.toNat ≤ 32 → ∀ j, j < c.nw.toNat → ∀ l, columnAt s.mem p (c.l0 + j) = l →
            wReg y (c.wbase.toNat + j) = (if l.bad then bytesOfWords (l.stored.map (·.d)) else l.bytes) ∧
              wBad y (c.wbase.toNat + j) = l.bad) ∧
          (run.op = 2 → ∀ q i, q < c.nq 2 → i < c.count.toNat → ∀ d, d = c.adst.toNat + q * c.count.toNat + i →
            accOf y d = scoreOf s.mem x p c q i 0 ∧ accBad y d = (accBad x d || scoreBad s.mem x p c q i)) ∧
          (run.op = 5 → ∀ i, i < c.count.toNat → ∀ d, d = c.adst.toNat + i →
            accOf y d = scoreOf s.mem x p c 0 i (if c.acc then accOf x d else 0) ∧
              accBad y d = (accBad x d || scoreBad s.mem x p c 0 i)) ∧
          (run.op = 2 ∨ run.op = 5 →
            (y.stat = 0xA ↔ ∃ q i, q < c.nq run.op ∧ i < c.count.toNat ∧ scoreBad s.mem x p c q i = true) ∧
            ∀ n, n < c.adst.toNat ∨ c.adst.toNat + c.nq run.op * c.count.toNat ≤ n → accOf y n = accOf x n) ∧
          (run.op = 3 → ∀ (m k : Word) (e : Nat → Word),
            (List.range (c.nv 3)).foldl (fun v i => max32 v (accOf x (c.asrc.toNat + i))) (accOf x c.adst.toNat) = m →
            expdWord (accOf x c.adst.toNat) m false = k →
            (∀ n, e n = if c.asrc.toNat ≤ n ∧ n < c.asrc.toNat + c.count.toNat
              then expdWord (accOf x n) m (decide (c.nv 3 ≤ n - c.asrc.toNat)) else accOf x n) →
            ∀ n, accOf y n = if n = c.adst.toNat then m
              else if n = c.adst.toNat + 1 then (List.range c.count.toNat).foldl
                (fun v i => add32 v (expdWord (accOf x (c.asrc.toNat + i)) m (decide (c.nv 3 ≤ i)))) (mul32 (accOf x (c.adst.toNat + 1)) k)
              else if c.adst.toNat + 2 ≤ n ∧ n < c.adst.toNat + 2 + c.vlen then mul32 (e n) k else e n) ∧
          (run.op = 4 → ∀ n, accOf y n = weighted s.mem p c (accOf x) n) ∧
          (run.op = 6 → u.mem = ((List.range c.count.toNat).flatMap fun i =>
            (List.range c.nw.toNat).map fun j => (c.l0 + i * c.step + j, j)).foldl
              (fun m e => ewuWrites s x p c m e.1 e.2) s.mem) ∧
          (run.op = 7 → c.aux0 = false → u.mem = (List.range c.count.toNat).foldl
            (fun m i => withColumn s p m (c.l0 + i) (wReg x c.wbase.toNat) (wBad x c.wbase.toNat)) s.mem) ∧
          (run.op = 8 → u.mem = (List.range c.count.toNat).foldl (fun m i =>
            if (columnAt m p (c.l0 + i)).bad
            then (storeColumn { s with mem := m } p (c.dest + i) (columnAt m p (c.l0 + i)).stored).mem
            else withColumn s p m (c.dest + i) (columnAt m p (c.l0 + i)).bytes false) s.mem) ∧
          (run.op = 11 → ∀ (m : Word), max32 (accOf x c.asrc.toNat) (accOf x c.adst.toNat) = m →
            ∀ n, accOf y n = if n = c.adst.toNat then m
              else if c.adst.toNat < n ∧ n ≤ c.adst.toNat + 1 + c.vlen then
                add32 (mul32 (accOf x (c.asrc.toNat + (n - c.adst.toNat))) (expdWord (accOf x c.asrc.toNat) m false))
                  (mul32 (accOf x n) (expdWord (accOf x c.adst.toNat) m false))
              else accOf x n) ∧
          (run.op = 12 → u.mem = (List.range c.count.toNat).foldl (fun m i =>
            if c.aux0 && (columnAt m p (c.l0 + i)).corr && !(columnAt m p (c.l0 + i)).bad
            then withColumn s p m (c.l0 + i) (columnAt m p (c.l0 + i)).bytes false else m) s.mem)) ∧
        (run.op = 7 → run.cmd.aux0 = true → y.stat = 0 ∧ (∀ i, i < run.cmd.count.toNat →
            accOf y (run.cmd.adst.toNat + i) = run.cmd.sig ∧ accBad y (run.cmd.adst.toNat + i) = false) ∧
          ∀ i, (i < run.cmd.adst.toNat ∨ run.cmd.adst.toNat + run.cmd.count.toNat ≤ i) → accOf y i = accOf x i) ∧
        (run.op = 10 → ∀ i v, x.carry[i]? = some v → accOf y (run.cmd.adst.toNat + i) = v.1) ∧
        (run.op = 9 → ∀ tk, bankKey b.stack.val b.die.val (physBank s b.stack b.die run.cmd.tgt) = tk →
          ((unitOf s tk).latch = [] → y.stat = 0 ∧ (unitOf u tk).latch = (List.range run.cmd.count.toNat).map fun i =>
            (accOf x (run.cmd.asrc.toNat + i), accBad x (run.cmd.asrc.toNat + i))) ∧
          ((unitOf s tk).latch ≠ [] → y.stat = 7 ∧ (unitOf u tk).latch = (unitOf s tk).latch))))

/-- Pond streams. A table of the running body passes its entries in order: a transfer slot serves a planned request, an entry
whose record shuts its gate passes unwritten, a command within the budget is written to its segments, one above it is not
written and halts the tenant with ERR_POND_BUDGET, and one that a segment cannot take yet waits. An attention record is read
once in a tide; a length above the placed one skips the pair and halts the tenant. A read-back writes the accumulators of the
window to SRAM, waits while a command runs on its bank, and halts the tenant with 0x40 at a poisoned column; a status read of
a bank that the tide commanded halts the tenant with ERR_POND_STATUS unless STAT is OK or UE and TAG the expected one. The end
of a table signals its tally unless a status read of its own found a fault (R211, R212, R217, R232 to R234, R239, R245, R249,
R269, R307). The DETAIL of a read-back's 0x40 is the model's choice (log entry 43). -/
def Obligations.PondStreams : Prop :=
  ∀ (s : State) (t : TenIx) (n pos off m region sn : Nat) (p : PlanTable) (seg : Fin 16) (g : SegIx) (op : BitVec 6)
    (c cmd : PondCmd) (mask : Half) (pay : List Byte) (f : BitVec 12) (r : AttnRef) (loc : Nat), Canon s →
    ((tenOf s t).img.plan[n]? = none → exec (.pondStreamIssue t n) s = .next s ∧ exec (.pondStreamComplete t n) s = .next s) ∧
    ((tenOf s t).img.plan[n]? = some p → streamLive (tenOf s t) p = false →
      exec (.pondStreamIssue t n) s = .next s ∧ exec (.pondStreamComplete t n) s = .next s) ∧
    ((tenOf s t).img.plan[n]? = some p → streamLive (tenOf s t) p = true → tabGet 0 (tenOf s t).planPos n = pos →
      (p.items[pos]? = some (off, .transfer region sn) → exec (.pondStreamIssue t n) s =
        .next (advance (serveSlot s (tenOf s t) region sn) t n (pos + 1))) ∧
      (p.items[pos]? = some (off, .cmd m seg op c pay none) →
        targetsOf (memberBanks (tenOf s t) p.group m seg c.bmask) = [(g, mask)] →
        cmd = { memberFields (tenOf s t) p.group m op c with bmask := mask } →
        (holdFull s g mask = true ∨ pondOpen s g.stack g.pc = false ∨ drainWaits s (segBanks g mask) = true →
          exec (.pondStreamIssue t n) s = .next s) ∧
        (holdFull s g mask = false → pondOpen s g.stack g.pc = true → drainWaits s (segBanks g mask) = false →
          (overLimit s t g op cmd = false →
            exec (.pondStreamIssue t n) s = .next (advance (writeCommand s t g op cmd pay) t n (pos + 1))) ∧
          (overLimit s t g op cmd = true → (tenOf s t).haltCode = none → ∃ u, exec (.pondStreamIssue t n) s = .next u ∧
            (tenOf u t).haltCode = some 0x55 ∧ u.mem = s.mem ∧ u.dram.units = s.dram.units))) ∧
      (p.items[pos]? = some (off, .cmd m seg op c pay (some r)) → (op ≠ 1 ∨ c.aux0 = true) →
        ∀ a, findAttn (tenOf s t) r = some a → gateOpen (tenOf s t) op r a = false →
          exec (.pondStreamIssue t n) s = .next (advance s t n (pos + 1))) ∧
      (p.items[pos]? = some (off, .cmd m seg op c pay (some r)) → op = 1 → c.aux0 = false →
        ∀ a, findAttn (tenOf s t) r = some a → a.skip = true →
          exec (.pondStreamIssue t n) s = .next (advance s t n (pos + 1))) ∧
      (∀ bank win first count a, p.items[pos]? = some (off, .readback m bank win first count a none) →
        (memberBank (tenOf s t) p.group m bank.val = none → exec (.pondStreamIssue t n) s = .next (advance s t n (pos + 1))) ∧
        (∀ b x, memberBank (tenOf s t) p.group m bank.val = some b → unitOf s (unitAt s b).key = x →
          (pondOn s b.stack (bankSeg b).pc = false → exec (.pondStreamIssue t n) s = .next s) ∧
          (pondOn s b.stack (bankSeg b).pc = true → x.running.isSome = true →
            exec (.pondStreamIssue t n) s = .next (askBank s b (some (.stream t)))) ∧
          (pondOn s b.stack (bankSeg b).pc = true → x.running = none →
            ((∀ i, i < count → ∀ e, e < 8 → accBad x ((128 * x.win.toNat + (first + i - 128 * win.toNat)) / 8 * 8 + e) = false) →
              streamLoc s t a = some loc →
              ∀ q, (readbackColumns win first count false).foldl (fun q c => sendTo q b (.result b c)) (answered s b) = q →
              ∀ w, putBytes q loc ((List.range count).flatMap fun i =>
                leBytes 4 (accOf x (128 * x.win.toNat + (first + i - 128 * win.toNat))).toNat) (some t) = (w, false) →
              exec (.pondStreamIssue t n) s = .next (advance w t n (pos + 1))) ∧
            (∀ i, i < count → (∀ j, j < i → ∀ e, e < 8 →
                accBad x ((128 * x.win.toNat + (first + j - 128 * win.toNat)) / 8 * 8 + e) = false) →
              (∃ e, e < 8 ∧ accBad x ((128 * x.win.toNat + (first + i - 128 * win.toNat)) / 8 * 8 + e) = true) →
              (tenOf s t).haltCode = none →
              ∃ u, exec (.pondStreamIssue t n) s = .next u ∧ (tenOf u t).haltCode = some 0x40 ∧
                tabGet 0 (tenOf u t).planPos n = 0xFFFFFFFF)))) ∧
      (∀ bank, p.items[pos]? = some (off, .status m bank none) →
        (memberBank (tenOf s t) p.group m bank.val = none → exec (.pondStreamIssue t n) s = .next (advance s t n (pos + 1))) ∧
        (∀ b x want, memberBank (tenOf s t) p.group m bank.val = some b → unitOf s (unitAt s b).key = x →
          tabGet 0 (tenOf s t).planTags (bankKeyOf b) = want →
          (pondOn s b.stack (bankSeg b).pc = false → exec (.pondStreamIssue t n) s = .next s) ∧
          (pondOn s b.stack (bankSeg b).pc = true → want = 0 →
            exec (.pondStreamIssue t n) s = .next (advance s t n (pos + 1))) ∧
          (pondOn s b.stack (bankSeg b).pc = true → want ≠ 0 → (x.stat = 0 ∨ x.stat = 0xA) → x.tag.toNat + 1 = want →
            exec (.pondStreamIssue t n) s = .next (advance (clearStatus (sendTo s b (.result b 0)) b) t n (pos + 1))) ∧
          (pondOn s b.stack (bankSeg b).pc = true → want ≠ 0 → ¬((x.stat = 0 ∨ x.stat = 0xA) ∧ x.tag.toNat + 1 = want) →
            (tenOf s t).haltCode = none → ∃ u, exec (.pondStreamIssue t n) s = .next u ∧ (tenOf u t).haltCode = some 0x56 ∧
              (tenOf u t).planFault = (tenOf s t).planFault ++ [n] ∧ (unitOf u (unitAt s b).key).corr = 0 ∧
              (unitOf u (unitAt s b).key).uec = 0 ∧ u.mem = s.mem))) ∧
      (pos ≠ p.items.length → exec (.pondStreamComplete t n) s = .next s) ∧
      (pos = p.items.length → p.signal = some f →
        ((tenOf s t).planFault.contains n = false → ∃ u k, exec (.pondStreamComplete t n) s = .next u ∧ u.mem = s.mem ∧
          tabGet 0 (tenOf u t).planPos n = pos + 1 ∧
          u.sync.flight = s.sync.flight ++
            [{ tly := ⟨((tenOf s t).bind.tlyBase + f.toNat) % 4096, Nat.mod_lt _ (by decide)⟩, n := 1,
               src := .pond k t }]) ∧
        ((tenOf s t).planFault.contains n = true → ∃ u, exec (.pondStreamComplete t n) s = .next u ∧
          u.sync.flight = s.sync.flight))) ∧
    ((findAttn (tenOf s t) r).isSome = true → exec (.attnRecordRead t r) s = .next s) ∧
    ((tenOf s t).inTide = true → (tenOf s t).idleNow = false → findAttn (tenOf s t) r = none →
      streamLoc s t r.record = some loc →
      (∀ w ∈ (readBytes s loc 8).2 ++ (readBytes s (loc + 0x20) (128 * r.heads)).2, w.2.check = .clean) →
      ∀ len, fieldAt (readBytes s loc 8).1 0 4 = len →
      (len ≤ placedLength (tenOf s t) r.slot → ∃ u a, exec (.attnRecordRead t r) s = .next u ∧
        (tenOf u t).attn = (tenOf s t).attn ++ [a] ∧ a.record = r.record ∧ a.len = len ∧ a.skip = false ∧
        a.qsig = BitVec.ofNat 32 (fieldAt (readBytes s loc 8).1 4 4) ∧ u.mem = s.mem ∧ u.log = s.log) ∧
      (placedLength (tenOf s t) r.slot < len → (tenOf s t).haltCode = none → ∃ u, exec (.attnRecordRead t r) s = .next u ∧
        (tenOf u t).haltCode = some 0x58 ∧ u.mem = s.mem ∧ ∃ a ∈ (tenOf u t).attn, a.record = r.record ∧ a.skip = true))

/-! ### Memory controllers -/

/-- Requests to DRAM. Rows at or above 0x6000 hold no array. A read of a column that the write queue holds is answered from it;
other requests queue in their class. A write takes an entry of the write queue with its bytes merged into the column, or joins the
entry that the column has, the younger bytes winning; one whose merge meets an uncorrectable word writes nothing. A write served
lands in the array, and nothing else does; a read served answers the column. A promotion moves a request whose time has come one
class up and restarts its count; a limit of 0 disables it. A row kept open closes 1 µs after its last access (R198, R244, R247,
R248, R250, R254, R283). When a request may be served, and when the read of a merge waits, is the model's reading (log entries 156
and 160). -/
def Obligations.DramRequests : Prop :=
  ∀ (s : State) (k : StackIx) (r : DramReq) (n : Nat) (q : Queued) (e : WqEntry) (l : List WqEntry) (b : BankIx),
    Canon s → Memory.wf s.mem = true →
    (0x6000 ≤ r.row.toNat →
      (r.write = true → exec (.dramRequest k r) s = .next s) ∧
      (r.write = false → exec (.dramRequest k r) s = .next (emit s [.dramData k (some (List.replicate 32 0))]))) ∧
    (r.row.toNat < 0x6000 →
      (r.write = false → queuedWrite (stackOf s k) r = none → exec (.dramRequest k r) s = .next (modStack s k fun x =>
        { x with queue := x.queue ++ [{ req := r, cls := srcClass r.src, since := s.tick, promoted := false }] })) ∧
      (r.write = false → queuedWrite (stackOf s k) r = some e →
        (∀ w ∈ entryStored e, (decodeWord w).check = .clean) → ∃ u, exec (.dramRequest k r) s = .next u ∧
          u.out = s.out ++ [.dramData k (deliverColumn (entryStored e))] ∧
          (stackOf u k).fwd = satAdd (stackOf s k).fwd 1 ∧ (stackOf u k).queue = (stackOf s k).queue ∧ u.mem = s.mem) ∧
      (r.write = true → queuedWrite (stackOf s k) r = none → tabGet [] (stackOf s k).wq r.pc.val = l →
        (64 ≤ l.length → exec (.dramRequest k r) s = .next s) ∧
        (l.length < 64 → r.mask ≠ BitVec.allOnes 32 → accessWaits s r.src (reqBank k r) (reqColumn r) = true →
          exec (.dramRequest k r) s = .next (askBank s (reqBank k r) (some r.src))) ∧
        (l.length < 64 → r.mask = BitVec.allOnes 32 ∨ accessWaits s r.src (reqBank k r) (reqColumn r) = false →
          mergeFails r (seenColumn s (reqKey s k r)) = false →
          ∃ u, exec (.dramRequest k r) s = .next u ∧ u.mem = s.mem ∧
          tabGet [] (stackOf u k).wq r.pc.val =
            l ++ [{ sid := r.sid, bank := r.bank, row := r.row, col := r.col,
                    data := ((seenColumn s (reqKey s k r)).zipIdx.map fun w =>
                      patchWord s (reqKey s k r) r w.2 w.1).flatMap storedBytes }] ∧
          (stackOf u k).queue = (stackOf s k).queue ++
            [{ req := r, cls := srcClass r.src, since := s.tick, promoted := false }])) ∧
      (r.write = true → queuedWrite (stackOf s k) r = some e → tabGet [] (stackOf s k).wq r.pc.val = l →
        mergeFails r (seenColumn s (reqKey s k r)) = false →
        ∃ u, exec (.dramRequest k r) s = .next u ∧ u.mem = s.mem ∧ (stackOf u k).queue = (stackOf s k).queue ∧
          tabGet [] (stackOf u k).wq r.pc.val = l.map fun z => if z = e then
            { z with data := ((seenColumn s (reqKey s k r)).zipIdx.map fun w =>
                patchWord s (reqKey s k r) r w.2 w.1).flatMap storedBytes } else z) ∧
      (r.write = true → r.mask ≠ BitVec.allOnes 32 → tabGet [] (stackOf s k).wq r.pc.val = l →
        (queuedWrite (stackOf s k) r).isSome = true ∨ (l.length < 64 ∧ accessWaits s r.src (reqBank k r) (reqColumn r) = false) →
        mergeFails r (seenColumn s (reqKey s k r)) = true →
        ∃ u, exec (.dramRequest k r) s = .next u ∧ u.mem = s.mem ∧ tabGet [] (stackOf u k).wq r.pc.val = l)) ∧
    (mayServe s k n = false → exec (.dramRequestServe k n) s = .next s) ∧
    (mayServe s k n = true → (stackOf s k).queue[n]? = some q →
      (q.req.write = true → queuedWrite (stackOf s k) q.req = some e →
        ∃ u, exec (.dramRequestServe k n) s = .next u ∧ (stackOf u k).queue = ((stackOf s k).queue.filter fun y =>
            !(reqBank k y.req == reqBank k q.req && reqColumn y.req == reqColumn q.req)) ∧
          (∀ i w, (entryStored e)[i]? = some w → readStored u.mem (reqKey s k q.req + i) = w) ∧
          ∀ key, key < reqKey s k q.req ∨ reqKey s k q.req + 4 ≤ key → readStored u.mem key = readStored s.mem key) ∧
      (q.req.write = true → queuedWrite (stackOf s k) q.req = none → exec (.dramRequestServe k n) s =
        .next (modStack s k fun x => { x with queue := dropNth n x.queue })) ∧
      (q.req.write = false →
        (∀ i, i < 4 → (readWord s (reqKey s k q.req + i)).check = .clean) →
        ∃ u, exec (.dramRequestServe k n) s = .next u ∧ (stackOf u k).queue = dropNth n (stackOf s k).queue ∧
          u.mem = s.mem ∧ u.out = s.out ++ [.dramData k (some ((List.range 4).flatMap fun i =>
            leBytes 8 (readWord s (reqKey s k q.req + i)).d.toNat))])) ∧
    ((stackOf s k).queue[n]? = some q →
      (q.cls = .sched → exec (.requestPromotion k n) s = .next s) ∧
      (q.cls = .maint → ((stackOf s k).ageMaint = 0 ∨ s.tick.toNat < q.since.toNat + 800 * (stackOf s k).ageMaint.toNat) →
        exec (.requestPromotion k n) s = .next s) ∧
      (q.cls = .maint → (stackOf s k).ageMaint ≠ 0 → q.since.toNat + 800 * (stackOf s k).ageMaint.toNat ≤ s.tick.toNat →
        exec (.requestPromotion k n) s = .next (modStack s k fun x =>
          { x with queue := mapNth (fun z => { z with cls := .net, since := s.tick, promoted := false }) n x.queue,
                   toNet := satAdd x.toNet 1 })) ∧
      (q.cls = .net → (stackOf s k).ageNet ≠ 0 → q.since.toNat + 800 * (stackOf s k).ageNet.toNat ≤ s.tick.toNat →
        exec (.requestPromotion k n) s = .next (modStack s k fun x =>
          { x with queue := mapNth (fun z => { z with cls := .host, since := s.tick, promoted := false }) n x.queue,
                   toHost := satAdd x.toHost 1 })) ∧
      (q.cls = .host → (stackOf s k).ageHost ≠ 0 → q.since.toNat + 800 * (stackOf s k).ageHost.toNat ≤ s.tick.toNat →
        exec (.requestPromotion k n) s = .next (modStack s k fun x =>
          { x with queue := mapNth (fun z => { z with cls := .sched, since := s.tick, promoted := true }) n x.queue,
                   toSched := satAdd x.toSched 1 }))) ∧
    ((bankOf s (bankKeyOf b)).keep = false ∨ s.tick.toNat < (bankOf s (bankKeyOf b)).lastUse.toNat + 800 →
      exec (.rowIdleClose b) s = .next s) ∧
    ((bankOf s (bankKeyOf b)).keep = true → (bankOf s (bankKeyOf b)).lastUse.toNat + 800 ≤ s.tick.toNat →
      ∃ u, exec (.rowIdleClose b) s = .next u ∧ (bankOf u (bankKeyOf b)).openRow = none ∧ u.mem = s.mem ∧
        (stackOf u b.stack).queue = (stackOf s b.stack).queue)

/-- Refresh, training, clock changes, parity replay and self-refresh of the stacks. Every bank owes one refresh more at a
refresh tick, up to eight; a refresh closes the row and, complete, is owed no more, unless the bank owes eight, when the next
begins at once; a step of a periodic pass takes a bank as a refresh does and pays none. A pass that finds every eye is
counted; one that a clock change finds gathering data is discarded, and none begins while a clock change is asked for. A clock
change empties the write queue, leaves pond mode and takes the new divider, and is complete after a full pass; so is an exit
from self-refresh. The fourth alert in succession fails the pseudo-channel. Self-refresh, entered with every unit idle, keeps
the eighths that hold regions, and all SRAM (R257 to R263, R265, R267, R268, R271, R272, R367, R369). The model's own choices:
a pass of a clock change is a full one of 22 µs, and what it gathered before is discarded (log entry 98); of several banks due the
lowest goes first (log entry 158); and the commands that an alert names take effect once (log entry 97). -/
def Obligations.DramMaintenance : Prop :=
  ∀ (s : State) (k : StackIx) (b : BankIx) (q : PcIx) (n : Fin 16) (clk : Byte), Canon s → Memory.wf s.mem = true →
    (inSelfRefresh s k = true → exec (.refreshTick k) s = .next s) ∧
    ((stackOf s k).mode = .clockChange → (stackOf s k).changeTick.toNat + 22 * 800 ≤ s.tick.toNat → inSelfRefresh s k = false) ∧
    ((stackOf s k).mode = .run ∨ (stackOf s k).mode = .training → inSelfRefresh s k = false) ∧
    (inSelfRefresh s k = false → ∃ u, exec (.refreshTick k) s = .next u ∧ u.mem = s.mem ∧
      ∀ x ∈ stackBanks k, (bankOf u (bankKeyOf x)).owed = min 8 ((bankOf s (bankKeyOf x)).owed + 1)) ∧
    ((bankOf s (bankKeyOf b)).owed = 0 ∨ (bankOf s (bankKeyOf b)).refreshing = true ∨ unitIdle s b = false ∨
        stackServes s b.stack = false ∨ (dueBanks s (s.tick.toNat + 192)).contains b = true →
      exec (.refreshIssue b) s = .next s) ∧
    ((bankOf s (bankKeyOf b)).owed ≠ 0 → (bankOf s (bankKeyOf b)).refreshing = false → unitIdle s b = true →
      stackServes s b.stack = true → (dueBanks s (s.tick.toNat + 192)).contains b = false →
      (∀ a ∈ allSegBanks (bankSeg b), a.bank.val < b.bank.val → (bankOf s (bankKeyOf a)).owed = 0) →
      ∃ u, exec (.refreshIssue b) s = .next u ∧ (bankOf u (bankKeyOf b)).refreshing = true ∧
        (bankOf u (bankKeyOf b)).openRow = none ∧ (bankOf u (bankKeyOf b)).owed = (bankOf s (bankKeyOf b)).owed ∧
        u.mem = s.mem ∧ u.dram.units = s.dram.units) ∧
    (∀ r, modBank s (bankKeyOf b) (fun x =>
        { x with refreshing := false, train := false, owed := if x.late || x.train then x.owed else x.owed - 1,
                 late := x.late && x.train }) = r →
      (bankOf s (bankKeyOf b)).refreshing = true →
      exec (.refreshComplete b) s = .next (forcedRefresh r b) ∧
      ((bankOf r (bankKeyOf b)).owed < 8 → forcedRefresh r b = r) ∧
      (8 ≤ (bankOf r (bankKeyOf b)).owed → (unitOf s (unitAt s b).key).running = none →
        (bankOf (forcedRefresh r b) (bankKeyOf b)).refreshing = true)) ∧
    ((bankOf s (bankKeyOf b)).refreshing = false → exec (.refreshComplete b) s = .next s) ∧
    ((stackOf s k).mode = .run → (stackOf s k).defer = none → exec (.trainingPeriodic ⟨k, none⟩) s =
      .next (modStack s k fun x => { x with mode := .training })) ∧
    ((stackOf s k).mode ≠ .run ∨ (stackOf s k).defer ≠ none → exec (.trainingPeriodic ⟨k, none⟩) s = .next s) ∧
    ((stackOf s b.stack).mode = .training → windowOpen s b = true →
      ∃ u, exec (.trainingPeriodic ⟨b.stack, some (b.die, b.bank)⟩) s = .next u ∧ (bankOf u (bankKeyOf b)).refreshing = true ∧
        (bankOf u (bankKeyOf b)).openRow = none ∧ (bankOf u (bankKeyOf b)).owed = (bankOf s (bankKeyOf b)).owed ∧
        bankBusy u b = true ∧ u.mem = s.mem ∧ u.dram.units = s.dram.units) ∧
    ((stackOf s b.stack).mode ≠ .training ∨ windowOpen s b = false →
      exec (.trainingPeriodic ⟨b.stack, some (b.die, b.bank)⟩) s = .next s) ∧
    ((stackOf s k).mode = .training →
      ((stackOf s k).defer = none → ∃ u, exec (.trainingPassEnd k 0) s = .next u ∧ (stackOf u k).mode = .run ∧
        (stackOf u k).passes = (stackOf s k).passes + 1 ∧ u.mem = s.mem) ∧
      ((stackOf s k).defer = some clk → ∃ u, exec (.trainingPassEnd k 0) s = .next u ∧ (stackOf u k).mode = .run ∧
        (stackOf u k).passes = (stackOf s k).passes ∧ (stackOf u k).discard = satAdd (stackOf s k).discard 1)) ∧
    ((stackOf s k).mode = .run → exec (.trainingPassEnd k 0) s = .next s) ∧
    ((stackOf s k).mode = .selfRefresh → s.host.attach ≠ .attached → exec (.trainingPassEnd k 0) s = .next s) ∧
    (((stackOf s k).mode = .clockChange ∧ inSelfRefresh s k = false) ∨
        ((stackOf s k).mode = .selfRefresh ∧ s.host.attach = .attached) → (stackOf s k).trained = false →
      ∃ u, exec (.trainingPassEnd k 0) s = .next u ∧ (stackOf u k).trained = true ∧
        (stackOf u k).mode = (stackOf s k).mode ∧ (stackOf u k).passes = (stackOf s k).passes + 1 ∧ u.mem = s.mem) ∧
    ((stackOf s k).defer = none → exec (.clockChangeStart k) s = .next s) ∧
    ((stackOf s k).mode = .run → (stackOf s k).defer = some clk →
      (stackIdle s k = false → exec (.clockChangeStart k) s = .next s) ∧
      (stackIdle s k = true → ∃ u, exec (.clockChangeStart k) s = .next u ∧ (stackOf u k).mode = .clockChange ∧
        (stackOf u k).memClk = clk ∧ (stackOf u k).defer = none ∧ (stackOf u k).pond = 0 ∧
        (tabWf [] (stackOf s k).wq = true → ∀ p : PcIx, tabGet [] (stackOf u k).wq p.val = []))) ∧
    ((stackOf s k).mode = .clockChange → (stackOf s k).trained = true → ∃ u, exec (.clockChangeComplete k) s = .next u ∧ (stackOf u k).mode = .run ∧
      u.mem = s.mem) ∧
    ((stackOf s k).mode ≠ .clockChange ∨ (stackOf s k).trained = false → exec (.clockChangeComplete k) s = .next s) ∧
    ((tabGet [] (stackOf s k).sent q.val).length ≤ n.val → exec (.parityAlert k q n) s = .next s) ∧
    (n.val < (tabGet [] (stackOf s k).sent q.val).length → ∃ u, exec (.parityAlert k q n) s = .next u ∧
      (stackOf u k).replays = satAdd (stackOf s k).replays 1 ∧ (stackOf u k).lastPc = BitVec.ofNat 6 q.val ∧
      u.mem = s.mem ∧
      (tabGet 0 (stackOf s k).alerts q.val % 16 ≠ n.val → (stackOf u k).pcFail = (stackOf s k).pcFail) ∧
      (tabGet 0 (stackOf s k).alerts q.val = 48 + n.val → (stackOf u k).pcFail.getLsbD q.val = true)) ∧
    (s.host.attach ≠ .quiescing → exec .selfRefreshEntered s = .next s) ∧
    ((∃ k', stackIdle s k' = false) → exec .selfRefreshEntered s = .next s) ∧
    (s.host.attach = .quiescing → (liveTenants s).any (stillQuiescing s) = false → (∀ k', stackIdle s k' = true) →
      ∃ u, exec .selfRefreshEntered s = .next u ∧
        u.host.attach = (if s.host.attachPend then .attached else .quiesced) ∧
        ∀ k', (stackOf u k').mode = .selfRefresh ∧ (stackOf u k').pasr0 = keepMask s k' 0 ∧
          (stackOf u k').pasr1 = keepMask s k' 8) ∧
    (s.host.attach = .attached → (∀ k', (stackOf s k').mode = .selfRefresh ∧ (stackOf s k').trained = true) →
      ∃ u, exec .selfRefreshExitDone s = .next u ∧
        (∀ k', (stackOf u k').mode = .run ∧ (stackOf u k').passes = (stackOf s k').passes ∧ (stackOf u k').trained = false) ∧
        (∀ a, a < 2 ^ 44 → tabGet 0 u.mem a = tabGet 0 s.mem a) ∧
        ∀ t : TenIx, (tenOf s t).state = .quiesced → (tenOf s t).quiesceThermal = false →
          (tenOf s t).quiesceFence = false → (tenOf u t).anchor = s.tick ∧
          ((tenOf u t).state = .running ∨ (tenOf u t).state = .slicedOut))

/-! ### Check code, rake, logs -/

/-- The rake pass, the logs and the spare fill. The oldest address awaiting rewrite is taken and a word that reads corrected
is written back whole, of a log too; a word that reads clean leaves everything as it was, and the last one of a sweep counts
it. A DRAM column is read by a CHECK with SCRUB of its unit, once its bank takes one (R204, R293, R294), one that a spare has
replaced is left out, and a unit under self-test is not read (R450). Clearing a log empties it. The spare fill, which needs
Rilef's cores to run, leaves every unused spare all zeros, every other byte as it was, and reports it (R289, R290, R293, R294,
R296). The model's own choices: a CHECK waits where it does not fit, and what one is (log entries 158 and 164); a cleared
log's head is 0 (log entry 94); and the fill's commands are 813 FILLs a segment (log entries 122 and 163). -/
def Obligations.RakeLogsAndSpares : Prop :=
  ∀ (s : State) (key : Nat) (rest : List Nat) (last : Bool) (bit : Nat), Canon s → Memory.wf s.mem = true →
    (s.log.rakeEn = false → exec .rakeTargetedRewrite s = .next s ∧ exec (.rakeSweep key last) s = .next s) ∧
    (s.log.rakePending = [] → exec .rakeTargetedRewrite s = .next s) ∧
    (wordTested s key = true → exec (.rakeSweep key last) s = .next s ∧
      (s.log.rakePending = key :: rest → exec .rakeTargetedRewrite s = .next s)) ∧
    (s.log.rakePending = key :: rest → s.log.rakeEn = true → key < 2 ^ 39 + 2 ^ 30 → wordTested s key = false → s.log.injArm = false →
      ((readWord s key).check = .clean → exec .rakeTargetedRewrite s =
        .next { s with log := { s.log with rakePending := rest } }) ∧
      ((readWord s key).check = .corrected bit → ∃ u, exec .rakeTargetedRewrite s = .next u ∧
        u.log.rakePending = rest ∧ u.log.rakeFixed = satAdd s.log.rakeFixed 1 ∧
        readStored u.mem key = encodeWord (readWord s key).d ∧
        ∀ k, k ≠ key → readStored u.mem k = readStored s.mem k)) ∧
    (∀ a, s.log.rakePending = key :: rest → s.log.rakeEn = true → placeOf key = .log 0 a →
      (decodeWord (logStored s 0 a)).check = .corrected bit → ∃ u, exec .rakeTargetedRewrite s = .next u ∧
        u.log.rakePending = rest ∧ u.log.rakeFixed = satAdd s.log.rakeFixed 1 ∧
        logStored u 0 a = encodeWord (decodeWord (logStored s 0 a)).d ∧ u.mem = s.mem) ∧
    (s.log.rakeSweep = false → exec (.rakeSweep key last) s = .next s) ∧
    (keyExists s key = false → exec (.rakeSweep key last) s = .next s) ∧
    (s.log.rakeEn = true → s.log.rakeSweep = true → keyExists s key = true → wordTested s key = false →
      bankOfKey s key = none → (∀ w ∈ rakeWords s key, w.2.check = .clean) →
      exec (.rakeSweep key last) s = .next { s with
        log := { s.log with rakeSweeps := if last then s.log.rakeSweeps + 1 else s.log.rakeSweeps } }) ∧
    (isDram key = true → bankOfKey s key = none → wordTested s key = false → s.log.rakePending = key :: rest → s.log.rakeEn = true →
      exec .rakeTargetedRewrite s = .next { s with log := { s.log with rakePending := rest } }) ∧
    (∀ b, s.log.rakeEn = true → keyExists s key = true → bankOfKey s key = some b → wordTested s key = false →
      (scrubFits s b = false →
        (s.log.rakePending = key :: rest → exec .rakeTargetedRewrite s = .next s) ∧
        (s.log.rakeSweep = true → exec (.rakeSweep key last) s = .next s)) ∧
      (scrubFits s b = true → s.log.injArm = false → bankEntries s b = [] → (∀ w ∈ rakeWords s key, w.2.check = .clean) →
        (s.log.rakePending = key :: rest → ∃ u, exec .rakeTargetedRewrite s = .next u ∧ u.log.rakePending = rest ∧
          u.mem = s.mem ∧ (unitOf u (unitAt s b).key).lop = 12 ∧ (unitOf u (unitAt s b).key).stat = 0 ∧
          (stackOf u b.stack).cmds = (stackOf s b.stack).cmds + 1) ∧
        (s.log.rakeSweep = true → ∃ u, exec (.rakeSweep key last) s = .next u ∧
          u.log.rakeSweeps = (if last then s.log.rakeSweeps + 1 else s.log.rakeSweeps) ∧ u.mem = s.mem ∧
          (unitOf u (unitAt s b).key).lop = 12 ∧ (unitOf u (unitAt s b).key).stat = 0 ∧
          (stackOf u b.stack).cmds = (stackOf s b.stack).cmds + 1))) ∧
    exec .evClr s = .next { s with log := { s.log with events := [], evHead := 0, evCount := 0 } } ∧
    exec .erClr s = .next { s with log := { s.log with errors := [], erHead := 0, erCount := 0 } } ∧
    (s.rst.coreHeld = true → exec .spareFill s = .next s) ∧
    (s.rst.coreHeld = false → s.log.injArm = false →
      ∃ u, exec .spareFill s = .next u ∧ u.log = { s.log with sparesFilled := true } ∧ u.pans = s.pans ∧
      (∀ k, (stackOf u k).cmds = (stackOf s k).cmds + BitVec.ofNat 64 (813 * ((List.finRange 16).map fun d =>
        ((((unusedSpares s k d).zip (fillHosts s k d (unusedSpares s k d).length)).map fun x => bankSeg x.2).dedup).length).sum)) ∧
      (∀ k i, i < 16 → inUnusedSpare s k = true → tabGet 0 u.mem (16 * k + i) = 0) ∧
      ∀ k i, i < 16 → inUnusedSpare s k = false → tabGet 0 u.mem (16 * k + i) = tabGet 0 s.mem (16 * k + i))

/-! ### Sensors, governor, calendar -/

/-- Sensors and the power governor. A sweep keeps its readings and adds one sample to the window, unless the governor is held
in reset; a reading of CRITICAL quiesces every running tenant. A window takes each stack's active bank-µs, and one without a
sample does nothing else. At or above the cap with no tenant to step, throttling starts at 16 or halves, down to 1; after eight
windows below the cap less HYST it doubles, and ends beyond 16; in between it stays, and the run of windows ends; so too under
CRITICAL. A loss of the calendar's hold is latched (R403, R404, R406, R407, R409). That a poisoned sample is discarded and its
sensor's last one stands is the model's reading (log entry 203). -/
def Obligations.SensorsAndGovernor : Prop :=
  ∀ (s : State) (r : Sweep), Canon s →
    (s.rst.coreHeld = true → ∃ u, exec (.sensorSweep r) s = .next u ∧ u.sen = s.sen.take r ∧
      u.cal = { s.cal with scap := r.scap } ∧ u.gov = s.gov ∧ u.ten = s.ten ∧ u.mem = s.mem) ∧
    (s.rst.coreHeld = false →
      ∃ u, exec (.sensorSweep r) s = .next u ∧ u.sen = s.sen.take r ∧ u.cal = { s.cal with scap := r.scap } ∧
      u.gov.powerN = (if powerLost r then s.gov.powerN else s.gov.powerN + 1) ∧
      u.gov.powerSum = (if powerLost r then s.gov.powerSum else s.gov.powerSum + r.inMv.toNat * r.inMa.toNat) ∧ u.mem = s.mem ∧
      (r.bad ≠ none → (tabGet QErr.reset u.host.qerr 43).par = satAdd (tabGet QErr.reset s.host.qerr 43).par 1) ∧
      (r.bad = none → governorSen s r = s.sen.take r) ∧
      (criticalNow { s with sen := governorSen s r } = false → u.gov.critical = s.gov.critical) ∧
      (criticalNow { s with sen := governorSen s r } = true → u.gov.critical = true ∧ (s.gov.critical = false →
        ∀ t : TenIx, (tenOf s t).state = .running → (tenOf u t).quiesceThermal = true))) ∧
    (s.gov.powerN = 0 → exec .governorWindow s = .next { s with sen := s.sen.endWindow }) ∧
    (∀ k, k < 12 → tabGet 0 s.sen.endWindow.pond k = BitVec.ofNat 32 (tabGet 0 s.sen.pondNow k / 800)) ∧
    (s.gov.powerN ≠ 0 → s.gov.critical = false ∨ s.gov.warmNow = true ∨ s.gov.coolRun + 1 < 1000 → ∃ u, exec .governorWindow s = .next u ∧ u.mem = s.mem ∧
      u.sen = s.sen.endWindow ∧
      u.gov.powerN = 0 ∧ u.gov.powerSum = 0 ∧
      (s.gov.powerSum % (1000 * s.gov.powerN) = 0 →
        u.gov.power = BitVec.ofNat 32 (s.gov.powerSum / (1000 * s.gov.powerN))) ∧
      (s.gov.cap.toNat * 10 ^ 6 * s.gov.powerN ≤ s.gov.powerSum → runningTenants s = [] → u.gov.low8 = 0 ∧
        (s.gov.depth = 0 → u.gov.depth = 16) ∧ (s.gov.depth = 1 → u.gov.depth = 1) ∧
        (1 < s.gov.depth.toNat → u.gov.depth.toNat = s.gov.depth.toNat / 2)) ∧
      (s.gov.powerSum < (s.gov.cap.toNat - s.gov.hyst.toNat) * 10 ^ 6 * s.gov.powerN → s.gov.low8 = 7 →
        s.gov.depth ≠ 0 → u.gov.low8 = 0 ∧
        u.gov.depth.toNat = (if s.gov.depth.toNat < 16 then 2 * s.gov.depth.toNat else 0)) ∧
      ((s.gov.cap.toNat - s.gov.hyst.toNat) * 10 ^ 6 * s.gov.powerN ≤ s.gov.powerSum →
        s.gov.powerSum < s.gov.cap.toNat * 10 ^ 6 * s.gov.powerN →
        u.gov.low8 = 0 ∧ u.gov.depth = s.gov.depth)) ∧
    exec .calHoldLoss s = .next { s with cal := { s.cal with lossLatched := true } }

/-! ### Ethernet and RDMA -/

/-- Ports, frames and messages. A frame with a bad FCS is counted, one above 10,240 bytes, a PAUSE or an unsupported one is
dropped and counted, priority flow control stops and restarts the port, and a service or RDMA frame takes its 64-byte entries
of the 4,096, or is dropped where they are not free. A packet marked for congestion is answered with a notification. A message
whose first packet has come is judged by its sequence and then by its key: out of sequence, or with a key that fails a check,
it is answered with a NAK and places nothing; else it is accepted, and its packets are placed as they come, each advancing the
PSN; the last is acknowledged, and its immediate signals the key's tally once; another opcode is answered with a NAK. A packet
with a poisoned word loses its message. A port that goes down loses its frames, its message and its ready pairs (R337, R372 to
R379, R464). The model's own choices: the NAK syndromes (log entry 46, PRESUMED), a packet behind the sequence (log entry
100), and how the packets of a message are taken (log entries 101 and 199). -/
def Obligations.NetworkMessages : Prop :=
  ∀ (s d : State) (n : PortIx) (q : Fin 64) (kind : FrameKind) (bytes : Nat) (psn : BitVec 24) (key : Word) (off : Dword)
    (data : List Byte) (len : Word) (op syn : Byte) (g : TlyIx) (rest : List (Option TlyIx)) (pr rdy fl hot ecn svc : Bool)
    (bad : Option Nat) (x : PortSt),
    Canon s → portOf s n = x → takeFrame s n q = d →
    (x.link = false → exec (.frameReceive n kind bytes true) s = .next s ∧ exec (.netLinkDown n) s = .next s) ∧
    (x.link = true →
      exec (.frameReceive n kind bytes false) s = .next (modPort s n fun y => { y with icrc := satAdd y.icrc 1 }) ∧
      (10240 < bytes ∨ kind = .pause ∨ kind = .other → exec (.frameReceive n kind bytes true) s =
        .next (modPort s n fun y => { y with drop := satAdd y.drop 1 })) ∧
      (bytes ≤ 10240 → kind = .pfc true →
        exec (.frameReceive n kind bytes true) s = .next (modPort s n fun y => { y with txOff := true })) ∧
      (bytes ≤ 10240 → kind = .pfc false → ∃ u, exec (.frameReceive n kind bytes true) s = .next u ∧ u.mem = s.mem ∧
        (portOf u n).txOff = false ∧ (portOf u n).txq = [] ∧
        (queuePoison s (38 + n.val) (x.txq.map (·.2)).sum = [] → ∀ o ∈ x.txq, o.1 ∈ u.out)) ∧
      (bytes ≤ 10240 → (kind = .service bad ∧ ecn = false ∧ svc = true) ∨ (kind = .rdma bad ecn ∧ svc = false) →
        (frameFits s n ((bytes + 63) / 64) = true →
          ∃ u, exec (.frameReceive n kind bytes true) s = .next u ∧ u.mem = s.mem ∧ Out.frameReady n ∈ u.out ∧
            (portOf u n).frames = x.frames ++ [{ entries := (bytes + 63) / 64, bad := bad, ecn := ecn, service := svc }] ∧
            (portOf u n).drop = x.drop ∧
            (x.xoff = false → (queueOf s (36 + n.val)).room 4096 < (bytes + 63) / 64 + 1024 →
              (portOf u n).xoff = true ∧ Out.pfc n true ∈ u.out)) ∧
        (frameFits s n ((bytes + 63) / 64) = false → exec (.frameReceive n kind bytes true) s =
          .next (queueDrop (modPort s n fun y => { y with drop := satAdd y.drop 1 }) (36 + n.val)))) ∧
      (∃ u, exec (.netLinkDown n) s = .next u ∧ (portOf u n).link = false ∧ (portOf u n).frames = [] ∧ (portOf u n).txq = [] ∧
        (portOf u n).cur = none ∧ u.mem = s.mem ∧ ((qpOf s n q).state = .ready → (qpOf u n q).state = .error))) ∧
    (testing s (.eth n) = true ∨ s.rst.sysHeld = true → exec (.portLinkUp n) s = .next s) ∧
    (testing s (.eth n) = false → s.rst.sysHeld = false →
      ∃ u, exec (.portLinkUp n) s = .next u ∧ (portOf u n).link = true ∧ (portOf u n).fec = true ∧
      (portOf u n).frames = x.frames ∧ u.mem = s.mem ∧
      (chanBusy s 10 = false → streamReady (modPort s n fun y => { y with link := true, fec := true }) = true →
        u.mir.outq = [] ∧ ∀ o ∈ s.mir.outq, o ∈ u.out)) ∧
    (∃ u, exec (.modulePresenceChange n pr rdy fl hot) s = .next u ∧ u.mem = s.mem ∧
      (cageOf u n).present = pr ∧ (cageOf u n).int = (pr && decide (s.rst.fw ≠ 1)) ∧
      (s.rst.fw ≠ 1 → (portOf u n).module = x.module ∧ u.rst.ospfRstN = s.rst.ospfRstN) ∧
      (s.rst.fw = 1 →
        (portOf u n).module = (if pr = false then 0 else if fl = true ∨ hot = true then 3 else if rdy = true then 2 else 1) ∧
        u.rst.ospfRstN.getLsbD n.val = pr ∧ u.rst.ospfLpwN.getLsbD n.val = (pr && !hot))) ∧
    (messageReady s n q = false → exec (.rdmaOtherOpcode n q psn op) s = .next s ∧
      exec (.rdmaRead n q psn key off len) s = .next s ∧ exec (.rdmaWrite n q psn key off data) s = .next s ∧
      exec (.rdmaWriteImm n q psn key off data) s = .next s) ∧
    (chanBusy s (txChan n) = true → exec (.rdmaRead n q psn key off len) s = .next s) ∧
    (chanBusy s (rxChan n) = true → exec (.rdmaWrite n q psn key off data) s = .next s ∧
      exec (.rdmaWriteImm n q psn key off data) s = .next s) ∧
    (∀ f fs, x.frames = f :: fs → (portOf d n).frames = fs ∧ d.mem = s.mem ∧ d.ten = s.ten ∧
      (f.bad = none → f.ecn = true → x.txOff = false → Out.cnp n q ∈ d.out) ∧
      (f.bad.isSome = true → (portOf d n).icrc = satAdd x.icrc 1)) ∧
    (x.frames = [] → portTurn s n = s ∧ serveFront s n = s) ∧
    (messageReady s n q = true →
      (packetBad s n = true → exec (.rdmaOtherOpcode n q psn op) s = .next (serveFront d n)) ∧
      (packetBad s n = false → psn ≠ (qpOf s n q).psn →
        exec (.rdmaOtherOpcode n q psn op) s = .next (serveFront (refuseSequence d n q) n)) ∧
      (packetBad s n = false → psn = (qpOf s n q).psn →
        exec (.rdmaOtherOpcode n q psn op) s = .next (serveFront (answerFrame d n (.nak n q 0x61)) n))) ∧
    (messageReady s n q = true → chanBusy s (txChan n) = false →
      (packetBad s n = true → exec (.rdmaRead n q psn key off len) s = .next (serveFront d n)) ∧
      (packetBad s n = false → psn ≠ (qpOf s n q).psn →
        exec (.rdmaRead n q psn key off len) s = .next (serveFront (refuseSequence d n q) n)) ∧
      (packetBad s n = false → psn = (qpOf s n q).psn →
        (keyFault s key false false off len.toNat = some syn →
          exec (.rdmaRead n q psn key off len) s = .next (serveFront (refuseMessage d n q key syn) n)) ∧
        (∀ r v e rd w, keyFault s key false false off len.toNat = none →
          modQp d n q (fun y => { y with psn := y.psn + BitVec.ofNat 24 (packets y len.toNat) }) = r →
          keyOf r (key.toNat % 256) = e → keyView r e = some v →
          readVia (Mover.start r e.owner (.sys (txChan n))) e.region v (e.koff + off.toNat) len.toNat = rd → rd.1.finish.s = w →
          (rd.1.blocked = true → exec (.rdmaRead n q psn key off len) s = .next (rd.1.wait s)) ∧
          (∀ h, rd.1.blocked = false → rd.1.halt = some h → exec (.rdmaRead n q psn key off len) s =
            .next (serveFront (haltSch w (txChan n) (netReq e (e.koff + off.toNat) n q) h.region h.off) n)) ∧
          (rd.1.blocked = false → rd.1.halt = none → rd.1.hostFail = true →
            exec (.rdmaRead n q psn key off len) s = .next (serveFront (answerFrame w n (.nak n q 0x63)) n)) ∧
          (rd.1.blocked = false → rd.1.halt = none → rd.1.hostFail = false →
            (txWait w n (readFrames (qpOf r n q) len.toNat) = true →
              exec (.rdmaRead n q psn key off len) s = .next (rd.1.wait s)) ∧
            (txWait w n (readFrames (qpOf r n q) len.toNat) = false →
              exec (.rdmaRead n q psn key off len) s = .next (serveFront (transmit
                (modPort (countSch w (txChan n) len.toNat) n fun y =>
                  { y with txBytes := y.txBytes + BitVec.ofNat 64 len.toNat })
                n (.readResp n q rd.2) (readFrames (qpOf r n q) len.toNat)) n)))))) ∧
    (∀ (imm : Bool) (i : Instr) (m : RxMsg), i = (if imm then .rdmaWriteImm n q psn key off data else .rdmaWrite n q psn key off data) →
      m = { qp := q, key := keyOf s (key.toNat % 256), off := (keyOf s (key.toNat % 256)).koff + off.toNat, data := data,
            left := packets (qpOf s n q) data.length, imm := imm, lost := false, nak := false } →
      messageReady s n q = true → chanBusy s (rxChan n) = false →
      (packetBad s n = true → exec i s = .next (portTurn (setMsg d n (m.drop true)) n)) ∧
      (packetBad s n = false → psn ≠ (qpOf s n q).psn →
        exec i s = .next (portTurn (refuseSequence (setMsg d n (m.drop false)) n q) n)) ∧
      (packetBad s n = false → psn = (qpOf s n q).psn →
        (keyFault s key true imm off data.length = some syn →
          exec i s = .next (portTurn (refuseMessage (setMsg d n (m.drop false)) n q key syn) n)) ∧
        (keyFault s key true imm off data.length = none → exec i s = .next (portTurn (setMsg s n (some m)) n)))) ∧
    (refuseSequence s n q).mem = s.mem ∧ (qpOf (refuseSequence s n q) n q).psn = (qpOf s n q).psn ∧
    (portOf (refuseSequence s n q) n).seqErr = satAdd x.seqErr 1 ∧
    (x.txOff = false → Out.nak n q 0x60 ∈ (refuseSequence s n q).out) ∧
    (refuseMessage s n q key syn).mem = s.mem ∧ (qpOf (refuseMessage s n q key syn) n q).psn = (qpOf s n q).psn ∧
    (portOf (refuseMessage s n q key syn) n).access = satAdd x.access 1 ∧
    (x.txOff = false → Out.nak n q syn ∈ (refuseMessage s n q key syn).out) ∧
    (∀ m : RxMsg, x.cur = some m → packetReady s n = true → chanBusy s (rxChan n) = false → ∀ w, takeFrame s n m.qp = w →
      (packetBad s n = true → nextPacket s n = (setMsg w n (m.drop (!m.lost)), true)) ∧
      (packetBad s n = false → m.lost = true → m.nak = false → nextPacket s n = (setMsg w n (m.drop false), true)) ∧
      (packetBad s n = false → m.lost = true → m.nak = true →
        nextPacket s n = (refuseSequence (setMsg w n (m.drop false)) n m.qp, true)) ∧
      (packetBad s n = false → m.lost = false →
        (m.left ≤ 1 → m.drop false = none) ∧ (1 < m.left → m.drop false = some { m with left := m.left - 1, lost := true, nak := false }) ∧
        (keyView w m.key = none → chanBusy (packetDone w n m (m.data.take (qpOf s n m.qp).bytes).length) (rxChan n) = false →
          nextPacket s n = (packetDone w n m (m.data.take (qpOf s n m.qp).bytes).length, true)) ∧
        (∀ v p r1 r2, keyView w m.key = some v →
          (writeVia (Mover.start w m.key.owner (.sys (rxChan n))) m.key.region v m.off
            (m.data.take (qpOf s n m.qp).bytes)).finish = p →
          countSch (modPort p.s n fun y => { y with rxBytes := y.rxBytes + BitVec.ofNat 64 (p.bits / 8) }) (rxChan n) (p.bits / 8) = r1 →
          (match m.key.owner with | some t => sendMirrored r1 t p.wrote | none => r1) = r2 →
          (p.blocked = true → nextPacket s n = (p.wait s, false)) ∧
          (p.blocked = false → p.halt = none →
            chanBusy (packetDone r2 n m (m.data.take (qpOf s n m.qp).bytes).length) (rxChan n) = false →
            nextPacket s n = (packetDone r2 n m (m.data.take (qpOf s n m.qp).bytes).length, true)) ∧
          (∀ h, p.blocked = false → p.halt = some h → chanBusy
              (haltSch r2 (rxChan n) (netReq m.key m.off n m.qp) h.region h.off) (rxChan n) = true →
            nextPacket s n = (setMsg (haltSch r2 (rxChan n) (netReq m.key m.off n m.qp) h.region h.off) n (m.drop false), false))))) ∧
    (∀ (m : RxMsg) (k : Nat) (u : State), packetDone s n m k = u →
      u.mem = s.mem ∧ (qpOf u n m.qp).psn = (qpOf s n m.qp).psn + 1 ∧
      (m.left ≤ 1 → (portOf u n).cur = none ∧ (x.txOff = false → Out.ack n m.qp ∈ u.out) ∧
        (qpOf u n m.qp).imm = (qpOf s n m.qp).imm ++ (if m.imm then [m.key.tly.map fun y => ⟨y.toNat, y.isLt⟩] else [])) ∧
      (1 < m.left → (portOf u n).cur = some { m with off := m.off + k, data := m.data.drop k, left := m.left - 1 } ∧ u.out = s.out)) ∧
    ((qpOf s n q).imm = [] → exec (.rdmaImmSignal n q) s = .next s) ∧
    ((qpOf s n q).imm = some g :: rest → exec (.rdmaImmSignal n q) s =
      .next (sendSignal (modQp s n q fun y => { y with imm := rest }) { tly := g, n := 1, src := .rdma n })) ∧
    ((qpOf s n q).imm = none :: rest →
      exec (.rdmaImmSignal n q) s = .next (modQp s n q fun y => { y with imm := rest }))

/-- Network commands of the mailbox. A port takes its flags, VLAN, priorities and addresses; a key bound takes the entry's next
generation and answers it; a key revoked is invalid from then on; a pair set is READY with its PSN, and one destroyed is as
after reset, and either loses the pair's message in progress; arguments outside their ranges are answered 0xA2 (R375, R379, R390).
Entry and tenant of a key are Rilef's to choose (log entry 52). -/
def Obligations.NetworkCommands : Prop :=
  ∀ (s : State) (slot : MbxIx) (img : List Byte) (n : PortIx) (q : Fin 64) (entry : Byte) (owner : Option TenIx) (v : RegView),
    Canon s →
    (Holds s slot 0x80 img →
      (fieldAt img 0x10 1 = n.val → fieldAt img 0x11 1 ≤ 3 → fieldAt img 0x12 2 ≤ 4095 → fieldAt img 0x14 1 ≤ 7 →
        exec (.netPortCfg slot) s = .next (respond (modPort s n fun x =>
          { x with cfgFlags := BitVec.ofNat 8 (fieldAt img 0x11 1), vlan := BitVec.ofNat 16 (fieldAt img 0x12 2),
                   pfc := BitVec.ofNat 8 (fieldAt img 0x14 1), mac := (img.drop 0x18).take 6, ip := (img.drop 0x20).take 16 })
          slot 0 [])) ∧
      (2 ≤ fieldAt img 0x10 1 ∨ 3 < fieldAt img 0x11 1 ∨ 4095 < fieldAt img 0x12 2 →
        exec (.netPortCfg slot) s = .next (respond s slot 0xA2 []))) ∧
    (Holds s slot 0x81 img → fieldAt img 0x10 2 ≠ 0x8000 → 2 ≤ fieldAt img 0x10 2 →
      regionView s (if 0x8000 ≤ fieldAt img 0x10 2 then none else owner) 0 (BitVec.ofNat 16 (fieldAt img 0x10 2)) = some v →
      fieldAt img 0x13 1 = 0 → fieldAt img 0x14 2 = 0xFFFF →
      (fieldAt img 0x12 1 ≤ 3 → fieldAt img 0x18 8 + fieldAt img 0x20 8 ≤ v.limit →
        (keyOf s entry.toNat).valid = false → ∃ u, exec (.netKeyBind slot entry owner) s =
          .next (respond u slot 0 (leBytes 4 (((keyOf s entry.toNat).gen + 1).toNat * 256 + entry.toNat))) ∧
          (keyOf u entry.toNat).valid = true ∧ (keyOf u entry.toNat).gen = (keyOf s entry.toNat).gen + 1 ∧
          (keyOf u entry.toNat).klen = fieldAt img 0x20 8 ∧ (keyOf u entry.toNat).koff = fieldAt img 0x18 8 ∧
          (keyOf u entry.toNat).tly = none ∧ u.mem = s.mem) ∧
      (3 < fieldAt img 0x12 1 ∨ v.limit < fieldAt img 0x18 8 + fieldAt img 0x20 8 →
        exec (.netKeyBind slot entry owner) s = .next (respond s slot 0xA2 []))) ∧
    (Holds s slot 0x82 img → fieldAt img 0x10 4 % 256 = entry.toNat →
      ((keyOf s entry.toNat).valid = true → (keyOf s entry.toNat).gen.toNat = fieldAt img 0x10 4 / 256 →
        exec (.netKeyRevoke slot) s =
          .next (respond (modKey s entry.toNat fun k => { k with valid := false }) slot 0 [])) ∧
      ((keyOf s entry.toNat).valid = false → exec (.netKeyRevoke slot) s = .next (respond s slot 0xA2 []))) ∧
    (Holds s slot 0x83 img → fieldAt img 0x10 1 = n.val → fieldAt img 0x12 2 = q.val →
      (fieldAt img 0x11 1 ≤ 2 → ∃ u, exec (.netQpSet slot) s = .next (respond u slot 0 []) ∧ (qpOf u n q).state = .ready ∧
        (qpOf u n q).psn = BitVec.ofNat 24 (fieldAt img 0x18 4) ∧ (qpOf u n q).remote = BitVec.ofNat 32 (fieldAt img 0x14 4) ∧
        (qpOf u n q).imm = (qpOf s n q).imm ∧ u.mem = s.mem ∧ u.net.keys = s.net.keys ∧
        (∀ m, (portOf s n).cur = some m → m.qp = q → (portOf u n).cur = some { m with lost := true, nak := false }) ∧
        ∀ p, (portOf u p).link = (portOf s p).link ∧ (portOf u p).frames = (portOf s p).frames ∧
          (portOf u p).txq = (portOf s p).txq) ∧
      (2 < fieldAt img 0x11 1 → exec (.netQpSet slot) s = .next (respond s slot 0xA2 []))) ∧
    (Holds s slot 0x84 img →
      (fieldAt img 0x10 1 = n.val → fieldAt img 0x12 2 = q.val → ∃ u, exec (.netQpDestroy slot) s = .next (respond u slot 0 []) ∧
        (qpOf u n q).state = .reset ∧ (qpOf u n q).imm = (qpOf s n q).imm ∧ u.mem = s.mem) ∧
      (64 ≤ fieldAt img 0x12 2 → exec (.netQpDestroy slot) s = .next (respond s slot 0xA2 [])))

/-! ### The mirror pair -/

/-- The mirror pair by mailbox. MIR_PAIR sends the card's own identity, takes its role with the partner's stored digest and
starts the baseline of the tenants named, fenced at once where TKO_IN is asserted; a digest that is not the stored one is
answered 0xB2 and logged; MIR_ACCEPT stores the digest; MIR_UNPAIR leaves the card unpaired with TKO_OUT released and no
tenant fenced (R384, R385, R388 to R390). That MIR_UNPAIR ends a fence and lets the rings resume is the model's choice (log entry
53). -/
def Obligations.MirrorCommands : Prop :=
  ∀ (s : State) (slot : MbxIx) (img partner : List Byte) (interval : Nat) (n : PortIx) (q : Fin 64), Canon s →
    (Holds s slot 0x90 img → fieldAt img 0x11 1 = n.val → fieldAt img 0x12 2 = q.val →
      (s.mir.role ≠ .unpaired → exec (.mirPair slot partner interval) s = .next (respond s slot 0xA2 [])) ∧
      (s.mir.role = .unpaired → 1 ≤ fieldAt img 0x10 1 → fieldAt img 0x10 1 ≤ 2 → (qpOf s n q).state = .ready →
        (∀ t : TenIx, (BitVec.ofNat 16 (fieldAt img 0x14 2)).getLsbD t.val = true → (tenOf s t).state ≠ .empty) →
        interval ≤ 2 ^ 28 →
        (s.mir.partner ≠ [] → s.mir.partner = padTo 0 32 partner → (fieldAt img 0x10 1 = 1 → chanBusy s 10 = false) →
          (fieldAt img 0x10 1 = 1 → ∀ t : TenIx, (BitVec.ofNat 16 (fieldAt img 0x14 2)).getLsbD t.val = true →
            ∀ g ∈ (tenOf s t).regions, g.mirrored = false) → ∃ u,
          exec (.mirPair slot partner interval) s = .next (respond u slot 0 []) ∧ u.mir.sync = .baseline ∧
          u.mir.role = (if fieldAt img 0x10 1 = 1 then (if s.mir.tkoIn then .fenced else .primary) else .secondary) ∧
          Out.identity (Config.sha256 Config.certificate) ∈ u.out ∧
          u.mir.tenants = BitVec.ofNat 16 (fieldAt img 0x14 2) ∧ u.mir.port = n ∧ u.mir.qp = q ∧ u.mem = s.mem) ∧
        (s.mir.partner ≠ [] → s.mir.partner = padTo 0 32 partner → fieldAt img 0x10 1 = 1 →
          (chanBusy s 10 = true → exec (.mirPair slot partner interval) s = .next s) ∧
          ∀ x, (maskTenants (BitVec.ofNat 16 (fieldAt img 0x14 2))).foldl (fun y t =>
              modTen y t fun z => { z with mirroredValid := false, lag := 0, mirrorBytes := 0 })
            { emit s [.identity (Config.sha256 Config.certificate)] with mir := { s.mir with
              role := .primary, sync := .baseline, port := n, qp := q, tenants := BitVec.ofNat 16 (fieldAt img 0x14 2),
              idMism := false, lastEdge := s.tick, lastPacket := s.tick, hbLost := false, silent := false, buffer := [],
              records := [], unacked := [], outq := [] } } = x →
            (∀ r, sendBaselines x (maskTenants (BitVec.ofNat 16 (fieldAt img 0x14 2))) = .ok r →
              exec (.mirPair slot partner interval) s = .next (respond (fence r) slot 0 [])) ∧
            ∀ m, sendBaselines x (maskTenants (BitVec.ofNat 16 (fieldAt img 0x14 2))) = .error m →
              exec (.mirPair slot partner interval) s = .next (m.wait s)) ∧
        (s.mir.partner ≠ padTo 0 32 partner → exec (.mirPair slot partner interval) s =
          .next (respond (logEvent { emit s [.identity (Config.sha256 Config.certificate)] with
            mir := { s.mir with idMism := true } } 0xB2 [] none) slot 0xB2 [])))) ∧
    (Holds s slot 0x91 img → ∃ u, exec (.mirAccept slot) s = .next (respond u slot 0 []) ∧ u.mem = s.mem ∧
      u.mir = { s.mir with partner := padTo 0 32 ((img.drop 0x10).take 32), idMism := false } ∧
      u.rst.opt.partner = padTo 0 32 ((img.drop 0x10).take 32)) ∧
    (Holds s slot 0x92 img → ∃ u, exec (.mirUnpair slot) s = .next (respond u slot 0 []) ∧ u.mem = s.mem ∧
      u.mir.role = .unpaired ∧ u.mir.tkoOut = false ∧ u.mir.tenants = 0 ∧ u.mir.hbOut = s.mir.hbOut ∧
      (∀ t : TenIx, (tenOf u t).quiesceFence = false) ∧
      ∀ g : RingIx, ringOf u g = if s.mir.role = .fenced ∧ s.host.attach = .attached then (ringOf s g).resume else ringOf s g)

/-- The mirror stream, the heartbeat and takeover. A secondary buffers writes, applies them with their tenant's record and
answers its tide; a primary counts what is not acknowledged. HB_OUT toggles while the service runs. One silent window is
logged; both make a synchronised secondary take over, with TKO_OUT high, and one that is not leave the pair; a taken tenant
starts at TIDE + 1. TKO_IN fences a primary: its tenants quiesce and its rings stop; the partner's release of the line is seen
(R382 to R388). The rounding of the takeover's anchor is the model's reading (log entry 135). -/
def Obligations.MirrorStreamAndTakeover : Prop :=
  ∀ (s : State) (t : TenIx) (region : Half) (off : Nat) (data rec_ : List Byte) (tide : Dword) (g : Gear), Canon s →
    (s.mir.role ≠ .secondary → exec (.mirrorWriteReceive t region off data) s = .next s ∧
      exec (.mirrorRecordReceive rec_) s = .next s ∧ exec .heartbeatLost s = .next s ∧ exec .streamSilent s = .next s) ∧
    (s.mir.role = .secondary →
      exec (.mirrorWriteReceive t region off data) s = .next { countMirror s data.length with mir := { s.mir with
        buffer := s.mir.buffer ++ [{ ten := t, region := region, off := off, len := data.length, stored := protect data }],
        lastPacket := s.tick, silent := false } } ∧
      (chanBusy s 11 = true → exec (.mirrorRecordReceive rec_) s = .next s) ∧
      (chanBusy s 11 = false →
        (recordTenant s rec_ = none → exec (.mirrorRecordReceive rec_) s =
          .next { countMirror s rec_.length with mir := { s.mir with lastPacket := s.tick, silent := false } }) ∧
        (∀ m, bufferMover { countMirror s rec_.length with mir := { s.mir with lastPacket := s.tick, silent := false } } t = m →
          recordTenant s rec_ = some t →
          (m.blocked = true → exec (.mirrorRecordReceive rec_) s = .next (m.wait s)) ∧
          (m.blocked = false → m.halt = none → ∃ u, exec (.mirrorRecordReceive rec_) s = .next u ∧
            Out.mirrorAckOut t (BitVec.ofNat 64 (fieldAt rec_ 8 8)) ∈ u.out ∧ tabGet [] u.mir.records t.val = rec_ ∧
            u.mir.buffer = m.s.mir.buffer.filter (fun w => w.ten != t) ∧ (∀ w ∈ u.mir.buffer, w.ten ≠ t) ∧ (tenOf u t).mirroredValid = true ∧
            (tenOf u t).mirroredTide = BitVec.ofNat 32 (fieldAt rec_ 8 8) ∧ u.mem = m.s.mem))) ∧
      (edgeLate s = false ∨ s.mir.hbLost = true → exec .heartbeatLost s = .next s) ∧
      (packetLate s = false ∨ s.mir.silent = true → exec .streamSilent s = .next s) ∧
      (s.mir.hbLost = false → edgeLate s = true → s.mir.silent = false → packetLate s = false → exec .heartbeatLost s =
        .next (logEvent { s with mir := { s.mir with hbLost := true } } 0xB3 [] none)) ∧
      (s.mir.silent = false → packetLate s = true → s.mir.hbLost = false → edgeLate s = false → exec .streamSilent s =
        .next (logEvent { s with mir := { s.mir with silent := true } } 0xB4 [] none)) ∧
      (s.mir.hbLost = false → edgeLate s = true → (s.mir.silent = true ∨ packetLate s = true) →
        (s.mir.sync = .synced → ∃ u, exec .heartbeatLost s = .next u ∧ u.mir.role = .taken ∧ u.mir.tkoOut = true ∧
          u.mir.buffer = [] ∧ u.mem = s.mem ∧ ∀ t : TenIx, s.mir.tenants.getLsbD t.val = true →
            (tenOf u t).anchor = BitVec.ofNat 64 ((takeoverMet s + 16000 + 799) / 800 * 800)) ∧
        (s.mir.sync ≠ .synced → ∃ u, exec .heartbeatLost s = .next u ∧ u.mir.role = .unpaired ∧ u.mem = s.mem ∧
          u.mir.tkoOut = s.mir.tkoOut)) ∧
      (s.mir.silent = false → packetLate s = true → (s.mir.hbLost = true ∨ edgeLate s = true) → s.mir.sync = .synced →
        ∃ u, exec .streamSilent s = .next u ∧ u.mir.role = .taken ∧ u.mir.tkoOut = true ∧ u.mem = s.mem)) ∧
    (s.mir.role ≠ .primary → exec (.mirrorAck t tide) s = .next s ∧
      exec .tkoInAssert s = .next { s with mir := { s.mir with tkoIn := true } }) ∧
    (s.mir.role = .primary →
      (∃ u, exec (.mirrorAck t tide) s = .next u ∧ u.mem = s.mem ∧
        u.mir.unacked = s.mir.unacked.filter (fun w => !(w.1 == t && decide (w.2.toNat ≤ tide.toNat))) ∧
        (tenOf u t).lag = BitVec.ofNat 8 (u.mir.unacked.filter fun w => w.1 == t).length ∧
        (tenOf u t).mirroredTide = tide.truncate 32) ∧
      (∃ u, exec .tkoInAssert s = .next u ∧ u.mir.role = .fenced ∧ u.mir.tkoIn = true ∧ u.mem = s.mem ∧
        (∀ t : TenIx, (tenOf s t).state = .running → (tenOf u t).quiesceFence = true) ∧
        ∀ n : RingIx, (ringOf s n).state = .run → (ringOf s n).flushing = none → (ringOf u n).state = .held)) ∧
    (∀ calls ups, ∃ u, exec (.syncStoreTick ⟨0, true, calls, ups⟩) s = .next u ∧ u.mir.tkoIn = false) ∧
    (s.mir.role = .unpaired ∨ s.rst.coreHeld = true ∨ s.rst.fw ≠ 1 → exec .heartbeatToggle s = .next s) ∧
    (s.mir.role ≠ .unpaired → s.rst.coreHeld = false → s.rst.fw = 1 → exec .heartbeatToggle s = .next { s with mir := { s.mir with hbOut := !s.mir.hbOut } }) ∧
    exec .hbInEdge s = .next { s with mir := { s.mir with hbIn := !s.mir.hbIn, lastEdge := s.tick, hbLost := false } } ∧
    (s.mir.role = .taken → (tenOf s t).state = .loaded → tabGet [] s.mir.records t.val = rec_ → rec_ ≠ [] →
      gearNo (tenOf s t) (BitVec.ofNat 3 (fieldAt rec_ 5 1)) = some g → (tenOf s t).elig.getLsbD g.gear.toNat = true →
      allAtClock s t g.memClk = true → ∃ u, exec (.takeoverTenantStart t) s = .next u ∧
        (tenOf u t).tide = BitVec.ofNat 64 (fieldAt rec_ 8 8) + 1 ∧ (tenOf u t).gear = g.gear ∧
        (tenOf u t).state = (if entryRuns s t = true ∧ s.slice.turnover = false then .running else .slicedOut) ∧
        u.mem = s.mem) ∧
    ((tenOf s t).state ≠ .loaded → exec (.takeoverTenantStart t) s = .next s)

/-! ### Resets and bring-up -/

/-- Reset sources. Each asserts its bit of SRC; the first since it was cleared is FIRST. A core reset holds the core domains,
halts the tenants and clears the store, and keeps SRAM; a system reset clears tenants, pans and the host's sequence numbers as
well; on a reach already held a source only holds; power-on clears all but the calendar and the flash. PERST_N is a host loss
or, by option, a system reset; the debug source needs the range open, and its operation room in queue 42 (R319, R337, R354,
R366, R416 to R421, R424, R454). The model's own choices: a core reset empties the gates with MASK and PORTS cleared too (log
entry 114), rails and lock are lost as BROWNOUT asserts (log entry 115), and how PERST_N and FIRST are recorded (log entry
112). -/
def Obligations.ResetSources : Prop :=
  ∀ (s : State) (low input sys : Bool) (src : Fin 8) (rest : List Reach), Canon s → Memory.wf s.mem = true →
    (∃ u, exec (.por low) s = .next u ∧ u.rst.standby = !low ∧ u.mem = [] ∧ u.rst.src = 0x01 ∧ u.rst.coreHeld = true ∧
      u.rst.sysHeld = true ∧ u.cal = { s.cal with set := false, epoch := 0, scap := 0 } ∧ u.rst.flash = s.rst.flash ∧ u.ten = [] ∧ u.pans = []) ∧
    (s.rst.standby = true → s.rst.sysHeld = false →
      (∃ u, exec .rstNAssert s = .next u ∧ u.rst.sysHeld = true ∧ u.rst.coreHeld = true ∧ u.rst.rstNLow = true ∧
        u.rst.src = s.rst.src ||| 0x04 ∧ u.rst.lastReach = 1 ∧ (s.rst.src = 0 → u.rst.first = 2) ∧ u.pans = [] ∧
        u.ten = [] ∧ u.sync.tallies = [] ∧ u.host.hnext = 1 ∧ u.host.dnext = 1 ∧ u.host.seqLost = true ∧
        u.svc.auth = false ∧ u.rst.flash = s.rst.flash) ∧
      (∃ u, exec (.brownout input) s = .next u ∧ u.rst.sysHeld = true ∧ u.rst.src = s.rst.src ||| 0x02 ∧
        u.rst.rails = false ∧ u.rst.lock = false ∧ u.rst.dramLost = true ∧ (input = true → u.rst.main48 = false)) ∧
      (∃ u, exec .prsntNHigh s = .next u ∧ u.rst.sysHeld = true ∧ u.rst.src = s.rst.src ||| 0x02 ∧
        u.rst.prsntLow = false ∧ u.rst.main48 = false ∧ u.rst.dramLost = true) ∧
      (s.host.perstSys = true → ∃ u, exec .perstAssert s = .next u ∧ u.rst.sysHeld = true ∧
        u.rst.src = s.rst.src ||| 0x10 ∧ u.rst.perstLow = true) ∧
      (s.host.perstSys = false → ∃ u, exec .perstAssert s = .next u ∧ u.host.linkUp = false ∧ u.rst.perstLow = true ∧
        u.rst.sysHeld = false ∧ u.rst.coreHeld = s.rst.coreHeld ∧ u.rst.src = s.rst.src ||| 0x10 ∧ u.pans = s.pans ∧
        u.mem = s.mem) ∧
      (s.rst.wdogOnce = true → ∃ u, exec .wdogExpiry s = .next u ∧ u.rst.sysHeld = true ∧ u.rst.lastReach = 1 ∧
        u.rst.src = s.rst.src ||| 0x08)) ∧
    (s.rst.standby = true → s.rst.sysHeld = true → ∃ u, exec .rstNAssert s = .next u ∧ u.rst.src = s.rst.src ||| 0x04 ∧
      u.rst.lastReach = s.rst.lastReach ∧ u.pans = s.pans ∧ u.ten = s.ten ∧ u.mem = s.mem ∧ u.host = s.host) ∧
    (s.rst.standby = true → s.rst.coreHeld = false →
      (s.rst.wdogOnce = false → ∃ u, exec .wdogExpiry s = .next u ∧ u.rst.coreHeld = true ∧ u.rst.sysHeld = s.rst.sysHeld ∧
        u.rst.lastReach = 0 ∧ u.rst.src = s.rst.src ||| 0x08 ∧ u.rst.wdogOnce = true ∧
        u.rst.wdogExpiry = satAdd s.rst.wdogExpiry 1 ∧ u.sync.tallies = [] ∧ u.sync.gates = [] ∧
        (∀ t : TenIx, (tenOf s t).state ≠ .empty → (tenOf u t).state = .halted) ∧
        (∀ p : PanIx, (panOf u p).state = .off ∧ (panOf u p).tenant = (panOf s p).tenant) ∧
        ∀ a, a < 2 ^ 44 → tabGet 0 u.mem a = tabGet 0 s.mem a) ∧
      (s.rst.hostPend = .core :: rest → ∃ u, exec .hostSourceAssert s = .next u ∧ u.rst.coreHeld = true ∧
        u.rst.src = s.rst.src ||| 0x40 ∧ u.rst.hostPend = rest) ∧
      (s.dbg.open_ = true → debugFits s = true →
        ∃ u, exec (.dbgResetRequest { system := false, bad := false }) s = .next u ∧ u.rst.coreHeld = true ∧
        u.rst.src = s.rst.src ||| 0x80)) ∧
    (s.rst.standby = true → s.rst.sysHeld = true → ∃ u, exec (.brownout input) s = .next u ∧ u.rst.rails = false ∧
      u.rst.lock = false ∧ u.rst.src = s.rst.src ||| 0x02 ∧ u.mem = s.mem ∧ (2 ≤ s.rst.phase.toNat →
        u.rst.phase = (if input = false ∧ s.rst.main48 = true then 2 else 0))) ∧
    (s.dbg.open_ = false → exec (.dbgResetRequest { system := sys, bad := false }) s =
      .next (if s.rst.poHeld = true ∨ s.rst.standby = false then s else if (queueOf s 42).full 64 then queueDrop s 42
        else passFree s 42 64 [1])) ∧
    (s.rst.standby = true → s.rst.poHeld = false → (queueOf s 42).full 64 = true →
      exec (.dbgResetRequest { system := sys, bad := false }) s = .next (queueDrop s 42)) ∧
    (s.rst.standby = true → s.rst.poHeld = false → (queueOf s 42).full 64 = false → ∃ u, exec (.dbgResetRequest { system := sys, bad := true }) s = .next u ∧ u.rst = s.rst ∧
      (tabGet QErr.reset u.host.qerr 42).par = satAdd (tabGet QErr.reset s.host.qerr 42).par 1) ∧
    (s.rst.hostPend = [] → exec .hostSourceAssert s = .next s) ∧
    (s.rst.stopped = 0 → exec .wdogKick s = .next { s with rst := { s.rst with wdogArmed := true, wdogOnce := false } }) ∧
    (s.rst.stopped ≠ 0 → exec .wdogKick s = .next s) ∧
    exec .rstNRelease s = .next { s with rst := { s.rst with rstNLow := false, asserted := s.rst.asserted &&& ~~~0x04#8 } } ∧
    exec .perstDeassert s = .next { s with rst := { s.rst with perstLow := false, asserted := s.rst.asserted &&& ~~~0x10#8 } } ∧
    (src.val = 3 ∨ src.val = 5 ∨ src.val = 6 ∨ src.val = 7 → exec (.resetSourceTimeout src) s =
      .next { s with rst := { s.rst with asserted := s.rst.asserted &&& ~~~((1#8) <<< src.val) } }) ∧
    (src.val ≠ 3 → src.val ≠ 5 → src.val ≠ 6 → src.val ≠ 7 → exec (.resetSourceTimeout src) s = .next s)

/-- Release. The core domains leave reset when no source holds them, the system domains are released, the clocks are good and
Rilef's copy is checked; the system domains when no source of their reach holds them and the root is locked, and the
timebase then counts from 0; the always-on domain with its calendar judged. Each release after a reset of its own reach sends
the notice. A clock that is not good in time holds its domain; the clocks from outside the card are waited for (R409, R410,
R423, R431). The model's own choices: the calendar is judged at the release (log entry 118), and the phases of bring-up and the
clocks from outside (log entries 113 and 193). -/
def Obligations.ResetRelease : Prop :=
  ∀ (s : State) (d : Fin 60),
    (coreFree s = false → exec (.resetRelease .core) s = .next s) ∧
    (coreFree s = true → ∃ u, exec (.resetRelease .core) s = .next u ∧ u.rst.coreHeld = false ∧ u.rst.phase = 9 ∧
      u.rst.abandoned = [] ∧ u.mem = s.mem ∧ u.pans = s.pans ∧ u.rst.src = s.rst.src ∧
      (s.rst.lastReach = 0 → Out.notice 1 (rstCause s) ∈ u.out)) ∧
    (systemFree s = false → exec (.resetRelease .system) s = .next s) ∧
    (systemFree s = true → ∃ u, exec (.resetRelease .system) s = .next u ∧ u.rst.sysHeld = false ∧ u.tick = 0 ∧
      u.rst.coreHeld = s.rst.coreHeld ∧ u.mem = s.mem ∧ (s.rst.lastReach = 1 → Out.notice 1 (rstCause s) ∈ u.out)) ∧
    (s.rst.poHeld = true → s.rst.standby = true → sourceHolds (releaseSource s 0) .powerOn = false →
      ∃ u, exec (.resetRelease .powerOn) s = .next u ∧ u.rst.poHeld = false ∧ u.rst.phase = 1 ∧
        Out.notice 1 (rstCause s) ∈ u.out ∧ u.mem = s.mem ∧
        (s.cal.lossLatched = true → u.cal.valid = false ∧ u.cal.sec = 0 ∧ u.cal.frac = 0) ∧
        (s.cal.lossLatched = false → u.cal = s.cal)) ∧
    (s.rst.poHeld = false → exec (.resetRelease .powerOn) s = .next s) ∧
    (d.val < 55 ∨ d.val = 58 → ∃ u, exec (.clkTimeout d) s = .next u ∧ u.mem = s.mem ∧
      u.rst = { s.rst with clkHeld := s.rst.clkHeld ||| ((1#60) <<< d.val) }) ∧
    (55 ≤ d.val → d.val ≠ 58 → exec (.clkTimeout d) s = .next s)

/-- Bring-up in its steps. The option step takes the valid copies, or the defaults where neither is, and each field outside
its range takes its default; a copy that the card has read before is what its flash holds; the rails, the root PLL, the
self-test, which marks and retires what fails, the SRAM fill, training and the DRAM fill follow in order, and each waits for
its turn; Rilef's copy is chosen and checked, and Rilef, ready, ends every command of an earlier run with ERR_RST_ABORTED
(R285 to R288, R417, R431, R433 to R437). The model's own choices: ST_SRAM holds at most 255 (log entry 163), the record and
the images of Rilef are operands (log entry 194) read once from outside and then from the card's flash (log entry 213), and
which block is in effect (log entry 117). -/
def Obligations.BringUp : Prop :=
  ∀ (s : State) (b0 b1 : List Byte) (o0 o1 : CopyRead OptBlock) (q0 q1 r0 r1 : CopyRead (List RetireEntry)) (x y a b : CopyRead (List Byte))
    (pans : List (PanIx × Fin 64)) (quads : List (QuadIx × Fin 64)) (units : List (StackIx × DieIx × Fin 264))
    (bad : List (StackIx × PcIx)), Canon s → Memory.wf s.mem = true →
    keptCopyRead s.rst.flash.optRead s.rst.flash.opt0 (readOptions b0) = o0 →
    keptCopyRead s.rst.flash.optRead s.rst.flash.opt1 (readOptions b1) = o1 →
    keptCopyRead s.rst.flash.optRead s.rst.flash.ret0 q0 = r0 → keptCopyRead s.rst.flash.optRead s.rst.flash.ret1 q1 = r1 →
    keptCopyRead s.rst.flash.fwRead s.rst.flash.fwA x = a → keptCopyRead s.rst.flash.fwRead s.rst.flash.fwB y = b →
    (∀ g c, s.rst.flash.optRead = true → s.rst.flash.opt0 = some (g, c) →
      o0 = { valid := (readOptions b0).valid, gen := g, content := c }) ∧
    (s.rst.flash.optRead = false → o0 = readOptions b0) ∧
    (s.rst.phase ≠ 1 ∨ s.rst.clkHeld ≠ 0 → exec (.optionLoadDone b0 b1 q0 q1) s = .next s) ∧
    (s.rst.phase = 1 → s.rst.clkHeld = 0 → s.rst.poHeld = false → sourceHolds (releaseSource s 1) .system = false →
      (o0.valid = false → o1.valid = false → r0.valid = false → r1.valid = false →
        ∃ u, exec (.optionLoadDone b0 b1 q0 q1) s = .next u ∧ u.rst.opt = effectiveOptions OptBlock.default ∧
          u.gov.cap = OptBlock.default.capW ∧ u.plc.retire = [] ∧ u.rst.optCopy = 3 ∧ u.rst.retCopy = 3 ∧ u.rst.flash.optRead = true ∧ u.mem = s.mem) ∧
      (o0.valid = true → o1.valid = false → r0.valid = true → r1.valid = false →
        ∃ u, exec (.optionLoadDone b0 b1 q0 q1) s = .next u ∧ u.rst.optCopy = 0 ∧ u.rst.retCopy = 0 ∧
          u.plc.retire = r0.content ∧ u.rst.opt = effectiveOptions o0.content ∧
          (badFields o0.content = [] → u.rst.opt = o0.content ∧ u.gov.cap = o0.content.capW) ∧
          (o0.content.capW.toNat < 1200 → u.gov.cap = OptBlock.default.capW) ∧
          u.rst.phase = (if s.rst.rails = true ∧ s.rst.lock = true then 4 else if s.rst.main48 = true then 2 else 0))) ∧
    (∃ u, exec .input48vGood s = .next u ∧ u.rst.main48 = true ∧ u.rst.prsntLow = true ∧ u.mem = s.mem ∧
      u.rst.phase = (if s.rst.phase = 0 ∧ s.rst.poHeld = false then 2 else s.rst.phase)) ∧
    (s.rst.phase = 2 → s.rst.clkHeld = 0 → exec .railsGood s = .next { s with
      rst := { s.rst with rails := true, phase := 3, asserted := s.rst.asserted &&& ~~~0x02#8 } }) ∧
    (s.rst.phase ≠ 2 ∨ s.rst.clkHeld ≠ 0 → exec .railsGood s = .next s) ∧
    (s.rst.phase = 3 → s.rst.rails = true → s.rst.clkHeld = 0 → ∃ u, exec .pllLocked s = .next u ∧ u.rst.lock = true ∧ u.rst.phase = 4 ∧
      u.rst.locks = s.rst.locks + 1 ∧ (s.rst.sysHeld = true → s.rst.poHeld = false → sourceHolds s .system = false →
        u.rst.sysHeld = false ∧ u.tick = 0)) ∧
    (s.rst.phase ≠ 3 ∨ s.rst.clkHeld ≠ 0 → exec .pllLocked s = .next s) ∧
    (s.rst.phase = 4 → s.rst.sysHeld = false → s.rst.clkHeld = 0 → ∃ u, exec (.selftestDone pans quads units) s = .next u ∧
      u.rst.phase = 5 ∧ u.log.stDone = true ∧ u.log.stPond = BitVec.ofNat 16 units.length ∧
      u.log.stSram.toNat = min 255 (pans.length + quads.length) ∧
      (∀ p ∈ pans, (panOf u p.1).stFail = true ∧ (panOf u p.1).retired = true) ∧
      ∀ q ∈ quads, u.plc.quadFail.getLsbD q.1.val = true) ∧
    (s.rst.phase ≠ 4 → exec (.selftestDone pans quads units) s = .next s) ∧
    (s.rst.phase = 5 → s.rst.sysHeld = false → s.rst.clkHeld = 0 → ∃ u, exec .sramFillDone s = .next u ∧ u.rst.phase = 6 ∧
      u.log.sramFilled = true ∧ (s.log.injArm = false → ∀ a, a < 2 ^ 44 → tabGet 0 u.mem a = 0) ∧
      (s.log.injArm = false → ∀ a, 2 ^ 44 ≤ a → tabGet 0 u.mem a = tabGet 0 s.mem a)) ∧
    (s.rst.phase ≠ 5 → exec .sramFillDone s = .next s) ∧
    (s.rst.phase = 6 → s.rst.sysHeld = false → s.rst.clkHeld = 0 → ∃ u, exec (.dramTrained bad) s = .next u ∧
      (∀ k, (stackOf u k).mode = .run ∧ (stackOf u k).ready = true ∧ (stackOf u k).passes = (stackOf s k).passes + 1) ∧
      (∀ z ∈ bad, (stackOf u z.1).pcFail.getLsbD z.2.val = true) ∧
      (s.rst.dramLost = true → u.rst.phase = 7) ∧
      (s.rst.dramLost = false → u.rst.fillDue = true ∧ (u.rst.phase = 8 ∨ u.rst.phase = 9))) ∧
    (s.rst.phase ≠ 6 → exec (.dramTrained bad) s = .next s) ∧
    (s.rst.phase = 7 → s.rst.sysHeld = false → s.rst.clkHeld = 0 → ∃ u, exec .dramFillDone s = .next u ∧
      u.log.dramFilled = true ∧ u.rst.dramLost = false ∧
      (s.log.injArm = false → ∀ a, 2 ^ 44 ≤ a → tabGet 0 u.mem a = 0) ∧
      (s.log.injArm = false → ∀ a, a < 2 ^ 44 → tabGet 0 u.mem a = tabGet 0 s.mem a)) ∧
    (s.rst.phase ≠ 7 → exec .dramFillDone s = .next s) ∧
    (s.rst.sysHeld = false → s.rst.poHeld = false → s.rst.fwCopyGood = false → 6 ≤ s.rst.phase.toNat →
      (a.valid = true → b.valid = false → ∃ u, exec (.fwCopyDone x y) s = .next u ∧ u.rst.fwCopyGood = true ∧
        u.rst.fwSel = false ∧ u.mem = s.mem) ∧
      (a.valid = false → b.valid = false → ∃ u, exec (.fwCopyDone x y) s = .next u ∧ u.rst.fwCopyGood = false ∧
        u.rst.fw = 2 ∧ u.rst.coreHeld = s.rst.coreHeld ∧ u.mem = s.mem)) ∧
    (s.rst.sysHeld = false → s.rst.poHeld = false → s.rst.fwCopyGood = true → 6 ≤ s.rst.phase.toNat →
      (s.rst.coreHeld = false ∨ s.rst.lastReach ≠ 0 → exec (.fwCopyDone x y) s = .next s) ∧
      (s.rst.coreHeld = true → s.rst.lastReach = 0 → a.valid = false → b.valid = false →
        ∃ u, exec (.fwCopyDone x y) s = .next u ∧ u.rst.fwCopyGood = false ∧ u.rst.fw = 2 ∧ u.rst.coreHeld = true ∧
          u.mem = s.mem)) ∧
    (s.rst.coreHeld = false → s.rst.fw ≠ 1 → s.rst.phase = 9 → ∃ u, exec .rilefReady s = .next u ∧ u.rst.fw = 1 ∧
      u.rst.wdogArmed = true ∧ u.rst.wdogOnce = false ∧ u.mem = s.mem ∧ ∀ n : MbxIx, slotPending u n = false) ∧
    (s.rst.coreHeld = true ∨ s.rst.fw = 1 → exec .rilefReady s = .next s)

/-- RST_CTRL, as the two commands and as the BAR0 write that both are: without the CONFIRM value, or with REACH 0 or 3, it is
dropped and counted in HOST_DROP.BAR0WR and does nothing else; with them the host's source is asked for that reach (R422). -/
def Obligations.ResetControlNeedsConfirm : Prop :=
  ∀ (s : State) (conf : Half) (v : Dword),
    (conf ≠ 0xA5C3 → exec (.rstCtrlCore conf) s = .next (dropBar0 s) ∧
      exec (.rstCtrlSystem conf) s = .next (dropBar0 s)) ∧
    exec (.rstCtrlCore 0xA5C3) s = .next { s with rst := { s.rst with hostPend := s.rst.hostPend ++ [.core] } } ∧
    exec (.rstCtrlSystem 0xA5C3) s = .next { s with rst := { s.rst with hostPend := s.rst.hostPend ++ [.system] } } ∧
    (v.toNat / 2 ^ 48 ≠ 0xA5C3 ∨ v.toNat % 4 = 0 ∨ v.toNat % 4 = 3 →
      exec (.bar0Write 0x500008 v) s = .next (dropBar0 s)) ∧
    (v.toNat / 2 ^ 48 = 0xA5C3 → v.toNat % 4 = 1 → exec (.bar0Write 0x500008 v) s = exec (.rstCtrlCore 0xA5C3) s) ∧
    (v.toNat / 2 ^ 48 = 0xA5C3 → v.toNat % 4 = 2 → exec (.bar0Write 0x500008 v) s = exec (.rstCtrlSystem 0xA5C3) s) ∧
    (dropBar0 s).host.bar0Drop = satAdd s.host.bar0Drop 1 ∧ (dropBar0 s).rst = s.rst ∧ (dropBar0 s).mem = s.mem

/-! ### Service port, identity, debug, BAR0 -/

/-- Triyx frames. A line comes through queue 40, or is dropped whole where it is too long or finds no room. While a command
executes every further one waits there, and is taken, oldest first, once none does; the last accepted SEQ again sends the
stored final line again and does nothing else; otherwise the command is accepted and runs. An unknown verb is answered 0xE1, a
line that fails its CRC or its parity check with the notice !CRC; the final line, once sent, lets a pending rate and a pending
reset take effect (R326, R330, R337, R419, R442 to R445, R447). The model's own choices: how a command is spelled, and that
nothing arrives while the always-on domain is held (log entry 131); and that a resend counts as a command for the session's
time (log entry 180). -/
def Obligations.TriyxFrames : Prop :=
  ∀ (s : State) (seq conf : Half) (i : Instr) (vb : Verb) (f : FinalLine) (ev : Bool) (a b c k : Nat) (u : TestUnit) (rate : BitVec 24)
    (sig : List Word) (pub : List Byte) (cs : List Byte) (l : TriyxLine) (rest : List TriyxLine),
    ((i, vb) ∈ [(Instr.idnt seq, Verb.idnt), (.sens seq, .sens), (.test seq u, .test u), (.logr seq ev a b, .logr ev a b),
        (.logc seq ev conf, .logc ev conf), (.rcau seq, .rcau), (.rsetC seq conf, .rset .core conf), (.rsetS seq conf, .rset .system conf),
        (.rsetP seq conf, .rset .powerOn conf), (.dump seq, .dump), (.hsetTlySet seq a b conf, .hset (.tlySet a b) conf),
        (.hsetTlySig seq a b conf, .hset (.tlySig a b) conf), (.hsetGateRel seq a conf, .hset (.gateRel a) conf),
        (.hsetGateRst seq a conf, .hset (.gateRst a) conf), (.calr seq, .calr), (.cals seq a b, .cals a b), (.optr seq, .optr),
        (.rreg seq a, .rreg a), (.baud seq a, .baud a), (.auth seq, .auth), (.auts seq sig pub, .auts sig pub),
        (.optw seq a b c, .optw a b c), (.retr seq a b, .retr a b), (.retc seq a, .retc a), (.dbunOpen seq, .dbun true),
        (.dbunLock seq, .dbun false), (.unknownVerb seq, .unknown)] →
      (s.rst.poHeld = true ∨ s.rst.standby = false → exec i s = .next s) ∧
      (s.rst.poHeld = false → s.rst.standby = true → ¬LineComes s seq vb → exec i s = .next (queueDrop s 40)) ∧
      (LineComes s seq vb → s.svc.active = true ∨ s.svc.queue ≠ [] → exec i s =
        .next (modSvc (queueSend s 40 (charWords (lineChars (.command seq vb))) none) fun x =>
          { x with queue := x.queue ++ [.command seq vb] })) ∧
      (LineComes s seq vb → s.svc.active = false → s.svc.queue = [] → s.svc.lseq = some seq → s.svc.final = some f →
        exec i s = .next (sendLine (modSvc (lineRead s seq vb) fun x => { x with sinceCmd := 0 }) (.finalLine seq f))) ∧
      (Fresh s seq vb → exec i s = .next (verbAct vb (accepted s seq vb)))) ∧
    (s.svc.queue = l :: rest → s.svc.active = false → s.rst.poHeld = false → s.rst.standby = true →
      (queuePoison s 40 (lineChars l).length = [] → nextLine s =
        runLine (queueTake (modSvc s fun x => { x with queue := rest }) 40 (lineChars l).length) l) ∧
      (queuePoison s 40 (lineChars l).length ≠ [] → nextLine s =
        lineFailed (takeChecked (modSvc s fun x => { x with queue := rest }) 40 (lineChars l).length).1)) ∧
    (s.svc.queue = [] ∨ s.svc.active = true → nextLine s = s) ∧
    (Fresh s seq .unknown → exec (.unknownVerb seq) s = .next (replyErr (accepted s seq .unknown) 0xE1)) ∧
    (s.rst.poHeld = false → s.rst.standby = true →
      (512 < cs.length ∨ (queueOf s 40).room 1024 < cs.length →
        exec (.badLine (.bytes cs)) s = .next (queueDrop s 40) ∧ exec (.badLine (.poison cs k)) s = .next (queueDrop s 40)) ∧
      (cs.length ≤ 512 → cs.length ≤ (queueOf s 40).room 1024 → s.svc.active = false → s.svc.queue = [] →
        (lineSeq cs = none → ∃ t, exec (.badLine (.bytes cs)) s = .next t ∧ t.svc = { s.svc with cCrc := satAdd s.svc.cCrc 1 } ∧
          Out.notice 0 0 ∈ t.out ∧ t.mem = s.mem ∧ ((lineText (.notice 0 0)).length ≤ (queueOf s 41).room 4096 →
            (tabGet LogEntry.zero t.log.events s.log.evHead).code = 0xE0)) ∧
        (lineSeq cs ≠ none → ∃ t, exec (.badLine (.bytes cs)) s = .next t ∧ t.svc = s.svc ∧ t.log = s.log ∧ t.mem = s.mem) ∧
        ∃ t, exec (.badLine (.poison cs k)) s = .next t ∧ t.svc = { s.svc with cCrc := satAdd s.svc.cCrc 1 } ∧
          Out.notice 0 0 ∈ t.out ∧ t.mem = s.mem ∧
          (tabGet QErr.reset t.host.qerr 40).par = satAdd (tabGet QErr.reset s.host.qerr 40).par 1)) ∧
    (tabGet QErr.reset (queueDrop s 40).host.qerr 40).drop = satAdd (tabGet QErr.reset s.host.qerr 40).drop 1 ∧
    (queueDrop s 40).svc = s.svc ∧ (queueDrop s 40).mem = s.mem ∧
    (s.svc.baudPend = none → s.svc.resetPend = none → exec .finalLineSent s = .next (drainLines s)) ∧
    (queuePoison s 41 ((queueOf s 41).count 4096) = [] → drainLines s = queueTake s 41 ((queueOf s 41).count 4096)) ∧
    (queuePoison s 41 ((queueOf s 41).count 4096) ≠ [] → Out.badLines ∈ (drainLines s).out) ∧
    (s.svc.baudPend = some rate → s.svc.resetPend = none → exec .finalLineSent s =
      .next (modSvc (drainLines s) fun x => { x with baud := rate, baudPend := none })) ∧
    (s.svc.baudPend = none → s.svc.resetPend = some .core → s.rst.standby = true → s.rst.coreHeld = false →
      ∃ t, exec .finalLineSent s = .next t ∧ t.rst.coreHeld = true ∧ t.rst.src = s.rst.src ||| 0x20 ∧ t.rst.lastReach = 0) ∧
    (s.svc.baudPend = none → s.svc.resetPend = some .powerOn → s.rst.standby = true → s.rst.poHeld = false →
      ∃ t, exec .finalLineSent s = .next t ∧ t.rst.src = 0x20 ∧ t.rst.first = 5 ∧ t.rst.poHeld = true ∧ t.mem = [])

/-- Triyx reads. IDNT, SENS and LOGR answer the lines of their groups, entries included; RCAU six registers, CALR three, OPTR
OPT_STAT and the block, RREG one register as a host reads it, RETR retirement entries; each ends OK with the number of its
lines. An argument outside its range is answered 0xE1 (R291, R403, R447). The model's own choices: the words of each line (log
entry 128), the index of LOGR (log entry 60), and the line of an entry that cannot be corrected (log entry 162). -/
def Obligations.TriyxReads : Prop :=
  ∀ (s : State) (seq : Half) (off first count : Nat) (ev : Bool),
    (Fresh s seq .idnt → exec (.idnt seq) s = .next (replyLines (accepted s seq .idnt)
      [textWords partNumber, [0x41], [0xB0], [Config.serial], imageInUse s, wordsOf32 (Config.sha256 Config.certificate)])) ∧
    (Fresh s seq .sens → exec (.sens seq) s = .next (replyLines (accepted s seq .sens) (sensorLines s))) ∧
    (Fresh s seq .rcau → ∃ t, exec (.rcau seq) s = .next t ∧ t.svc.active = false ∧ t.svc.lseq = some seq ∧ t.mem = s.mem ∧
      t.svc.final = some { err := none, lines := 6, text := [] } ∧ Out.line seq [rstCause s] ∈ t.out) ∧
    (Fresh s seq .calr → ∃ t, exec (.calr seq) s = .next t ∧ t.svc.active = false ∧ t.mem = s.mem ∧
      t.svc.final = some { err := none, lines := 3, text := [] }) ∧
    (Fresh s seq .optr → exec (.optr seq) s = .next (replyLines (accepted s seq .optr)
      ([optStat s] :: (groupsOf 64 64 (optImage s.rst.optGen s.rst.opt)).map wordsOf32))) ∧
    (Fresh s seq (.rreg off) →
      (off % 8 ≠ 0 ∨ 2 ^ 26 ≤ off → exec (.rreg seq off) s = .next (replyErr (accepted s seq (.rreg off)) 0xE1)) ∧
      (off % 8 = 0 → off < 2 ^ 26 → exec (.rreg seq off) s =
        .next (replyLines (bar0Read (accepted s seq (.rreg off)) off).2 [[(bar0Read (accepted s seq (.rreg off)) off).1]]))) ∧
    (Fresh s seq (.logr ev first count) →
      (∀ e : Nat → LogEntry, 1 ≤ count → count ≤ 256 → first < (if ev then 16384 else 4096) →
        (∀ i, i < count → tabGet LogEntry.zero (if ev then s.log.events else s.log.errors)
            ((first + i) % (if ev then 16384 else 4096)) = e i ∧ ((e i).stored = (e i).coded.stored ∨ e i = LogEntry.zero)) →
        exec (.logr seq ev first count) s = .next (replyLines (accepted s seq (.logr ev first count))
          ((List.range count).map fun i => wordsOf32 (entryBytes (e i))))) ∧
      (count = 1 → ev = false → first < 4096 →
        (∃ w ∈ storedList 4 (tabGet LogEntry.zero s.log.errors first).stored, (decodeWord w).check = .uncorrectable) →
        ∃ u, exec (.logr seq ev first count) s = .next u ∧ u.svc.active = false ∧ u.mem = s.mem ∧
          Out.line seq (wordsOf32 ((List.replicate 32 0).set 13 3)) ∈ u.out) ∧
      (count = 0 ∨ 256 < count ∨ (if ev then 16384 else 4096) ≤ first →
        exec (.logr seq ev first count) s = .next (replyErr (accepted s seq (.logr ev first count)) 0xE1))) ∧
    (Fresh s seq (.retr first count) →
      (1 ≤ count → count ≤ 64 → first + count ≤ 1024 → exec (.retr seq first count) s =
        .next (replyLines (accepted s seq (.retr first count))
          ((List.range count).map fun i => [match s.plc.retire[first + i]? with | some e => retireWord e | none => 0]))) ∧
      (count = 0 ∨ 64 < count ∨ 1024 < first + count →
        exec (.retr seq first count) s = .next (replyErr (accepted s seq (.retr first count)) 0xE1)))

/-- Triyx acts. RSET, HSET, CALS, BAUD, LOGC, DUMP and TEST take effect under their CONFIRM value, ranges and state, and are
refused with the code of R446 otherwise; a hand operation and a dump answer when they are done; a self-test that found nothing
answers PASS and leaves its unit filled with zeros, and a pan that failed is marked and retired. AUTH gives a nonce, AUTS
judges the answer, the authorisation ends 600 s after the last command, and the commands marked A are refused with 0xE4
outside an authorised session (R314, R317, R402, R409, R442, R447 to R450, R454). The model's own choices: what a failed test
does and how an abandoned one ends (log entry 129), RETC (log entry 130), the sizes of OPTW (log entry 132), what AUTS signs
(log entry 61), and what the 600 s count from (log entry 180). -/
def Obligations.TriyxActs : Prop :=
  ∀ (s : State) (seq conf : Half) (t : TlyIx) (g : GateIx) (p : PanIx) (v : Word) (rate sec frac k entry : Nat) (head : Half)
    (sig : List Word) (pub : List Byte) (ls : List (List Dword)), Canon s →
    (∀ r : Reach, Fresh s seq (.rset r conf) → ∀ i : Instr,
      i = (match r with | .core => .rsetC seq conf | .system => .rsetS seq conf | .powerOn => .rsetP seq conf) →
      (conf = 0xA5C3 → exec i s = .next (replyOk (modSvc (accepted s seq (.rset r conf)) fun x => { x with resetPend := some r }) 0)) ∧
      (conf ≠ 0xA5C3 → exec i s = .next (replyErr (accepted s seq (.rset r conf)) 0xE1))) ∧
    (Fresh s seq (.hset (.tlySet k v.toNat) conf) →
      (conf = 0xA5C3 → k = t.val → exec (.hsetTlySet seq k v.toNat conf) s =
        .next (handedOver s seq (.hset (.tlySet k v.toNat) conf) (.tlySet t v))) ∧
      (conf ≠ 0xA5C3 ∨ 4096 ≤ k → exec (.hsetTlySet seq k v.toNat conf) s =
        .next (replyErr (accepted s seq (.hset (.tlySet k v.toNat) conf)) 0xE1))) ∧
    (Fresh s seq (.hset (.tlySig k v.toNat) conf) →
      (conf = 0xA5C3 → k = t.val → exec (.hsetTlySig seq k v.toNat conf) s =
        .next (handedOver s seq (.hset (.tlySig k v.toNat) conf) (.tlySig t v))) ∧
      (conf ≠ 0xA5C3 ∨ 4096 ≤ k → exec (.hsetTlySig seq k v.toNat conf) s =
        .next (replyErr (accepted s seq (.hset (.tlySig k v.toNat) conf)) 0xE1))) ∧
    (Fresh s seq (.hset (.gateRel k) conf) →
      (conf = 0xA5C3 → k = g.val → exec (.hsetGateRel seq k conf) s =
        .next (handedOver s seq (.hset (.gateRel k) conf) (.gateRel g))) ∧
      (conf ≠ 0xA5C3 ∨ 256 ≤ k → exec (.hsetGateRel seq k conf) s =
        .next (replyErr (accepted s seq (.hset (.gateRel k) conf)) 0xE1))) ∧
    (Fresh s seq (.hset (.gateRst k) conf) →
      (conf = 0xA5C3 → k = g.val → exec (.hsetGateRst seq k conf) s =
        .next (handedOver s seq (.hset (.gateRst k) conf) (.gateRst g))) ∧
      (conf ≠ 0xA5C3 ∨ 256 ≤ k → exec (.hsetGateRst seq k conf) s =
        .next (replyErr (accepted s seq (.hset (.gateRst k) conf)) 0xE1))) ∧
    (Fresh s seq .dump → exec (.dump seq) s = .next { accepted s seq .dump with
      sync := { s.sync with snapReq := s.sync.snapReq ++ [.triyx] } }) ∧
    (Fresh s seq (.cals sec frac) →
      (sec < 2 ^ 49 → frac ≤ 32767 → exec (.cals seq sec frac) s =
        .next (replyOk (setCalendar (accepted s seq (.cals sec frac)) sec frac) 0)) ∧
      (2 ^ 49 ≤ sec ∨ 32767 < frac → exec (.cals seq sec frac) s = .next (replyErr (accepted s seq (.cals sec frac)) 0xE1))) ∧
    (Fresh s seq (.baud rate) →
      (9600 ≤ rate → rate ≤ 3000000 → exec (.baud seq rate) s = .next (replyOk (modSvc (accepted s seq (.baud rate)) fun x =>
        { x with baudPend := some (BitVec.ofNat 24 rate) }) 0)) ∧
      (rate < 9600 ∨ 3000000 < rate → exec (.baud seq rate) s = .next (replyErr (accepted s seq (.baud rate)) 0xE1))) ∧
    (Fresh s seq (.logc true head) →
      (s.log.evHead = head.toNat → exec (.logc seq true head) s = .next (replyOk { accepted s seq (.logc true head) with
        log := { s.log with events := [], evHead := 0, evCount := 0 } } 0)) ∧
      (s.log.evHead ≠ head.toNat → exec (.logc seq true head) s = .next (replyErr (accepted s seq (.logc true head)) 0xE5))) ∧
    (Fresh s seq (.logc false head) →
      (s.log.erHead = head.toNat → exec (.logc seq false head) s = .next (replyOk { accepted s seq (.logc false head) with
        log := { s.log with errors := [], erHead := 0, erCount := 0 } } 0)) ∧
      (s.log.erHead ≠ head.toNat → exec (.logc seq false head) s = .next (replyErr (accepted s seq (.logc false head)) 0xE5))) ∧
    (Fresh s seq (.test (.pan p)) →
      (s.rst.rails = false → exec (.test seq (.pan p)) s = .next (replyErr (accepted s seq (.test (.pan p))) 0xE3)) ∧
      (s.rst.rails = true → unitBusy s (.pan p) = true →
        exec (.test seq (.pan p)) s = .next (replyErr (accepted s seq (.test (.pan p))) 0xE2)) ∧
      (s.rst.rails = true → unitBusy s (.pan p) = false → ∃ u, exec (.test seq (.pan p)) s = .next u ∧
        u.svc.test = some (.pan p) ∧ u.svc.active = true ∧ (panOf u p).state = .selftest ∧ u.mem = s.mem)) ∧
    (s.svc.test = none → exec (.testComplete ls) s = .next s) ∧
    (s.svc.test = some (.pan p) →
      (∃ u, exec (.testComplete []) s = .next u ∧ u.svc.test = none ∧ (panOf u p).state = .off ∧
        u.svc.final = some { err := none, lines := 0, text := passText } ∧ (s.log.injArm = false → ∀ w, inUnit (.pan p) w = true →
          readStored u.mem w = { d := 0, p := 0, q := 0 })) ∧
      (ls ≠ [] → ∃ u, exec (.testComplete ls) s = .next u ∧ u.svc.test = none ∧ (panOf u p).stFail = true ∧
        (panOf u p).retired = true ∧ u.svc.final = some { err := none, lines := ls.length, text := failText })) ∧
    (Fresh s seq .auth → ∃ u, exec (.auth seq) s = .next u ∧ u.svc.nonce =
        some (Config.freeValue (accepted s seq .auth).free ++ Config.freeValue ((accepted s seq .auth).free + 1)) ∧
      u.svc.auth = s.svc.auth ∧ u.svc.active = false ∧ u.mem = s.mem) ∧
    (Fresh s seq (.auts sig pub) →
      (sig.length ≠ 24 → exec (.auts seq sig pub) s = .next (replyErr (accepted s seq (.auts sig pub)) 0xE1)) ∧
      (sig.length = 24 → ∃ u, exec (.auts seq sig pub) s = .next u ∧ u.mem = s.mem ∧ u.svc.auth = signatureGood s sig pub)) ∧
    (authTicks ≤ s.svc.sinceCmd → exec .authTimeout s = .next { s with svc := { s.svc with auth := false } }) ∧
    (s.svc.sinceCmd < authTicks → exec .authTimeout s = .next s) ∧
    (Fresh s seq (.dbun true) →
      (s.svc.auth = false → exec (.dbunOpen seq) s = .next (replyErr (accepted s seq (.dbun true)) 0xE4)) ∧
      (s.svc.auth = true →
        ∃ u, exec (.dbunOpen seq) s = .next u ∧ u.dbg.open_ = true ∧ u.dbg.byTriyx = true ∧ u.dbg.opens = s.dbg.opens + 1)) ∧
    (Fresh s seq (.dbun false) →
      (s.svc.auth = false → exec (.dbunLock seq) s = .next (replyErr (accepted s seq (.dbun false)) 0xE4)) ∧
      (s.svc.auth = true → ∃ u, exec (.dbunLock seq) s = .next u ∧ u.dbg.open_ = false ∧ u.dbg.opens = s.dbg.opens)) ∧
    (Fresh s seq (.retc entry) →
      (s.svc.auth = false → exec (.retc seq entry) s = .next (replyErr (accepted s seq (.retc entry)) 0xE4)) ∧
      (s.svc.auth = true → entry < s.plc.retire.length → ∃ u, exec (.retc seq entry) s = .next u ∧
        u.plc.retire = dropNth entry s.plc.retire ∧ u.pans = s.pans ∧ u.mem = s.mem) ∧
      (s.svc.auth = true → s.plc.retire.length ≤ entry →
        exec (.retc seq entry) s = .next (replyErr (accepted s seq (.retc entry)) 0xE1))) ∧
    (Fresh s seq (.optw 0x10 2 k) →
      (s.svc.auth = false → exec (.optw seq 0x10 2 k) s = .next (replyErr (accepted s seq (.optw 0x10 2 k)) 0xE4)) ∧
      (s.svc.auth = true → 1200 ≤ k → k ≤ 1900 → ∃ u, exec (.optw seq 0x10 2 k) s = .next u ∧ u.rst.opt = s.rst.opt ∧ u.gov = s.gov ∧
        u.svc.final = some { err := none, lines := 0, text := [] } ∧ u.rst.flash = (writeOption s fun o =>
          { o with capW := BitVec.ofNat 16 k }).rst.flash) ∧
      (s.svc.auth = true → k < 1200 ∨ 1900 < k →
        exec (.optw seq 0x10 2 k) s = .next (replyErr (accepted s seq (.optw 0x10 2 k)) 0xE1)))

/-- Identity, the debug range and BAR0. SPDM answers versions, capabilities and algorithms in that order, and every later
request before them is an error; slot 0 alone holds a certificate. A read of DBG_CHAL gives a challenge and draws the next;
DBG_UNLOCK opens with the inverse of the challenge last read and otherwise is dropped and counted. A write of BAR0 to a
reserved or locked offset is dropped and counted, one to a read-only register does nothing, and the writes that are commands
of their own have their effect (R12, R290, R297, R343, R356, R424, R452, R454). The model's own choices: the codes and forms
of SPDM (log entry 62, PRESUMED), an unlock or a lock without CONFIRM (log entry 124), and a challenge that may answer more
than once (log entry 125). -/
def Obligations.IdentityDebugAndBar0 : Prop :=
  ∀ (s : State) (asym hash resp : Word) (n4 : BitVec 4) (off len conf : Half) (nonce : List Byte) (index : Byte) (m : List Byte)
    (o : BitVec 26) (v : Dword) (slot : MbxIx) (k : Fin 8),
    exec .getVersion s = .next (spdm { s with svc := { s.svc with spdmVersion := true, spdmAlgs := false } } 0x04 [0x00, 0x13]) ∧
    (s.svc.spdmVersion = false → exec .getCapabilities s = .next (spdmError s 4) ∧
      exec (.negotiateAlgorithms asym hash) s = .next (spdmError s 4)) ∧
    (s.svc.spdmVersion = true →
      exec .getCapabilities s = .next (spdm s 0x61 (leBytes 4 0x16)) ∧
      (asym.getLsbD 7 = true → hash.getLsbD 1 = true → exec (.negotiateAlgorithms asym hash) s =
        .next (spdm { s with svc := { s.svc with spdmAlgs := true } } 0x63 (leBytes 4 0x80 ++ leBytes 4 0x02))) ∧
      (asym.getLsbD 7 = false ∨ hash.getLsbD 1 = false →
        exec (.negotiateAlgorithms asym hash) s = .next (spdmError s 1))) ∧
    (s.svc.spdmVersion = false ∨ s.svc.spdmAlgs = false → exec .getDigests s = .next (spdmError s 4) ∧
      exec (.getCertificate n4 off len) s = .next (spdmError s 4) ∧ exec (.challenge n4 nonce) s = .next (spdmError s 4) ∧
      exec (.getMeasurements index nonce) s = .next (spdmError s 4)) ∧
    (s.svc.spdmVersion = true → s.svc.spdmAlgs = true →
      exec .getDigests s = .next (spdm s 0x01 (0x01 :: Config.sha384 Config.certificate)) ∧
      (n4 ≠ 0 → exec (.getCertificate n4 off len) s = .next (spdmError s 1) ∧
        exec (.challenge n4 nonce) s = .next (spdmError s 1)) ∧
      (Config.certificate.length ≤ off.toNat → exec (.getCertificate 0 off len) s = .next (spdmError s 1)) ∧
      (off.toNat < Config.certificate.length → ∀ part, (Config.certificate.drop off.toNat).take len.toNat = part →
        exec (.getCertificate 0 off len) s = .next (spdm s 0x02 (leBytes 2 part.length ++
          leBytes 2 (Config.certificate.length - off.toNat - part.length) ++ part))) ∧
      exec (.challenge 0 nonce) s = .next (spdm s 0x03 (Config.sha384 Config.certificate ++ nonce ++
        Config.identitySign (Config.sha384 Config.certificate ++ nonce))) ∧
      (measurement s index.toNat = some m → exec (.getMeasurements index nonce) s =
        .next (spdm s 0x60 (index :: m ++ Config.identitySign (nonce ++ index :: m)))) ∧
      (measurement s index.toNat = none → exec (.getMeasurements index nonce) s = .next (spdmError s 1))) ∧
    (∃ u, exec .dbgChalRead s = .next u ∧ u.out = s.out ++ [.readData (fieldTo s.dbg.chal.toNat 0)] ∧
      u.dbg.lastRead = some s.dbg.chal ∧ u.dbg.open_ = s.dbg.open_ ∧ u.mem = s.mem) ∧
    (conf ≠ 0xA5C3 → exec (.dbgUnlock conf resp) s = .next (dropBar0 s) ∧ exec (.dbgLock conf) s = .next (dropBar0 s)) ∧
    (s.dbg.lastRead ≠ some (~~~resp) → exec (.dbgUnlock 0xA5C3 resp) s = .next (dropBar0 s)) ∧
    (s.dbg.lastRead = some (~~~resp) → ∃ u, exec (.dbgUnlock 0xA5C3 resp) s = .next u ∧ u.dbg.open_ = true ∧
      u.dbg.byHost = true ∧ u.dbg.opens = s.dbg.opens + 1 ∧ u.mem = s.mem) ∧
    exec (.dbgLock 0xA5C3) s = .next { s with dbg := { s.dbg with open_ := false, byHost := false, byTriyx := false } } ∧
    exec .bypass s = .next { s with svc := { s.svc with jtag := 0 } } ∧
    exec .idcode s = .next { s with svc := { s.svc with jtag := 1 }, out := s.out ++ [.tdo Config.jtagIdcode] } ∧
    exec .samplePreload s = .next { s with svc := { s.svc with jtag := 2 } } ∧
    exec .extest s = .next { s with svc := { s.svc with jtag := 3 } } ∧
    (0x1000000 ≤ o.toNat → s.dbg.open_ = false → exec (.bar0Write o v) s = .next (dropBar0 s)) ∧
    (0xA00000 ≤ o.toNat → o.toNat < 0x1000000 → exec (.bar0Write o v) s = .next (dropBar0 s)) ∧
    exec (.bar0Write 0x000000 v) s = .next s ∧
    exec (.bar0Write 0x500000 v) s = .next { s with rst := { s.rst with src := s.rst.src &&& ~~~(v.truncate 8) } } ∧
    exec (.bar0Write 0x700020 0x2) s = exec .evClr s ∧
    exec (.bar0Write 0x700020 0x1) s = exec .erClr s ∧
    exec (.bar0Write 0x101000 (BitVec.ofNat 64 slot.val)) s = exec (.mbxDoorbell slot) s ∧
    exec (.bar0Write (BitVec.ofNat 26 (0x100000 + 64 * slot.val + 8 * k.val)) v) s = .next { s with host := { s.host with
      slots := tabSetList 0 s.host.slots (64 * slot.val + 8 * k.val) (leBytes 8 v.toNat) } } ∧
    (v.getLsbD 32 = false → exec (.bar0Write 0x00F008 v) s =
      exec (.dbgUnlock (BitVec.ofNat 16 (v.toNat / 2 ^ 48)) (v.truncate 32)) s) ∧
    (s.dbg.open_ = true → exec (.bar0Write 0x1600000 v) s = .next { s with log := { s.log with injD := v } })
end

