-- ==== Sys2Proof/Laws/Tab.lean ====
section
/-! SUPPORT. What sparse tables do: reading after writing, and the canonical form that every operation on them keeps. -/

namespace Sys2Proof

variable {α : Type} [DecidableEq α]

/-- The canonical form as a property of the list: keys strictly rising, no entry the default. -/
theorem tabWfFrom_iff (d : α) (lo : Nat) (t : Tab α) :
    tabWfFrom d lo t = true ↔
      t.Pairwise (fun a b => a.1 < b.1) ∧ (∀ e ∈ t, lo ≤ e.1) ∧ ∀ e ∈ t, e.2 ≠ d := by
  induction t generalizing lo with
  | nil => simp [tabWfFrom]
  | cons e t ih =>
    obtain ⟨k, v⟩ := e
    simp only [tabWfFrom, Bool.and_eq_true, decide_eq_true_eq, ih, List.pairwise_cons, List.mem_cons, forall_eq_or_imp]
    constructor
    · rintro ⟨⟨h1, h2⟩, h3, h4, h5⟩
      exact ⟨⟨fun a ha => h4 a ha, h3⟩, ⟨h1, fun a ha => by have := h4 a ha; omega⟩, h2, h5⟩
    · rintro ⟨⟨h1, h2⟩, ⟨h3, h4⟩, h5, h6⟩
      exact ⟨⟨h3, h5⟩, h2, fun a ha => h1 a ha, h6⟩

theorem tabWf_iff (d : α) (t : Tab α) :
    tabWf d t = true ↔ t.Pairwise (fun a b => a.1 < b.1) ∧ ∀ e ∈ t, e.2 ≠ d := by
  simp [tabWf, tabWfFrom_iff]

omit [DecidableEq α] in
/-- Putting reads back at once and leaves every other key alone, in any list. -/
theorem tabGet_tabPut (d : α) (t : Tab α) (i : Nat) (v : α) (j : Nat) :
    tabGet d (tabPut t i v) j = if j = i then v else tabGet d t j := by
  induction t with
  | nil => simp [tabPut, tabGet]
  | cons e t ih =>
    obtain ⟨k, w⟩ := e
    simp only [tabPut]
    split
    · subst i; by_cases h : j = k <;> simp [tabGet, h]
    · split
      · simp [tabGet]
      · simp only [tabGet, ih]
        by_cases h : j = i
        · have : j ≠ k := by omega
          simp [*]
        · simp [h]

omit [DecidableEq α] in
/-- A dropped key reads as the default, and every other key as before, in any list. -/
theorem tabGet_tabDrop (d : α) (t : Tab α) (i j : Nat) :
    tabGet d (tabDrop t i) j = if j = i then d else tabGet d t j := by
  induction t with
  | nil => simp [tabDrop, tabGet]
  | cons e t ih =>
    obtain ⟨k, w⟩ := e
    simp only [tabDrop]
    split
    · subst i; rw [ih]; by_cases h : j = k <;> simp [tabGet, h]
    · simp only [tabGet, ih]
      by_cases h : j = i
      · have : j ≠ k := by omega
        simp [*]
      · simp [h]

/-- Reading after writing, in any list. -/
@[simp] theorem tabGet_tabSet (d : α) (t : Tab α) (i : Nat) (v : α) (j : Nat) :
    tabGet d (tabSet d t i v) j = if j = i then v else tabGet d t j := by
  unfold tabSet
  split
  · next hv => rw [tabGet_tabDrop d t i j, hv]
  · exact tabGet_tabPut d t i v j

omit [DecidableEq α] in
theorem mem_tabPut {t : Tab α} {i : Nat} {v : α} {e : Nat × α} (h : e ∈ tabPut t i v) : e = (i, v) ∨ e ∈ t := by
  induction t with
  | nil => simpa [tabPut] using h
  | cons x t ih =>
    obtain ⟨k, w⟩ := x
    simp only [tabPut] at h
    split at h
    · simp only [List.mem_cons] at h ⊢; subst i; tauto
    · split at h
      · simp only [List.mem_cons] at h ⊢; tauto
      · simp only [List.mem_cons] at h ⊢
        rcases h with h | h
        · exact .inr (.inl h)
        · rcases ih h with h | h
          · exact .inl h
          · exact .inr (.inr h)

omit [DecidableEq α] in
theorem mem_tabDrop {t : Tab α} {i : Nat} {e : Nat × α} (h : e ∈ tabDrop t i) : e ∈ t := by
  induction t with
  | nil => simp [tabDrop] at h
  | cons x t ih =>
    obtain ⟨k, w⟩ := x
    simp only [tabDrop] at h
    split at h
    · exact List.mem_cons_of_mem _ (ih h)
    · simp only [List.mem_cons] at h ⊢
      exact h.imp id ih

omit [DecidableEq α] in
theorem tabPut_sorted (t : Tab α) (i : Nat) (v : α) (h : t.Pairwise (fun a b => a.1 < b.1)) :
    (tabPut t i v).Pairwise (fun a b => a.1 < b.1) := by
  induction t with
  | nil => simp [tabPut]
  | cons x t ih =>
    obtain ⟨k, w⟩ := x
    rw [List.pairwise_cons] at h
    simp only [tabPut]
    split
    · subst i; exact List.pairwise_cons.2 ⟨h.1, h.2⟩
    · split
      · next hi =>
        refine List.pairwise_cons.2 ⟨?_, List.pairwise_cons.2 h⟩
        intro e he
        simp only [List.mem_cons] at he
        rcases he with rfl | he
        · exact hi
        · exact lt_trans hi (h.1 e he)
      · refine List.pairwise_cons.2 ⟨?_, ih h.2⟩
        intro e he
        rcases mem_tabPut he with rfl | he
        · simp only; omega
        · exact h.1 e he

omit [DecidableEq α] in
theorem tabDrop_sorted (t : Tab α) (i : Nat) (h : t.Pairwise (fun a b => a.1 < b.1)) :
    (tabDrop t i).Pairwise (fun a b => a.1 < b.1) := by
  induction t with
  | nil => simp [tabDrop]
  | cons x t ih =>
    obtain ⟨k, w⟩ := x
    rw [List.pairwise_cons] at h
    simp only [tabDrop]
    split
    · exact ih h.2
    · exact List.pairwise_cons.2 ⟨fun e he => h.1 e (mem_tabDrop he), ih h.2⟩

/-- Of two writes at one key the last stands, in any list. -/
theorem tabSet_tabSet (d : α) (t : Tab α) (i : Nat) (v w : α) (h : v ≠ d) :
    tabSet d (tabSet d t i v) i w = tabSet d t i w := by
  have hp : ∀ t : Tab α, tabPut (tabPut t i v) i w = tabPut t i w := by
    intro t
    induction t with
    | nil => simp [tabPut]
    | cons x t ih =>
      obtain ⟨k, u⟩ := x
      by_cases h : i = k
      · simp [tabPut, h]
      · by_cases hl : i < k
        · simp [tabPut, h, hl]
        · simp [tabPut, h, hl, ih]
  have hd : ∀ t : Tab α, tabDrop (tabPut t i v) i = tabDrop t i := by
    intro t
    induction t with
    | nil => simp [tabPut, tabDrop]
    | cons x t ih =>
      obtain ⟨k, u⟩ := x
      by_cases h : i = k
      · simp [tabPut, tabDrop, h]
      · by_cases hl : i < k
        · simp [tabPut, tabDrop, h, hl]
        · simp [tabPut, tabDrop, h, hl, ih]
  have hv : tabSet d t i v = tabPut t i v := by rw [tabSet, if_neg h]
  rw [hv]
  unfold tabSet
  split
  · exact hd t
  · exact hp t

/-- Writing keeps the canonical form. -/
theorem tabSet_wf (d : α) (t : Tab α) (i : Nat) (v : α) (h : tabWf d t = true) : tabWf d (tabSet d t i v) = true := by
  rw [tabWf_iff] at h ⊢
  unfold tabSet
  split
  · exact ⟨tabDrop_sorted t i h.1, fun e he => h.2 e (mem_tabDrop he)⟩
  · next hv =>
    refine ⟨tabPut_sorted t i v h.1, fun e he => ?_⟩
    rcases mem_tabPut he with rfl | he
    · exact hv
    · exact h.2 e he

theorem tabModify_wf (d : α) (t : Tab α) (i : Nat) (f : α → α) (h : tabWf d t = true) :
    tabWf d (tabModify d t i f) = true := tabSet_wf d t i _ h

@[simp] theorem tabGet_tabModify (d : α) (t : Tab α) (i : Nat) (f : α → α) (j : Nat) :
    tabGet d (tabModify d t i f) j = if j = i then f (tabGet d t i) else tabGet d t j :=
  tabGet_tabSet d t i _ j

theorem tabSetList_wf (d : α) (vs : List α) (t : Tab α) (i : Nat) (h : tabWf d t = true) :
    tabWf d (tabSetList d t i vs) = true := by
  induction vs generalizing t i with
  | nil => exact h
  | cons v vs ih => exact ih _ _ (tabSet_wf d t i v h)

/-- Reading after writing consecutive entries, in any list. -/
theorem tabGet_tabSetList (d : α) (vs : List α) (t : Tab α) (i j : Nat) :
    tabGet d (tabSetList d t i vs) j = if i ≤ j ∧ j < i + vs.length then vs.getD (j - i) d else tabGet d t j := by
  induction vs generalizing t i with
  | nil => simp [tabSetList]
  | cons v vs ih =>
    simp only [tabSetList, List.length_cons]
    rw [ih, tabGet_tabSet d t i v j]
    by_cases hj : j = i
    · subst hj; simp
    · by_cases h1 : i + 1 ≤ j ∧ j < i + 1 + vs.length
      · have h2 : i ≤ j ∧ j < i + (vs.length + 1) := by omega
        have h3 : j - i = (j - (i + 1)) + 1 := by omega
        simp [h1, h2, h3]
      · have h2 : ¬ (i ≤ j ∧ j < i + (vs.length + 1)) := by omega
        rw [if_neg h1, if_neg h2, if_neg hj]

/-- Leaving entries out keeps the canonical form. -/
theorem tabFilter_wf (d : α) (t : Tab α) (p : Nat × α → Bool) (h : tabWf d t = true) : tabWf d (t.filter p) = true := by
  rw [tabWf_iff] at h ⊢
  exact ⟨h.1.filter _, fun e he => h.2 e (List.mem_filter.1 he).1⟩

/-- Copying a range of keys keeps the canonical form. -/
theorem tabCopy_wf (d : α) (t : Tab α) (src dst n : Nat) (h : tabWf d t = true) : tabWf d (tabCopy t src dst n) = true := by
  rw [tabWf_iff] at h ⊢
  obtain ⟨hs, hd⟩ := h
  unfold tabCopy
  refine ⟨?_, ?_⟩
  · rw [List.pairwise_append, List.pairwise_append]
    refine ⟨⟨hs.filter _, ?_, ?_⟩, hs.filter _, ?_⟩
    · rw [List.pairwise_map]
      refine List.Pairwise.imp_of_mem ?_ (hs.filter _)
      intro a b ha hb hab
      simp only [List.mem_filter, Bool.and_eq_true, decide_eq_true_eq] at ha hb
      simp only
      omega
    · intro a ha b hb
      simp only [List.mem_map, List.mem_filter, Bool.and_eq_true, decide_eq_true_eq] at ha hb
      obtain ⟨c, hc, rfl⟩ := hb
      simp only
      omega
    · intro a ha b hb
      simp only [List.mem_append, List.mem_map, List.mem_filter, Bool.and_eq_true, decide_eq_true_eq] at ha hb
      rcases ha with ha | ⟨c, hc, rfl⟩
      · omega
      · simp only; omega
  · intro e he
    simp only [List.mem_append, List.mem_map, List.mem_filter, Bool.and_eq_true, decide_eq_true_eq] at he
    rcases he with (he | ⟨c, hc, rfl⟩) | he
    · exact hd e he.1
    · exact hd c hc.1
    · exact hd e he.1

end Sys2Proof
end

