-- ==== Sys2Proof/Laws/Issue.lean ====
section
/-! SUPPORT. What the operations on one pan do, and what a slot command does when its bundle issues. -/

namespace Sys2Proof.Machine

@[simp] theorem panOf_setPan (s : State) (p q : PanIx) (x : Pan) :
    panOf (setPan s p x) q = if q = p then x else panOf s q := by
  simp only [panOf, setPan, tabGet_tabSet, Fin.ext_iff]

@[simp] theorem panOf_modPan (s : State) (p q : PanIx) (f : Pan → Pan) :
    panOf (modPan s p f) q = if q = p then f (panOf s p) else panOf s q := panOf_setPan s p q _

/-- Two changes of one pan are one change. -/
theorem modPan_modPan (s : State) (p : PanIx) (f g : Pan → Pan) (h : f (panOf s p) ≠ Pan.reset) :
    modPan (modPan s p f) p g = modPan s p fun x => g (f x) := by
  have h2 := tabSet_tabSet Pan.reset s.pans p.val _ (g (f (tabGet Pan.reset s.pans p.val))) h
  simp only [modPan, tabModify, tabGet_tabSet, if_true]
  exact congrArg (fun t => ({ s with pans := t } : State)) h2

theorem modPan_congr (s : State) (p : PanIx) (f g : Pan → Pan) (h : f (panOf s p) = g (panOf s p)) :
    modPan s p f = modPan s p g := by
  simp only [modPan, tabModify]
  rw [show f (tabGet Pan.reset s.pans p.val) = g (tabGet Pan.reset s.pans p.val) from h]

/-- A pan with a slot of its bundle issued is not the pan of reset. -/
theorem Pan.mid_ne_reset {x : Pan} (h : x.mid = true) : x ≠ Pan.reset := by
  intro e; rw [e] at h; exact absurd h (by decide)

theorem Pan.opened_ne_reset (b : Bundle) (sl : BitVec 2) (x : Pan) : x.opened b sl ≠ Pan.reset := Pan.mid_ne_reset rfl

/-- What an M, E or C slot does when the bundle goes. -/
theorem issueSlot_go (s : State) (p : PanIx) (b : Bundle) (sl : BitVec 2) (act : State → State)
    (h : verdict (fetchRow s p) p b sl = .go) :
    issueSlot s p b sl act = act (modPan (fetchRow s p) p (Pan.opened b sl)) := by
  simp only [issueSlot, h]

theorem issueSlot_trap (s : State) (p : PanIx) (b : Bundle) (sl : BitVec 2) (act : State → State) (c : BitVec 4)
    (w : BitVec 2) (a : Dword) (h : verdict (fetchRow s p) p b sl = .trap c w a) :
    issueSlot s p b sl act = trapPan (fetchRow s p) p c w (panOf s p).pc a false := by
  simp only [issueSlot, h]

theorem issueSlot_stall (s : State) (p : PanIx) (b : Bundle) (sl : BitVec 2) (act : State → State)
    (h : verdict (fetchRow s p) p b sl = .stall) : issueSlot s p b sl act = modPan (fetchRow s p) p Pan.stalled := by
  simp only [issueSlot, h]

theorem issueSlot_no (s : State) (p : PanIx) (b : Bundle) (sl : BitVec 2) (act : State → State)
    (h : verdict (fetchRow s p) p b sl = .no) : issueSlot s p b sl act = fetchRow s p := by
  simp only [issueSlot, h]

/-- A slot whose effect is a change of the pan. -/
theorem issueSlot_go_pan (s : State) (p : PanIx) (b : Bundle) (sl : BitVec 2) (f : Pan → Pan)
    (h : verdict (fetchRow s p) p b sl = .go) :
    (issueSlot s p b sl fun s1 => modPan s1 p f) = modPan (fetchRow s p) p fun x => f (x.opened b sl) := by
  rw [issueSlot_go _ _ _ _ _ h, modPan_modPan _ _ _ _ (Pan.opened_ne_reset _ _ _)]

/-- The pan after an opening slot. -/
theorem panOf_opened (s : State) (p : PanIx) (b : Bundle) (sl : BitVec 2) :
    panOf (modPan s p (Pan.opened b sl)) p = (panOf s p).opened b sl := by
  rw [panOf_modPan, if_pos rfl]

/-- An S slot whose effect is a change `f` of the pan that leaves the bundle open. -/
theorem issueS_go_pan (s : State) (p : PanIx) (b : Bundle) (f : Pan → Pan) (pc : Pan → Dword) (pause : Bool)
    (h : verdict (fetchRow s p) p b 0 = .go) (hm : ∀ x : Pan, x.mid = true → (f x).mid = true) :
    issueS s p b (fun s1 => modPan s1 p f) pc pause = modPan (fetchRow s p) p fun x =>
      (f (x.opened b 0)).close (pc (x.opened b 0)) pause := by
  unfold issueS
  rw [issueSlot_go _ _ _ _ _ h]
  beta_reduce
  rw [modPan_modPan _ _ _ _ (Pan.opened_ne_reset _ _ _),
    modPan_modPan _ _ (fun x => f (x.opened b 0)) _ (Pan.mid_ne_reset (hm _ rfl)), panOf_opened]
  exact modPan_congr _ _ _ _ rfl

/-- An S slot that only decides the next bundle. -/
theorem issueS_go_id (s : State) (p : PanIx) (b : Bundle) (pc : Pan → Dword) (pause : Bool)
    (h : verdict (fetchRow s p) p b 0 = .go) :
    issueS s p b id pc pause = modPan (fetchRow s p) p fun x => (x.opened b 0).close (pc (x.opened b 0)) pause := by
  unfold issueS
  rw [issueSlot_go _ _ _ _ _ h, id, modPan_modPan _ _ _ _ (Pan.opened_ne_reset _ _ _), panOf_opened]
  exact modPan_congr _ _ _ _ rfl

theorem issueBranch_go (s : State) (p : PanIx) (b : Bundle) (pc : Pan → Dword)
    (h : verdict (fetchRow s p) p b 0 = .go) :
    issueBranch s p b pc = modPan (fetchRow s p) p fun x => (x.opened b 0).close (pc (x.opened b 0)) false :=
  issueS_go_id s p b pc false h

/-- An S slot that writes one G register. -/
theorem issueG_go (s : State) (p : PanIx) (b : Bundle) (rd : Reg5) (val : Pan → Dword)
    (h : verdict (fetchRow s p) p b 0 = .go) :
    issueG s p b rd val = modPan (fetchRow s p) p fun x =>
      ((x.opened b 0).writeG rd.toNat (val (x.opened b 0))).close (x.opened b 0).nextPc false :=
  issueS_go_pan s p b _ _ _ h fun _ hx => hx

end Sys2Proof.Machine
end

