-- ==== Sys2Proof/Laws/Memory.lean ====
section
/-! SUPPORT. The memory of stored words: reading after writing, and the canonical form. -/

namespace Sys2Proof.Machine

theorem leBytes_length (n v : Nat) : (leBytes n v).length = n := by
  induction n generalizing v with
  | zero => rfl
  | succ n ih => simp [leBytes, ih]

theorem leNat_leBytes (n v : Nat) : leNat (leBytes n v) = v % 256 ^ n := by
  induction n generalizing v with
  | zero => simp [leBytes, leNat, Nat.mod_one]
  | succ n ih =>
    simp only [leBytes, leNat, ih, BitVec.toNat_ofNat]
    rw [show (256 : Nat) ^ (n + 1) = 256 * 256 ^ n by rw [Nat.pow_succ, Nat.mul_comm], Nat.mod_mul]

theorem storedBytes_length (w : Stored) : (storedBytes w).length = 10 := by
  simp [storedBytes, leBytes_length]

/-- A stored word reads back as it was stored. -/
@[simp] theorem readStored_writeStored (m : Memory) (k : Nat) (w : Stored) :
    readStored (writeStored m k w) k = w := by
  have hl := storedBytes_length w
  have e : ∀ i < 10, tabGet 0 (writeStored m k w) (16 * k + i) = (storedBytes w).getD i 0 := by
    intro i hi
    rw [writeStored, tabGet_tabSetList, if_pos (by omega), Nat.add_sub_cancel_left]
  have hd : tabRange 0 (writeStored m k w) (16 * k) 8 = leBytes 8 w.d.toNat := by
    apply List.ext_getElem (by simp [tabRange, leBytes_length])
    intro i h1 h2
    have h3 : i < 8 := by simpa [leBytes_length] using h2
    simp only [tabRange, List.getElem_map, List.getElem_range]
    rw [e i (by omega), storedBytes, List.getD_append _ _ _ _ h2, List.getD_eq_getElem _ _ h2]
  have hn : BitVec.ofNat 64 (leNat (leBytes 8 w.d.toNat)) = w.d := by
    rw [leNat_leBytes]
    apply BitVec.eq_of_toNat_eq
    simpa using w.d.isLt
  simp only [readStored]
  rw [hd, hn, e 8 (by omega), e 9 (by omega)]
  rfl

/-- And leaves every other word alone. -/
theorem readStored_writeStored_ne (m : Memory) (k j : Nat) (w : Stored) (h : j ≠ k) :
    readStored (writeStored m k w) j = readStored m j := by
  have hl := storedBytes_length w
  have e : ∀ i < 16, tabGet 0 (writeStored m k w) (16 * j + i) = tabGet 0 m (16 * j + i) := by
    intro i hi
    rw [writeStored, tabGet_tabSetList, if_neg (by omega)]
  simp only [readStored, tabRange]
  rw [e 8 (by omega), e 9 (by omega)]
  congr 3
  exact List.map_congr_left fun i hi => e i (by have := List.mem_range.1 hi; omega)

/-- A word that a write stored decodes clean, to what was written (R277, R278). -/
@[simp] theorem decodeWord_encodeWord (d : Dword) :
    decodeWord (encodeWord d) = { d := d, check := .clean, syn := 0 } := by
  simp [decodeWord, encodeWord]

theorem writeStored_wf (m : Memory) (k : Nat) (w : Stored) (h : Memory.wf m = true) :
    Memory.wf (writeStored m k w) = true := tabSetList_wf 0 _ _ _ h

theorem writeWord_wf (s : State) (k : Nat) (d : Dword) (h : Memory.wf s.mem = true) :
    Memory.wf (writeWord s k d).mem = true := writeStored_wf _ _ _ h

theorem writeWords_wf (s : State) (k : Nat) (ds : List Dword) (h : Memory.wf s.mem = true) :
    Memory.wf (writeWords s k ds).mem = true := by
  suffices ∀ (r : Memory × Nat), Memory.wf r.1 = true →
      Memory.wf (ds.foldl (fun (r : Memory × Nat) d => (writeStored r.1 r.2 (storedFor s r.2 d), r.2 + 1)) r).1 = true from
    this _ h
  induction ds with
  | nil => exact fun _ h => h
  | cons d ds ih => exact fun r h => ih _ (writeStored_wf _ _ _ h)

theorem filter_wf (m : Memory) (p : Nat × Byte → Bool) (h : Memory.wf m = true) : Memory.wf (m.filter p) = true :=
  tabFilter_wf 0 m p h

theorem copy_wf (m : Memory) (src dst n : Nat) (h : Memory.wf m = true) : Memory.wf (tabCopy m src dst n) = true :=
  tabCopy_wf 0 m src dst n h

theorem reset_wf : Memory.wf State.reset.mem = true := rfl

end Sys2Proof.Machine
end

