-- ==== Sys2Proof/Laws/State.lean ====
section
/-! SUPPORT. For every operation that changes one part of the state, each part it leaves alone. -/

namespace Sys2Proof.Machine

/-! ### setPan -/

@[simp] theorem setPan_pending (s : State) (p : PanIx) (x : Pan) : (setPan s p x).pending = s.pending := rfl
@[simp] theorem setPan_tick (s : State) (p : PanIx) (x : Pan) : (setPan s p x).tick = s.tick := rfl
@[simp] theorem setPan_free (s : State) (p : PanIx) (x : Pan) : (setPan s p x).free = s.free := rfl
@[simp] theorem setPan_mem (s : State) (p : PanIx) (x : Pan) : (setPan s p x).mem = s.mem := rfl
@[simp] theorem setPan_log (s : State) (p : PanIx) (x : Pan) : (setPan s p x).log = s.log := rfl
@[simp] theorem setPan_sync (s : State) (p : PanIx) (x : Pan) : (setPan s p x).sync = s.sync := rfl
@[simp] theorem setPan_ten (s : State) (p : PanIx) (x : Pan) : (setPan s p x).ten = s.ten := rfl
@[simp] theorem setPan_slice (s : State) (p : PanIx) (x : Pan) : (setPan s p x).slice = s.slice := rfl
@[simp] theorem setPan_sch (s : State) (p : PanIx) (x : Pan) : (setPan s p x).sch = s.sch := rfl
@[simp] theorem setPan_desc (s : State) (p : PanIx) (x : Pan) : (setPan s p x).desc = s.desc := rfl
@[simp] theorem setPan_dram (s : State) (p : PanIx) (x : Pan) : (setPan s p x).dram = s.dram := rfl
@[simp] theorem setPan_host (s : State) (p : PanIx) (x : Pan) : (setPan s p x).host = s.host := rfl
@[simp] theorem setPan_net (s : State) (p : PanIx) (x : Pan) : (setPan s p x).net = s.net := rfl
@[simp] theorem setPan_mir (s : State) (p : PanIx) (x : Pan) : (setPan s p x).mir = s.mir := rfl
@[simp] theorem setPan_plc (s : State) (p : PanIx) (x : Pan) : (setPan s p x).plc = s.plc := rfl
@[simp] theorem setPan_gov (s : State) (p : PanIx) (x : Pan) : (setPan s p x).gov = s.gov := rfl
@[simp] theorem setPan_sen (s : State) (p : PanIx) (x : Pan) : (setPan s p x).sen = s.sen := rfl
@[simp] theorem setPan_cal (s : State) (p : PanIx) (x : Pan) : (setPan s p x).cal = s.cal := rfl
@[simp] theorem setPan_rst (s : State) (p : PanIx) (x : Pan) : (setPan s p x).rst = s.rst := rfl
@[simp] theorem setPan_svc (s : State) (p : PanIx) (x : Pan) : (setPan s p x).svc = s.svc := rfl
@[simp] theorem setPan_dbg (s : State) (p : PanIx) (x : Pan) : (setPan s p x).dbg = s.dbg := rfl
@[simp] theorem setPan_out (s : State) (p : PanIx) (x : Pan) : (setPan s p x).out = s.out := rfl

/-! ### modPan -/

@[simp] theorem modPan_pending (s : State) (p : PanIx) (f : Pan → Pan) : (modPan s p f).pending = s.pending := rfl
@[simp] theorem modPan_tick (s : State) (p : PanIx) (f : Pan → Pan) : (modPan s p f).tick = s.tick := rfl
@[simp] theorem modPan_free (s : State) (p : PanIx) (f : Pan → Pan) : (modPan s p f).free = s.free := rfl
@[simp] theorem modPan_mem (s : State) (p : PanIx) (f : Pan → Pan) : (modPan s p f).mem = s.mem := rfl
@[simp] theorem modPan_log (s : State) (p : PanIx) (f : Pan → Pan) : (modPan s p f).log = s.log := rfl
@[simp] theorem modPan_sync (s : State) (p : PanIx) (f : Pan → Pan) : (modPan s p f).sync = s.sync := rfl
@[simp] theorem modPan_ten (s : State) (p : PanIx) (f : Pan → Pan) : (modPan s p f).ten = s.ten := rfl
@[simp] theorem modPan_slice (s : State) (p : PanIx) (f : Pan → Pan) : (modPan s p f).slice = s.slice := rfl
@[simp] theorem modPan_sch (s : State) (p : PanIx) (f : Pan → Pan) : (modPan s p f).sch = s.sch := rfl
@[simp] theorem modPan_desc (s : State) (p : PanIx) (f : Pan → Pan) : (modPan s p f).desc = s.desc := rfl
@[simp] theorem modPan_dram (s : State) (p : PanIx) (f : Pan → Pan) : (modPan s p f).dram = s.dram := rfl
@[simp] theorem modPan_host (s : State) (p : PanIx) (f : Pan → Pan) : (modPan s p f).host = s.host := rfl
@[simp] theorem modPan_net (s : State) (p : PanIx) (f : Pan → Pan) : (modPan s p f).net = s.net := rfl
@[simp] theorem modPan_mir (s : State) (p : PanIx) (f : Pan → Pan) : (modPan s p f).mir = s.mir := rfl
@[simp] theorem modPan_plc (s : State) (p : PanIx) (f : Pan → Pan) : (modPan s p f).plc = s.plc := rfl
@[simp] theorem modPan_gov (s : State) (p : PanIx) (f : Pan → Pan) : (modPan s p f).gov = s.gov := rfl
@[simp] theorem modPan_sen (s : State) (p : PanIx) (f : Pan → Pan) : (modPan s p f).sen = s.sen := rfl
@[simp] theorem modPan_cal (s : State) (p : PanIx) (f : Pan → Pan) : (modPan s p f).cal = s.cal := rfl
@[simp] theorem modPan_rst (s : State) (p : PanIx) (f : Pan → Pan) : (modPan s p f).rst = s.rst := rfl
@[simp] theorem modPan_svc (s : State) (p : PanIx) (f : Pan → Pan) : (modPan s p f).svc = s.svc := rfl
@[simp] theorem modPan_dbg (s : State) (p : PanIx) (f : Pan → Pan) : (modPan s p f).dbg = s.dbg := rfl
@[simp] theorem modPan_out (s : State) (p : PanIx) (f : Pan → Pan) : (modPan s p f).out = s.out := rfl

/-! ### setTen -/

@[simp] theorem setTen_pending (s : State) (t : TenIx) (x : Tenant) : (setTen s t x).pending = s.pending := rfl
@[simp] theorem setTen_tick (s : State) (t : TenIx) (x : Tenant) : (setTen s t x).tick = s.tick := rfl
@[simp] theorem setTen_free (s : State) (t : TenIx) (x : Tenant) : (setTen s t x).free = s.free := rfl
@[simp] theorem setTen_mem (s : State) (t : TenIx) (x : Tenant) : (setTen s t x).mem = s.mem := rfl
@[simp] theorem setTen_log (s : State) (t : TenIx) (x : Tenant) : (setTen s t x).log = s.log := rfl
@[simp] theorem setTen_pans (s : State) (t : TenIx) (x : Tenant) : (setTen s t x).pans = s.pans := rfl
@[simp] theorem setTen_sync (s : State) (t : TenIx) (x : Tenant) : (setTen s t x).sync = s.sync := rfl
@[simp] theorem setTen_slice (s : State) (t : TenIx) (x : Tenant) : (setTen s t x).slice = s.slice := rfl
@[simp] theorem setTen_sch (s : State) (t : TenIx) (x : Tenant) : (setTen s t x).sch = s.sch := rfl
@[simp] theorem setTen_desc (s : State) (t : TenIx) (x : Tenant) : (setTen s t x).desc = s.desc := rfl
@[simp] theorem setTen_dram (s : State) (t : TenIx) (x : Tenant) : (setTen s t x).dram = s.dram := rfl
@[simp] theorem setTen_host (s : State) (t : TenIx) (x : Tenant) : (setTen s t x).host = s.host := rfl
@[simp] theorem setTen_net (s : State) (t : TenIx) (x : Tenant) : (setTen s t x).net = s.net := rfl
@[simp] theorem setTen_mir (s : State) (t : TenIx) (x : Tenant) : (setTen s t x).mir = s.mir := rfl
@[simp] theorem setTen_plc (s : State) (t : TenIx) (x : Tenant) : (setTen s t x).plc = s.plc := rfl
@[simp] theorem setTen_gov (s : State) (t : TenIx) (x : Tenant) : (setTen s t x).gov = s.gov := rfl
@[simp] theorem setTen_sen (s : State) (t : TenIx) (x : Tenant) : (setTen s t x).sen = s.sen := rfl
@[simp] theorem setTen_cal (s : State) (t : TenIx) (x : Tenant) : (setTen s t x).cal = s.cal := rfl
@[simp] theorem setTen_rst (s : State) (t : TenIx) (x : Tenant) : (setTen s t x).rst = s.rst := rfl
@[simp] theorem setTen_svc (s : State) (t : TenIx) (x : Tenant) : (setTen s t x).svc = s.svc := rfl
@[simp] theorem setTen_dbg (s : State) (t : TenIx) (x : Tenant) : (setTen s t x).dbg = s.dbg := rfl
@[simp] theorem setTen_out (s : State) (t : TenIx) (x : Tenant) : (setTen s t x).out = s.out := rfl

/-! ### modTen -/

@[simp] theorem modTen_pending (s : State) (t : TenIx) (f : Tenant → Tenant) : (modTen s t f).pending = s.pending := rfl
@[simp] theorem modTen_tick (s : State) (t : TenIx) (f : Tenant → Tenant) : (modTen s t f).tick = s.tick := rfl
@[simp] theorem modTen_free (s : State) (t : TenIx) (f : Tenant → Tenant) : (modTen s t f).free = s.free := rfl
@[simp] theorem modTen_mem (s : State) (t : TenIx) (f : Tenant → Tenant) : (modTen s t f).mem = s.mem := rfl
@[simp] theorem modTen_log (s : State) (t : TenIx) (f : Tenant → Tenant) : (modTen s t f).log = s.log := rfl
@[simp] theorem modTen_pans (s : State) (t : TenIx) (f : Tenant → Tenant) : (modTen s t f).pans = s.pans := rfl
@[simp] theorem modTen_sync (s : State) (t : TenIx) (f : Tenant → Tenant) : (modTen s t f).sync = s.sync := rfl
@[simp] theorem modTen_slice (s : State) (t : TenIx) (f : Tenant → Tenant) : (modTen s t f).slice = s.slice := rfl
@[simp] theorem modTen_sch (s : State) (t : TenIx) (f : Tenant → Tenant) : (modTen s t f).sch = s.sch := rfl
@[simp] theorem modTen_desc (s : State) (t : TenIx) (f : Tenant → Tenant) : (modTen s t f).desc = s.desc := rfl
@[simp] theorem modTen_dram (s : State) (t : TenIx) (f : Tenant → Tenant) : (modTen s t f).dram = s.dram := rfl
@[simp] theorem modTen_host (s : State) (t : TenIx) (f : Tenant → Tenant) : (modTen s t f).host = s.host := rfl
@[simp] theorem modTen_net (s : State) (t : TenIx) (f : Tenant → Tenant) : (modTen s t f).net = s.net := rfl
@[simp] theorem modTen_mir (s : State) (t : TenIx) (f : Tenant → Tenant) : (modTen s t f).mir = s.mir := rfl
@[simp] theorem modTen_plc (s : State) (t : TenIx) (f : Tenant → Tenant) : (modTen s t f).plc = s.plc := rfl
@[simp] theorem modTen_gov (s : State) (t : TenIx) (f : Tenant → Tenant) : (modTen s t f).gov = s.gov := rfl
@[simp] theorem modTen_sen (s : State) (t : TenIx) (f : Tenant → Tenant) : (modTen s t f).sen = s.sen := rfl
@[simp] theorem modTen_cal (s : State) (t : TenIx) (f : Tenant → Tenant) : (modTen s t f).cal = s.cal := rfl
@[simp] theorem modTen_rst (s : State) (t : TenIx) (f : Tenant → Tenant) : (modTen s t f).rst = s.rst := rfl
@[simp] theorem modTen_svc (s : State) (t : TenIx) (f : Tenant → Tenant) : (modTen s t f).svc = s.svc := rfl
@[simp] theorem modTen_dbg (s : State) (t : TenIx) (f : Tenant → Tenant) : (modTen s t f).dbg = s.dbg := rfl
@[simp] theorem modTen_out (s : State) (t : TenIx) (f : Tenant → Tenant) : (modTen s t f).out = s.out := rfl

/-! ### modSch -/

@[simp] theorem modSch_pending (s : State) (n : SchIx) (f : SysChan → SysChan) : (modSch s n f).pending = s.pending := rfl
@[simp] theorem modSch_tick (s : State) (n : SchIx) (f : SysChan → SysChan) : (modSch s n f).tick = s.tick := rfl
@[simp] theorem modSch_free (s : State) (n : SchIx) (f : SysChan → SysChan) : (modSch s n f).free = s.free := rfl
@[simp] theorem modSch_mem (s : State) (n : SchIx) (f : SysChan → SysChan) : (modSch s n f).mem = s.mem := rfl
@[simp] theorem modSch_log (s : State) (n : SchIx) (f : SysChan → SysChan) : (modSch s n f).log = s.log := rfl
@[simp] theorem modSch_pans (s : State) (n : SchIx) (f : SysChan → SysChan) : (modSch s n f).pans = s.pans := rfl
@[simp] theorem modSch_sync (s : State) (n : SchIx) (f : SysChan → SysChan) : (modSch s n f).sync = s.sync := rfl
@[simp] theorem modSch_ten (s : State) (n : SchIx) (f : SysChan → SysChan) : (modSch s n f).ten = s.ten := rfl
@[simp] theorem modSch_slice (s : State) (n : SchIx) (f : SysChan → SysChan) : (modSch s n f).slice = s.slice := rfl
@[simp] theorem modSch_desc (s : State) (n : SchIx) (f : SysChan → SysChan) : (modSch s n f).desc = s.desc := rfl
@[simp] theorem modSch_dram (s : State) (n : SchIx) (f : SysChan → SysChan) : (modSch s n f).dram = s.dram := rfl
@[simp] theorem modSch_host (s : State) (n : SchIx) (f : SysChan → SysChan) : (modSch s n f).host = s.host := rfl
@[simp] theorem modSch_net (s : State) (n : SchIx) (f : SysChan → SysChan) : (modSch s n f).net = s.net := rfl
@[simp] theorem modSch_mir (s : State) (n : SchIx) (f : SysChan → SysChan) : (modSch s n f).mir = s.mir := rfl
@[simp] theorem modSch_plc (s : State) (n : SchIx) (f : SysChan → SysChan) : (modSch s n f).plc = s.plc := rfl
@[simp] theorem modSch_gov (s : State) (n : SchIx) (f : SysChan → SysChan) : (modSch s n f).gov = s.gov := rfl
@[simp] theorem modSch_sen (s : State) (n : SchIx) (f : SysChan → SysChan) : (modSch s n f).sen = s.sen := rfl
@[simp] theorem modSch_cal (s : State) (n : SchIx) (f : SysChan → SysChan) : (modSch s n f).cal = s.cal := rfl
@[simp] theorem modSch_rst (s : State) (n : SchIx) (f : SysChan → SysChan) : (modSch s n f).rst = s.rst := rfl
@[simp] theorem modSch_svc (s : State) (n : SchIx) (f : SysChan → SysChan) : (modSch s n f).svc = s.svc := rfl
@[simp] theorem modSch_dbg (s : State) (n : SchIx) (f : SysChan → SysChan) : (modSch s n f).dbg = s.dbg := rfl
@[simp] theorem modSch_out (s : State) (n : SchIx) (f : SysChan → SysChan) : (modSch s n f).out = s.out := rfl

/-! ### modDesc -/

@[simp] theorem modDesc_pending (s : State) (t : Nat) (f : DescRegs → DescRegs) : (modDesc s t f).pending = s.pending := rfl
@[simp] theorem modDesc_tick (s : State) (t : Nat) (f : DescRegs → DescRegs) : (modDesc s t f).tick = s.tick := rfl
@[simp] theorem modDesc_free (s : State) (t : Nat) (f : DescRegs → DescRegs) : (modDesc s t f).free = s.free := rfl
@[simp] theorem modDesc_mem (s : State) (t : Nat) (f : DescRegs → DescRegs) : (modDesc s t f).mem = s.mem := rfl
@[simp] theorem modDesc_log (s : State) (t : Nat) (f : DescRegs → DescRegs) : (modDesc s t f).log = s.log := rfl
@[simp] theorem modDesc_pans (s : State) (t : Nat) (f : DescRegs → DescRegs) : (modDesc s t f).pans = s.pans := rfl
@[simp] theorem modDesc_sync (s : State) (t : Nat) (f : DescRegs → DescRegs) : (modDesc s t f).sync = s.sync := rfl
@[simp] theorem modDesc_ten (s : State) (t : Nat) (f : DescRegs → DescRegs) : (modDesc s t f).ten = s.ten := rfl
@[simp] theorem modDesc_slice (s : State) (t : Nat) (f : DescRegs → DescRegs) : (modDesc s t f).slice = s.slice := rfl
@[simp] theorem modDesc_sch (s : State) (t : Nat) (f : DescRegs → DescRegs) : (modDesc s t f).sch = s.sch := rfl
@[simp] theorem modDesc_dram (s : State) (t : Nat) (f : DescRegs → DescRegs) : (modDesc s t f).dram = s.dram := rfl
@[simp] theorem modDesc_host (s : State) (t : Nat) (f : DescRegs → DescRegs) : (modDesc s t f).host = s.host := rfl
@[simp] theorem modDesc_net (s : State) (t : Nat) (f : DescRegs → DescRegs) : (modDesc s t f).net = s.net := rfl
@[simp] theorem modDesc_mir (s : State) (t : Nat) (f : DescRegs → DescRegs) : (modDesc s t f).mir = s.mir := rfl
@[simp] theorem modDesc_plc (s : State) (t : Nat) (f : DescRegs → DescRegs) : (modDesc s t f).plc = s.plc := rfl
@[simp] theorem modDesc_gov (s : State) (t : Nat) (f : DescRegs → DescRegs) : (modDesc s t f).gov = s.gov := rfl
@[simp] theorem modDesc_sen (s : State) (t : Nat) (f : DescRegs → DescRegs) : (modDesc s t f).sen = s.sen := rfl
@[simp] theorem modDesc_cal (s : State) (t : Nat) (f : DescRegs → DescRegs) : (modDesc s t f).cal = s.cal := rfl
@[simp] theorem modDesc_rst (s : State) (t : Nat) (f : DescRegs → DescRegs) : (modDesc s t f).rst = s.rst := rfl
@[simp] theorem modDesc_svc (s : State) (t : Nat) (f : DescRegs → DescRegs) : (modDesc s t f).svc = s.svc := rfl
@[simp] theorem modDesc_dbg (s : State) (t : Nat) (f : DescRegs → DescRegs) : (modDesc s t f).dbg = s.dbg := rfl
@[simp] theorem modDesc_out (s : State) (t : Nat) (f : DescRegs → DescRegs) : (modDesc s t f).out = s.out := rfl

/-! ### modStack -/

@[simp] theorem modStack_pending (s : State) (k : StackIx) (f : Stack → Stack) : (modStack s k f).pending = s.pending := rfl
@[simp] theorem modStack_tick (s : State) (k : StackIx) (f : Stack → Stack) : (modStack s k f).tick = s.tick := rfl
@[simp] theorem modStack_free (s : State) (k : StackIx) (f : Stack → Stack) : (modStack s k f).free = s.free := rfl
@[simp] theorem modStack_mem (s : State) (k : StackIx) (f : Stack → Stack) : (modStack s k f).mem = s.mem := rfl
@[simp] theorem modStack_log (s : State) (k : StackIx) (f : Stack → Stack) : (modStack s k f).log = s.log := rfl
@[simp] theorem modStack_pans (s : State) (k : StackIx) (f : Stack → Stack) : (modStack s k f).pans = s.pans := rfl
@[simp] theorem modStack_sync (s : State) (k : StackIx) (f : Stack → Stack) : (modStack s k f).sync = s.sync := rfl
@[simp] theorem modStack_ten (s : State) (k : StackIx) (f : Stack → Stack) : (modStack s k f).ten = s.ten := rfl
@[simp] theorem modStack_slice (s : State) (k : StackIx) (f : Stack → Stack) : (modStack s k f).slice = s.slice := rfl
@[simp] theorem modStack_sch (s : State) (k : StackIx) (f : Stack → Stack) : (modStack s k f).sch = s.sch := rfl
@[simp] theorem modStack_desc (s : State) (k : StackIx) (f : Stack → Stack) : (modStack s k f).desc = s.desc := rfl
@[simp] theorem modStack_dram_units (s : State) (k : StackIx) (f : Stack → Stack) : (modStack s k f).dram.units = s.dram.units := rfl
@[simp] theorem modStack_dram_banks (s : State) (k : StackIx) (f : Stack → Stack) : (modStack s k f).dram.banks = s.dram.banks := rfl
@[simp] theorem modStack_dram_windows (s : State) (k : StackIx) (f : Stack → Stack) : (modStack s k f).dram.windows = s.dram.windows := rfl
@[simp] theorem modStack_dram_tags (s : State) (k : StackIx) (f : Stack → Stack) : (modStack s k f).dram.tags = s.dram.tags := rfl
@[simp] theorem modStack_host (s : State) (k : StackIx) (f : Stack → Stack) : (modStack s k f).host = s.host := rfl
@[simp] theorem modStack_net (s : State) (k : StackIx) (f : Stack → Stack) : (modStack s k f).net = s.net := rfl
@[simp] theorem modStack_mir (s : State) (k : StackIx) (f : Stack → Stack) : (modStack s k f).mir = s.mir := rfl
@[simp] theorem modStack_plc (s : State) (k : StackIx) (f : Stack → Stack) : (modStack s k f).plc = s.plc := rfl
@[simp] theorem modStack_gov (s : State) (k : StackIx) (f : Stack → Stack) : (modStack s k f).gov = s.gov := rfl
@[simp] theorem modStack_sen (s : State) (k : StackIx) (f : Stack → Stack) : (modStack s k f).sen = s.sen := rfl
@[simp] theorem modStack_cal (s : State) (k : StackIx) (f : Stack → Stack) : (modStack s k f).cal = s.cal := rfl
@[simp] theorem modStack_rst (s : State) (k : StackIx) (f : Stack → Stack) : (modStack s k f).rst = s.rst := rfl
@[simp] theorem modStack_svc (s : State) (k : StackIx) (f : Stack → Stack) : (modStack s k f).svc = s.svc := rfl
@[simp] theorem modStack_dbg (s : State) (k : StackIx) (f : Stack → Stack) : (modStack s k f).dbg = s.dbg := rfl
@[simp] theorem modStack_out (s : State) (k : StackIx) (f : Stack → Stack) : (modStack s k f).out = s.out := rfl

/-! ### modUnit -/

@[simp] theorem modUnit_pending (s : State) (k : Nat) (f : Machine.Unit → Machine.Unit) : (modUnit s k f).pending = s.pending := rfl
@[simp] theorem modUnit_tick (s : State) (k : Nat) (f : Machine.Unit → Machine.Unit) : (modUnit s k f).tick = s.tick := rfl
@[simp] theorem modUnit_free (s : State) (k : Nat) (f : Machine.Unit → Machine.Unit) : (modUnit s k f).free = s.free := rfl
@[simp] theorem modUnit_mem (s : State) (k : Nat) (f : Machine.Unit → Machine.Unit) : (modUnit s k f).mem = s.mem := rfl
@[simp] theorem modUnit_log (s : State) (k : Nat) (f : Machine.Unit → Machine.Unit) : (modUnit s k f).log = s.log := rfl
@[simp] theorem modUnit_pans (s : State) (k : Nat) (f : Machine.Unit → Machine.Unit) : (modUnit s k f).pans = s.pans := rfl
@[simp] theorem modUnit_sync (s : State) (k : Nat) (f : Machine.Unit → Machine.Unit) : (modUnit s k f).sync = s.sync := rfl
@[simp] theorem modUnit_ten (s : State) (k : Nat) (f : Machine.Unit → Machine.Unit) : (modUnit s k f).ten = s.ten := rfl
@[simp] theorem modUnit_slice (s : State) (k : Nat) (f : Machine.Unit → Machine.Unit) : (modUnit s k f).slice = s.slice := rfl
@[simp] theorem modUnit_sch (s : State) (k : Nat) (f : Machine.Unit → Machine.Unit) : (modUnit s k f).sch = s.sch := rfl
@[simp] theorem modUnit_desc (s : State) (k : Nat) (f : Machine.Unit → Machine.Unit) : (modUnit s k f).desc = s.desc := rfl
@[simp] theorem modUnit_dram_stk (s : State) (k : Nat) (f : Machine.Unit → Machine.Unit) : (modUnit s k f).dram.stk = s.dram.stk := rfl
@[simp] theorem modUnit_dram_banks (s : State) (k : Nat) (f : Machine.Unit → Machine.Unit) : (modUnit s k f).dram.banks = s.dram.banks := rfl
@[simp] theorem modUnit_dram_windows (s : State) (k : Nat) (f : Machine.Unit → Machine.Unit) : (modUnit s k f).dram.windows = s.dram.windows := rfl
@[simp] theorem modUnit_dram_tags (s : State) (k : Nat) (f : Machine.Unit → Machine.Unit) : (modUnit s k f).dram.tags = s.dram.tags := rfl
@[simp] theorem modUnit_host (s : State) (k : Nat) (f : Machine.Unit → Machine.Unit) : (modUnit s k f).host = s.host := rfl
@[simp] theorem modUnit_net (s : State) (k : Nat) (f : Machine.Unit → Machine.Unit) : (modUnit s k f).net = s.net := rfl
@[simp] theorem modUnit_mir (s : State) (k : Nat) (f : Machine.Unit → Machine.Unit) : (modUnit s k f).mir = s.mir := rfl
@[simp] theorem modUnit_plc (s : State) (k : Nat) (f : Machine.Unit → Machine.Unit) : (modUnit s k f).plc = s.plc := rfl
@[simp] theorem modUnit_gov (s : State) (k : Nat) (f : Machine.Unit → Machine.Unit) : (modUnit s k f).gov = s.gov := rfl
@[simp] theorem modUnit_sen (s : State) (k : Nat) (f : Machine.Unit → Machine.Unit) : (modUnit s k f).sen = s.sen := rfl
@[simp] theorem modUnit_cal (s : State) (k : Nat) (f : Machine.Unit → Machine.Unit) : (modUnit s k f).cal = s.cal := rfl
@[simp] theorem modUnit_rst (s : State) (k : Nat) (f : Machine.Unit → Machine.Unit) : (modUnit s k f).rst = s.rst := rfl
@[simp] theorem modUnit_svc (s : State) (k : Nat) (f : Machine.Unit → Machine.Unit) : (modUnit s k f).svc = s.svc := rfl
@[simp] theorem modUnit_dbg (s : State) (k : Nat) (f : Machine.Unit → Machine.Unit) : (modUnit s k f).dbg = s.dbg := rfl
@[simp] theorem modUnit_out (s : State) (k : Nat) (f : Machine.Unit → Machine.Unit) : (modUnit s k f).out = s.out := rfl

/-! ### modBank -/

@[simp] theorem modBank_pending (s : State) (k : Nat) (f : BankSt → BankSt) : (modBank s k f).pending = s.pending := rfl
@[simp] theorem modBank_tick (s : State) (k : Nat) (f : BankSt → BankSt) : (modBank s k f).tick = s.tick := rfl
@[simp] theorem modBank_free (s : State) (k : Nat) (f : BankSt → BankSt) : (modBank s k f).free = s.free := rfl
@[simp] theorem modBank_mem (s : State) (k : Nat) (f : BankSt → BankSt) : (modBank s k f).mem = s.mem := rfl
@[simp] theorem modBank_log (s : State) (k : Nat) (f : BankSt → BankSt) : (modBank s k f).log = s.log := rfl
@[simp] theorem modBank_pans (s : State) (k : Nat) (f : BankSt → BankSt) : (modBank s k f).pans = s.pans := rfl
@[simp] theorem modBank_sync (s : State) (k : Nat) (f : BankSt → BankSt) : (modBank s k f).sync = s.sync := rfl
@[simp] theorem modBank_ten (s : State) (k : Nat) (f : BankSt → BankSt) : (modBank s k f).ten = s.ten := rfl
@[simp] theorem modBank_slice (s : State) (k : Nat) (f : BankSt → BankSt) : (modBank s k f).slice = s.slice := rfl
@[simp] theorem modBank_sch (s : State) (k : Nat) (f : BankSt → BankSt) : (modBank s k f).sch = s.sch := rfl
@[simp] theorem modBank_desc (s : State) (k : Nat) (f : BankSt → BankSt) : (modBank s k f).desc = s.desc := rfl
@[simp] theorem modBank_dram_stk (s : State) (k : Nat) (f : BankSt → BankSt) : (modBank s k f).dram.stk = s.dram.stk := rfl
@[simp] theorem modBank_dram_units (s : State) (k : Nat) (f : BankSt → BankSt) : (modBank s k f).dram.units = s.dram.units := rfl
@[simp] theorem modBank_dram_windows (s : State) (k : Nat) (f : BankSt → BankSt) : (modBank s k f).dram.windows = s.dram.windows := rfl
@[simp] theorem modBank_dram_tags (s : State) (k : Nat) (f : BankSt → BankSt) : (modBank s k f).dram.tags = s.dram.tags := rfl
@[simp] theorem modBank_host (s : State) (k : Nat) (f : BankSt → BankSt) : (modBank s k f).host = s.host := rfl
@[simp] theorem modBank_net (s : State) (k : Nat) (f : BankSt → BankSt) : (modBank s k f).net = s.net := rfl
@[simp] theorem modBank_mir (s : State) (k : Nat) (f : BankSt → BankSt) : (modBank s k f).mir = s.mir := rfl
@[simp] theorem modBank_plc (s : State) (k : Nat) (f : BankSt → BankSt) : (modBank s k f).plc = s.plc := rfl
@[simp] theorem modBank_gov (s : State) (k : Nat) (f : BankSt → BankSt) : (modBank s k f).gov = s.gov := rfl
@[simp] theorem modBank_sen (s : State) (k : Nat) (f : BankSt → BankSt) : (modBank s k f).sen = s.sen := rfl
@[simp] theorem modBank_cal (s : State) (k : Nat) (f : BankSt → BankSt) : (modBank s k f).cal = s.cal := rfl
@[simp] theorem modBank_rst (s : State) (k : Nat) (f : BankSt → BankSt) : (modBank s k f).rst = s.rst := rfl
@[simp] theorem modBank_svc (s : State) (k : Nat) (f : BankSt → BankSt) : (modBank s k f).svc = s.svc := rfl
@[simp] theorem modBank_dbg (s : State) (k : Nat) (f : BankSt → BankSt) : (modBank s k f).dbg = s.dbg := rfl
@[simp] theorem modBank_out (s : State) (k : Nat) (f : BankSt → BankSt) : (modBank s k f).out = s.out := rfl

/-! ### modLane -/

@[simp] theorem modLane_pending (s : State) (n : LaneIx) (f : Lane → Lane) : (modLane s n f).pending = s.pending := rfl
@[simp] theorem modLane_tick (s : State) (n : LaneIx) (f : Lane → Lane) : (modLane s n f).tick = s.tick := rfl
@[simp] theorem modLane_free (s : State) (n : LaneIx) (f : Lane → Lane) : (modLane s n f).free = s.free := rfl
@[simp] theorem modLane_mem (s : State) (n : LaneIx) (f : Lane → Lane) : (modLane s n f).mem = s.mem := rfl
@[simp] theorem modLane_log (s : State) (n : LaneIx) (f : Lane → Lane) : (modLane s n f).log = s.log := rfl
@[simp] theorem modLane_pans (s : State) (n : LaneIx) (f : Lane → Lane) : (modLane s n f).pans = s.pans := rfl
@[simp] theorem modLane_sync (s : State) (n : LaneIx) (f : Lane → Lane) : (modLane s n f).sync = s.sync := rfl
@[simp] theorem modLane_ten (s : State) (n : LaneIx) (f : Lane → Lane) : (modLane s n f).ten = s.ten := rfl
@[simp] theorem modLane_slice (s : State) (n : LaneIx) (f : Lane → Lane) : (modLane s n f).slice = s.slice := rfl
@[simp] theorem modLane_sch (s : State) (n : LaneIx) (f : Lane → Lane) : (modLane s n f).sch = s.sch := rfl
@[simp] theorem modLane_desc (s : State) (n : LaneIx) (f : Lane → Lane) : (modLane s n f).desc = s.desc := rfl
@[simp] theorem modLane_dram (s : State) (n : LaneIx) (f : Lane → Lane) : (modLane s n f).dram = s.dram := rfl
@[simp] theorem modLane_host_linkUp (s : State) (n : LaneIx) (f : Lane → Lane) : (modLane s n f).host.linkUp = s.host.linkUp := rfl
@[simp] theorem modLane_host_width (s : State) (n : LaneIx) (f : Lane → Lane) : (modLane s n f).host.width = s.host.width := rfl
@[simp] theorem modLane_host_speed (s : State) (n : LaneIx) (f : Lane → Lane) : (modLane s n f).host.speed = s.host.speed := rfl
@[simp] theorem modLane_host_flit (s : State) (n : LaneIx) (f : Lane → Lane) : (modLane s n f).host.flit = s.host.flit := rfl
@[simp] theorem modLane_host_cache (s : State) (n : LaneIx) (f : Lane → Lane) : (modLane s n f).host.cache = s.host.cache := rfl
@[simp] theorem modLane_host_retrains (s : State) (n : LaneIx) (f : Lane → Lane) : (modLane s n f).host.retrains = s.host.retrains := rfl
@[simp] theorem modLane_host_downs (s : State) (n : LaneIx) (f : Lane → Lane) : (modLane s n f).host.downs = s.host.downs := rfl
@[simp] theorem modLane_host_seqLost (s : State) (n : LaneIx) (f : Lane → Lane) : (modLane s n f).host.seqLost = s.host.seqLost := rfl
@[simp] theorem modLane_host_storeHi (s : State) (n : LaneIx) (f : Lane → Lane) : (modLane s n f).host.storeHi = s.host.storeHi := rfl
@[simp] theorem modLane_host_attach (s : State) (n : LaneIx) (f : Lane → Lane) : (modLane s n f).host.attach = s.host.attach := rfl
@[simp] theorem modLane_host_attachPend (s : State) (n : LaneIx) (f : Lane → Lane) : (modLane s n f).host.attachPend = s.host.attachPend := rfl
@[simp] theorem modLane_host_crash (s : State) (n : LaneIx) (f : Lane → Lane) : (modLane s n f).host.crash = s.host.crash := rfl
@[simp] theorem modLane_host_perstSys (s : State) (n : LaneIx) (f : Lane → Lane) : (modLane s n f).host.perstSys = s.host.perstSys := rfl
@[simp] theorem modLane_host_bar2Rd (s : State) (n : LaneIx) (f : Lane → Lane) : (modLane s n f).host.bar2Rd = s.host.bar2Rd := rfl
@[simp] theorem modLane_host_bar0Drop (s : State) (n : LaneIx) (f : Lane → Lane) : (modLane s n f).host.bar0Drop = s.host.bar0Drop := rfl
@[simp] theorem modLane_host_compat (s : State) (n : LaneIx) (f : Lane → Lane) : (modLane s n f).host.compat = s.host.compat := rfl
@[simp] theorem modLane_host_respq (s : State) (n : LaneIx) (f : Lane → Lane) : (modLane s n f).host.respq = s.host.respq := rfl
@[simp] theorem modLane_host_respWait (s : State) (n : LaneIx) (f : Lane → Lane) : (modLane s n f).host.respWait = s.host.respWait := rfl
@[simp] theorem modLane_host_evq (s : State) (n : LaneIx) (f : Lane → Lane) : (modLane s n f).host.evq = s.host.evq := rfl
@[simp] theorem modLane_host_mbxq (s : State) (n : LaneIx) (f : Lane → Lane) : (modLane s n f).host.mbxq = s.host.mbxq := rfl
@[simp] theorem modLane_host_queues (s : State) (n : LaneIx) (f : Lane → Lane) : (modLane s n f).host.queues = s.host.queues := rfl
@[simp] theorem modLane_host_qerr (s : State) (n : LaneIx) (f : Lane → Lane) : (modLane s n f).host.qerr = s.host.qerr := rfl
@[simp] theorem modLane_host_slots (s : State) (n : LaneIx) (f : Lane → Lane) : (modLane s n f).host.slots = s.host.slots := rfl
@[simp] theorem modLane_host_accepted (s : State) (n : LaneIx) (f : Lane → Lane) : (modLane s n f).host.accepted = s.host.accepted := rfl
@[simp] theorem modLane_host_pend (s : State) (n : LaneIx) (f : Lane → Lane) : (modLane s n f).host.pend = s.host.pend := rfl
@[simp] theorem modLane_host_hnext (s : State) (n : LaneIx) (f : Lane → Lane) : (modLane s n f).host.hnext = s.host.hnext := rfl
@[simp] theorem modLane_host_dnext (s : State) (n : LaneIx) (f : Lane → Lane) : (modLane s n f).host.dnext = s.host.dnext := rfl
@[simp] theorem modLane_host_journal (s : State) (n : LaneIx) (f : Lane → Lane) : (modLane s n f).host.journal = s.host.journal := rfl
@[simp] theorem modLane_host_rings (s : State) (n : LaneIx) (f : Lane → Lane) : (modLane s n f).host.rings = s.host.rings := rfl
@[simp] theorem modLane_host_storeStalls (s : State) (n : LaneIx) (f : Lane → Lane) : (modLane s n f).host.storeStalls = s.host.storeStalls := rfl
@[simp] theorem modLane_host_regions (s : State) (n : LaneIx) (f : Lane → Lane) : (modLane s n f).host.regions = s.host.regions := rfl
@[simp] theorem modLane_host_msix (s : State) (n : LaneIx) (f : Lane → Lane) : (modLane s n f).host.msix = s.host.msix := rfl
@[simp] theorem modLane_host_msixPend (s : State) (n : LaneIx) (f : Lane → Lane) : (modLane s n f).host.msixPend = s.host.msixPend := rfl
@[simp] theorem modLane_net (s : State) (n : LaneIx) (f : Lane → Lane) : (modLane s n f).net = s.net := rfl
@[simp] theorem modLane_mir (s : State) (n : LaneIx) (f : Lane → Lane) : (modLane s n f).mir = s.mir := rfl
@[simp] theorem modLane_plc (s : State) (n : LaneIx) (f : Lane → Lane) : (modLane s n f).plc = s.plc := rfl
@[simp] theorem modLane_gov (s : State) (n : LaneIx) (f : Lane → Lane) : (modLane s n f).gov = s.gov := rfl
@[simp] theorem modLane_sen (s : State) (n : LaneIx) (f : Lane → Lane) : (modLane s n f).sen = s.sen := rfl
@[simp] theorem modLane_cal (s : State) (n : LaneIx) (f : Lane → Lane) : (modLane s n f).cal = s.cal := rfl
@[simp] theorem modLane_rst (s : State) (n : LaneIx) (f : Lane → Lane) : (modLane s n f).rst = s.rst := rfl
@[simp] theorem modLane_svc (s : State) (n : LaneIx) (f : Lane → Lane) : (modLane s n f).svc = s.svc := rfl
@[simp] theorem modLane_dbg (s : State) (n : LaneIx) (f : Lane → Lane) : (modLane s n f).dbg = s.dbg := rfl
@[simp] theorem modLane_out (s : State) (n : LaneIx) (f : Lane → Lane) : (modLane s n f).out = s.out := rfl

/-! ### modRing -/

@[simp] theorem modRing_pending (s : State) (n : RingIx) (f : Ring → Ring) : (modRing s n f).pending = s.pending := rfl
@[simp] theorem modRing_tick (s : State) (n : RingIx) (f : Ring → Ring) : (modRing s n f).tick = s.tick := rfl
@[simp] theorem modRing_free (s : State) (n : RingIx) (f : Ring → Ring) : (modRing s n f).free = s.free := rfl
@[simp] theorem modRing_mem (s : State) (n : RingIx) (f : Ring → Ring) : (modRing s n f).mem = s.mem := rfl
@[simp] theorem modRing_log (s : State) (n : RingIx) (f : Ring → Ring) : (modRing s n f).log = s.log := rfl
@[simp] theorem modRing_pans (s : State) (n : RingIx) (f : Ring → Ring) : (modRing s n f).pans = s.pans := rfl
@[simp] theorem modRing_sync (s : State) (n : RingIx) (f : Ring → Ring) : (modRing s n f).sync = s.sync := rfl
@[simp] theorem modRing_ten (s : State) (n : RingIx) (f : Ring → Ring) : (modRing s n f).ten = s.ten := rfl
@[simp] theorem modRing_slice (s : State) (n : RingIx) (f : Ring → Ring) : (modRing s n f).slice = s.slice := rfl
@[simp] theorem modRing_sch (s : State) (n : RingIx) (f : Ring → Ring) : (modRing s n f).sch = s.sch := rfl
@[simp] theorem modRing_desc (s : State) (n : RingIx) (f : Ring → Ring) : (modRing s n f).desc = s.desc := rfl
@[simp] theorem modRing_dram (s : State) (n : RingIx) (f : Ring → Ring) : (modRing s n f).dram = s.dram := rfl
@[simp] theorem modRing_host_linkUp (s : State) (n : RingIx) (f : Ring → Ring) : (modRing s n f).host.linkUp = s.host.linkUp := rfl
@[simp] theorem modRing_host_width (s : State) (n : RingIx) (f : Ring → Ring) : (modRing s n f).host.width = s.host.width := rfl
@[simp] theorem modRing_host_speed (s : State) (n : RingIx) (f : Ring → Ring) : (modRing s n f).host.speed = s.host.speed := rfl
@[simp] theorem modRing_host_flit (s : State) (n : RingIx) (f : Ring → Ring) : (modRing s n f).host.flit = s.host.flit := rfl
@[simp] theorem modRing_host_cache (s : State) (n : RingIx) (f : Ring → Ring) : (modRing s n f).host.cache = s.host.cache := rfl
@[simp] theorem modRing_host_retrains (s : State) (n : RingIx) (f : Ring → Ring) : (modRing s n f).host.retrains = s.host.retrains := rfl
@[simp] theorem modRing_host_downs (s : State) (n : RingIx) (f : Ring → Ring) : (modRing s n f).host.downs = s.host.downs := rfl
@[simp] theorem modRing_host_seqLost (s : State) (n : RingIx) (f : Ring → Ring) : (modRing s n f).host.seqLost = s.host.seqLost := rfl
@[simp] theorem modRing_host_storeHi (s : State) (n : RingIx) (f : Ring → Ring) : (modRing s n f).host.storeHi = s.host.storeHi := rfl
@[simp] theorem modRing_host_attach (s : State) (n : RingIx) (f : Ring → Ring) : (modRing s n f).host.attach = s.host.attach := rfl
@[simp] theorem modRing_host_attachPend (s : State) (n : RingIx) (f : Ring → Ring) : (modRing s n f).host.attachPend = s.host.attachPend := rfl
@[simp] theorem modRing_host_crash (s : State) (n : RingIx) (f : Ring → Ring) : (modRing s n f).host.crash = s.host.crash := rfl
@[simp] theorem modRing_host_perstSys (s : State) (n : RingIx) (f : Ring → Ring) : (modRing s n f).host.perstSys = s.host.perstSys := rfl
@[simp] theorem modRing_host_bar2Rd (s : State) (n : RingIx) (f : Ring → Ring) : (modRing s n f).host.bar2Rd = s.host.bar2Rd := rfl
@[simp] theorem modRing_host_bar0Drop (s : State) (n : RingIx) (f : Ring → Ring) : (modRing s n f).host.bar0Drop = s.host.bar0Drop := rfl
@[simp] theorem modRing_host_compat (s : State) (n : RingIx) (f : Ring → Ring) : (modRing s n f).host.compat = s.host.compat := rfl
@[simp] theorem modRing_host_respq (s : State) (n : RingIx) (f : Ring → Ring) : (modRing s n f).host.respq = s.host.respq := rfl
@[simp] theorem modRing_host_respWait (s : State) (n : RingIx) (f : Ring → Ring) : (modRing s n f).host.respWait = s.host.respWait := rfl
@[simp] theorem modRing_host_evq (s : State) (n : RingIx) (f : Ring → Ring) : (modRing s n f).host.evq = s.host.evq := rfl
@[simp] theorem modRing_host_mbxq (s : State) (n : RingIx) (f : Ring → Ring) : (modRing s n f).host.mbxq = s.host.mbxq := rfl
@[simp] theorem modRing_host_queues (s : State) (n : RingIx) (f : Ring → Ring) : (modRing s n f).host.queues = s.host.queues := rfl
@[simp] theorem modRing_host_qerr (s : State) (n : RingIx) (f : Ring → Ring) : (modRing s n f).host.qerr = s.host.qerr := rfl
@[simp] theorem modRing_host_slots (s : State) (n : RingIx) (f : Ring → Ring) : (modRing s n f).host.slots = s.host.slots := rfl
@[simp] theorem modRing_host_accepted (s : State) (n : RingIx) (f : Ring → Ring) : (modRing s n f).host.accepted = s.host.accepted := rfl
@[simp] theorem modRing_host_pend (s : State) (n : RingIx) (f : Ring → Ring) : (modRing s n f).host.pend = s.host.pend := rfl
@[simp] theorem modRing_host_hnext (s : State) (n : RingIx) (f : Ring → Ring) : (modRing s n f).host.hnext = s.host.hnext := rfl
@[simp] theorem modRing_host_dnext (s : State) (n : RingIx) (f : Ring → Ring) : (modRing s n f).host.dnext = s.host.dnext := rfl
@[simp] theorem modRing_host_journal (s : State) (n : RingIx) (f : Ring → Ring) : (modRing s n f).host.journal = s.host.journal := rfl
@[simp] theorem modRing_host_lanes (s : State) (n : RingIx) (f : Ring → Ring) : (modRing s n f).host.lanes = s.host.lanes := rfl
@[simp] theorem modRing_host_storeStalls (s : State) (n : RingIx) (f : Ring → Ring) : (modRing s n f).host.storeStalls = s.host.storeStalls := rfl
@[simp] theorem modRing_host_regions (s : State) (n : RingIx) (f : Ring → Ring) : (modRing s n f).host.regions = s.host.regions := rfl
@[simp] theorem modRing_host_msix (s : State) (n : RingIx) (f : Ring → Ring) : (modRing s n f).host.msix = s.host.msix := rfl
@[simp] theorem modRing_host_msixPend (s : State) (n : RingIx) (f : Ring → Ring) : (modRing s n f).host.msixPend = s.host.msixPend := rfl
@[simp] theorem modRing_net (s : State) (n : RingIx) (f : Ring → Ring) : (modRing s n f).net = s.net := rfl
@[simp] theorem modRing_mir (s : State) (n : RingIx) (f : Ring → Ring) : (modRing s n f).mir = s.mir := rfl
@[simp] theorem modRing_plc (s : State) (n : RingIx) (f : Ring → Ring) : (modRing s n f).plc = s.plc := rfl
@[simp] theorem modRing_gov (s : State) (n : RingIx) (f : Ring → Ring) : (modRing s n f).gov = s.gov := rfl
@[simp] theorem modRing_sen (s : State) (n : RingIx) (f : Ring → Ring) : (modRing s n f).sen = s.sen := rfl
@[simp] theorem modRing_cal (s : State) (n : RingIx) (f : Ring → Ring) : (modRing s n f).cal = s.cal := rfl
@[simp] theorem modRing_rst (s : State) (n : RingIx) (f : Ring → Ring) : (modRing s n f).rst = s.rst := rfl
@[simp] theorem modRing_svc (s : State) (n : RingIx) (f : Ring → Ring) : (modRing s n f).svc = s.svc := rfl
@[simp] theorem modRing_dbg (s : State) (n : RingIx) (f : Ring → Ring) : (modRing s n f).dbg = s.dbg := rfl
@[simp] theorem modRing_out (s : State) (n : RingIx) (f : Ring → Ring) : (modRing s n f).out = s.out := rfl

/-! ### modQErr -/

@[simp] theorem modQErr_pending (s : State) (n : Nat) (f : QErr → QErr) : (modQErr s n f).pending = s.pending := rfl
@[simp] theorem modQErr_tick (s : State) (n : Nat) (f : QErr → QErr) : (modQErr s n f).tick = s.tick := rfl
@[simp] theorem modQErr_free (s : State) (n : Nat) (f : QErr → QErr) : (modQErr s n f).free = s.free := rfl
@[simp] theorem modQErr_mem (s : State) (n : Nat) (f : QErr → QErr) : (modQErr s n f).mem = s.mem := rfl
@[simp] theorem modQErr_log (s : State) (n : Nat) (f : QErr → QErr) : (modQErr s n f).log = s.log := rfl
@[simp] theorem modQErr_pans (s : State) (n : Nat) (f : QErr → QErr) : (modQErr s n f).pans = s.pans := rfl
@[simp] theorem modQErr_sync (s : State) (n : Nat) (f : QErr → QErr) : (modQErr s n f).sync = s.sync := rfl
@[simp] theorem modQErr_ten (s : State) (n : Nat) (f : QErr → QErr) : (modQErr s n f).ten = s.ten := rfl
@[simp] theorem modQErr_slice (s : State) (n : Nat) (f : QErr → QErr) : (modQErr s n f).slice = s.slice := rfl
@[simp] theorem modQErr_sch (s : State) (n : Nat) (f : QErr → QErr) : (modQErr s n f).sch = s.sch := rfl
@[simp] theorem modQErr_desc (s : State) (n : Nat) (f : QErr → QErr) : (modQErr s n f).desc = s.desc := rfl
@[simp] theorem modQErr_dram (s : State) (n : Nat) (f : QErr → QErr) : (modQErr s n f).dram = s.dram := rfl
@[simp] theorem modQErr_host_linkUp (s : State) (n : Nat) (f : QErr → QErr) : (modQErr s n f).host.linkUp = s.host.linkUp := rfl
@[simp] theorem modQErr_host_width (s : State) (n : Nat) (f : QErr → QErr) : (modQErr s n f).host.width = s.host.width := rfl
@[simp] theorem modQErr_host_speed (s : State) (n : Nat) (f : QErr → QErr) : (modQErr s n f).host.speed = s.host.speed := rfl
@[simp] theorem modQErr_host_flit (s : State) (n : Nat) (f : QErr → QErr) : (modQErr s n f).host.flit = s.host.flit := rfl
@[simp] theorem modQErr_host_cache (s : State) (n : Nat) (f : QErr → QErr) : (modQErr s n f).host.cache = s.host.cache := rfl
@[simp] theorem modQErr_host_retrains (s : State) (n : Nat) (f : QErr → QErr) : (modQErr s n f).host.retrains = s.host.retrains := rfl
@[simp] theorem modQErr_host_downs (s : State) (n : Nat) (f : QErr → QErr) : (modQErr s n f).host.downs = s.host.downs := rfl
@[simp] theorem modQErr_host_seqLost (s : State) (n : Nat) (f : QErr → QErr) : (modQErr s n f).host.seqLost = s.host.seqLost := rfl
@[simp] theorem modQErr_host_storeHi (s : State) (n : Nat) (f : QErr → QErr) : (modQErr s n f).host.storeHi = s.host.storeHi := rfl
@[simp] theorem modQErr_host_attach (s : State) (n : Nat) (f : QErr → QErr) : (modQErr s n f).host.attach = s.host.attach := rfl
@[simp] theorem modQErr_host_attachPend (s : State) (n : Nat) (f : QErr → QErr) : (modQErr s n f).host.attachPend = s.host.attachPend := rfl
@[simp] theorem modQErr_host_crash (s : State) (n : Nat) (f : QErr → QErr) : (modQErr s n f).host.crash = s.host.crash := rfl
@[simp] theorem modQErr_host_perstSys (s : State) (n : Nat) (f : QErr → QErr) : (modQErr s n f).host.perstSys = s.host.perstSys := rfl
@[simp] theorem modQErr_host_bar2Rd (s : State) (n : Nat) (f : QErr → QErr) : (modQErr s n f).host.bar2Rd = s.host.bar2Rd := rfl
@[simp] theorem modQErr_host_bar0Drop (s : State) (n : Nat) (f : QErr → QErr) : (modQErr s n f).host.bar0Drop = s.host.bar0Drop := rfl
@[simp] theorem modQErr_host_compat (s : State) (n : Nat) (f : QErr → QErr) : (modQErr s n f).host.compat = s.host.compat := rfl
@[simp] theorem modQErr_host_respq (s : State) (n : Nat) (f : QErr → QErr) : (modQErr s n f).host.respq = s.host.respq := rfl
@[simp] theorem modQErr_host_respWait (s : State) (n : Nat) (f : QErr → QErr) : (modQErr s n f).host.respWait = s.host.respWait := rfl
@[simp] theorem modQErr_host_evq (s : State) (n : Nat) (f : QErr → QErr) : (modQErr s n f).host.evq = s.host.evq := rfl
@[simp] theorem modQErr_host_mbxq (s : State) (n : Nat) (f : QErr → QErr) : (modQErr s n f).host.mbxq = s.host.mbxq := rfl
@[simp] theorem modQErr_host_queues (s : State) (n : Nat) (f : QErr → QErr) : (modQErr s n f).host.queues = s.host.queues := rfl
@[simp] theorem modQErr_host_slots (s : State) (n : Nat) (f : QErr → QErr) : (modQErr s n f).host.slots = s.host.slots := rfl
@[simp] theorem modQErr_host_accepted (s : State) (n : Nat) (f : QErr → QErr) : (modQErr s n f).host.accepted = s.host.accepted := rfl
@[simp] theorem modQErr_host_pend (s : State) (n : Nat) (f : QErr → QErr) : (modQErr s n f).host.pend = s.host.pend := rfl
@[simp] theorem modQErr_host_hnext (s : State) (n : Nat) (f : QErr → QErr) : (modQErr s n f).host.hnext = s.host.hnext := rfl
@[simp] theorem modQErr_host_dnext (s : State) (n : Nat) (f : QErr → QErr) : (modQErr s n f).host.dnext = s.host.dnext := rfl
@[simp] theorem modQErr_host_journal (s : State) (n : Nat) (f : QErr → QErr) : (modQErr s n f).host.journal = s.host.journal := rfl
@[simp] theorem modQErr_host_lanes (s : State) (n : Nat) (f : QErr → QErr) : (modQErr s n f).host.lanes = s.host.lanes := rfl
@[simp] theorem modQErr_host_rings (s : State) (n : Nat) (f : QErr → QErr) : (modQErr s n f).host.rings = s.host.rings := rfl
@[simp] theorem modQErr_host_storeStalls (s : State) (n : Nat) (f : QErr → QErr) : (modQErr s n f).host.storeStalls = s.host.storeStalls := rfl
@[simp] theorem modQErr_host_regions (s : State) (n : Nat) (f : QErr → QErr) : (modQErr s n f).host.regions = s.host.regions := rfl
@[simp] theorem modQErr_host_msix (s : State) (n : Nat) (f : QErr → QErr) : (modQErr s n f).host.msix = s.host.msix := rfl
@[simp] theorem modQErr_host_msixPend (s : State) (n : Nat) (f : QErr → QErr) : (modQErr s n f).host.msixPend = s.host.msixPend := rfl
@[simp] theorem modQErr_net (s : State) (n : Nat) (f : QErr → QErr) : (modQErr s n f).net = s.net := rfl
@[simp] theorem modQErr_mir (s : State) (n : Nat) (f : QErr → QErr) : (modQErr s n f).mir = s.mir := rfl
@[simp] theorem modQErr_plc (s : State) (n : Nat) (f : QErr → QErr) : (modQErr s n f).plc = s.plc := rfl
@[simp] theorem modQErr_gov (s : State) (n : Nat) (f : QErr → QErr) : (modQErr s n f).gov = s.gov := rfl
@[simp] theorem modQErr_sen (s : State) (n : Nat) (f : QErr → QErr) : (modQErr s n f).sen = s.sen := rfl
@[simp] theorem modQErr_cal (s : State) (n : Nat) (f : QErr → QErr) : (modQErr s n f).cal = s.cal := rfl
@[simp] theorem modQErr_rst (s : State) (n : Nat) (f : QErr → QErr) : (modQErr s n f).rst = s.rst := rfl
@[simp] theorem modQErr_svc (s : State) (n : Nat) (f : QErr → QErr) : (modQErr s n f).svc = s.svc := rfl
@[simp] theorem modQErr_dbg (s : State) (n : Nat) (f : QErr → QErr) : (modQErr s n f).dbg = s.dbg := rfl
@[simp] theorem modQErr_out (s : State) (n : Nat) (f : QErr → QErr) : (modQErr s n f).out = s.out := rfl

/-! ### dropBar0 -/

@[simp] theorem dropBar0_pending (s : State) : (dropBar0 s).pending = s.pending := rfl
@[simp] theorem dropBar0_tick (s : State) : (dropBar0 s).tick = s.tick := rfl
@[simp] theorem dropBar0_free (s : State) : (dropBar0 s).free = s.free := rfl
@[simp] theorem dropBar0_mem (s : State) : (dropBar0 s).mem = s.mem := rfl
@[simp] theorem dropBar0_log (s : State) : (dropBar0 s).log = s.log := rfl
@[simp] theorem dropBar0_pans (s : State) : (dropBar0 s).pans = s.pans := rfl
@[simp] theorem dropBar0_sync (s : State) : (dropBar0 s).sync = s.sync := rfl
@[simp] theorem dropBar0_ten (s : State) : (dropBar0 s).ten = s.ten := rfl
@[simp] theorem dropBar0_slice (s : State) : (dropBar0 s).slice = s.slice := rfl
@[simp] theorem dropBar0_sch (s : State) : (dropBar0 s).sch = s.sch := rfl
@[simp] theorem dropBar0_desc (s : State) : (dropBar0 s).desc = s.desc := rfl
@[simp] theorem dropBar0_dram (s : State) : (dropBar0 s).dram = s.dram := rfl
@[simp] theorem dropBar0_host_linkUp (s : State) : (dropBar0 s).host.linkUp = s.host.linkUp := rfl
@[simp] theorem dropBar0_host_width (s : State) : (dropBar0 s).host.width = s.host.width := rfl
@[simp] theorem dropBar0_host_speed (s : State) : (dropBar0 s).host.speed = s.host.speed := rfl
@[simp] theorem dropBar0_host_flit (s : State) : (dropBar0 s).host.flit = s.host.flit := rfl
@[simp] theorem dropBar0_host_cache (s : State) : (dropBar0 s).host.cache = s.host.cache := rfl
@[simp] theorem dropBar0_host_retrains (s : State) : (dropBar0 s).host.retrains = s.host.retrains := rfl
@[simp] theorem dropBar0_host_downs (s : State) : (dropBar0 s).host.downs = s.host.downs := rfl
@[simp] theorem dropBar0_host_seqLost (s : State) : (dropBar0 s).host.seqLost = s.host.seqLost := rfl
@[simp] theorem dropBar0_host_storeHi (s : State) : (dropBar0 s).host.storeHi = s.host.storeHi := rfl
@[simp] theorem dropBar0_host_attach (s : State) : (dropBar0 s).host.attach = s.host.attach := rfl
@[simp] theorem dropBar0_host_attachPend (s : State) : (dropBar0 s).host.attachPend = s.host.attachPend := rfl
@[simp] theorem dropBar0_host_crash (s : State) : (dropBar0 s).host.crash = s.host.crash := rfl
@[simp] theorem dropBar0_host_perstSys (s : State) : (dropBar0 s).host.perstSys = s.host.perstSys := rfl
@[simp] theorem dropBar0_host_bar2Rd (s : State) : (dropBar0 s).host.bar2Rd = s.host.bar2Rd := rfl
@[simp] theorem dropBar0_host_compat (s : State) : (dropBar0 s).host.compat = s.host.compat := rfl
@[simp] theorem dropBar0_host_respq (s : State) : (dropBar0 s).host.respq = s.host.respq := rfl
@[simp] theorem dropBar0_host_respWait (s : State) : (dropBar0 s).host.respWait = s.host.respWait := rfl
@[simp] theorem dropBar0_host_evq (s : State) : (dropBar0 s).host.evq = s.host.evq := rfl
@[simp] theorem dropBar0_host_mbxq (s : State) : (dropBar0 s).host.mbxq = s.host.mbxq := rfl
@[simp] theorem dropBar0_host_queues (s : State) : (dropBar0 s).host.queues = s.host.queues := rfl
@[simp] theorem dropBar0_host_qerr (s : State) : (dropBar0 s).host.qerr = s.host.qerr := rfl
@[simp] theorem dropBar0_host_slots (s : State) : (dropBar0 s).host.slots = s.host.slots := rfl
@[simp] theorem dropBar0_host_accepted (s : State) : (dropBar0 s).host.accepted = s.host.accepted := rfl
@[simp] theorem dropBar0_host_pend (s : State) : (dropBar0 s).host.pend = s.host.pend := rfl
@[simp] theorem dropBar0_host_hnext (s : State) : (dropBar0 s).host.hnext = s.host.hnext := rfl
@[simp] theorem dropBar0_host_dnext (s : State) : (dropBar0 s).host.dnext = s.host.dnext := rfl
@[simp] theorem dropBar0_host_journal (s : State) : (dropBar0 s).host.journal = s.host.journal := rfl
@[simp] theorem dropBar0_host_lanes (s : State) : (dropBar0 s).host.lanes = s.host.lanes := rfl
@[simp] theorem dropBar0_host_rings (s : State) : (dropBar0 s).host.rings = s.host.rings := rfl
@[simp] theorem dropBar0_host_storeStalls (s : State) : (dropBar0 s).host.storeStalls = s.host.storeStalls := rfl
@[simp] theorem dropBar0_host_regions (s : State) : (dropBar0 s).host.regions = s.host.regions := rfl
@[simp] theorem dropBar0_host_msix (s : State) : (dropBar0 s).host.msix = s.host.msix := rfl
@[simp] theorem dropBar0_host_msixPend (s : State) : (dropBar0 s).host.msixPend = s.host.msixPend := rfl
@[simp] theorem dropBar0_net (s : State) : (dropBar0 s).net = s.net := rfl
@[simp] theorem dropBar0_mir (s : State) : (dropBar0 s).mir = s.mir := rfl
@[simp] theorem dropBar0_plc (s : State) : (dropBar0 s).plc = s.plc := rfl
@[simp] theorem dropBar0_gov (s : State) : (dropBar0 s).gov = s.gov := rfl
@[simp] theorem dropBar0_sen (s : State) : (dropBar0 s).sen = s.sen := rfl
@[simp] theorem dropBar0_cal (s : State) : (dropBar0 s).cal = s.cal := rfl
@[simp] theorem dropBar0_rst (s : State) : (dropBar0 s).rst = s.rst := rfl
@[simp] theorem dropBar0_svc (s : State) : (dropBar0 s).svc = s.svc := rfl
@[simp] theorem dropBar0_dbg (s : State) : (dropBar0 s).dbg = s.dbg := rfl
@[simp] theorem dropBar0_out (s : State) : (dropBar0 s).out = s.out := rfl

/-! ### modHost -/

@[simp] theorem modHost_pending (s : State) (f : HostSt → HostSt) : (modHost s f).pending = s.pending := rfl
@[simp] theorem modHost_tick (s : State) (f : HostSt → HostSt) : (modHost s f).tick = s.tick := rfl
@[simp] theorem modHost_free (s : State) (f : HostSt → HostSt) : (modHost s f).free = s.free := rfl
@[simp] theorem modHost_mem (s : State) (f : HostSt → HostSt) : (modHost s f).mem = s.mem := rfl
@[simp] theorem modHost_log (s : State) (f : HostSt → HostSt) : (modHost s f).log = s.log := rfl
@[simp] theorem modHost_pans (s : State) (f : HostSt → HostSt) : (modHost s f).pans = s.pans := rfl
@[simp] theorem modHost_sync (s : State) (f : HostSt → HostSt) : (modHost s f).sync = s.sync := rfl
@[simp] theorem modHost_ten (s : State) (f : HostSt → HostSt) : (modHost s f).ten = s.ten := rfl
@[simp] theorem modHost_slice (s : State) (f : HostSt → HostSt) : (modHost s f).slice = s.slice := rfl
@[simp] theorem modHost_sch (s : State) (f : HostSt → HostSt) : (modHost s f).sch = s.sch := rfl
@[simp] theorem modHost_desc (s : State) (f : HostSt → HostSt) : (modHost s f).desc = s.desc := rfl
@[simp] theorem modHost_dram (s : State) (f : HostSt → HostSt) : (modHost s f).dram = s.dram := rfl
@[simp] theorem modHost_net (s : State) (f : HostSt → HostSt) : (modHost s f).net = s.net := rfl
@[simp] theorem modHost_mir (s : State) (f : HostSt → HostSt) : (modHost s f).mir = s.mir := rfl
@[simp] theorem modHost_plc (s : State) (f : HostSt → HostSt) : (modHost s f).plc = s.plc := rfl
@[simp] theorem modHost_gov (s : State) (f : HostSt → HostSt) : (modHost s f).gov = s.gov := rfl
@[simp] theorem modHost_sen (s : State) (f : HostSt → HostSt) : (modHost s f).sen = s.sen := rfl
@[simp] theorem modHost_cal (s : State) (f : HostSt → HostSt) : (modHost s f).cal = s.cal := rfl
@[simp] theorem modHost_rst (s : State) (f : HostSt → HostSt) : (modHost s f).rst = s.rst := rfl
@[simp] theorem modHost_svc (s : State) (f : HostSt → HostSt) : (modHost s f).svc = s.svc := rfl
@[simp] theorem modHost_dbg (s : State) (f : HostSt → HostSt) : (modHost s f).dbg = s.dbg := rfl
@[simp] theorem modHost_out (s : State) (f : HostSt → HostSt) : (modHost s f).out = s.out := rfl

/-! ### modPort -/

@[simp] theorem modPort_pending (s : State) (n : PortIx) (f : PortSt → PortSt) : (modPort s n f).pending = s.pending := rfl
@[simp] theorem modPort_tick (s : State) (n : PortIx) (f : PortSt → PortSt) : (modPort s n f).tick = s.tick := rfl
@[simp] theorem modPort_free (s : State) (n : PortIx) (f : PortSt → PortSt) : (modPort s n f).free = s.free := rfl
@[simp] theorem modPort_mem (s : State) (n : PortIx) (f : PortSt → PortSt) : (modPort s n f).mem = s.mem := rfl
@[simp] theorem modPort_log (s : State) (n : PortIx) (f : PortSt → PortSt) : (modPort s n f).log = s.log := rfl
@[simp] theorem modPort_pans (s : State) (n : PortIx) (f : PortSt → PortSt) : (modPort s n f).pans = s.pans := rfl
@[simp] theorem modPort_sync (s : State) (n : PortIx) (f : PortSt → PortSt) : (modPort s n f).sync = s.sync := rfl
@[simp] theorem modPort_ten (s : State) (n : PortIx) (f : PortSt → PortSt) : (modPort s n f).ten = s.ten := rfl
@[simp] theorem modPort_slice (s : State) (n : PortIx) (f : PortSt → PortSt) : (modPort s n f).slice = s.slice := rfl
@[simp] theorem modPort_sch (s : State) (n : PortIx) (f : PortSt → PortSt) : (modPort s n f).sch = s.sch := rfl
@[simp] theorem modPort_desc (s : State) (n : PortIx) (f : PortSt → PortSt) : (modPort s n f).desc = s.desc := rfl
@[simp] theorem modPort_dram (s : State) (n : PortIx) (f : PortSt → PortSt) : (modPort s n f).dram = s.dram := rfl
@[simp] theorem modPort_host (s : State) (n : PortIx) (f : PortSt → PortSt) : (modPort s n f).host = s.host := rfl
@[simp] theorem modPort_net_keys (s : State) (n : PortIx) (f : PortSt → PortSt) : (modPort s n f).net.keys = s.net.keys := rfl
@[simp] theorem modPort_net_qps (s : State) (n : PortIx) (f : PortSt → PortSt) : (modPort s n f).net.qps = s.net.qps := rfl
@[simp] theorem modPort_mir (s : State) (n : PortIx) (f : PortSt → PortSt) : (modPort s n f).mir = s.mir := rfl
@[simp] theorem modPort_plc (s : State) (n : PortIx) (f : PortSt → PortSt) : (modPort s n f).plc = s.plc := rfl
@[simp] theorem modPort_gov (s : State) (n : PortIx) (f : PortSt → PortSt) : (modPort s n f).gov = s.gov := rfl
@[simp] theorem modPort_sen (s : State) (n : PortIx) (f : PortSt → PortSt) : (modPort s n f).sen = s.sen := rfl
@[simp] theorem modPort_cal (s : State) (n : PortIx) (f : PortSt → PortSt) : (modPort s n f).cal = s.cal := rfl
@[simp] theorem modPort_rst (s : State) (n : PortIx) (f : PortSt → PortSt) : (modPort s n f).rst = s.rst := rfl
@[simp] theorem modPort_svc (s : State) (n : PortIx) (f : PortSt → PortSt) : (modPort s n f).svc = s.svc := rfl
@[simp] theorem modPort_dbg (s : State) (n : PortIx) (f : PortSt → PortSt) : (modPort s n f).dbg = s.dbg := rfl
@[simp] theorem modPort_out (s : State) (n : PortIx) (f : PortSt → PortSt) : (modPort s n f).out = s.out := rfl

/-! ### modKey -/

@[simp] theorem modKey_pending (s : State) (k : Nat) (f : NetKey → NetKey) : (modKey s k f).pending = s.pending := rfl
@[simp] theorem modKey_tick (s : State) (k : Nat) (f : NetKey → NetKey) : (modKey s k f).tick = s.tick := rfl
@[simp] theorem modKey_free (s : State) (k : Nat) (f : NetKey → NetKey) : (modKey s k f).free = s.free := rfl
@[simp] theorem modKey_mem (s : State) (k : Nat) (f : NetKey → NetKey) : (modKey s k f).mem = s.mem := rfl
@[simp] theorem modKey_log (s : State) (k : Nat) (f : NetKey → NetKey) : (modKey s k f).log = s.log := rfl
@[simp] theorem modKey_pans (s : State) (k : Nat) (f : NetKey → NetKey) : (modKey s k f).pans = s.pans := rfl
@[simp] theorem modKey_sync (s : State) (k : Nat) (f : NetKey → NetKey) : (modKey s k f).sync = s.sync := rfl
@[simp] theorem modKey_ten (s : State) (k : Nat) (f : NetKey → NetKey) : (modKey s k f).ten = s.ten := rfl
@[simp] theorem modKey_slice (s : State) (k : Nat) (f : NetKey → NetKey) : (modKey s k f).slice = s.slice := rfl
@[simp] theorem modKey_sch (s : State) (k : Nat) (f : NetKey → NetKey) : (modKey s k f).sch = s.sch := rfl
@[simp] theorem modKey_desc (s : State) (k : Nat) (f : NetKey → NetKey) : (modKey s k f).desc = s.desc := rfl
@[simp] theorem modKey_dram (s : State) (k : Nat) (f : NetKey → NetKey) : (modKey s k f).dram = s.dram := rfl
@[simp] theorem modKey_host (s : State) (k : Nat) (f : NetKey → NetKey) : (modKey s k f).host = s.host := rfl
@[simp] theorem modKey_net_ports (s : State) (k : Nat) (f : NetKey → NetKey) : (modKey s k f).net.ports = s.net.ports := rfl
@[simp] theorem modKey_net_qps (s : State) (k : Nat) (f : NetKey → NetKey) : (modKey s k f).net.qps = s.net.qps := rfl
@[simp] theorem modKey_mir (s : State) (k : Nat) (f : NetKey → NetKey) : (modKey s k f).mir = s.mir := rfl
@[simp] theorem modKey_plc (s : State) (k : Nat) (f : NetKey → NetKey) : (modKey s k f).plc = s.plc := rfl
@[simp] theorem modKey_gov (s : State) (k : Nat) (f : NetKey → NetKey) : (modKey s k f).gov = s.gov := rfl
@[simp] theorem modKey_sen (s : State) (k : Nat) (f : NetKey → NetKey) : (modKey s k f).sen = s.sen := rfl
@[simp] theorem modKey_cal (s : State) (k : Nat) (f : NetKey → NetKey) : (modKey s k f).cal = s.cal := rfl
@[simp] theorem modKey_rst (s : State) (k : Nat) (f : NetKey → NetKey) : (modKey s k f).rst = s.rst := rfl
@[simp] theorem modKey_svc (s : State) (k : Nat) (f : NetKey → NetKey) : (modKey s k f).svc = s.svc := rfl
@[simp] theorem modKey_dbg (s : State) (k : Nat) (f : NetKey → NetKey) : (modKey s k f).dbg = s.dbg := rfl
@[simp] theorem modKey_out (s : State) (k : Nat) (f : NetKey → NetKey) : (modKey s k f).out = s.out := rfl

/-! ### modQp -/

@[simp] theorem modQp_pending (s : State) (n : PortIx) (q : Fin 64) (f : Qp → Qp) : (modQp s n q f).pending = s.pending := rfl
@[simp] theorem modQp_tick (s : State) (n : PortIx) (q : Fin 64) (f : Qp → Qp) : (modQp s n q f).tick = s.tick := rfl
@[simp] theorem modQp_free (s : State) (n : PortIx) (q : Fin 64) (f : Qp → Qp) : (modQp s n q f).free = s.free := rfl
@[simp] theorem modQp_mem (s : State) (n : PortIx) (q : Fin 64) (f : Qp → Qp) : (modQp s n q f).mem = s.mem := rfl
@[simp] theorem modQp_log (s : State) (n : PortIx) (q : Fin 64) (f : Qp → Qp) : (modQp s n q f).log = s.log := rfl
@[simp] theorem modQp_pans (s : State) (n : PortIx) (q : Fin 64) (f : Qp → Qp) : (modQp s n q f).pans = s.pans := rfl
@[simp] theorem modQp_sync (s : State) (n : PortIx) (q : Fin 64) (f : Qp → Qp) : (modQp s n q f).sync = s.sync := rfl
@[simp] theorem modQp_ten (s : State) (n : PortIx) (q : Fin 64) (f : Qp → Qp) : (modQp s n q f).ten = s.ten := rfl
@[simp] theorem modQp_slice (s : State) (n : PortIx) (q : Fin 64) (f : Qp → Qp) : (modQp s n q f).slice = s.slice := rfl
@[simp] theorem modQp_sch (s : State) (n : PortIx) (q : Fin 64) (f : Qp → Qp) : (modQp s n q f).sch = s.sch := rfl
@[simp] theorem modQp_desc (s : State) (n : PortIx) (q : Fin 64) (f : Qp → Qp) : (modQp s n q f).desc = s.desc := rfl
@[simp] theorem modQp_dram (s : State) (n : PortIx) (q : Fin 64) (f : Qp → Qp) : (modQp s n q f).dram = s.dram := rfl
@[simp] theorem modQp_host (s : State) (n : PortIx) (q : Fin 64) (f : Qp → Qp) : (modQp s n q f).host = s.host := rfl
@[simp] theorem modQp_net_ports (s : State) (n : PortIx) (q : Fin 64) (f : Qp → Qp) : (modQp s n q f).net.ports = s.net.ports := rfl
@[simp] theorem modQp_net_keys (s : State) (n : PortIx) (q : Fin 64) (f : Qp → Qp) : (modQp s n q f).net.keys = s.net.keys := rfl
@[simp] theorem modQp_mir (s : State) (n : PortIx) (q : Fin 64) (f : Qp → Qp) : (modQp s n q f).mir = s.mir := rfl
@[simp] theorem modQp_plc (s : State) (n : PortIx) (q : Fin 64) (f : Qp → Qp) : (modQp s n q f).plc = s.plc := rfl
@[simp] theorem modQp_gov (s : State) (n : PortIx) (q : Fin 64) (f : Qp → Qp) : (modQp s n q f).gov = s.gov := rfl
@[simp] theorem modQp_sen (s : State) (n : PortIx) (q : Fin 64) (f : Qp → Qp) : (modQp s n q f).sen = s.sen := rfl
@[simp] theorem modQp_cal (s : State) (n : PortIx) (q : Fin 64) (f : Qp → Qp) : (modQp s n q f).cal = s.cal := rfl
@[simp] theorem modQp_rst (s : State) (n : PortIx) (q : Fin 64) (f : Qp → Qp) : (modQp s n q f).rst = s.rst := rfl
@[simp] theorem modQp_svc (s : State) (n : PortIx) (q : Fin 64) (f : Qp → Qp) : (modQp s n q f).svc = s.svc := rfl
@[simp] theorem modQp_dbg (s : State) (n : PortIx) (q : Fin 64) (f : Qp → Qp) : (modQp s n q f).dbg = s.dbg := rfl
@[simp] theorem modQp_out (s : State) (n : PortIx) (q : Fin 64) (f : Qp → Qp) : (modQp s n q f).out = s.out := rfl

/-! ### setTally -/

@[simp] theorem setTally_pending (s : State) (n : Nat) (x : Tally) : (setTally s n x).pending = s.pending := rfl
@[simp] theorem setTally_tick (s : State) (n : Nat) (x : Tally) : (setTally s n x).tick = s.tick := rfl
@[simp] theorem setTally_free (s : State) (n : Nat) (x : Tally) : (setTally s n x).free = s.free := rfl
@[simp] theorem setTally_mem (s : State) (n : Nat) (x : Tally) : (setTally s n x).mem = s.mem := rfl
@[simp] theorem setTally_log (s : State) (n : Nat) (x : Tally) : (setTally s n x).log = s.log := rfl
@[simp] theorem setTally_pans (s : State) (n : Nat) (x : Tally) : (setTally s n x).pans = s.pans := rfl
@[simp] theorem setTally_sync_gates (s : State) (n : Nat) (x : Tally) : (setTally s n x).sync.gates = s.sync.gates := rfl
@[simp] theorem setTally_sync_flight (s : State) (n : Nat) (x : Tally) : (setTally s n x).sync.flight = s.sync.flight := rfl
@[simp] theorem setTally_sync_arrived (s : State) (n : Nat) (x : Tally) : (setTally s n x).sync.arrived = s.sync.arrived := rfl
@[simp] theorem setTally_sync_panArrive (s : State) (n : Nat) (x : Tally) : (setTally s n x).sync.panArrive = s.sync.panArrive := rfl
@[simp] theorem setTally_sync_portArrive (s : State) (n : Nat) (x : Tally) : (setTally s n x).sync.portArrive = s.sync.portArrive := rfl
@[simp] theorem setTally_sync_waiters (s : State) (n : Nat) (x : Tally) : (setTally s n x).sync.waiters = s.sync.waiters := rfl
@[simp] theorem setTally_sync_coreWaits (s : State) (n : Nat) (x : Tally) : (setTally s n x).sync.coreWaits = s.sync.coreWaits := rfl
@[simp] theorem setTally_sync_gwaiters (s : State) (n : Nat) (x : Tally) : (setTally s n x).sync.gwaiters = s.sync.gwaiters := rfl
@[simp] theorem setTally_sync_entries (s : State) (n : Nat) (x : Tally) : (setTally s n x).sync.entries = s.sync.entries := rfl
@[simp] theorem setTally_sync_handBar0 (s : State) (n : Nat) (x : Tally) : (setTally s n x).sync.handBar0 = s.sync.handBar0 := rfl
@[simp] theorem setTally_sync_handTriyx (s : State) (n : Nat) (x : Tally) : (setTally s n x).sync.handTriyx = s.sync.handTriyx := rfl
@[simp] theorem setTally_sync_newPorts (s : State) (n : Nat) (x : Tally) : (setTally s n x).sync.newPorts = s.sync.newPorts := rfl
@[simp] theorem setTally_sync_snapReq (s : State) (n : Nat) (x : Tally) : (setTally s n x).sync.snapReq = s.sync.snapReq := rfl
@[simp] theorem setTally_sync_snapTaken (s : State) (n : Nat) (x : Tally) : (setTally s n x).sync.snapTaken = s.sync.snapTaken := rfl
@[simp] theorem setTally_sync_window (s : State) (n : Nat) (x : Tally) : (setTally s n x).sync.window = s.sync.window := rfl
@[simp] theorem setTally_sync_snaps (s : State) (n : Nat) (x : Tally) : (setTally s n x).sync.snaps = s.sync.snaps := rfl
@[simp] theorem setTally_sync_handDone (s : State) (n : Nat) (x : Tally) : (setTally s n x).sync.handDone = s.sync.handDone := rfl
@[simp] theorem setTally_sync_handReject (s : State) (n : Nat) (x : Tally) : (setTally s n x).sync.handReject = s.sync.handReject := rfl
@[simp] theorem setTally_ten (s : State) (n : Nat) (x : Tally) : (setTally s n x).ten = s.ten := rfl
@[simp] theorem setTally_slice (s : State) (n : Nat) (x : Tally) : (setTally s n x).slice = s.slice := rfl
@[simp] theorem setTally_sch (s : State) (n : Nat) (x : Tally) : (setTally s n x).sch = s.sch := rfl
@[simp] theorem setTally_desc (s : State) (n : Nat) (x : Tally) : (setTally s n x).desc = s.desc := rfl
@[simp] theorem setTally_dram (s : State) (n : Nat) (x : Tally) : (setTally s n x).dram = s.dram := rfl
@[simp] theorem setTally_host (s : State) (n : Nat) (x : Tally) : (setTally s n x).host = s.host := rfl
@[simp] theorem setTally_net (s : State) (n : Nat) (x : Tally) : (setTally s n x).net = s.net := rfl
@[simp] theorem setTally_mir (s : State) (n : Nat) (x : Tally) : (setTally s n x).mir = s.mir := rfl
@[simp] theorem setTally_plc (s : State) (n : Nat) (x : Tally) : (setTally s n x).plc = s.plc := rfl
@[simp] theorem setTally_gov (s : State) (n : Nat) (x : Tally) : (setTally s n x).gov = s.gov := rfl
@[simp] theorem setTally_sen (s : State) (n : Nat) (x : Tally) : (setTally s n x).sen = s.sen := rfl
@[simp] theorem setTally_cal (s : State) (n : Nat) (x : Tally) : (setTally s n x).cal = s.cal := rfl
@[simp] theorem setTally_rst (s : State) (n : Nat) (x : Tally) : (setTally s n x).rst = s.rst := rfl
@[simp] theorem setTally_svc (s : State) (n : Nat) (x : Tally) : (setTally s n x).svc = s.svc := rfl
@[simp] theorem setTally_dbg (s : State) (n : Nat) (x : Tally) : (setTally s n x).dbg = s.dbg := rfl
@[simp] theorem setTally_out (s : State) (n : Nat) (x : Tally) : (setTally s n x).out = s.out := rfl

/-! ### setGate -/

@[simp] theorem setGate_pending (s : State) (n : Nat) (x : GateSt) : (setGate s n x).pending = s.pending := rfl
@[simp] theorem setGate_tick (s : State) (n : Nat) (x : GateSt) : (setGate s n x).tick = s.tick := rfl
@[simp] theorem setGate_free (s : State) (n : Nat) (x : GateSt) : (setGate s n x).free = s.free := rfl
@[simp] theorem setGate_mem (s : State) (n : Nat) (x : GateSt) : (setGate s n x).mem = s.mem := rfl
@[simp] theorem setGate_log (s : State) (n : Nat) (x : GateSt) : (setGate s n x).log = s.log := rfl
@[simp] theorem setGate_pans (s : State) (n : Nat) (x : GateSt) : (setGate s n x).pans = s.pans := rfl
@[simp] theorem setGate_sync_tallies (s : State) (n : Nat) (x : GateSt) : (setGate s n x).sync.tallies = s.sync.tallies := rfl
@[simp] theorem setGate_sync_flight (s : State) (n : Nat) (x : GateSt) : (setGate s n x).sync.flight = s.sync.flight := rfl
@[simp] theorem setGate_sync_arrived (s : State) (n : Nat) (x : GateSt) : (setGate s n x).sync.arrived = s.sync.arrived := rfl
@[simp] theorem setGate_sync_panArrive (s : State) (n : Nat) (x : GateSt) : (setGate s n x).sync.panArrive = s.sync.panArrive := rfl
@[simp] theorem setGate_sync_portArrive (s : State) (n : Nat) (x : GateSt) : (setGate s n x).sync.portArrive = s.sync.portArrive := rfl
@[simp] theorem setGate_sync_waiters (s : State) (n : Nat) (x : GateSt) : (setGate s n x).sync.waiters = s.sync.waiters := rfl
@[simp] theorem setGate_sync_coreWaits (s : State) (n : Nat) (x : GateSt) : (setGate s n x).sync.coreWaits = s.sync.coreWaits := rfl
@[simp] theorem setGate_sync_gwaiters (s : State) (n : Nat) (x : GateSt) : (setGate s n x).sync.gwaiters = s.sync.gwaiters := rfl
@[simp] theorem setGate_sync_entries (s : State) (n : Nat) (x : GateSt) : (setGate s n x).sync.entries = s.sync.entries := rfl
@[simp] theorem setGate_sync_handBar0 (s : State) (n : Nat) (x : GateSt) : (setGate s n x).sync.handBar0 = s.sync.handBar0 := rfl
@[simp] theorem setGate_sync_handTriyx (s : State) (n : Nat) (x : GateSt) : (setGate s n x).sync.handTriyx = s.sync.handTriyx := rfl
@[simp] theorem setGate_sync_newPorts (s : State) (n : Nat) (x : GateSt) : (setGate s n x).sync.newPorts = s.sync.newPorts := rfl
@[simp] theorem setGate_sync_snapReq (s : State) (n : Nat) (x : GateSt) : (setGate s n x).sync.snapReq = s.sync.snapReq := rfl
@[simp] theorem setGate_sync_snapTaken (s : State) (n : Nat) (x : GateSt) : (setGate s n x).sync.snapTaken = s.sync.snapTaken := rfl
@[simp] theorem setGate_sync_window (s : State) (n : Nat) (x : GateSt) : (setGate s n x).sync.window = s.sync.window := rfl
@[simp] theorem setGate_sync_snaps (s : State) (n : Nat) (x : GateSt) : (setGate s n x).sync.snaps = s.sync.snaps := rfl
@[simp] theorem setGate_sync_handDone (s : State) (n : Nat) (x : GateSt) : (setGate s n x).sync.handDone = s.sync.handDone := rfl
@[simp] theorem setGate_sync_handReject (s : State) (n : Nat) (x : GateSt) : (setGate s n x).sync.handReject = s.sync.handReject := rfl
@[simp] theorem setGate_ten (s : State) (n : Nat) (x : GateSt) : (setGate s n x).ten = s.ten := rfl
@[simp] theorem setGate_slice (s : State) (n : Nat) (x : GateSt) : (setGate s n x).slice = s.slice := rfl
@[simp] theorem setGate_sch (s : State) (n : Nat) (x : GateSt) : (setGate s n x).sch = s.sch := rfl
@[simp] theorem setGate_desc (s : State) (n : Nat) (x : GateSt) : (setGate s n x).desc = s.desc := rfl
@[simp] theorem setGate_dram (s : State) (n : Nat) (x : GateSt) : (setGate s n x).dram = s.dram := rfl
@[simp] theorem setGate_host (s : State) (n : Nat) (x : GateSt) : (setGate s n x).host = s.host := rfl
@[simp] theorem setGate_net (s : State) (n : Nat) (x : GateSt) : (setGate s n x).net = s.net := rfl
@[simp] theorem setGate_mir (s : State) (n : Nat) (x : GateSt) : (setGate s n x).mir = s.mir := rfl
@[simp] theorem setGate_plc (s : State) (n : Nat) (x : GateSt) : (setGate s n x).plc = s.plc := rfl
@[simp] theorem setGate_gov (s : State) (n : Nat) (x : GateSt) : (setGate s n x).gov = s.gov := rfl
@[simp] theorem setGate_sen (s : State) (n : Nat) (x : GateSt) : (setGate s n x).sen = s.sen := rfl
@[simp] theorem setGate_cal (s : State) (n : Nat) (x : GateSt) : (setGate s n x).cal = s.cal := rfl
@[simp] theorem setGate_rst (s : State) (n : Nat) (x : GateSt) : (setGate s n x).rst = s.rst := rfl
@[simp] theorem setGate_svc (s : State) (n : Nat) (x : GateSt) : (setGate s n x).svc = s.svc := rfl
@[simp] theorem setGate_dbg (s : State) (n : Nat) (x : GateSt) : (setGate s n x).dbg = s.dbg := rfl
@[simp] theorem setGate_out (s : State) (n : Nat) (x : GateSt) : (setGate s n x).out = s.out := rfl

/-! ### modMir -/

@[simp] theorem modMir_pending (s : State) (f : MirSt → MirSt) : (modMir s f).pending = s.pending := rfl
@[simp] theorem modMir_tick (s : State) (f : MirSt → MirSt) : (modMir s f).tick = s.tick := rfl
@[simp] theorem modMir_free (s : State) (f : MirSt → MirSt) : (modMir s f).free = s.free := rfl
@[simp] theorem modMir_mem (s : State) (f : MirSt → MirSt) : (modMir s f).mem = s.mem := rfl
@[simp] theorem modMir_log (s : State) (f : MirSt → MirSt) : (modMir s f).log = s.log := rfl
@[simp] theorem modMir_pans (s : State) (f : MirSt → MirSt) : (modMir s f).pans = s.pans := rfl
@[simp] theorem modMir_sync (s : State) (f : MirSt → MirSt) : (modMir s f).sync = s.sync := rfl
@[simp] theorem modMir_ten (s : State) (f : MirSt → MirSt) : (modMir s f).ten = s.ten := rfl
@[simp] theorem modMir_slice (s : State) (f : MirSt → MirSt) : (modMir s f).slice = s.slice := rfl
@[simp] theorem modMir_sch (s : State) (f : MirSt → MirSt) : (modMir s f).sch = s.sch := rfl
@[simp] theorem modMir_desc (s : State) (f : MirSt → MirSt) : (modMir s f).desc = s.desc := rfl
@[simp] theorem modMir_dram (s : State) (f : MirSt → MirSt) : (modMir s f).dram = s.dram := rfl
@[simp] theorem modMir_host (s : State) (f : MirSt → MirSt) : (modMir s f).host = s.host := rfl
@[simp] theorem modMir_net (s : State) (f : MirSt → MirSt) : (modMir s f).net = s.net := rfl
@[simp] theorem modMir_plc (s : State) (f : MirSt → MirSt) : (modMir s f).plc = s.plc := rfl
@[simp] theorem modMir_gov (s : State) (f : MirSt → MirSt) : (modMir s f).gov = s.gov := rfl
@[simp] theorem modMir_sen (s : State) (f : MirSt → MirSt) : (modMir s f).sen = s.sen := rfl
@[simp] theorem modMir_cal (s : State) (f : MirSt → MirSt) : (modMir s f).cal = s.cal := rfl
@[simp] theorem modMir_rst (s : State) (f : MirSt → MirSt) : (modMir s f).rst = s.rst := rfl
@[simp] theorem modMir_svc (s : State) (f : MirSt → MirSt) : (modMir s f).svc = s.svc := rfl
@[simp] theorem modMir_dbg (s : State) (f : MirSt → MirSt) : (modMir s f).dbg = s.dbg := rfl
@[simp] theorem modMir_out (s : State) (f : MirSt → MirSt) : (modMir s f).out = s.out := rfl

/-! ### modRst -/

@[simp] theorem modRst_pending (s : State) (f : RstSt → RstSt) : (modRst s f).pending = s.pending := rfl
@[simp] theorem modRst_tick (s : State) (f : RstSt → RstSt) : (modRst s f).tick = s.tick := rfl
@[simp] theorem modRst_free (s : State) (f : RstSt → RstSt) : (modRst s f).free = s.free := rfl
@[simp] theorem modRst_mem (s : State) (f : RstSt → RstSt) : (modRst s f).mem = s.mem := rfl
@[simp] theorem modRst_log (s : State) (f : RstSt → RstSt) : (modRst s f).log = s.log := rfl
@[simp] theorem modRst_pans (s : State) (f : RstSt → RstSt) : (modRst s f).pans = s.pans := rfl
@[simp] theorem modRst_sync (s : State) (f : RstSt → RstSt) : (modRst s f).sync = s.sync := rfl
@[simp] theorem modRst_ten (s : State) (f : RstSt → RstSt) : (modRst s f).ten = s.ten := rfl
@[simp] theorem modRst_slice (s : State) (f : RstSt → RstSt) : (modRst s f).slice = s.slice := rfl
@[simp] theorem modRst_sch (s : State) (f : RstSt → RstSt) : (modRst s f).sch = s.sch := rfl
@[simp] theorem modRst_desc (s : State) (f : RstSt → RstSt) : (modRst s f).desc = s.desc := rfl
@[simp] theorem modRst_dram (s : State) (f : RstSt → RstSt) : (modRst s f).dram = s.dram := rfl
@[simp] theorem modRst_host (s : State) (f : RstSt → RstSt) : (modRst s f).host = s.host := rfl
@[simp] theorem modRst_net (s : State) (f : RstSt → RstSt) : (modRst s f).net = s.net := rfl
@[simp] theorem modRst_mir (s : State) (f : RstSt → RstSt) : (modRst s f).mir = s.mir := rfl
@[simp] theorem modRst_plc (s : State) (f : RstSt → RstSt) : (modRst s f).plc = s.plc := rfl
@[simp] theorem modRst_gov (s : State) (f : RstSt → RstSt) : (modRst s f).gov = s.gov := rfl
@[simp] theorem modRst_sen (s : State) (f : RstSt → RstSt) : (modRst s f).sen = s.sen := rfl
@[simp] theorem modRst_cal (s : State) (f : RstSt → RstSt) : (modRst s f).cal = s.cal := rfl
@[simp] theorem modRst_svc (s : State) (f : RstSt → RstSt) : (modRst s f).svc = s.svc := rfl
@[simp] theorem modRst_dbg (s : State) (f : RstSt → RstSt) : (modRst s f).dbg = s.dbg := rfl
@[simp] theorem modRst_out (s : State) (f : RstSt → RstSt) : (modRst s f).out = s.out := rfl

/-! ### modSvc -/

@[simp] theorem modSvc_pending (s : State) (f : SvcSt → SvcSt) : (modSvc s f).pending = s.pending := rfl
@[simp] theorem modSvc_tick (s : State) (f : SvcSt → SvcSt) : (modSvc s f).tick = s.tick := rfl
@[simp] theorem modSvc_free (s : State) (f : SvcSt → SvcSt) : (modSvc s f).free = s.free := rfl
@[simp] theorem modSvc_mem (s : State) (f : SvcSt → SvcSt) : (modSvc s f).mem = s.mem := rfl
@[simp] theorem modSvc_log (s : State) (f : SvcSt → SvcSt) : (modSvc s f).log = s.log := rfl
@[simp] theorem modSvc_pans (s : State) (f : SvcSt → SvcSt) : (modSvc s f).pans = s.pans := rfl
@[simp] theorem modSvc_sync (s : State) (f : SvcSt → SvcSt) : (modSvc s f).sync = s.sync := rfl
@[simp] theorem modSvc_ten (s : State) (f : SvcSt → SvcSt) : (modSvc s f).ten = s.ten := rfl
@[simp] theorem modSvc_slice (s : State) (f : SvcSt → SvcSt) : (modSvc s f).slice = s.slice := rfl
@[simp] theorem modSvc_sch (s : State) (f : SvcSt → SvcSt) : (modSvc s f).sch = s.sch := rfl
@[simp] theorem modSvc_desc (s : State) (f : SvcSt → SvcSt) : (modSvc s f).desc = s.desc := rfl
@[simp] theorem modSvc_dram (s : State) (f : SvcSt → SvcSt) : (modSvc s f).dram = s.dram := rfl
@[simp] theorem modSvc_host (s : State) (f : SvcSt → SvcSt) : (modSvc s f).host = s.host := rfl
@[simp] theorem modSvc_net (s : State) (f : SvcSt → SvcSt) : (modSvc s f).net = s.net := rfl
@[simp] theorem modSvc_mir (s : State) (f : SvcSt → SvcSt) : (modSvc s f).mir = s.mir := rfl
@[simp] theorem modSvc_plc (s : State) (f : SvcSt → SvcSt) : (modSvc s f).plc = s.plc := rfl
@[simp] theorem modSvc_gov (s : State) (f : SvcSt → SvcSt) : (modSvc s f).gov = s.gov := rfl
@[simp] theorem modSvc_sen (s : State) (f : SvcSt → SvcSt) : (modSvc s f).sen = s.sen := rfl
@[simp] theorem modSvc_cal (s : State) (f : SvcSt → SvcSt) : (modSvc s f).cal = s.cal := rfl
@[simp] theorem modSvc_rst (s : State) (f : SvcSt → SvcSt) : (modSvc s f).rst = s.rst := rfl
@[simp] theorem modSvc_dbg (s : State) (f : SvcSt → SvcSt) : (modSvc s f).dbg = s.dbg := rfl
@[simp] theorem modSvc_out (s : State) (f : SvcSt → SvcSt) : (modSvc s f).out = s.out := rfl

/-! ### setLog -/

@[simp] theorem setLog_pending (s : State) (l : LogSt) : (setLog s l).pending = s.pending := rfl
@[simp] theorem setLog_tick (s : State) (l : LogSt) : (setLog s l).tick = s.tick := rfl
@[simp] theorem setLog_free (s : State) (l : LogSt) : (setLog s l).free = s.free := rfl
@[simp] theorem setLog_mem (s : State) (l : LogSt) : (setLog s l).mem = s.mem := rfl
@[simp] theorem setLog_pans (s : State) (l : LogSt) : (setLog s l).pans = s.pans := rfl
@[simp] theorem setLog_sync (s : State) (l : LogSt) : (setLog s l).sync = s.sync := rfl
@[simp] theorem setLog_ten (s : State) (l : LogSt) : (setLog s l).ten = s.ten := rfl
@[simp] theorem setLog_slice (s : State) (l : LogSt) : (setLog s l).slice = s.slice := rfl
@[simp] theorem setLog_sch (s : State) (l : LogSt) : (setLog s l).sch = s.sch := rfl
@[simp] theorem setLog_desc (s : State) (l : LogSt) : (setLog s l).desc = s.desc := rfl
@[simp] theorem setLog_dram (s : State) (l : LogSt) : (setLog s l).dram = s.dram := rfl
@[simp] theorem setLog_host (s : State) (l : LogSt) : (setLog s l).host = s.host := rfl
@[simp] theorem setLog_net (s : State) (l : LogSt) : (setLog s l).net = s.net := rfl
@[simp] theorem setLog_mir (s : State) (l : LogSt) : (setLog s l).mir = s.mir := rfl
@[simp] theorem setLog_plc (s : State) (l : LogSt) : (setLog s l).plc = s.plc := rfl
@[simp] theorem setLog_gov (s : State) (l : LogSt) : (setLog s l).gov = s.gov := rfl
@[simp] theorem setLog_sen (s : State) (l : LogSt) : (setLog s l).sen = s.sen := rfl
@[simp] theorem setLog_cal (s : State) (l : LogSt) : (setLog s l).cal = s.cal := rfl
@[simp] theorem setLog_rst (s : State) (l : LogSt) : (setLog s l).rst = s.rst := rfl
@[simp] theorem setLog_svc (s : State) (l : LogSt) : (setLog s l).svc = s.svc := rfl
@[simp] theorem setLog_dbg (s : State) (l : LogSt) : (setLog s l).dbg = s.dbg := rfl
@[simp] theorem setLog_out (s : State) (l : LogSt) : (setLog s l).out = s.out := rfl

/-! ### emit -/

@[simp] theorem emit_pending (s : State) (o : List Out) : (emit s o).pending = s.pending := rfl
@[simp] theorem emit_tick (s : State) (o : List Out) : (emit s o).tick = s.tick := rfl
@[simp] theorem emit_free (s : State) (o : List Out) : (emit s o).free = s.free := rfl
@[simp] theorem emit_mem (s : State) (o : List Out) : (emit s o).mem = s.mem := rfl
@[simp] theorem emit_log (s : State) (o : List Out) : (emit s o).log = s.log := rfl
@[simp] theorem emit_pans (s : State) (o : List Out) : (emit s o).pans = s.pans := rfl
@[simp] theorem emit_sync (s : State) (o : List Out) : (emit s o).sync = s.sync := rfl
@[simp] theorem emit_ten (s : State) (o : List Out) : (emit s o).ten = s.ten := rfl
@[simp] theorem emit_slice (s : State) (o : List Out) : (emit s o).slice = s.slice := rfl
@[simp] theorem emit_sch (s : State) (o : List Out) : (emit s o).sch = s.sch := rfl
@[simp] theorem emit_desc (s : State) (o : List Out) : (emit s o).desc = s.desc := rfl
@[simp] theorem emit_dram (s : State) (o : List Out) : (emit s o).dram = s.dram := rfl
@[simp] theorem emit_host (s : State) (o : List Out) : (emit s o).host = s.host := rfl
@[simp] theorem emit_net (s : State) (o : List Out) : (emit s o).net = s.net := rfl
@[simp] theorem emit_mir (s : State) (o : List Out) : (emit s o).mir = s.mir := rfl
@[simp] theorem emit_plc (s : State) (o : List Out) : (emit s o).plc = s.plc := rfl
@[simp] theorem emit_gov (s : State) (o : List Out) : (emit s o).gov = s.gov := rfl
@[simp] theorem emit_sen (s : State) (o : List Out) : (emit s o).sen = s.sen := rfl
@[simp] theorem emit_cal (s : State) (o : List Out) : (emit s o).cal = s.cal := rfl
@[simp] theorem emit_rst (s : State) (o : List Out) : (emit s o).rst = s.rst := rfl
@[simp] theorem emit_svc (s : State) (o : List Out) : (emit s o).svc = s.svc := rfl
@[simp] theorem emit_dbg (s : State) (o : List Out) : (emit s o).dbg = s.dbg := rfl

/-! ### usedFree -/

@[simp] theorem usedFree_pending (s : State) (n : Nat) : (usedFree s n).pending = s.pending := rfl
@[simp] theorem usedFree_tick (s : State) (n : Nat) : (usedFree s n).tick = s.tick := rfl
@[simp] theorem usedFree_mem (s : State) (n : Nat) : (usedFree s n).mem = s.mem := rfl
@[simp] theorem usedFree_log (s : State) (n : Nat) : (usedFree s n).log = s.log := rfl
@[simp] theorem usedFree_pans (s : State) (n : Nat) : (usedFree s n).pans = s.pans := rfl
@[simp] theorem usedFree_sync (s : State) (n : Nat) : (usedFree s n).sync = s.sync := rfl
@[simp] theorem usedFree_ten (s : State) (n : Nat) : (usedFree s n).ten = s.ten := rfl
@[simp] theorem usedFree_slice (s : State) (n : Nat) : (usedFree s n).slice = s.slice := rfl
@[simp] theorem usedFree_sch (s : State) (n : Nat) : (usedFree s n).sch = s.sch := rfl
@[simp] theorem usedFree_desc (s : State) (n : Nat) : (usedFree s n).desc = s.desc := rfl
@[simp] theorem usedFree_dram (s : State) (n : Nat) : (usedFree s n).dram = s.dram := rfl
@[simp] theorem usedFree_host (s : State) (n : Nat) : (usedFree s n).host = s.host := rfl
@[simp] theorem usedFree_net (s : State) (n : Nat) : (usedFree s n).net = s.net := rfl
@[simp] theorem usedFree_mir (s : State) (n : Nat) : (usedFree s n).mir = s.mir := rfl
@[simp] theorem usedFree_plc (s : State) (n : Nat) : (usedFree s n).plc = s.plc := rfl
@[simp] theorem usedFree_gov (s : State) (n : Nat) : (usedFree s n).gov = s.gov := rfl
@[simp] theorem usedFree_sen (s : State) (n : Nat) : (usedFree s n).sen = s.sen := rfl
@[simp] theorem usedFree_cal (s : State) (n : Nat) : (usedFree s n).cal = s.cal := rfl
@[simp] theorem usedFree_rst (s : State) (n : Nat) : (usedFree s n).rst = s.rst := rfl
@[simp] theorem usedFree_svc (s : State) (n : Nat) : (usedFree s n).svc = s.svc := rfl
@[simp] theorem usedFree_dbg (s : State) (n : Nat) : (usedFree s n).dbg = s.dbg := rfl
@[simp] theorem usedFree_out (s : State) (n : Nat) : (usedFree s n).out = s.out := rfl

/-! ### writeWord -/

@[simp] theorem writeWord_pending (s : State) (k : Nat) (d : Dword) : (writeWord s k d).pending = s.pending := rfl
@[simp] theorem writeWord_tick (s : State) (k : Nat) (d : Dword) : (writeWord s k d).tick = s.tick := rfl
@[simp] theorem writeWord_free (s : State) (k : Nat) (d : Dword) : (writeWord s k d).free = s.free := rfl
@[simp] theorem writeWord_log (s : State) (k : Nat) (d : Dword) : (writeWord s k d).log = s.log := rfl
@[simp] theorem writeWord_pans (s : State) (k : Nat) (d : Dword) : (writeWord s k d).pans = s.pans := rfl
@[simp] theorem writeWord_sync (s : State) (k : Nat) (d : Dword) : (writeWord s k d).sync = s.sync := rfl
@[simp] theorem writeWord_ten (s : State) (k : Nat) (d : Dword) : (writeWord s k d).ten = s.ten := rfl
@[simp] theorem writeWord_slice (s : State) (k : Nat) (d : Dword) : (writeWord s k d).slice = s.slice := rfl
@[simp] theorem writeWord_sch (s : State) (k : Nat) (d : Dword) : (writeWord s k d).sch = s.sch := rfl
@[simp] theorem writeWord_desc (s : State) (k : Nat) (d : Dword) : (writeWord s k d).desc = s.desc := rfl
@[simp] theorem writeWord_dram (s : State) (k : Nat) (d : Dword) : (writeWord s k d).dram = s.dram := rfl
@[simp] theorem writeWord_host (s : State) (k : Nat) (d : Dword) : (writeWord s k d).host = s.host := rfl
@[simp] theorem writeWord_net (s : State) (k : Nat) (d : Dword) : (writeWord s k d).net = s.net := rfl
@[simp] theorem writeWord_mir (s : State) (k : Nat) (d : Dword) : (writeWord s k d).mir = s.mir := rfl
@[simp] theorem writeWord_plc (s : State) (k : Nat) (d : Dword) : (writeWord s k d).plc = s.plc := rfl
@[simp] theorem writeWord_gov (s : State) (k : Nat) (d : Dword) : (writeWord s k d).gov = s.gov := rfl
@[simp] theorem writeWord_sen (s : State) (k : Nat) (d : Dword) : (writeWord s k d).sen = s.sen := rfl
@[simp] theorem writeWord_cal (s : State) (k : Nat) (d : Dword) : (writeWord s k d).cal = s.cal := rfl
@[simp] theorem writeWord_rst (s : State) (k : Nat) (d : Dword) : (writeWord s k d).rst = s.rst := rfl
@[simp] theorem writeWord_svc (s : State) (k : Nat) (d : Dword) : (writeWord s k d).svc = s.svc := rfl
@[simp] theorem writeWord_dbg (s : State) (k : Nat) (d : Dword) : (writeWord s k d).dbg = s.dbg := rfl
@[simp] theorem writeWord_out (s : State) (k : Nat) (d : Dword) : (writeWord s k d).out = s.out := rfl

/-! ### writeWords -/

@[simp] theorem writeWords_pending (s : State) (k : Nat) (ds : List Dword) : (writeWords s k ds).pending = s.pending := rfl
@[simp] theorem writeWords_tick (s : State) (k : Nat) (ds : List Dword) : (writeWords s k ds).tick = s.tick := rfl
@[simp] theorem writeWords_free (s : State) (k : Nat) (ds : List Dword) : (writeWords s k ds).free = s.free := rfl
@[simp] theorem writeWords_log (s : State) (k : Nat) (ds : List Dword) : (writeWords s k ds).log = s.log := rfl
@[simp] theorem writeWords_pans (s : State) (k : Nat) (ds : List Dword) : (writeWords s k ds).pans = s.pans := rfl
@[simp] theorem writeWords_sync (s : State) (k : Nat) (ds : List Dword) : (writeWords s k ds).sync = s.sync := rfl
@[simp] theorem writeWords_ten (s : State) (k : Nat) (ds : List Dword) : (writeWords s k ds).ten = s.ten := rfl
@[simp] theorem writeWords_slice (s : State) (k : Nat) (ds : List Dword) : (writeWords s k ds).slice = s.slice := rfl
@[simp] theorem writeWords_sch (s : State) (k : Nat) (ds : List Dword) : (writeWords s k ds).sch = s.sch := rfl
@[simp] theorem writeWords_desc (s : State) (k : Nat) (ds : List Dword) : (writeWords s k ds).desc = s.desc := rfl
@[simp] theorem writeWords_dram (s : State) (k : Nat) (ds : List Dword) : (writeWords s k ds).dram = s.dram := rfl
@[simp] theorem writeWords_host (s : State) (k : Nat) (ds : List Dword) : (writeWords s k ds).host = s.host := rfl
@[simp] theorem writeWords_net (s : State) (k : Nat) (ds : List Dword) : (writeWords s k ds).net = s.net := rfl
@[simp] theorem writeWords_mir (s : State) (k : Nat) (ds : List Dword) : (writeWords s k ds).mir = s.mir := rfl
@[simp] theorem writeWords_plc (s : State) (k : Nat) (ds : List Dword) : (writeWords s k ds).plc = s.plc := rfl
@[simp] theorem writeWords_gov (s : State) (k : Nat) (ds : List Dword) : (writeWords s k ds).gov = s.gov := rfl
@[simp] theorem writeWords_sen (s : State) (k : Nat) (ds : List Dword) : (writeWords s k ds).sen = s.sen := rfl
@[simp] theorem writeWords_cal (s : State) (k : Nat) (ds : List Dword) : (writeWords s k ds).cal = s.cal := rfl
@[simp] theorem writeWords_rst (s : State) (k : Nat) (ds : List Dword) : (writeWords s k ds).rst = s.rst := rfl
@[simp] theorem writeWords_svc (s : State) (k : Nat) (ds : List Dword) : (writeWords s k ds).svc = s.svc := rfl
@[simp] theorem writeWords_dbg (s : State) (k : Nat) (ds : List Dword) : (writeWords s k ds).dbg = s.dbg := rfl
@[simp] theorem writeWords_out (s : State) (k : Nat) (ds : List Dword) : (writeWords s k ds).out = s.out := rfl

/-! ### sendMsix -/

@[simp] theorem sendMsix_pending (s : State) (v : Fin 32) : (sendMsix s v).pending = s.pending := rfl
@[simp] theorem sendMsix_tick (s : State) (v : Fin 32) : (sendMsix s v).tick = s.tick := rfl
@[simp] theorem sendMsix_free (s : State) (v : Fin 32) : (sendMsix s v).free = s.free := rfl
@[simp] theorem sendMsix_mem (s : State) (v : Fin 32) : (sendMsix s v).mem = s.mem := rfl
@[simp] theorem sendMsix_log (s : State) (v : Fin 32) : (sendMsix s v).log = s.log := rfl
@[simp] theorem sendMsix_pans (s : State) (v : Fin 32) : (sendMsix s v).pans = s.pans := rfl
@[simp] theorem sendMsix_sync (s : State) (v : Fin 32) : (sendMsix s v).sync = s.sync := rfl
@[simp] theorem sendMsix_ten (s : State) (v : Fin 32) : (sendMsix s v).ten = s.ten := rfl
@[simp] theorem sendMsix_slice (s : State) (v : Fin 32) : (sendMsix s v).slice = s.slice := rfl
@[simp] theorem sendMsix_sch (s : State) (v : Fin 32) : (sendMsix s v).sch = s.sch := rfl
@[simp] theorem sendMsix_desc (s : State) (v : Fin 32) : (sendMsix s v).desc = s.desc := rfl
@[simp] theorem sendMsix_dram (s : State) (v : Fin 32) : (sendMsix s v).dram = s.dram := rfl
@[simp] theorem sendMsix_host_linkUp (s : State) (v : Fin 32) : (sendMsix s v).host.linkUp = s.host.linkUp := rfl
@[simp] theorem sendMsix_host_width (s : State) (v : Fin 32) : (sendMsix s v).host.width = s.host.width := rfl
@[simp] theorem sendMsix_host_speed (s : State) (v : Fin 32) : (sendMsix s v).host.speed = s.host.speed := rfl
@[simp] theorem sendMsix_host_flit (s : State) (v : Fin 32) : (sendMsix s v).host.flit = s.host.flit := rfl
@[simp] theorem sendMsix_host_cache (s : State) (v : Fin 32) : (sendMsix s v).host.cache = s.host.cache := rfl
@[simp] theorem sendMsix_host_retrains (s : State) (v : Fin 32) : (sendMsix s v).host.retrains = s.host.retrains := rfl
@[simp] theorem sendMsix_host_downs (s : State) (v : Fin 32) : (sendMsix s v).host.downs = s.host.downs := rfl
@[simp] theorem sendMsix_host_seqLost (s : State) (v : Fin 32) : (sendMsix s v).host.seqLost = s.host.seqLost := rfl
@[simp] theorem sendMsix_host_storeHi (s : State) (v : Fin 32) : (sendMsix s v).host.storeHi = s.host.storeHi := rfl
@[simp] theorem sendMsix_host_attach (s : State) (v : Fin 32) : (sendMsix s v).host.attach = s.host.attach := rfl
@[simp] theorem sendMsix_host_attachPend (s : State) (v : Fin 32) : (sendMsix s v).host.attachPend = s.host.attachPend := rfl
@[simp] theorem sendMsix_host_crash (s : State) (v : Fin 32) : (sendMsix s v).host.crash = s.host.crash := rfl
@[simp] theorem sendMsix_host_perstSys (s : State) (v : Fin 32) : (sendMsix s v).host.perstSys = s.host.perstSys := rfl
@[simp] theorem sendMsix_host_bar2Rd (s : State) (v : Fin 32) : (sendMsix s v).host.bar2Rd = s.host.bar2Rd := rfl
@[simp] theorem sendMsix_host_bar0Drop (s : State) (v : Fin 32) : (sendMsix s v).host.bar0Drop = s.host.bar0Drop := rfl
@[simp] theorem sendMsix_host_compat (s : State) (v : Fin 32) : (sendMsix s v).host.compat = s.host.compat := rfl
@[simp] theorem sendMsix_host_respq (s : State) (v : Fin 32) : (sendMsix s v).host.respq = s.host.respq := rfl
@[simp] theorem sendMsix_host_respWait (s : State) (v : Fin 32) : (sendMsix s v).host.respWait = s.host.respWait := rfl
@[simp] theorem sendMsix_host_evq (s : State) (v : Fin 32) : (sendMsix s v).host.evq = s.host.evq := rfl
@[simp] theorem sendMsix_host_mbxq (s : State) (v : Fin 32) : (sendMsix s v).host.mbxq = s.host.mbxq := rfl
@[simp] theorem sendMsix_host_queues (s : State) (v : Fin 32) : (sendMsix s v).host.queues = s.host.queues := rfl
@[simp] theorem sendMsix_host_qerr (s : State) (v : Fin 32) : (sendMsix s v).host.qerr = s.host.qerr := rfl
@[simp] theorem sendMsix_host_slots (s : State) (v : Fin 32) : (sendMsix s v).host.slots = s.host.slots := rfl
@[simp] theorem sendMsix_host_accepted (s : State) (v : Fin 32) : (sendMsix s v).host.accepted = s.host.accepted := rfl
@[simp] theorem sendMsix_host_pend (s : State) (v : Fin 32) : (sendMsix s v).host.pend = s.host.pend := rfl
@[simp] theorem sendMsix_host_hnext (s : State) (v : Fin 32) : (sendMsix s v).host.hnext = s.host.hnext := rfl
@[simp] theorem sendMsix_host_dnext (s : State) (v : Fin 32) : (sendMsix s v).host.dnext = s.host.dnext := rfl
@[simp] theorem sendMsix_host_journal (s : State) (v : Fin 32) : (sendMsix s v).host.journal = s.host.journal := rfl
@[simp] theorem sendMsix_host_lanes (s : State) (v : Fin 32) : (sendMsix s v).host.lanes = s.host.lanes := rfl
@[simp] theorem sendMsix_host_rings (s : State) (v : Fin 32) : (sendMsix s v).host.rings = s.host.rings := rfl
@[simp] theorem sendMsix_host_storeStalls (s : State) (v : Fin 32) : (sendMsix s v).host.storeStalls = s.host.storeStalls := rfl
@[simp] theorem sendMsix_host_regions (s : State) (v : Fin 32) : (sendMsix s v).host.regions = s.host.regions := rfl
@[simp] theorem sendMsix_host_msix (s : State) (v : Fin 32) : (sendMsix s v).host.msix = s.host.msix := rfl
@[simp] theorem sendMsix_net (s : State) (v : Fin 32) : (sendMsix s v).net = s.net := rfl
@[simp] theorem sendMsix_mir (s : State) (v : Fin 32) : (sendMsix s v).mir = s.mir := rfl
@[simp] theorem sendMsix_plc (s : State) (v : Fin 32) : (sendMsix s v).plc = s.plc := rfl
@[simp] theorem sendMsix_gov (s : State) (v : Fin 32) : (sendMsix s v).gov = s.gov := rfl
@[simp] theorem sendMsix_sen (s : State) (v : Fin 32) : (sendMsix s v).sen = s.sen := rfl
@[simp] theorem sendMsix_cal (s : State) (v : Fin 32) : (sendMsix s v).cal = s.cal := rfl
@[simp] theorem sendMsix_rst (s : State) (v : Fin 32) : (sendMsix s v).rst = s.rst := rfl
@[simp] theorem sendMsix_svc (s : State) (v : Fin 32) : (sendMsix s v).svc = s.svc := rfl
@[simp] theorem sendMsix_dbg (s : State) (v : Fin 32) : (sendMsix s v).dbg = s.dbg := rfl

/-! ### logEvent -/

@[simp] theorem logEvent_pending (s : State) (code : Byte) (d : List Byte) (t : Option TenIx) : (logEvent s code d t).pending = s.pending := rfl
@[simp] theorem logEvent_tick (s : State) (code : Byte) (d : List Byte) (t : Option TenIx) : (logEvent s code d t).tick = s.tick := rfl
@[simp] theorem logEvent_free (s : State) (code : Byte) (d : List Byte) (t : Option TenIx) : (logEvent s code d t).free = s.free := rfl
@[simp] theorem logEvent_mem (s : State) (code : Byte) (d : List Byte) (t : Option TenIx) : (logEvent s code d t).mem = s.mem := rfl
@[simp] theorem logEvent_log_errors (s : State) (code : Byte) (d : List Byte) (t : Option TenIx) : (logEvent s code d t).log.errors = s.log.errors := by simp only [logEvent]; split <;> rfl
@[simp] theorem logEvent_log_erHead (s : State) (code : Byte) (d : List Byte) (t : Option TenIx) : (logEvent s code d t).log.erHead = s.log.erHead := by simp only [logEvent]; split <;> rfl
@[simp] theorem logEvent_log_erCount (s : State) (code : Byte) (d : List Byte) (t : Option TenIx) : (logEvent s code d t).log.erCount = s.log.erCount := by simp only [logEvent]; split <;> rfl
@[simp] theorem logEvent_log_erOvf (s : State) (code : Byte) (d : List Byte) (t : Option TenIx) : (logEvent s code d t).log.erOvf = s.log.erOvf := by simp only [logEvent]; split <;> rfl
@[simp] theorem logEvent_log_stPond (s : State) (code : Byte) (d : List Byte) (t : Option TenIx) : (logEvent s code d t).log.stPond = s.log.stPond := by simp only [logEvent]; split <;> rfl
@[simp] theorem logEvent_log_stSram (s : State) (code : Byte) (d : List Byte) (t : Option TenIx) : (logEvent s code d t).log.stSram = s.log.stSram := by simp only [logEvent]; split <;> rfl
@[simp] theorem logEvent_log_sparesFilled (s : State) (code : Byte) (d : List Byte) (t : Option TenIx) : (logEvent s code d t).log.sparesFilled = s.log.sparesFilled := by simp only [logEvent]; split <;> rfl
@[simp] theorem logEvent_log_dramFilled (s : State) (code : Byte) (d : List Byte) (t : Option TenIx) : (logEvent s code d t).log.dramFilled = s.log.dramFilled := by simp only [logEvent]; split <;> rfl
@[simp] theorem logEvent_log_sramFilled (s : State) (code : Byte) (d : List Byte) (t : Option TenIx) : (logEvent s code d t).log.sramFilled = s.log.sramFilled := by simp only [logEvent]; split <;> rfl
@[simp] theorem logEvent_log_stDone (s : State) (code : Byte) (d : List Byte) (t : Option TenIx) : (logEvent s code d t).log.stDone = s.log.stDone := by simp only [logEvent]; split <;> rfl
@[simp] theorem logEvent_log_ceDram (s : State) (code : Byte) (d : List Byte) (t : Option TenIx) : (logEvent s code d t).log.ceDram = s.log.ceDram := by simp only [logEvent]; split <;> rfl
@[simp] theorem logEvent_log_ceSram (s : State) (code : Byte) (d : List Byte) (t : Option TenIx) : (logEvent s code d t).log.ceSram = s.log.ceSram := by simp only [logEvent]; split <;> rfl
@[simp] theorem logEvent_log_ueDram (s : State) (code : Byte) (d : List Byte) (t : Option TenIx) : (logEvent s code d t).log.ueDram = s.log.ueDram := by simp only [logEvent]; split <;> rfl
@[simp] theorem logEvent_log_ueSram (s : State) (code : Byte) (d : List Byte) (t : Option TenIx) : (logEvent s code d t).log.ueSram = s.log.ueSram := by simp only [logEvent]; split <;> rfl
@[simp] theorem logEvent_log_rakePeriod (s : State) (code : Byte) (d : List Byte) (t : Option TenIx) : (logEvent s code d t).log.rakePeriod = s.log.rakePeriod := by simp only [logEvent]; split <;> rfl
@[simp] theorem logEvent_log_rakeSweep (s : State) (code : Byte) (d : List Byte) (t : Option TenIx) : (logEvent s code d t).log.rakeSweep = s.log.rakeSweep := by simp only [logEvent]; split <;> rfl
@[simp] theorem logEvent_log_rakeEn (s : State) (code : Byte) (d : List Byte) (t : Option TenIx) : (logEvent s code d t).log.rakeEn = s.log.rakeEn := by simp only [logEvent]; split <;> rfl
@[simp] theorem logEvent_log_rakePending (s : State) (code : Byte) (d : List Byte) (t : Option TenIx) : (logEvent s code d t).log.rakePending = s.log.rakePending := by simp only [logEvent]; split <;> rfl
@[simp] theorem logEvent_log_rakeFixed (s : State) (code : Byte) (d : List Byte) (t : Option TenIx) : (logEvent s code d t).log.rakeFixed = s.log.rakeFixed := by simp only [logEvent]; split <;> rfl
@[simp] theorem logEvent_log_rakeSweeps (s : State) (code : Byte) (d : List Byte) (t : Option TenIx) : (logEvent s code d t).log.rakeSweeps = s.log.rakeSweeps := by simp only [logEvent]; split <;> rfl
@[simp] theorem logEvent_log_rakeSkip (s : State) (code : Byte) (d : List Byte) (t : Option TenIx) : (logEvent s code d t).log.rakeSkip = s.log.rakeSkip := by simp only [logEvent]; split <;> rfl
@[simp] theorem logEvent_log_rakeList (s : State) (code : Byte) (d : List Byte) (t : Option TenIx) : (logEvent s code d t).log.rakeList = s.log.rakeList := by simp only [logEvent]; split <;> rfl
@[simp] theorem logEvent_log_injD (s : State) (code : Byte) (d : List Byte) (t : Option TenIx) : (logEvent s code d t).log.injD = s.log.injD := by simp only [logEvent]; split <;> rfl
@[simp] theorem logEvent_log_injC (s : State) (code : Byte) (d : List Byte) (t : Option TenIx) : (logEvent s code d t).log.injC = s.log.injC := by simp only [logEvent]; split <;> rfl
@[simp] theorem logEvent_log_injArm (s : State) (code : Byte) (d : List Byte) (t : Option TenIx) : (logEvent s code d t).log.injArm = s.log.injArm := by simp only [logEvent]; split <;> rfl
@[simp] theorem logEvent_log_injMem (s : State) (code : Byte) (d : List Byte) (t : Option TenIx) : (logEvent s code d t).log.injMem = s.log.injMem := by simp only [logEvent]; split <;> rfl
@[simp] theorem logEvent_log_injUnit (s : State) (code : Byte) (d : List Byte) (t : Option TenIx) : (logEvent s code d t).log.injUnit = s.log.injUnit := by simp only [logEvent]; split <;> rfl
@[simp] theorem logEvent_log_injBank (s : State) (code : Byte) (d : List Byte) (t : Option TenIx) : (logEvent s code d t).log.injBank = s.log.injBank := by simp only [logEvent]; split <;> rfl
@[simp] theorem logEvent_pans (s : State) (code : Byte) (d : List Byte) (t : Option TenIx) : (logEvent s code d t).pans = s.pans := rfl
@[simp] theorem logEvent_sync (s : State) (code : Byte) (d : List Byte) (t : Option TenIx) : (logEvent s code d t).sync = s.sync := rfl
@[simp] theorem logEvent_ten (s : State) (code : Byte) (d : List Byte) (t : Option TenIx) : (logEvent s code d t).ten = s.ten := rfl
@[simp] theorem logEvent_slice (s : State) (code : Byte) (d : List Byte) (t : Option TenIx) : (logEvent s code d t).slice = s.slice := rfl
@[simp] theorem logEvent_sch (s : State) (code : Byte) (d : List Byte) (t : Option TenIx) : (logEvent s code d t).sch = s.sch := rfl
@[simp] theorem logEvent_desc (s : State) (code : Byte) (d : List Byte) (t : Option TenIx) : (logEvent s code d t).desc = s.desc := rfl
@[simp] theorem logEvent_dram (s : State) (code : Byte) (d : List Byte) (t : Option TenIx) : (logEvent s code d t).dram = s.dram := rfl
@[simp] theorem logEvent_host_linkUp (s : State) (code : Byte) (d : List Byte) (t : Option TenIx) : (logEvent s code d t).host.linkUp = s.host.linkUp := rfl
@[simp] theorem logEvent_host_width (s : State) (code : Byte) (d : List Byte) (t : Option TenIx) : (logEvent s code d t).host.width = s.host.width := rfl
@[simp] theorem logEvent_host_speed (s : State) (code : Byte) (d : List Byte) (t : Option TenIx) : (logEvent s code d t).host.speed = s.host.speed := rfl
@[simp] theorem logEvent_host_flit (s : State) (code : Byte) (d : List Byte) (t : Option TenIx) : (logEvent s code d t).host.flit = s.host.flit := rfl
@[simp] theorem logEvent_host_cache (s : State) (code : Byte) (d : List Byte) (t : Option TenIx) : (logEvent s code d t).host.cache = s.host.cache := rfl
@[simp] theorem logEvent_host_retrains (s : State) (code : Byte) (d : List Byte) (t : Option TenIx) : (logEvent s code d t).host.retrains = s.host.retrains := rfl
@[simp] theorem logEvent_host_downs (s : State) (code : Byte) (d : List Byte) (t : Option TenIx) : (logEvent s code d t).host.downs = s.host.downs := rfl
@[simp] theorem logEvent_host_seqLost (s : State) (code : Byte) (d : List Byte) (t : Option TenIx) : (logEvent s code d t).host.seqLost = s.host.seqLost := rfl
@[simp] theorem logEvent_host_storeHi (s : State) (code : Byte) (d : List Byte) (t : Option TenIx) : (logEvent s code d t).host.storeHi = s.host.storeHi := rfl
@[simp] theorem logEvent_host_attach (s : State) (code : Byte) (d : List Byte) (t : Option TenIx) : (logEvent s code d t).host.attach = s.host.attach := rfl
@[simp] theorem logEvent_host_attachPend (s : State) (code : Byte) (d : List Byte) (t : Option TenIx) : (logEvent s code d t).host.attachPend = s.host.attachPend := rfl
@[simp] theorem logEvent_host_crash (s : State) (code : Byte) (d : List Byte) (t : Option TenIx) : (logEvent s code d t).host.crash = s.host.crash := rfl
@[simp] theorem logEvent_host_perstSys (s : State) (code : Byte) (d : List Byte) (t : Option TenIx) : (logEvent s code d t).host.perstSys = s.host.perstSys := rfl
@[simp] theorem logEvent_host_bar2Rd (s : State) (code : Byte) (d : List Byte) (t : Option TenIx) : (logEvent s code d t).host.bar2Rd = s.host.bar2Rd := rfl
@[simp] theorem logEvent_host_bar0Drop (s : State) (code : Byte) (d : List Byte) (t : Option TenIx) : (logEvent s code d t).host.bar0Drop = s.host.bar0Drop := rfl
@[simp] theorem logEvent_host_compat (s : State) (code : Byte) (d : List Byte) (t : Option TenIx) : (logEvent s code d t).host.compat = s.host.compat := rfl
@[simp] theorem logEvent_host_respq (s : State) (code : Byte) (d : List Byte) (t : Option TenIx) : (logEvent s code d t).host.respq = s.host.respq := rfl
@[simp] theorem logEvent_host_respWait (s : State) (code : Byte) (d : List Byte) (t : Option TenIx) : (logEvent s code d t).host.respWait = s.host.respWait := rfl
@[simp] theorem logEvent_host_mbxq (s : State) (code : Byte) (d : List Byte) (t : Option TenIx) : (logEvent s code d t).host.mbxq = s.host.mbxq := rfl
@[simp] theorem logEvent_host_queues (s : State) (code : Byte) (d : List Byte) (t : Option TenIx) : (logEvent s code d t).host.queues = s.host.queues := rfl
@[simp] theorem logEvent_host_slots (s : State) (code : Byte) (d : List Byte) (t : Option TenIx) : (logEvent s code d t).host.slots = s.host.slots := rfl
@[simp] theorem logEvent_host_accepted (s : State) (code : Byte) (d : List Byte) (t : Option TenIx) : (logEvent s code d t).host.accepted = s.host.accepted := rfl
@[simp] theorem logEvent_host_pend (s : State) (code : Byte) (d : List Byte) (t : Option TenIx) : (logEvent s code d t).host.pend = s.host.pend := rfl
@[simp] theorem logEvent_host_hnext (s : State) (code : Byte) (d : List Byte) (t : Option TenIx) : (logEvent s code d t).host.hnext = s.host.hnext := rfl
@[simp] theorem logEvent_host_dnext (s : State) (code : Byte) (d : List Byte) (t : Option TenIx) : (logEvent s code d t).host.dnext = s.host.dnext := rfl
@[simp] theorem logEvent_host_journal (s : State) (code : Byte) (d : List Byte) (t : Option TenIx) : (logEvent s code d t).host.journal = s.host.journal := rfl
@[simp] theorem logEvent_host_lanes (s : State) (code : Byte) (d : List Byte) (t : Option TenIx) : (logEvent s code d t).host.lanes = s.host.lanes := rfl
@[simp] theorem logEvent_host_rings (s : State) (code : Byte) (d : List Byte) (t : Option TenIx) : (logEvent s code d t).host.rings = s.host.rings := rfl
@[simp] theorem logEvent_host_storeStalls (s : State) (code : Byte) (d : List Byte) (t : Option TenIx) : (logEvent s code d t).host.storeStalls = s.host.storeStalls := rfl
@[simp] theorem logEvent_host_regions (s : State) (code : Byte) (d : List Byte) (t : Option TenIx) : (logEvent s code d t).host.regions = s.host.regions := rfl
@[simp] theorem logEvent_host_msix (s : State) (code : Byte) (d : List Byte) (t : Option TenIx) : (logEvent s code d t).host.msix = s.host.msix := rfl
@[simp] theorem logEvent_net (s : State) (code : Byte) (d : List Byte) (t : Option TenIx) : (logEvent s code d t).net = s.net := rfl
@[simp] theorem logEvent_mir (s : State) (code : Byte) (d : List Byte) (t : Option TenIx) : (logEvent s code d t).mir = s.mir := rfl
@[simp] theorem logEvent_plc (s : State) (code : Byte) (d : List Byte) (t : Option TenIx) : (logEvent s code d t).plc = s.plc := rfl
@[simp] theorem logEvent_gov (s : State) (code : Byte) (d : List Byte) (t : Option TenIx) : (logEvent s code d t).gov = s.gov := rfl
@[simp] theorem logEvent_sen (s : State) (code : Byte) (d : List Byte) (t : Option TenIx) : (logEvent s code d t).sen = s.sen := rfl
@[simp] theorem logEvent_cal (s : State) (code : Byte) (d : List Byte) (t : Option TenIx) : (logEvent s code d t).cal = s.cal := rfl
@[simp] theorem logEvent_rst (s : State) (code : Byte) (d : List Byte) (t : Option TenIx) : (logEvent s code d t).rst = s.rst := rfl
@[simp] theorem logEvent_svc (s : State) (code : Byte) (d : List Byte) (t : Option TenIx) : (logEvent s code d t).svc = s.svc := rfl
@[simp] theorem logEvent_dbg (s : State) (code : Byte) (d : List Byte) (t : Option TenIx) : (logEvent s code d t).dbg = s.dbg := rfl

/-! ### modQueue -/

@[simp] theorem modQueue_pending (s : State) (i : Nat) (f : Queue → Queue) : (modQueue s i f).pending = s.pending := rfl
@[simp] theorem modQueue_tick (s : State) (i : Nat) (f : Queue → Queue) : (modQueue s i f).tick = s.tick := rfl
@[simp] theorem modQueue_free (s : State) (i : Nat) (f : Queue → Queue) : (modQueue s i f).free = s.free := rfl
@[simp] theorem modQueue_mem (s : State) (i : Nat) (f : Queue → Queue) : (modQueue s i f).mem = s.mem := rfl
@[simp] theorem modQueue_log (s : State) (i : Nat) (f : Queue → Queue) : (modQueue s i f).log = s.log := rfl
@[simp] theorem modQueue_pans (s : State) (i : Nat) (f : Queue → Queue) : (modQueue s i f).pans = s.pans := rfl
@[simp] theorem modQueue_sync (s : State) (i : Nat) (f : Queue → Queue) : (modQueue s i f).sync = s.sync := rfl
@[simp] theorem modQueue_ten (s : State) (i : Nat) (f : Queue → Queue) : (modQueue s i f).ten = s.ten := rfl
@[simp] theorem modQueue_slice (s : State) (i : Nat) (f : Queue → Queue) : (modQueue s i f).slice = s.slice := rfl
@[simp] theorem modQueue_sch (s : State) (i : Nat) (f : Queue → Queue) : (modQueue s i f).sch = s.sch := rfl
@[simp] theorem modQueue_desc (s : State) (i : Nat) (f : Queue → Queue) : (modQueue s i f).desc = s.desc := rfl
@[simp] theorem modQueue_dram (s : State) (i : Nat) (f : Queue → Queue) : (modQueue s i f).dram = s.dram := rfl
@[simp] theorem modQueue_net (s : State) (i : Nat) (f : Queue → Queue) : (modQueue s i f).net = s.net := rfl
@[simp] theorem modQueue_mir (s : State) (i : Nat) (f : Queue → Queue) : (modQueue s i f).mir = s.mir := rfl
@[simp] theorem modQueue_plc (s : State) (i : Nat) (f : Queue → Queue) : (modQueue s i f).plc = s.plc := rfl
@[simp] theorem modQueue_gov (s : State) (i : Nat) (f : Queue → Queue) : (modQueue s i f).gov = s.gov := rfl
@[simp] theorem modQueue_sen (s : State) (i : Nat) (f : Queue → Queue) : (modQueue s i f).sen = s.sen := rfl
@[simp] theorem modQueue_cal (s : State) (i : Nat) (f : Queue → Queue) : (modQueue s i f).cal = s.cal := rfl
@[simp] theorem modQueue_rst (s : State) (i : Nat) (f : Queue → Queue) : (modQueue s i f).rst = s.rst := rfl
@[simp] theorem modQueue_svc (s : State) (i : Nat) (f : Queue → Queue) : (modQueue s i f).svc = s.svc := rfl
@[simp] theorem modQueue_dbg (s : State) (i : Nat) (f : Queue → Queue) : (modQueue s i f).dbg = s.dbg := rfl
@[simp] theorem modQueue_out (s : State) (i : Nat) (f : Queue → Queue) : (modQueue s i f).out = s.out := rfl

/-! ### queueWrite -/

@[simp] theorem queueWrite_pending (s : State) (i : Nat) (ws : List (List Dword)) (bad : Option Nat) : (queueWrite s i ws bad).pending = s.pending := by simp [queueWrite]
@[simp] theorem queueWrite_tick (s : State) (i : Nat) (ws : List (List Dword)) (bad : Option Nat) : (queueWrite s i ws bad).tick = s.tick := by simp [queueWrite]
@[simp] theorem queueWrite_free (s : State) (i : Nat) (ws : List (List Dword)) (bad : Option Nat) : (queueWrite s i ws bad).free = s.free := by simp [queueWrite]
@[simp] theorem queueWrite_mem (s : State) (i : Nat) (ws : List (List Dword)) (bad : Option Nat) : (queueWrite s i ws bad).mem = s.mem := by simp [queueWrite]
@[simp] theorem queueWrite_log (s : State) (i : Nat) (ws : List (List Dword)) (bad : Option Nat) : (queueWrite s i ws bad).log = s.log := by simp [queueWrite]
@[simp] theorem queueWrite_pans (s : State) (i : Nat) (ws : List (List Dword)) (bad : Option Nat) : (queueWrite s i ws bad).pans = s.pans := by simp [queueWrite]
@[simp] theorem queueWrite_sync (s : State) (i : Nat) (ws : List (List Dword)) (bad : Option Nat) : (queueWrite s i ws bad).sync = s.sync := by simp [queueWrite]
@[simp] theorem queueWrite_ten (s : State) (i : Nat) (ws : List (List Dword)) (bad : Option Nat) : (queueWrite s i ws bad).ten = s.ten := by simp [queueWrite]
@[simp] theorem queueWrite_slice (s : State) (i : Nat) (ws : List (List Dword)) (bad : Option Nat) : (queueWrite s i ws bad).slice = s.slice := by simp [queueWrite]
@[simp] theorem queueWrite_sch (s : State) (i : Nat) (ws : List (List Dword)) (bad : Option Nat) : (queueWrite s i ws bad).sch = s.sch := by simp [queueWrite]
@[simp] theorem queueWrite_desc (s : State) (i : Nat) (ws : List (List Dword)) (bad : Option Nat) : (queueWrite s i ws bad).desc = s.desc := by simp [queueWrite]
@[simp] theorem queueWrite_dram (s : State) (i : Nat) (ws : List (List Dword)) (bad : Option Nat) : (queueWrite s i ws bad).dram = s.dram := by simp [queueWrite]
@[simp] theorem queueWrite_net (s : State) (i : Nat) (ws : List (List Dword)) (bad : Option Nat) : (queueWrite s i ws bad).net = s.net := by simp [queueWrite]
@[simp] theorem queueWrite_mir (s : State) (i : Nat) (ws : List (List Dword)) (bad : Option Nat) : (queueWrite s i ws bad).mir = s.mir := by simp [queueWrite]
@[simp] theorem queueWrite_plc (s : State) (i : Nat) (ws : List (List Dword)) (bad : Option Nat) : (queueWrite s i ws bad).plc = s.plc := by simp [queueWrite]
@[simp] theorem queueWrite_gov (s : State) (i : Nat) (ws : List (List Dword)) (bad : Option Nat) : (queueWrite s i ws bad).gov = s.gov := by simp [queueWrite]
@[simp] theorem queueWrite_sen (s : State) (i : Nat) (ws : List (List Dword)) (bad : Option Nat) : (queueWrite s i ws bad).sen = s.sen := by simp [queueWrite]
@[simp] theorem queueWrite_cal (s : State) (i : Nat) (ws : List (List Dword)) (bad : Option Nat) : (queueWrite s i ws bad).cal = s.cal := by simp [queueWrite]
@[simp] theorem queueWrite_rst (s : State) (i : Nat) (ws : List (List Dword)) (bad : Option Nat) : (queueWrite s i ws bad).rst = s.rst := by simp [queueWrite]
@[simp] theorem queueWrite_svc (s : State) (i : Nat) (ws : List (List Dword)) (bad : Option Nat) : (queueWrite s i ws bad).svc = s.svc := by simp [queueWrite]
@[simp] theorem queueWrite_dbg (s : State) (i : Nat) (ws : List (List Dword)) (bad : Option Nat) : (queueWrite s i ws bad).dbg = s.dbg := by simp [queueWrite]
@[simp] theorem queueWrite_out (s : State) (i : Nat) (ws : List (List Dword)) (bad : Option Nat) : (queueWrite s i ws bad).out = s.out := by simp [queueWrite]

/-! ### queueTake -/

@[simp] theorem queueTake_pending (s : State) (i n : Nat) : (queueTake s i n).pending = s.pending := rfl
@[simp] theorem queueTake_tick (s : State) (i n : Nat) : (queueTake s i n).tick = s.tick := rfl
@[simp] theorem queueTake_free (s : State) (i n : Nat) : (queueTake s i n).free = s.free := rfl
@[simp] theorem queueTake_mem (s : State) (i n : Nat) : (queueTake s i n).mem = s.mem := rfl
@[simp] theorem queueTake_log (s : State) (i n : Nat) : (queueTake s i n).log = s.log := rfl
@[simp] theorem queueTake_pans (s : State) (i n : Nat) : (queueTake s i n).pans = s.pans := rfl
@[simp] theorem queueTake_sync (s : State) (i n : Nat) : (queueTake s i n).sync = s.sync := rfl
@[simp] theorem queueTake_ten (s : State) (i n : Nat) : (queueTake s i n).ten = s.ten := rfl
@[simp] theorem queueTake_slice (s : State) (i n : Nat) : (queueTake s i n).slice = s.slice := rfl
@[simp] theorem queueTake_sch (s : State) (i n : Nat) : (queueTake s i n).sch = s.sch := rfl
@[simp] theorem queueTake_desc (s : State) (i n : Nat) : (queueTake s i n).desc = s.desc := rfl
@[simp] theorem queueTake_dram (s : State) (i n : Nat) : (queueTake s i n).dram = s.dram := rfl
@[simp] theorem queueTake_net (s : State) (i n : Nat) : (queueTake s i n).net = s.net := rfl
@[simp] theorem queueTake_mir (s : State) (i n : Nat) : (queueTake s i n).mir = s.mir := rfl
@[simp] theorem queueTake_plc (s : State) (i n : Nat) : (queueTake s i n).plc = s.plc := rfl
@[simp] theorem queueTake_gov (s : State) (i n : Nat) : (queueTake s i n).gov = s.gov := rfl
@[simp] theorem queueTake_sen (s : State) (i n : Nat) : (queueTake s i n).sen = s.sen := rfl
@[simp] theorem queueTake_cal (s : State) (i n : Nat) : (queueTake s i n).cal = s.cal := rfl
@[simp] theorem queueTake_rst (s : State) (i n : Nat) : (queueTake s i n).rst = s.rst := rfl
@[simp] theorem queueTake_svc (s : State) (i n : Nat) : (queueTake s i n).svc = s.svc := rfl
@[simp] theorem queueTake_dbg (s : State) (i n : Nat) : (queueTake s i n).dbg = s.dbg := rfl
@[simp] theorem queueTake_out (s : State) (i n : Nat) : (queueTake s i n).out = s.out := rfl

/-! ### queueClear -/

@[simp] theorem queueClear_pending (s : State) (i : Nat) : (queueClear s i).pending = s.pending := rfl
@[simp] theorem queueClear_tick (s : State) (i : Nat) : (queueClear s i).tick = s.tick := rfl
@[simp] theorem queueClear_free (s : State) (i : Nat) : (queueClear s i).free = s.free := rfl
@[simp] theorem queueClear_mem (s : State) (i : Nat) : (queueClear s i).mem = s.mem := rfl
@[simp] theorem queueClear_log (s : State) (i : Nat) : (queueClear s i).log = s.log := rfl
@[simp] theorem queueClear_pans (s : State) (i : Nat) : (queueClear s i).pans = s.pans := rfl
@[simp] theorem queueClear_sync (s : State) (i : Nat) : (queueClear s i).sync = s.sync := rfl
@[simp] theorem queueClear_ten (s : State) (i : Nat) : (queueClear s i).ten = s.ten := rfl
@[simp] theorem queueClear_slice (s : State) (i : Nat) : (queueClear s i).slice = s.slice := rfl
@[simp] theorem queueClear_sch (s : State) (i : Nat) : (queueClear s i).sch = s.sch := rfl
@[simp] theorem queueClear_desc (s : State) (i : Nat) : (queueClear s i).desc = s.desc := rfl
@[simp] theorem queueClear_dram (s : State) (i : Nat) : (queueClear s i).dram = s.dram := rfl
@[simp] theorem queueClear_net (s : State) (i : Nat) : (queueClear s i).net = s.net := rfl
@[simp] theorem queueClear_mir (s : State) (i : Nat) : (queueClear s i).mir = s.mir := rfl
@[simp] theorem queueClear_plc (s : State) (i : Nat) : (queueClear s i).plc = s.plc := rfl
@[simp] theorem queueClear_gov (s : State) (i : Nat) : (queueClear s i).gov = s.gov := rfl
@[simp] theorem queueClear_sen (s : State) (i : Nat) : (queueClear s i).sen = s.sen := rfl
@[simp] theorem queueClear_cal (s : State) (i : Nat) : (queueClear s i).cal = s.cal := rfl
@[simp] theorem queueClear_rst (s : State) (i : Nat) : (queueClear s i).rst = s.rst := rfl
@[simp] theorem queueClear_svc (s : State) (i : Nat) : (queueClear s i).svc = s.svc := rfl
@[simp] theorem queueClear_dbg (s : State) (i : Nat) : (queueClear s i).dbg = s.dbg := rfl
@[simp] theorem queueClear_out (s : State) (i : Nat) : (queueClear s i).out = s.out := rfl

/-! ### queueAbandon -/

@[simp] theorem queueAbandon_pending (s : State) (i : Nat) : (queueAbandon s i).pending = s.pending := rfl
@[simp] theorem queueAbandon_tick (s : State) (i : Nat) : (queueAbandon s i).tick = s.tick := rfl
@[simp] theorem queueAbandon_free (s : State) (i : Nat) : (queueAbandon s i).free = s.free := rfl
@[simp] theorem queueAbandon_mem (s : State) (i : Nat) : (queueAbandon s i).mem = s.mem := rfl
@[simp] theorem queueAbandon_log (s : State) (i : Nat) : (queueAbandon s i).log = s.log := rfl
@[simp] theorem queueAbandon_pans (s : State) (i : Nat) : (queueAbandon s i).pans = s.pans := rfl
@[simp] theorem queueAbandon_sync (s : State) (i : Nat) : (queueAbandon s i).sync = s.sync := rfl
@[simp] theorem queueAbandon_ten (s : State) (i : Nat) : (queueAbandon s i).ten = s.ten := rfl
@[simp] theorem queueAbandon_slice (s : State) (i : Nat) : (queueAbandon s i).slice = s.slice := rfl
@[simp] theorem queueAbandon_sch (s : State) (i : Nat) : (queueAbandon s i).sch = s.sch := rfl
@[simp] theorem queueAbandon_desc (s : State) (i : Nat) : (queueAbandon s i).desc = s.desc := rfl
@[simp] theorem queueAbandon_dram (s : State) (i : Nat) : (queueAbandon s i).dram = s.dram := rfl
@[simp] theorem queueAbandon_net (s : State) (i : Nat) : (queueAbandon s i).net = s.net := rfl
@[simp] theorem queueAbandon_mir (s : State) (i : Nat) : (queueAbandon s i).mir = s.mir := rfl
@[simp] theorem queueAbandon_plc (s : State) (i : Nat) : (queueAbandon s i).plc = s.plc := rfl
@[simp] theorem queueAbandon_gov (s : State) (i : Nat) : (queueAbandon s i).gov = s.gov := rfl
@[simp] theorem queueAbandon_sen (s : State) (i : Nat) : (queueAbandon s i).sen = s.sen := rfl
@[simp] theorem queueAbandon_cal (s : State) (i : Nat) : (queueAbandon s i).cal = s.cal := rfl
@[simp] theorem queueAbandon_rst (s : State) (i : Nat) : (queueAbandon s i).rst = s.rst := rfl
@[simp] theorem queueAbandon_svc (s : State) (i : Nat) : (queueAbandon s i).svc = s.svc := rfl
@[simp] theorem queueAbandon_dbg (s : State) (i : Nat) : (queueAbandon s i).dbg = s.dbg := rfl
@[simp] theorem queueAbandon_out (s : State) (i : Nat) : (queueAbandon s i).out = s.out := rfl

/-! ### queueSend -/

@[simp] theorem queueSend_pending (s : State) (i : Nat) (ws : List (List Dword)) (bad : Option Nat) : (queueSend s i ws bad).pending = s.pending := by simp [queueSend]
@[simp] theorem queueSend_tick (s : State) (i : Nat) (ws : List (List Dword)) (bad : Option Nat) : (queueSend s i ws bad).tick = s.tick := by simp [queueSend]
@[simp] theorem queueSend_free (s : State) (i : Nat) (ws : List (List Dword)) (bad : Option Nat) : (queueSend s i ws bad).free = s.free := by simp [queueSend]
@[simp] theorem queueSend_mem (s : State) (i : Nat) (ws : List (List Dword)) (bad : Option Nat) : (queueSend s i ws bad).mem = s.mem := by simp [queueSend]
@[simp] theorem queueSend_log (s : State) (i : Nat) (ws : List (List Dword)) (bad : Option Nat) : (queueSend s i ws bad).log = s.log := by simp [queueSend]
@[simp] theorem queueSend_pans (s : State) (i : Nat) (ws : List (List Dword)) (bad : Option Nat) : (queueSend s i ws bad).pans = s.pans := by simp [queueSend]
@[simp] theorem queueSend_sync (s : State) (i : Nat) (ws : List (List Dword)) (bad : Option Nat) : (queueSend s i ws bad).sync = s.sync := by simp [queueSend]
@[simp] theorem queueSend_ten (s : State) (i : Nat) (ws : List (List Dword)) (bad : Option Nat) : (queueSend s i ws bad).ten = s.ten := by simp [queueSend]
@[simp] theorem queueSend_slice (s : State) (i : Nat) (ws : List (List Dword)) (bad : Option Nat) : (queueSend s i ws bad).slice = s.slice := by simp [queueSend]
@[simp] theorem queueSend_sch (s : State) (i : Nat) (ws : List (List Dword)) (bad : Option Nat) : (queueSend s i ws bad).sch = s.sch := by simp [queueSend]
@[simp] theorem queueSend_desc (s : State) (i : Nat) (ws : List (List Dword)) (bad : Option Nat) : (queueSend s i ws bad).desc = s.desc := by simp [queueSend]
@[simp] theorem queueSend_dram (s : State) (i : Nat) (ws : List (List Dword)) (bad : Option Nat) : (queueSend s i ws bad).dram = s.dram := by simp [queueSend]
@[simp] theorem queueSend_net (s : State) (i : Nat) (ws : List (List Dword)) (bad : Option Nat) : (queueSend s i ws bad).net = s.net := by simp [queueSend]
@[simp] theorem queueSend_mir (s : State) (i : Nat) (ws : List (List Dword)) (bad : Option Nat) : (queueSend s i ws bad).mir = s.mir := by simp [queueSend]
@[simp] theorem queueSend_plc (s : State) (i : Nat) (ws : List (List Dword)) (bad : Option Nat) : (queueSend s i ws bad).plc = s.plc := by simp [queueSend]
@[simp] theorem queueSend_gov (s : State) (i : Nat) (ws : List (List Dword)) (bad : Option Nat) : (queueSend s i ws bad).gov = s.gov := by simp [queueSend]
@[simp] theorem queueSend_sen (s : State) (i : Nat) (ws : List (List Dword)) (bad : Option Nat) : (queueSend s i ws bad).sen = s.sen := by simp [queueSend]
@[simp] theorem queueSend_cal (s : State) (i : Nat) (ws : List (List Dword)) (bad : Option Nat) : (queueSend s i ws bad).cal = s.cal := by simp [queueSend]
@[simp] theorem queueSend_rst (s : State) (i : Nat) (ws : List (List Dword)) (bad : Option Nat) : (queueSend s i ws bad).rst = s.rst := by simp [queueSend]
@[simp] theorem queueSend_svc (s : State) (i : Nat) (ws : List (List Dword)) (bad : Option Nat) : (queueSend s i ws bad).svc = s.svc := by simp [queueSend]
@[simp] theorem queueSend_dbg (s : State) (i : Nat) (ws : List (List Dword)) (bad : Option Nat) : (queueSend s i ws bad).dbg = s.dbg := by simp [queueSend]
@[simp] theorem queueSend_out (s : State) (i : Nat) (ws : List (List Dword)) (bad : Option Nat) : (queueSend s i ws bad).out = s.out ++ [queueNotice i] := by simp [queueSend, emit]

/-! ### queuePass -/

@[simp] theorem queuePass_pending (s : State) (i : Nat) (ws : List (List Dword)) : (queuePass s i ws).pending = s.pending := by simp [queuePass]
@[simp] theorem queuePass_tick (s : State) (i : Nat) (ws : List (List Dword)) : (queuePass s i ws).tick = s.tick := by simp [queuePass]
@[simp] theorem queuePass_free (s : State) (i : Nat) (ws : List (List Dword)) : (queuePass s i ws).free = s.free := by simp [queuePass]
@[simp] theorem queuePass_mem (s : State) (i : Nat) (ws : List (List Dword)) : (queuePass s i ws).mem = s.mem := by simp [queuePass]
@[simp] theorem queuePass_log (s : State) (i : Nat) (ws : List (List Dword)) : (queuePass s i ws).log = s.log := by simp [queuePass]
@[simp] theorem queuePass_pans (s : State) (i : Nat) (ws : List (List Dword)) : (queuePass s i ws).pans = s.pans := by simp [queuePass]
@[simp] theorem queuePass_sync (s : State) (i : Nat) (ws : List (List Dword)) : (queuePass s i ws).sync = s.sync := by simp [queuePass]
@[simp] theorem queuePass_ten (s : State) (i : Nat) (ws : List (List Dword)) : (queuePass s i ws).ten = s.ten := by simp [queuePass]
@[simp] theorem queuePass_slice (s : State) (i : Nat) (ws : List (List Dword)) : (queuePass s i ws).slice = s.slice := by simp [queuePass]
@[simp] theorem queuePass_sch (s : State) (i : Nat) (ws : List (List Dword)) : (queuePass s i ws).sch = s.sch := by simp [queuePass]
@[simp] theorem queuePass_desc (s : State) (i : Nat) (ws : List (List Dword)) : (queuePass s i ws).desc = s.desc := by simp [queuePass]
@[simp] theorem queuePass_dram (s : State) (i : Nat) (ws : List (List Dword)) : (queuePass s i ws).dram = s.dram := by simp [queuePass]
@[simp] theorem queuePass_net (s : State) (i : Nat) (ws : List (List Dword)) : (queuePass s i ws).net = s.net := by simp [queuePass]
@[simp] theorem queuePass_mir (s : State) (i : Nat) (ws : List (List Dword)) : (queuePass s i ws).mir = s.mir := by simp [queuePass]
@[simp] theorem queuePass_plc (s : State) (i : Nat) (ws : List (List Dword)) : (queuePass s i ws).plc = s.plc := by simp [queuePass]
@[simp] theorem queuePass_gov (s : State) (i : Nat) (ws : List (List Dword)) : (queuePass s i ws).gov = s.gov := by simp [queuePass]
@[simp] theorem queuePass_sen (s : State) (i : Nat) (ws : List (List Dword)) : (queuePass s i ws).sen = s.sen := by simp [queuePass]
@[simp] theorem queuePass_cal (s : State) (i : Nat) (ws : List (List Dword)) : (queuePass s i ws).cal = s.cal := by simp [queuePass]
@[simp] theorem queuePass_rst (s : State) (i : Nat) (ws : List (List Dword)) : (queuePass s i ws).rst = s.rst := by simp [queuePass]
@[simp] theorem queuePass_svc (s : State) (i : Nat) (ws : List (List Dword)) : (queuePass s i ws).svc = s.svc := by simp [queuePass]
@[simp] theorem queuePass_dbg (s : State) (i : Nat) (ws : List (List Dword)) : (queuePass s i ws).dbg = s.dbg := by simp [queuePass]
@[simp] theorem queuePass_out (s : State) (i : Nat) (ws : List (List Dword)) : (queuePass s i ws).out = s.out ++ [queueNotice i] := by simp [queuePass]

/-! ### syncQueues -/

@[simp] theorem syncQueues_pending (s : State) : (syncQueues s).pending = s.pending := rfl
@[simp] theorem syncQueues_tick (s : State) : (syncQueues s).tick = s.tick := rfl
@[simp] theorem syncQueues_free (s : State) : (syncQueues s).free = s.free := rfl
@[simp] theorem syncQueues_mem (s : State) : (syncQueues s).mem = s.mem := rfl
@[simp] theorem syncQueues_log (s : State) : (syncQueues s).log = s.log := rfl
@[simp] theorem syncQueues_pans (s : State) : (syncQueues s).pans = s.pans := rfl
@[simp] theorem syncQueues_sync (s : State) : (syncQueues s).sync = s.sync := rfl
@[simp] theorem syncQueues_ten (s : State) : (syncQueues s).ten = s.ten := rfl
@[simp] theorem syncQueues_slice (s : State) : (syncQueues s).slice = s.slice := rfl
@[simp] theorem syncQueues_sch (s : State) : (syncQueues s).sch = s.sch := rfl
@[simp] theorem syncQueues_desc (s : State) : (syncQueues s).desc = s.desc := rfl
@[simp] theorem syncQueues_dram (s : State) : (syncQueues s).dram = s.dram := rfl
@[simp] theorem syncQueues_net (s : State) : (syncQueues s).net = s.net := rfl
@[simp] theorem syncQueues_mir (s : State) : (syncQueues s).mir = s.mir := rfl
@[simp] theorem syncQueues_plc (s : State) : (syncQueues s).plc = s.plc := rfl
@[simp] theorem syncQueues_gov (s : State) : (syncQueues s).gov = s.gov := rfl
@[simp] theorem syncQueues_sen (s : State) : (syncQueues s).sen = s.sen := rfl
@[simp] theorem syncQueues_cal (s : State) : (syncQueues s).cal = s.cal := rfl
@[simp] theorem syncQueues_rst (s : State) : (syncQueues s).rst = s.rst := rfl
@[simp] theorem syncQueues_svc (s : State) : (syncQueues s).svc = s.svc := rfl
@[simp] theorem syncQueues_dbg (s : State) : (syncQueues s).dbg = s.dbg := rfl
@[simp] theorem syncQueues_out (s : State) : (syncQueues s).out = s.out := rfl

/-! ### mapSpare -/

@[simp] theorem mapSpare_pending (s : State) (b : BankIx) (j : Fin 8) (v : Bool) : (mapSpare s b j v).pending = s.pending := rfl
@[simp] theorem mapSpare_tick (s : State) (b : BankIx) (j : Fin 8) (v : Bool) : (mapSpare s b j v).tick = s.tick := rfl
@[simp] theorem mapSpare_free (s : State) (b : BankIx) (j : Fin 8) (v : Bool) : (mapSpare s b j v).free = s.free := rfl
@[simp] theorem mapSpare_mem (s : State) (b : BankIx) (j : Fin 8) (v : Bool) : (mapSpare s b j v).mem = s.mem := rfl
@[simp] theorem mapSpare_log (s : State) (b : BankIx) (j : Fin 8) (v : Bool) : (mapSpare s b j v).log = s.log := rfl
@[simp] theorem mapSpare_pans (s : State) (b : BankIx) (j : Fin 8) (v : Bool) : (mapSpare s b j v).pans = s.pans := rfl
@[simp] theorem mapSpare_sync (s : State) (b : BankIx) (j : Fin 8) (v : Bool) : (mapSpare s b j v).sync = s.sync := rfl
@[simp] theorem mapSpare_ten (s : State) (b : BankIx) (j : Fin 8) (v : Bool) : (mapSpare s b j v).ten = s.ten := rfl
@[simp] theorem mapSpare_slice (s : State) (b : BankIx) (j : Fin 8) (v : Bool) : (mapSpare s b j v).slice = s.slice := rfl
@[simp] theorem mapSpare_sch (s : State) (b : BankIx) (j : Fin 8) (v : Bool) : (mapSpare s b j v).sch = s.sch := rfl
@[simp] theorem mapSpare_desc (s : State) (b : BankIx) (j : Fin 8) (v : Bool) : (mapSpare s b j v).desc = s.desc := rfl
@[simp] theorem mapSpare_host (s : State) (b : BankIx) (j : Fin 8) (v : Bool) : (mapSpare s b j v).host = s.host := rfl
@[simp] theorem mapSpare_net (s : State) (b : BankIx) (j : Fin 8) (v : Bool) : (mapSpare s b j v).net = s.net := rfl
@[simp] theorem mapSpare_mir (s : State) (b : BankIx) (j : Fin 8) (v : Bool) : (mapSpare s b j v).mir = s.mir := rfl
@[simp] theorem mapSpare_plc (s : State) (b : BankIx) (j : Fin 8) (v : Bool) : (mapSpare s b j v).plc = s.plc := rfl
@[simp] theorem mapSpare_gov (s : State) (b : BankIx) (j : Fin 8) (v : Bool) : (mapSpare s b j v).gov = s.gov := rfl
@[simp] theorem mapSpare_sen (s : State) (b : BankIx) (j : Fin 8) (v : Bool) : (mapSpare s b j v).sen = s.sen := rfl
@[simp] theorem mapSpare_cal (s : State) (b : BankIx) (j : Fin 8) (v : Bool) : (mapSpare s b j v).cal = s.cal := rfl
@[simp] theorem mapSpare_rst (s : State) (b : BankIx) (j : Fin 8) (v : Bool) : (mapSpare s b j v).rst = s.rst := rfl
@[simp] theorem mapSpare_svc (s : State) (b : BankIx) (j : Fin 8) (v : Bool) : (mapSpare s b j v).svc = s.svc := rfl
@[simp] theorem mapSpare_dbg (s : State) (b : BankIx) (j : Fin 8) (v : Bool) : (mapSpare s b j v).dbg = s.dbg := rfl
@[simp] theorem mapSpare_out (s : State) (b : BankIx) (j : Fin 8) (v : Bool) : (mapSpare s b j v).out = s.out := rfl

/-! ### noteSent -/

@[simp] theorem noteSent_pending (s : State) (k : StackIx) (q : PcIx) (c : SentCmd) : (noteSent s k q c).pending = s.pending := rfl
@[simp] theorem noteSent_tick (s : State) (k : StackIx) (q : PcIx) (c : SentCmd) : (noteSent s k q c).tick = s.tick := rfl
@[simp] theorem noteSent_free (s : State) (k : StackIx) (q : PcIx) (c : SentCmd) : (noteSent s k q c).free = s.free := rfl
@[simp] theorem noteSent_mem (s : State) (k : StackIx) (q : PcIx) (c : SentCmd) : (noteSent s k q c).mem = s.mem := rfl
@[simp] theorem noteSent_log (s : State) (k : StackIx) (q : PcIx) (c : SentCmd) : (noteSent s k q c).log = s.log := rfl
@[simp] theorem noteSent_pans (s : State) (k : StackIx) (q : PcIx) (c : SentCmd) : (noteSent s k q c).pans = s.pans := rfl
@[simp] theorem noteSent_sync (s : State) (k : StackIx) (q : PcIx) (c : SentCmd) : (noteSent s k q c).sync = s.sync := rfl
@[simp] theorem noteSent_ten (s : State) (k : StackIx) (q : PcIx) (c : SentCmd) : (noteSent s k q c).ten = s.ten := rfl
@[simp] theorem noteSent_slice (s : State) (k : StackIx) (q : PcIx) (c : SentCmd) : (noteSent s k q c).slice = s.slice := rfl
@[simp] theorem noteSent_sch (s : State) (k : StackIx) (q : PcIx) (c : SentCmd) : (noteSent s k q c).sch = s.sch := rfl
@[simp] theorem noteSent_desc (s : State) (k : StackIx) (q : PcIx) (c : SentCmd) : (noteSent s k q c).desc = s.desc := rfl
@[simp] theorem noteSent_host (s : State) (k : StackIx) (q : PcIx) (c : SentCmd) : (noteSent s k q c).host = s.host := rfl
@[simp] theorem noteSent_net (s : State) (k : StackIx) (q : PcIx) (c : SentCmd) : (noteSent s k q c).net = s.net := rfl
@[simp] theorem noteSent_mir (s : State) (k : StackIx) (q : PcIx) (c : SentCmd) : (noteSent s k q c).mir = s.mir := rfl
@[simp] theorem noteSent_plc (s : State) (k : StackIx) (q : PcIx) (c : SentCmd) : (noteSent s k q c).plc = s.plc := rfl
@[simp] theorem noteSent_gov (s : State) (k : StackIx) (q : PcIx) (c : SentCmd) : (noteSent s k q c).gov = s.gov := rfl
@[simp] theorem noteSent_sen (s : State) (k : StackIx) (q : PcIx) (c : SentCmd) : (noteSent s k q c).sen = s.sen := rfl
@[simp] theorem noteSent_cal (s : State) (k : StackIx) (q : PcIx) (c : SentCmd) : (noteSent s k q c).cal = s.cal := rfl
@[simp] theorem noteSent_rst (s : State) (k : StackIx) (q : PcIx) (c : SentCmd) : (noteSent s k q c).rst = s.rst := rfl
@[simp] theorem noteSent_svc (s : State) (k : StackIx) (q : PcIx) (c : SentCmd) : (noteSent s k q c).svc = s.svc := rfl
@[simp] theorem noteSent_dbg (s : State) (k : StackIx) (q : PcIx) (c : SentCmd) : (noteSent s k q c).dbg = s.dbg := rfl
@[simp] theorem noteSent_out (s : State) (k : StackIx) (q : PcIx) (c : SentCmd) : (noteSent s k q c).out = s.out := rfl

/-! ### sendTo -/

@[simp] theorem sendTo_pending (s : State) (b : BankIx) (c : SentCmd) : (sendTo s b c).pending = s.pending := rfl
@[simp] theorem sendTo_tick (s : State) (b : BankIx) (c : SentCmd) : (sendTo s b c).tick = s.tick := rfl
@[simp] theorem sendTo_free (s : State) (b : BankIx) (c : SentCmd) : (sendTo s b c).free = s.free := rfl
@[simp] theorem sendTo_mem (s : State) (b : BankIx) (c : SentCmd) : (sendTo s b c).mem = s.mem := rfl
@[simp] theorem sendTo_log (s : State) (b : BankIx) (c : SentCmd) : (sendTo s b c).log = s.log := rfl
@[simp] theorem sendTo_pans (s : State) (b : BankIx) (c : SentCmd) : (sendTo s b c).pans = s.pans := rfl
@[simp] theorem sendTo_sync (s : State) (b : BankIx) (c : SentCmd) : (sendTo s b c).sync = s.sync := rfl
@[simp] theorem sendTo_ten (s : State) (b : BankIx) (c : SentCmd) : (sendTo s b c).ten = s.ten := rfl
@[simp] theorem sendTo_slice (s : State) (b : BankIx) (c : SentCmd) : (sendTo s b c).slice = s.slice := rfl
@[simp] theorem sendTo_sch (s : State) (b : BankIx) (c : SentCmd) : (sendTo s b c).sch = s.sch := rfl
@[simp] theorem sendTo_desc (s : State) (b : BankIx) (c : SentCmd) : (sendTo s b c).desc = s.desc := rfl
@[simp] theorem sendTo_host (s : State) (b : BankIx) (c : SentCmd) : (sendTo s b c).host = s.host := rfl
@[simp] theorem sendTo_net (s : State) (b : BankIx) (c : SentCmd) : (sendTo s b c).net = s.net := rfl
@[simp] theorem sendTo_mir (s : State) (b : BankIx) (c : SentCmd) : (sendTo s b c).mir = s.mir := rfl
@[simp] theorem sendTo_plc (s : State) (b : BankIx) (c : SentCmd) : (sendTo s b c).plc = s.plc := rfl
@[simp] theorem sendTo_gov (s : State) (b : BankIx) (c : SentCmd) : (sendTo s b c).gov = s.gov := rfl
@[simp] theorem sendTo_sen (s : State) (b : BankIx) (c : SentCmd) : (sendTo s b c).sen = s.sen := rfl
@[simp] theorem sendTo_cal (s : State) (b : BankIx) (c : SentCmd) : (sendTo s b c).cal = s.cal := rfl
@[simp] theorem sendTo_rst (s : State) (b : BankIx) (c : SentCmd) : (sendTo s b c).rst = s.rst := rfl
@[simp] theorem sendTo_svc (s : State) (b : BankIx) (c : SentCmd) : (sendTo s b c).svc = s.svc := rfl
@[simp] theorem sendTo_dbg (s : State) (b : BankIx) (c : SentCmd) : (sendTo s b c).dbg = s.dbg := rfl
@[simp] theorem sendTo_out (s : State) (b : BankIx) (c : SentCmd) : (sendTo s b c).out = s.out := rfl

/-! ### prechargeBank -/

@[simp] theorem prechargeBank_pending (s : State) (b : BankIx) : (prechargeBank s b).pending = s.pending := rfl
@[simp] theorem prechargeBank_tick (s : State) (b : BankIx) : (prechargeBank s b).tick = s.tick := rfl
@[simp] theorem prechargeBank_free (s : State) (b : BankIx) : (prechargeBank s b).free = s.free := rfl
@[simp] theorem prechargeBank_mem (s : State) (b : BankIx) : (prechargeBank s b).mem = s.mem := rfl
@[simp] theorem prechargeBank_log (s : State) (b : BankIx) : (prechargeBank s b).log = s.log := rfl
@[simp] theorem prechargeBank_pans (s : State) (b : BankIx) : (prechargeBank s b).pans = s.pans := rfl
@[simp] theorem prechargeBank_sync (s : State) (b : BankIx) : (prechargeBank s b).sync = s.sync := rfl
@[simp] theorem prechargeBank_ten (s : State) (b : BankIx) : (prechargeBank s b).ten = s.ten := rfl
@[simp] theorem prechargeBank_slice (s : State) (b : BankIx) : (prechargeBank s b).slice = s.slice := rfl
@[simp] theorem prechargeBank_sch (s : State) (b : BankIx) : (prechargeBank s b).sch = s.sch := rfl
@[simp] theorem prechargeBank_desc (s : State) (b : BankIx) : (prechargeBank s b).desc = s.desc := rfl
@[simp] theorem prechargeBank_host (s : State) (b : BankIx) : (prechargeBank s b).host = s.host := rfl
@[simp] theorem prechargeBank_net (s : State) (b : BankIx) : (prechargeBank s b).net = s.net := rfl
@[simp] theorem prechargeBank_mir (s : State) (b : BankIx) : (prechargeBank s b).mir = s.mir := rfl
@[simp] theorem prechargeBank_plc (s : State) (b : BankIx) : (prechargeBank s b).plc = s.plc := rfl
@[simp] theorem prechargeBank_gov (s : State) (b : BankIx) : (prechargeBank s b).gov = s.gov := rfl
@[simp] theorem prechargeBank_sen (s : State) (b : BankIx) : (prechargeBank s b).sen = s.sen := rfl
@[simp] theorem prechargeBank_cal (s : State) (b : BankIx) : (prechargeBank s b).cal = s.cal := rfl
@[simp] theorem prechargeBank_rst (s : State) (b : BankIx) : (prechargeBank s b).rst = s.rst := rfl
@[simp] theorem prechargeBank_svc (s : State) (b : BankIx) : (prechargeBank s b).svc = s.svc := rfl
@[simp] theorem prechargeBank_dbg (s : State) (b : BankIx) : (prechargeBank s b).dbg = s.dbg := rfl
@[simp] theorem prechargeBank_out (s : State) (b : BankIx) : (prechargeBank s b).out = s.out := rfl

/-! ### answered -/

@[simp] theorem answered_pending (s : State) (b : BankIx) : (answered s b).pending = s.pending := rfl
@[simp] theorem answered_tick (s : State) (b : BankIx) : (answered s b).tick = s.tick := rfl
@[simp] theorem answered_free (s : State) (b : BankIx) : (answered s b).free = s.free := rfl
@[simp] theorem answered_mem (s : State) (b : BankIx) : (answered s b).mem = s.mem := rfl
@[simp] theorem answered_log (s : State) (b : BankIx) : (answered s b).log = s.log := rfl
@[simp] theorem answered_pans (s : State) (b : BankIx) : (answered s b).pans = s.pans := rfl
@[simp] theorem answered_sync (s : State) (b : BankIx) : (answered s b).sync = s.sync := rfl
@[simp] theorem answered_ten (s : State) (b : BankIx) : (answered s b).ten = s.ten := rfl
@[simp] theorem answered_slice (s : State) (b : BankIx) : (answered s b).slice = s.slice := rfl
@[simp] theorem answered_sch (s : State) (b : BankIx) : (answered s b).sch = s.sch := rfl
@[simp] theorem answered_desc (s : State) (b : BankIx) : (answered s b).desc = s.desc := rfl
@[simp] theorem answered_host (s : State) (b : BankIx) : (answered s b).host = s.host := rfl
@[simp] theorem answered_net (s : State) (b : BankIx) : (answered s b).net = s.net := rfl
@[simp] theorem answered_mir (s : State) (b : BankIx) : (answered s b).mir = s.mir := rfl
@[simp] theorem answered_plc (s : State) (b : BankIx) : (answered s b).plc = s.plc := rfl
@[simp] theorem answered_gov (s : State) (b : BankIx) : (answered s b).gov = s.gov := rfl
@[simp] theorem answered_sen (s : State) (b : BankIx) : (answered s b).sen = s.sen := rfl
@[simp] theorem answered_cal (s : State) (b : BankIx) : (answered s b).cal = s.cal := rfl
@[simp] theorem answered_rst (s : State) (b : BankIx) : (answered s b).rst = s.rst := rfl
@[simp] theorem answered_svc (s : State) (b : BankIx) : (answered s b).svc = s.svc := rfl
@[simp] theorem answered_dbg (s : State) (b : BankIx) : (answered s b).dbg = s.dbg := rfl
@[simp] theorem answered_out (s : State) (b : BankIx) : (answered s b).out = s.out := rfl

/-! ### forgetAsks -/

@[simp] theorem forgetAsks_pending (s : State) (r : ReqSource) : (forgetAsks s r).pending = s.pending := rfl
@[simp] theorem forgetAsks_tick (s : State) (r : ReqSource) : (forgetAsks s r).tick = s.tick := rfl
@[simp] theorem forgetAsks_free (s : State) (r : ReqSource) : (forgetAsks s r).free = s.free := rfl
@[simp] theorem forgetAsks_mem (s : State) (r : ReqSource) : (forgetAsks s r).mem = s.mem := rfl
@[simp] theorem forgetAsks_log (s : State) (r : ReqSource) : (forgetAsks s r).log = s.log := rfl
@[simp] theorem forgetAsks_pans (s : State) (r : ReqSource) : (forgetAsks s r).pans = s.pans := rfl
@[simp] theorem forgetAsks_sync (s : State) (r : ReqSource) : (forgetAsks s r).sync = s.sync := rfl
@[simp] theorem forgetAsks_ten (s : State) (r : ReqSource) : (forgetAsks s r).ten = s.ten := rfl
@[simp] theorem forgetAsks_slice (s : State) (r : ReqSource) : (forgetAsks s r).slice = s.slice := rfl
@[simp] theorem forgetAsks_sch (s : State) (r : ReqSource) : (forgetAsks s r).sch = s.sch := rfl
@[simp] theorem forgetAsks_desc (s : State) (r : ReqSource) : (forgetAsks s r).desc = s.desc := rfl
@[simp] theorem forgetAsks_host (s : State) (r : ReqSource) : (forgetAsks s r).host = s.host := rfl
@[simp] theorem forgetAsks_net (s : State) (r : ReqSource) : (forgetAsks s r).net = s.net := rfl
@[simp] theorem forgetAsks_mir (s : State) (r : ReqSource) : (forgetAsks s r).mir = s.mir := rfl
@[simp] theorem forgetAsks_plc (s : State) (r : ReqSource) : (forgetAsks s r).plc = s.plc := rfl
@[simp] theorem forgetAsks_gov (s : State) (r : ReqSource) : (forgetAsks s r).gov = s.gov := rfl
@[simp] theorem forgetAsks_sen (s : State) (r : ReqSource) : (forgetAsks s r).sen = s.sen := rfl
@[simp] theorem forgetAsks_cal (s : State) (r : ReqSource) : (forgetAsks s r).cal = s.cal := rfl
@[simp] theorem forgetAsks_rst (s : State) (r : ReqSource) : (forgetAsks s r).rst = s.rst := rfl
@[simp] theorem forgetAsks_svc (s : State) (r : ReqSource) : (forgetAsks s r).svc = s.svc := rfl
@[simp] theorem forgetAsks_dbg (s : State) (r : ReqSource) : (forgetAsks s r).dbg = s.dbg := rfl
@[simp] theorem forgetAsks_out (s : State) (r : ReqSource) : (forgetAsks s r).out = s.out := rfl

/-! ### rowAfter -/

@[simp] theorem rowAfter_pending (s : State) (b : BankIx) (l : Nat) (h : PageHint) : (rowAfter s b l h).pending = s.pending := rfl
@[simp] theorem rowAfter_tick (s : State) (b : BankIx) (l : Nat) (h : PageHint) : (rowAfter s b l h).tick = s.tick := rfl
@[simp] theorem rowAfter_free (s : State) (b : BankIx) (l : Nat) (h : PageHint) : (rowAfter s b l h).free = s.free := rfl
@[simp] theorem rowAfter_mem (s : State) (b : BankIx) (l : Nat) (h : PageHint) : (rowAfter s b l h).mem = s.mem := rfl
@[simp] theorem rowAfter_log (s : State) (b : BankIx) (l : Nat) (h : PageHint) : (rowAfter s b l h).log = s.log := rfl
@[simp] theorem rowAfter_pans (s : State) (b : BankIx) (l : Nat) (h : PageHint) : (rowAfter s b l h).pans = s.pans := rfl
@[simp] theorem rowAfter_sync (s : State) (b : BankIx) (l : Nat) (h : PageHint) : (rowAfter s b l h).sync = s.sync := rfl
@[simp] theorem rowAfter_ten (s : State) (b : BankIx) (l : Nat) (h : PageHint) : (rowAfter s b l h).ten = s.ten := rfl
@[simp] theorem rowAfter_slice (s : State) (b : BankIx) (l : Nat) (h : PageHint) : (rowAfter s b l h).slice = s.slice := rfl
@[simp] theorem rowAfter_sch (s : State) (b : BankIx) (l : Nat) (h : PageHint) : (rowAfter s b l h).sch = s.sch := rfl
@[simp] theorem rowAfter_desc (s : State) (b : BankIx) (l : Nat) (h : PageHint) : (rowAfter s b l h).desc = s.desc := rfl
@[simp] theorem rowAfter_host (s : State) (b : BankIx) (l : Nat) (h : PageHint) : (rowAfter s b l h).host = s.host := rfl
@[simp] theorem rowAfter_net (s : State) (b : BankIx) (l : Nat) (h : PageHint) : (rowAfter s b l h).net = s.net := rfl
@[simp] theorem rowAfter_mir (s : State) (b : BankIx) (l : Nat) (h : PageHint) : (rowAfter s b l h).mir = s.mir := rfl
@[simp] theorem rowAfter_plc (s : State) (b : BankIx) (l : Nat) (h : PageHint) : (rowAfter s b l h).plc = s.plc := rfl
@[simp] theorem rowAfter_gov (s : State) (b : BankIx) (l : Nat) (h : PageHint) : (rowAfter s b l h).gov = s.gov := rfl
@[simp] theorem rowAfter_sen (s : State) (b : BankIx) (l : Nat) (h : PageHint) : (rowAfter s b l h).sen = s.sen := rfl
@[simp] theorem rowAfter_cal (s : State) (b : BankIx) (l : Nat) (h : PageHint) : (rowAfter s b l h).cal = s.cal := rfl
@[simp] theorem rowAfter_rst (s : State) (b : BankIx) (l : Nat) (h : PageHint) : (rowAfter s b l h).rst = s.rst := rfl
@[simp] theorem rowAfter_svc (s : State) (b : BankIx) (l : Nat) (h : PageHint) : (rowAfter s b l h).svc = s.svc := rfl
@[simp] theorem rowAfter_dbg (s : State) (b : BankIx) (l : Nat) (h : PageHint) : (rowAfter s b l h).dbg = s.dbg := rfl
@[simp] theorem rowAfter_out (s : State) (b : BankIx) (l : Nat) (h : PageHint) : (rowAfter s b l h).out = s.out := rfl

/-! ### queueColumn -/

@[simp] theorem queueColumn_pending (s : State) (b : BankIx) (l : Nat) (r : ReqSource) (h : PageHint) (d : List Byte) : (queueColumn s b l r h d).pending = s.pending := rfl
@[simp] theorem queueColumn_tick (s : State) (b : BankIx) (l : Nat) (r : ReqSource) (h : PageHint) (d : List Byte) : (queueColumn s b l r h d).tick = s.tick := rfl
@[simp] theorem queueColumn_free (s : State) (b : BankIx) (l : Nat) (r : ReqSource) (h : PageHint) (d : List Byte) : (queueColumn s b l r h d).free = s.free := rfl
@[simp] theorem queueColumn_mem (s : State) (b : BankIx) (l : Nat) (r : ReqSource) (h : PageHint) (d : List Byte) : (queueColumn s b l r h d).mem = s.mem := rfl
@[simp] theorem queueColumn_log (s : State) (b : BankIx) (l : Nat) (r : ReqSource) (h : PageHint) (d : List Byte) : (queueColumn s b l r h d).log = s.log := rfl
@[simp] theorem queueColumn_pans (s : State) (b : BankIx) (l : Nat) (r : ReqSource) (h : PageHint) (d : List Byte) : (queueColumn s b l r h d).pans = s.pans := rfl
@[simp] theorem queueColumn_sync (s : State) (b : BankIx) (l : Nat) (r : ReqSource) (h : PageHint) (d : List Byte) : (queueColumn s b l r h d).sync = s.sync := rfl
@[simp] theorem queueColumn_ten (s : State) (b : BankIx) (l : Nat) (r : ReqSource) (h : PageHint) (d : List Byte) : (queueColumn s b l r h d).ten = s.ten := rfl
@[simp] theorem queueColumn_slice (s : State) (b : BankIx) (l : Nat) (r : ReqSource) (h : PageHint) (d : List Byte) : (queueColumn s b l r h d).slice = s.slice := rfl
@[simp] theorem queueColumn_sch (s : State) (b : BankIx) (l : Nat) (r : ReqSource) (h : PageHint) (d : List Byte) : (queueColumn s b l r h d).sch = s.sch := rfl
@[simp] theorem queueColumn_desc (s : State) (b : BankIx) (l : Nat) (r : ReqSource) (h : PageHint) (d : List Byte) : (queueColumn s b l r h d).desc = s.desc := rfl
@[simp] theorem queueColumn_host (s : State) (b : BankIx) (l : Nat) (r : ReqSource) (h : PageHint) (d : List Byte) : (queueColumn s b l r h d).host = s.host := rfl
@[simp] theorem queueColumn_net (s : State) (b : BankIx) (l : Nat) (r : ReqSource) (h : PageHint) (d : List Byte) : (queueColumn s b l r h d).net = s.net := rfl
@[simp] theorem queueColumn_mir (s : State) (b : BankIx) (l : Nat) (r : ReqSource) (h : PageHint) (d : List Byte) : (queueColumn s b l r h d).mir = s.mir := rfl
@[simp] theorem queueColumn_plc (s : State) (b : BankIx) (l : Nat) (r : ReqSource) (h : PageHint) (d : List Byte) : (queueColumn s b l r h d).plc = s.plc := rfl
@[simp] theorem queueColumn_gov (s : State) (b : BankIx) (l : Nat) (r : ReqSource) (h : PageHint) (d : List Byte) : (queueColumn s b l r h d).gov = s.gov := rfl
@[simp] theorem queueColumn_sen (s : State) (b : BankIx) (l : Nat) (r : ReqSource) (h : PageHint) (d : List Byte) : (queueColumn s b l r h d).sen = s.sen := rfl
@[simp] theorem queueColumn_cal (s : State) (b : BankIx) (l : Nat) (r : ReqSource) (h : PageHint) (d : List Byte) : (queueColumn s b l r h d).cal = s.cal := rfl
@[simp] theorem queueColumn_rst (s : State) (b : BankIx) (l : Nat) (r : ReqSource) (h : PageHint) (d : List Byte) : (queueColumn s b l r h d).rst = s.rst := rfl
@[simp] theorem queueColumn_svc (s : State) (b : BankIx) (l : Nat) (r : ReqSource) (h : PageHint) (d : List Byte) : (queueColumn s b l r h d).svc = s.svc := rfl
@[simp] theorem queueColumn_dbg (s : State) (b : BankIx) (l : Nat) (r : ReqSource) (h : PageHint) (d : List Byte) : (queueColumn s b l r h d).dbg = s.dbg := rfl
@[simp] theorem queueColumn_out (s : State) (b : BankIx) (l : Nat) (r : ReqSource) (h : PageHint) (d : List Byte) : (queueColumn s b l r h d).out = s.out := rfl

/-! ### leaveSelfRefresh -/

@[simp] theorem leaveSelfRefresh_pending (s : State) (k : StackIx) : (leaveSelfRefresh s k).pending = s.pending := rfl
@[simp] theorem leaveSelfRefresh_tick (s : State) (k : StackIx) : (leaveSelfRefresh s k).tick = s.tick := rfl
@[simp] theorem leaveSelfRefresh_free (s : State) (k : StackIx) : (leaveSelfRefresh s k).free = s.free := rfl
@[simp] theorem leaveSelfRefresh_mem (s : State) (k : StackIx) : (leaveSelfRefresh s k).mem = s.mem := rfl
@[simp] theorem leaveSelfRefresh_log (s : State) (k : StackIx) : (leaveSelfRefresh s k).log = s.log := rfl
@[simp] theorem leaveSelfRefresh_pans (s : State) (k : StackIx) : (leaveSelfRefresh s k).pans = s.pans := rfl
@[simp] theorem leaveSelfRefresh_sync (s : State) (k : StackIx) : (leaveSelfRefresh s k).sync = s.sync := rfl
@[simp] theorem leaveSelfRefresh_ten (s : State) (k : StackIx) : (leaveSelfRefresh s k).ten = s.ten := rfl
@[simp] theorem leaveSelfRefresh_slice (s : State) (k : StackIx) : (leaveSelfRefresh s k).slice = s.slice := rfl
@[simp] theorem leaveSelfRefresh_sch (s : State) (k : StackIx) : (leaveSelfRefresh s k).sch = s.sch := rfl
@[simp] theorem leaveSelfRefresh_desc (s : State) (k : StackIx) : (leaveSelfRefresh s k).desc = s.desc := rfl
@[simp] theorem leaveSelfRefresh_host (s : State) (k : StackIx) : (leaveSelfRefresh s k).host = s.host := rfl
@[simp] theorem leaveSelfRefresh_net (s : State) (k : StackIx) : (leaveSelfRefresh s k).net = s.net := rfl
@[simp] theorem leaveSelfRefresh_mir (s : State) (k : StackIx) : (leaveSelfRefresh s k).mir = s.mir := rfl
@[simp] theorem leaveSelfRefresh_plc (s : State) (k : StackIx) : (leaveSelfRefresh s k).plc = s.plc := rfl
@[simp] theorem leaveSelfRefresh_gov (s : State) (k : StackIx) : (leaveSelfRefresh s k).gov = s.gov := rfl
@[simp] theorem leaveSelfRefresh_sen (s : State) (k : StackIx) : (leaveSelfRefresh s k).sen = s.sen := rfl
@[simp] theorem leaveSelfRefresh_cal (s : State) (k : StackIx) : (leaveSelfRefresh s k).cal = s.cal := rfl
@[simp] theorem leaveSelfRefresh_rst (s : State) (k : StackIx) : (leaveSelfRefresh s k).rst = s.rst := rfl
@[simp] theorem leaveSelfRefresh_svc (s : State) (k : StackIx) : (leaveSelfRefresh s k).svc = s.svc := rfl
@[simp] theorem leaveSelfRefresh_dbg (s : State) (k : StackIx) : (leaveSelfRefresh s k).dbg = s.dbg := rfl
@[simp] theorem leaveSelfRefresh_out (s : State) (k : StackIx) : (leaveSelfRefresh s k).out = s.out := rfl

/-! ### What the changed part reads as -/

@[simp] theorem modHost_host (s : State) (f : HostSt → HostSt) : (modHost s f).host = f s.host := rfl
@[simp] theorem modMir_mir (s : State) (f : MirSt → MirSt) : (modMir s f).mir = f s.mir := rfl
@[simp] theorem modRst_rst (s : State) (f : RstSt → RstSt) : (modRst s f).rst = f s.rst := rfl
@[simp] theorem modSvc_svc (s : State) (f : SvcSt → SvcSt) : (modSvc s f).svc = f s.svc := rfl
@[simp] theorem setLog_log (s : State) (l : LogSt) : (setLog s l).log = l := rfl
@[simp] theorem emit_out (s : State) (o : List Out) : (emit s o).out = s.out ++ o := rfl
@[simp] theorem usedFree_free (s : State) (n : Nat) : (usedFree s n).free = s.free + n := rfl

/-- The counts of an instance stand apart from its queue. -/
@[simp] theorem queueOf_modQErr (s : State) (n i : Nat) (f : QErr → QErr) : queueOf (modQErr s n f) i = queueOf s i := rfl

theorem queueOf_modQueue (s : State) (i j : Nat) (f : Queue → Queue) :
    queueOf (modQueue s i f) j =
      if j = i then (if crossesGray i then f (queueOf s i) else (f (queueOf s i)).settle) else queueOf s j := by
  simp only [queueOf, modQueue, tabGet_tabModify]

@[simp] theorem tenOf_setTen (s : State) (t u : TenIx) (x : Tenant) :
    tenOf (setTen s t x) u = if u = t then x else tenOf s u := by
  simp only [tenOf, setTen, tabGet_tabSet, Fin.ext_iff]

@[simp] theorem tenOf_modTen (s : State) (t u : TenIx) (f : Tenant → Tenant) :
    tenOf (modTen s t f) u = if u = t then f (tenOf s t) else tenOf s u := tenOf_setTen s t u _

@[simp] theorem schOf_modSch (s : State) (n m : SchIx) (f : SysChan → SysChan) :
    schOf (modSch s n f) m = if m = n then f (schOf s n) else schOf s m := by
  simp only [schOf, modSch, tabGet_tabModify, Fin.ext_iff]

@[simp] theorem stackOf_modStack (s : State) (k j : StackIx) (f : Stack → Stack) :
    stackOf (modStack s k f) j = if j = k then f (stackOf s k) else stackOf s j := by
  simp only [stackOf, modStack, tabGet_tabModify, Fin.ext_iff]

@[simp] theorem laneOf_modLane (s : State) (n m : LaneIx) (f : Lane → Lane) :
    laneOf (modLane s n f) m = if m = n then f (laneOf s n) else laneOf s m := by
  simp only [laneOf, modLane, tabGet_tabModify, Fin.ext_iff]

@[simp] theorem ringOf_modRing (s : State) (n m : RingIx) (f : Ring → Ring) :
    ringOf (modRing s n f) m = if m = n then f (ringOf s n) else ringOf s m := by
  simp only [ringOf, modRing, tabGet_tabModify, Fin.ext_iff]

@[simp] theorem portOf_modPort (s : State) (n m : PortIx) (f : PortSt → PortSt) :
    portOf (modPort s n f) m = if m = n then f (portOf s n) else portOf s m := by
  simp only [portOf, modPort, tabGet_tabModify, Fin.ext_iff]

@[simp] theorem unitOf_modUnit (s : State) (k j : Nat) (f : Machine.Unit → Machine.Unit) :
    unitOf (modUnit s k f) j = if j = k then f (unitOf s k) else unitOf s j := by
  simp only [unitOf, modUnit, tabGet_tabModify]

@[simp] theorem bankOf_modBank (s : State) (k j : Nat) (f : BankSt → BankSt) :
    bankOf (modBank s k f) j = if j = k then f (bankOf s k) else bankOf s j := by
  simp only [bankOf, modBank, tabGet_tabModify]

end Sys2Proof.Machine
end

