-- ==== Sys2Proof/Laws/Ops.lean ====
section
/-! SUPPORT. What the shared operations leave alone, and what those that answer by cases do. -/

namespace Sys2Proof.Machine

/-- A fold keeps what each of its steps keeps. -/
theorem foldl_keeps {α β : Type} (g : State → β) (f : State → α → State) (h : ∀ r a, g (f r a) = g r) (l : List α) (s : State) :
    g (l.foldl f s) = g s := by
  induction l generalizing s with
  | nil => rfl
  | cons a l ih => rw [List.foldl_cons, ih, h]

/-- A fold keeps a property that each of its steps keeps. -/
theorem foldl_inv {α : Type} (p : State → Prop) (f : State → α → State) (h : ∀ r a, p r → p (f r a)) (l : List α) (s : State)
    (hs : p s) : p (l.foldl f s) := by
  induction l generalizing s with
  | nil => exact hs
  | cons a l ih => exact ih _ (h s a hs)

/-! ### logEvents -/

@[simp] theorem logEvents_pending (s : State) (code : Byte) (ds : List (List Byte)) (t : Option TenIx) : (logEvents s code ds t).pending = s.pending := by
  unfold logEvents; exact foldl_keeps State.pending _ (by intros; rfl) _ _
@[simp] theorem logEvents_mem (s : State) (code : Byte) (ds : List (List Byte)) (t : Option TenIx) : (logEvents s code ds t).mem = s.mem := by
  unfold logEvents; exact foldl_keeps State.mem _ (by intros; rfl) _ _
@[simp] theorem logEvents_sync (s : State) (code : Byte) (ds : List (List Byte)) (t : Option TenIx) : (logEvents s code ds t).sync = s.sync := by
  unfold logEvents; exact foldl_keeps State.sync _ (by intros; rfl) _ _
@[simp] theorem logEvents_tick (s : State) (code : Byte) (ds : List (List Byte)) (t : Option TenIx) : (logEvents s code ds t).tick = s.tick := by
  unfold logEvents; exact foldl_keeps State.tick _ (by intros; rfl) _ _
@[simp] theorem logEvents_dbg (s : State) (code : Byte) (ds : List (List Byte)) (t : Option TenIx) : (logEvents s code ds t).dbg = s.dbg := by
  unfold logEvents; exact foldl_keeps State.dbg _ (by intros; rfl) _ _
@[simp] theorem logEvents_svc (s : State) (code : Byte) (ds : List (List Byte)) (t : Option TenIx) : (logEvents s code ds t).svc = s.svc := by
  unfold logEvents; exact foldl_keeps State.svc _ (by intros; rfl) _ _
@[simp] theorem logEvents_net (s : State) (code : Byte) (ds : List (List Byte)) (t : Option TenIx) : (logEvents s code ds t).net = s.net := by
  unfold logEvents; exact foldl_keeps State.net _ (by intros; rfl) _ _
@[simp] theorem logEvents_mir (s : State) (code : Byte) (ds : List (List Byte)) (t : Option TenIx) : (logEvents s code ds t).mir = s.mir := by
  unfold logEvents; exact foldl_keeps State.mir _ (by intros; rfl) _ _

/-! ### haltNext -/

@[simp] theorem haltNext_pending (s : State) (ts : List TenIx) (code : Byte) : (haltNext s ts code).pending = s.pending := by
  unfold haltNext; exact foldl_keeps State.pending _ (by intros; rfl) _ _
@[simp] theorem haltNext_mem (s : State) (ts : List TenIx) (code : Byte) : (haltNext s ts code).mem = s.mem := by
  unfold haltNext; exact foldl_keeps State.mem _ (by intros; rfl) _ _
@[simp] theorem haltNext_sync (s : State) (ts : List TenIx) (code : Byte) : (haltNext s ts code).sync = s.sync := by
  unfold haltNext; exact foldl_keeps State.sync _ (by intros; rfl) _ _
@[simp] theorem haltNext_tick (s : State) (ts : List TenIx) (code : Byte) : (haltNext s ts code).tick = s.tick := by
  unfold haltNext; exact foldl_keeps State.tick _ (by intros; rfl) _ _
@[simp] theorem haltNext_dbg (s : State) (ts : List TenIx) (code : Byte) : (haltNext s ts code).dbg = s.dbg := by
  unfold haltNext; exact foldl_keeps State.dbg _ (by intros; rfl) _ _
@[simp] theorem haltNext_svc (s : State) (ts : List TenIx) (code : Byte) : (haltNext s ts code).svc = s.svc := by
  unfold haltNext; exact foldl_keeps State.svc _ (by intros; rfl) _ _
@[simp] theorem haltNext_net (s : State) (ts : List TenIx) (code : Byte) : (haltNext s ts code).net = s.net := by
  unfold haltNext; exact foldl_keeps State.net _ (by intros; rfl) _ _
@[simp] theorem haltNext_mir (s : State) (ts : List TenIx) (code : Byte) : (haltNext s ts code).mir = s.mir := by
  unfold haltNext; exact foldl_keeps State.mir _ (by intros; rfl) _ _

/-! ### haltRefused -/

@[simp] theorem haltRefused_pending (s : State) (t : TenIx) (l : Fin 32) (code : Byte) : (haltRefused s t l code).pending = s.pending := rfl
@[simp] theorem haltRefused_mem (s : State) (t : TenIx) (l : Fin 32) (code : Byte) : (haltRefused s t l code).mem = s.mem := rfl
@[simp] theorem haltRefused_sync (s : State) (t : TenIx) (l : Fin 32) (code : Byte) : (haltRefused s t l code).sync = s.sync := rfl
@[simp] theorem haltRefused_tick (s : State) (t : TenIx) (l : Fin 32) (code : Byte) : (haltRefused s t l code).tick = s.tick := rfl
@[simp] theorem haltRefused_dbg (s : State) (t : TenIx) (l : Fin 32) (code : Byte) : (haltRefused s t l code).dbg = s.dbg := rfl
@[simp] theorem haltRefused_svc (s : State) (t : TenIx) (l : Fin 32) (code : Byte) : (haltRefused s t l code).svc = s.svc := rfl
@[simp] theorem haltRefused_net (s : State) (t : TenIx) (l : Fin 32) (code : Byte) : (haltRefused s t l code).net = s.net := rfl
@[simp] theorem haltRefused_mir (s : State) (t : TenIx) (l : Fin 32) (code : Byte) : (haltRefused s t l code).mir = s.mir := rfl

/-! ### addRetire -/

@[simp] theorem addRetire_pending (s : State) (e : RetireEntry) : (addRetire s e).pending = s.pending := rfl
@[simp] theorem addRetire_mem (s : State) (e : RetireEntry) : (addRetire s e).mem = s.mem := rfl
@[simp] theorem addRetire_sync (s : State) (e : RetireEntry) : (addRetire s e).sync = s.sync := rfl
@[simp] theorem addRetire_tick (s : State) (e : RetireEntry) : (addRetire s e).tick = s.tick := rfl
@[simp] theorem addRetire_dbg (s : State) (e : RetireEntry) : (addRetire s e).dbg = s.dbg := rfl
@[simp] theorem addRetire_svc (s : State) (e : RetireEntry) : (addRetire s e).svc = s.svc := rfl
@[simp] theorem addRetire_net (s : State) (e : RetireEntry) : (addRetire s e).net = s.net := rfl
@[simp] theorem addRetire_mir (s : State) (e : RetireEntry) : (addRetire s e).mir = s.mir := rfl

/-! ### writeOption -/

@[simp] theorem writeOption_pending (s : State) (f : OptBlock → OptBlock) : (writeOption s f).pending = s.pending := rfl
@[simp] theorem writeOption_mem (s : State) (f : OptBlock → OptBlock) : (writeOption s f).mem = s.mem := rfl
@[simp] theorem writeOption_sync (s : State) (f : OptBlock → OptBlock) : (writeOption s f).sync = s.sync := rfl
@[simp] theorem writeOption_tick (s : State) (f : OptBlock → OptBlock) : (writeOption s f).tick = s.tick := rfl
@[simp] theorem writeOption_dbg (s : State) (f : OptBlock → OptBlock) : (writeOption s f).dbg = s.dbg := rfl
@[simp] theorem writeOption_svc (s : State) (f : OptBlock → OptBlock) : (writeOption s f).svc = s.svc := rfl
@[simp] theorem writeOption_net (s : State) (f : OptBlock → OptBlock) : (writeOption s f).net = s.net := rfl
@[simp] theorem writeOption_mir (s : State) (f : OptBlock → OptBlock) : (writeOption s f).mir = s.mir := rfl

/-! ### addMove -/

@[simp] theorem addMove_pending (s : State) (t : TenIx) (m : MoveWhat) : (addMove s t m).pending = s.pending := rfl
@[simp] theorem addMove_mem (s : State) (t : TenIx) (m : MoveWhat) : (addMove s t m).mem = s.mem := rfl
@[simp] theorem addMove_sync (s : State) (t : TenIx) (m : MoveWhat) : (addMove s t m).sync = s.sync := rfl
@[simp] theorem addMove_tick (s : State) (t : TenIx) (m : MoveWhat) : (addMove s t m).tick = s.tick := rfl
@[simp] theorem addMove_dbg (s : State) (t : TenIx) (m : MoveWhat) : (addMove s t m).dbg = s.dbg := rfl
@[simp] theorem addMove_svc (s : State) (t : TenIx) (m : MoveWhat) : (addMove s t m).svc = s.svc := rfl
@[simp] theorem addMove_net (s : State) (t : TenIx) (m : MoveWhat) : (addMove s t m).net = s.net := rfl
@[simp] theorem addMove_mir (s : State) (t : TenIx) (m : MoveWhat) : (addMove s t m).mir = s.mir := rfl

/-! ### movePan -/

@[simp] theorem movePan_pending (s : State) (p : PanIx) (t : TenIx) : (movePan s p t).pending = s.pending := by
  unfold movePan; split <;> rfl
@[simp] theorem movePan_mem (s : State) (p : PanIx) (t : TenIx) : (movePan s p t).mem = s.mem := by
  unfold movePan; split <;> rfl
@[simp] theorem movePan_sync (s : State) (p : PanIx) (t : TenIx) : (movePan s p t).sync = s.sync := by
  unfold movePan; split <;> rfl
@[simp] theorem movePan_tick (s : State) (p : PanIx) (t : TenIx) : (movePan s p t).tick = s.tick := by
  unfold movePan; split <;> rfl
@[simp] theorem movePan_dbg (s : State) (p : PanIx) (t : TenIx) : (movePan s p t).dbg = s.dbg := by
  unfold movePan; split <;> rfl
@[simp] theorem movePan_svc (s : State) (p : PanIx) (t : TenIx) : (movePan s p t).svc = s.svc := by
  unfold movePan; split <;> rfl
@[simp] theorem movePan_net (s : State) (p : PanIx) (t : TenIx) : (movePan s p t).net = s.net := by
  unfold movePan; split <;> rfl
@[simp] theorem movePan_mir (s : State) (p : PanIx) (t : TenIx) : (movePan s p t).mir = s.mir := by
  unfold movePan; split <;> rfl

/-! ### recallPans -/

@[simp] theorem recallPans_pending (s : State) (q : PanIx) : (recallPans s q).pending = s.pending :=
  foldl_keeps State.pending _ (fun _ _ => foldl_keeps State.pending _ (fun r a => by simp) _ _) _ _
@[simp] theorem recallPans_mem (s : State) (q : PanIx) : (recallPans s q).mem = s.mem :=
  foldl_keeps State.mem _ (fun _ _ => foldl_keeps State.mem _ (fun r a => by simp) _ _) _ _
@[simp] theorem recallPans_sync (s : State) (q : PanIx) : (recallPans s q).sync = s.sync :=
  foldl_keeps State.sync _ (fun _ _ => foldl_keeps State.sync _ (fun r a => by simp) _ _) _ _
@[simp] theorem recallPans_tick (s : State) (q : PanIx) : (recallPans s q).tick = s.tick :=
  foldl_keeps State.tick _ (fun _ _ => foldl_keeps State.tick _ (fun r a => by simp) _ _) _ _
@[simp] theorem recallPans_dbg (s : State) (q : PanIx) : (recallPans s q).dbg = s.dbg :=
  foldl_keeps State.dbg _ (fun _ _ => foldl_keeps State.dbg _ (fun r a => by simp) _ _) _ _
@[simp] theorem recallPans_svc (s : State) (q : PanIx) : (recallPans s q).svc = s.svc :=
  foldl_keeps State.svc _ (fun _ _ => foldl_keeps State.svc _ (fun r a => by simp) _ _) _ _
@[simp] theorem recallPans_net (s : State) (q : PanIx) : (recallPans s q).net = s.net :=
  foldl_keeps State.net _ (fun _ _ => foldl_keeps State.net _ (fun r a => by simp) _ _) _ _
@[simp] theorem recallPans_mir (s : State) (q : PanIx) : (recallPans s q).mir = s.mir :=
  foldl_keeps State.mir _ (fun _ _ => foldl_keeps State.mir _ (fun r a => by simp) _ _) _ _

/-! ### retirePan -/

@[simp] theorem retirePan_pending (s : State) (p : PanIx) (c : BitVec 4) : (retirePan s p c).pending = s.pending := by
  have h := fun l r => foldl_keeps State.pending (fun r t => movePan r p t) (fun r t => movePan_pending r p t) l r
  unfold retirePan
  dsimp only
  split
  · rfl
  · split <;> simp [h]
@[simp] theorem retirePan_mem (s : State) (p : PanIx) (c : BitVec 4) : (retirePan s p c).mem = s.mem := by
  have h := fun l r => foldl_keeps State.mem (fun r t => movePan r p t) (fun r t => movePan_mem r p t) l r
  unfold retirePan
  dsimp only
  split
  · rfl
  · split <;> simp [h]
@[simp] theorem retirePan_sync (s : State) (p : PanIx) (c : BitVec 4) : (retirePan s p c).sync = s.sync := by
  have h := fun l r => foldl_keeps State.sync (fun r t => movePan r p t) (fun r t => movePan_sync r p t) l r
  unfold retirePan
  dsimp only
  split
  · rfl
  · split <;> simp [h]
@[simp] theorem retirePan_tick (s : State) (p : PanIx) (c : BitVec 4) : (retirePan s p c).tick = s.tick := by
  have h := fun l r => foldl_keeps State.tick (fun r t => movePan r p t) (fun r t => movePan_tick r p t) l r
  unfold retirePan
  dsimp only
  split
  · rfl
  · split <;> simp [h]
@[simp] theorem retirePan_dbg (s : State) (p : PanIx) (c : BitVec 4) : (retirePan s p c).dbg = s.dbg := by
  have h := fun l r => foldl_keeps State.dbg (fun r t => movePan r p t) (fun r t => movePan_dbg r p t) l r
  unfold retirePan
  dsimp only
  split
  · rfl
  · split <;> simp [h]
@[simp] theorem retirePan_svc (s : State) (p : PanIx) (c : BitVec 4) : (retirePan s p c).svc = s.svc := by
  have h := fun l r => foldl_keeps State.svc (fun r t => movePan r p t) (fun r t => movePan_svc r p t) l r
  unfold retirePan
  dsimp only
  split
  · rfl
  · split <;> simp [h]
@[simp] theorem retirePan_net (s : State) (p : PanIx) (c : BitVec 4) : (retirePan s p c).net = s.net := by
  have h := fun l r => foldl_keeps State.net (fun r t => movePan r p t) (fun r t => movePan_net r p t) l r
  unfold retirePan
  dsimp only
  split
  · rfl
  · split <;> simp [h]
@[simp] theorem retirePan_mir (s : State) (p : PanIx) (c : BitVec 4) : (retirePan s p c).mir = s.mir := by
  have h := fun l r => foldl_keeps State.mir (fun r t => movePan r p t) (fun r t => movePan_mir r p t) l r
  unfold retirePan
  dsimp only
  split
  · rfl
  · split <;> simp [h]

/-! ### startBankMoves -/

@[simp] theorem startBankMoves_pending (s : State) (ms : List (BankIx × BankIx)) : (startBankMoves s ms).pending = s.pending := by
  unfold startBankMoves
  exact (foldl_keeps State.pending _ (by intros; exact foldl_keeps State.pending _ (by intros; rfl) _ _) _ _).trans rfl
@[simp] theorem startBankMoves_mem (s : State) (ms : List (BankIx × BankIx)) : (startBankMoves s ms).mem = s.mem := by
  unfold startBankMoves
  exact (foldl_keeps State.mem _ (by intros; exact foldl_keeps State.mem _ (by intros; rfl) _ _) _ _).trans rfl
@[simp] theorem startBankMoves_sync (s : State) (ms : List (BankIx × BankIx)) : (startBankMoves s ms).sync = s.sync := by
  unfold startBankMoves
  exact (foldl_keeps State.sync _ (by intros; exact foldl_keeps State.sync _ (by intros; rfl) _ _) _ _).trans rfl
@[simp] theorem startBankMoves_tick (s : State) (ms : List (BankIx × BankIx)) : (startBankMoves s ms).tick = s.tick := by
  unfold startBankMoves
  exact (foldl_keeps State.tick _ (by intros; exact foldl_keeps State.tick _ (by intros; rfl) _ _) _ _).trans rfl
@[simp] theorem startBankMoves_dbg (s : State) (ms : List (BankIx × BankIx)) : (startBankMoves s ms).dbg = s.dbg := by
  unfold startBankMoves
  exact (foldl_keeps State.dbg _ (by intros; exact foldl_keeps State.dbg _ (by intros; rfl) _ _) _ _).trans rfl
@[simp] theorem startBankMoves_svc (s : State) (ms : List (BankIx × BankIx)) : (startBankMoves s ms).svc = s.svc := by
  unfold startBankMoves
  exact (foldl_keeps State.svc _ (by intros; exact foldl_keeps State.svc _ (by intros; rfl) _ _) _ _).trans rfl
@[simp] theorem startBankMoves_net (s : State) (ms : List (BankIx × BankIx)) : (startBankMoves s ms).net = s.net := by
  unfold startBankMoves
  exact (foldl_keeps State.net _ (by intros; exact foldl_keeps State.net _ (by intros; rfl) _ _) _ _).trans rfl
@[simp] theorem startBankMoves_mir (s : State) (ms : List (BankIx × BankIx)) : (startBankMoves s ms).mir = s.mir := by
  unfold startBankMoves
  exact (foldl_keeps State.mir _ (by intros; exact foldl_keeps State.mir _ (by intros; rfl) _ _) _ _).trans rfl

/-! ### relocateBank -/

@[simp] theorem relocateBank_pending (s : State) (b : BankIx) (d : List Byte) : (relocateBank s b d).pending = s.pending := by
  unfold relocateBank
  split
  · rfl
  · split
    · simp
    · dsimp only
      split <;> simp
@[simp] theorem relocateBank_mem (s : State) (b : BankIx) (d : List Byte) : (relocateBank s b d).mem = s.mem := by
  unfold relocateBank
  split
  · rfl
  · split
    · simp
    · dsimp only
      split <;> simp
@[simp] theorem relocateBank_sync (s : State) (b : BankIx) (d : List Byte) : (relocateBank s b d).sync = s.sync := by
  unfold relocateBank
  split
  · rfl
  · split
    · simp
    · dsimp only
      split <;> simp
@[simp] theorem relocateBank_tick (s : State) (b : BankIx) (d : List Byte) : (relocateBank s b d).tick = s.tick := by
  unfold relocateBank
  split
  · rfl
  · split
    · simp
    · dsimp only
      split <;> simp
@[simp] theorem relocateBank_dbg (s : State) (b : BankIx) (d : List Byte) : (relocateBank s b d).dbg = s.dbg := by
  unfold relocateBank
  split
  · rfl
  · split
    · simp
    · dsimp only
      split <;> simp
@[simp] theorem relocateBank_svc (s : State) (b : BankIx) (d : List Byte) : (relocateBank s b d).svc = s.svc := by
  unfold relocateBank
  split
  · rfl
  · split
    · simp
    · dsimp only
      split <;> simp
@[simp] theorem relocateBank_net (s : State) (b : BankIx) (d : List Byte) : (relocateBank s b d).net = s.net := by
  unfold relocateBank
  split
  · rfl
  · split
    · simp
    · dsimp only
      split <;> simp
@[simp] theorem relocateBank_mir (s : State) (b : BankIx) (d : List Byte) : (relocateBank s b d).mir = s.mir := by
  unfold relocateBank
  split
  · rfl
  · split
    · simp
    · dsimp only
      split <;> simp

/-! ### recallMoves -/

@[simp] theorem recallMoves_pending (s : State) (c : BankIx) (d : List Byte) : (recallMoves s c d).pending = s.pending := by
  unfold recallMoves
  dsimp only
  split
  · rfl
  · exact (foldl_keeps State.pending _ (by intros; split <;> simp) _ _).trans (foldl_keeps State.pending _ (by intros; rfl) _ _)
@[simp] theorem recallMoves_mem (s : State) (c : BankIx) (d : List Byte) : (recallMoves s c d).mem = s.mem := by
  unfold recallMoves
  dsimp only
  split
  · rfl
  · exact (foldl_keeps State.mem _ (by intros; split <;> simp) _ _).trans (foldl_keeps State.mem _ (by intros; rfl) _ _)
@[simp] theorem recallMoves_sync (s : State) (c : BankIx) (d : List Byte) : (recallMoves s c d).sync = s.sync := by
  unfold recallMoves
  dsimp only
  split
  · rfl
  · exact (foldl_keeps State.sync _ (by intros; split <;> simp) _ _).trans (foldl_keeps State.sync _ (by intros; rfl) _ _)
@[simp] theorem recallMoves_tick (s : State) (c : BankIx) (d : List Byte) : (recallMoves s c d).tick = s.tick := by
  unfold recallMoves
  dsimp only
  split
  · rfl
  · exact (foldl_keeps State.tick _ (by intros; split <;> simp) _ _).trans (foldl_keeps State.tick _ (by intros; rfl) _ _)
@[simp] theorem recallMoves_dbg (s : State) (c : BankIx) (d : List Byte) : (recallMoves s c d).dbg = s.dbg := by
  unfold recallMoves
  dsimp only
  split
  · rfl
  · exact (foldl_keeps State.dbg _ (by intros; split <;> simp) _ _).trans (foldl_keeps State.dbg _ (by intros; rfl) _ _)
@[simp] theorem recallMoves_svc (s : State) (c : BankIx) (d : List Byte) : (recallMoves s c d).svc = s.svc := by
  unfold recallMoves
  dsimp only
  split
  · rfl
  · exact (foldl_keeps State.svc _ (by intros; split <;> simp) _ _).trans (foldl_keeps State.svc _ (by intros; rfl) _ _)
@[simp] theorem recallMoves_net (s : State) (c : BankIx) (d : List Byte) : (recallMoves s c d).net = s.net := by
  unfold recallMoves
  dsimp only
  split
  · rfl
  · exact (foldl_keeps State.net _ (by intros; split <;> simp) _ _).trans (foldl_keeps State.net _ (by intros; rfl) _ _)
@[simp] theorem recallMoves_mir (s : State) (c : BankIx) (d : List Byte) : (recallMoves s c d).mir = s.mir := by
  unfold recallMoves
  dsimp only
  split
  · rfl
  · exact (foldl_keeps State.mir _ (by intros; split <;> simp) _ _).trans (foldl_keeps State.mir _ (by intros; rfl) _ _)

/-! ### retireBankWith -/

@[simp] theorem retireBankWith_pending (s : State) (u : Bool) (b : BankIx) (c : BitVec 4) :
    (retireBankWith u s b c).pending = s.pending := by
  have h := fun j l r => foldl_keeps State.pending (fun r t => addMove r t (.spare b j)) (fun r t => addMove_pending r t (.spare b j)) l r
  unfold retireBankWith
  dsimp only
  split
  · rfl
  · split <;> simp [h]
@[simp] theorem retireBankWith_mem (s : State) (u : Bool) (b : BankIx) (c : BitVec 4) :
    (retireBankWith u s b c).mem = s.mem := by
  have h := fun j l r => foldl_keeps State.mem (fun r t => addMove r t (.spare b j)) (fun r t => addMove_mem r t (.spare b j)) l r
  unfold retireBankWith
  dsimp only
  split
  · rfl
  · split <;> simp [h]
@[simp] theorem retireBankWith_sync (s : State) (u : Bool) (b : BankIx) (c : BitVec 4) :
    (retireBankWith u s b c).sync = s.sync := by
  have h := fun j l r => foldl_keeps State.sync (fun r t => addMove r t (.spare b j)) (fun r t => addMove_sync r t (.spare b j)) l r
  unfold retireBankWith
  dsimp only
  split
  · rfl
  · split <;> simp [h]
@[simp] theorem retireBankWith_tick (s : State) (u : Bool) (b : BankIx) (c : BitVec 4) :
    (retireBankWith u s b c).tick = s.tick := by
  have h := fun j l r => foldl_keeps State.tick (fun r t => addMove r t (.spare b j)) (fun r t => addMove_tick r t (.spare b j)) l r
  unfold retireBankWith
  dsimp only
  split
  · rfl
  · split <;> simp [h]
@[simp] theorem retireBankWith_dbg (s : State) (u : Bool) (b : BankIx) (c : BitVec 4) :
    (retireBankWith u s b c).dbg = s.dbg := by
  have h := fun j l r => foldl_keeps State.dbg (fun r t => addMove r t (.spare b j)) (fun r t => addMove_dbg r t (.spare b j)) l r
  unfold retireBankWith
  dsimp only
  split
  · rfl
  · split <;> simp [h]
@[simp] theorem retireBankWith_svc (s : State) (u : Bool) (b : BankIx) (c : BitVec 4) :
    (retireBankWith u s b c).svc = s.svc := by
  have h := fun j l r => foldl_keeps State.svc (fun r t => addMove r t (.spare b j)) (fun r t => addMove_svc r t (.spare b j)) l r
  unfold retireBankWith
  dsimp only
  split
  · rfl
  · split <;> simp [h]
@[simp] theorem retireBankWith_net (s : State) (u : Bool) (b : BankIx) (c : BitVec 4) :
    (retireBankWith u s b c).net = s.net := by
  have h := fun j l r => foldl_keeps State.net (fun r t => addMove r t (.spare b j)) (fun r t => addMove_net r t (.spare b j)) l r
  unfold retireBankWith
  dsimp only
  split
  · rfl
  · split <;> simp [h]
@[simp] theorem retireBankWith_mir (s : State) (u : Bool) (b : BankIx) (c : BitVec 4) :
    (retireBankWith u s b c).mir = s.mir := by
  have h := fun j l r => foldl_keeps State.mir (fun r t => addMove r t (.spare b j)) (fun r t => addMove_mir r t (.spare b j)) l r
  unfold retireBankWith
  dsimp only
  split
  · rfl
  · split <;> simp [h]

/-! ### retireBank -/

@[simp] theorem retireBank_pending (s : State) (b : BankIx) (c : BitVec 4) : (retireBank s b c).pending = s.pending := retireBankWith_pending s _ b c
@[simp] theorem retireBank_mem (s : State) (b : BankIx) (c : BitVec 4) : (retireBank s b c).mem = s.mem := retireBankWith_mem s _ b c
@[simp] theorem retireBank_sync (s : State) (b : BankIx) (c : BitVec 4) : (retireBank s b c).sync = s.sync := retireBankWith_sync s _ b c
@[simp] theorem retireBank_tick (s : State) (b : BankIx) (c : BitVec 4) : (retireBank s b c).tick = s.tick := retireBankWith_tick s _ b c
@[simp] theorem retireBank_dbg (s : State) (b : BankIx) (c : BitVec 4) : (retireBank s b c).dbg = s.dbg := retireBankWith_dbg s _ b c
@[simp] theorem retireBank_svc (s : State) (b : BankIx) (c : BitVec 4) : (retireBank s b c).svc = s.svc := retireBankWith_svc s _ b c
@[simp] theorem retireBank_net (s : State) (b : BankIx) (c : BitVec 4) : (retireBank s b c).net = s.net := retireBankWith_net s _ b c
@[simp] theorem retireBank_mir (s : State) (b : BankIx) (c : BitVec 4) : (retireBank s b c).mir = s.mir := retireBankWith_mir s _ b c

/-! ### placerCount -/

@[simp] theorem placerCount_pending (s : State) (k : Nat) : (placerCount s k).pending = s.pending := by
  unfold placerCount
  dsimp only
  split
  · split <;> simp
  · split <;> simp
  · rfl
@[simp] theorem placerCount_mem (s : State) (k : Nat) : (placerCount s k).mem = s.mem := by
  unfold placerCount
  dsimp only
  split
  · split <;> simp
  · split <;> simp
  · rfl
@[simp] theorem placerCount_sync (s : State) (k : Nat) : (placerCount s k).sync = s.sync := by
  unfold placerCount
  dsimp only
  split
  · split <;> simp
  · split <;> simp
  · rfl
@[simp] theorem placerCount_tick (s : State) (k : Nat) : (placerCount s k).tick = s.tick := by
  unfold placerCount
  dsimp only
  split
  · split <;> simp
  · split <;> simp
  · rfl
@[simp] theorem placerCount_dbg (s : State) (k : Nat) : (placerCount s k).dbg = s.dbg := by
  unfold placerCount
  dsimp only
  split
  · split <;> simp
  · split <;> simp
  · rfl
@[simp] theorem placerCount_svc (s : State) (k : Nat) : (placerCount s k).svc = s.svc := by
  unfold placerCount
  dsimp only
  split
  · split <;> simp
  · split <;> simp
  · rfl
@[simp] theorem placerCount_net (s : State) (k : Nat) : (placerCount s k).net = s.net := by
  unfold placerCount
  dsimp only
  split
  · split <;> simp
  · split <;> simp
  · rfl
@[simp] theorem placerCount_mir (s : State) (k : Nat) : (placerCount s k).mir = s.mir := by
  unfold placerCount
  dsimp only
  split
  · split <;> simp
  · split <;> simp
  · rfl

/-! ### logWord -/

@[simp] theorem logWord_pending (s : State) (code : Byte) (k : Nat) (d : Decoded) (t : Option TenIx) : (logWord s code k d t).pending = s.pending := by
  unfold logWord
  split
  · rfl
  · simp
  · split <;> simp
@[simp] theorem logWord_mem (s : State) (code : Byte) (k : Nat) (d : Decoded) (t : Option TenIx) : (logWord s code k d t).mem = s.mem := by
  unfold logWord
  split
  · rfl
  · simp
  · split <;> simp
@[simp] theorem logWord_sync (s : State) (code : Byte) (k : Nat) (d : Decoded) (t : Option TenIx) : (logWord s code k d t).sync = s.sync := by
  unfold logWord
  split
  · rfl
  · simp
  · split <;> simp
@[simp] theorem logWord_tick (s : State) (code : Byte) (k : Nat) (d : Decoded) (t : Option TenIx) : (logWord s code k d t).tick = s.tick := by
  unfold logWord
  split
  · rfl
  · simp
  · split <;> simp
@[simp] theorem logWord_dbg (s : State) (code : Byte) (k : Nat) (d : Decoded) (t : Option TenIx) : (logWord s code k d t).dbg = s.dbg := by
  unfold logWord
  split
  · rfl
  · simp
  · split <;> simp
@[simp] theorem logWord_svc (s : State) (code : Byte) (k : Nat) (d : Decoded) (t : Option TenIx) : (logWord s code k d t).svc = s.svc := by
  unfold logWord
  split
  · rfl
  · simp
  · split <;> simp
@[simp] theorem logWord_net (s : State) (code : Byte) (k : Nat) (d : Decoded) (t : Option TenIx) : (logWord s code k d t).net = s.net := by
  unfold logWord
  split
  · rfl
  · simp
  · split <;> simp
@[simp] theorem logWord_mir (s : State) (code : Byte) (k : Nat) (d : Decoded) (t : Option TenIx) : (logWord s code k d t).mir = s.mir := by
  unfold logWord
  split
  · rfl
  · simp
  · split <;> simp

/-! ### noteWord -/

@[simp] theorem noteWord_pending (s : State) (code : Byte) (k : Nat) (d : Decoded) (t : Option TenIx) : (noteWord s code k d t).pending = s.pending := by
  unfold noteWord; split <;> simp
@[simp] theorem noteWord_mem (s : State) (code : Byte) (k : Nat) (d : Decoded) (t : Option TenIx) : (noteWord s code k d t).mem = s.mem := by
  unfold noteWord; split <;> simp
@[simp] theorem noteWord_sync (s : State) (code : Byte) (k : Nat) (d : Decoded) (t : Option TenIx) : (noteWord s code k d t).sync = s.sync := by
  unfold noteWord; split <;> simp
@[simp] theorem noteWord_tick (s : State) (code : Byte) (k : Nat) (d : Decoded) (t : Option TenIx) : (noteWord s code k d t).tick = s.tick := by
  unfold noteWord; split <;> simp
@[simp] theorem noteWord_dbg (s : State) (code : Byte) (k : Nat) (d : Decoded) (t : Option TenIx) : (noteWord s code k d t).dbg = s.dbg := by
  unfold noteWord; split <;> simp
@[simp] theorem noteWord_svc (s : State) (code : Byte) (k : Nat) (d : Decoded) (t : Option TenIx) : (noteWord s code k d t).svc = s.svc := by
  unfold noteWord; split <;> simp
@[simp] theorem noteWord_net (s : State) (code : Byte) (k : Nat) (d : Decoded) (t : Option TenIx) : (noteWord s code k d t).net = s.net := by
  unfold noteWord; split <;> simp
@[simp] theorem noteWord_mir (s : State) (code : Byte) (k : Nat) (d : Decoded) (t : Option TenIx) : (noteWord s code k d t).mir = s.mir := by
  unfold noteWord; split <;> simp

/-! ### noteWords -/

@[simp] theorem noteWords_pending (s : State) (code : Byte) (ws : List (Nat × Decoded)) (t : Option TenIx) : (noteWords s code ws t).pending = s.pending := by
  unfold noteWords; exact foldl_keeps State.pending _ (by intros; simp) _ _
@[simp] theorem noteWords_mem (s : State) (code : Byte) (ws : List (Nat × Decoded)) (t : Option TenIx) : (noteWords s code ws t).mem = s.mem := by
  unfold noteWords; exact foldl_keeps State.mem _ (by intros; simp) _ _
@[simp] theorem noteWords_sync (s : State) (code : Byte) (ws : List (Nat × Decoded)) (t : Option TenIx) : (noteWords s code ws t).sync = s.sync := by
  unfold noteWords; exact foldl_keeps State.sync _ (by intros; simp) _ _
@[simp] theorem noteWords_tick (s : State) (code : Byte) (ws : List (Nat × Decoded)) (t : Option TenIx) : (noteWords s code ws t).tick = s.tick := by
  unfold noteWords; exact foldl_keeps State.tick _ (by intros; simp) _ _
@[simp] theorem noteWords_dbg (s : State) (code : Byte) (ws : List (Nat × Decoded)) (t : Option TenIx) : (noteWords s code ws t).dbg = s.dbg := by
  unfold noteWords; exact foldl_keeps State.dbg _ (by intros; simp) _ _
@[simp] theorem noteWords_svc (s : State) (code : Byte) (ws : List (Nat × Decoded)) (t : Option TenIx) : (noteWords s code ws t).svc = s.svc := by
  unfold noteWords; exact foldl_keeps State.svc _ (by intros; simp) _ _
@[simp] theorem noteWords_net (s : State) (code : Byte) (ws : List (Nat × Decoded)) (t : Option TenIx) : (noteWords s code ws t).net = s.net := by
  unfold noteWords; exact foldl_keeps State.net _ (by intros; simp) _ _
@[simp] theorem noteWords_mir (s : State) (code : Byte) (ws : List (Nat × Decoded)) (t : Option TenIx) : (noteWords s code ws t).mir = s.mir := by
  unfold noteWords; exact foldl_keeps State.mir _ (by intros; simp) _ _

/-! ### noteColumn -/

@[simp] theorem noteColumn_pending (s : State) (code : Byte) (ws : List (Nat × Decoded)) (t : Option TenIx) : (noteColumn s code ws t).pending = s.pending := by
  unfold noteColumn; exact (foldl_keeps State.pending _ (by intros; simp) _ _).trans rfl
@[simp] theorem noteColumn_mem (s : State) (code : Byte) (ws : List (Nat × Decoded)) (t : Option TenIx) : (noteColumn s code ws t).mem = s.mem := by
  unfold noteColumn; exact (foldl_keeps State.mem _ (by intros; simp) _ _).trans rfl
@[simp] theorem noteColumn_sync (s : State) (code : Byte) (ws : List (Nat × Decoded)) (t : Option TenIx) : (noteColumn s code ws t).sync = s.sync := by
  unfold noteColumn; exact (foldl_keeps State.sync _ (by intros; simp) _ _).trans rfl
@[simp] theorem noteColumn_tick (s : State) (code : Byte) (ws : List (Nat × Decoded)) (t : Option TenIx) : (noteColumn s code ws t).tick = s.tick := by
  unfold noteColumn; exact (foldl_keeps State.tick _ (by intros; simp) _ _).trans rfl
@[simp] theorem noteColumn_dbg (s : State) (code : Byte) (ws : List (Nat × Decoded)) (t : Option TenIx) : (noteColumn s code ws t).dbg = s.dbg := by
  unfold noteColumn; exact (foldl_keeps State.dbg _ (by intros; simp) _ _).trans rfl
@[simp] theorem noteColumn_svc (s : State) (code : Byte) (ws : List (Nat × Decoded)) (t : Option TenIx) : (noteColumn s code ws t).svc = s.svc := by
  unfold noteColumn; exact (foldl_keeps State.svc _ (by intros; simp) _ _).trans rfl
@[simp] theorem noteColumn_net (s : State) (code : Byte) (ws : List (Nat × Decoded)) (t : Option TenIx) : (noteColumn s code ws t).net = s.net := by
  unfold noteColumn; exact (foldl_keeps State.net _ (by intros; simp) _ _).trans rfl
@[simp] theorem noteColumn_mir (s : State) (code : Byte) (ws : List (Nat × Decoded)) (t : Option TenIx) : (noteColumn s code ws t).mir = s.mir := by
  unfold noteColumn; exact (foldl_keeps State.mir _ (by intros; simp) _ _).trans rfl

/-! ### trapPan -/

@[simp] theorem trapPan_pending (s : State) (p : PanIx) (c : BitVec 4) (sl : BitVec 2) (pc a : Dword) (late : Bool) : (trapPan s p c sl pc a late).pending = s.pending := by
  unfold trapPan; dsimp only; split <;> simp
@[simp] theorem trapPan_mem (s : State) (p : PanIx) (c : BitVec 4) (sl : BitVec 2) (pc a : Dword) (late : Bool) : (trapPan s p c sl pc a late).mem = s.mem := by
  unfold trapPan; dsimp only; split <;> simp
@[simp] theorem trapPan_sync (s : State) (p : PanIx) (c : BitVec 4) (sl : BitVec 2) (pc a : Dword) (late : Bool) : (trapPan s p c sl pc a late).sync = s.sync := by
  unfold trapPan; dsimp only; split <;> simp
@[simp] theorem trapPan_tick (s : State) (p : PanIx) (c : BitVec 4) (sl : BitVec 2) (pc a : Dword) (late : Bool) : (trapPan s p c sl pc a late).tick = s.tick := by
  unfold trapPan; dsimp only; split <;> simp
@[simp] theorem trapPan_dbg (s : State) (p : PanIx) (c : BitVec 4) (sl : BitVec 2) (pc a : Dword) (late : Bool) : (trapPan s p c sl pc a late).dbg = s.dbg := by
  unfold trapPan; dsimp only; split <;> simp
@[simp] theorem trapPan_svc (s : State) (p : PanIx) (c : BitVec 4) (sl : BitVec 2) (pc a : Dword) (late : Bool) : (trapPan s p c sl pc a late).svc = s.svc := by
  unfold trapPan; dsimp only; split <;> simp
@[simp] theorem trapPan_net (s : State) (p : PanIx) (c : BitVec 4) (sl : BitVec 2) (pc a : Dword) (late : Bool) : (trapPan s p c sl pc a late).net = s.net := by
  unfold trapPan; dsimp only; split <;> simp
@[simp] theorem trapPan_mir (s : State) (p : PanIx) (c : BitVec 4) (sl : BitVec 2) (pc a : Dword) (late : Bool) : (trapPan s p c sl pc a late).mir = s.mir := by
  unfold trapPan; dsimp only; split <;> simp

/-! ### retryDegraded -/

@[simp] theorem retryBank_pending (s : State) (b : BankIx) : (retryBank s b).pending = s.pending := by
  unfold retryBank
  split
  · rfl
  · split <;> simp
@[simp] theorem retryPan_pending (s : State) (p : PanIx) : (retryPan s p).pending = s.pending := by
  have h := fun q l r => foldl_keeps State.pending (fun r t => addMove r t (.pan p q)) (fun r t => addMove_pending r t (.pan p q)) l r
  unfold retryPan
  dsimp only
  split
  · rfl
  · split <;> simp [h]
@[simp] theorem retryDegraded_pending (s : State) : (retryDegraded s).pending = s.pending :=
  (foldl_keeps State.pending retryPan (fun r p => retryPan_pending r p) _ _).trans
    (foldl_keeps State.pending retryBank (fun r b => retryBank_pending r b) _ _)
@[simp] theorem retryBank_mem (s : State) (b : BankIx) : (retryBank s b).mem = s.mem := by
  unfold retryBank
  split
  · rfl
  · split <;> simp
@[simp] theorem retryPan_mem (s : State) (p : PanIx) : (retryPan s p).mem = s.mem := by
  have h := fun q l r => foldl_keeps State.mem (fun r t => addMove r t (.pan p q)) (fun r t => addMove_mem r t (.pan p q)) l r
  unfold retryPan
  dsimp only
  split
  · rfl
  · split <;> simp [h]
@[simp] theorem retryDegraded_mem (s : State) : (retryDegraded s).mem = s.mem :=
  (foldl_keeps State.mem retryPan (fun r p => retryPan_mem r p) _ _).trans
    (foldl_keeps State.mem retryBank (fun r b => retryBank_mem r b) _ _)
@[simp] theorem retryBank_sync (s : State) (b : BankIx) : (retryBank s b).sync = s.sync := by
  unfold retryBank
  split
  · rfl
  · split <;> simp
@[simp] theorem retryPan_sync (s : State) (p : PanIx) : (retryPan s p).sync = s.sync := by
  have h := fun q l r => foldl_keeps State.sync (fun r t => addMove r t (.pan p q)) (fun r t => addMove_sync r t (.pan p q)) l r
  unfold retryPan
  dsimp only
  split
  · rfl
  · split <;> simp [h]
@[simp] theorem retryDegraded_sync (s : State) : (retryDegraded s).sync = s.sync :=
  (foldl_keeps State.sync retryPan (fun r p => retryPan_sync r p) _ _).trans
    (foldl_keeps State.sync retryBank (fun r b => retryBank_sync r b) _ _)
@[simp] theorem retryBank_tick (s : State) (b : BankIx) : (retryBank s b).tick = s.tick := by
  unfold retryBank
  split
  · rfl
  · split <;> simp
@[simp] theorem retryPan_tick (s : State) (p : PanIx) : (retryPan s p).tick = s.tick := by
  have h := fun q l r => foldl_keeps State.tick (fun r t => addMove r t (.pan p q)) (fun r t => addMove_tick r t (.pan p q)) l r
  unfold retryPan
  dsimp only
  split
  · rfl
  · split <;> simp [h]
@[simp] theorem retryDegraded_tick (s : State) : (retryDegraded s).tick = s.tick :=
  (foldl_keeps State.tick retryPan (fun r p => retryPan_tick r p) _ _).trans
    (foldl_keeps State.tick retryBank (fun r b => retryBank_tick r b) _ _)
@[simp] theorem retryBank_dbg (s : State) (b : BankIx) : (retryBank s b).dbg = s.dbg := by
  unfold retryBank
  split
  · rfl
  · split <;> simp
@[simp] theorem retryPan_dbg (s : State) (p : PanIx) : (retryPan s p).dbg = s.dbg := by
  have h := fun q l r => foldl_keeps State.dbg (fun r t => addMove r t (.pan p q)) (fun r t => addMove_dbg r t (.pan p q)) l r
  unfold retryPan
  dsimp only
  split
  · rfl
  · split <;> simp [h]
@[simp] theorem retryDegraded_dbg (s : State) : (retryDegraded s).dbg = s.dbg :=
  (foldl_keeps State.dbg retryPan (fun r p => retryPan_dbg r p) _ _).trans
    (foldl_keeps State.dbg retryBank (fun r b => retryBank_dbg r b) _ _)
@[simp] theorem retryBank_svc (s : State) (b : BankIx) : (retryBank s b).svc = s.svc := by
  unfold retryBank
  split
  · rfl
  · split <;> simp
@[simp] theorem retryPan_svc (s : State) (p : PanIx) : (retryPan s p).svc = s.svc := by
  have h := fun q l r => foldl_keeps State.svc (fun r t => addMove r t (.pan p q)) (fun r t => addMove_svc r t (.pan p q)) l r
  unfold retryPan
  dsimp only
  split
  · rfl
  · split <;> simp [h]
@[simp] theorem retryDegraded_svc (s : State) : (retryDegraded s).svc = s.svc :=
  (foldl_keeps State.svc retryPan (fun r p => retryPan_svc r p) _ _).trans
    (foldl_keeps State.svc retryBank (fun r b => retryBank_svc r b) _ _)
@[simp] theorem retryBank_net (s : State) (b : BankIx) : (retryBank s b).net = s.net := by
  unfold retryBank
  split
  · rfl
  · split <;> simp
@[simp] theorem retryPan_net (s : State) (p : PanIx) : (retryPan s p).net = s.net := by
  have h := fun q l r => foldl_keeps State.net (fun r t => addMove r t (.pan p q)) (fun r t => addMove_net r t (.pan p q)) l r
  unfold retryPan
  dsimp only
  split
  · rfl
  · split <;> simp [h]
@[simp] theorem retryDegraded_net (s : State) : (retryDegraded s).net = s.net :=
  (foldl_keeps State.net retryPan (fun r p => retryPan_net r p) _ _).trans
    (foldl_keeps State.net retryBank (fun r b => retryBank_net r b) _ _)
@[simp] theorem retryBank_mir (s : State) (b : BankIx) : (retryBank s b).mir = s.mir := by
  unfold retryBank
  split
  · rfl
  · split <;> simp
@[simp] theorem retryPan_mir (s : State) (p : PanIx) : (retryPan s p).mir = s.mir := by
  have h := fun q l r => foldl_keeps State.mir (fun r t => addMove r t (.pan p q)) (fun r t => addMove_mir r t (.pan p q)) l r
  unfold retryPan
  dsimp only
  split
  · rfl
  · split <;> simp [h]
@[simp] theorem retryDegraded_mir (s : State) : (retryDegraded s).mir = s.mir :=
  (foldl_keeps State.mir retryPan (fun r p => retryPan_mir r p) _ _).trans
    (foldl_keeps State.mir retryBank (fun r b => retryBank_mir r b) _ _)

/-! ### Writes of part of a word -/

theorem writePart_pending (s : State) (loc : Nat) (bs : List Byte) (code : Byte) (t : Option TenIx) :
    (writePart s loc bs code t).1.pending = s.pending := by
  unfold writePart
  dsimp only
  split
  · rfl
  · split <;> simp

theorem writePart_wf (s : State) (loc : Nat) (bs : List Byte) (code : Byte) (t : Option TenIx)
    (h : Memory.wf s.mem = true) : Memory.wf (writePart s loc bs code t).1.mem = true := by
  unfold writePart
  dsimp only
  split
  · exact writeWord_wf _ _ _ h
  · split
    · rw [noteWord_mem]; exact h
    · exact writeWord_wf _ _ _ (by rw [noteWord_mem]; exact h)

/-! ### Clean words -/

/-- A clean word changes nothing. -/
@[simp] theorem noteWord_clean (s : State) (code : Byte) (k : Nat) (d : Decoded) (t : Option TenIx) (h : d.check = .clean) :
    noteWord s code k d t = s := by
  simp only [noteWord, h]

theorem noteWords_clean (s : State) (code : Byte) (ws : List (Nat × Decoded)) (t : Option TenIx)
    (h : ∀ w ∈ ws, w.2.check = .clean) : noteWords s code ws t = s := by
  unfold noteWords
  induction ws with
  | nil => rfl
  | cons w ws ih =>
    rw [List.foldl_cons, noteWord_clean s code w.1 w.2 t (h w (by simp))]
    exact ih fun v hv => h v (by simp [hv])

/-! ### Writes of the debug range -/

theorem debugWrite_cases (s : State) (f : State → State) :
    s.dbg.open_ = true ∧ debugWrite s f = f s ∨ s.dbg.open_ = false ∧ debugWrite s f = dropBar0 s := by
  unfold debugWrite
  cases s.dbg.open_ <;> simp

/-! ### Triyx -/

/-- The handler sends the stored final line again, or accepts the command (R445). -/
theorem runLine_cases (s : State) (seq : Half) (v : Verb) :
    (s.svc.lseq = some seq ∧
      (s.svc.final = none ∧ runLine s (.command seq v) = modSvc s (fun x => { x with sinceCmd := 0 }) ∨
        ∃ f, s.svc.final = some f ∧
          runLine s (.command seq v) = sendLine (modSvc s fun x => { x with sinceCmd := 0 }) (.finalLine seq f))) ∨
    (s.svc.lseq ≠ some seq ∧
      runLine s (.command seq v) =
        verbAct v (modSvc s fun x => { x with lseq := some seq, active := true, lines := x.lines + 1, sinceCmd := 0 })) := by
  unfold runLine
  by_cases h : s.svc.lseq = some seq
  · simp only [h, if_true]
    left
    cases s.svc.final <;> simp
  · simp [h]

/-- A command line is lost while the always-on domain is held, is dropped, waits in instance 40, or goes to the handler at once
(R326, R337, R445). -/
theorem triyx_cases (s : State) (seq : Half) (v : Verb) :
    ((s.rst.poHeld = true ∨ s.rst.standby = false) ∧ triyx s seq v = s) ∨
    ((512 < (lineChars (.command seq v)).length ∨ (queueOf s 40).room 1024 < (lineChars (.command seq v)).length) ∧
      triyx s seq v = queueDrop s 40) ∨
    (handlerFree s = false ∧
      triyx s seq v = modSvc (queueSend s 40 (charWords (lineChars (.command seq v))) none)
        fun x => { x with queue := x.queue ++ [.command seq v] }) ∨
    (handlerFree s = true ∧
      triyx s seq v = runLine (queuePass s 40 (charWords (lineChars (.command seq v)))) (.command seq v)) := by
  have hl : (charWords (lineChars (.command seq v))).length = (lineChars (.command seq v)).length := by simp [charWords]
  unfold triyx arriveLine
  dsimp only
  by_cases h : s.rst.poHeld || !s.rst.standby
  · rw [if_pos h]
    left
    simpa using h
  · rw [if_neg h]
    right
    by_cases h2 : 512 < (lineChars (.command seq v)).length || decide ((queueOf s 40).room 1024 < (lineChars (.command seq v)).length)
    · rw [if_pos h2]
      left
      simpa using h2
    · rw [if_neg h2]
      right
      by_cases h3 : handlerFree s = true
      · rw [if_pos h3]
        right
        exact ⟨h3, by rw [queuePass, hl]⟩
      · rw [if_neg h3]
        left
        exact ⟨by simpa using h3, rfl⟩

/-- What holds of the state, and after every command's effect, holds after a Triyx line. -/
theorem triyx_inv (p : State → Prop) (s : State) (seq : Half) (v : Verb) (h0 : p s) (h1 : p (queueDrop s 40))
    (h2 : p (modSvc (queueSend s 40 (charWords (lineChars (.command seq v))) none)
      fun x => { x with queue := x.queue ++ [.command seq v] }))
    (h3 : p (modSvc (queuePass s 40 (charWords (lineChars (.command seq v)))) fun x => { x with sinceCmd := 0 }))
    (h4 : ∀ o, p (sendLine (modSvc (queuePass s 40 (charWords (lineChars (.command seq v)))) fun x => { x with sinceCmd := 0 }) o))
    (h5 : p (verbAct v (modSvc (queuePass s 40 (charWords (lineChars (.command seq v)))) fun x =>
      { x with lseq := some seq, active := true, lines := x.lines + 1, sinceCmd := 0 }))) :
    p (triyx s seq v) := by
  rcases triyx_cases s seq v with ⟨_, h⟩ | ⟨_, h⟩ | ⟨_, h⟩ | ⟨_, h⟩ <;> rw [h]
  · exact h0
  · exact h1
  · exact h2
  · rcases runLine_cases (queuePass s 40 (charWords (lineChars (.command seq v)))) seq v with
      ⟨_, ⟨_, h⟩ | ⟨_, _, h⟩⟩ | ⟨_, h⟩ <;> rw [h]
    · exact h3
    · exact h4 _
    · exact h5

/-- A reply changes the service handler, and its line goes out. -/
theorem finalReply_eq (s : State) (f : FinalLine) :
    finalReply s f = sendLine (modSvc s fun x =>
      { x with final := some f, active := false, cRefused := if f.err.isSome then satAdd x.cRefused 1 else x.cRefused })
      (.finalLine (lastSeq s) f) := rfl

theorem replyErr_eq (s : State) (code : Byte) : replyErr s code = finalReply s { err := some code, lines := 0, text := [] } := rfl

theorem replyOk_eq (s : State) (n : Nat) : replyOk s n = finalReply s { err := none, lines := n, text := [] } := rfl

/-! ### Tallies and gates -/

@[simp] theorem tallyOf_setTally (s : State) (n : Nat) (t : TlyIx) (x : Tally) :
    tallyOf (setTally s n x) t = if t.val = n then x else tallyOf s t := by
  simp only [tallyOf, setTally, tabGet_tabSet]

@[simp] theorem gateOf_setGate (s : State) (n : Nat) (g : GateIx) (x : GateSt) :
    gateOf (setGate s n x) g = if g.val = n then x else gateOf s g := by
  simp only [gateOf, setGate, tabGet_tabSet]

/-! ### The mailbox -/

/-- A mailbox command leaves the card as it was, or acts on the image that was accepted in its slot. -/
theorem runMailbox_cases (s : State) (n : MbxIx) (op : Nat) (act : List Byte → State → State) :
    runMailbox s n op act = .next s ∨
    (s.rst.coreHeld = false ∧ slotPending s n = true ∧ fieldAt (acceptedOf s n).image 0 2 = op ∧ (acceptedOf s n).result = none ∧
      runMailbox s n op act = .next (act (acceptedOf s n).image s)) := by
  unfold runMailbox
  by_cases h : !s.rst.coreHeld && slotPending s n && fieldAt (acceptedOf s n).image 0 2 == op && (acceptedOf s n).result.isNone
  · rw [if_pos h]
    right
    simpa [and_assoc] using h
  · rw [if_neg h]
    exact .inl rfl

/-! ### Bundles -/

/-- A slot command keeps the fetched state, counts a stall, traps, or acts on the opened bundle. -/
theorem issueSlot_inv (q : State → Prop) (s : State) (p : PanIx) (b : Bundle) (sl : BitVec 2) (act : State → State)
    (h0 : q (fetchRow s p)) (h1 : ∀ f, q (modPan (fetchRow s p) p f))
    (h2 : ∀ c w pc a, q (trapPan (fetchRow s p) p c w pc a false))
    (h3 : ∀ r, q r → q (act r)) : q (issueSlot s p b sl act) := by
  unfold issueSlot
  split
  · exact h0
  · exact h1 _
  · exact h2 _ _ _ _
  · exact h3 _ (h1 _)

end Sys2Proof.Machine
end

