-- ==== Sys2Proof/Tests/Slice0.lean ====
section
/-! SUPPORT. Tests of the model on small states, and a state that meets the hypotheses of each statement. Expected values are
worked from the spec by hand. -/

set_option maxRecDepth 100000
set_option Elab.async false

namespace Sys2Proof.Tests

open Sys2Proof Sys2Proof.Machine

/-- The state that a command answers. -/
def ran (c : Instr) (s : State) : State := match exec c s with
  | .next t => t
  | _ => s

/-- A command answers the state as it was. -/
def still (c : Instr) (s : State) : Bool := decide (ran c s = s)

def nb : Bundle := { s := 0, m := 0, e := 0, c := 0 }

/-! ### Pans -/

/-- Pan 0 runs a body of tenant 0 as logical pan 0. -/
def pan0 : Pan :=
  { Pan.reset with
    state := .run, tenant := some 0, lpan := some 0, inBody := true, partLimit := 0x10000, quadLimit := 0x10000,
    g := [(1, 0xFFFFFFFFFFFFFFFB), (2, 7)], y := [(2, 0x10)] }

def onPan (x : Pan) : State := setPan State.reset 0 x

def sPan : State := onPan pan0

/-- Bundle `b` stands at PC of pan 0 (R51). -/
def placed (s : State) (b : Bundle) : State :=
  writeWords s (sramKey 0 (panOf s 0) (panOf s 0).pc) [(b.m ++ b.s : Dword), (b.c ++ b.e : Dword)]

def goes (s : State) (sl : BitVec 2) (b : Bundle) : Bool := decide (verdict (fetchRow s 0) 0 b sl = .go)

/-- Command `i` with bundle `b` issues, leaves `v` in G3 and moves PC by one bundle. -/
def leaves (i : Instr) (b : Bundle) (v : Dword) : Bool :=
  goes (placed sPan b) 0 b && decide ((panOf (ran i (placed sPan b)) 0).readG 3 = v) &&
    decide ((panOf (ran i (placed sPan b)) 0).pc = 16)

theorem test_register_arithmetic :
    ([(Instr.add 0 nb 3 1 2 0, encR 0x01 3 1 2 0, (2 : Dword)), (.sub 0 nb 3 1 2 0, encR 0x02 3 1 2 0, 0xFFFFFFFFFFFFFFF4),
      (.and 0 nb 3 1 2 0, encR 0x03 3 1 2 0, 3), (.or 0 nb 3 1 2 0, encR 0x04 3 1 2 0, 0xFFFFFFFFFFFFFFFF),
      (.xor 0 nb 3 1 2 0, encR 0x05 3 1 2 0, 0xFFFFFFFFFFFFFFFC), (.shl 0 nb 3 1 2 0, encR 0x06 3 1 2 0, 0xFFFFFFFFFFFFFD80),
      (.shr 0 nb 3 1 2 0, encR 0x07 3 1 2 0, 0x01FFFFFFFFFFFFFF), (.sar 0 nb 3 1 2 0, encR 0x08 3 1 2 0, 0xFFFFFFFFFFFFFFFF),
      (.mul 0 nb 3 1 2 0, encR 0x09 3 1 2 0, 0xFFFFFFFFFFFFFFDD), (.slt 0 nb 3 1 2 0, encR 0x0A 3 1 2 0, 1),
      (.sltu 0 nb 3 1 2 0, encR 0x0B 3 1 2 0, 0)].all fun c => leaves c.1 { nb with s := c.2.1 } c.2.2) = true := by decide +kernel

theorem test_immediate_arithmetic :
    ([(Instr.addi 0 nb 3 1 0xFFFF, encI 0x10 3 1 0xFFFF, (0xFFFFFFFFFFFFFFFA : Dword)),
      (.andi 0 nb 3 1 0x00F0, encI 0x11 3 1 0x00F0, 0xF0), (.ori 0 nb 3 2 0xF000, encI 0x12 3 2 0xF000, 0xF007),
      (.xori 0 nb 3 2 0x8001, encI 0x13 3 2 0x8001, 0x8006), (.shli 0 nb 3 2 65, encI 0x14 3 2 65, 14),
      (.shri 0 nb 3 2 1, encI 0x15 3 2 1, 3), (.sari 0 nb 3 1 1, encI 0x16 3 1 1, 0xFFFFFFFFFFFFFFFD),
      (.movk 0 nb 3 0 2 0xABCD, encI 0x17 3 2 0xABCD, 0x0000ABCD00000000), (.ldy 0 nb 3 0 2, encI 0x1A 3 0 2, 0x10),
      (.lds 0 nb 3 0 0, encI 0x1B 3 0 0, 0)].all fun c => leaves c.1 { nb with s := c.2.1 } c.2.2) = true := by decide +kernel

/-- A write to G0 is discarded. -/
theorem test_g0_discards : (panOf (ran (.addi 0 nb 0 2 1) (placed sPan { nb with s := encI 0x10 0 2 1 })) 0).g = pan0.g ∧
    (panOf (ran (.addi 0 nb 0 2 1) (placed sPan { nb with s := encI 0x10 0 2 1 })) 0).pc = 16 := by decide +kernel

/-- Command `i` with S slot `w` issues and takes the pan to `pc`. -/
def goesTo (i : Instr) (w : Word) (pc : Dword) : Bool :=
  let s := placed (onPan { pan0 with pc := 0x100 }) { nb with s := w }
  goes s 0 { nb with s := w } && decide ((panOf (ran i s) 0).pc = pc)

theorem test_branches :
    ([(Instr.beq 0 nb 1 2 2, encI 0x20 1 2 2, (0x110 : Dword)), (.beq 0 nb 2 2 0xFFFF, encI 0x20 2 2 0xFFFF, 0xF0),
      (.bne 0 nb 1 2 2, encI 0x21 1 2 2, 0x120), (.blt 0 nb 1 2 2, encI 0x22 1 2 2, 0x120),
      (.bge 0 nb 1 2 2, encI 0x23 1 2 2, 0x110), (.bge 0 nb 2 2 2, encI 0x23 2 2 2, 0x120),
      (.branchY 0 nb 2 4 1 3, encY 0x24 2 4 1 3, 0x130), (.branchY 0 nb 2 4 0 3, encY 0x24 2 4 0 3, 0x110),
      (.j 0 nb 0x3FFFFFF, encJ 0x25 0x3FFFFFF, 0xF0), (.jal 0 nb 5 0 4, encI 0x26 5 0 4, 0x140),
      (.jr 0 nb 0 2 0 0, encR 0x27 0 2 0 0, 0), (.snop 0 nb 0, encJ 0 0, 0x110)].all
      fun c => goesTo c.1 c.2.1 c.2.2) = true := by decide +kernel

theorem test_jal_links : 
    (panOf (ran (.jal 0 nb 5 0 4) (placed (onPan { pan0 with pc := 0x100 }) { nb with s := encI 0x26 5 0 4 })) 0).readG 5 = 0x110 := by
  decide +kernel

/-- The verdict on bundle `b` at PC. -/
def judged (x : Pan) (b : Bundle) : Verdict := verdict (fetchRow (placed (onPan x) b) 0) 0 b 0

theorem test_issue_traps :
    verdict (onPan { pan0 with pc := 0xFFF8 }) 0 nb 0 = .trap 3 0 0xFFF8 ∧
    verdict (onPan { pan0 with inBody := false }) 0 nb 0 = .no ∧
    verdict (onPan { pan0 with mid := true, midB := nb }) 0 nb 0 = .go ∧
    verdict (onPan { pan0 with mid := true, midB := nb, midSlots := 2 }) 0 nb 1 = .no ∧
    verdict (onPan { pan0 with mid := true, midB := { nb with e := 1 } }) 0 nb 0 = .no ∧
    verdict sPan 0 { nb with s := encJ 0x29 0 } 0 = .no ∧
    judged pan0 { nb with s := encJ 0x29 0 } = .trap 5 0 0 ∧
    illegalSlot { nb with s := 0xFC000000 } = some 0 ∧ judged pan0 { nb with s := 0xFC000000 } = .trap 2 0 0 ∧
    clashSlot { nb with s := encI 0x1B 3 0 0, c := encWait 0x06 3 0 0 0 } = some 3 ∧
    judged pan0 { nb with s := encI 0x1B 3 0 0, c := encWait 0x06 3 0 0 0 } = .trap 2 3 0 ∧
    mustWait { pan0 with wait := .gate } { nb with c := encGate 0 0 } = true ∧
    judged { pan0 with wait := .gate } { nb with c := encGate 0 0 } = .stall ∧
    rangeTrap pan0 { nb with s := encI 0x18 3 1 0 } = some (0, 0xFFFFFFFFFFFFFFF8) := by decide +kernel

/-- The S slot of a bundle comes after the others (R52). -/
theorem test_slot_turns :
    judged pan0 { nb with m := encMfmt 1 1 0 2 0 } = .no ∧
    verdict (fetchRow (placed sPan { nb with m := encMfmt 1 1 0 2 0 }) 0) 0 { nb with m := encMfmt 1 1 0 2 0 } 1 = .go ∧
    verdict (onPan { pan0 with mid := true, midB := { nb with m := encMfmt 1 1 0 2 0 }, midSlots := 2 }) 0
      { nb with m := encMfmt 1 1 0 2 0 } 0 = .go := by decide +kernel

theorem test_trap_registers :
    (panOf (ran (.snop 0 nb 0) (onPan { pan0 with pc := 0xFFF8, mq := [] })) 0).state = .trapped ∧
    (panOf (ran (.snop 0 nb 0) (onPan { pan0 with pc := 0xFFF8 })) 0).trapErr = 0x22 ∧
    (panOf (ran (.snop 0 nb 0) (onPan { pan0 with pc := 0xFFF8 })) 0).trapPc = 0xFFF0 := by decide

/-! ### Loads, stores, the end of a body -/

/-- Command `i` with bundle `b` issues in `s`. -/
def issues (s : State) (i : Instr) (sl : BitVec 2) (b : Bundle) (f : Pan → Bool) : Bool :=
  goes (placed s b) sl b && f (panOf (ran i (placed s b)) 0)

theorem test_loads_and_stores_issue :
    issues sPan (.st 0 nb 2 0 1) 0 { nb with s := encI 0x19 2 0 1 }
      (fun x => decide (x.stores = [{ quad := false, word := sramKey 0 pan0 8, data := [7] }])) = true ∧
    issues sPan (.vst 0 nb 4 0 0 1) 3 { nb with c := encVmem 0x02 4 0 0 1 }
      (fun x => decide ((x.stores.map (·.word)) = [sramKey 0 pan0 64]) && decide ((x.stores.map (·.data.length)) = [128])) = true ∧
    issues sPan (.ld 0 nb 3 0 1) 0 { nb with s := encI 0x18 3 0 1 }
      (fun x => decide (x.loads = [{ vector := false, reg := 3, addr := 8, pc := 0, data := [0], ue := false }])) = true ∧
    issues sPan (.vld 0 nb 3 0 0 1) 3 { nb with c := encVmem 0x01 3 0 0 1 }
      (fun x => decide (x.loads.map (·.addr) = [64]) && decide (x.loads.map (·.data.length) = [128])) = true := by decide +kernel

def load0 : PanLoad := { vector := false, reg := 3, addr := 8, pc := 16, data := [9], ue := false }

theorem test_loads_and_stores_complete :
    readStored (ran (.storeWritten 0) (onPan { pan0 with stores := [{ quad := false, word := 5, data := [0x11] }] })).mem 5 =
      encodeWord 0x11 ∧
    (panOf (ran (.loadReturn 0 0) (onPan { pan0 with loads := [load0] })) 0).readG 3 = 9 ∧
    ((panOf (ran (.loadReturn 0 0) (onPan { pan0 with loads := [{ load0 with vector := true }] })) 0).readV 3).getD 0 0 = 9 ∧
    (panOf (ran (.loadReturn 0 0) (onPan { pan0 with loads := [{ load0 with ue := true }] })) 0).trapCause = 4 ∧
    (panOf (ran (.loadReturn 0 0) (onPan { pan0 with loads := [{ load0 with ue := true }] })) 0).readG 3 = 0 := by decide

def openDbg (s : State) : State := { s with dbg := { s.dbg with open_ := true } }

theorem test_end_and_pause :
    issues sPan (.endb 0 nb 0) 0 { nb with s := encJ 0x28 0 } (fun x => x.endIssued) = true ∧
    issues (openDbg sPan) (.brk 0 nb 0) 0 { nb with s := encJ 0x29 0 } (fun x => decide (x.state = .paused)) = true ∧
    (panOf (ran (.panEnded 0) (onPan { pan0 with endIssued := true })) 0).state = .ended ∧
    (panOf (ran (.panPause 0 true) (openDbg sPan)) 0).state = .paused ∧
    (panOf (ran (.panPause 0 true) (openDbg (onPan { pan0 with mid := true }))) 0).state = .run ∧
    (panOf (ran (.panPause 0 false) (openDbg (onPan { pan0 with state := .paused }))) 0).state = .run ∧
    (panOf (ran (.panStep 0) (openDbg (onPan { pan0 with state := .paused }))) 0).stepping = true ∧
    (ran (.panStep 0) sPan).host.bar0Drop = 1 := by decide +kernel

/-! ### The engines -/

theorem test_slots_queue :
    issues sPan (.mnop 0 nb 0) 1 { nb with m := encJ 0 0 } (fun x => x.mid) = true ∧
    issues sPan (.enop 0 nb 0) 2 { nb with e := encJ 0 0 } (fun x => x.mid) = true ∧
    issues sPan (.cnop 0 nb 0) 3 { nb with c := encJ 0 0 } (fun x => x.mid) = true ∧
    issues sPan (.mfmt 0 nb 1 1 0 2 0) 1 { nb with m := encMfmt 1 1 0 2 0 }
      (fun x => decide (x.mq.map (·.op) = [.mfmt 1 1 0 2])) = true ∧
    issues sPan (.mldbt 0 nb 1 2 1 0) 1 { nb with m := encMldbt 1 2 1 0 }
      (fun x => decide (x.mq.map (·.op) = [.mldbt 1 7 1])) = true ∧
    issues sPan (.mmv 0 nb 1 2 15 1 1 0 0) 1 { nb with m := encMmv 1 2 15 1 1 0 0 }
      (fun x => decide (x.mq.map (·.op) = [.mmv 1 2 16 true true 0])) = true ∧
    issues sPan (.mmt 0 nb 2 1 2 255 0 1 0 0) 1 { nb with m := encMmt 2 1 2 255 0 1 0 0 }
      (fun x => decide (x.mq.map (·.op) = [.mmt 1 2 7 0 256 false true 0])) = true := by decide +kernel

theorem test_memory_operands_queue :
    issues (onPan { pan0 with pc := 0x100 }) (.msca 0 nb 0 0 0) 1 { nb with m := encMsca 0 0 0 }
      (fun x => decide (x.mq.map (·.op) = [.msca 1 (List.replicate 8 0) none])) = true ∧
    issues (onPan { pan0 with pc := 0x100 }) (.msca 0 nb 1 0 0) 1 { nb with m := encMsca 1 0 0 }
      (fun x => decide (x.mq.map (·.op) = [.msca 1 [] (some (0xFFFFFFFFFFFFFFFB, false))])) = true ∧
    issues (onPan { pan0 with pc := 0x100 }) (.ecwld 0 nb 3 0 0 0) 2 { nb with e := encEcwld 3 0 0 0 }
      (fun x => decide (x.eq.map (·.op) = [.ecwld 3 [List.replicate 64 0] none])) = true ∧
    issues (onPan { pan0 with pc := 0x100 }) (.mldb 0 nb 1 0 0 1 0) 1 { nb with m := encMldb 1 0 0 1 0 } (fun x => decide (x.mq.length = 1)) = true := by decide +kernel

theorem test_element_commands_queue :
    issues sPan (.erun 0 nb 3 1 2 0 0) 2 { nb with e := encErun 3 1 2 0 0 }
      (fun x => decide (x.eq.map (·.op) = [.erun 3 1 2 0 1])) = true ∧
    issues sPan (.erunt 0 nb 3 1 2 2 0 0) 2 { nb with e := encErunt 3 1 2 2 0 0 }
      (fun x => decide (x.eq.map (·.op) = [.erunt 3 1 2 7 0 1 0])) = true ∧
    issues sPan (.eyclr 0 nb 2 0) 2 { nb with e := encEyclr 2 0 } (fun x => decide (x.eq.map (·.op) = [.eyclr 2])) = true := by
  decide +kernel

def mEntry (o : MOp) : MEntry := { op := o, pc := 0x20, reads := [], writes := [] }
def eEntry (o : EOp) : EEntry := { op := o, pc := 0x20, reads := [], writes := [] }
def loaded : BBuf := { BBuf.reset with loaded := true }

theorem test_m_engine_starts :
    (panOf (ran (.mOpStart 0) (onPan { pan0 with mq := [mEntry (.mfmt 2 3 2 1)] })) 0).sb = 0xFFFFFFFF ∧
    (panOf (ran (.mOpStart 0) (onPan { pan0 with mq := [mEntry (.msca 1 [1] none)] })) 0).mfly.length = 1 ∧
    (panOf (ran (.mOpStart 0) (onPan { pan0 with mq := [mEntry (.msca 1 [] (some (8, true)))] })) 0).trapCause = 4 ∧
    (panOf (ran (.mOpStart 0) (onPan { pan0 with mq := [mEntry (.mldb 0 [] [] (some (8, false)))] })) 0).trapSlot = 1 ∧
    still (.mOpStart 0) (onPan { pan0 with
      mq := [mEntry (.mldb 0 [] [] none)], mfly := [{ run := .load 1 BBuf.reset, writes := [] }] }) = true ∧
    still (.mOpStart 0) (onPan { pan0 with mq := [mEntry (.mmv 1 2 1 false true 0)] }) = true ∧
    (panOf (ran (.mOpStart 0) (onPan { pan0 with mq := [mEntry (.mmv 1 2 1 false true 0)], buf0 := loaded })) 0).mmaRows = 1 ∧
    (panOf (ran (.mOpStart 0) (onPan { pan0 with mq := [mEntry (.mmv 1 2 1 false true 0)], buf0 := loaded })) 0).buf0.reading =
      true := by decide +kernel

theorem test_buffer_loads_start :
    (panOf (ran (.mOpStart 0) (onPan { pan0 with mq := [mEntry (.mldb 1 [7] [8] none)] })) 0).mfly.map
      (fun m => decide (m.run = .load 1 { newBuf pan0 [7] [8] false with loaded := true })) = [true] ∧
    (panOf (ran (.mOpStart 0) (onPan { pan0 with mq := [mEntry (.mldbt 1 0 1)] })) 0).buf1.loading = true ∧
    still (.mOpStart 0) (onPan { pan0 with
      mq := [mEntry (.mldbt 1 0 0)], buf0 := { loaded with reading := true, readEnd := 9 } }) = true ∧
    still (.mOpStart 0) (onPan { pan0 with mq := [mEntry (.msca 1 [1] none)], mfly := [{ run := .scale 1 [5], writes := [] }] }) =
      true ∧
    (panOf (ran (.mOpStart 0) (onPan { pan0 with mq := [mEntry (.mmt 1 2 0 0 2 false true 0)], buf0 := loaded })) 0).mmaRows = 2 ∧
    (panOf (ran (.mOpComplete 0 0) (onPan { pan0 with
      mfly := [{ run := .load 1 { loaded with tile := [9] }, writes := [] }] })) 0).buf1.tile = [9] := by decide +kernel

theorem test_e_engine_starts :
    (panOf (ran (.eOpStart 0) (onPan { pan0 with eq := [eEntry (.erun 3 1 2 0 1)] })) 0).trapSlot = 2 ∧
    (panOf (ran (.eOpStart 0) (onPan { pan0 with eq := [eEntry (.ecwld 3 [] (some (8, true)))] })) 0).trapCause = 4 ∧
    (panOf (ran (.eOpStart 0) (onPan { pan0 with eq := [eEntry (.erunt 3 1 2 0 0 1 0)], cwValid := 8 })) 0).efly.length = 1 ∧
    (panOf (ran (.eOpStart 0) (onPan { pan0 with eq := [eEntry (.eyclr 2)] })) 0).efly.map (·.res.y) = [some (2, 0)] ∧
    (panOf (ran (.eOpStart 0) (onPan { pan0 with eq := [eEntry (.erun 3 1 2 0 1)], cwValid := 8 })) 0).efly.length = 1 ∧
    (panOf (ran (.eOpStart 0) (onPan { pan0 with eq := [eEntry (.ecwld 63 [[1], [2]] none)] })) 0).efly.map
      (·.res.cw.map (·.1)) = [[63, 0]] := by decide +kernel

def eres : EResult := { v := [], t := [], y := none, cw := [], nan := 0, inf := 0, sat := 0, nanz := 0 }

theorem test_engines_complete :
    (panOf (ran (.mOpComplete 0 0) (onPan { pan0 with mfly := [{ run := .scale 1 [5], writes := [] }] })) 0).ascale = [5] ∧
    (panOf (ran (.mOpComplete 0 0) (onPan { pan0 with mfly := [{ run := .fmt, writes := [] }] })) 0).mfly = [] ∧
    (panOf (ran (.eOpComplete 0) (onPan { pan0 with efly := [{ res := { eres with y := some (2, 0) }, writes := [] }] })) 0).y =
      [] ∧
    (panOf (ran (.eOpComplete 0) (onPan { pan0 with
      efly := [{ res := { eres with v := [(1, [3, 4])] }, writes := [] }] })) 0).v = [(256, 3), (257, 4)] ∧
    (panOf (ran (.fenceComplete 0) (onPan { pan0 with fence := some 15 })) 0).fence = none ∧
    still (.fenceComplete 0) (onPan { pan0 with fence := some 2, stores := [{ quad := false, word := 5, data := [0x11] }] }) =
      true := by decide +kernel

/-! ### What the engines compute -/

def lane0 (x : Word) : Lane256 := { x := x, z := 0, p := false, m := false, sat := 0, nanz := 0, empty := false }

/-- Step words of the layer normalisation and the attention rows of section 04, with the results of row 0. -/
theorem test_chain_steps :
    let c : Chain := { decodeChain [] with i0 := 0xB8800000 }
    (laneStep c 0x46800000 0 0 0x15D0 (lane0 0x40000000)).x = 0x3F800000 ∧
    (laneStep c 0 0x40100000 0 0x7C20 (lane0 0x3F800000)).x = 0x3EE38E39 ∧
    (laneStep c 0 0x40100000 0 0x7C20 (lane0 0x3E800000)).x = 0x3DE38E39 ∧
    (laneStep c 0 0 0 0x7C20 (lane0 0)).empty = true ∧ (laneStep c 0 0x40400000 0 0x7820 (lane0 0x40000000)).x = 0x3F000000 ∧
    (laneStep c 0 0 0 0x1011 { lane0 0x40400000 with z := 0x40000000 }).z = 0x40C00000 := by decide +kernel

/-- E2M1 by E2M1 with block scales: codes 1.5 × 2 over 512 positions, both scales 2^1, is 512 × 3 × 4; no scale loaded gives NaN. -/
theorem test_reference_formula :
    let b : BBuf := { BBuf.reset with fa := 5, fb := 5, sc := 1, loaded := true, mldbt := true }
    let row := List.replicate 256 (0x33 : Byte)
    elementA b row 511 = .fin false 3 (-1) ∧ factorAt b (List.replicate 16 0x80) 0 0 15 = .fin false 1 1 ∧
    factorAt b [] 0 0 0 = .nan ∧
    (dOutput b ((List.range 64).map fun k => fmtVal 5 true (packedCode 5 row k)) [0x80, 0x80] (List.replicate 64 (.fin false 2 0)) 0 0) =
      0x43C00000 ∧
    (dOutput b ((List.range 32).map fun k => fmtVal 5 true (packedCode 5 row k)) [] (List.replicate 32 (.fin false 2 0)) 0 0) =
      0x7FC00000 := by decide +kernel

theorem test_stream_hypotheses (x : Byte) :
    ([[x]] : List (List Byte))[0]? = some [x] ∧
    ({ BBuf.reset with fa := 5, fb := 5, tile := List.replicate 65536 x } : BBuf).tile.length = pairDepth 5 5 * bRowBytes 5 :=
  ⟨rfl, List.length_replicate⟩

/-- Bits [15:10], [9:7], [6:4], [3:1] and [0] of a step word (R107). -/
theorem test_step_word : 1024 * 0x1E + 128 * 0 + 16 * 2 + 2 * 0 + 0 = 0x7820 ∧ (0x1E, (5 : Word)) ∈ [(0x1E, (5 : Word))] := by decide

/-! ### The array and the check code, worked in the spec -/

/-- The two blocks of the MXFP4 example of section 3: 0x4286_0000 after the first, 0x4286_0001 after the second. -/
theorem test_matrix_example :
    let ext (n : Bool) (m : Nat) : Ext := .fin n m (-1)
    blockStep true (.fin false 2 0) [(ext false 3, ext false 4), (ext true 1, ext false 12), (ext false 8, ext false 1),
      (ext false 6, ext true 3), (ext false 12, ext false 12)] 0 = 0x42860000 ∧
    blockStep true (.fin false 1 (-19)) [(ext false 3, ext false 2), (ext false 3, ext false 2)] 0x42860000 = 0x42860001 := by
  decide +kernel

/-- The stored word of the example of section 10: check bits 0x8D44, and bit 45 corrected with syndrome 0x6020. -/
theorem test_check_code_example :
    encodeWord 0x428600003F800000 = { d := 0x428600003F800000, p := 0x44, q := 0x8D } ∧
    decodeWord { d := 0x428620003F800000, p := 0x44, q := 0x8D } =
      { d := 0x428600003F800000, check := .corrected 45, syn := 0x6020 } ∧
    (decodeWord { d := 0x428620003F800000, p := 0x64, q := 0x8D }).check = .uncorrectable := by decide +kernel

theorem test_streams :
    (endStream { pan0 with acc := [(0, 5)] } (List.replicate 17 []) loaded [] (.vec 1) false false).acc = [(0, 5)] ∧
    (endStream { pan0 with acc := [(256, 5)] } [] loaded [] (.vec 1) true false).acc = [(256, 5)] ∧
    accStart pan0 (.tile 0 255) true 17 1 = pan0.readT 0 0 ∧ accStart pan0 (.vec 1) false 1 0 = [] ∧
    (([{ run := .stream 0 [[]] loaded [] (.vec 1) false true, writes := [] }] : List MFly).take 0).any isStreamRun = false := by
  decide

/-! ### Synchronisation -/

def withTally (s : State) (t : Nat) (v : Word) (o : BitVec 5) : State := setTally s t { value := v, owner := o, hand := false }

def withGate (s : State) (n : GateIx) (g : GateSt) : State := setGate s n.val g

/-- Tenant 0 owns tally 0 and gate 0, in which its logical pan 0 takes part. -/
def sSync : State := withGate (withTally sPan 0 1 0) 0 { GateSt.reset with owner := 0, mask := 1 }

/-- A C slot issues in `s` and leaves the store as `f` says. -/
def syncs (s : State) (i : Instr) (b : Bundle) (f : SyncSt → Bool) : Bool :=
  goes (placed s b) 3 b && f (ran i (placed s b)).sync

theorem test_synchronising_slots :
    issues sSync (.cpy 0 nb 0 4 1 0 0) 3 { nb with c := encCpy 0 4 1 0 0 }
      (fun x => decide (x.chan.queue = [{ gs := 0, gd := 0, sig := some 0 }])) = true ∧
    issues sSync (.fence 0 nb 0 0) 3 { nb with c := encFence 0 0 } (fun x => decide (x.fence = some 15)) = true ∧
    syncs sSync (.sig 0 nb 0 15 0) { nb with c := encSig 0 15 0 }
      (fun x => decide (x.flight = [{ tly := 0, n := 16, src := .pan 0 0 }])) = true ∧
    syncs sSync (.wait 0 nb 3 2 0 0) { nb with c := encWait 0x06 3 2 0 0 }
      (fun x => decide (x.waiters.map (·.expiry) = [some 7])) = true ∧
    syncs sSync (.waitn 0 nb 3 0 0 0) { nb with c := encWait 0x07 3 0 0 0 }
      (fun x => decide (x.waiters.map (·.consuming) = [false])) = true ∧
    syncs sSync (.gate 0 nb 0 0) { nb with c := encGate 0 0 } (fun x => decide (x.panArrive.map (·.gate) = [0])) = true := by
  decide +kernel

/-- A CPY behind a halted channel is kept for the count alone. -/
theorem test_copy_behind_halt :
    issues (onPan { pan0 with chan := { PanChan.reset with state := .halted } }) (.cpy 0 nb 0 4 1 0 0) 3
      { nb with c := encCpy 0 4 1 0 0 } (fun x => decide (x.chan.queue = [] ∧ x.chan.lost.length = 1)) = true := by decide +kernel

def sForeign : State := withGate (withTally sPan 0 1 3) 0 { GateSt.reset with owner := 3, mask := 1 }

theorem test_foreign_waits :
    goes (placed sForeign { nb with c := encWait 0x06 3 2 0 0 }) 3 { nb with c := encWait 0x06 3 2 0 0 } = true ∧
    goes (placed sForeign { nb with c := encGate 0 0 }) 3 { nb with c := encGate 0 0 } = true ∧
    (tenOf (ran (.wait 0 nb 3 2 0 0) (placed sForeign { nb with c := encWait 0x06 3 2 0 0 })) 0).haltCode = some 0x80 ∧
    (tenOf (ran (.gate 0 nb 0 0) (placed sForeign { nb with c := encGate 0 0 })) 0).haltCode = some 0x84 := by decide +kernel

def sig0 : Signal := { tly := 0, n := 3, src := .pan 0 0 }

theorem test_signals :
    (ran (.tallySignal (.rilef 2 7 5)) sSync).sync.arrived = [{ tly := 7, n := 5, src := .rilef 2 }] ∧
    (ran (.tallySignal (.flight 0 false)) { sSync with sync := { sSync.sync with flight := [sig0] } }).sync.arrived = [sig0] ∧
    (ran (.tallySignal (.flight 0 false)) { sForeign with sync := { sForeign.sync with flight := [sig0] } }).sync.arrived = [] ∧
    (tallyOf (ran (.syncStoreTick ⟨0, false, [], []⟩) { sSync with sync := { sSync.sync with arrived := [sig0] } }) 0).value = 4 ∧
    (ran (.syncStoreTick ⟨0, false, [], []⟩) { sSync with tick := 5, rst := { sSync.rst with sysHeld := false } }).tick = 6 := by decide

/-- A signal at the limit of a tally leaves it there and logs code, tally, source and owner. -/
theorem test_saturation :
    let r := addTally (withTally State.reset 0x123 0xFFFFFFFE 0x10) 0x123 2 (.rdma 1) false
    (tallyOf r 0x123).value = 0xFFFFFFFF ∧ (tabGet LogEntry.zero r.log.events 0).code = 0x81 ∧
    (tabGet LogEntry.zero r.log.events 0).detail.take 4 = [0x23, 0x01, 5, 1] ∧
    (tabGet LogEntry.zero r.log.events 0).tenant = 0xFF ∧
    (tallyOf (addTally (withTally State.reset 0x123 0xFFFFFFFE 2) 0x123 1 (.rdma 1) false) 0x123).value = 0xFFFFFFFF ∧
    (tabGet LogEntry.zero (addTally (withTally State.reset 0 1 2) 0 0xFFFFFFFF .mirror false).log.events 0).tenant = 2 := by
  decide

def waiter (p : PanIx) (e : Option Nat) (c : Bool) : Waiter :=
  { pan := p, tenant := 0, lpan := ⟨p.val % 32, by omega⟩, tly := 0, consuming := c, issue := 0, expiry := e }

def waiting (ws : List Waiter) (v : Word) : State :=
  let s := setPan (setPan (withTally State.reset 0 v 0) 0 { pan0 with wait := .tally 3 }) 1 { pan0 with wait := .tally 3, lpan := some 1 }
  { s with tick := 7, sync := { s.sync with waiters := ws } }

theorem test_waiters :
    (panOf (ran (.syncStoreTick ⟨0, false, [], []⟩) (waiting [waiter 0 none true] 2)) 0).readG 3 = 1 ∧
    (tallyOf (ran (.syncStoreTick ⟨0, false, [], []⟩) (waiting [waiter 0 none true] 2)) 0).value = 1 ∧
    (ran (.syncStoreTick ⟨0, false, [], []⟩) (waiting [waiter 0 none true] 0)).sync.waiters = [waiter 0 none true] ∧
    (ran (.syncStoreTick ⟨0, false, [], []⟩) (waiting [waiter 0 (some 7) true] 0)).sync.waiters = [] ∧
    (panOf (ran (.syncStoreTick ⟨0, false, [], []⟩) (waiting [waiter 0 (some 7) true] 0)) 0).readG 3 = 0 ∧
    waitOrder (.pan (waiter 0 none true)) < waitOrder (.pan (waiter 1 none true)) ∧
    (ran (.syncStoreTick ⟨0, false, [], []⟩) (waiting [waiter 1 none true, waiter 0 none true] 1)).sync.waiters = [waiter 1 none true] ∧
    (ran (.waitTimeout 0) (waiting [waiter 0 (some 7) true] 0)).sync.waiters = [] ∧
    still (.waitTimeout 0) (waiting [waiter 0 (some 8) true] 0) = true ∧
    still (.waitTimeout 0) (waiting [waiter 0 (some 7) true] 1) = true := by decide

def rilefRuns (s : State) : State := { s with rst := { s.rst with coreHeld := false, sysHeld := false, poHeld := false, fw := 1 } }

/-- Signals on their way, their words seen at the store. -/
def inFlightOf (gs : List Signal) : State := syncQueues (gs.foldl sendSignal sSync)

/-- Waits and arrivals that Rilef's services bring to a tick. -/
theorem test_core_calls :
    (tallyOf (ran (.syncStoreTick ⟨0, false, [.wait 1 0 true none], []⟩) (rilefRuns (waiting [] 2))) 0).value = 1 ∧
    (ran (.syncStoreTick ⟨0, false, [.wait 1 0 true none], []⟩) (rilefRuns (waiting [] 0))).sync.coreWaits.map (·.core) = [1] ∧
    (gateOf (ran (.syncStoreTick ⟨0, false, [.arrive 0 0 1], []⟩) (rilefRuns (withGate State.reset 0 { GateSt.reset with ports := 6 }))) 0).pcnt =
      [(1, 1)] := by decide +kernel

theorem test_signal_queues :
    (ran (.tallySignal (.mirror 3 2)) State.reset).sync.arrived = [{ tly := 3, n := 2, src := .mirror }] ∧
    (ran (.tallySignal (.flight 0 true)) (inFlightOf [{ sig0 with src := .pond 1 0 }])).sync.arrived = [] ∧
    (tabGet QErr.reset (ran (.tallySignal (.flight 0 true)) (inFlightOf [{ sig0 with src := .pond 1 0 }])).host.qerr 9).par = 1 ∧
    (ran (.tallySignal (.flight 0 false)) (inFlightOf [{ sig0 with src := .pond 1 0 }])).sync.arrived = [{ sig0 with src := .pond 1 0 }] ∧
    still (.tallySignal (.flight 1 false)) (inFlightOf [{ sig0 with src := .pond 1 0 }, { sig0 with src := .pond 1 3 }]) = true ∧
    still (.tallySignal (.flight 0 false)) (sendSignal sSync { sig0 with src := .pond 1 0 }) = true ∧
    signalBehind (inFlightOf [sig0, sig0]) 0 sig0.src = false := by decide +kernel

def gateWait : GateWaiter := { pan := 0, tenant := 0, lpan := 0, gate := 0, gen := 5, issue := 0 }

/-- The gate of the example of section 11: a count of 2 with HELD set falls to 1 and takes the held arrival. -/
theorem test_gate_release :
    let g : GateSt := { GateSt.reset with owner := 0x10, gen := 6, ports := 3, pcnt := [(0, 2), (1, 1)], held := 1 }
    let s := withGate (setPan State.reset 0 { pan0 with wait := .gate }) 0 g
    let r := releaseGate { s with sync := { s.sync with gwaiters := [gateWait] } } 0
    (gateOf r 0).gen = 7 ∧ (gateOf r 0).pcnt = [(0, 2)] ∧ (gateOf r 0).held = 0 ∧ (panOf r 0).wait = .none ∧
    r.sync.gwaiters = [] ∧ (gateOf (applyHand true s (.gateRst 0)) 0).pcnt = [] ∧
    (tabGet LogEntry.zero (applyHand true s (.tlySet 0x102 9)).log.events 0).detail = [1, 0, 2, 1, 0, 0, 0, 0, 0, 9, 0, 0, 0] := by decide

theorem test_hand_writes :
    (ran (.tlyHandSet 0xA5C3 3 9) State.reset).sync.handBar0 = [.tlySet 3 9] ∧
    (ran (.tlyHandSignal 0xA5C2 3 9) State.reset).sync.handReject = 1 ∧
    (ran (.gateHandRelease 0xA5C3 3) State.reset).sync.handBar0 = [.gateRel 3] ∧
    (ran (.gateHandReset 0xA5C3 3) State.reset).sync.handBar0 = [.gateRst 3] ∧
    (ran .snap State.reset).sync.snapReq = [.register] := by decide

def shot : SnapShot :=
  { source := 0, tick := 0, cal := 0, tallies := [], gates := [], waiters := [], coreWaits := [], gwaiters := [], entries := [] }

theorem test_snapshots :
    (ran .snapshotComplete { State.reset with sync := { SyncSt.reset with snapTaken := [(.register, shot)] } }).sync.window = some shot ∧
    regionView State.reset none 0 (BitVec.ofNat 16 (fieldAt (acceptedOf State.reset 3).image 0x10 2)) = none ∧
    (acceptedOf (ran .snapshotComplete { State.reset with
      sync := { SyncSt.reset with snapTaken := [(.mailbox 3, shot)] } }) 3).result = some (0xA2, []) := by decide

/-- Nothing lies in the ports' receive queues after reset, and no line waits. -/
theorem test_calm : Calm State.reset := ⟨by decide, rfl⟩

/-! ### Copies -/

/-- The first eight bytes and the words of a DENSE ROW descriptor of rank 1: `n` FP32 elements of region `r` from element `b`. -/
def descWords (r : Half) (b n : Nat) : List Dword :=
  wordsOfBytes ([0, 0, 0, 1] ++ leBytes 2 r.toNat ++ List.replicate 10 0 ++ leBytes 5 b ++ leBytes 3 n ++ List.replicate 40 0)

/-- Pan 0 with descriptors at 0x40 (elements 0x100, 0x101) and 0x80 (elements 0x110, 0x111) of its own SRAM, and data in the
first. -/
def sCopy (x : Pan) (r : Half) : State :=
  let s := onPan x
  writeWords (writeWords (writeWords s (sramKey 0 x 0x40) (descWords r 0x100 2)) (sramKey 0 x 0x80) (descWords r 0x110 2))
    (sramKey 0 x 0x400) [0x4000000033333333]

def copy0 : PanCopy := { gs := 0x40, gd := 0x80, sig := some 0 }

def panCopies : Pan := { pan0 with chan := { PanChan.reset with queue := [copy0] } }

/-- Two FP32 elements of two kilobytes' distance move, and the channel counts their eight bytes. -/
theorem test_copy_moves :
    ((readJob (sCopy panCopies 0) 0 copy0).2.1 ++ (readJob (sCopy panCopies 0) 0 copy0).2.2).all
      (fun w => decide (w.2.check = .clean)) = true ∧
    refuse (takenCopy (sCopy panCopies 0) 0 copy0 []) false (some 0) 0 (readJob (sCopy panCopies 0) 0 copy0).1
      { src := false, dst := false, list := false } = none ∧
    (runCopy false 0 (readJob (sCopy panCopies 0) 0 copy0).1
      (Mover.start (takenCopy (sCopy panCopies 0) 0 copy0 []) (some 0) (.pan 0))).1.halt = none ∧
    (runCopy false 0 (readJob (sCopy panCopies 0) 0 copy0).1
      (Mover.start (takenCopy (sCopy panCopies 0) 0 copy0 []) (some 0) (.pan 0))).1.blocked = false ∧
    (readStored (ran (.copyStart 0) (sCopy panCopies 0)).mem (sramKey 0 pan0 0x440)).d = 0x4000000033333333 ∧
    (panOf (ran (.copyStart 0) (sCopy panCopies 0)) 0).chan.bytesNow = 8 := by decide +kernel

/-- A region that the tenant does not hold refuses the copy, and the tenant halts at its boundary tick. -/
theorem test_copy_refused :
    (refuse (takenCopy (sCopy panCopies 9) 0 copy0 []) false (some 0) 0 (readJob (sCopy panCopies 9) 0 copy0).1
      { src := false, dst := false, list := false }).map (·.code) =
      some (panOf (ran (.copyStart 0) (sCopy panCopies 9)) 0).chan.err ∧
    (panOf (ran (.copyStart 0) (sCopy panCopies 9)) 0).chan.cur = none ∧
    (tenOf (ran (.copyStart 0) (sCopy panCopies 9)) 0).haltCode.isSome = true := by decide +kernel

theorem test_copy_completes :
    (ran (.copyComplete 0) (onPan { pan0 with chan := { PanChan.reset with cur := some copy0, state := .active } })).sync.flight =
      [{ tly := 0, n := 1, src := .panCopy 0 0 }] ∧
    (panOf (ran (.copyComplete 0) (onPan { pan0 with
      chan := { PanChan.reset with cur := some { copy0 with sig := none }, queue := [{ copy0 with sig := none }], state := .active } }))
      0).chan.state = .idle ∧
    still (.copyStart 0) (onPan { pan0 with chan := { PanChan.reset with queue := [copy0], state := .halted } }) = true := by decide

/-- A request that names one descriptor of system region 0x8010 twice: it moves nothing (R178). -/
def sysReq : SysReq :=
  { tenant := none, lpan := 0, srcRegion := 0x8010, srcOff := 0x40, dstRegion := 0x8010, dstOff := 0x40, list := none,
    action := .tally 5, parityBad := false }

def onSch (c : SysChan) : State := modSch State.reset 2 fun _ => c

def sSys (r : SysReq) : State :=
  let s := ran (.sysRequest 2 r) State.reset
  let s1 := { s with host := { s.host with regions := [(0x8010, { limit := 0x1000, place := .quad 1 0 })] } }
  writeWords s1 (quadKey 1 0x40) (descWords 0x8010 0x100 2)

def sysTaken (r : SysReq) : State := queueTake (modSch (sSys r) 2 fun c =>
  { c with queue := [], cur := some r, done := none, state := .active, mirrored := [] }) 22 1

theorem test_system_copy_hypotheses :
    decide (noteUnits (sysTaken sysReq) 0x40 (readRequest (sysTaken sysReq) sysReq).units none = sysTaken sysReq) = true ∧
    (readRequest (sysTaken sysReq) sysReq).bad = none ∧
    (readRequest (sysTaken sysReq) sysReq).host = false ∧
    refuse (sysTaken sysReq) true none 0 (readRequest (sysTaken sysReq) sysReq).job (readRequest (sysTaken sysReq) sysReq).gone = none ∧
    (runCopy true 0 (readRequest (sysTaken sysReq) sysReq).job (Mover.start (sysTaken sysReq) none (.sys 2))).1.blocked = false ∧
    (runCopy true 0 (readRequest (sysTaken sysReq) sysReq).job (Mover.start (sysTaken sysReq) none (.sys 2))).1.hostFail = false ∧
    (runCopy true 0 (readRequest (sysTaken sysReq) sysReq).job (Mover.start (sysTaken sysReq) none (.sys 2))).1.halt = none := by
  decide +kernel

theorem test_system_copy_runs : (schOf (ran (.sysRequestStart 2) (sSys sysReq)) 2).done = some 0 := by decide +kernel

/-- A request whose descriptors lie in no region. -/
def lostReq : SysReq := { sysReq with srcRegion := 5, dstRegion := 5 }

theorem test_system_channels :
    (schOf (ran (.sysRequest 2 sysReq) State.reset) 2).queue = [sysReq] ∧
    still (.sysRequest 2 sysReq) (onSch { SysChan.reset with queue := List.replicate 16 sysReq }) = true ∧
    still (.sysRequestStart 2) (onSch { SysChan.reset with queue := [sysReq], state := .halted }) = true ∧
    (schOf (ran (.sysRequestStart 2) (ran (.sysRequest 2 { sysReq with parityBad := true }) State.reset)) 2).err = 0x90 ∧
    (schOf (ran (.cpyEnable 2 false) State.reset) 2).state = .idle ∧
    (readRequest (onSch { SysChan.reset with queue := [], cur := some lostReq, state := .active }) lostReq).units = [] ∧
    (readRequest (onSch { SysChan.reset with queue := [], cur := some lostReq, state := .active }) lostReq).gone.src = true ∧
    (schOf (ran (.sysRequestStart 2) (ran (.sysRequest 2 lostReq) State.reset)) 2).err = 0x36 ∧
    (ran (.sysRequestComplete 2) (onSch { SysChan.reset with cur := some sysReq, done := some 0, state := .active })).sync.flight =
      [{ tly := 5, n := 1, src := .sys 2 }] := by decide +kernel

theorem test_channel_controls :
    (schOf (ran (.cpyRestart 2) (openDbg (onSch { SysChan.reset with
      cur := some { sysReq with action := .none }, state := .halted }))) 2).state = .idle ∧
    (ran (.cpyRestart 2) (openDbg (onSch { SysChan.reset with
      cur := some { sysReq with action := .netAck 1 3 }, state := .halted }))).out = [.wake 39, .nak 1 3 0x63] ∧
    (schOf (ran (.cpyEnable 2 false) (openDbg State.reset)) 2).state = .stopped ∧
    (schOf (ran (.cpyEnable 2 true) (openDbg (onSch { SysChan.reset with state := .stopped, enable := false }))) 2).state = .idle ∧
    (ran (.cpyEnable 2 true) State.reset).host.bar0Drop = 1 := by decide

/-! ### Mailbox -/

/-- A queue of depth `d` that holds `ws`. -/
def filled (d : Nat) (ws : List Dword) : Queue := ws.foldl (fun q w => q.push d w) Queue.reset

/-- The oldest word of a queue of depth `d` fails parity. -/
def spoilt (d : Nat) (q : Queue) : Queue := { q with mem := tabModify QEntry.reset q.mem (q.rp % d) fun e => { e with parity := !e.parity } }

/-- The image of command `op` with arguments (offset, bytes, value). -/
def img (op : Nat) (args : List (Nat × Nat × Nat)) : List Byte :=
  args.foldl (fun b a => listPatch b a.1 (leBytes a.2.1 a.2.2)) (leBytes 2 op ++ List.replicate 62 0)

/-- `s` with an accepted command in slot 2. -/
def holding (s : State) (op : Nat) (args : List (Nat × Nat × Nat)) : State :=
  { s with
    host := { s.host with pend := 4, accepted := [(2, { image := img op args, result := none })] },
    rst := { s.rst with coreHeld := false } }

/-- Slot 2 holds the command. -/
def holds (s : State) (op : Nat) : Bool :=
  slotPending s 2 && decide (fieldAt (acceptedOf s 2).image 0 2 = op) && decide ((acceptedOf s 2).result = none)

/-- STATUS of the response in slot 2, once MBX_PEND is clear. -/
def status (s : State) : Option Byte := if slotPending s 2 then none else some (tabGet 0 s.host.slots 130)

/-- STATUS of a background command that has ended. -/
def ended (s : State) : Option Byte := ((acceptedOf s 2).result).map (·.1)

theorem test_mailbox_accepts :
    let ready : State := { State.reset with rst := { RstSt.reset with fw := 1, coreHeld := false } }
    let slots (h : Nat) (op : Nat) := [(128, BitVec.ofNat 8 op), (136, (BitVec.ofNat 8 h : Byte))]
    let at_ (h op : Nat) : State := { ready with host := { ready.host with slots := slots h op, mbxq := (filled 64 [2]).settle } }
    slotPending (ran (.mbxDoorbell 2) ready) 2 = false ∧ (ran (.mbxDoorbell 2) ready).host.mbxq = filled 64 [2] ∧
    (tabGet LogEntry.zero (ran (.mbxDoorbell 2) (holding ready 1 [])).log.events 0).code = 0xA3 ∧
    (ran .mbxAccept (at_ 1 1)).host.pend = 4 ∧ (ran .mbxAccept (at_ 1 1)).host.hnext = 2 ∧
    status (ran .mbxAccept (at_ 1 0x7F)) = some 0xA0 ∧ (ran .mbxAccept (at_ 1 0x7F)).host.hnext = 2 ∧
    status (ran .mbxAccept (at_ 2 1)) = some 0xA1 ∧ (ran .mbxAccept (at_ 2 1)).host.hnext = 1 ∧
    still .mbxAccept { at_ 1 1 with rst := { RstSt.reset with fw := 0 } } = true := by decide +kernel

/-- The notice of DSEQ 9 for slot 2: 9 at bit 6 and the slot below it. -/
theorem test_mailbox_response :
    let s := holding { State.reset with host := { HostSt.reset with dnext := 9 } } 0x02 []
    let s1 := { s with host := { s.host with accepted := [(2, { image := img 2 [], result := some (0x40, []) })] } }
    (ran (.mbxBackgroundComplete 2) s1).host.respq = filled 64 [0x242] ∧
    (ran (.mbxBackgroundComplete 2) s1).host.dnext = 10 ∧ status (ran (.mbxBackgroundComplete 2) s1) = some 0x40 ∧
    (respond { s1 with rst := { s1.rst with perstLow := true } } 2 0 []).host.respWait.length = 1 := by decide +kernel

theorem test_ping_crash_reset :
    holds (holding { State.reset with tick := 0x1234 } 0x01 []) 0x01 = true ∧
    tabGet 0 (ran (.ping 2) (holding { State.reset with tick := 0x1234 } 0x01 [])).host.slots (128 + 0x18) = 0x34 ∧
    (ran (.crashMode 2) (holding State.reset 0x40 [(0x10, 1, 1)])).host.crash = true ∧
    status (ran (.crashMode 2) (holding State.reset 0x40 [(0x10, 1, 2)])) = some 0xA2 ∧
    (ran (.mbxBackgroundComplete 2) (ran (.reset 2) (holding State.reset 0x41 [(0x10, 1, 0)]))).rst.hostPend = [.core] ∧
    (ran (.mbxBackgroundComplete 2) (ran (.reset 2) (holding State.reset 0x41 [(0x10, 1, 1)]))).rst.hostPend = [.system] ∧
    ended (ran (.reset 2) (holding State.reset 0x41 [(0x10, 1, 2)])) = some 0xA2 := by decide +kernel

/-- A gate of Rilef with port 1 and no pans, and a tally of it. -/
def sPorts : State := withGate (withTally State.reset 7 0 0x10) 3 { GateSt.reset with owner := 0x10, ports := 2 }

theorem test_mailbox_synchronisation :
    (ran (.signal 2) (holding sPorts 0x30 [(0x10, 2, 7), (0x12, 2, 65535)])).sync.flight =
      [{ tly := 7, n := 65535, src := .mailbox 2 }] ∧
    status (ran (.signal 2) (holding sPorts 0x30 [(0x10, 2, 8), (0x12, 2, 1)])) = some 0x80 ∧
    status (ran (.signal 2) (holding sPorts 0x30 [(0x10, 2, 7), (0x12, 2, 0)])) = some 0xA2 ∧
    (ran (.gatePorts 2) (holding sPorts 0x32 [(0x10, 1, 3), (0x11, 1, 15)])).sync.newPorts = [(3, 15)] ∧
    status (ran (.gatePorts 2) (holding sPorts 0x32 [(0x10, 1, 4), (0x11, 1, 1)])) = some 0xA2 ∧
    (ran (.gateArrive 2) (holding sPorts 0x31 [(0x10, 1, 3), (0x11, 1, 1)])).sync.portArrive = [(3, 1, .mailbox 2)] ∧
    ended (ran (.gateArrive 2) (holding sPorts 0x31 [(0x10, 1, 3), (0x11, 1, 0)])) = some 0xA2 ∧
    (ran (.syncDump 2) (holding sPorts 0x33 [(0x10, 2, 0x8000), (0x18, 8, 2 ^ 28 - 43072)])).sync.snapReq = [.mailbox 2] ∧
    ended (ran (.syncDump 2) (holding sPorts 0x33 [(0x10, 2, 0x8000), (0x18, 8, 2 ^ 28 - 43071)])) = some 0xA2 := by decide +kernel

def sRegion : State :=
  { sPorts with host := { HostSt.reset with regions := [(0x8010, { limit := 0x1000, place := .quad 1 0 })] } }

theorem test_lanes_by_mailbox :
    (laneOf (ran (.bindLane 2) (holding sRegion 0x10
      [(0x10, 1, 63), (0x11, 1, 0x10), (0x12, 2, 0x8010), (0x14, 4, 7), (0x20, 8, 0x4000000)])) 63).valid = true ∧
    status (ran (.bindLane 2) (holding (modLane sRegion 63 fun l => { l with valid := true }) 0x10
      [(0x10, 1, 63), (0x11, 1, 0x10), (0x12, 2, 0x8010), (0x14, 4, 7), (0x20, 8, 1)])) = some 0xA2 ∧
    status (ran (.unbindLane 2) (holding sRegion 0x11 [(0x10, 1, 63)])) = some 0xA2 ∧
    (laneOf (ran (.unbindLane 2) (holding (modLane sRegion 63 fun l => { l with valid := true }) 0x11 [(0x10, 1, 63)])) 63).valid =
      false ∧
    sysRegion (ran (.mapHost 2 0x8001) (holding sRegion 0x23 [(0x18, 8, 0x5000), (0x20, 8, 0x100)])) 0x8001 =
      { limit := 0x100, place := .host 0x5000 } ∧
    status (ran (.mapHost 2 0x8001) (holding sRegion 0x23 [(0x20, 8, 0)])) = some 0xA2 := by decide +kernel

/-! ### Queues, ingest, the link -/

def respq (ws : List Dword) : State := { State.reset with host := { HostSt.reset with respq := (filled 64 ws).settle } }
def evq (q : Queue) : State := { State.reset with host := { HostSt.reset with evq := q.settle } }

theorem test_queue_reads :
    (ran .hostRespqRead (respq [0x242])).out = [.readData 0xA000000000000242] ∧
    (ran .hostRespqRead (respq [])).out = [.readData 0] ∧
    (ran .hostEvqRead (evq (filled 256 [5]))).out = [.readData 0xA000000000000005] ∧
    (ran .hostEvqRead (evq (spoilt 256 (filled 256 [5])))).out = [.readData 0xE000000000000005] ∧
    (ran .hostEvqRead { State.reset with host := { HostSt.reset with compat := true } }).out = [.readData 0xFFFFFFFFFFFFFFFF] := by
  decide +kernel

/-- The pointers count modulo 2 D (R323). -/
theorem test_queue_pointers :
    (Queue.push { Queue.reset with wp := 127, cp := 127, rp := 127 } 64 5).wp = 0 ∧
    (Queue.push { Queue.reset with wp := 127, cp := 127, rp := 127 } 64 5).count 64 = 1 ∧
    (filled 64 (List.replicate 64 9)).full 64 = true ∧ (filled 64 (List.replicate 63 9)).full 64 = false ∧
    (filled 64 [9]).head 64 = { word := 9, more := [], parity := true, last := true } ∧ ((filled 64 [9]).pop 64).count 64 = 0 := by
  decide +kernel

theorem test_queue_flushes :
    (ran .flushResp (respq [5])).host.respq.count 64 = 0 ∧ (ran .flushEv (evq (filled 256 [5, 6]))).host.evq.rp = 2 ∧
    (tabGet QErr.reset (ran .flushResp (respq [5])).host.qerr 0).flush = 1 ∧
    (ran .flushEv (evq ((filled 256 [5]).write 256 6 [] false false))).host.evq.flushReq = true ∧
    (ran (.queueFlushEffect true) (evq { filled 256 [5] with flushReq := true })).host.evq.count 256 = 0 ∧
    ((({ filled 256 [5] with flushReq := true } : Queue).write 256 6 [] true false).commit).rp = 2 ∧
    (tabGet QErr.reset (ran (.queueFlushEffect false) { State.reset with
      host := { HostSt.reset with respq := { Queue.reset with flushReq := true } } }).host.qerr 0).flush = 1 ∧
    still (.queueFlushEffect true) (evq { Queue.reset with flushReq := true, wp := 1 }) = true := by decide +kernel

/-- Lane 63 is bound to bytes 8 to 15 of region 0x8010. -/
def sLane : State := modLane sRegion 63 fun l =>
  { l with valid := true, owner := 0x10, tly := 7, region := 0x8010, off := 8, limit := 8 }

/-- The doorbell of lane 63 has been rung and seen. -/
def rung : State := syncQueues (ran (.ingestDoorbell 63 5) { sLane with rst := { RstSt.reset with coreHeld := false } })

theorem test_ingest :
    (laneOf (ran (.ingestWrite 63 6 [1, 2]) sLane) 63).staged = [14, 15] ∧
    (readBytes (ran (.ingestWrite 63 6 [1, 2]) sLane) (stagingLoc (2 ^ 22 * 63)) 2).1 = [1, 2] ∧
    (laneOf (ran (.ingestWrite 63 8 [1, 2]) sLane) 63).oob = 2 ∧
    (laneOf (ran (.ingestWrite 62 0 [1]) sLane) 62).unbound = 1 ∧
    (laneOf (ran (.ingestDoorbell 62 5) sLane) 62).unbound = 1 ∧
    (ran (.bar2Read 0 0) sLane).host.bar2Rd = 1 ∧
    (laneOf (ran (.ingestDoorbell 63 5) { sLane with rst := { RstSt.reset with coreHeld := false } }) 63).bells = [(5, 0)] ∧
    (ran (.ingestDoorbellSignal ⟨63, false⟩) rung).sync.flight = [{ tly := 7, n := 1, src := .sys 3 }] ∧
    (laneOf (ran (.ingestDoorbellSignal ⟨63, false⟩) rung) 63).token = 5 ∧
    (laneOf (ran (.ingestDoorbellSignal ⟨0, true⟩) rung) 63).token = 5 ∧
    (ran (.ingestDoorbellSignal ⟨63, false⟩) (modLane rung 63 fun l => { l with lost := true })).sync.flight = [] := by decide +kernel

theorem test_host_link :
    (ran (.hostAttach 0xA5C3000000000001) State.reset).host.attach = .attached ∧
    (ran (.hostAttach 0xA5C2000000000001) State.reset).host.bar0Drop = 1 ∧
    (ran (.hostAttach 0xA5C3000000000001) { State.reset with host := { HostSt.reset with attach := .quiescing } }).host.attachPend =
      true ∧
    (ran (.linkUp 8 6 true true) { State.reset with rst := { RstSt.reset with perstLow := false, sysHeld := false } }).host.width = 8 ∧
    still (.linkUp 8 6 true true) { State.reset with rst := { RstSt.reset with perstLow := true, sysHeld := false } } = true ∧ (ran .linkRetrain State.reset).host.retrains = 1 ∧
    (ran (.hostLoss .hotReset) { State.reset with host := { HostSt.reset with attach := .attached, crash := true } }).host.attach =
      .detached ∧
    (ran (.hostLoss .linkDisable) { State.reset with host := { HostSt.reset with attach := .attached } }).host.attach = .quiescing ∧
    (ran (.configRequest 0) State.reset).out = [.cfgRetry] ∧ (ran (.snoop 64) State.reset).out = [.snoopResp] ∧
    (ran (.configRequest 0) { State.reset with rst := { RstSt.reset with fw := 1 } }).out.length = 1 := by decide +kernel

/-- R354: HSEQ 1 comes again while HNEXT is 5: its response of DSEQ 9 comes back from the journal; one it does not hold is 0xA1. -/
theorem test_mailbox_replays :
    let ready : State := { State.reset with rst := { RstSt.reset with fw := 1, coreHeld := false } }
    let at_ (j : List (Nat × List Byte)) : State := { ready with host := { ready.host with
      slots := [(128, 1), (136, 1)], mbxq := (filled 64 [2]).settle, hnext := 5, dnext := 12, journal := j } }
    let r := padTo 0 64 ([1, 0, 0, 0, 0, 0, 0, 0, 1, 0, 0, 0, 0, 0, 0, 0, 9])
    (ran .mbxAccept (at_ [(9, r)])).host.respq = filled 64 [0x242] ∧ (ran .mbxAccept (at_ [(9, r)])).host.dnext = 12 ∧
    (ran .mbxAccept (at_ [])).host.dnext = 13 ∧ status (ran .mbxAccept (at_ [])) = some 0xA1 ∧
    (ran .mbxAccept { at_ [] with host := { (at_ []).host with
      pend := 1, accepted := [(0, { image := leBytes 8 3 ++ leBytes 8 1 ++ List.replicate 48 0, result := none })] } }).host.mbxq.count 64 = 0 := by
  decide +kernel

/-- A quadrant under self-test takes no staged bytes (R450). -/
theorem test_lane_tested :
    let s : State := { sLane with svc := { sLane.svc with test := some (.qsr 3) } }
    laneTested s 63 = true ∧ still (.ingestWrite 63 6 [1, 2]) s = true ∧ still (.ingestDoorbellSignal ⟨63, false⟩) s = true := by
  decide +kernel

/-! ### Tides, slices, tenants -/

/-- A standard gear at memory clock 0. -/
def gear0 : Gear :=
  { gear := 0, role := 0, memClk := 0, refresh := true, actBanks := 0, sramPerPan := 0x10000, powerMw := 500000, bounds := [100] }

/-- A tenant of one group that runs and holds no units. -/
def ten0 : Tenant :=
  { Tenant.reset with
    state := .running, tideUs := 10, bodyCount := 1, groups := 1, ctrlShare := 16, gears := [gear0], elig := 1, weight := 100,
    tide := 6, begun := true }

def onTen (x : Tenant) : State := setTen State.reset 0 x

/-- The forms of the tables that the statements ask for. -/
def canon (s : State) : Bool :=
  tabWf Pan.reset s.pans && tabWf Tenant.reset s.ten && tabWf SysChan.reset s.sch && tabWf Stack.reset s.dram.stk &&
  tabWf Tally.reset s.sync.tallies && tabWf Unit.reset s.dram.units && tabWf BankSt.reset s.dram.banks &&
  tabWf GateSt.reset s.sync.gates && tabWf Lane.reset s.host.lanes && tabWf Ring.reset s.host.rings &&
  tabWf Queue.reset s.host.queues &&  tabWf PortSt.reset s.net.ports && tabWf NetKey.reset s.net.keys && tabWf Qp.reset s.net.qps

theorem canon_iff (s : State) : canon s = true ↔ Canon s := by
  simp only [canon, Canon, Bool.and_eq_true, and_assoc]

/-- The tenant with one late pan: logical pan 0 on pan 0, still running. -/
def sLate (x : Tenant) : State := setPan (onTen { x with bind := { Binding.none with pans := [0] } }) 0 pan0

theorem test_boundary_ticks :
    canon (onTen ten0) = true ∧ still (.boundaryTick 0 []) (onTen { ten0 with state := .loaded }) = true ∧
    (tenOf (ran (.boundaryTick 0 []) (onTen ten0)) 0).tide = 7 ∧ (tenOf (ran (.boundaryTick 0 []) (onTen ten0)) 0).inTide = true ∧
    (tenOf (ran (.boundaryTick 0 []) (onTen { ten0 with begun := false, tide := 0 })) 0).tide = 0 ∧
    ({ ten0 with quiesceHost := true } : Tenant).quiesceDue = true ∧
    (tenOf (ran (.boundaryTick 0 []) (onTen { ten0 with quiesceHost := true, nextGear := 3 })) 0).nextGear = 0 ∧
    (tenOf (ran (.boundaryTick 0 []) (onTen { ten0 with quiesceHost := true })) 0).state = .quiesced ∧
    lateSlot (sLate { ten0 with inTide := true }) 0 = some 0 ∧
    (tenOf (ran (.boundaryTick 0 []) (sLate { ten0 with inTide := true })) 0).state = .halted ∧
    (tenOf (ran (.boundaryTick 0 []) (sLate { ten0 with inTide := true })) 0).tide = 6 := by decide

theorem test_commit_ticks :
    (tenOf (ran (.commitTick 0) (onTen { ten0 with nextGear := 3 })) 0).commitGear = 3 ∧
    still (.commitTick 0) (onTen { ten0 with state := .halted, nextGear := 3 }) = true := by decide

def entry (l : Bool) (m : Half) : SliceEntry := { last := l, lenUs := 100, mask := m }

def slices (tb : List SliceEntry) (cur : Nat) (turn : Bool) (x : Tenant) : State :=
  { onTen x with tick := 900, slice := { SliceSt.reset with table := tb, cur := cur, turnover := turn } }

theorem test_slices :
    still .sliceEntryEnd (onTen ten0) = true ∧
    (ran .sliceEntryEnd (slices [entry false 1, entry true 1] 0 false ten0)).slice.cur = 1 ∧
    (ran .sliceEntryEnd (slices [entry false 1, entry true 1] 1 false ten0)).slice.cycles = 1 ∧
    (ran .sliceEntryEnd (slices [entry false 1, entry true 2] 0 false ten0)).slice.turnover = true ∧
    (tenOf (ran .sliceEntryEnd (slices [entry false 1, entry true 2] 0 false ten0)) 0).state = .slicedOut ∧
    still .turnoverEnd (slices [entry true 1] 0 false ten0) = true ∧
    (tenOf (ran .turnoverEnd (slices [entry true 1] 0 true { ten0 with state := .slicedOut })) 0).anchor = 900 ∧
    (tenOf (ran .turnoverEnd (slices [entry true 1] 0 true { ten0 with state := .slicedOut })) 0).state = .running := by decide

/-! ### Tenants and the placer by mailbox -/

/-- Unused spares are filled, so that images load (R289). -/
def sparesDone (s : State) : State := { s with log := { s.log with sparesFilled := true } }

theorem test_image_not_there :
    regionView (holding State.reset 0x03 []) none 0 0 = none ∧ State.reset.rst.fillDue = false ∧
    still (.loadImage 2 ImageReq.none Binding.none []) (holding State.reset 0x03 []) = true ∧
    ended (ran (.loadImage 2 ImageReq.none Binding.none []) (sparesDone (holding State.reset 0x03 []))) = some 0xA2 := by decide

theorem test_tenant_commands :
    ended (ran (.unload 2 []) (holding State.reset 0x04 [(0x10, 1, 0)])) = some 0xA2 ∧
    tableSound (retryDegraded (dropTenant (onTen { ten0 with state := .loaded }) 0)) [] = true ∧
    (tenOf (ran (.unload 2 []) (holding (onTen { ten0 with state := .loaded }) 0x04 [(0x10, 1, 0)])) 0).state = .empty ∧
    status (ran (.start 2) (holding (onTen ten0) 0x05 [(0x10, 1, 0)])) = some 0xA2 ∧
    startGear (holding (onTen { ten0 with state := .loaded }) 0x05 [(0x10, 1, 0)]) 0 = some (gear0, false) ∧
    (tenOf (ran (.start 2) (holding { onTen { ten0 with state := .loaded } with tick := 800 } 0x05 [(0x10, 1, 0)])) 0).anchor = 1600 ∧
    (tenOf (ran (.start 2) (holding (onTen { ten0 with state := .loaded }) 0x05 [(0x10, 1, 0)])) 0).tide = 0 ∧
    (tenOf (ran (.start 2) (holding (onTen { ten0 with state := .loaded }) 0x05 [(0x10, 1, 0)])) 0).state = .slicedOut ∧
    status (ran (.setWeight 2 [entry true 1]) (holding (onTen ten0) 0x06 [(0x10, 1, 0), (0x12, 2, 1001)])) = some 0xA2 ∧
    tableSound (slices [entry true 1] 0 false ten0) [entry true 1] = true ∧
    (tenOf (ran (.setWeight 2 [entry true 1]) (holding (slices [entry true 1] 0 false ten0) 0x06
      [(0x10, 1, 0), (0x12, 2, 1000)])) 0).weight = 1000 := by decide +kernel

def slot0 : SeqSlot := { req := { region := 0, group := 0, ptok := 64, run := 1, pairs := 1, unitBytes := 32 }, blocks := 5, due := false, maxLen := none }

theorem test_stage :
    let pl : Place := .blocks 4096 [{ at_ := { stack := 0, die := 0, bank := 0 }, l0 := 0 }]
    let s := holding State.reset 0x02 [(0x10, 8, 4096)]
    placeSound s pl = true ∧ decide (4096 ≤ placeBytes pl) = true ∧ decide (4096 ≤ freeDram s) = true ∧
    sysRegion (ran (.stage 2 0x8001 pl) s) 0x8001 = { limit := 4096, place := pl } := by decide +kernel

theorem test_placer_commands :
    let s (op : Nat) (a : List (Nat × Nat × Nat)) := holding (onTen { ten0 with slots := [slot0] }) op a
    status (ran (.plcBudget 2) (s 0xC1 [(0x10, 1, 0), (0x18, 8, 4)])) = some 0xA2 ∧
    (tenOf (ran (.plcBudget 2) (s 0xC1 [(0x10, 1, 0), (0x11, 1, 1), (0x18, 8, 5), (0x20, 8, 2)])) 0).newBudget = some (5, 2, true) ∧
    status (ran (.plcBudget 2) (s 0xC1 [(0x10, 1, 0), (0x18, 8, 2 ^ 40)])) = some 0xC0 ∧
    status (ran (.plcTrim 2) (s 0xC2 [(0x10, 1, 0), (0x12, 2, 1)])) = some 0xA2 ∧
    (tenOf (ran (.plcTrim 2) (s 0xC2 [(0x10, 1, 0), (0x18, 8, 65)])) 0).trims = [(0, 2)] ∧
    (tenOf (ran (.plcTrim 2) (s 0xC2 [(0x10, 1, 0), (0x18, 8, 0)])) 0).trims = [(0, 1)] ∧
    (panOf (ran (.plcRetire 2) (s 0xC4 [(0x10, 1, 1), (0x11, 1, 35)])) 35).retired = true ∧
    status (ran (.plcRetire 2) (s 0xC4 [(0x10, 1, 1), (0x11, 1, 36)])) = some 0xA2 ∧
    status (ran (.plcQuery 2) (s 0xC5 [])) = some 0 ∧
    (ran (.govSetCap 2) (s 0xC0 [(0x10, 2, 1200)])).gov.cap = 1200 ∧
    status (ran (.govSetCap 2) (s 0xC0 [(0x10, 2, 1201)])) = some 0xA2 ∧
    (ran (.calSet 2) (s 0xC3 [(0x18, 8, 77), (0x20, 2, 32767)])).cal.sec = 77 ∧
    status (ran (.calSet 2) (s 0xC3 [(0x20, 2, 32768)])) = some 0xA2 := by decide +kernel

theorem test_placement_moves :
    let m : MoveWhat := .pan 0 8
    let s := onTen { ten0 with moves := [{ what := m, copied := false }] }
    moveOwners s m = [0] ∧ moveReady s 0 = true ∧ (tenOf (ran (.placementMoveComplete 0 m) s) 0).moves.map (·.copied) = [true] ∧
    still (.placementMoveComplete 0 m) (onTen ten0) = true := by decide +kernel

/-! ### An image that loads -/

/-- A header of 0x60 bytes without its CRC: tide of 10 µs, one body, one gear, one group, four sections, 0xEC bytes. -/
def head0 : List Byte :=
  leBytes 4 0x51535250 ++ leBytes 2 2 ++ leBytes 2 0x60 ++ leBytes 8 0xEC ++ leBytes 4 10 ++ leBytes 4 1 ++ [1, 1, 1, 0] ++
    leBytes 4 0 ++ leBytes 8 0x40000 ++ leBytes 8 0 ++ leBytes 8 0 ++ List.replicate 32 7 ++ leBytes 4 4

def sect (ty off size : Nat) : List Byte := leBytes 4 ty ++ leBytes 8 off ++ leBytes 4 size

def record0 : List Byte := List.replicate 32 7 ++ leBytes 4 100

def image0 : List Byte :=
  head0 ++ leBytes 4 649412484 ++ sect 1 0xA0 32 ++ sect 2 0xC0 1 ++ sect 4 0xC4 40 ++ sect 5 0xEC 0 ++
    ([0, 0, 0, 1, 0, 0, 0, 0] ++ leBytes 8 0x40000 ++ leBytes 4 500000 ++ List.replicate 12 0) ++ [0, 0, 0, 0] ++
    record0 ++ leBytes 4 221676854

def bind0 : Binding := { Binding.none with pans := [0, 1, 2, 3, 4, 5, 6, 7] }

/-- The cells of `image0` in quadrant 1, with their check bytes. -/
def imageCells : Memory :=
  [(17448304640, 80), (17448304641, 82), (17448304642, 83), (17448304643, 81), (17448304644, 2), (17448304646, 96),
   (17448304648, 26), (17448304649, 166), (17448304656, 236), (17448304664, 1), (17448304665, 53), (17448304672, 10),
   (17448304676, 1), (17448304680, 16), (17448304681, 29), (17448304688, 1), (17448304689, 1), (17448304690, 1),
   (17448304696, 7), (17448304697, 3), (17448304706, 4), (17448304712, 4), (17448304713, 12), (17448304752, 7),
   (17448304753, 7), (17448304754, 7), (17448304755, 7), (17448304756, 7), (17448304757, 7), (17448304758, 7),
   (17448304759, 7), (17448304760, 255), (17448304768, 7), (17448304769, 7), (17448304770, 7), (17448304771, 7),
   (17448304772, 7), (17448304773, 7), (17448304774, 7), (17448304775, 7), (17448304776, 255), (17448304784, 7),
   (17448304785, 7), (17448304786, 7), (17448304787, 7), (17448304788, 7), (17448304789, 7), (17448304790, 7),
   (17448304791, 7), (17448304792, 255), (17448304800, 7), (17448304801, 7), (17448304802, 7), (17448304803, 7),
   (17448304804, 7), (17448304805, 7), (17448304806, 7), (17448304807, 7), (17448304808, 255), (17448304816, 4),
   (17448304820, 132), (17448304821, 63), (17448304822, 181), (17448304823, 38), (17448304824, 193),
   (17448304825, 116), (17448304832, 1), (17448304836, 160), (17448304840, 1), (17448304841, 226), (17448304852, 32),
   (17448304856, 16), (17448304857, 96), (17448304864, 2), (17448304868, 192), (17448304872, 1), (17448304873, 71),
   (17448304884, 1), (17448304888, 16), (17448304889, 3), (17448304896, 4), (17448304900, 196), (17448304904, 17),
   (17448304905, 65), (17448304916, 40), (17448304921, 120), (17448304928, 5), (17448304932, 236), (17448304936, 16),
   (17448304937, 58), (17448304963, 1), (17448304968, 8), (17448304969, 3), (17448304978, 4), (17448304984, 4),
   (17448304985, 12), (17448304992, 32), (17448304993, 161), (17448304994, 7), (17448305000, 7), (17448305001, 139),
   (17448305028, 7), (17448305029, 7), (17448305030, 7), (17448305031, 7), (17448305032, 240), (17448305040, 7),
   (17448305041, 7), (17448305042, 7), (17448305043, 7), (17448305044, 7), (17448305045, 7), (17448305046, 7),
   (17448305047, 7), (17448305048, 255), (17448305056, 7), (17448305057, 7), (17448305058, 7), (17448305059, 7),
   (17448305060, 7), (17448305061, 7), (17448305062, 7), (17448305063, 7), (17448305064, 255), (17448305072, 7),
   (17448305073, 7), (17448305074, 7), (17448305075, 7), (17448305076, 7), (17448305077, 7), (17448305078, 7),
   (17448305079, 7), (17448305080, 255), (17448305088, 7), (17448305089, 7), (17448305090, 7), (17448305091, 7),
   (17448305092, 100), (17448305096, 31), (17448305097, 172), (17448305104, 54), (17448305105, 133), (17448305106, 54),
   (17448305107, 13), (17448305112, 10), (17448305113, 153)]

/-- The image in system region 0x8010, and LOAD_IMAGE in slot 2. -/
def sImage : State :=
  let s := holding { State.reset with host := { HostSt.reset with regions := [(0x8010, { limit := 0x1000, place := .quad 1 0 })] } }
    0x03 [(0x10, 2, 0x8010)]
  sparesDone { s with mem := imageCells }

theorem image_words (j : Fin 30) :
    seenWord sImage (quadKey 1 0 + j.val) =
      { d := (wordsOfBytes (image0 ++ [0, 0, 0, 0])).getD j.val 0, check := .clean, syn := 0 } := by
  revert j; decide +kernel

theorem image_locs : (List.range 236).all (fun i => decide (viewLoc sImage (.placed (.quad 1 0)) (0 + i) =
    some (8 * quadKey 1 0 + i))) = true := by decide +kernel

/-- The image reads back from its region, every word of it clean. -/
theorem test_image_reads :
    (readRegion sImage (.placed (.quad 1 0)) 0 0xEC).bytes = image0 ∧
    (readRegion sImage (.placed (.quad 1 0)) 0 0xEC).bad = false := by
  refine ⟨?_, by decide +kernel⟩
  have hb : (readRegionFrom sImage 0 (.placed (.quad 1 0)) 0 0xEC).bytes = (List.range 236).map fun i =>
      (leBytes 8 ((wordsOfBytes (image0 ++ [0, 0, 0, 0])).getD (i / 8) 0).toNat).getD (i % 8) 0 := by
    refine List.map_congr_left fun i hi => ?_
    have hi' : i < 236 := List.mem_range.1 hi
    have hl := of_decide_eq_true (List.all_eq_true.1 image_locs i hi)
    have hw := image_words ⟨i / 8, by omega⟩
    have h1 : (8 * quadKey 1 0 + i) / 8 = quadKey 1 0 + i / 8 := by omega
    have h2 : (8 * quadKey 1 0 + i) % 8 = i % 8 := by omega
    have h3 : 8 * quadKey 1 0 + i < hostLoc := by
      have : 8 * quadKey 1 0 + 236 < hostLoc := by decide +kernel
      omega
    simp only [hl, h3, if_true, seenByte, h1, h2, hw]
  rw [readRegion, hb]
  decide +kernel

theorem test_image_accepted :
    imageRefusal sImage image0 (readImage image0) 0x1000 = none ∧ streamRefusal (readImage image0) ImageReq.none = none ∧
    (match fitImage sImage (readImage image0) ImageReq.none 0 with
     | .ok e n b => bindSound sImage ImageReq.none bind0 n && tableSound (setTen sImage 0
         (loadedTenant (readImage image0) ImageReq.none bind0 e n b false)) [entry true 1]
     | .short _ => false) = true := by decide +kernel

/-- The channel, the units and the accesses that LOAD_IMAGE asks for are free. -/
theorem test_image_hypotheses :
    moveChan sImage = some 12 ∧ (putInits (markSliced sImage [entry true 1]) bind0 []).2 = none ∧
    (readRegion sImage (.placed (.quad 1 0)) 0 0xEC).units.any (unitBlocked sImage (.sys 12)) = false ∧
    (readRegion sImage (.placed (.quad 1 0)) 0 0xEC).host = false ∧ canon sImage = true := by decide +kernel

/-- No boundary tick, slice or unload falls within a bundle; one that starts while a host loss quiesces is quiesced at once where its
entry does not run; a table that waits takes over at the end of the cycle. -/
theorem test_between_bundles :
    let s := setPan (sLate ten0) 0 { pan0 with mid := true }
    let tb := [entry true 1]
    bundleOpen s 0 = true ∧ still (.boundaryTick 0 []) s = true ∧ still .sliceEntryEnd s = true ∧
    still (.unload 2 []) (holding s 0x04 [(0x10, 1, 0)]) = true ∧
    (tenOf (ran (.start 2) (holding { onTen { ten0 with state := .loaded } with host := { HostSt.reset with attach := .quiescing } } 0x05
      [(0x10, 1, 0)])) 0).state = .quiesced ∧
    (let w := slices tb 0 false ten0
     (ran .sliceEntryEnd { w with slice := { w.slice with next := some [entry true 1, entry true 2] } }).slice.table.length = 2) := by
  decide +kernel

/-! ### Harvest -/

def stream0 : Stream :=
  { req := { recsz := 64, perTide := 1, tally := 5, area := 0x1000, slots := 4, len := 8 }, ring := none, nextSlot := 0, tides := [],
    made := 0, held := [], started := false }

/-- Tenant 0 with one stream, whose tally counts a record in quadrant SRAM. -/
def sHarvest (x : Stream) (r : Ring) : State :=
  let s := withTally (setPan (onTen { ten0 with streams := [x], bind := { Binding.none with pans := [0] } }) 0 pan0) 5 1 0
  { s with host := { s.host with attach := .attached, linkUp := true, rings := if r = Ring.reset then [] else [(3, r)] } }

def ring0 : Ring := { Ring.reset with valid := true, state := .run, log2 := 4, recsz := 64, base := 0x10000, flag := 0x9000 }

theorem test_harvest_take :
    canon (sHarvest stream0 Ring.reset) = true ∧ (regionView (sHarvest stream0 Ring.reset) (some 0) 0 1).isSome = true ∧
    chanBusy (sHarvest stream0 Ring.reset) 4 = false ∧
    (tallyOf (ran (.harvestTake 0 0) (sHarvest stream0 Ring.reset)) 5).value = 0 ∧
    (streamOf (ran (.harvestTake 0 0) (sHarvest stream0 Ring.reset)) 0 0).made = 1 ∧
    still (.harvestTake 0 0) (setTally (sHarvest stream0 Ring.reset) 5 { Tally.reset with owner := 0 }) = true := by decide +kernel

theorem test_ring_commands :
    status (ran (.bindRing 2) (holding (sHarvest stream0 Ring.reset) 0x20 [(0x10, 1, 3), (0x13, 1, 4), (0x18, 8, 0x10000)])) =
      some 0 ∧
    (ringOf (ran (.bindRing 2) (holding (sHarvest stream0 Ring.reset) 0x20 [(0x10, 1, 3), (0x13, 1, 16)])) 3).state = .run ∧
    status (ran (.unbindRing 2) (holding (sHarvest stream0 Ring.reset) 0x21 [(0x10, 1, 3)])) = some 0xA2 ∧
    (ringOf (ran (.unbindRing 2) (holding (sHarvest stream0 ring0) 0x21 [(0x10, 1, 3)])) 3).valid = false ∧
    ended (ran (.replayRing 2) (holding (sHarvest stream0 ring0) 0x22 [(0x10, 1, 3), (0x18, 8, 0)])) = some 0xAA ∧
    ended (ran (.replayRing 2) (holding (sHarvest stream0 ring0) 0x22 [(0x10, 1, 3), (0x18, 8, 2)])) = some 0xA2 ∧
    ended (ran (.replayRing 2) (holding (sHarvest { stream0 with made := 5, held := [[], []] } ring0) 0x22
      [(0x10, 1, 3), (0x18, 8, 3)])) = some 0xAA ∧
    (ringOf (ran (.replayRing 2) (holding (sHarvest { stream0 with made := 5, held := [[], []] } { ring0 with sent := 5, next := 5 }) 0x22
      [(0x10, 1, 3), (0x18, 8, 4)])) 3).next = 3 := by decide +kernel

theorem test_rings_write :
    let made := { stream0 with made := 1, held := [[1]] }
    (ringOf (ran (.hrvHeadWrite 3 4) (sHarvest stream0 { ring0 with sent := 4 })) 3).head = 4 ∧
    (ran (.hrvHeadWrite 3 5) (sHarvest stream0 { ring0 with sent := 4 })).host.bar0Drop = 1 ∧
    (ringOf (ran (.harvestRecordWrite 3 1) (sHarvest made ring0)) 3).sent = 1 ∧
    (ringOf (ran (.harvestRecordWrite 3 1) (sHarvest made { ring0 with flushRd := true })) 3).flushing = some 1 ∧
    (ringOf (ran (.flushReadComplete 3 true) (sHarvest made { ring0 with flushRd := true, flushing := some 1 })) 3).sent = 1 ∧
    (ringOf (ran (.flushReadComplete 3 false) (sHarvest made { ring0 with flushRd := true, flushing := some 1 })) 3).state = .error ∧
    still (.flushReadComplete 3 true) (sHarvest made ring0) = true := by decide +kernel

/-! ### Pond units -/

def cmd0 : PondCmd :=
  { opHi := 0, fmtA := 0, fmtW := 0, bmask := 1, acc := false, winv := false, win := 0, flagsHi := 0, wbase := 0, nw := 0, rsv7 := 0,
    row := 0, col := 0, rsvB := 0, count := 0, stride := 0, adst := 0, asrc := 0, sig := 0, aux := 0, rsv1C := 0 }

def seg0 : SegIx := { stack := 0, pc := 0, sid := 0 }
def bank0 : BankIx := { stack := 0, die := 0, bank := 0 }
def key0 : Nat := (unitAt State.reset bank0).key

/-- Pseudo-channel 0 of stack 0 in pond mode, with unit `x` in its first bank. -/
def onPond (x : Machine.Unit) : State :=
  let s := modStack State.reset 0 fun k => { k with pond := 1 }
  { s with dram := { s.dram with units := if x = Unit.reset then [] else [(key0, x)] } }

def fill0 : PondCmd := { cmd0 with aux := 1, count := 2, adst := 3, sig := 0x3F800000 }
def run (op : BitVec 6) (c : PondCmd) : PondRun := { op := op, tag := 5, cmd := c, ten := none }
def firstUnit (s : State) : Machine.Unit := unitOf s key0

theorem test_pond_mode :
    canon (onPond Unit.reset) = true ∧ pondOn (ran (.pondEnter 0 63) State.reset) 0 63 = true ∧
    (pcBanks 0 0).all (unitIdle (onPond Unit.reset)) = true ∧ pondOn (ran (.pondExit 0 0) (onPond Unit.reset)) 0 0 = false ∧
    (stackOf (ran (.pondExit 0 0) (onPond { Unit.reset with running := some (run 7 fill0) })) 0).exiting = 1 ∧
    (stackOf (ran (.pmodeInj 0 5 true) State.reset) 0).inj = 0x20 ∧
    (stackOf (ran (.spmapWrite 0 11 7 9 true) (sparesDone State.reset)) 0).spval = [(11, 0x80)] ∧
    (stackOf (ran (.spmapWrite 0 11 7 9 true) (sparesDone State.reset)) 0).spmap = [(95, 9)] ∧
    still (.spmapWrite 0 11 7 9 true) State.reset = true := by decide +kernel

theorem test_result_row :
    (ran (.resultRowRead bank0 0) State.reset).out = [.rowData (some (List.replicate 32 0))] ∧
    (ran (.resultRowRead bank0 15) (onPond Unit.reset)).out = [.rowData (some (List.replicate 32 0))] ∧
    (ran (.resultRowRead bank0 16) (onPond { Unit.reset with a := [(0, 0x42860001)] })).out =
      [.rowData (some ([0x01, 0x00, 0x86, 0x42] ++ List.replicate 28 0))] ∧
    (ran (.resultRowRead bank0 31) (onPond { Unit.reset with aPoison := [(127, true)] })).out = [.rowData none] ∧
    (ran (.resultRowRead bank0 16) (onPond { Unit.reset with running := some (run 7 fill0) })).out = [] ∧
    (bankOf (ran (.resultRowRead bank0 16) (onPond { Unit.reset with running := some (run 7 fill0) })) (bankKeyOf bank0)).asked = [none] ∧
    (firstUnit (ran (.resultRowRead bank0 0) (onPond { Unit.reset with corr := 3 }))).corr = 0 := by decide +kernel

/-- The thirteen command rows, with their opcodes. -/
def rows (a : Arrival) (c : PondCmd) : List (Instr × BitVec 6) :=
  [(.nop seg0 5 a c, 0), (.ldw seg0 5 a c, 1), (.dot seg0 5 a c, 2), (.softp seg0 5 a c, 3), (.wsum seg0 5 a c, 4),
   (.mvw seg0 5 a c, 5), (.ewu seg0 5 a c, 6), (.fill seg0 5 a c, 7), (.copyr seg0 5 a c, 8), (.csend seg0 5 a c, 9),
   (.crecv seg0 5 a c, 10), (.ccomb seg0 5 a c, 11), (.check seg0 5 a c, 12)]

theorem test_pond_commands_dropped : ((rows .good fill0).all fun i => still i.1 State.reset) = true := by decide +kernel

theorem test_pond_commands_arrive :
    ((rows .good fill0).all fun i =>
      let x := firstUnit (ran i.1 (onPond Unit.reset))
      decide (x.tag = 5) && decide (x.running.map (·.op) = some i.2)) = true ∧
    (firstUnit (ran (.nop seg0 5 .good cmd0) (onPond Unit.reset))).running = none ∧
    pondStop 7 fill0 0 0 = none ∧ (firstUnit (ran (.fill seg0 5 .good fill0) (onPond Unit.reset))).runStat = 0 ∧
    pondStop 7 { fill0 with count := 1022 } 0 0 = some 3 ∧
    (firstUnit (ran (.fill seg0 5 .good { fill0 with count := 1022 }) (onPond Unit.reset))).runStat = 3 ∧
    (firstUnit (ran (.fill seg0 5 .uncorrectable fill0) (onPond Unit.reset))).stat = 6 ∧
    (firstUnit (ran (.fill seg0 6 .good fill0) (onPond { Unit.reset with running := some (run 7 fill0) }))).holding.map (·.tag) =
      some 6 ∧
    (firstUnit (ran (.fill seg0 6 .good fill0) (onPond { Unit.reset with holding := some (run 7 fill0) }))).stat = 1 ∧
    (firstUnit (ran (.crecv seg0 5 .good cmd0) (onPond Unit.reset))).running.map (·.op) = some 10 := by decide +kernel

/-- R197: a command row write waits for an exit from pond mode; outside pond mode it is dropped. -/
theorem test_command_rows_wait :
    still (.fill seg0 5 .good fill0) (modStack (onPond Unit.reset) 0 fun k => { k with exiting := 1 }) = true ∧
    still (.fill seg0 5 .good fill0) State.reset = true := by decide +kernel

theorem test_pond_commands_run :
    still (.pondCommandStart bank0) (onPond Unit.reset) = true ∧
    (firstUnit (ran (.pondCommandStart bank0) (onPond { Unit.reset with holding := some (run 7 fill0) }))).running =
      some (run 7 fill0) ∧
    still (.pondCommandEnd bank0) (onPond { Unit.reset with running := some (run 1 cmd0), payload := 1 }) = true ∧
    (firstUnit (ran (.pondCommandEnd bank0) (onPond { Unit.reset with running := some (run 7 fill0), runStat := 3 }))).stat = 3 ∧
    (firstUnit (ran (.pondCommandEnd bank0) (onPond { Unit.reset with running := some (run 7 fill0) }))).a =
      [(3, 0x3F800000), (4, 0x3F800000)] ∧
    (firstUnit (ran (.pondCommandEnd bank0) (onPond { Unit.reset with running := some (run 10 cmd0), carry := [(7, false)] }))).a =
      [(0, 7)] ∧
    (firstUnit (ran (.pondCommandEnd bank0) (onPond { Unit.reset with
      running := some (run 9 { cmd0 with aux := 2, count := 1 }), a := [(0, 7)] }))).stat = 0 := by decide +kernel

/-- Payload of LDW: the second W register of a window of two. -/
theorem test_ldw_payload :
    let x : Machine.Unit := { Unit.reset with running := some (run 1 cmd0), payload := 1 }
    let s := onPond x
    let w : Window := { tag := 5, bmask := 1, wbase := 2, left := 1, next := 1 }
    let s1 := { s with dram := { s.dram with windows := [(segKey seg0, w)] } }
    (windowOf s1 seg0).left = 1 ∧ awaiting x.running 5 = true ∧
    (firstUnit (ran (.ldwPayload seg0 5 [9]) s1)).payload = 0 ∧
    tabGet 0 (firstUnit (ran (.ldwPayload seg0 5 [9]) s1)).w 96 = 9 := by decide +kernel

/-! ### Pond streams -/

def attn0 : AttnRef := { record := 0x100, pair := 0, slot := 0, block := 0, t0 := 0, heads := 1 }

def plan (i : List PlanItem) : PlanTable :=
  { gear := 0, body := 0, group := 0, items := i.map fun x => (0, x), signal := some 5 }

/-- Tenant 0 in a tide, with one stream table on die 0 of stack 0. -/
def sPlan (i : List PlanItem) (x : Tenant) : State :=
  let s := setPan (onPond Unit.reset) 0 pan0
  setTen s 0 { x with inTide := true, img := { ImageReq.none with plan := [plan i] }, bind := { Binding.none with pans := [0], members := [[{ stack := 0, die := 0, banks := [0, 1] }]] } }

theorem test_pond_streams :
    let tx := { ten0 with slots := [slot0] }
    streamLive (tenOf (sPlan [.transfer 0 0] ten0) 0) (plan [.transfer 0 0]) = true ∧
    tabGet 0 (tenOf (ran (.pondStreamIssue 0 0) (sPlan [.transfer 0 0] ten0)) 0).planPos 0 = 1 ∧
    still (.pondStreamIssue 0 1) (sPlan [.transfer 0 0] ten0) = true ∧
    memberBank (tenOf (sPlan [.cmd 0 0 7 fill0 [] none] ten0) 0) 0 0 0 = some bank0 ∧
    overLimit (sPlan [.cmd 0 0 7 fill0 [] none] { ten0 with gears := [{ gear0 with actBanks := 1 }] }) 0 seg0 7 fill0 = false ∧
    (firstUnit (ran (.pondStreamIssue 0 0) (sPlan [.cmd 0 0 7 fill0 [] none] { ten0 with gears := [{ gear0 with actBanks := 1 }] }))).running.isSome =
      true ∧
    overLimit (sPlan [.cmd 0 0 7 fill0 [] none] ten0) 0 seg0 7 fill0 = true ∧
    (tenOf (ran (.pondStreamIssue 0 0) (sPlan [.cmd 0 0 7 fill0 [] none] ten0)) 0).haltCode = some 0x55 ∧
    still (.pondStreamComplete 0 0) (sPlan [.transfer 0 0] ten0) = true ∧
    (ran (.pondStreamComplete 0 0) (sPlan [] ten0)).sync.flight.map (·.tly) = [5] ∧
    (ran (.pondStreamComplete 0 0) (sPlan [] { ten0 with planFault := [0] })).sync.flight = [] ∧
    streamLoc (sPlan [] tx) 0 0x100 = some (8 * sramKey 0 pan0 0x100) ∧
    (tenOf (ran (.attnRecordRead 0 attn0) (sPlan [] tx)) 0).attn.map (·.len) = [0] := by decide +kernel

/-- Tenant 0 with a slot of one pair in blocks 0 and 1 of a run of 2, on banks 0 and 1. -/
def tenRun : Tenant :=
  { ten0 with slots := [{ slot0 with req := { slot0.req with run := 2 } }], gears := [{ gear0 with actBanks := 16 }],
              regions := [{ limit := 8192, mirrored := false, map := [],
                            place := .blocks 4096 [{ at_ := bank0, l0 := 0 }, { at_ := { bank0 with bank := 1 }, l0 := 0 }] }] }

/-- R237: with 65 tokens both blocks are live and CSEND goes at the first position only; with 64 tokens it goes nowhere. -/
theorem test_attention_gates :
    let a (n : Nat) : AttnRead := { record := 0x100, len := n, qsig := 0, qrow := [], skip := false }
    gateOpen tenRun 9 attn0 (a 65) = true ∧ gateOpen tenRun 9 { attn0 with block := 1 } (a 65) = false ∧
    gateOpen tenRun 9 attn0 (a 64) = false ∧ lastLive tenRun attn0 64 = true ∧ lastLive tenRun attn0 65 = false ∧
    lastLive tenRun { attn0 with block := 1 } 65 = true ∧
    liveBanks tenRun attn0 65 = [bank0, { bank0 with bank := 1 }] ∧ liveBanks tenRun attn0 64 = [bank0] ∧
    blockOf tenRun attn0 1 = some { at_ := { bank0 with bank := 1 }, l0 := 0 } ∧
    partialAt tenRun 0x200 { attn := { attn0 with block := 2, heads := 4 }, head := 3, vlen := 64, elem := 5 } =
      0x200 + 4 * ((4 + 3) * 66 + 5) := by decide +kernel

/-- A record of 321 tokens in a slot that holds 320. -/
theorem test_attention_too_long :
    let s := writeWords (sPlan [] { ten0 with slots := [slot0] }) (sramKey 0 pan0 0x100) [321]
    (tenOf (ran (.attnRecordRead 0 attn0) s) 0).haltCode = some 0x58 ∧
    (tenOf (ran (.attnRecordRead 0 attn0) s) 0).attn.map (·.skip) = [true] ∧
    still (.attnRecordRead 0 attn0) (ran (.attnRecordRead 0 attn0) s) = true ∧
    gateOpen ten0 2 attn0 { record := 0x100, len := 0, qsig := 0, qrow := [], skip := false } = false := by decide +kernel

/-- Unit `x` of the first bank, its command `op` done. -/
def afterRun (op : BitVec 6) (c : PondCmd) (x : Machine.Unit) : Machine.Unit :=
  firstUnit (ran (.pondCommandEnd bank0) (onPond { x with running := some (run op c) }))

/-- DOT of two FP32 elements of W by zeros, MVW from its accumulator, SOFTP of 1.0 against 0, CCOMB, LDW from columns, and a WSUM. -/
theorem test_pond_effects :
    let two : PondCmd := { cmd0 with nw := 1, count := 1, adst := 3, sig := 0x3F800000 }
    let x : Machine.Unit := { Unit.reset with w := [(3, 0x80), (2, 0x3F)], a := [(0, 0x3F800000), (3, 0x40000000)] }
    accOf (afterRun 2 two x) 3 = 0 ∧ accOf (afterRun 5 { two with acc := true } x) 3 = 0x40000000 ∧
    accOf (afterRun 3 { two with asrc := 0, adst := 8, aux := 0x800 } x) 8 = 0x3F800000 ∧
    accOf (afterRun 3 { two with asrc := 0, adst := 8, aux := 0x800 } x) 9 = 0x3F800000 ∧
    accOf (afterRun 11 { two with asrc := 3, adst := 0 } x) 0 = 0x40000000 ∧
    accOf (afterRun 4 { two with asrc := 0, aux := 1 } x) 3 = 0x40000000 ∧
    wReg (afterRun 1 { two with aux := 1 } x) 0 = List.replicate 32 0 := by decide +kernel

/-- FILL with TGT = 0 writes W0 to its columns, COPYR copies them. -/
theorem test_pond_columns :
    let x : Machine.Unit := { Unit.reset with w := [(0, 0x5A)], running := some (run 7 { cmd0 with count := 1, nw := 1 }) }
    let s := ran (.pondCommandEnd bank0) (onPond x)
    (columnAt s.mem (unitAt s bank0) 0).bytes.take 2 = [0x5A, 0] ∧
    (let s1 := modUnit s key0 fun x => { x with running := some (run 8 { cmd0 with count := 1, aux := 0x40000 }) }
     (columnAt (ran (.pondCommandEnd bank0) s1).mem (unitAt s1 bank0) 4).bytes.take 2) = [0x5A, 0] := by decide +kernel

/-- A read-back of a clean window writes SRAM, one over a poisoned column halts with 0x40, and a status read finds a fault (R239). -/
theorem test_plan_reads :
    let rb : PlanItem := .readback 0 0 0 0 2 0x100 none
    let st : PlanItem := .status 0 0 none
    let on (i : PlanItem) (x : Machine.Unit) (y : Tenant) : State :=
      let s := sPlan [i] y
      { s with dram := { s.dram with units := if x = Unit.reset then [] else [(key0, x)] } }
    let tagged : Tenant := { ten0 with planTags := [(bankKeyOf bank0, 6)] }
    (readBytes (ran (.pondStreamIssue 0 0) (on rb { Unit.reset with a := [(1, 0x42)] } ten0)) (8 * sramKey 0 pan0 0x100) 8).1 =
      [0, 0, 0, 0, 0x42, 0, 0, 0] ∧
    (tenOf (ran (.pondStreamIssue 0 0) (on rb { Unit.reset with aPoison := [(1, true)] } ten0)) 0).haltCode = some 0x40 ∧
    tabGet 0 (tenOf (ran (.pondStreamIssue 0 0) (on st { Unit.reset with tag := 5 } tagged)) 0).planPos 0 = 1 ∧
    (tenOf (ran (.pondStreamIssue 0 0) (on st { Unit.reset with tag := 4 } tagged)) 0).haltCode = some 0x56 ∧
    tabGet 0 (tenOf (ran (.pondStreamIssue 0 0) (on st Unit.reset ten0)) 0).planPos 0 = 1 := by decide +kernel

/-! ### Memory controllers -/

def req0 : DramReq :=
  { pc := 0, sid := 0, bank := 0, row := 0x5FFF, col := 31, src := .pan 0, hint := .close, write := true, mask := BitVec.allOnes 32,
    data := 1 :: List.replicate 31 0 }

def wq0 : WqEntry := { sid := 0, bank := 0, row := 0x5FFF, col := 31, data := List.replicate 40 0 }

def onStack (f : Stack → Stack) : State := modStack State.reset 0 f

def queued (r : DramReq) (c : SvcClass) : Queued := { req := r, cls := c, since := 0, promoted := false }

theorem test_dram_requests :
    still (.dramRequest 0 { req0 with row := 0x6000 }) State.reset = true ∧
    (ran (.dramRequest 0 { req0 with row := 0x6000, write := false }) State.reset).out = [.dramData 0 (some (List.replicate 32 0))] ∧
    (stackOf (ran (.dramRequest 0 { req0 with write := false }) State.reset) 0).queue.length = 1 ∧
    queuedWrite (stackOf (onStack fun x => { x with wq := [(0, [wq0])] }) 0) { req0 with write := false } = some wq0 ∧
    (stackOf (ran (.dramRequest 0 { req0 with write := false }) (onStack fun x => { x with wq := [(0, [wq0])] })) 0).fwd = 1 ∧
    still (.dramRequest 0 { req0 with col := 0 }) (onStack fun x => { x with wq := [(0, List.replicate 64 wq0)] }) = true ∧
    (tabGet [] (stackOf (ran (.dramRequest 0 req0) State.reset) 0).wq 0).map (·.data.take 10) = [[1, 0, 0, 0, 0, 0, 0, 0, 1, 3]] := by
  decide +kernel

/-- R245, R283: a younger write joins the entry of its column; a narrow one over an uncorrectable word writes nothing. -/
theorem test_dram_writes_join :
    let low : DramReq := { req0 with mask := 1, data := 7 :: List.replicate 31 0 }
    let s := onStack fun x => { x with wq := [(0, [wq0])] }
    let bad : State := { State.reset with mem := [(16 * reqKey State.reset 0 req0, 3)] }
    queuedWrite (stackOf s 0) low = some wq0 ∧ mergeFails low (seenColumn s (reqKey s 0 low)) = false ∧
    (tabGet [] (stackOf (ran (.dramRequest 0 low) s) 0).wq 0).map (·.data.take 1) = [[7]] ∧
    mergeFails low (seenColumn bad (reqKey bad 0 low)) = true ∧ accessWaits bad low.src (reqBank 0 low) (reqColumn low) = false ∧
    tabGet [] (stackOf (ran (.dramRequest 0 low) bad) 0).wq 0 = [] := by decide +kernel

theorem test_dram_serve :
    let s := onStack fun x => { x with queue := [queued req0 .host], wq := [(0, [{ wq0 with data := [1, 0, 0, 0, 0, 0, 0, 0, 1, 3] ++ List.replicate 30 0 }])] }
    mayServe s 0 0 = true ∧ mayServe s 0 1 = false ∧ (stackOf (ran (.dramRequestServe 0 0) s) 0).queue = [] ∧
    (readStored (ran (.dramRequestServe 0 0) s).mem (reqKey s 0 req0)).d = 1 ∧
    (ran (.dramRequestServe 0 0) (onStack fun x => { x with queue := [queued { req0 with write := false } .host] })).out =
      [.dramData 0 (some (List.replicate 32 0))] := by decide +kernel

theorem test_promotion :
    let q (c : SvcClass) : State := { onStack fun x => { x with queue := [queued req0 c] } with tick := 1000000 }
    still (.requestPromotion 0 0) (q .sched) = true ∧
    (stackOf (ran (.requestPromotion 0 0) (q .maint)) 0).queue.map (·.cls) = [.net] ∧
    (stackOf (ran (.requestPromotion 0 0) (q .net)) 0).queue.map (·.cls) = [.host] ∧
    (stackOf (ran (.requestPromotion 0 0) (q .host)) 0).queue.map (·.cls) = [.sched] ∧
    still (.requestPromotion 0 0) (modStack (q .maint) 0 fun x => { x with ageMaint := 0 }) = true ∧
    still (.requestPromotion 0 0) (onStack fun x => { x with queue := [queued req0 .maint] }) = true := by decide +kernel

def kept (tick : Dword) : State :=
  { modBank State.reset (bankKeyOf bank0) fun x => { x with openRow := some 5, keep := true, lastUse := 10 } with tick := tick }

theorem test_row_idle_close :
    (bankOf (ran (.rowIdleClose bank0) (kept 810)) (bankKeyOf bank0)).openRow = none ∧
    still (.rowIdleClose bank0) (kept 809) = true := by decide +kernel

/-- R244, R246, R248: an older write of the column goes first; SCHED goes before the rest, a planned request before a promoted one. -/
theorem test_service_order :
    let w : Queued := queued req0 .maint
    let rd : Queued := queued { req0 with write := false } .host
    let plan : Queued := { queued { req0 with col := 1 } .sched with since := 5 }
    let up : Queued := { queued { req0 with col := 2 } .sched with promoted := true }
    let s (l : List Queued) : State := onStack fun x => { x with queue := l }
    mayServe (s [w, rd]) 0 1 = false ∧  mayServe (s [w, rd]) 0 0 = true ∧ mayServe (s [rd, plan]) 0 0 = false ∧ mayServe (s [rd, plan]) 0 1 = true ∧
    mayServe (s [up, plan]) 0 1 = true ∧ mayServe (s [up, plan]) 0 0 = false ∧
    slotOverdue (s []) 0 0 true = false ∧ slotOverdue (s []) 0 0 false = false := by decide +kernel

def onBank (x : BankSt) : State := modBank State.reset (bankKeyOf bank0) fun _ => x

theorem test_refresh :
    still (.refreshTick 0) (onStack fun x => { x with mode := .selfRefresh }) = true ∧
    (stackOf State.reset 0).mode = .run ∧ still (.refreshIssue bank0) State.reset = true ∧
    unitIdle (onBank { BankSt.reset with owed := 1 }) bank0 = true ∧
    (bankOf (ran (.refreshIssue bank0) (onBank { BankSt.reset with owed := 1 })) (bankKeyOf bank0)).refreshing = true ∧
    (bankOf (ran (.refreshComplete bank0) (onBank { BankSt.reset with owed := 8, refreshing := true })) (bankKeyOf bank0)).owed = 7 ∧
    still (.refreshComplete bank0) (onBank { BankSt.reset with owed := 8 }) = true := by decide +kernel

theorem test_training :
    (stackOf (ran (.trainingPeriodic ⟨0, none⟩) State.reset) 0).mode = .training ∧
    (stackOf (ran (.trainingPassEnd 0 0) (onStack fun x => { x with mode := .training })) 0).passes = 1 ∧
    (bankOf (ran (.trainingPeriodic ⟨0, some (0, 0)⟩) (onStack fun x => { x with mode := .training })) (bankKeyOf bank0)).refreshing =
      true ∧
    still (.trainingPeriodic ⟨0, some (0, 0)⟩) State.reset = true ∧
    (stackOf (ran (.trainingPassEnd 0 0) (onStack fun x => { x with mode := .training, defer := some 1 })) 0).discard = 1 ∧
    still (.trainingPassEnd 0 0) State.reset = true ∧ still (.clockChangeStart 0) State.reset = true ∧
    stackIdle (onStack fun x => { x with defer := some 1 }) 0 = true ∧
    (stackOf (ran (.clockChangeStart 0) (onStack fun x => { x with defer := some 1, pond := 1 })) 0).memClk = 1 ∧
    (stackOf (ran (.clockChangeComplete 0) (onStack fun x => { x with mode := .clockChange, trained := true })) 0).mode = .run ∧
    still (.clockChangeComplete 0) (onStack fun x => { x with mode := .clockChange }) = true ∧
    still (.trainingPassEnd 0 0) { onStack fun x => { x with mode := .clockChange } with tick := 17599 } = true ∧
    (stackOf (ran (.trainingPassEnd 0 0) { onStack fun x => { x with mode := .clockChange } with tick := 17600 }) 0).passes = 1 ∧
    still (.clockChangeComplete 0) State.reset = true := by decide +kernel

theorem test_parity_alert :
    let s (a : Nat) := onStack fun x => { x with sent := [(0, [.write bank0 0 []])], alerts := if a = 0 then [] else [(0, a)] }
    still (.parityAlert 0 0 1) (s 0) = true ∧ (stackOf (ran (.parityAlert 0 0 0) (s 0)) 0).replays = 1 ∧
    (stackOf (ran (.parityAlert 0 0 0) (s 48)) 0).pcFail = 1 := by decide +kernel

def quiescing : State := { State.reset with host := { HostSt.reset with attach := .quiescing } }

theorem test_self_refresh :
    still .selfRefreshEntered State.reset = true ∧ (ran .selfRefreshEntered quiescing).host.attach = .quiesced ∧
    (stackOf (ran .selfRefreshEntered quiescing) 11).mode = .selfRefresh := by decide +kernel

/-- Every stack in self-refresh and the host attached again. -/
def resting : State :=
  { (List.finRange 12).foldl (fun r k => modStack r k fun x => { x with mode := .selfRefresh, trained := true }) State.reset with
    host := { HostSt.reset with attach := .attached } }

theorem test_self_refresh_ends :
    (List.finRange 12).all (fun k => decide ((stackOf resting k).mode = .selfRefresh)) = true ∧
    still .selfRefreshExitDone (modStack resting 11 fun x => { x with trained := false }) = true := by decide +kernel

theorem test_self_refresh_left : (stackOf (ran .selfRefreshExitDone resting) 11).mode = .run := by decide +kernel

/-! ### The check code's self-test -/

/-- R285: there are 3,307 patterns. -/
theorem test_checker_patterns : selfTestPatterns.length = 3307 := by decide +kernel

/-- Every eighth of the first 147 patterns and every 200th pair of flips. -/
theorem test_checker_passes :
    (((selfTestPatterns.take 147).zipIdx.filter fun x => x.2 % 8 = 0).all fun x => passesPattern encodeWord decodeWord x.1) = true ∧
    (((selfTestPatterns.drop 147).zipIdx.filter fun x => x.2 % 200 = 7).all fun x => passesPattern encodeWord decodeWord x.1) = true := by
  decide +kernel

/-! ### Rake, logs, sensors, the governor -/

def raking (w : Stored) : State :=
  { State.reset with mem := writeStored [] (quadKey 0 8) w, log := { LogSt.reset with rakePending := [quadKey 0 8], rakeSweep := true } }

/-- Rilef's cores run. -/
def coresRun : State := { State.reset with rst := { RstSt.reset with coreHeld := false } }

theorem test_rake :
    (ran .rakeTargetedRewrite (raking (encodeWord 9))).log.rakePending = [] ∧
    (readWord (raking { encodeWord 9 with d := 8 }) (quadKey 0 8)).check = .corrected 0 ∧
    readStored (ran .rakeTargetedRewrite (raking { encodeWord 9 with d := 8 })).mem (quadKey 0 8) = encodeWord 9 ∧
    (ran .rakeTargetedRewrite (raking { encodeWord 9 with d := 8 })).log.rakeFixed = 1 ∧
    still .rakeTargetedRewrite State.reset = true ∧ keyExists State.reset (quadKey 0 8) = true ∧
    keyExists State.reset (dramKey 0 0 256 0 0) = false ∧
    (ran (.rakeSweep (quadKey 0 8) true) (raking (encodeWord 9))).log.rakeSweeps = 1 ∧
    still (.rakeSweep 0 true) State.reset = true ∧
    (ran .evClr (logEvent State.reset 0x91 [] none)).log.evHead = 0 ∧ (ran .erClr State.reset).log.erCount = 0 ∧
    inUnusedSpare State.reset (dramKey 0 0 256 0 0) = true ∧ still .spareFill State.reset = true ∧
    (ran .spareFill coresRun).log.sparesFilled = true ∧
    tabGet 0 (ran .spareFill { coresRun with mem := [(16 * dramKey 0 0 256 0 0, 5)] }).mem (16 * dramKey 0 0 256 0 0) = 0 := by
  decide +kernel

/-- Word 0 of column 5 of the first bank awaits its rewrite, and a sweep is under way. -/
def rakingDram (s : State) : State :=
  { s with log := { LogSt.reset with rakePending := [dramKey 0 0 0 5 0], rakeSweep := true } }

/-- R293, R294: a DRAM column is taken by CHECK (operation 12) with SCRUB, not while a command runs on its bank. -/
theorem test_rake_column :
    bankOfKey State.reset (dramKey 0 0 0 5 0) = some bank0 ∧ scrubFits (rakingDram State.reset) bank0 = true ∧
    bankEntries (rakingDram State.reset) bank0 = [] ∧
    (ran .rakeTargetedRewrite (rakingDram State.reset)).log.rakePending = [] ∧
    (firstUnit (ran .rakeTargetedRewrite (rakingDram State.reset))).lop = 12 ∧
    (stackOf (ran (.rakeSweep (dramKey 0 0 0 5 0) true) (rakingDram State.reset)) 0).cmds = 1 ∧
    (ran (.rakeSweep (dramKey 0 0 0 5 0) true) (rakingDram State.reset)).log.rakeSweeps = 1 ∧
    scrubFits (rakingDram (onPond { Unit.reset with running := some (run 7 fill0) })) bank0 = false ∧
    still .rakeTargetedRewrite (rakingDram (onPond { Unit.reset with running := some (run 7 fill0) })) = true ∧
    still (.rakeSweep (dramKey 0 0 0 5 0) true) (rakingDram (onPond { Unit.reset with running := some (run 7 fill0) })) = true := by
  decide +kernel

/-- R293: a corrected word of a log is rewritten with fresh check bits; a unit under self-test is not read (R450). -/
theorem test_rake_log :
    let e := LogEntry.coded { LogEntry.zero with code := 0x91 }
    let bad : LogEntry := { e with stored := listPatch e.stored 0 [e.stored.getD 0 0 ^^^ 1] }
    let s : State := { State.reset with log := { LogSt.reset with errors := [(0, bad)], rakePending := [logKey 0 0] } }
    placeOf (logKey 0 0) = .log 0 0 ∧ (decodeWord (logStored s 0 0)).check = .corrected 0 ∧
    (ran .rakeTargetedRewrite s).log.rakePending = [] ∧
    logStored (ran .rakeTargetedRewrite s) 0 0 = encodeWord (decodeWord (logStored s 0 0)).d ∧
    (let t : State := { raking (encodeWord 9) with svc := { SvcSt.reset with test := some (.qsr 0) } }
     wordTested t (quadKey 0 8) = true ∧ still .rakeTargetedRewrite t = true) := by decide +kernel

def sweep0 : Sweep :=
  { die := [], stack := [], railMv := [], railMa := [], inMv := 48000, inMa := 25000, cool := 0, scap := 5, bad := none }

def window (mw n depth low : Nat) : State :=
  { State.reset with gov := { GovSt.reset with powerSum := mw * 10 ^ 3 * n, powerN := n, depth := BitVec.ofNat 5 depth, low8 := low } }

theorem test_sensors_and_governor :
    (ran (.sensorSweep sweep0) coresRun).gov.powerSum = 1200000000 ∧ (ran (.sensorSweep sweep0) coresRun).cal.scap = 5 ∧
    (ran (.sensorSweep sweep0) State.reset).gov.powerN = 0 ∧
    (tabGet QErr.reset (ran (.sensorSweep sweep0) State.reset).host.qerr 43).drop = 3 ∧
    criticalNow { onTen ten0 with sen := SenSt.reset.take { sweep0 with die := [13441] } } = true ∧
    (tenOf (ran (.sensorSweep { sweep0 with die := [13441] }) { onTen ten0 with rst := coresRun.rst }) 0).quiesceThermal = true ∧
    tabGet 0 (ran .governorWindow { State.reset with sen := { SenSt.reset with pondNow := [(3, 1601)] } }).sen.pond 3 = 2 ∧
    (ran (.sensorSweep { sweep0 with bad := some 105 }) coresRun).gov.powerN = 0 ∧
    (tabGet QErr.reset (ran (.sensorSweep { sweep0 with bad := some 105 }) coresRun).host.qerr 43).par = 1 ∧
    still .governorWindow State.reset = true ∧ (ran .governorWindow (window 1200000 2 0 0)).gov.depth = 16 ∧
    (ran .governorWindow (window 1200000 2 16 0)).gov.depth = 8 ∧ (ran .governorWindow (window 1200000 2 1 0)).gov.depth = 1 ∧
    (ran .governorWindow (window 1139999 2 8 7)).gov.depth = 16 ∧ (ran .governorWindow (window 1139999 2 16 7)).gov.depth = 0 ∧
    (ran .governorWindow (window 1140000 2 8 7)).gov.depth = 8 ∧ (ran .governorWindow (window 1140000 2 8 7)).gov.low8 = 0 ∧
    (let w := window 1139999 2 8 7
     (ran .governorWindow { w with gov := { w.gov with critical := true, coolRun := 5 } }).gov.depth = 16) ∧
    (ran .governorWindow (window 1140000 2 8 7)).gov.power = 1140000 ∧ (ran .calHoldLoss State.reset).cal.lossLatched = true := by
  decide +kernel

/-! ### Network -/

/-- Port 0 up, pair 3 ready at PSN 7, and key 5 for 64 bytes of region 0x8010 from byte 0x100, with tally 9. -/
def sNet : State :=
  let k : NetKey := { NetKey.reset with valid := true, wr := true, rd := true, gen := 2, region := 0x8010, koff := 0x100, klen := 64, tly := some 9 }
  let s := modQp (modPort sRegion 0 fun x => { x with link := true }) 0 3 fun x => { x with state := .ready, psn := 7 }
  { s with net := { s.net with keys := [(5, k)] }, rst := { RstSt.reset with coreHeld := false, fw := 1 } }

/-- An RDMA frame of one entry has come to port 0 of `s`, and its receive channel sees it. -/
def framed (s : State) (bad : Option Nat) (ecn : Bool) : State :=
  modQueue (modPort s 0 fun x => { x with frames := [{ entries := 1, bad := bad, ecn := ecn, service := false }] }) 36 fun q =>
    { q with wp := 1, cp := 1, cpSeen := gray 1 }

def sMsg : State := framed sNet none false

/-- The receive queue of port 0 holds `n` entries. -/
def crowded (n : Nat) : State := modQueue sNet 36 fun q => { q with wp := n, cp := n }

def key5 : Word := 0x205

theorem test_frames :
    let rx (k : FrameKind) (b : Nat) (s : State) := ran (.frameReceive 0 k b true) s
    canon sNet = true ∧ still (.frameReceive 1 (.rdma none false) 64 true) sNet = true ∧ still (.netLinkDown 1) sNet = true ∧
    (portOf (ran (.frameReceive 0 (.service none) 64 false) sNet) 0).icrc = 1 ∧ (portOf (rx (.service none) 10241 sNet) 0).drop = 1 ∧
    (portOf (rx (.rdma none true) 0 sNet) 0).frames = [{ entries := 0, bad := none, ecn := true, service := false }] ∧
    (portOf (rx .pause 64 sNet) 0).drop = 1 ∧ (ran (.syncStoreTick ⟨0, false, [], []⟩) (rx (.service none) 0 sNet)).out = [.frameReady 0, .wake 38, .ethAnswer 0] ∧
    frameFits (crowded 3072) 0 1 = true ∧ frameFits (crowded 4096) 0 1 = false ∧
    (portOf (rx (.rdma none false) 0 (crowded 3073)) 0).xoff = true ∧
    (portOf (rx (.rdma none false) 0 (crowded 3072)) 0).xoff = false ∧
    (portOf (rx (.rdma none false) 64 (crowded 4096)) 0).drop = 1 ∧
    (portOf (rx (.pfc true) 64 sNet) 0).txOff = true ∧
    (rx (.pfc false) 64 (modPort sNet 0 fun x => { x with txOff := true, txq := [(.ethAnswer 0, 0)] })).out = [.ethAnswer 0] ∧
    (rx (.pfc false) 64 (modPort sNet 0 fun x => { x with txOff := true, txq := [(.ethAnswer 0, 1)] })).out = [.badFcs 0] ∧
    (qpOf (ran (.netLinkDown 0) sNet) 0 3).state = .error ∧ (portOf (ran (.portLinkUp 1) { sNet with rst := { sNet.rst with sysHeld := false } }) 1).fec = true := by decide +kernel

theorem test_modules :
    let s := { State.reset with rst := { RstSt.reset with fw := 1 } }
    (portOf (ran (.modulePresenceChange 1 true false false false) s) 1).module = 1 ∧
    (portOf (ran (.modulePresenceChange 1 true true false false) s) 1).module = 2 ∧
    (portOf (ran (.modulePresenceChange 1 true true true false) s) 1).module = 3 ∧
    (ran (.modulePresenceChange 1 true true false false) s).rst.ospfLpwN = 2 ∧
    (cageOf (ran (.modulePresenceChange 1 true true false false) State.reset) 1).int = true ∧
    (portOf (ran (.modulePresenceChange 1 true true false false) State.reset) 1).module = 0 ∧
    (portOf (restorePins (ran (.modulePresenceChange 1 true true false false) State.reset)) 1).module = 2 := by decide +kernel

theorem test_rdma_refused :
    messageReady sMsg 0 3 = true ∧ packets (qpOf sMsg 0 3) 1 = 1 ∧ packetBad sMsg 0 = false ∧
    packetBad (framed sNet (some 0) false) 0 = true ∧
    (ran (.rdmaOtherOpcode 0 3 7 4) sMsg).out = [.wake 38, .nak 0 3 0x61] ∧
    (ran (.rdmaOtherOpcode 0 3 7 4) (framed sNet none true)).out = [.wake 38, .cnp 0 3, .wake 38, .nak 0 3 0x61] ∧
    (portOf (ran (.rdmaOtherOpcode 0 3 7 4) (framed sNet (some 0) false)) 0).icrc = 1 ∧
    (qpOf (ran (.rdmaOtherOpcode 0 3 7 4) sMsg) 0 3).psn = 7 ∧ (portOf (ran (.rdmaOtherOpcode 0 3 7 4) sMsg) 0).frames = [] ∧
    (portOf (ran (.rdmaOtherOpcode 0 3 6 4) sMsg) 0).seqErr = 1 ∧ chanBusy sMsg (rxChan 0) = false ∧
    (portOf (ran (.rdmaWrite 0 3 6 key5 0 [1]) sMsg) 0).seqErr = 1 ∧ (portOf (ran (.rdmaRead 0 3 6 key5 0 1) sMsg) 0).seqErr = 1 ∧
    keyFault sMsg key5 true false 60 5 = some 0x62 ∧ (portOf (ran (.rdmaWrite 0 3 7 key5 60 [1, 2, 3, 4, 5]) sMsg) 0).access = 1 ∧
    messageReady sNet 0 3 = false ∧ still (.rdmaWrite 0 3 7 key5 0 [1]) sNet = true := by decide +kernel

theorem test_rdma_serves :
    keyFault sMsg key5 true true 56 8 = none ∧
    (readStored (ran (.rdmaWrite 0 3 7 key5 56 [1, 2, 3, 4, 5, 6, 7, 8]) sMsg).mem (quadKey 1 0x138)).d = 0x0807060504030201 ∧
    (qpOf (ran (.rdmaWriteImm 0 3 7 key5 56 [1]) sMsg) 0 3).imm = [some 9] ∧
    (qpOf (ran (.rdmaWriteImm 0 3 7 key5 56 [1]) sMsg) 0 3).psn = 8 ∧
    (ran (.rdmaRead 0 3 7 key5 0 2) sMsg).out = [.wake 38, .readResp 0 3 [0, 0]] ∧
    (ran (.rdmaImmSignal 0 3) (modQp sNet 0 3 fun x => { x with imm := [some 9] })).sync.flight = [{ tly := 9, n := 1, src := .rdma 0 }] ∧
    still (.rdmaImmSignal 0 3) sNet = true := by decide +kernel

/-- One packet of a message in progress, with what is left of it. -/
theorem test_packets :
    let m : RxMsg := { qp := 3, key := keyOf sNet 5, off := 0x100, data := [1], left := 2, imm := true, lost := false, nak := false }
    let at_ (m : RxMsg) (bad : Option Nat) : State := modPort (framed sNet bad false) 0 fun x => { x with cur := some m }
    let after (m : RxMsg) (bad : Option Nat) : State := (nextPacket (at_ m bad) 0).1
    packetReady (at_ m none) 0 = true ∧ chanBusy (at_ m none) (rxChan 0) = false ∧
    (portOf (after m none) 0).cur = some { m with off := 0x101, data := [], left := 1 } ∧
    (after { m with left := 1 } none).out = [.wake 38, .ack 0 3] ∧ (qpOf (after { m with left := 1 } none) 0 3).imm = [some 9] ∧
    (portOf (after { m with lost := true } none) 0).cur = some { m with lost := true, left := 1 } ∧
    (portOf (after { m with lost := true, nak := true } none) 0).seqErr = 1 ∧
    (portOf (after m (some 0)) 0).cur = some { m with lost := true, nak := true, left := 1 } ∧
    (qpOf (after { m with key := { NetKey.reset with region := 0x7FFF } } none) 0 3).psn = 8 ∧
    ((portOf (ran (.netQpSet 2) (holding (at_ m none) 0x83 [(0x11, 1, 2), (0x12, 2, 3)])) 0).cur.map fun x => x.lost) = some true := by
  decide +kernel

theorem test_network_commands :
    (portOf (ran (.netPortCfg 2) (holding sNet 0x80 [(0x10, 1, 1), (0x11, 1, 3), (0x12, 2, 4095), (0x14, 1, 7)])) 1).vlan = 4095 ∧
    status (ran (.netPortCfg 2) (holding sNet 0x80 [(0x12, 2, 4096)])) = some 0xA2 ∧
    (keyOf (ran (.netKeyBind 2 6 none) (holding sNet 0x81 [(0x10, 2, 0x8010), (0x12, 1, 3), (0x14, 2, 0xFFFF), (0x20, 8, 0x1000)])) 6).gen = 1 ∧
    status (ran (.netKeyBind 2 6 none) (holding sNet 0x81 [(0x10, 2, 0x8010), (0x12, 1, 3), (0x14, 2, 0xFFFF), (0x20, 8, 0x1001)])) =
      some 0xA2 ∧
    (keyOf (ran (.netKeyRevoke 2) (holding sNet 0x82 [(0x10, 4, 0x205)])) 5).valid = false ∧
    status (ran (.netKeyRevoke 2) (holding sNet 0x82 [(0x10, 4, 0x204)])) = some 0xA2 ∧
    (qpOf (ran (.netQpSet 2) (holding sNet 0x83 [(0x11, 1, 2), (0x12, 2, 63), (0x18, 4, 0x123456)])) 0 63).psn = 0x123456 ∧
    status (ran (.netQpSet 2) (holding sNet 0x83 [(0x11, 1, 3)])) = some 0xA2 ∧
    (qpOf (ran (.netQpDestroy 2) (holding sNet 0x84 [(0x12, 2, 3)])) 0 3).state = .reset ∧
    status (ran (.netQpDestroy 2) (holding sNet 0x84 [(0x12, 2, 64)])) = some 0xA2 := by decide +kernel

/-! ### The mirror pair -/

def mirrored (f : MirSt → MirSt) : State := { sNet with mir := f MirSt.reset }

theorem test_mirror_commands :
    let mine := List.replicate 32 (7 : Byte)
    let s := mirrored fun m => { m with partner := mine }
    (ran (.mirPair 2 mine 8000) (holding s 0x90 [(0x10, 1, 1), (0x12, 2, 3)])).mir.role = .primary ∧
    (ran (.mirPair 2 mine 8000) (holding s 0x90 [(0x10, 1, 2), (0x12, 2, 3)])).mir.sync = .baseline ∧
    (ran (.mirPair 2 [] 8000) (holding s 0x90 [(0x10, 1, 1), (0x12, 2, 3)])).mir.idMism = true ∧
    status (ran (.mirPair 2 [] 8000) (holding s 0x90 [(0x10, 1, 1), (0x12, 2, 3)])) = some 0xB2 ∧
    status (ran (.mirPair 2 mine 8000) (holding (mirrored fun m => { m with role := .primary }) 0x90 [(0x10, 1, 1), (0x12, 2, 3)])) =
      some 0xA2 ∧
    (ran (.mirAccept 2) (holding sNet 0x91 [(0x10, 1, 7)])).mir.partner = 7 :: List.replicate 31 0 ∧
    (ran (.mirUnpair 2) (holding (mirrored fun m => { m with role := .primary, tkoOut := true }) 0x92 [])).mir.tkoOut = false ∧
    (let h := { sNet.host with attach := .attached, rings := [(1, { Ring.reset with valid := true, state := .held })] }
     let f := holding { sNet with host := h, mir := { MirSt.reset with role := .fenced } } 0x92 []
     (ringOf (ran (.mirUnpair 2) f) 1).state = .run) := by
  decide +kernel

/-- A record of tenant 0 at tide 9 without its CRC. -/
def rec9 : List Byte :=
  leBytes 4 0x5252494D ++ [0, 0, 0, 0] ++ leBytes 8 9 ++ List.replicate 8 0 ++ List.replicate 36 0 ++ [0, 0, 0, 0]

def record9 : List Byte := rec9.take 0x3C ++ leBytes 4 (crc32 rec9).toNat

def secondary (x : Tenant) (f : MirSt → MirSt) : State :=
  { onTen x with mir := f { MirSt.reset with role := .secondary, tenants := 1, sync := .synced } }

theorem test_mirror_stream :
    still (.mirrorWriteReceive 0 2 0 [1]) State.reset = true ∧ still (.mirrorRecordReceive record9) State.reset = true ∧
    (ran (.mirrorWriteReceive 0 2 0 [1]) (secondary ten0 id)).mir.buffer.map (fun w => (w.ten, w.region, w.off, w.len)) =
      [(0, 2, 0, 1)] ∧
    (portOf (ran (.mirrorWriteReceive 0 2 0 [1]) (secondary ten0 id)) 0).rxBytes = 1 ∧
    recordTenant (secondary ten0 id) record9 = some 0 ∧ recordTenant (secondary ten0 id) rec9 = none ∧
    (ran (.mirrorRecordReceive record9) (secondary ten0 id)).out = [.mirrorAckOut 0 9] ∧
    (tenOf (ran (.mirrorRecordReceive record9) (secondary ten0 id)) 0).mirroredTide = 9 ∧
    (ran (.mirrorAck 0 9) { onTen ten0 with mir := { MirSt.reset with role := .primary, unacked := [(0, 9), (0, 10)] } }).mir.unacked =
      [(0, 10)] ∧ still (.mirrorAck 0 9) State.reset = true := by decide +kernel

/-- The secondary long after its last edge and packet. -/
def late (f : MirSt → MirSt) : State := { secondary ten0 f with tick := 1000000 }

theorem test_takeover :
    still .heartbeatLost State.reset = true ∧ still .heartbeatLost (secondary ten0 id) = true ∧ still .streamSilent (secondary ten0 id) = true ∧
    (ran .heartbeatLost (late fun m => { m with lastPacket := 1000000 })).mir.hbLost = true ∧
    (ran .heartbeatLost (late fun m => { m with lastPacket := 1000000 })).mir.role = .secondary ∧
    (ran .streamSilent (late fun m => { m with lastEdge := 1000000 })).mir.silent = true ∧
    (ran .heartbeatLost (late id)).mir.role = .taken ∧
    (ran .heartbeatLost (late fun m => { m with sync := .baseline })).mir.role = .unpaired ∧
    (ran .streamSilent (late fun m => { m with hbLost := true })).mir.tkoOut = true ∧
    still .heartbeatToggle State.reset = true ∧ still .heartbeatToggle (secondary ten0 id) = true ∧
    (ran .heartbeatToggle (mirrored fun m => { m with role := .secondary })).mir.hbOut = false ∧
    (ran .hbInEdge State.reset).mir.hbIn = false ∧ (ran .tkoInAssert State.reset).mir.tkoIn = true ∧
    (ran (.syncStoreTick ⟨0, true, [], []⟩) (ran .tkoInAssert State.reset)).mir.tkoIn = false ∧
    (tenOf (ran .tkoInAssert { onTen ten0 with mir := { MirSt.reset with role := .primary } }) 0).quiesceFence = true ∧
    (tenOf (ran (.takeoverTenantStart 0) { onTen { ten0 with state := .loaded } with
      mir := { MirSt.reset with role := .taken, records := [(0, record9)] } }) 0).tide = 10 ∧
    still (.takeoverTenantStart 0) (onTen ten0) = true := by decide +kernel

/-! ### Resets -/

/-- Released: standby good, nothing held. -/
def up : State :=
  { State.reset with
    rst :=
    { RstSt.reset with
      asserted := 0, src := 0, coreHeld := false, sysHeld := false, poHeld := false, phase := 9, rails := true,
      lock := true, fw := 1, fwCopyGood := true, main48 := true, prsntLow := true } }

def upWith (f : RstSt → RstSt) : State := { up with rst := f up.rst }

theorem test_reset_sources :
    (ran (.por true) up).rst.standby = false ∧ (ran (.por false) up).rst.src = 1 ∧
    (ran .rstNAssert up).rst.src = 0x04 ∧ (ran .rstNAssert up).rst.first = 2 ∧ (ran .rstNAssert up).rst.lastReach = 1 ∧
    (ran (.brownout true) up).rst.main48 = false ∧ (ran .prsntNHigh up).rst.src = 0x02 ∧
    (ran .perstAssert { up with host := { HostSt.reset with perstSys := true } }).rst.sysHeld = true ∧
    (ran .perstAssert up).rst.src = 0x10 ∧ (ran .perstAssert up).rst.sysHeld = false ∧
    (ran .wdogExpiry up).rst.coreHeld = true ∧ (ran .wdogExpiry up).rst.sysHeld = false ∧
    (ran .wdogExpiry (upWith fun r => { r with wdogOnce := true })).rst.sysHeld = true ∧
    (ran .rstNAssert State.reset).rst.src = 0x05 ∧
    (ran .hostSourceAssert (upWith fun r => { r with hostPend := [.core] })).rst.src = 0x40 ∧
    (ran (.dbgResetRequest ⟨false, false⟩) (openDbg up)).rst.src = 0x80 ∧ (ran (.dbgResetRequest ⟨true, false⟩) up).rst = up.rst ∧ still (.dbgResetRequest ⟨true, false⟩) State.reset = true ∧
    (ran (.dbgResetRequest ⟨false, true⟩) (openDbg up)).rst.src = 0 ∧
    debugFits (openDbg up) = true ∧ debugFits (modQueue (openDbg up) 42 fun q => { q with wp := 64, cp := 64 }) = false ∧
    (ran (.dbgResetRequest ⟨false, false⟩) (modQueue (openDbg up) 42 fun q => { q with wp := 64, cp := 64 })).rst.src = 0 ∧
    (tabGet QErr.reset (ran (.dbgResetRequest ⟨false, true⟩) (openDbg up)).host.qerr 42).par = 1 ∧
    (ran (.brownout false) (upWith fun r => { r with sysHeld := true, phase := 4 })).rst.phase = 2 ∧
    still .wdogKick (upWith fun r => { r with stopped := 1 }) = true ∧
    still .hostSourceAssert up = true ∧ (ran .wdogKick up).rst.wdogArmed = true ∧
    (ran .rstNRelease (upWith fun r => { r with asserted := 0x04 })).rst.asserted = 0 ∧
    (ran .perstDeassert (upWith fun r => { r with asserted := 0x10 })).rst.asserted = 0 ∧
    (ran (.resetSourceTimeout 6) (upWith fun r => { r with asserted := 0x40 })).rst.asserted = 0 ∧
    still (.resetSourceTimeout 4) up = true := by decide +kernel

/-- The bench case of section 16: RST_N 6 µs after WDOG gives SRC 0x0C, FIRST 3 and LASTREACH 1; in one cycle FIRST is the wider reach (R424). -/
theorem test_reset_cause :
    let s := ran .rstNAssert (ran (.syncStoreTick ⟨4800, false, [], []⟩) (ran .wdogExpiry up))
    s.rst.src = 0x0C ∧ s.rst.first = 3 ∧ s.rst.lastReach = 1 ∧
    (ran .rstNAssert (ran .wdogExpiry up)).rst.first = 2 := by decide +kernel

theorem test_reset_release :
    coreFree (upWith fun r => { r with coreHeld := true, phase := 8 }) = true ∧
    (ran (.resetRelease .core) (upWith fun r => { r with coreHeld := true, phase := 8 })).rst.phase = 9 ∧
    still (.resetRelease .core) up = true ∧ systemFree (upWith fun r => { r with sysHeld := true }) = true ∧
    (ran (.resetRelease .system) { upWith (fun r => { r with sysHeld := true }) with tick := 7 }).tick = 0 ∧
    still (.resetRelease .system) up = true ∧ sourceHolds (releaseSource State.reset 0) .powerOn = false ∧
    (ran (.resetRelease .powerOn) State.reset).rst.phase = 1 ∧ still (.resetRelease .powerOn) up = true ∧
    (ran (.clkTimeout 58) up).rst.clkHeld = (1#60) <<< 58 ∧ still (.clkTimeout 55) up = true := by decide +kernel

theorem test_reset_control :
    (ran (.rstCtrlCore 0xA5C3) up).rst.hostPend = [.core] ∧ (ran (.rstCtrlSystem 0xA5C3) up).rst.hostPend = [.system] ∧
    (ran (.rstCtrlCore 0xA5C2) up).host.bar0Drop = 1 ∧ (ran (.bar0Write 0x500008 0xA5C3000000000003) up).host.bar0Drop = 1 ∧
    (ran (.bar0Write 0x500008 0xA5C3000000000002) up).rst.hostPend = [.system] ∧
    (ran (.bar0Write 0x500008 0xA5C3000000000001) up).rst.hostPend = [.core] := by decide +kernel

def noBlock : List Byte := []
def noList : CopyRead (List RetireEntry) := { valid := false, gen := 0, content := [] }

/-- The first bytes of an option block of generation 1 with the default fields and CAP_W `w` (R433); the rest of it is 0. -/
def blockHead (w : Nat) : List Byte :=
  leBytes 4 0x4254504F ++ leBytes 2 1 ++ leBytes 2 0x1000 ++ leBytes 4 1 ++ leBytes 4 0 ++ leBytes 2 w ++ leBytes 2 60 ++
    [0, 0, 1, 0] ++ leBytes 2 24 ++ leBytes 2 20 ++ leBytes 2 20 ++ leBytes 2 20 ++ leBytes 8 (44 * 2 ^ 30) ++ leBytes 4 256 ++
    leBytes 4 1024 ++ leBytes 4 115200 ++ leBytes 2 100 ++ leBytes 2 10 ++ [4]

/-- A copy whose CRC field holds `c`. -/
def block (w c : Nat) : List Byte := padTo 0 4092 (blockHead w) ++ leBytes 4 c

/-- The CRC of a long list, each step evaluated before the next. -/
def crcSteps : List Byte → Word → Word
  | [] => fun c => c
  | b :: bs => fun c => if c.toNat = 0 then crcSteps bs (crc32Byte c b) else crcSteps bs (crc32Byte c b)

theorem crc32_eq_steps (bs : List Byte) : crc32 bs = crcSteps bs 0xFFFFFFFF#32 ^^^ 0xFFFFFFFF#32 := by
  have h : ∀ c, crcSteps bs c = bs.foldl crc32Byte c := by
    induction bs with
    | nil => intro c; rfl
    | cons b bs ih => intro c; simp [crcSteps, ih]
  rw [h]; rfl

/-- The CRCs of the two blocks, worked out outside the model. -/
theorem block_valid : optionsValid (block 1900 0x1D5D5826) = true ∧ optionsValid (block 1199 0x5B1D9A43) = true := by
  simp only [optionsValid, crc32_eq_steps]; decide +kernel

theorem block_read (w c : Nat) (h : optionsValid (block w c) = true) : readOptions (block w c) =
    { valid := true, gen := BitVec.ofNat 32 (fieldAt (block w c) 8 4), content := decodeOptions (block w c) } := by
  simp only [readOptions, h]

def atPhase (n : BitVec 4) (f : RstSt → RstSt) : State := upWith fun r => f { r with phase := n, fw := 0 }

theorem test_bring_up :
    still (.optionLoadDone noBlock noBlock noList noList) up = true ∧
    sourceHolds (releaseSource (atPhase 1 id) 1) .system = false ∧
    (ran (.optionLoadDone noBlock noBlock noList noList) (atPhase 1 id)).gov.cap = 1200 ∧
    badFields { OptBlock.default with rsv := [0x60] } = [0x60] ∧ badReserved (List.replicate 12 0 ++ [1]) = [0xC] ∧
    (ran .input48vGood (atPhase 0 id)).rst.phase = 2 ∧ (ran .railsGood (atPhase 2 id)).rst.phase = 3 ∧ still .railsGood up = true ∧
    (ran .pllLocked (atPhase 3 fun r => { r with sysHeld := true })).rst.sysHeld = false ∧ still .pllLocked up = true ∧
    still .sramFillDone up = true ∧ still .dramFillDone up = true ∧ still (.dramTrained []) up = true ∧
    still (.selftestDone [] [] []) up = true ∧
    (panOf (ran (.selftestDone [(35, 0)] [(3, 63)] []) (atPhase 4 id)) 35).retired = true ∧
    (ran (.selftestDone [(35, 0)] [(3, 63)] []) (atPhase 4 id)).log.stSram = 2 ∧
    (ran (.selftestDone [(35, 0), (35, 1)] [] []) (atPhase 4 id)).log.stSram = 2 ∧ (ran .sramFillDone (atPhase 5 id)).rst.phase = 6 := by
  decide +kernel

/-- The copy with CAP_W 1900 takes effect, and the field of the other is out of range. -/
theorem test_option_blocks :
    decodeOptions (block 1900 0x1D5D5826) = { OptBlock.default with capW := 1900 } ∧
    badFields (decodeOptions (block 1900 0x1D5D5826)) = [] ∧
    (ran (.optionLoadDone (block 1900 0x1D5D5826) noBlock { noList with valid := true } noList) (atPhase 1 id)).gov.cap = 1900 ∧
    (ran (.optionLoadDone (block 1199 0x5B1D9A43) noBlock { noList with valid := true } noList) (atPhase 1 id)).gov.cap = 1200 := by
  simp only [ran, exec, execOptionLoadDone, block_read _ _ block_valid.1, block_read _ _ block_valid.2]
  decide +kernel

/-- A copy that the card has read before is what its flash holds, whatever the command brings, while it reads valid. -/
theorem test_flash_kept :
    keptCopyRead true (some (5, [1])) { valid := true, gen := 9, content := [2] } = { valid := true, gen := 5, content := [1] } ∧
    (keptCopyRead true (none : Option (Word × List Byte)) { valid := true, gen := 9, content := [2] }).valid = false ∧
    (ran (.optionLoadDone noBlock noBlock { noList with valid := true } noList)
      (atPhase 1 fun r => { r with flash := { r.flash with optRead := true, ret0 := none } })).rst.retCopy = 3 := by decide +kernel

theorem test_bring_up_ends :
    (ran (.dramTrained [(11, 63)]) (atPhase 6 id)).rst.phase = 7 ∧
    (stackOf (ran (.dramTrained [(11, 63)]) (atPhase 6 id)) 11).pcFail = (1#64) <<< 63 ∧
    (ran (.dramTrained []) (atPhase 6 fun r => { r with dramLost := false })).rst.fillDue = true := by decide +kernel

theorem test_dram_fill : (ran .dramFillDone (atPhase 7 id)).rst.dramLost = false := by decide +kernel

theorem test_rilef_starts :
    (ran (.fwCopyDone { valid := true, gen := 1, content := [] } { valid := false, gen := 0, content := [] })
      (atPhase 8 fun r => { r with fwCopyGood := false })).rst.fwCopyGood = true ∧
    (ran (.fwCopyDone { valid := false, gen := 1, content := [] } { valid := false, gen := 0, content := [] })
      (atPhase 8 fun r => { r with fwCopyGood := false })).rst.fw = 2 ∧
    (ran (.fwCopyDone { valid := false, gen := 1, content := [] } { valid := false, gen := 0, content := [] })
      (atPhase 8 fun r => { r with coreHeld := true, lastReach := 0 })).rst.fwCopyGood = false ∧
    (ran .rilefReady (atPhase 9 id)).rst.fw = 1 ∧ still .rilefReady up = true := by decide +kernel

/-! ### Service port, identity, debug, BAR0 -/

def inSvc (s : State) (f : SvcSt → SvcSt) : State := { s with svc := f s.svc }

def lastLine (s : State) : Option FinalLine := s.svc.final

def refusedWith (c : Instr) (s : State) (e : Byte) : Bool := (lastLine (ran c s)).map (·.err) == some (some e)

def isOk (c : Instr) (s : State) : Bool := (lastLine (ran c s)).map (·.err) == some none && (ran c s).svc.active == false

theorem test_fresh : Fresh up 0x2A (.hset (.gateRel 255) 0xA5C3) := ⟨⟨rfl, rfl, by decide +kernel, by decide +kernel⟩, rfl, rfl, by decide⟩

/-- R444: the CRC of "123456789". -/
theorem test_line_check : crc16 [0x31, 0x32, 0x33, 0x34, 0x35, 0x36, 0x37, 0x38, 0x39] = 0x29B1 := by decide +kernel

theorem test_triyx_frames :
    let f : FinalLine := { err := none, lines := 2, text := [] }
    (ran (.idnt 1) (inSvc up fun x => { x with active := true })).svc.queue = [.command 1 .idnt] ∧
    still (.idnt 1) (upWith fun r => { r with poHeld := true }) = true ∧
    (ran (.dump 1) (inSvc up fun x => { x with lseq := some 1, final := some f })).out = [.wake 40, .wake 41, .finalLine 1 f] ∧
    (ran (.dump 1) (inSvc up fun x => { x with lseq := some 1, final := some f })).sync.snapReq = [] ∧
    refusedWith (.unknownVerb 9) up 0xE1 = true ∧ (ran (.badLine (.bytes [0x3E, 0x41, 0x0A])) up).svc.cCrc = 1 ∧
    (tabGet LogEntry.zero (ran (.badLine (.bytes [0x3E, 0x41, 0x0A])) up).log.events 0).code = 0xE0 ∧
    (tabGet QErr.reset (ran (.badLine (.bytes (List.replicate 513 0x41))) up).host.qerr 40).drop = 1 ∧ still .finalLineSent up = true ∧
    (ran .finalLineSent (inSvc up fun x => { x with baudPend := some 9600 })).svc.baud = 9600 ∧
    (ran .finalLineSent (inSvc up fun x => { x with resetPend := some .core })).rst.coreHeld = true ∧
    (ran .finalLineSent (inSvc up fun x => { x with resetPend := some .powerOn })).rst.first = 5 := by decide +kernel

/-- The example of section 17: RSET S, its final line, the reset, and the notice at its release; a resend replays. -/
theorem test_reset_by_triyx :
    let s := ran (.resetRelease .system) (ran (.resetSourceTimeout 5) (ran .finalLineSent (ran (.rsetS 0x2A 0xA5C3) up)))
    s.rst.src = 0x20 ∧ s.rst.first = 5 ∧ s.rst.lastReach = 1 ∧
    (s.out.getLast? = some (.notice 1 (rstCause s))) ∧
    (ran (.rsetS 0x2A 0xA5C3) s).out.getLast? = some (.finalLine 0x2A { err := none, lines := 0, text := [] }) ∧
    (ran (.rsetS 0x2A 0xA5C3) s).svc.resetPend = none := by decide +kernel

/-- The lines of the example of section 17: ">002A RSET S 0xA5C3", a final line of 17 characters, dump lines of 156, and the notice. -/
theorem test_line_texts :
    (lineChars (.command 0x2A (.rset .system 0xA5C3))).take 20 =
      [0x3E, 0x30, 0x30, 0x32, 0x41, 0x20, 0x52, 0x53, 0x45, 0x54, 0x20, 0x53, 0x20, 0x30, 0x78, 0x41, 0x35, 0x43, 0x33, 0x2A] ∧
    lineSeq (lineChars (.command 0x2A (.rset .system 0xA5C3))) = some 0x2A ∧
    (lineText (.finalLine 0x2A { err := none, lines := 0, text := [] })).take 11 =
      [0x3C, 0x30, 0x30, 0x32, 0x41, 0x3D, 0x20, 0x4F, 0x4B, 0x20, 0x30] ∧
    (lineText (.finalLine 0x2A { err := none, lines := 0, text := [] })).length = 17 ∧
    (lineText (.line 0x2A (List.replicate 16 0))).length = 156 ∧
    resetText 0x54000020 = [0x52, 0x53, 0x54, 0x20, 0x53, 0x52, 0x43, 0x3D, 0x30, 0x78, 0x32, 0x30, 0x20, 0x46, 0x49, 0x52, 0x53, 0x54,
      0x3D, 0x35, 0x20, 0x52, 0x45, 0x41, 0x43, 0x48, 0x3D, 0x31] := by decide +kernel

/-- R445: a line that came while a command ran is taken at a tick once it is over; a broken one gives the notice (R444). -/
theorem test_lines_wait :
    let busy := inSvc up fun x => { x with active := true }
    let s := ran (.rsetC 7 0xA5C3) busy
    s.svc.queue.length = 1 ∧ nextLine s = s ∧ (nextLine (inSvc s fun x => { x with active := false })).svc.resetPend = some .core ∧
    (ran (.badLine (.bytes [0x41])) busy).svc.queue = [.broken [0x41]] ∧ lineSeq [0x41] = none := by decide +kernel

theorem test_triyx_reads :
    (lastLine (ran (.calr 1) up)).map (·.lines) = some 3 ∧
    refusedWith (.rreg 1 4) up 0xE1 = true ∧ isOk (.rreg 1 0x500000) up = true ∧
    isOk (.logr 1 true 0 2) up = true ∧ isOk (.logr 1 false 4095 1) up = true ∧ refusedWith (.logr 1 true 0 257) up 0xE1 = true ∧
    isOk (.retr 1 1023 1) up = true ∧ refusedWith (.retr 1 0 65) up 0xE1 = true ∧ isOk (.sens 1) up = true := by decide +kernel

/-- A log entry with a word of two wrong bits. -/
def badEntry : LogEntry := { LogEntry.zero with stored := [3, 0, 0, 0, 0, 0, 0, 0] }

/-- R284: an entry with an uncorrectable word is answered with KIND 3 and zeros. -/
theorem test_bad_log_entry :
    let s : State := { up with log := { up.log with errors := [(0, badEntry)] } }
    (storedList 4 badEntry.stored).map (fun w => (decodeWord w).check == .uncorrectable) = [true, false, false, false] ∧
    (ran (.logr 1 false 0 1) s).out.contains (.line 1 (wordsOf32 ((List.replicate 32 0).set 13 3))) = true := by decide +kernel

def authorisedUp : State := inSvc up fun x => { x with auth := true }

def testing (u : TestUnit) : State := inSvc up fun x => { x with test := some u, active := true, lseq := some 1 }

theorem test_triyx_acts :
    canon up = true ∧ (ran (.rsetC 1 0xA5C3) up).svc.resetPend = some .core ∧ refusedWith (.rsetC 1 1) up 0xE1 = true ∧
    (ran (.hsetTlySet 1 9 4 0xA5C3) up).sync.handTriyx = [.tlySet 9 4] ∧
    (ran (.hsetTlySig 1 9 4 0xA5C3) up).sync.handTriyx = [.tlySig 9 4] ∧ refusedWith (.hsetTlySig 1 9 4 0) up 0xE1 = true ∧
    (ran (.rsetP 1 0xA5C3) up).svc.resetPend = some .powerOn ∧
    (ran (.hsetGateRel 1 9 0xA5C3) up).sync.handTriyx = [.gateRel 9] ∧
    refusedWith (.hsetGateRst 1 256 0xA5C3) up 0xE1 = true ∧ (ran (.dump 1) up).sync.snapReq = [.triyx] ∧
    (ran (.cals 1 12345 32767) up).cal.sec = 12345 ∧ refusedWith (.cals 1 0 32768) up 0xE1 = true ∧
    (ran (.baud 1 3000000) up).svc.baudPend = some 3000000 ∧ refusedWith (.baud 1 9599) up 0xE1 = true ∧
    isOk (.logc 1 true 0) up = true ∧ refusedWith (.logc 1 true 5) up 0xE5 = true := by decide +kernel

theorem test_self_test :
    refusedWith (.test 1 (.pan 5)) (upWith fun r => { r with rails := false }) 0xE3 = true ∧
    unitBusy up (.pan 5) = false ∧ (panOf (ran (.test 1 (.pan 5)) up) 5).state = .selftest ∧
    unitBusy (setTen up 0 { ten0 with bind := { Binding.none with pans := [5] } }) (.pan 5) = true ∧
    refusedWith (.test 1 (.pan 5)) (setTen up 0 { ten0 with bind := { Binding.none with pans := [5] } }) 0xE2 = true ∧
    still (.testComplete []) up = true ∧
    (lastLine (ran (.testComplete []) (testing (.pan 5)))).map (·.text) = some passText ∧
    (panOf (ran (.testComplete [[1]]) (testing (.pan 5))) 5).retired = true := by decide +kernel

theorem test_authorisation :
    refusedWith (.auts 1 [] []) up 0xE1 = true ∧
    (ran .authTimeout (inSvc authorisedUp fun x => { x with sinceCmd := authTicks })).svc.auth = false ∧
    still .authTimeout (inSvc authorisedUp fun x => { x with sinceCmd := 479999999999 }) = true ∧ refusedWith (.dbunOpen 1) up 0xE4 = true ∧
    refusedWith (.retc 1 0) up 0xE4 = true ∧ (ran (.dbunOpen 1) authorisedUp).dbg.byTriyx = true ∧
    (ran (.dbunLock 1) (openDbg authorisedUp)).dbg.open_ = false ∧ refusedWith (.retc 1 0) authorisedUp 0xE1 = true ∧
    (ran (.retc 1 0) { authorisedUp with plc := { PlcSt.reset with retire := [{ pan := true, stack := 0, die := 0, bank := 5, spare := 0, cause := 1 }] } }).plc.retire = [] ∧
    isOk (.optw 1 0x10 2 1900) authorisedUp = true ∧ (ran (.optw 1 0x10 2 1900) authorisedUp).rst.opt = up.rst.opt ∧
    refusedWith (.optw 1 0x10 2 1199) authorisedUp 0xE1 = true := by decide +kernel

def settled : State := inSvc State.reset fun x => { x with spdmVersion := true, spdmAlgs := true }

theorem test_identity :
    (ran .getVersion State.reset).out = [.spdm 0x04 [0x00, 0x13]] ∧
    (ran .getDigests State.reset).out = [.spdm 0x7F [4]] ∧
    (ran .getCapabilities settled).out = [.spdm 0x61 [0x16, 0, 0, 0]] ∧
    (ran (.negotiateAlgorithms 0x80 2) settled).svc.spdmAlgs = true ∧
    (ran (.negotiateAlgorithms 0x40 2) settled).out = [.spdm 0x7F [1]] ∧
    (ran (.getCertificate 1 0 8) settled).out = [.spdm 0x7F [1]] ∧
    measurement settled 4 = some [0x41, 0xB0] ∧ measurement settled 5 = none ∧
    (ran (.getMeasurements 5 []) settled).out = [.spdm 0x7F [1]] := by decide +kernel

/-- DBG_UNLOCK with the inverse of the challenge read (R454), from DBG_CHAL or from BAR0. -/
theorem test_debug_unlock :
    let s : State := { State.reset with dbg := { State.reset.dbg with lastRead := some 0x1234 } }
    (ran (.dbgUnlock 0xA5C3 0xFFFFEDCB) s).dbg.open_ = true ∧ (ran (.dbgUnlock 0xA5C3 0x1234) s).dbg.open_ = false ∧
    (ran (.dbgUnlock 0xA5C2 0xFFFFEDCB) s).dbg.open_ = false ∧
    (ran (.bar0Write 0x00F008 0xA5C30000FFFFEDCB) s).dbg.open_ = true ∧
    (ran (.dbgLock 0xA5C3) (openDbg s)).dbg.open_ = false ∧
    (ran .dbgChalRead s).dbg.lastRead = some s.dbg.chal := by decide +kernel

theorem test_debug_port :
    (ran .extest State.reset).svc.jtag = 3 ∧ (ran .idcode State.reset).svc.jtag = 1 ∧
    (ran .bypass State.reset).svc.jtag = 0 ∧ (ran .samplePreload State.reset).svc.jtag = 2 := by decide +kernel

/-- What a BAR0 write to a reserved offset and to a locked one adds to HOST_DROP.BAR0WR. -/
theorem test_bar0_writes :
    (ran (.bar0Write 0xA00000 1) up).host.bar0Drop = 1 ∧ (ran (.bar0Write 0x1600000 1) up).host.bar0Drop = 1 ∧
    still (.bar0Write 0 1) up = true ∧
    (ran (.bar0Write 0x500000 0x04) (upWith fun r => { r with src := 0x0C })).rst.src = 0x08 ∧
    (ran (.bar0Write 0x100088 0x0102) up).host.slots = [(136, 2), (137, 1)] ∧
    (ran (.bar0Write 0x1600000 7) (openDbg up)).log.injD = 7 := by decide +kernel

/-! ### The whole card -/

/-- The command in front of the queue runs on the state with the rest of it; an empty queue leaves the state. -/
theorem test_step :
    step { up with pending := [.bypass, .extest] } = exec .bypass { up with pending := [.extest] } ∧ step up = .next up :=
  ⟨rfl, rfl⟩

theorem test_reset_memory : State.reset.mem = [] ∧ Memory.wf State.reset.mem := by decide

theorem test_reset_form : canon State.reset = true := by decide +kernel

/-- A debug range that one step opens (R454). -/
theorem test_debug_opens :
    let s : State := { State.reset with
      pending := [.dbgUnlock 0xA5C3 0xFFFFEDCB], dbg := { State.reset.dbg with lastRead := some 0x1234 } }
    ∃ t, step s = .next t ∧ s.dbg.open_ = false ∧ t.dbg.open_ = true :=
  ⟨_, rfl, by decide, by decide +kernel⟩

/-- Each check of the well-formed commands refuses a term. -/
theorem test_ill_formed :
    ([Instr.tallySignal (.rilef 0 7 0), .bar0Write 4 0, .ingestWrite 0 0 [], .configRequest 2, .challenge 0 [1],
      .getMeasurements 1 [1], .ldwPayload seg0 0 [], .dramRequest 0 { req0 with data := [1] }, .frameReceive 0 .other 0 false,
      .rdmaRead 0 0 0 0 0 0x80000001, .mirPair 0 [] 0, .mirrorWriteReceive 0 0 0 [], .mirrorRecordReceive [],
      .sensorSweep sweep0, .selftestDone [(1, 0), (1, 0)] [] [], .dramTrained [(0, 0), (0, 0)],
      .optionLoadDone [] noBlock noList noList].all
      fun c => !c.wellFormed) = true := by decide +kernel

/-- A payload of more than 2 GiB is refused, and one that fits is not. -/
theorem test_ill_formed_payload (d : List Byte) (h : 2 ^ 31 < d.length) :
    (Instr.rdmaWrite 0 0 0 0 0 d).wellFormed = false ∧ (Instr.rdmaWriteImm 0 0 0 0 0 d).wellFormed = false := by
  simp [Instr.wellFormed]; omega

def fullSweep : Sweep :=
  { die := List.replicate 64 30, stack := List.replicate 12 30, railMv := List.replicate 14 900, railMa := List.replicate 14 0,
    inMv := 48000, inMa := 25000, cool := 30, scap := 5, bad := none }

theorem test_well_formed :
    ([Instr.bar0Write 8 0, .configRequest 4, .dramRequest 0 req0, .sensorSweep fullSweep, .selftestDone [(1, 0), (1, 1)] [] [],
      .dramTrained [(0, 0), (0, 1)],
      .optionLoadDone (List.replicate 4096 0) (List.replicate 4096 0) noList noList, .frameReceive 0 .other 64 false].all fun c => c.wellFormed) = true := by decide +kernel


end Sys2Proof.Tests
end

/-! ## O60: SPDM, the debug range, the debug port and BAR0 writes (R12, R343, R424, R452, R454) -/

namespace Sys2Proof.Machine

section Identity

/-! ### SPDM: a request is answered once its turn in the negotiation has come (R452) -/

variable {s : State}

theorem spdmReady_of_negotiated (hv : s.svc.spdmVersion = true) (ha : s.svc.spdmAlgs = true) (act : State → State) :
    spdmReady s act = act s := by
  simp [spdmReady, hv, ha]

theorem spdmReady_of_not_negotiated (h : s.svc.spdmVersion = false ∨ s.svc.spdmAlgs = false) (act : State → State) :
    spdmReady s act = spdmError s 4 := by
  rcases h with h | h <;> simp [spdmReady, h]

theorem getCapabilities_eq :
    exec .getCapabilities s = .next (if s.svc.spdmVersion then spdm s 0x61 (leBytes 4 0x16) else spdmError s 4) := rfl

theorem negotiateAlgorithms_of_no_version (asym hash : Word) (h : s.svc.spdmVersion = false) :
    exec (.negotiateAlgorithms asym hash) s = .next (spdmError s 4) :=
  congrArg Host.Outcome.next (by simp [h])

theorem negotiateAlgorithms_of_version (asym hash : Word) (h : s.svc.spdmVersion = true) :
    exec (.negotiateAlgorithms asym hash) s = .next (
      if asym.getLsbD 7 = true ∧ hash.getLsbD 1 = true then
        spdm { s with svc := { s.svc with spdmAlgs := true } } 0x63 (leBytes 4 0x80 ++ leBytes 4 0x02)
      else spdmError s 1) :=
  congrArg Host.Outcome.next (by simp only [h, modSvc, Bool.not_true, Bool.and_eq_true, Bool.false_eq_true, if_false])

/-- After the negotiation a certificate request names slot 0 and an offset within the certificate, or is invalid. -/
theorem getCertificate_of_negotiated (hv : s.svc.spdmVersion = true) (ha : s.svc.spdmAlgs = true)
    (slot : BitVec 4) (off len : Half) :
    exec (.getCertificate slot off len) s = .next (
      if slot ≠ 0 ∨ Config.certificate.length ≤ off.toNat then spdmError s 1
      else spdm s 0x02 (leBytes 2 ((Config.certificate.drop off.toNat).take len.toNat).length ++
        leBytes 2 (Config.certificate.length - off.toNat - ((Config.certificate.drop off.toNat).take len.toNat).length) ++
        (Config.certificate.drop off.toNat).take len.toNat)) :=
  congrArg Host.Outcome.next (spdmReady_of_negotiated hv ha _)

theorem challenge_of_negotiated (hv : s.svc.spdmVersion = true) (ha : s.svc.spdmAlgs = true)
    (slot : BitVec 4) (nonce : List Byte) :
    exec (.challenge slot nonce) s = .next (
      if slot ≠ 0 then spdmError s 1
      else spdm s 0x03 (Config.sha384 Config.certificate ++ nonce ++
        Config.identitySign (Config.sha384 Config.certificate ++ nonce))) :=
  congrArg Host.Outcome.next (spdmReady_of_negotiated hv ha _)

theorem getMeasurements_of_some (hv : s.svc.spdmVersion = true) (ha : s.svc.spdmAlgs = true)
    {index : Byte} (nonce : List Byte) {m : List Byte} (hm : measurement s index.toNat = some m) :
    exec (.getMeasurements index nonce) s =
      .next (spdm s 0x60 (index :: m ++ Config.identitySign (nonce ++ index :: m))) :=
  congrArg Host.Outcome.next ((spdmReady_of_negotiated hv ha _).trans (by simp only [hm]))

theorem getMeasurements_of_none (hv : s.svc.spdmVersion = true) (ha : s.svc.spdmAlgs = true)
    {index : Byte} (nonce : List Byte) (hm : measurement s index.toNat = none) :
    exec (.getMeasurements index nonce) s = .next (spdmError s 1) :=
  congrArg Host.Outcome.next ((spdmReady_of_negotiated hv ha _).trans (by simp only [hm]))

end Identity

section Debug

/-! ### The debug range: what a write of DBG_UNLOCK does (R454) -/

theorem writeUnlock_of_no_confirm (s : State) {conf : Half} (h : conf ≠ 0xA5C3) (lock : Bool) (resp : Word) :
    writeUnlock s conf lock resp = dropBar0 s := if_pos h

/-- Under CONFIRM an unlock opens the range or is dropped, as RESP is the inverse of the challenge last read or not. -/
theorem writeUnlock_open (s : State) (resp : Word) :
    writeUnlock s 0xA5C3 false resp = if s.dbg.lastRead = some (~~~resp) then openDebug s false else dropBar0 s := rfl

theorem openDebug_host (s : State) :
    (openDebug s false).dbg.open_ = true ∧ (openDebug s false).dbg.byHost = true ∧
      (openDebug s false).dbg.opens = s.dbg.opens + 1 ∧ (openDebug s false).mem = s.mem := by
  simp [openDebug]

end Debug

section Bar0

/-! ### BAR0: which block an offset lies in, and what a write does there (R12, R343) -/

/-- Dropping the low three bits of an offset keeps it in its mebibyte. -/
theorem regOffset_div_mib (o : Nat) : regOffset o / 2 ^ 20 = o / 2 ^ 20 := by
  unfold regOffset; omega

/-- An entry's own offset is found in its table. -/
theorem entryAt_entry (base size : Nat) {n i k : Nat} (hi : i < n) (hk : k < size) :
    entryAt base size n (base + size * i + k) = some (i, k) := by
  have hlt : size * i + k < size * n := calc
    size * i + k < size * (i + 1) := by rw [Nat.mul_succ]; omega
    _ ≤ size * n := Nat.mul_le_mul_left size hi
  have hsub : base + size * i + k - base = size * i + k := by omega
  rw [entryAt, if_pos (by omega), hsub, Nat.mul_add_div (by omega), Nat.mul_add_mod, Nat.div_eq_of_lt hk, Nat.mod_eq_of_lt hk]
  rfl

/-- Behind the ten blocks a register is known only in the open debug range. -/
theorem readBlock_behind_blocks (s : State) {o : Nat} (h : 10 ≤ o / 2 ^ 20) :
    readBlock s o = if o < 0x1000000 || !s.dbg.open_ then none else readDebug s o := by
  unfold readBlock
  split
  case h_11 => rfl
  all_goals omega

theorem bar0Write_of_known {s : State} {off : BitVec 26} {o : Nat} (v : Dword) (ho : regOffset off.toNat = o)
    (h : (readBlock s o).isSome = true) : exec (.bar0Write off v) s = .next (writeBlock s o v) := by
  subst ho; exact if_pos h

theorem bar0Write_of_unknown {s : State} {off : BitVec 26} (v : Dword) (h : readBlock s (regOffset off.toNat) = none) :
    exec (.bar0Write off v) s = .next (dropBar0 s) := if_neg (by simp [h])

theorem bar0Write_locked {s : State} {o : BitVec 26} (v : Dword) (ho : 0x1000000 ≤ o.toNat) (hl : s.dbg.open_ = false) :
    exec (.bar0Write o v) s = .next (dropBar0 s) :=
  bar0Write_of_unknown v (by
    rw [readBlock_behind_blocks s (by rw [regOffset_div_mib]; omega)]
    simp [hl])

theorem bar0Write_reserved {s : State} {o : BitVec 26} (v : Dword) (hlo : 0xA00000 ≤ o.toNat) (hhi : o.toNat < 0x1000000) :
    exec (.bar0Write o v) s = .next (dropBar0 s) := by
  have hlt : regOffset o.toNat < 0x1000000 := by unfold regOffset; omega
  refine bar0Write_of_unknown v ?_
  rw [readBlock_behind_blocks s (by rw [regOffset_div_mib]; omega)]
  simp [hlt]

/-- The offset of register `k` of a mailbox slot. -/
theorem regOffset_mailboxSlot (slot : MbxIx) (k : Fin 8) :
    regOffset (BitVec.ofNat 26 (0x100000 + 64 * slot.val + 8 * k.val)).toNat = 0x100000 + 64 * slot.val + 8 * k.val := by
  rw [BitVec.toNat_ofNat, Nat.mod_eq_of_lt (by omega)]
  unfold regOffset; omega

theorem readMailbox_slot (s : State) (slot : MbxIx) (k : Fin 8) :
    (readMailbox s (0x100000 + 64 * slot.val + 8 * k.val)).isSome = true := by
  simp only [readMailbox, entryAt_entry 0x100000 64 slot.isLt (by omega : 8 * k.val < 64)]
  rfl

theorem writeMailbox_slot (s : State) (slot : MbxIx) (k : Fin 8) (v : Dword) :
    writeMailbox s (0x100000 + 64 * slot.val + 8 * k.val) v = modHost s fun h =>
      { h with slots := tabSetList 0 h.slots (64 * slot.val + 8 * k.val) (leBytes 8 v.toNat) } := by
  rw [writeMailbox, entryAt_entry 0x100000 64 slot.isLt (by omega : 8 * k.val < 64)]

/-- The second mebibyte is the mailbox block. -/
theorem readBlock_mailbox (s : State) {o : Nat} (h : o / 2 ^ 20 = 1) : readBlock s o = readMailbox s o := by
  rw [readBlock, h]; rfl

theorem writeBlock_mailbox (s : State) {o : Nat} (v : Dword) (h : o / 2 ^ 20 = 1) : writeBlock s o v = writeMailbox s o v := by
  rw [writeBlock, h]; rfl

theorem bar0Write_mailboxSlot (s : State) (slot : MbxIx) (k : Fin 8) (v : Dword) :
    exec (.bar0Write (BitVec.ofNat 26 (0x100000 + 64 * slot.val + 8 * k.val)) v) s = .next { s with host := { s.host with
      slots := tabSetList 0 s.host.slots (64 * slot.val + 8 * k.val) (leBytes 8 v.toNat) } } := by
  have hb : (0x100000 + 64 * slot.val + 8 * k.val) / 2 ^ 20 = 1 := by omega
  rw [bar0Write_of_known v (regOffset_mailboxSlot slot k) (by rw [readBlock_mailbox s hb]; exact readMailbox_slot s slot k),
    writeBlock_mailbox s v hb, writeMailbox_slot]
  rfl

theorem bar0Write_mailboxDoorbell (s : State) (slot : MbxIx) :
    exec (.bar0Write 0x101000 (BitVec.ofNat 64 slot.val)) s = exec (.mbxDoorbell slot) s := by
  have hv : (BitVec.ofNat 64 slot.val).toNat % 64 = slot.val := by rw [BitVec.toNat_ofNat]; omega
  have hw : ∀ w : Dword, writeBlock s 0x101000 w = after s (exec (.mbxDoorbell ⟨w.toNat % 64, by omega⟩) s) := fun _ => rfl
  rw [bar0Write_of_known (o := 0x101000) _ rfl rfl, hw]
  simp only [hv]
  rfl

/-- The bits of a written word that hold CONFIRM are its top 16. -/
theorem confirm_of_word (v : Dword) : BitVec.ofNat 16 (bitsOf v.toNat 48 16) = BitVec.ofNat 16 (v.toNat / 2 ^ 48) := by
  apply BitVec.eq_of_toNat_eq
  simp [bitsOf]

theorem bar0Write_dbgUnlock (s : State) (v : Dword) (h : v.getLsbD 32 = false) :
    exec (.bar0Write 0x00F008 v) s = exec (.dbgUnlock (BitVec.ofNat 16 (v.toNat / 2 ^ 48)) (v.truncate 32)) s := by
  have hw : writeBlock s 0xF008 v =
      writeUnlock s (BitVec.ofNat 16 (bitsOf v.toNat 48 16)) (v.getLsbD 32) (v.truncate 32) := rfl
  rw [bar0Write_of_known (o := 0xF008) v rfl rfl, hw, h, confirm_of_word]
  rfl

/-- The open debug range shows the injection data, and a write there sets it. -/
theorem bar0Write_injection {s : State} (v : Dword) (h : s.dbg.open_ = true) :
    exec (.bar0Write 0x1600000 v) s = .next { s with log := { s.log with injD := v } } :=
  bar0Write_of_known (o := 0x1600000) v rfl (by
    rw [readBlock_behind_blocks s (by decide)]
    simp only [h]
    rfl)

end Bar0

/-- Settles O60: SPDM by the state of the negotiation, the debug range by CONFIRM and the challenge last read, and BAR0 by the
block of the offset and whether a register stands there. -/
theorem identityDebugAndBar0 : Obligations.IdentityDebugAndBar0 := by
  unfold Obligations.IdentityDebugAndBar0
  intro s asym hash resp n4 off len conf nonce index m o v slot k
  refine ⟨rfl, ?noVersion, ?version, ?notNegotiated, ?negotiated, ?challengeRead, ?noConfirm, ?wrongAnswer, ?rightAnswer,
    rfl, rfl, rfl, rfl, rfl, bar0Write_locked v, bar0Write_reserved v, bar0Write_of_known (o := 0) v rfl rfl,
    bar0Write_of_known (o := 0x500000) v rfl rfl, bar0Write_of_known (o := 0x700020) 2 rfl rfl,
    bar0Write_of_known (o := 0x700020) 1 rfl rfl, bar0Write_mailboxDoorbell s slot, bar0Write_mailboxSlot s slot k v,
    bar0Write_dbgUnlock s v, bar0Write_injection v⟩
  case noVersion =>
    exact fun h => ⟨by simp [getCapabilities_eq, h], negotiateAlgorithms_of_no_version asym hash h⟩
  case version =>
    intro h
    rw [negotiateAlgorithms_of_version asym hash h]
    refine ⟨by simp [getCapabilities_eq, h], fun ha hh => by rw [if_pos ⟨ha, hh⟩], fun hlacks => ?_⟩
    rw [if_neg (by rwa [not_and_or, Bool.not_eq_true, Bool.not_eq_true])]
  case notNegotiated =>
    intro h
    have refused (act : State → State) := congrArg (Host.Outcome.next : State → Answer) (spdmReady_of_not_negotiated h act)
    exact ⟨refused _, refused _, refused _, refused _⟩
  case negotiated =>
    intro hv ha
    refine ⟨congrArg Host.Outcome.next (spdmReady_of_negotiated hv ha _), fun hn => ⟨?_, ?_⟩, fun ho => ?_, ?_, ?_,
      getMeasurements_of_some hv ha nonce, getMeasurements_of_none hv ha nonce⟩
    · rw [getCertificate_of_negotiated hv ha, if_pos (.inl hn)]
    · rw [challenge_of_negotiated hv ha, if_pos hn]
    · rw [getCertificate_of_negotiated hv ha, if_pos (.inr ho)]
    · rintro ho part rfl
      rw [getCertificate_of_negotiated hv ha, if_neg (by simpa using ho)]
    · exact challenge_of_negotiated hv ha 0 nonce
  case challengeRead =>
    exact ⟨_, rfl, rfl, rfl, rfl, rfl⟩
  case noConfirm =>
    exact fun h => ⟨congrArg Host.Outcome.next (writeUnlock_of_no_confirm s h false resp),
      congrArg Host.Outcome.next (writeUnlock_of_no_confirm s h true 0)⟩
  case wrongAnswer =>
    exact fun h => congrArg Host.Outcome.next ((writeUnlock_open s resp).trans (if_neg h))
  case rightAnswer =>
    exact fun h => ⟨_, congrArg Host.Outcome.next ((writeUnlock_open s resp).trans (if_pos h)), openDebug_host s⟩

end Sys2Proof.Machine

/-! ## O6 and O37: the state after power-on, and the save areas at a turnover (R38, R41) -/

namespace Sys2Proof.Machine

/-- Settles O6: each register as the state after power-on holds it, the numbered units by their tables, which list none. -/
theorem resetRegisterValues : Obligations.ResetRegisterValues := by
  unfold Obligations.ResetRegisterValues
  exact ⟨rfl, rfl, rfl, rfl, rfl, rfl, rfl, rfl, rfl, rfl, rfl, rfl, rfl, rfl, rfl, fun _ => rfl, fun _ => rfl, fun _ => rfl,
    fun _ => ⟨rfl, rfl, rfl, rfl⟩⟩

section Turnover

/-- Pan 0 while it serves logical pan 0 of tenant 0; its tide so far counts five stalled cycles. -/
def stalledPan : Pan := { Pan.reset with tenant := some 0, lpan := some 0, stall := 5 }

/-- A tenant of pan 0 between its tides. -/
def pan0Tenant (st : TenState) : Tenant := { Tenant.reset with state := st, bind := { Binding.none with pans := [0] } }

/-- The entry of tenant 0 alone, which ends the cycle of the table in force. -/
def onlyEntry : SliceEntry := { last := true, lenUs := 100, mask := 1 }

/-- The first entry of the table that waits: tenant 1 alone. -/
def arrivingEntry : SliceEntry := { last := false, lenUs := 100, mask := 2 }

/-- Two tenants share pan 0: tenant 0 runs in the last entry, and the table that waits begins with tenant 1. -/
def beforeTurnover : State :=
  { State.reset with
    pans := [(0, stalledPan)], ten := [(0, pan0Tenant .running), (1, pan0Tenant .slicedOut)],
    slice := { SliceSt.reset with table := [onlyEntry], next := some [arrivingEntry, onlyEntry] } }

theorem beforeTurnover_canon : Canon beforeTurnover := by unfold Canon; decide

/-- The turnover puts what the pan of tenant 0 keeps into its save area (R38). -/
theorem beforeTurnover_saves :
    ∃ u, exec .sliceEntryEnd beforeTurnover = .next u ∧ savedOf u 0 0 = stalledPan.kept ∧
      savedOf beforeTurnover 0 0 = SavedPan.none := ⟨_, rfl, by decide, by decide⟩

/-- Refutes O37: the turnover to the first entry of a new table puts what the pans of the leaving tenant keep into its save area
(R38), while the statement has the slice state with its save areas as before. In `beforeTurnover` the stalled cycles of pan 0 are
saved. -/
theorem not_tidesAndSlicesAdvance : ¬ Obligations.TidesAndSlicesAdvance := by
  unfold Obligations.TidesAndSlicesAdvance
  rintro ⟨-, hslices⟩
  obtain ⟨-, -, hends, -⟩ :=
    hslices beforeTurnover onlyEntry arrivingEntry 0 [arrivingEntry, onlyEntry] 1 2 beforeTurnover_canon rfl
  obtain ⟨-, -, -, hturns⟩ := hends rfl rfl (by decide) (by decide) (by decide)
  obtain ⟨-, htable⟩ := hturns (by decide)
  obtain ⟨u, hu, hslice, -⟩ := htable rfl rfl (by decide) rfl (by decide)
  obtain ⟨w, hw, hsaved, hbefore⟩ := beforeTurnover_saves
  obtain rfl : u = w := by injection hu.symm.trans hw
  have hkept : savedOf u 0 0 = savedOf beforeTurnover 0 0 := by rw [savedOf, hslice]; rfl
  exact absurd (hsaved.symm.trans (hkept.trans hbefore)) (by decide)

end Turnover
end Sys2Proof.Machine

/-! ## O38: LOAD_IMAGE, UNLOAD, START and SET_WEIGHT (R34, R35, R38, R299, R355, R473) -/

namespace Sys2Proof.Machine

section Tenancy

/-! ### What retirement, reads, writes of words and fills leave to the tenants -/

/-- The slice state, the state of each tenant, and the tenant that each pan serves. -/
def tenancy (s : State) : SliceSt × (TenIx → TenState) × (PanIx → Option TenIx) :=
  (s.slice, fun t => (tenOf s t).state, fun p => (panOf s p).tenant)

theorem tenancy_congr {s u : State} (hslice : u.slice = s.slice) (hten : u.ten = s.ten) (hpans : u.pans = s.pans) :
    tenancy u = tenancy s := by
  simp only [tenancy, tenOf, panOf, hslice, hten, hpans]

theorem slice_of_tenancy {s u : State} (h : tenancy u = tenancy s) : u.slice = s.slice := congrArg (·.1) h

theorem state_of_tenancy {s u : State} (h : tenancy u = tenancy s) (t : TenIx) : (tenOf u t).state = (tenOf s t).state :=
  congrFun (congrArg (·.2.1) h) t

theorem tenant_of_tenancy {s u : State} (h : tenancy u = tenancy s) (p : PanIx) : (panOf u p).tenant = (panOf s p).tenant :=
  congrFun (congrArg (·.2.2) h) p

theorem tenancy_modTen (s : State) (t : TenIx) (f : Tenant → Tenant) (h : (f (tenOf s t)).state = (tenOf s t).state) :
    tenancy (modTen s t f) = tenancy s := by
  have hstate : ∀ u, (tenOf (modTen s t f) u).state = (tenOf s u).state := by
    intro u
    rw [tenOf_modTen]
    split
    case isTrue hu => rw [h, hu]
    case isFalse => rfl
  simp only [tenancy, hstate]
  rfl

theorem tenancy_modPan (s : State) (p : PanIx) (f : Pan → Pan) (h : (f (panOf s p)).tenant = (panOf s p).tenant) :
    tenancy (modPan s p f) = tenancy s := by
  have htenant : ∀ q, (panOf (modPan s p f) q).tenant = (panOf s q).tenant := by
    intro q
    rw [panOf_modPan]
    split
    case isTrue hq => rw [h, hq]
    case isFalse => rfl
  simp only [tenancy, htenant]
  rfl

/-- A fold over states paired with a result keeps what each of its steps keeps. -/
theorem foldl_fst_keeps {α β γ : Type} (g : State → β) (f : State × γ → α → State × γ) (h : ∀ r a, g (f r a).1 = g r.1)
    (l : List α) (r : State × γ) : g (l.foldl f r).1 = g r.1 := by
  induction l generalizing r with
  | nil => rfl
  | cons a l ih => rw [List.foldl_cons, ih, h]

@[simp] theorem tenancy_logEvent (s : State) (code : Byte) (d : List Byte) (t : Option TenIx) :
    tenancy (logEvent s code d t) = tenancy s := tenancy_congr rfl rfl rfl

@[simp] theorem tenancy_modBank (s : State) (k : Nat) (f : BankSt → BankSt) : tenancy (modBank s k f) = tenancy s :=
  tenancy_congr rfl rfl rfl

@[simp] theorem tenancy_modStack (s : State) (k : StackIx) (f : Stack → Stack) : tenancy (modStack s k f) = tenancy s :=
  tenancy_congr rfl rfl rfl

@[simp] theorem tenancy_addRetire (s : State) (e : RetireEntry) : tenancy (addRetire s e) = tenancy s :=
  tenancy_congr rfl rfl rfl

@[simp] theorem tenancy_addMove (s : State) (t : TenIx) (m : MoveWhat) : tenancy (addMove s t m) = tenancy s :=
  tenancy_modTen s t _ rfl

@[simp] theorem tenancy_haltNext (s : State) (ts : List TenIx) (code : Byte) : tenancy (haltNext s ts code) = tenancy s :=
  foldl_keeps tenancy _ (fun _ _ => tenancy_modTen _ _ _ rfl) ts s

@[simp] theorem tenancy_movePan (s : State) (p : PanIx) (t : TenIx) : tenancy (movePan s p t) = tenancy s := by
  unfold movePan
  split
  · exact tenancy_addMove s t _
  · rw [tenancy_logEvent]; exact tenancy_modPan s p _ rfl

@[simp] theorem tenancy_recallPans (s : State) (q : PanIx) : tenancy (recallPans s q) = tenancy s :=
  foldl_keeps tenancy _ (fun _ _ => foldl_keeps tenancy _
    (fun _ _ => (tenancy_movePan _ _ _).trans (tenancy_modTen _ _ _ rfl)) _ _) _ _

@[simp] theorem tenancy_retirePan (s : State) (p : PanIx) (c : BitVec 4) : tenancy (retirePan s p c) = tenancy s := by
  have hmoves := fun l r => foldl_keeps tenancy (fun r t => movePan r p t) (fun r t => tenancy_movePan r p t) l r
  have hmark := tenancy_modPan s p (fun x => { x with retired := true, spare := false }) rfl
  unfold retirePan
  dsimp only
  split
  · rfl
  · split <;> simp [hmoves, hmark]

@[simp] theorem tenancy_startBankMoves (s : State) (ms : List (BankIx × BankIx)) : tenancy (startBankMoves s ms) = tenancy s :=
  (foldl_keeps tenancy _ (fun _ _ => foldl_keeps tenancy _ (fun _ _ => tenancy_addMove _ _ _) _ _) _ _).trans
    (tenancy_congr rfl rfl rfl)

@[simp] theorem tenancy_relocateBank (s : State) (b : BankIx) (d : List Byte) : tenancy (relocateBank s b d) = tenancy s := by
  unfold relocateBank
  split
  · rfl
  · split
    · exact tenancy_startBankMoves s _
    · dsimp only
      split <;> simp

@[simp] theorem tenancy_recallMoves (s : State) (c : BankIx) (d : List Byte) : tenancy (recallMoves s c d) = tenancy s := by
  unfold recallMoves
  dsimp only
  split
  · rfl
  · exact (foldl_keeps tenancy _ (fun _ _ => by split <;> simp) _ _).trans
      ((foldl_keeps tenancy _ (fun _ _ => tenancy_modTen _ _ _ rfl) _ _).trans (tenancy_congr rfl rfl rfl))

@[simp] theorem tenancy_retireBank (s : State) (b : BankIx) (c : BitVec 4) : tenancy (retireBank s b c) = tenancy s := by
  have hmoves := fun j l r => foldl_keeps tenancy (fun r t => addMove r t (.spare b j))
    (fun r t => tenancy_addMove r t (.spare b j)) l r
  unfold retireBank retireBankWith
  dsimp only
  split
  · rfl
  · split <;> simp [hmoves]

@[simp] theorem tenancy_placerCount (s : State) (k : Nat) : tenancy (placerCount s k) = tenancy s := by
  have hcount := fun p => tenancy_modPan s p (fun x => { x with ceCount := x.ceCount + 1 }) rfl
  unfold placerCount
  dsimp only
  split
  · split <;> simp
  · split <;> simp [hcount]
  · rfl

@[simp] theorem tenancy_setLog (s : State) (l : LogSt) : tenancy { s with log := l } = tenancy s := tenancy_congr rfl rfl rfl

@[simp] theorem tenancy_setMem (s : State) (m : Memory) : tenancy { s with mem := m } = tenancy s := tenancy_congr rfl rfl rfl

@[simp] theorem tenancy_setDram (s : State) (d : DramSt) : tenancy { s with dram := d } = tenancy s := tenancy_congr rfl rfl rfl

@[simp] theorem tenancy_usedFree (s : State) (n : Nat) : tenancy (usedFree s n) = tenancy s := tenancy_congr rfl rfl rfl

@[simp] theorem tenancy_logWord (s : State) (code : Byte) (k : Nat) (d : Decoded) (t : Option TenIx) :
    tenancy (logWord s code k d t) = tenancy s := by
  unfold logWord
  split
  · rfl
  · simp
  · split <;> simp

@[simp] theorem tenancy_noteWord (s : State) (code : Byte) (k : Nat) (d : Decoded) (t : Option TenIx) :
    tenancy (noteWord s code k d t) = tenancy s := by
  unfold noteWord
  split <;> simp

@[simp] theorem tenancy_noteUnit (s : State) (code : Byte) (u : Nat) (t : Option TenIx) :
    tenancy (noteUnit s code u t) = tenancy s := by
  unfold noteUnit noteColumn noteWords
  split
  · exact (foldl_keeps tenancy _ (fun _ _ => tenancy_logWord _ _ _ _ _) _ _).trans (tenancy_setLog s _)
  · exact foldl_keeps tenancy _ (fun _ _ => tenancy_noteWord _ _ _ _ _) _ _

@[simp] theorem tenancy_sendTo (s : State) (b : BankIx) (c : SentCmd) : tenancy (sendTo s b c) = tenancy s :=
  tenancy_modStack s _ _

@[simp] theorem tenancy_closeRow (s : State) (b : BankIx) : tenancy (closeRow s b) = tenancy s := by
  unfold closeRow prechargeBank
  split <;> simp

@[simp] theorem tenancy_openRowFor (s : State) (b : BankIx) (l : Nat) : tenancy (openRowFor s b l) = tenancy s := by
  unfold openRowFor
  split <;> simp

@[simp] theorem tenancy_rowAfter (s : State) (b : BankIx) (l : Nat) (h : PageHint) : tenancy (rowAfter s b l h) = tenancy s :=
  tenancy_modBank s _ _

@[simp] theorem tenancy_accessedUnit (s : State) (u : Nat) (next : Option Nat) : tenancy (accessedUnit s u next) = tenancy s := by
  unfold accessedUnit
  split
  · rfl
  · split
    · rfl
    · rw [readArray, tenancy_rowAfter, tenancy_sendTo, tenancy_openRowFor]

@[simp] theorem tenancy_countForward (s : State) (u : Nat) : tenancy (countForward s u) = tenancy s := by
  unfold countForward
  split <;> simp

@[simp] theorem tenancy_noteUnits (s : State) (code : Byte) (us : List Nat) (t : Option TenIx) :
    tenancy (noteUnits s code us t) = tenancy s :=
  foldl_keeps tenancy _ (fun _ _ => by simp) _ _

@[simp] theorem tenancy_readLines (s : State) (ls : List Nat) : tenancy (readLines s ls) = tenancy s := by
  unfold readLines
  split <;> rfl

@[simp] theorem tenancy_injectRange (s : State) (k n : Nat) : tenancy (injectRange s k n) = tenancy s := by
  unfold injectRange
  split
  · exact foldl_keeps tenancy _ (fun _ _ => by split <;> simp) _ _
  · rfl

/-- A fill leaves its trace in the stacks alone. -/
@[simp] theorem tenancy_countFill (s : State) : tenancy (countFill s) = tenancy s := tenancy_setDram s _

@[simp] theorem tenancy_fillDram (s : State) : tenancy (fillDram s) = tenancy s := by
  have hdropped : ∀ l r, tenancy (List.foldl (fun r k => modStack r k fun x => { x with wq := [] }) r l) = tenancy r :=
    foldl_keeps tenancy _ (fun _ _ => tenancy_modStack _ _ _)
  have hzeroed : ∀ (r : State) m l x, tenancy { r with mem := m, log := l, rst := x } = tenancy r :=
    fun _ _ _ _ => tenancy_congr rfl rfl rfl
  unfold fillDram
  dsimp only
  split
  · refine (foldl_keeps tenancy _ (fun _ _ => foldl_keeps tenancy _ (fun _ _ => tenancy_injectRange _ _ _) _ _) _ _).trans ?_
    rw [hzeroed, hdropped, tenancy_countFill]
  · rw [hzeroed, hdropped, tenancy_countFill]

theorem tenancy_writePart (s : State) (loc : Nat) (bs : List Byte) (code : Byte) (t : Option TenIx) :
    tenancy (writePart s loc bs code t).1 = tenancy s := by
  unfold writePart
  dsimp only
  split
  · exact tenancy_setMem s _
  · split
    · exact tenancy_noteWord s _ _ _ _
    · exact (tenancy_setMem _ _).trans (tenancy_noteWord s _ _ _ _)

theorem tenancy_putBytes (s : State) (loc : Nat) (bs : List Byte) (t : Option TenIx) :
    tenancy (putBytes s loc bs t).1 = tenancy s := by
  unfold putBytes
  refine foldl_fst_keeps tenancy _ (fun r i => ?_) _ _
  dsimp only
  split
  · rfl
  · exact tenancy_writePart _ _ _ _ _

/-- A pair made of a pair's state keeps what that state keeps. -/
theorem tenancy_fst_mk {s : State} {β γ : Type} {w : State × β} (h : tenancy w.1 = tenancy s) (x : γ) :
    tenancy (w.1, x).1 = tenancy s := h

@[simp] theorem tenancy_putInits (s : State) (b : Binding) (ins : List InitReq) : tenancy (putInits s b ins).1 = tenancy s := by
  unfold putInits
  refine foldl_fst_keeps tenancy _ (fun r i => ?_) _ _
  dsimp -proj only
  split
  · rfl
  · split
    · exact tenancy_fst_mk (tenancy_putBytes _ _ _ _) _
    · split
      · exact tenancy_fst_mk (tenancy_putBytes _ _ _ _) _
      · rfl

@[simp] theorem tenancy_markSliced (s : State) (table : List SliceEntry) : tenancy (markSliced s table) = tenancy s :=
  foldl_keeps tenancy _ (fun _ _ => tenancy_modTen _ _ _ rfl) _ _

@[simp] theorem tenancy_retryBank (s : State) (b : BankIx) : tenancy (retryBank s b) = tenancy s := by
  unfold retryBank
  split
  · simp
  · split <;> simp

@[simp] theorem tenancy_retryPan (s : State) (p : PanIx) : tenancy (retryPan s p) = tenancy s := by
  have hmoves := fun q l r => foldl_keeps tenancy (fun r t => addMove r t (.pan p q))
    (fun r t => tenancy_addMove r t (.pan p q)) l r
  have hmark := tenancy_modPan s p (fun x => { x with degraded := false }) rfl
  unfold retryPan
  dsimp only
  split
  · exact hmark
  · split <;> simp [hmoves, hmark]

@[simp] theorem tenancy_retryDegraded (s : State) : tenancy (retryDegraded s) = tenancy s :=
  (foldl_keeps tenancy retryPan tenancy_retryPan _ _).trans (foldl_keeps tenancy retryBank tenancy_retryBank _ _)

@[simp] theorem tenancy_refreshSpares (s : State) : tenancy (refreshSpares s) = tenancy s :=
  foldl_keeps tenancy _ (fun _ _ => tenancy_modPan _ _ _ rfl) _ _

end Tenancy

section MailboxTenants

/-! ### Slice tables, tallies, gates and pans: what each operation leaves alone -/

/-- A command that its slot holds acts on its image (R353, R354). -/
theorem runMailbox_of_holds {s : State} {n : MbxIx} {op : Nat} {img : List Byte} (h : Holds s n op img)
    (act : List Byte → State → State) : runMailbox s n op act = .next (act img s) := by
  obtain ⟨hheld, hpend, rfl, hop, hresult⟩ := h
  rw [runMailbox, if_pos (by simp [hheld, hpend, hop, hresult])]

/-- What a table changes in a tenant is its sliced mark alone. -/
theorem markSliced_keeps {β : Type} (g : Tenant → β) (hg : ∀ x m, g { x with sliced := m } = g x) (s : State)
    (table : List SliceEntry) (t : TenIx) : g (tenOf (markSliced s table) t) = g (tenOf s t) := by
  refine foldl_keeps (fun r => g (tenOf r t)) _ (fun r u => ?_) _ s
  rw [tenOf_modTen]
  split
  case isTrue h => rw [hg, h]
  case isFalse => rfl

@[simp] theorem setTable_ten (s : State) (table : List SliceEntry) : (setTable s table).ten = s.ten := by
  unfold setTable; split <;> rfl

@[simp] theorem setTable_pans (s : State) (table : List SliceEntry) : (setTable s table).pans = s.pans := by
  unfold setTable; split <;> rfl

theorem tenOf_setTable (s : State) (table : List SliceEntry) (t : TenIx) : tenOf (setTable s table) t = tenOf s t := by
  rw [tenOf, setTable_ten]; rfl

theorem panOf_setTable (s : State) (table : List SliceEntry) (p : PanIx) : panOf (setTable s table) p = panOf s p := by
  rw [panOf, setTable_pans]; rfl

@[simp] theorem setTable_sync (s : State) (table : List SliceEntry) : (setTable s table).sync = s.sync := by
  unfold setTable; split <;> rfl

@[simp] theorem setTable_mem (s : State) (table : List SliceEntry) : (setTable s table).mem = s.mem := by
  unfold setTable; split <;> rfl

/-- While a table is in force, a new one waits for the end of its cycle (R38). -/
theorem setTable_slice_of_table {s : State} (h : s.slice.table ≠ []) (table : List SliceEntry) :
    (setTable s table).slice = { s.slice with next := some table } := by
  rw [setTable, if_neg (by simpa using h)]

@[simp] theorem ownTallies_ten (s : State) (base n : Nat) (o : BitVec 5) : (ownTallies s base n o).ten = s.ten := rfl

@[simp] theorem ownGates_ten (s : State) (base : Nat) (o : BitVec 5) (gs : List GateReq) : (ownGates s base o gs).ten = s.ten := rfl

@[simp] theorem ownTallies_slice (s : State) (base n : Nat) (o : BitVec 5) : (ownTallies s base n o).slice = s.slice := rfl

@[simp] theorem ownGates_slice (s : State) (base : Nat) (o : BitVec 5) (gs : List GateReq) :
    (ownGates s base o gs).slice = s.slice := rfl

@[simp] theorem ownTallies_tallies (s : State) (base n : Nat) (o : BitVec 5) : (ownTallies s base n o).sync.tallies =
    tabSetList Tally.reset s.sync.tallies base (List.replicate n { value := 0, owner := o, hand := false }) := rfl

@[simp] theorem ownGates_tallies (s : State) (base : Nat) (o : BitVec 5) (gs : List GateReq) :
    (ownGates s base o gs).sync.tallies = s.sync.tallies := rfl

@[simp] theorem barUntilTable_ten (s : State) (t : TenIx) : (barUntilTable s t).ten = s.ten := by
  unfold barUntilTable; split <;> rfl

@[simp] theorem barUntilTable_sync (s : State) (t : TenIx) : (barUntilTable s t).sync = s.sync := by
  unfold barUntilTable; split <;> rfl

@[simp] theorem barUntilTable_table (s : State) (t : TenIx) : (barUntilTable s t).slice.table = s.slice.table := by
  unfold barUntilTable; split <;> rfl

/-- No entry of the table in force runs a tenant that is barred from it (R38). -/
theorem entryRuns_barUntilTable {s : State} (h : s.slice.table ≠ []) (t : TenIx) : entryRuns (barUntilTable s t) t = false := by
  rw [barUntilTable, if_neg (by simpa using h)]
  simp [entryRuns, SliceSt.mask]

theorem entryRuns_setTable {s : State} (h : s.slice.table ≠ []) (table : List SliceEntry) (t : TenIx) :
    entryRuns (setTable s table) t = entryRuns s t := by
  simp only [entryRuns, setTable_slice_of_table h, SliceSt.mask]

theorem entryRuns_congr {s u : State} (h : u.slice = s.slice) (t : TenIx) : entryRuns u t = entryRuns s t := by
  rw [entryRuns, h]; rfl

/-- The state with other pans. -/
def withPans (s : State) (ps : Tab Pan) : State := { s with pans := ps }

@[simp] theorem withPans_ten (s : State) (ps : Tab Pan) : (withPans s ps).ten = s.ten := rfl
@[simp] theorem withPans_sync (s : State) (ps : Tab Pan) : (withPans s ps).sync = s.sync := rfl
@[simp] theorem withPans_slice (s : State) (ps : Tab Pan) : (withPans s ps).slice = s.slice := rfl

/-- Changing pans one after another changes the pans alone. -/
theorem foldl_modPan_eq {α : Type} (p : α → PanIx) (f : State → α → Pan → Pan) (l : List α) (s : State) :
    ∃ ps, l.foldl (fun r a => modPan r (p a) (f r a)) s = withPans s ps :=
  foldl_inv (fun r => ∃ ps, r = withPans s ps) _ (fun _ _ h => by obtain ⟨_, rfl⟩ := h; exact ⟨_, rfl⟩) l s ⟨_, rfl⟩

theorem bindPans_eq (s : State) (t : TenIx) : ∃ ps, bindPans s t = withPans s ps := by
  obtain ⟨bound, hbound⟩ := foldl_modPan_eq (fun lp : Fin 32 × PanIx => lp.2)
    (fun r lp x => (x.bindTo t lp.1 (tenOf s t) (quadOfPan lp.2)).putKept (savedOf r t lp.1)) (tenOf s t).lpans s
  obtain ⟨ps, hps⟩ := foldl_modPan_eq (fun p : PanIx => p) _ (List.finRange 36) (withPans s bound)
  exact ⟨ps, by rw [bindPans, hbound, refreshSpares]; exact hps⟩

@[simp] theorem freshSaved_pans (s : State) (t : TenIx) : (freshSaved s t).pans = s.pans := rfl
@[simp] theorem freshSaved_table (s : State) (t : TenIx) : (freshSaved s t).slice.table = s.slice.table := rfl

/-! ### What a load leaves -/

/-- Tenant `x` stands in its place, with its save areas fresh, and owns its tallies and gates (R35, R299). -/
def ownedState (q : State) (req : ImageReq) (b : Binding) (table : List SliceEntry) (x : Tenant) : State :=
  let owner : BitVec 5 := BitVec.ofNat 5 b.tenant.val
  ownGates (ownTallies (markSliced (setTen (freshSaved q b.tenant) b.tenant x) table) b.tlyBase req.tallies owner)
    b.gateBase owner req.gates

/-- The loaded tenant waits for its slice table, and the channel has counted the image's bytes (R38, R187). -/
def enteredState (q : State) (c : SchIx) (req : ImageReq) (b : Binding) (table : List SliceEntry) (x : Tenant) : State :=
  countSch (setTable (barUntilTable (ownedState q req b table x) b.tenant) table) c ((req.inits.map fun x => x.bytes.length).sum)

/-- What a load that fits makes of the state `q` in which the image's bytes lie in the partitions: its pans are bound where they
are free. -/
def loadedState (q : State) (c : SchIx) (req : ImageReq) (b : Binding) (table : List SliceEntry) (x : Tenant) : State :=
  let r := enteredState q c req b table x
  if b.pans.all fun p => (panOf r p).tenant.isNone then bindPans r b.tenant else r

section Bind

variable {s : State} {c : SchIx} {slot : MbxIx} {region : Half} {i : ImageRead} {req : ImageReq} {b : Binding}
  {table : List SliceEntry} {elig : List Nat} {need : Need} {budget : Nat}

theorem bindImage_of_inits (hbind : bindSound (markSliced s table) req b need = true)
    (htable : tableSound (setTen (freshSaved (markSliced s table) b.tenant) b.tenant
      (loadedTenant i req b elig need budget (slicedIn table b.tenant))) table = true)
    (hinits : (putInits (markSliced s table) b req.inits).2 = none) :
    bindImage s c slot region i req b table elig need budget =
      some (endBackground (loadedState (putInits (markSliced s table) b req.inits).1 c req b table
        (loadedTenant i req b elig need budget (slicedIn table b.tenant))) slot 0 [BitVec.ofNat 8 b.tenant.val]) := by
  simp only [bindImage, hbind, htable, hinits]
  rfl

theorem bindImage_of_halt (hbind : bindSound (markSliced s table) req b need = true)
    (htable : tableSound (setTen (freshSaved (markSliced s table) b.tenant) b.tenant
      (loadedTenant i req b elig need budget (slicedIn table b.tenant))) table = true)
    {x : Half × Nat} (hinits : (putInits (markSliced s table) b req.inits).2 = some x) :
    bindImage s c slot region i req b table elig need budget =
      some (haltSch (putInits (markSliced s table) b req.inits).1 c (loadReq slot b.tenant region) x.1 x.2) := by
  simp only [bindImage, hbind, htable, hinits]
  rfl

end Bind

section Loaded

variable (q : State) (c : SchIx) (req : ImageReq) (b : Binding) (table : List SliceEntry) (x : Tenant)

theorem loadedState_eq : ∃ ps, loadedState q c req b table x = withPans (enteredState q c req b table x) ps := by
  unfold loadedState
  dsimp only
  split
  · exact bindPans_eq _ _
  · exact ⟨_, rfl⟩

theorem loadedState_tenOf (t : TenIx) : tenOf (loadedState q c req b table x) t =
    tenOf (markSliced (setTen (freshSaved q b.tenant) b.tenant x) table) t := by
  obtain ⟨ps, h⟩ := loadedState_eq q c req b table x
  rw [h]
  simp only [tenOf, withPans_ten, enteredState, countSch, modSch_ten, setTable_ten, barUntilTable_ten, ownedState, ownGates_ten,
    ownTallies_ten]

variable {q c req b table x}

/-- The tenant of a load is as the image describes it, up to its sliced mark. -/
theorem loadedState_tenant {β : Type} (g : Tenant → β) (hg : ∀ x m, g { x with sliced := m } = g x) :
    g (tenOf (loadedState q c req b table x) b.tenant) = g x := by
  rw [loadedState_tenOf]
  exact (markSliced_keeps g hg _ table b.tenant).trans (by rw [tenOf_setTen, if_pos rfl])

theorem loadedState_other {t : TenIx} (ht : t ≠ b.tenant) :
    (tenOf (loadedState q c req b table x) t).state = (tenOf q t).state := by
  rw [loadedState_tenOf]
  refine (markSliced_keeps Tenant.state (fun _ _ => rfl) _ table t).trans ?_
  rw [tenOf_setTen, if_neg ht]
  rfl

/-- The tallies of a range that a load takes belong to its tenant and hold 0 (R299). -/
theorem loadedState_tally {i : Nat} (hi : i < req.tallies) :
    tabGet Tally.reset (loadedState q c req b table x).sync.tallies (b.tlyBase + i) =
      { value := 0, owner := BitVec.ofNat 5 b.tenant.val, hand := false } := by
  obtain ⟨ps, h⟩ := loadedState_eq q c req b table x
  rw [h]
  simp only [withPans_sync, enteredState, countSch, modSch_sync, setTable_sync, barUntilTable_sync, ownedState, ownGates_tallies,
    ownTallies_tallies, tabGet_tabSetList]
  simp [hi]

theorem ownedState_table : (ownedState q req b table x).slice.table = q.slice.table := by
  have hmarked := slice_of_tenancy (tenancy_markSliced (setTen (freshSaved q b.tenant) b.tenant x) table)
  rw [ownedState, ownGates_slice, ownTallies_slice, hmarked, setTen_slice, freshSaved_table]

theorem loadedState_slice : (loadedState q c req b table x).slice =
    (setTable (barUntilTable (ownedState q req b table x) b.tenant) table).slice := by
  obtain ⟨ps, hps⟩ := loadedState_eq q c req b table x
  rw [hps, withPans_slice, enteredState, countSch, modSch_slice]

/-- A load while a table is in force bars its tenant from that table, and its own table waits (R38). -/
theorem loadedState_waits (h : q.slice.table ≠ []) : entryRuns (loadedState q c req b table x) b.tenant = false ∧
    (loadedState q c req b table x).slice.next = some table := by
  have howned : (ownedState q req b table x).slice.table ≠ [] := by rwa [ownedState_table]
  have hbarred : (barUntilTable (ownedState q req b table x) b.tenant).slice.table ≠ [] := by rwa [barUntilTable_table]
  refine ⟨?_, ?_⟩
  · rw [entryRuns_congr loadedState_slice, entryRuns_setTable hbarred, entryRuns_barUntilTable howned]
  · rw [loadedState_slice, setTable_slice_of_table hbarred]

end Loaded

section Unload

/-! ### What an unload leaves -/

variable (s : State) (t : TenIx)

/-- A fold settles at one of its elements what the steps behind keep, where the steps before keep what the settling needs. -/
theorem foldl_settles {α : Type} {P Q : State → Prop} {f : State → α → State} {a : α} (hsettle : ∀ r, Q r → P (f r a))
    (hP : ∀ r b, P r → P (f r b)) (hQ : ∀ r b, Q r → Q (f r b)) {l : List α} (ha : a ∈ l) {s : State} (hs : Q s) :
    P (l.foldl f s) := by
  obtain ⟨before, behind, rfl⟩ := List.append_of_mem ha
  rw [List.foldl_append, List.foldl_cons]
  exact foldl_inv P f hP _ _ (hsettle _ (foldl_inv Q f hQ _ _ hs))

/-- Pan `p` is given up in `r` where it serves `t` in `s`, and what its logical pan keeps is saved (R38). -/
def unbindPan (s : State) (t : TenIx) (r : State) (p : PanIx) : State :=
  match (panOf s p).tenant, (panOf s p).lpan with
  | some u, some l =>
    if u = t then
      modPan { r with slice := { r.slice with saved := tabSet SavedPan.none r.slice.saved (32 * t.val + l.val) (panOf s p).kept } } p
        Pan.unbind
    else r
  | _, _ => r

theorem unbindPans_eq : unbindPans s t = refreshSpares ((List.finRange 36).foldl (unbindPan s t) s) := rfl

theorem unbindPan_tenant (r : State) (a p : PanIx) : (panOf (unbindPan s t r a) p).tenant = (panOf r p).tenant ∨
    (panOf (unbindPan s t r a) p).tenant = none := by
  unfold unbindPan
  split
  · split
    · rw [panOf_modPan]
      split
      · exact .inr rfl
      · exact .inl rfl
    · exact .inl rfl
  · exact .inl rfl

theorem unbindPan_of_serves (r : State) {p : PanIx} (hten : (panOf s p).tenant = some t) (hlpan : (panOf s p).lpan ≠ none) :
    (panOf (unbindPan s t r p) p).tenant = none := by
  obtain ⟨l, hl⟩ := Option.ne_none_iff_exists'.1 hlpan
  simp only [unbindPan, hten, hl, if_true, panOf_modPan]
  rfl

/-- No pan serves a tenant whose pans are unbound (R38). -/
theorem unbindPans_tenant (hlpan : ∀ p, (panOf s p).tenant = some t → (panOf s p).lpan ≠ none) (p : PanIx) :
    (panOf (unbindPans s t) p).tenant ≠ some t := by
  rw [unbindPans_eq, tenant_of_tenancy (tenancy_refreshSpares _)]
  refine foldl_settles (P := fun r => (panOf r p).tenant ≠ some t)
    (Q := fun r => (panOf r p).tenant = (panOf s p).tenant ∨ (panOf r p).tenant = none) (fun r hr => ?settle)
    (fun r a hr => ?settled) (fun r a hr => ?kept) (List.mem_finRange p) (.inl rfl)
  case settle =>
    by_cases hten : (panOf s p).tenant = some t
    · simp [unbindPan_of_serves s t r hten (hlpan p hten)]
    · rcases unbindPan_tenant s t r p p with h | h <;> rcases hr with h' | h' <;> simp [h, h', hten]
  case settled => rcases unbindPan_tenant s t r a p with h | h <;> simp [h, hr]
  case kept => exact (unbindPan_tenant s t r a p).elim (fun h => by rwa [h]) .inr

theorem refreshStoreHi_eq (s : State) : ∃ f, refreshStoreHi s = modHost s f ∨ refreshStoreHi s = sendMsix (modHost s f) 18 := by
  unfold refreshStoreHi
  generalize decide (3 * replaySize < 4 * replayUsed s) = hi
  refine ⟨fun h => { h with storeHi := hi }, ?_⟩
  dsimp only
  split
  · exact .inr rfl
  · exact .inl rfl

@[simp] theorem refreshStoreHi_ten (s : State) : (refreshStoreHi s).ten = s.ten := by
  obtain ⟨f, h | h⟩ := refreshStoreHi_eq s <;> simp [h]

@[simp] theorem refreshStoreHi_pans (s : State) : (refreshStoreHi s).pans = s.pans := by
  obtain ⟨f, h | h⟩ := refreshStoreHi_eq s <;> simp [h]

theorem dropTenant_state : (tenOf (dropTenant s t) t).state = .empty := by
  unfold dropTenant
  extract_lets x s1 s2 s3 s4 sync s5
  clear_value s5
  rw [tenOf, refreshStoreHi_ten]
  show (tenOf (setTen _ t Tenant.reset) t).state = _
  rw [tenOf_setTen, if_pos rfl]
  rfl

theorem dropTenant_pans : (dropTenant s t).pans = (unbindPans s t).pans := by
  unfold dropTenant
  extract_lets x s1 s2 s3 s4 sync s5
  have hsync : s5.pans = s4.pans := by clear_value s4; rfl
  have hfreed : s4.pans = s3.pans := by clear_value s3; rfl
  have hrings : s3.pans = s2.pans := foldl_keeps State.pans _ (fun r n => by split <;> rfl) _ s2
  have hlanes : s2.pans = s1.pans := foldl_keeps State.pans _ (fun r n => by split <;> rfl) _ s1
  have hreset : ∀ r y, (refillReserve (setTen (loseMessages (revokeKeys r t) t) t Tenant.reset) y).pans = r.pans :=
    fun _ _ => rfl
  rw [refreshStoreHi_pans, hreset, hsync, hfreed, hrings, hlanes]
  exact freshSaved_pans (unbindPans s t) t

/-- What an unload leaves: an empty tenant, and no pan that serves it (R355). -/
theorem unloaded_tenant (table : List SliceEntry) :
    (tenOf (markSliced (setTable (retryDegraded (dropTenant s t)) table) table) t).state = .empty := by
  rw [state_of_tenancy (tenancy_markSliced _ table), tenOf_setTable, state_of_tenancy (tenancy_retryDegraded _), dropTenant_state]

theorem unloaded_pan (table : List SliceEntry) (hlpan : ∀ p, (panOf s p).tenant = some t → (panOf s p).lpan ≠ none) (p : PanIx) :
    (panOf (markSliced (setTable (retryDegraded (dropTenant s t)) table) table) p).tenant ≠ some t := by
  rw [tenant_of_tenancy (tenancy_markSliced _ table), panOf_setTable, tenant_of_tenancy (tenancy_retryDegraded _), panOf,
    dropTenant_pans]
  exact unbindPans_tenant s t hlpan p

end Unload

section Start

/-! ### What START leaves (R13, R367, R406, R473) -/

/-- Tenant `x` set going in gear `g`: its grid begins at the next multiple of 800 ticks, and it runs where its entry does. -/
def startedTenant (s : State) (t : TenIx) (g : Gear) (x : Tenant) : Tenant :=
  { x with state := if entryRuns s t && !s.slice.turnover then .running else .slicedOut, gear := g.gear, nextGear := g.gear,
           commitGear := g.gear,
           quiesceHost := s.host.attach == .quiescing || s.host.attach == .quiesced,
           quiesceThermal := s.gov.critical, hot := x.hot || (tenantStacks s t).any (stackHot s),
           anchor := BitVec.ofNat 64 ((s.tick.toNat / 800 + 1) * 800), tide := 0, idle := 0,
           begun := false, inTide := false, shift := !clocksSettled s t }

/-- A tenant started while its entry does not run and something quiesces it is quiesced where it stands. -/
def quiescedAtStart (s : State) (t : TenIx) (g : Gear) : Bool :=
  let x := startedTenant s t g (tenOf s t)
  x.state == .slicedOut && !(s.slice.turnover && entryRuns s t) && x.quiesceDue

def startedState (s : State) (t : TenIx) (g : Gear) : State :=
  let r := modTen s t (startedTenant s t g)
  if quiescedAtStart s t g then quiesceTenant r t else r

theorem tenOf_startedState_other (s : State) {t q : TenIx} (g : Gear) (hq : q ≠ t) : tenOf (startedState s t g) q = tenOf s q := by
  unfold startedState quiesceTenant
  split <;> simp [hq]

/-- What a quiesce changes in a started tenant is its state alone: its gears are the starting gear already. -/
theorem tenOf_startedState (s : State) (t : TenIx) (g : Gear) : tenOf (startedState s t g) t =
    if quiescedAtStart s t g then { startedTenant s t g (tenOf s t) with state := .quiesced }
    else startedTenant s t g (tenOf s t) := by
  unfold startedState quiesceTenant
  split <;> simp [startedTenant]

theorem startedState_mem (s : State) (t : TenIx) (g : Gear) : (startedState s t g).mem = s.mem := by
  unfold startedState quiesceTenant
  split <;> simp

theorem startedTenant_state (s : State) (t : TenIx) (g : Gear) (x : Tenant) : (startedTenant s t g x).state =
    if entryRuns s t = true ∧ s.slice.turnover = false then .running else .slicedOut := by
  simp [startedTenant]

theorem quiescedAtStart_iff (s : State) (t : TenIx) (g : Gear) : quiescedAtStart s t g = true ↔
    ¬(entryRuns s t = true ∧ s.slice.turnover = false) ∧ (s.slice.turnover = false ∨ entryRuns s t = false) ∧
      (s.host.attach = .quiescing ∨ s.host.attach = .quiesced ∨ s.gov.critical = true ∨ (tenOf s t).quiesceFence = true) := by
  have hdue : (startedTenant s t g (tenOf s t)).quiesceDue = true ↔ s.host.attach = .quiescing ∨ s.host.attach = .quiesced ∨
      s.gov.critical = true ∨ (tenOf s t).quiesceFence = true := by
    simp [startedTenant, Tenant.quiesceDue, or_assoc]
  simp only [quiescedAtStart, Bool.and_eq_true, hdue, startedTenant_state]
  simp [and_assoc]

theorem startedState_state (s : State) (t : TenIx) (g : Gear) : (tenOf (startedState s t g) t).state =
    if entryRuns s t = true ∧ s.slice.turnover = false then .running
    else if (s.slice.turnover = false ∨ entryRuns s t = false) ∧ (s.host.attach = .quiescing ∨ s.host.attach = .quiesced ∨
      s.gov.critical = true ∨ (tenOf s t).quiesceFence = true) then .quiesced else .slicedOut := by
  rw [tenOf_startedState, apply_ite Tenant.state, startedTenant_state]
  by_cases hruns : entryRuns s t = true ∧ s.slice.turnover = false
  · rw [if_neg (fun h => ((quiescedAtStart_iff s t g).1 h).1 hruns), if_pos hruns, if_pos hruns]
  · rw [if_neg hruns, if_neg hruns]
    exact if_congr ((quiescedAtStart_iff s t g).trans (and_iff_right hruns)) rfl rfl

variable {s : State} {slot : MbxIx} {img : List Byte} {t : TenIx}

/-- START of a loaded tenant whose starting gear runs at the clocks in use (R13, R355, R473). -/
theorem exec_start_of_loaded (hh : Holds s slot 0x05 img) (ht : fieldAt img 0x10 1 = t.val) {g : Gear}
    (hloaded : (tenOf s t).state = .loaded) (hbound : ((tenOf s t).streams.all fun x => x.ring.isSome) = true)
    (hrole : s.mir.role ≠ .fenced) (hgear : startGear s t = some (g, false)) :
    exec (.start slot) s = .next (respond (startedState s t g) slot 0 []) := by
  have hstreams : ((tenOf s t).streams.any fun x => x.ring.isNone) = false := by
    simpa [Option.isSome_iff_ne_none] using hbound
  have hexec : exec (.start slot) s = execStart slot s := rfl
  have hset : tenOf (modTen s t (startedTenant s t g)) t = startedTenant s t g (tenOf s t) := by simp
  rw [hexec, execStart, runMailbox_of_holds hh]
  simp only [ht, t.isLt, dif_pos, Fin.eta, hloaded, hstreams, beq_eq_false_iff_ne.2 hrole, hgear, bne_self_eq_false, Bool.or_false,
    Bool.false_and, Bool.false_eq_true, if_false]
  rw [startedState, quiescedAtStart, ← hset]
  rfl

end Start

/-- Reading an image, and a fill that was due, leave the tenants and their slices as they were. -/
theorem tenancy_of_imageRead {s s0 s1 : State} {rd : RegionRead}
    (hread : (if rd.host then usedFree (readLines (noteUnits s 0x40 rd.units none) rd.lines) (rd.bytes.length + 1)
      else noteUnits s 0x40 rd.units none) = s0)
    (hfill : (if s0.rst.fillDue then fillDram s0 else s0) = s1) : tenancy s1 = tenancy s := by
  have hs0 : tenancy s0 = tenancy s := by
    rw [← hread]
    split <;> simp
  rw [← hfill, ← hs0]
  split <;> simp

/-- Settles O38: LOAD_IMAGE by the steps of its reading, validation, fitting and binding; UNLOAD by what `dropTenant` leaves; START by
the started tenant and what quiesces it; SET_WEIGHT by its range. -/
theorem tenantCommands : Obligations.TenantCommands := by
  unfold Obligations.TenantCommands
  intro s slot img t req b table v c _
  have hload : exec (.loadImage slot req b table) s = execLoadImage slot req b table s := rfl
  have hunload : exec (.unload slot table) s = execUnload slot table s := rfl
  have hstart : exec (.start slot) s = execStart slot s := rfl
  have hweight : exec (.setWeight slot table) s = execSetWeight slot table s := rfl
  refine ⟨?notReady, ?load, ?unload, ?start, ?weight⟩
  case notReady =>
    intro hh hready
    rw [hload, execLoadImage, runMailbox_of_holds hh]
    rcases hready with h | h <;> simp [h]
  case load =>
    intro hh hfilled hchan
    rw [hload, execLoadImage, runMailbox_of_holds hh]
    simp only [hfilled, hchan, if_true]
    refine ⟨fun hview => by simp only [hview], fun hview h rd hhead hbody => ?_⟩
    simp only [hview, readStaged, hhead, hbody]
    refine ⟨fun hblocked => by simp only [hblocked, if_true], fun s0 s1 hread hfill hfree => ?_⟩
    simp only [hfree, hread, hfill, Bool.false_eq_true, if_false]
    refine ⟨fun hhost hfails => by simp only [hhost, hfails, Bool.not_false, Bool.and_self, if_true], fun hhost hbad => ?_,
      fun hhost hgood hhgood => ?_⟩
    all_goals have hanswers : (rd.host && !hostReads s0) = false := by rcases hhost with h | h <;> simp [h]
    · have hunread : (rd.bad || h.bad) = true := by simpa using hbad
      simp only [hanswers, hunread, Bool.false_eq_true, if_false, if_true]
    simp only [hanswers, hgood, hhgood, Bool.or_self, Bool.false_eq_true, if_false]
    refine ⟨fun code hcode => by simp only [hcode], fun hvalid => ?_⟩
    simp only [hvalid]
    refine ⟨fun code d hcode => by simp only [hcode], fun hstreams => ?_⟩
    simp only [hstreams]
    refine ⟨fun n hshort => by simp only [hshort], fun elig need budget hfit hbind _ hsound => ?_⟩
    simp only [hfit]
    refine ⟨fun x hhalt => by rw [bindImage_of_halt hbind hsound hhalt]; rfl, fun hinits => ?_⟩
    rw [bindImage_of_inits hbind hsound hinits]
    have hput : tenancy (putInits (markSliced s1 table) b req.inits).1 = tenancy s1 := by simp
    have hslice : s1.slice = s.slice := slice_of_tenancy (tenancy_of_imageRead hread hfill)
    refine ⟨_, rfl, loadedState_tenant Tenant.state fun _ _ => rfl,
      loadedState_tenant Tenant.bind fun _ _ => rfl, loadedState_tenant Tenant.budget fun _ _ => rfl,
      fun _ => loadedState_tally, fun htable => loadedState_waits ?_, fun q hq => ?_⟩
    · rwa [slice_of_tenancy hput, hslice]
    · rw [loadedState_other hq, state_of_tenancy hput]
  case unload =>
    intro hh ht
    rw [hunload, execUnload, runMailbox_of_holds hh]
    simp only [ht, t.isLt, dif_pos, Fin.eta, Tenant.live]
    refine ⟨fun hempty => by simp [hempty], fun hlive hopen => by simp [hlive, hopen], fun hlive hclosed hsound hlpan => ?_⟩
    refine ⟨markSliced (setTable (retryDegraded (dropTenant s t)) table) table, by simp [hlive, hclosed, hsound],
      unloaded_tenant s t table, unloaded_pan s t table hlpan⟩
  case start =>
    intro hh ht
    refine ⟨fun hstate => ?_, fun g hloaded hbound hrole hgear => ?_⟩
    · rw [hstart, execStart, runMailbox_of_holds hh]
      simp [ht, hstate]
    · refine ⟨startedState s t g, exec_start_of_loaded hh ht hloaded hbound hrole hgear, ?_, ?_, ?_, ?_, ?_,
        startedState_state s t g, startedState_mem s t g, fun q => tenOf_startedState_other s g⟩
      all_goals
        rw [tenOf_startedState]
        split <;> rfl
  case weight =>
    intro hh ht
    rw [hweight, execSetWeight, runMailbox_of_holds hh]
    simp only [ht, t.isLt, dif_pos, Fin.eta, Tenant.live]
    refine ⟨fun hrange => by rw [if_pos (.inr hrange)], fun hlive hlow hhigh hsound htable => ?_⟩
    have hrange : ¬((!(tenOf s t).state != .empty) = true ∨ fieldAt img 0x12 2 = 0 ∨ 1000 < fieldAt img 0x12 2) := by
      rintro (h | h | h)
      · simp [hlive] at h
      · omega
      · omega
    refine ⟨_, by rw [if_neg hrange, hsound]; rfl, ?_, ?_, ?_, ?_⟩
    · rw [tenOf_setTable, tenOf_modTen, if_pos rfl]
    · rw [setTable_slice_of_table (by rwa [modTen_slice]), modTen_slice]
    · rw [setTable_mem]; rfl
    · rw [setTable_pans]; rfl

end MailboxTenants

end Sys2Proof.Machine

/-! ## O22: the pan copy channel (R149, R150, R164, R166, R182) -/

namespace Sys2Proof.Machine

section PanCopies

variable {s : State} {p : PanIx} {t : TenIx} {l : Fin 32} {c : PanCopy}

/-- Only a primary card's copies go to its partner (R381). -/
theorem sendMirrored_of_not_primary (h : s.mir.role ≠ .primary) (t : TenIx) (ws : List (Half × Nat × List Byte)) :
    sendMirrored s t ws = s := by simp [sendMirrored, h]

@[simp] theorem sendSignal_sync (s : State) (g : Signal) :
    (sendSignal s g).sync = { s.sync with flight := s.sync.flight ++ [g] } := by unfold sendSignal; split <;> rfl

@[simp] theorem sendSignal_mem (s : State) (g : Signal) : (sendSignal s g).mem = s.mem := by
  unfold sendSignal; split <;> rfl

@[simp] theorem sendSignal_ten (s : State) (g : Signal) : (sendSignal s g).ten = s.ten := by
  unfold sendSignal; split <;> rfl

@[simp] theorem sendSignal_log (s : State) (g : Signal) : (sendSignal s g).log = s.log := by
  unfold sendSignal; split <;> rfl

/-- Words that are all clean hold no uncorrectable one. -/
theorem firstBad_clean {ws : List (Nat × Decoded)} (h : ∀ w ∈ ws, w.2.check = .clean) : firstBad ws = none := by
  have hfind : (ws.find? fun w => w.2.check == .uncorrectable) = none :=
    List.find?_eq_none.mpr fun w hw => by rw [h w hw]; decide
  rw [firstBad, hfind, Option.map_none]

section Complete

variable (hten : (panOf s p).tenant = some t) (hlpan : (panOf s p).lpan = some l) (hcur : (panOf s p).chan.cur = some c)
  (hstate : (panOf s p).chan.state ≠ .halted) (hrole : s.mir.role ≠ .primary)
include hten hcur hstate hrole

/-- A completed copy without a completion tally frees the channel (R164). -/
theorem exec_copyComplete_of_no_tally (hsig : c.sig = none) : exec (.copyComplete p) s = .next (freedChannel s p) := by
  have hmirror := sendMirrored_of_not_primary (s := freedChannel s p) hrole t (panOf s p).chan.mirrored
  change execCopyComplete p s = _
  unfold execCopyComplete
  simp only [hten, hcur, hsig, beq_iff_eq, hstate, if_false]
  exact congrArg Host.Outcome.next hmirror

include hlpan in
/-- A completed copy with a completion tally frees the channel and signals the tally (R164, R166). -/
theorem exec_copyComplete_of_tally {g : TlyIx} (hsig : c.sig = some g) :
    exec (.copyComplete p) s = .next (sendSignal (freedChannel s p) { tly := g, n := 1, src := .panCopy l t }) := by
  have hmirror := sendMirrored_of_not_primary (s := freedChannel s p) hrole t (panOf s p).chan.mirrored
  change execCopyComplete p s = _
  unfold execCopyComplete
  simp only [hten, hlpan, hcur, hsig, beq_iff_eq, hstate, if_false, Option.getD_some]
  exact congrArg (fun r => Host.Outcome.next (sendSignal r _)) hmirror

end Complete

/-! ### What a copy leaves that is refused as it would start, and one whose elements are moved -/

/-- `s` with the copy that the channel has taken refused: the channel idle with the code, the descriptor named in DESC_ERR, the
tenant to halt at its boundary tick (R150, R160). -/
def refusedCopy (s : State) (p : PanIx) (t : TenIx) (l : Fin 32) (c : PanCopy) (r : Refused) : State :=
  haltRefused (markRefused (modPan s p fun x => { x with chan :=
    { x.chan with cur := none, state := .idle, err := r.code, refused := some r.code } }) t r false l.val
      ((if r.role = 0 then c.gs else c.gd).toNat % 2 ^ 28 + (if r.comp then 64 else 0))) t l r.code

@[simp] theorem markRefused_mem (s : State) (t : TenIx) (r : Refused) (sys : Bool) (n a : Nat) :
    (markRefused s t r sys n a).mem = s.mem := rfl

theorem refusedCopy_mem (s : State) (p : PanIx) (t : TenIx) (l : Fin 32) (c : PanCopy) (r : Refused) :
    (refusedCopy s p t l c r).mem = s.mem := by
  rw [refusedCopy, haltRefused_mem, markRefused_mem, modPan_mem]

theorem chan_refusedCopy (s : State) (p : PanIx) (t : TenIx) (l : Fin 32) (c : PanCopy) (r : Refused) :
    (panOf (refusedCopy s p t l c r) p).chan =
      { (panOf s p).chan with cur := none, state := .idle, err := r.code, refused := some r.code } := by
  have hpans (u : State) (a : Nat) : panOf (haltRefused (markRefused u t r false l.val a) t l r.code) p = panOf u p := rfl
  rw [refusedCopy, hpans, panOf_modPan, if_pos rfl]

theorem tenOf_refusedCopy (s : State) (p : PanIx) (t : TenIx) (l : Fin 32) (c : PanCopy) (r : Refused) :
    tenOf (refusedCopy s p t l c r) t = { tenOf s t with
      haltUnit := if (tenOf s t).haltCode.isNone then some l else (tenOf s t).haltUnit,
      haltCode := some ((tenOf s t).haltCode.getD r.code) } := by
  rw [refusedCopy, haltRefused, tenOf_modTen, if_pos rfl]; rfl

theorem chan_takenCopy_queue (s : State) (p : PanIx) (c : PanCopy) (rest : List PanCopy) :
    (panOf (takenCopy s p c rest) p).chan.queue = rest := by
  rw [takenCopy, panOf_modPan, if_pos rfl]

/-- What an accepted copy leaves once its elements are moved: how its sides overlap, its bytes, and what it wrote to mirrored
regions (R153, R186). -/
def movedCopy (s : State) (p : PanIx) (t : TenIx) (l : Fin 32) (c : PanCopy) (rest : List PanCopy) (m : Mover) : State :=
  modPan m.s p fun x => { x with chan := { x.chan with
    ovlp := !squareTranspose (readJob s p c).1.src (readJob s p c).1.dst && (readJob s p c).1.src != (readJob s p c).1.dst &&
      planesOverlap (takenCopy s p c rest) { sys := false, tenant := some t, lpan := l, dst := false } (readJob s p c).1,
    tswap := squareTranspose (readJob s p c).1.src (readJob s p c).1.dst,
    bytesNow := x.chan.bytesNow + BitVec.ofNat 64 (m.bits / 8), mirrored := m.wrote } }

section Start

variable {rest : List PanCopy} (hten : (panOf s p).tenant = some t) (hlpan : (panOf s p).lpan = some l)
  (hcur : (panOf s p).chan.cur = none) (hqueue : (panOf s p).chan.queue = c :: rest)
include hten hcur hqueue

/-- A halted channel starts no copy (R182). -/
theorem exec_copyStart_of_halted (hstate : (panOf s p).chan.state = .halted) : exec (.copyStart p) s = .next s := by
  change execCopyStart p s = _
  unfold execCopyStart
  simp only [hten, hcur, hqueue, hstate, beq_self_eq_true, if_true]

/-! ### A copy whose descriptors are read clean -/

variable (hstate : (panOf s p).chan.state ≠ .halted)
  (hclean : ∀ w ∈ (readJob s p c).2.1 ++ (readJob s p c).2.2, w.2.check = .clean)
include hlpan hstate hclean

/-- A refused copy leaves the channel idle with its code, and marks its tenant (R149, R150, R160). -/
theorem exec_copyStart_of_refused {r : Refused}
    (hrefuse : refuse (takenCopy s p c rest) false (some t) l (readJob s p c).1 { src := false, dst := false, list := false } =
      some r) : exec (.copyStart p) s = .next (refusedCopy (takenCopy s p c rest) p t l c r) := by
  have hnote := noteWords_clean (takenCopy s p c rest) 0x40 _ (some t) hclean
  have hbad := firstBad_clean hclean
  change execCopyStart p s = _
  rw [refusedCopy]
  rw [takenCopy] at *
  unfold execCopyStart
  simp only [hten, hlpan, hcur, hqueue, beq_iff_eq, hstate, if_false, hnote, hbad, hrefuse, Option.getD_some,
    Option.isSome_none, Bool.false_eq_true]

/-- An accepted copy that neither halts nor waits has moved its elements (R149, R153). -/
theorem exec_copyStart_of_accepted {m : Mover}
    (haccept : refuse (takenCopy s p c rest) false (some t) l (readJob s p c).1 { src := false, dst := false, list := false } =
      none)
    (hrun : (runCopy false l (readJob s p c).1 (Mover.start (takenCopy s p c rest) (some t) (.pan p))).1 = m)
    (hhalt : m.halt = none) (hblocked : m.blocked = false) :
    exec (.copyStart p) s = .next (movedCopy s p t l c rest m) := by
  have hnote := noteWords_clean (takenCopy s p c rest) 0x40 _ (some t) hclean
  have hbad := firstBad_clean hclean
  change execCopyStart p s = _
  rw [movedCopy]
  rw [takenCopy] at *
  unfold execCopyStart
  simp only [hten, hlpan, hcur, hqueue, beq_iff_eq, hstate, if_false, hnote, hbad, haccept, Option.getD_some,
    Option.isSome_none, Bool.false_eq_true, hrun, hhalt, hblocked]

end Start

/-- Settles O22: each clause by the lemma that says what COPY_START or COPY_COMPLETE answers in its case; what a refusal leaves of
the channel and the tenant is read off `refusedCopy`. -/
theorem panCopies : Obligations.PanCopies := by
  unfold Obligations.PanCopies
  intro s p t l c rest g hten hlpan
  refine ⟨fun hcur hsig hstate hrole => ?_, fun hcur hsig hstate hrole => ?_, fun hcur hqueue hstate => ?_,
    fun hcur hqueue hstate hclean => ⟨fun r hrefuse => ?_, fun m haccept hrun hhalt hblocked => ?_⟩⟩
  · refine ⟨_, exec_copyComplete_of_tally hten hlpan hcur hstate hrole hsig, rfl, ?_, ?_, ?_, ?_⟩
    · exact sendSignal_sync _ _
    · exact sendSignal_mem _ _
    · exact sendSignal_ten _ _
    · exact sendSignal_log _ _
  · exact exec_copyComplete_of_no_tally hten hcur hstate hrole hsig
  · exact exec_copyStart_of_halted hten hcur hqueue hstate
  · have hcopy := exec_copyStart_of_refused hten hlpan hcur hqueue hstate hclean hrefuse
    have hchan := chan_refusedCopy (takenCopy s p c rest) p t l c r
    have htenant := tenOf_refusedCopy (takenCopy s p c rest) p t l c r
    have hstill : tenOf (takenCopy s p c rest) t = tenOf s t := rfl
    rw [hstill] at htenant
    refine ⟨_, hcopy, refusedCopy_mem _ _ _ _ _ _, ?_, ?_, ?_, ?_, fun hnone => ?_⟩
    · rw [hchan]
    · rw [hchan]
    · rw [hchan, chan_takenCopy_queue]
    · rw [htenant]
    · rw [htenant, hnone]; rfl
  · exact exec_copyStart_of_accepted hten hlpan hcur hqueue hstate hclean haccept hrun hhalt hblocked

end PanCopies
end Sys2Proof.Machine

/-! ## O28: system copy channels (R149, R150, R157, R161, R168, R183, R187, R213, R337) -/

namespace Sys2Proof.Machine

section SystemChannels

variable {s : State} {n : SchIx} {r : SysReq}

theorem schOf_congr {u : State} (h : u.sch = s.sch) (m : SchIx) : schOf u m = schOf s m := by rw [schOf, h, schOf]

theorem modSch_congr {f g : SysChan → SysChan} (h : f (schOf s n) = g (schOf s n)) : modSch s n f = modSch s n g := by
  simp only [modSch, tabModify]
  rw [show f (tabGet SysChan.reset s.sch n.val) = g (tabGet SysChan.reset s.sch n.val) from h]

/-! ### Requests join and leave the queue (R161, R325, R337) -/

/-- The queues of the channels' requests wake their consumer (R325). -/
theorem queueNotice_reqQueue (n : SchIx) : queueNotice (20 + n.val) = .wake (20 + n.val) := by
  have h36 : 20 + n.val ≠ 36 := by omega
  have h37 : 20 + n.val ≠ 37 := by omega
  rw [queueNotice, if_neg h36, if_neg h37]

theorem exec_sysRequest_of_room (hpend : (schOf s n).pending < 16) (hroom : (queueOf s (20 + n.val)).full 16 = false) :
    exec (.sysRequest n r) s = .next (emit (queueWrite (modSch s n fun c => { c with queue := c.queue ++ [r] }) (20 + n.val)
      [reqWords r] (if r.parityBad then some 0 else none)) [.wake (20 + n.val)]) := by
  have hfull : ¬ (16 ≤ (schOf s n).pending ∨ (queueOf s (reqQueue n)).full 16 = true) := by
    rw [reqQueue, hroom]; simpa using hpend
  change execSysRequest n r s = _
  rw [execSysRequest, if_neg hfull, queueSend, reqQueue, queueNotice_reqQueue]

theorem exec_sysRequest_of_full (hfull : 16 ≤ (schOf s n).pending ∨ (queueOf s (20 + n.val)).full 16 = true) :
    exec (.sysRequest n r) s = .next s := by
  change execSysRequest n r s = _
  rw [execSysRequest, if_pos (show _ ∨ (queueOf s (reqQueue n)).full 16 = true from hfull)]

/-- `s` once channel `n` has taken request `r` from the head of its queue, `rest` staying behind (R168). -/
def takenRequest (s : State) (n : SchIx) (r : SysReq) (rest : List SysReq) : State :=
  queueTake (modSch s n fun c => { c with queue := rest, cur := some r, done := none, state := .active, mirrored := [] })
    (20 + n.val) 1

theorem schOf_takenRequest (s : State) (n : SchIx) (r : SysReq) (rest : List SysReq) : schOf (takenRequest s n r rest) n =
    { schOf s n with queue := rest, cur := some r, done := none, state := .active, mirrored := [] } := by
  rw [takenRequest, schOf_congr (queueTake_sch _ _ _), schOf_modSch, if_pos rfl]

/-! ### The end of a request (R168) -/

theorem schOf_endRequest (s : State) (n : SchIx) (code : Byte) : schOf (endRequest s n code) n =
    { schOf s n with done := some code, err := if code = 0 then (schOf s n).err else code } := by
  rw [endRequest, schOf_modSch, if_pos rfl]

/-- A poisoned word's note changes no channel. -/
theorem notePoison_sch (s : State) (i e : Nat) (b : Bool) : (notePoison s i e b).sch = s.sch := by
  unfold notePoison; split <;> rfl

theorem notePoison_mem (s : State) (i e : Nat) (b : Bool) : (notePoison s i e b).mem = s.mem := by
  unfold notePoison; split <;> rfl

/-- `s` with a refused request's descriptor named in its tenant's DESC_ERR, and the refusal logged (R150, R160). -/
def notedRefusal (s : State) (n : SchIx) (r : SysReq) (x : Refused) : State :=
  logEvent (match r.tenant with | some t => markRefused s t x true n.val (refusedAddr r x) | none => s) x.code [schByte n] r.tenant

theorem notedRefusal_sch (s : State) (n : SchIx) (r : SysReq) (x : Refused) : (notedRefusal s n r x).sch = s.sch := by
  unfold notedRefusal; split <;> rfl

theorem notedRefusal_mem (s : State) (n : SchIx) (r : SysReq) (x : Refused) : (notedRefusal s n r x).mem = s.mem := by
  unfold notedRefusal; split <;> rfl

/-! ### The start of a channel's oldest request -/

section Start

variable {rest : List SysReq}

/-- A channel that is halted, stopped, disabled or under self-test starts nothing (R168, R183, R187). -/
theorem exec_sysRequestStart_of_busy (hcur : (schOf s n).cur = none) (hqueue : (schOf s n).queue = r :: rest)
    (hbusy : (schOf s n).state = .halted ∨ (schOf s n).state = .stopped ∨ (schOf s n).enable = false ∨
      s.svc.test = some (.sch n)) : exec (.sysRequestStart n) s = .next s := by
  have hguard : ((schOf s n).state == .halted || (schOf s n).state == .stopped || !(schOf s n).enable || testing s (.sch n)) =
      true := by simpa [testing, or_assoc] using hbusy
  change execSysRequestStart n s = _
  unfold execSysRequestStart
  simp only [hcur, hqueue, hguard, if_true]

/-- Channel `n` takes work, and `r` is its oldest request, with `rest` behind it (R168, R183, R187). -/
structure TakesRequest (s : State) (n : SchIx) (r : SysReq) (rest : List SysReq) : Prop where
  cur : (schOf s n).cur = none
  queue : (schOf s n).queue = r :: rest
  notHalted : (schOf s n).state ≠ .halted
  notStopped : (schOf s n).state ≠ .stopped
  enabled : (schOf s n).enable = true
  notTested : s.svc.test ≠ some (.sch n)

/-- The guard of SYS_REQUEST_START lets such a channel pass. -/
theorem TakesRequest.guard (h : TakesRequest s n r rest) : ((schOf s n).state == .halted || (schOf s n).state == .stopped ||
    !(schOf s n).enable || testing s (.sch n)) = false := by
  simp [h.notHalted, h.notStopped, h.enabled, testing, h.notTested]

/-- A request whose word failed parity ends with 0x90 (R330, R337). -/
theorem exec_sysRequestStart_of_poison (h : TakesRequest s n r rest) (hpoison : queuePoison s (20 + n.val) 1 ≠ []) :
    exec (.sysRequestStart n) s = .next (endRequest
      (notePoison (takenRequest s n r rest) (20 + n.val) (queueRead s (20 + n.val)) true) n 0x90) := by
  have hbad : (!(queuePoison s (20 + n.val) 1).isEmpty) = true := by simpa using hpoison
  change execSysRequestStart n s = _
  unfold execSysRequestStart
  simp only [h.cur, h.queue, h.guard, Bool.false_eq_true, if_false, reqQueue, hbad, if_true, takenRequest]

/-- While a unit in which the request's descriptors or list lie must be waited for, the request stays where it is (R213). -/
theorem exec_sysRequestStart_of_units_blocked (h : TakesRequest s n r rest) (hparity : queuePoison s (20 + n.val) 1 = [])
    (hunits : (readRequest (takenRequest s n r rest) r).units.any (unitBlocked (takenRequest s n r rest) (.sys n)) = true) :
    exec (.sysRequestStart n) s = .next (askUnits s (.sys n) (readRequest (takenRequest s n r rest) r).units) := by
  rw [takenRequest] at *
  change execSysRequestStart n s = _
  unfold execSysRequestStart
  simp only [h.cur, h.queue, h.guard, Bool.false_eq_true, if_false, reqQueue, hparity, List.isEmpty_nil, Bool.not_true, hunits,
    if_true]

/-- The request's word keeps its parity, and its descriptors and list are read at once from the card's own memory, without
findings (R148, R281, R364). -/
structure ReadsClean (s : State) (n : SchIx) (r : SysReq) (rest : List SysReq) : Prop where
  parity : queuePoison s (20 + n.val) 1 = []
  units : (readRequest (takenRequest s n r rest) r).units.any (unitBlocked (takenRequest s n r rest) (.sys n)) = false
  note : noteUnits (takenRequest s n r rest) 0x40 (readRequest (takenRequest s n r rest) r).units r.tenant =
    takenRequest s n r rest
  host : (readRequest (takenRequest s n r rest) r).host = false
  bad : (readRequest (takenRequest s n r rest) r).bad = none

/-- Descriptors and list that name no bytes of a region take no unit's read. -/
theorem ReadsClean.of_no_units (hparity : queuePoison s (20 + n.val) 1 = [])
    (hunits : (readRequest (takenRequest s n r rest) r).units = []) (hhost : (readRequest (takenRequest s n r rest) r).host = false)
    (hbad : (readRequest (takenRequest s n r rest) r).bad = none) : ReadsClean s n r rest where
  parity := hparity
  units := by rw [hunits, List.any_nil]
  note := by rw [hunits]; rfl
  host := hhost
  bad := hbad

/-- A refused request ends with its code, no element moved (R149, R150). -/
theorem exec_sysRequestStart_of_refused (h : TakesRequest s n r rest) (hread : ReadsClean s n r rest) {x : Refused}
    (hrefuse : refuse (takenRequest s n r rest) true r.tenant r.lpan (readRequest (takenRequest s n r rest) r).job
      (readRequest (takenRequest s n r rest) r).gone = some x) :
    exec (.sysRequestStart n) s = .next (endRequest (notedRefusal (takenRequest s n r rest) n r x) n x.code) := by
  obtain ⟨hparity, hunits, hnote, hhost, hbad⟩ := hread
  rw [notedRefusal]
  rw [takenRequest] at *
  change execSysRequestStart n s = _
  unfold execSysRequestStart
  simp only [h.cur, h.queue, h.guard, Bool.false_eq_true, if_false, reqQueue, hparity, List.isEmpty_nil, Bool.not_true, hunits,
    hnote, hhost, Bool.false_and, hbad, hrefuse] <;> rfl

section Accepted

variable {m : Mover} {oor drop : Nat} (h : TakesRequest s n r rest) (hread : ReadsClean s n r rest)
  (haccept : refuse (takenRequest s n r rest) true r.tenant r.lpan (readRequest (takenRequest s n r rest) r).job
    (readRequest (takenRequest s n r rest) r).gone = none)
  (hrun : runCopy true r.lpan (readRequest (takenRequest s n r rest) r).job
    (Mover.start (takenRequest s n r rest) r.tenant (.sys n)) = (m, oor, drop))
include h hread haccept hrun

/-- While an access of an accepted request must wait, the request stays where it is (R213). -/
theorem exec_sysRequestStart_of_move_blocked (hblocked : m.blocked = true) :
    exec (.sysRequestStart n) s = .next (m.wait s) := by
  obtain ⟨hparity, hunits, hnote, hhost, hbad⟩ := hread
  rw [takenRequest] at *
  change execSysRequestStart n s = _
  unfold execSysRequestStart
  simp only [h.cur, h.queue, h.guard, Bool.false_eq_true, if_false, reqQueue, hparity, List.isEmpty_nil, Bool.not_true, hunits,
    hnote, hhost, Bool.false_and, hbad, haccept, hrun, hblocked, if_true]

/-- An accepted request that neither halts nor waits, and whose host reads are answered, has moved its elements and ends with code
0 (R149, R153, R157, R168). -/
theorem exec_sysRequestStart_of_moved (hhalt : m.halt = none) (hfail : m.hostFail = false) (hblocked : m.blocked = false) :
    exec (.sysRequestStart n) s = .next (endRequest (modSch (countList m.s r.tenant oor drop) n fun c =>
      { c with bytes := c.bytes + BitVec.ofNat 64 (m.bits / 8), mirrored := m.wrote }) n 0) := by
  obtain ⟨hparity, hunits, hnote, hhost, hbad⟩ := hread
  rw [takenRequest] at *
  change execSysRequestStart n s = _
  unfold execSysRequestStart
  simp only [h.cur, h.queue, h.guard, Bool.false_eq_true, if_false, reqQueue, hparity, List.isEmpty_nil, Bool.not_true, hunits,
    hnote, hhost, Bool.false_and, hbad, haccept, hrun, hblocked, hhalt, hfail]

end Accepted
end Start

/-! ### Completion, RESTART and ENABLE (R168, R183, R187) -/

/-- A request that ended with code 0 signals its tally (R168). -/
theorem exec_sysRequestComplete_of_tally {t : TlyIx} (hcur : (schOf s n).cur = some r) (hdone : (schOf s n).done = some 0)
    (haction : r.action = .tally t) (hrole : s.mir.role ≠ .primary) :
    exec (.sysRequestComplete n) s = .next (resumeSch { s with
      sch := (modSch s n SysChan.rested).sch,
      sync := { s.sync with flight := s.sync.flight ++ [{ tly := t, n := 1, src := .sys n }] } } n) := by
  have hwritten : sendWritten (modSch s n SysChan.rested) n r (schOf s n).mirrored = modSch s n SysChan.rested := by
    unfold sendWritten
    split
    · rw [sendMirrored_of_not_primary (s := modSch s n SysChan.rested) hrole, ite_self]
    · rfl
  change execSysRequestComplete n s = _
  unfold execSysRequestComplete
  simp only [hcur, hdone, hwritten, haction]
  rfl

theorem resumeSch_of_ne (h : n.val ≠ 10) : resumeSch s n = s := if_neg h

theorem resumeSch_of_eq (h : n.val = 10) : resumeSch s n = sendStream s [] := if_pos h

/-- RESTART returns the request that a halted channel holds to its requester with ERR_COPY_UE (R183). -/
theorem exec_cpyRestart_of_halted (hstate : (schOf s n).state = .halted) (hcur : (schOf s n).cur = some r) :
    exec (.cpyRestart n) s = .next (resumeSch (completeAction (modSch s n SysChan.rested) n r.action 0x40) n) := by
  change Host.Outcome.next (restartSch s n) = _
  simp only [restartSch, hstate, hcur]

theorem exec_cpyRestart_of_not_halted (hstate : (schOf s n).state ≠ .halted) : exec (.cpyRestart n) s = .next s := by
  change Host.Outcome.next (restartSch s n) = _
  unfold restartSch
  split
  · next h _ => exact absurd h hstate
  · rfl

theorem exec_cpyEnable_of_locked (hlock : s.dbg.open_ = false) (e : Bool) : exec (.cpyEnable n e) s = .next (dropBar0 s) := by
  change Host.Outcome.next (debugWrite s fun s => enableSch s n e) = _
  rw [debugWrite, hlock, if_neg Bool.false_ne_true]

/-- With the debug range open, ENABLE starts or stops a channel that holds no request (R187). -/
theorem exec_cpyEnable_of_open (hopen : s.dbg.open_ = true) (e : Bool)
    (hstate : (schOf s n).state = .idle ∨ (schOf s n).state = .stopped) : exec (.cpyEnable n e) s =
      .next (resumeSch (modSch s n fun c => { c with enable := e, state := if e then .idle else .stopped }) n) := by
  change Host.Outcome.next (debugWrite s fun s => enableSch s n e) = _
  rw [debugWrite, if_pos hopen, enableSch]
  refine congrArg (fun u => Host.Outcome.next (resumeSch u n)) (modSch_congr ?_)
  rcases hstate with hidle | hstopped
  · rw [hidle]
  · rw [hstopped]

/-- Settles O28: each clause by the lemma that says what the command answers in its case, the poisoned and the refused request
through what their ends leave of the channel. -/
theorem systemChannels : Obligations.SystemChannels := by
  unfold Obligations.SystemChannels
  constructor
  · intro s n r rest t
    refine ⟨exec_sysRequest_of_room, exec_sysRequest_of_full, fun hcur hqueue => ⟨exec_sysRequestStart_of_busy hcur hqueue,
        fun hhalted hstopped henable htest => ⟨fun hpoison => ?_, fun hparity s1 x hs1 hunits hhost hbad hrefuse => ?_⟩⟩,
      exec_sysRequestComplete_of_tally, resumeSch_of_ne, resumeSch_of_eq,
      fun hstate hcur => ⟨fun haction => ?_, fun port qp haction => ?_⟩,
      fun hopen hidle => exec_cpyEnable_of_open hopen false (.inl hidle),
      fun hopen hstopped => exec_cpyEnable_of_open hopen true (.inr hstopped),
      exec_cpyRestart_of_not_halted, exec_cpyEnable_of_locked⟩
    · have htakes : TakesRequest s n r rest := ⟨hcur, hqueue, hhalted, hstopped, henable, htest⟩
      refine ⟨_, exec_sysRequestStart_of_poison htakes hpoison, ?_⟩
      rw [schOf_endRequest, schOf_congr (notePoison_sch _ _ _ _), schOf_takenRequest]
      exact ⟨rfl, rfl, rfl, rfl, notePoison_mem _ _ _ _⟩
    · have htakes : TakesRequest s n r rest := ⟨hcur, hqueue, hhalted, hstopped, henable, htest⟩
      subst hs1
      refine ⟨_, exec_sysRequestStart_of_refused htakes (.of_no_units hparity hunits hhost hbad) hrefuse, ?_⟩
      rw [schOf_endRequest, schOf_congr (notedRefusal_sch _ _ _ _), schOf_takenRequest]
      exact ⟨rfl, rfl, notedRefusal_mem _ _ _ _⟩
    · rw [exec_cpyRestart_of_halted hstate hcur, haction]; rfl
    · rw [exec_cpyRestart_of_halted hstate hcur, haction]; rfl
  · intro s s1 n r rest m oor drop hcur hqueue hhalted hstopped henable htest hparity hs1
    have htakes : TakesRequest s n r rest := ⟨hcur, hqueue, hhalted, hstopped, henable, htest⟩
    subst hs1
    refine ⟨exec_sysRequestStart_of_units_blocked htakes hparity, fun hunits hnote hhost hbad haccept hrun => ?_⟩
    have hread : ReadsClean s n r rest := ⟨hparity, hunits, hnote, hhost, hbad⟩
    exact ⟨exec_sysRequestStart_of_move_blocked htakes hread haccept hrun,
      exec_sysRequestStart_of_moved htakes hread haccept hrun⟩

end SystemChannels
end Sys2Proof.Machine

/-! ## O32: STAGE before the fill of R418 (R354, R355, R418) -/

namespace Sys2Proof.Machine

section StageBeforeFill

theorem endBackground_mem (s : State) (n : MbxIx) (status : Byte) (result : List Byte) :
    (endBackground s n status result).mem = s.mem := rfl

theorem setRegion_mem (s : State) (r : Half) (x : SysRegion) : (setRegion s r x).mem = s.mem := rfl

theorem clearPlace_mem (s : State) (pl : Place) :
    (clearPlace s pl).mem = s.mem.filter fun c => !placeHasWord s pl (c.1 / 16) := by
  unfold clearPlace
  extract_lets cleared
  exact foldl_keeps State.mem _ (fun r k => modStack_mem r k _) _ cleared

/-- STAGE with room for its region, at a number and a place that Rilef may give: while the fill of the DRAM is due, the place is
cleared first (R355, R418). -/
theorem exec_stage_of_free {s : State} {slot : MbxIx} {img : List Byte} {region : Half} {pl : Place}
    (hh : Holds s slot 0x02 img) (hpos : fieldAt img 0x10 8 ≠ 0) (hroom : fieldAt img 0x10 8 ≤ freeDram s)
    (hregion : regionFree s region = true) (hsound : placeSound s pl = true) (hfits : fieldAt img 0x10 8 ≤ placeBytes pl)
    (htenants : ∀ u ∈ liveTenants s, clearOf [pl] ((tenOf s u).regions.map fun r => r.place) = true)
    (hregions : ∀ kv ∈ s.host.regions, placesClash pl kv.2.place = false) :
    exec (.stage slot region pl) s = .next (endBackground (setRegion (if s.rst.fillDue then clearPlace s pl else s) region
      { limit := fieldAt img 0x10 8, place := pl }) slot 0 (leBytes 2 region.toNat)) := by
  have hrefused : ¬ (fieldAt img 0x10 8 = 0 ∨ freeDram s < fieldAt img 0x10 8) := by omega
  have hfree : (regionFree s region && placeSound s pl && decide (fieldAt img 0x10 8 ≤ placeBytes pl) &&
      ((liveTenants s).all fun t => clearOf [pl] ((tenOf s t).regions.map fun r => r.place)) &&
      s.host.regions.all fun kv => !placesClash pl kv.2.place) = true := by
    simp only [hregion, hsound, hfits, decide_true, Bool.and_true, Bool.true_and, Bool.and_eq_true, List.all_eq_true,
      Bool.not_eq_true']
    exact ⟨htenants, hregions⟩
  change execStage slot region pl s = _
  rw [execStage, runMailbox_of_holds hh]
  simp only [hrefused, if_false, hfree, Bool.not_true, Bool.false_eq_true]

/-- A STAGE command for 4 KiB. -/
def stageImage : List Byte := leBytes 8 2 ++ leBytes 8 0 ++ leBytes 8 4096

/-- The first 4 KiB of bank 0 of die 0 of stack 0. -/
def stagePlace : Place := .blocks 4096 [{ at_ := { stack := 0, die := 0, bank := 0 }, l0 := 0 }]

/-- Rilef runs, the fill of the DRAM is due, the first word of `stagePlace` holds a byte of an earlier run, and slot 0 holds
STAGE. -/
def beforeFill : State :=
  { State.reset with
    mem := [(16 * dramKey 0 0 0 0 0, 1)], rst := { RstSt.reset with coreHeld := false, fillDue := true },
    host := { HostSt.reset with pend := 1, accepted := [(0, { image := stageImage, result := none })] } }

theorem beforeFill_holds : Holds beforeFill 0 0x02 stageImage := by unfold Holds; decide +kernel

/-- The byte of the earlier run lies in the place, and the clearing takes it away. -/
theorem beforeFill_clears : (clearPlace beforeFill stagePlace).mem = [] := by
  have hword : placeHasWord beforeFill stagePlace (dramKey 0 0 0 0 0) = true := by decide +kernel
  have hmem : beforeFill.mem = [(16 * dramKey 0 0 0 0 0, 1)] := rfl
  simp [clearPlace_mem, hmem, hword]

/-- Refutes O32: a STAGE while the fill of R418 is due clears the place that it gives (log entry 207), while the statement has the
memory as before. In `beforeFill` a byte that lies there goes. -/
theorem not_mailboxLanesAndRegions : ¬ Obligations.MailboxLanesAndRegions := by
  unfold Obligations.MailboxLanesAndRegions
  intro h
  obtain ⟨-, -, hstage, -⟩ := h beforeFill 0 stageImage 0 0 0x8001 stagePlace
  have hpos : fieldAt stageImage 0x10 8 ≠ 0 := by decide +kernel
  have hroom : fieldAt stageImage 0x10 8 ≤ freeDram beforeFill := by decide +kernel
  have hregion : regionFree beforeFill 0x8001 = true := by decide +kernel
  have hsound : placeSound beforeFill stagePlace = true := by decide +kernel
  have hfits : fieldAt stageImage 0x10 8 ≤ placeBytes stagePlace := by decide +kernel
  have htenants : ∀ u ∈ liveTenants beforeFill,
      clearOf [stagePlace] ((tenOf beforeFill u).regions.map fun r => r.place) = true := by decide +kernel
  have hregions : ∀ kv ∈ beforeFill.host.regions, placesClash stagePlace kv.2.place = false := by decide +kernel
  have hstays := hstage beforeFill_holds hpos hroom hregion hsound hfits htenants hregions
  rw [exec_stage_of_free beforeFill_holds hpos hroom hregion hsound hfits htenants hregions] at hstays
  have hdue : beforeFill.rst.fillDue = true := rfl
  have hmem := congrArg State.mem (Host.Outcome.next.inj hstays)
  rw [hdue, if_pos rfl, endBackground_mem, endBackground_mem, setRegion_mem, beforeFill_clears] at hmem
  exact List.cons_ne_nil _ _ hmem.symm

end StageBeforeFill
end Sys2Proof.Machine

/-! ## O41: pond mode, the result row and the spare map (R195 to R198, R210, R211, R224, R225) -/

namespace Sys2Proof.Machine

section PondMode

variable (s : State)

/-! ### The bits of a pseudo-channel -/

theorem getLsbD_pcBit (q q' : PcIx) : (pcBit q).getLsbD q'.val = decide (q' = q) := by
  have hlt := q'.isLt
  simp only [pcBit, BitVec.getLsbD_shiftLeft, BitVec.getLsbD_one, Fin.ext_iff]
  by_cases h : q'.val = q.val
  · simp [h]
  · have : q'.val < q.val ∨ q'.val - q.val ≠ 0 := by omega
    rcases this with hl | hl <;> simp [h, hl]

theorem getLsbD_or_pcBit (w : Dword) (q q' : PcIx) : (w ||| pcBit q).getLsbD q'.val = (w.getLsbD q'.val || decide (q' = q)) := by
  rw [BitVec.getLsbD_or, getLsbD_pcBit]

theorem getLsbD_and_pcBit (w : Dword) (q q' : PcIx) : (w &&& pcBit q).getLsbD q'.val = (w.getLsbD q'.val && decide (q' = q)) := by
  rw [BitVec.getLsbD_and, getLsbD_pcBit]

theorem getLsbD_clear_pcBit (w : Dword) (q q' : PcIx) :
    (w &&& ~~~(pcBit q)).getLsbD q'.val = (w.getLsbD q'.val && !decide (q' = q)) := by
  rw [BitVec.getLsbD_and, BitVec.getLsbD_not, getLsbD_pcBit, decide_eq_true q'.isLt, Bool.true_and]

/-- POND after a change of its stack. -/
theorem pondOn_modStack (k : StackIx) (q : PcIx) (f : Stack → Stack) :
    pondOn (modStack s k f) k q = (f (stackOf s k)).pond.getLsbD q.val := by
  rw [pondOn, stackOf_modStack, if_pos rfl]

@[simp] theorem unitOf_modStack (k : StackIx) (f : Stack → Stack) (n : Nat) : unitOf (modStack s k f) n = unitOf s n := rfl

@[simp] theorem bankOf_modStack (k : StackIx) (f : Stack → Stack) (n : Nat) : bankOf (modStack s k f) n = bankOf s n := rfl

@[simp] theorem stackOf_modBank (n : Nat) (f : BankSt → BankSt) (k : StackIx) : stackOf (modBank s n f) k = stackOf s k := rfl

@[simp] theorem pondOn_modBank (n : Nat) (f : BankSt → BankSt) (k : StackIx) (q : PcIx) : pondOn (modBank s n f) k q = pondOn s k q := rfl

@[simp] theorem pondOn_sendTo (b : BankIx) (c : SentCmd) (k : StackIx) (q : PcIx) : pondOn (sendTo s b c) k q = pondOn s k q := by
  rw [pondOn, sendTo, noteSent, stackOf_modStack]
  split
  · next h => rw [pondOn, h]
  · rfl

/-! ### Closing rows (R196, R251) -/

theorem closeRow_of_closed {b : BankIx} (h : (bankOf s (bankKeyOf b)).openRow = none) : closeRow s b = s := by
  rw [closeRow, h]; rfl

theorem closeRow_of_open {b : BankIx} (h : (bankOf s (bankKeyOf b)).openRow ≠ none) :
    closeRow s b = prechargeBank (sendTo s b (.precharge b)) b := by
  rw [closeRow, if_neg (by simpa using h)]

@[simp] theorem closeRow_mem (b : BankIx) : (closeRow s b).mem = s.mem := by
  rw [closeRow]; split <;> rfl

@[simp] theorem closeRow_units (b : BankIx) : (closeRow s b).dram.units = s.dram.units := by
  rw [closeRow]; split <;> rfl

@[simp] theorem pondOn_closeRow (b : BankIx) (k : StackIx) (q : PcIx) : pondOn (closeRow s b) k q = pondOn s k q := by
  rw [closeRow]
  split
  · rfl
  · rw [prechargeBank, pondOn_modBank, pondOn_sendTo]

theorem closeRow_closes (b : BankIx) : (bankOf (closeRow s b) (bankKeyOf b)).openRow = none := by
  by_cases h : (bankOf s (bankKeyOf b)).openRow = none
  · rw [closeRow_of_closed s h, h]
  · rw [closeRow_of_open s h, prechargeBank, bankOf_modBank, if_pos rfl]

/-- A closed row stays closed, whichever bank's is closed next. -/
theorem closeRow_keeps_closed (a b : BankIx) (h : (bankOf s (bankKeyOf b)).openRow = none) :
    (bankOf (closeRow s a) (bankKeyOf b)).openRow = none := by
  by_cases ha : (bankOf s (bankKeyOf a)).openRow = none
  · rw [closeRow_of_closed s ha, h]
  · rw [closeRow_of_open s ha, prechargeBank, bankOf_modBank]
    split
    · rfl
    · exact h

theorem closeRows_close (l : List BankIx) {b : BankIx} (hb : b ∈ l) :
    (bankOf (l.foldl closeRow s) (bankKeyOf b)).openRow = none :=
  foldl_settles (P := fun r => (bankOf r (bankKeyOf b)).openRow = none) (Q := fun _ => True) (fun r _ => closeRow_closes r b)
    (fun r a => closeRow_keeps_closed r a b) (fun _ _ _ => trivial) hb trivial

/-! ### PMODE (R195 to R197) -/

theorem exec_pondEnter (k : StackIx) (q : PcIx) :
    ∃ u, exec (.pondEnter k q) s = .next u ∧ pondOn u k q = true ∧ u.mem = s.mem ∧ u.dram.units = s.dram.units ∧
      (∀ x ∈ pcBanks k q, (bankOf u (bankKeyOf x)).openRow = none) ∧ ∀ q' : PcIx, q' ≠ q → pondOn u k q' = pondOn s k q' := by
  refine ⟨enterPond s k q, rfl, ?_, ?_, ?_, ?_, ?_⟩
  · rw [enterPond, pondOn_modStack, getLsbD_or_pcBit]; simp
  · rw [enterPond, modStack_mem]
    exact foldl_keeps State.mem closeRow closeRow_mem _ s
  · rw [enterPond, modStack_dram_units]
    exact foldl_keeps (fun r => r.dram.units) closeRow closeRow_units _ s
  · intro x hx
    rw [enterPond, bankOf_modStack]
    exact closeRows_close s (pcBanks k q) hx
  · intro q' hq
    have hfold : pondOn ((pcBanks k q).foldl closeRow s) k q' = pondOn s k q' :=
      foldl_keeps (fun r => pondOn r k q') closeRow (fun r b => pondOn_closeRow r b k q') _ s
    rw [enterPond, pondOn_modStack, getLsbD_or_pcBit, ← hfold]
    simp [hq, pondOn]

theorem exec_pmodeInj (k : StackIx) (q : PcIx) (inj : Bool) :
    ∃ u, exec (.pmodeInj k q inj) s = .next u ∧ (stackOf u k).inj.getLsbD q.val = inj ∧
      (stackOf u k).pond = (stackOf s k).pond ∧ u.mem = s.mem ∧
      ∀ q' : PcIx, q' ≠ q → (stackOf u k).inj.getLsbD q'.val = (stackOf s k).inj.getLsbD q'.val := by
  refine ⟨_, rfl, ?_, ?_, rfl, ?_⟩
  · rw [stackOf_modStack, if_pos rfl]
    cases inj
    · exact (getLsbD_clear_pcBit _ q q).trans (by simp)
    · exact (getLsbD_or_pcBit _ q q).trans (by simp)
  · rw [stackOf_modStack, if_pos rfl]
  · intro q' hq
    rw [stackOf_modStack, if_pos rfl]
    cases inj
    · exact (getLsbD_clear_pcBit _ q q').trans (by simp [hq])
    · exact (getLsbD_or_pcBit _ q q').trans (by simp [hq])

end PondMode

/-! ### The unit that serves a bank -/

/-- A change of a stack that leaves its spare map alone leaves every bank its unit (R224). -/
theorem unitAt_modStack (s : State) (k : StackIx) (f : Stack → Stack) (b : BankIx) (hval : ∀ x, (f x).spval = x.spval)
    (hmap : ∀ x, (f x).spmap = x.spmap) : unitAt (modStack s k f) b = unitAt s b := by
  have hstack : ∀ i, (stackOf (modStack s k f) i).spval = (stackOf s i).spval ∧
      (stackOf (modStack s k f) i).spmap = (stackOf s i).spmap := by
    intro i
    rw [stackOf_modStack]
    split
    · next h => rw [hval, hmap, h]; exact ⟨rfl, rfl⟩
    · exact ⟨rfl, rfl⟩
  simp only [unitAt, physBank, hstack]

theorem unitIdle_modStack (s : State) (k : StackIx) (f : Stack → Stack) (hval : ∀ x, (f x).spval = x.spval)
    (hmap : ∀ x, (f x).spmap = x.spmap) : unitIdle (modStack s k f) = unitIdle s := by
  funext b
  rw [unitIdle, unitAt_modStack s k f b hval hmap]
  rfl

section PondExit

variable (s : State) (k : StackIx) (q : PcIx)

/-- A write of POND = 0 comes to the pseudo-channel: it waits where POND is 1 (R197). -/
def exitAsked : State := modStack s k fun x => { x with exiting := x.exiting ||| (x.pond &&& pcBit q) }

theorem exec_pondExit_eq : exec (.pondExit k q) s = .next (settleExit (exitAsked s k q) k q) := rfl

theorem unitIdle_exitAsked : unitIdle (exitAsked s k q) = unitIdle s := unitIdle_modStack s k _ (fun _ => rfl) fun _ => rfl

theorem pondOn_exitAsked (q' : PcIx) : pondOn (exitAsked s k q) k q' = pondOn s k q' := pondOn_modStack s k q' _

theorem exiting_exitAsked : (stackOf (exitAsked s k q) k).exiting.getLsbD q.val =
    ((stackOf s k).exiting.getLsbD q.val || pondOn s k q) := by
  rw [exitAsked, stackOf_modStack, if_pos rfl, BitVec.getLsbD_or, getLsbD_and_pcBit]
  simp [pondOn]

theorem exec_pondExit_of_idle (hidle : (pcBanks k q).all (unitIdle s) = true) :
    ∃ u, exec (.pondExit k q) s = .next u ∧ pondOn u k q = false ∧ u.mem = s.mem ∧
      ∀ q' : PcIx, q' ≠ q → pondOn u k q' = pondOn s k q' := by
  rw [exec_pondExit_eq, settleExit, unitIdle_exitAsked, hidle, Bool.and_true, exiting_exitAsked]
  split
  · refine ⟨_, rfl, ?_, rfl, fun q' hq => ?_⟩
    · rw [pondOn_modStack, getLsbD_clear_pcBit]; simp
    · rw [pondOn_modStack, getLsbD_clear_pcBit, ← pondOn_exitAsked s k q q']; simp [hq, pondOn]
  · next hout =>
    have hoff : pondOn s k q = false := Bool.eq_false_of_not_eq_true fun hon => hout (by rw [hon, Bool.or_true])
    exact ⟨_, rfl, (pondOn_exitAsked s k q q).trans hoff, rfl, fun q' _ => pondOn_exitAsked s k q q'⟩

theorem exec_pondExit_of_busy (hbusy : (pcBanks k q).all (unitIdle s) = false) (hon : pondOn s k q = true) :
    ∃ u, exec (.pondExit k q) s = .next u ∧ pondOn u k q = true ∧ (stackOf u k).exiting.getLsbD q.val = true ∧
      u.mem = s.mem := by
  have hstays : settleExit (exitAsked s k q) k q = exitAsked s k q := by
    rw [settleExit, unitIdle_exitAsked, hbusy, Bool.and_false]; rfl
  refine ⟨exitAsked s k q, by rw [exec_pondExit_eq, hstays], (pondOn_exitAsked s k q q).trans hon, ?_, rfl⟩
  rw [exiting_exitAsked, hon, Bool.or_true]

end PondExit

/-! ### The result row (R198, R210, R211) -/

theorem clearStatus_unit (s : State) (b : BankIx) : unitOf (clearStatus s b) (unitAt s b).key =
    { unitOf s (unitAt s b).key with corr := 0, uec := 0 } := by
  rw [clearStatus, unitOf_modStack, unitOf_modUnit, if_pos rfl]

@[simp] theorem clearStatus_out (s : State) (b : BankIx) : (clearStatus s b).out = s.out := by
  rw [clearStatus, modStack_out, modUnit_out]

@[simp] theorem clearStatus_mem (s : State) (b : BankIx) : (clearStatus s b).mem = s.mem := by
  rw [clearStatus, modStack_mem, modUnit_mem]

@[simp] theorem unitOf_emit (s : State) (o : List Out) (n : Nat) : unitOf (emit s o) n = unitOf s n := rfl

@[simp] theorem unitAt_sendTo (s : State) (a b : BankIx) (c : SentCmd) : unitAt (sendTo s a c) b = unitAt s b :=
  unitAt_modStack s _ _ b (fun _ => rfl) fun _ => rfl

section ResultRow

variable {s : State} {b : BankIx} {c : Fin 32}

theorem exec_resultRowRead_outside (hoff : pondOn s b.stack (bankSeg b).pc = false) :
    exec (.resultRowRead b c) s = .next (emit s [.rowData (some (List.replicate 32 0))]) := by
  change execResultRowRead b c s = _
  rw [execResultRowRead, hoff]; rfl

variable (hon : pondOn s b.stack (bankSeg b).pc = true)
include hon

theorem exec_resultRowRead_reserved (hlo : 1 ≤ c.val) (hhi : c.val < 16) :
    exec (.resultRowRead b c) s = .next (emit (sendTo s b (.result b c)) [.rowData (some (List.replicate 32 0))]) := by
  change execResultRowRead b c s = _
  have hne : c.val ≠ 0 := by omega
  simp only [execResultRowRead, hon, Bool.not_true, Bool.false_eq_true, if_false, hne, hhi, if_true]

theorem exec_resultRowRead_of_running (hc : 16 ≤ c.val) (hrun : (unitOf s (unitAt s b).key).running.isSome = true) :
    exec (.resultRowRead b c) s = .next (askBank s b none) := by
  change execResultRowRead b c s = _
  have hne : c.val ≠ 0 := by omega
  simp only [execResultRowRead, hon, Bool.not_true, Bool.false_eq_true, if_false, hne, Nat.not_lt.2 hc, hrun, if_true]

theorem exec_resultRowRead_accumulators (hc : 16 ≤ c.val) (hrun : (unitOf s (unitAt s b).key).running = none) :
    exec (.resultRowRead b c) s = .next (emit (answered (sendTo s b (.result b c)) b)
      [.rowData (if (resultColumn (unitOf s (unitAt s b).key) c.val).2 then none
        else some (resultColumn (unitOf s (unitAt s b).key) c.val).1)]) := by
  change execResultRowRead b c s = _
  have hne : c.val ≠ 0 := by omega
  simp only [execResultRowRead, hon, Bool.not_true, Bool.false_eq_true, if_false, hne, Nat.not_lt.2 hc, hrun, Option.isSome_none]

theorem exec_resultRowRead_status (hc : c.val = 0) :
    ∃ u, exec (.resultRowRead b c) s = .next u ∧ u.out = s.out ++ [.rowData (some (statusColumn s b))] ∧
      (unitOf u (unitAt s b).key).corr = 0 ∧ (unitOf u (unitAt s b).key).uec = 0 ∧ u.mem = s.mem := by
  have hexec : exec (.resultRowRead b c) s =
      .next (emit (clearStatus (sendTo s b (.result b c)) b) [.rowData (some (statusColumn s b))]) := by
    change execResultRowRead b c s = _
    simp only [execResultRowRead, hon, Bool.not_true, Bool.false_eq_true, if_false, hc, if_true]
  have hunit := clearStatus_unit (sendTo s b (.result b c)) b
  rw [unitAt_sendTo] at hunit
  refine ⟨_, hexec, ?_, ?_, ?_, ?_⟩
  · rw [emit_out, clearStatus_out, sendTo_out]
  · rw [unitOf_emit, hunit]
  · rw [unitOf_emit, hunit]
  · rw [emit_mem, clearStatus_mem, sendTo_mem]

end ResultRow

/-- Whether an accumulator of the column is poisoned (R211). -/
theorem resultColumn_bad_iff (u : Machine.Unit) (c : Nat) :
    (resultColumn u c).2 = true ↔ ∃ e, e < 8 ∧ accBad u (128 * u.win.toNat + 8 * (c - 16) + e) = true := by
  simp [resultColumn]

/-! ### The spare map (R161, R224, R225, R286, R289) -/

theorem stackOf_mapSpare (s : State) (b : BankIx) (j : Fin 8) (valid : Bool) : stackOf (mapSpare s b j valid) b.stack =
    { stackOf s b.stack with
      spmap := tabSet 0 (stackOf s b.stack).spmap (8 * b.die.val + j.val) (BitVec.ofNat 8 b.bank.val),
      spval := tabModify 0 (stackOf s b.stack).spval b.die.val fun v =>
        if valid then v ||| (1#8) <<< j.val else v &&& ~~~((1#8) <<< j.val) } := by
  rw [mapSpare, stackOf_modBank, stackOf_modStack, if_pos rfl]

theorem mapSpare_spmap (s : State) (b : BankIx) (j : Fin 8) (valid : Bool) :
    tabGet 0 (stackOf (mapSpare s b j valid) b.stack).spmap (8 * b.die.val + j.val) = BitVec.ofNat 8 b.bank.val := by
  rw [stackOf_mapSpare, tabGet_tabSet, if_pos rfl]

theorem mapSpare_spval (s : State) (b : BankIx) (j : Fin 8) (valid : Bool) :
    (tabGet 0 (stackOf (mapSpare s b j valid) b.stack).spval b.die.val).getLsbD j.val = valid := by
  rw [stackOf_mapSpare, tabGet_tabModify, if_pos rfl]
  have hj := j.isLt
  cases valid <;> simp [hj]

/-- The copied moves of the spare are done with: they leave the tenants' lists (R401). -/
def dropCopied (m : MoveWhat) (s : State) : State :=
  (List.finRange 16).foldl
    (fun q t => if (tenOf q t).moves.isEmpty then q else modTen q t fun x =>
      { x with moves := x.moves.filter fun y => y.what != m || !y.copied }) s

@[simp] theorem dropCopied_dram (m : MoveWhat) (s : State) : (dropCopied m s).dram = s.dram :=
  foldl_keeps State.dram _ (fun r t => by split <;> rfl) _ s

@[simp] theorem dropCopied_mem (m : MoveWhat) (s : State) : (dropCopied m s).mem = s.mem :=
  foldl_keeps State.mem _ (fun r t => by split <;> rfl) _ s

/-- The spare map of `s` with spare `j` written, the copied move of the spare done with. -/
def spareMapped (s : State) (x : BankIx) (j : Fin 8) (valid : Bool) : State :=
  dropCopied (.spare x j) (mapSpare s x j valid)

theorem spareMapped_spmap (s : State) (x : BankIx) (j : Fin 8) (valid : Bool) :
    tabGet 0 (stackOf (spareMapped s x j valid) x.stack).spmap (8 * x.die.val + j.val) = BitVec.ofNat 8 x.bank.val := by
  rw [stackOf, spareMapped, dropCopied_dram]
  exact mapSpare_spmap s x j valid

theorem spareMapped_spval (s : State) (x : BankIx) (j : Fin 8) (valid : Bool) :
    (tabGet 0 (stackOf (spareMapped s x j valid) x.stack).spval x.die.val).getLsbD j.val = valid := by
  rw [stackOf, spareMapped, dropCopied_dram]
  exact mapSpare_spval s x j valid

@[simp] theorem spareMapped_mem (s : State) (x : BankIx) (j : Fin 8) (valid : Bool) : (spareMapped s x j valid).mem = s.mem :=
  dropCopied_mem _ _

section SpareWrite

variable {s : State} {k : StackIx} {d : DieIx} {j : Fin 8} {bank : Byte} {valid : Bool} {x : BankIx} {bs : List BankIx}
  (hx : x = { stack := k, die := d, bank := ⟨bank.toNat, bank.isLt⟩ }) (hbs : bs = remapped s (mapSpare s x j valid) x)

/-- The spare may not be mapped: its fill is not reported or its unit failed (R286, R289). -/
def spareUnfit (s : State) (k : StackIx) (d : DieIx) (j : Fin 8) (valid : Bool) : Bool :=
  valid && (!s.log.sparesFilled || (bankOf s (bankKey k.val d.val (256 + j.val))).retired)

/-- The write waits: for a unit, for queued writes, or for the move of a tenant's data (R225). -/
def spareWaits (s : State) (x : BankIx) (bs : List BankIx) (j : Fin 8) : Bool :=
  !(x :: bs).all (unitIdle s) || drainWaits s (x :: bs) || !bs.all (fun c => spareReady s c (.spare x j))

include hx hbs

theorem exec_spmapWrite_eq : exec (.spmapWrite k d j bank valid) s =
    .next (if spareUnfit s k d j valid then s
      else if spareWaits s x bs j then s
      else if (bs.filter fun c => (bankOwners s c).isEmpty).isEmpty then spareMapped (prepareBanks s (x :: bs)) x j valid
      else match moveChan (prepareBanks s (x :: bs)) with
        | some c => spareMapped (carryBanks (prepareBanks s (x :: bs)) (mapSpare (prepareBanks s (x :: bs)) x j valid) c
            (bs.filter fun c => (bankOwners s c).isEmpty)) x j valid
        | none => s) := by
  subst hx hbs; rfl

theorem exec_spmapWrite_of_unfit (h : spareUnfit s k d j valid = true) : exec (.spmapWrite k d j bank valid) s = .next s := by
  rw [exec_spmapWrite_eq hx hbs, if_pos h]

theorem exec_spmapWrite_of_waits (h : spareWaits s x bs j = true) : exec (.spmapWrite k d j bank valid) s = .next s := by
  rw [exec_spmapWrite_eq hx hbs, if_pos h, ite_self]

/-- A write that nothing holds up maps the spare. Where tenants own all that moves, no data go along. -/
theorem exec_spmapWrite_maps (hfit : spareUnfit s k d j valid = false) (hgo : spareWaits s x bs j = false)
    (hway : (∀ c ∈ bs, bankOwners s c ≠ []) ∨ ∃ ch, moveChan (prepareBanks s (x :: bs)) = some ch) :
    ∃ r, exec (.spmapWrite k d j bank valid) s = .next (spareMapped r x j valid) ∧
      ((∀ c ∈ bs, bankOwners s c ≠ []) → r.mem = (prepareBanks s (x :: bs)).mem) := by
  rw [exec_spmapWrite_eq hx hbs, hfit, hgo, if_neg Bool.false_ne_true, if_neg Bool.false_ne_true]
  have hfree : (bs.filter fun c => (bankOwners s c).isEmpty).isEmpty = true ↔ ∀ c ∈ bs, bankOwners s c ≠ [] := by
    simp [List.filter_eq_nil_iff]
  by_cases howned : ∀ c ∈ bs, bankOwners s c ≠ []
  · rw [if_pos (hfree.2 howned)]
    exact ⟨_, rfl, fun _ => rfl⟩
  · obtain ⟨ch, hch⟩ := hway.resolve_left howned
    rw [if_neg (mt hfree.1 howned), hch]
    exact ⟨_, rfl, fun h => absurd h howned⟩

end SpareWrite

theorem spareUnfit_of_lost {s : State} {k : StackIx} {d : DieIx} {j : Fin 8} {valid : Bool} (hvalid : valid = true)
    (h : s.log.sparesFilled = false ∨ (bankOf s (bankKey k.val d.val (256 + j.val))).retired = true) :
    spareUnfit s k d j valid = true := by
  rcases h with h | h <;> simp [spareUnfit, hvalid, h]

theorem spareUnfit_of_fit {s : State} {k : StackIx} {d : DieIx} {j : Fin 8} {valid : Bool}
    (h : valid = false ∨ (s.log.sparesFilled = true ∧ (bankOf s (bankKey k.val d.val (256 + j.val))).retired = false)) :
    spareUnfit s k d j valid = false := by
  rcases h with rfl | ⟨hfilled, hkept⟩
  · rfl
  · simp [spareUnfit, hfilled, hkept]

theorem spareWaits_of_bank (s : State) {x : BankIx} (bs : List BankIx) (j : Fin 8)
    (h : unitIdle s x = false ∨ drainWaits s [x] = true) : spareWaits s x bs j = true := by
  rcases h with h | h
  · simp [spareWaits, h]
  · have : drainWaits s (x :: bs) = true := by
      simp only [drainWaits, List.any_cons, List.any_nil, Bool.or_false] at h ⊢
      rw [h, Bool.true_or]
    simp [spareWaits, this]

theorem spareWaits_of_move (s : State) (x : BankIx) {bs : List BankIx} {j : Fin 8}
    (h : ∃ c ∈ bs, spareReady s c (.spare x j) = false) : spareWaits s x bs j = true := by
  have : bs.all (fun c => spareReady s c (.spare x j)) = false := by simpa using h
  simp [spareWaits, this]

theorem spareWaits_of_ready (s : State) {x : BankIx} {bs : List BankIx} {j : Fin 8}
    (hidle : (x :: bs).all (unitIdle s) = true) (hdrain : drainWaits s (x :: bs) = false)
    (hready : ∀ c ∈ bs, spareReady s c (.spare x j) = true) : spareWaits s x bs j = false := by
  rw [spareWaits, hidle, hdrain, List.all_eq_true.2 hready]; rfl

/-- Settles O41: each clause is the case of its command, the write of SPMAP by what holds it up. -/
theorem pondModeAndRows : Obligations.PondModeAndRows := by
  unfold Obligations.PondModeAndRows
  intro s k q b c d j bank inj _
  refine ⟨exec_pondEnter s k q, exec_pondExit_of_idle s k q, exec_pondExit_of_busy s k q, exec_pmodeInj s k q inj,
    exec_resultRowRead_outside, fun hon => ⟨exec_resultRowRead_reserved hon, fun hc x hunit => ?_,
      exec_resultRowRead_status hon⟩, fun x valid bs hx hbs => ⟨fun h => ?_, fun h => ?_, fun hvalid h => ?_, ?_⟩⟩
  · subst hunit
    refine ⟨exec_resultRowRead_of_running hon hc, fun hrun => ⟨fun hgood => ?_, fun hbad => ?_⟩⟩
    · have hgood : ¬ (resultColumn (unitOf s (unitAt s b).key) c.val).2 = true := by
        rw [resultColumn_bad_iff]
        rintro ⟨e, he, hbad⟩
        exact Bool.false_ne_true ((hgood e he).symm.trans hbad)
      rw [exec_resultRowRead_accumulators hon hc hrun, if_neg hgood]; rfl
    · rw [exec_resultRowRead_accumulators hon hc hrun, if_pos ((resultColumn_bad_iff _ _).2 hbad)]
  · exact exec_spmapWrite_of_waits hx hbs (spareWaits_of_bank s bs j h)
  · exact exec_spmapWrite_of_waits hx hbs (spareWaits_of_move s x h)
  · exact exec_spmapWrite_of_unfit hx hbs (spareUnfit_of_lost hvalid h)
  · intro hfit hidle hdrain hready hway
    obtain ⟨r, hexec, hmem⟩ := exec_spmapWrite_maps hx hbs (spareUnfit_of_fit hfit)
      (spareWaits_of_ready s hidle hdrain hready) hway
    have hmap := spareMapped_spmap r x j valid
    have hval := spareMapped_spval r x j valid
    subst hx
    refine ⟨_, hexec, ?_, hval, fun howned => (spareMapped_mem r _ j valid).trans (hmem howned)⟩
    simpa using hmap

end Sys2Proof.Machine

/-! ## O44: a read-back whose merge read retires the pan (R239, R283, R399, R400) -/

namespace Sys2Proof.Machine

section ReadbackRetires

/-- The bank that the read-back of `poorQuadrant` reads. -/
def readBank : BankIx := { stack := 0, die := 0, bank := 0 }

/-- A table of one read-back: accumulators 7 and 8 of `readBank` to byte 0 of the partition. -/
def readbackTable : PlanTable :=
  { gear := 0, body := 0, group := 0, items := [(0, .readback 0 0 0 7 2 0 none)], signal := none }

/-- A tenant in a tide, on pan 0 and on `readBank`, with that table. -/
def readbackTenant : Tenant :=
  { Tenant.reset with
    state := .running, inTide := true, img := { ImageReq.none with plan := [readbackTable] },
    bind := { Binding.none with pans := [0], members := [[{ stack := 0, die := 0, banks := [0] }]] } }

/-- Pond mode on, accumulator 8 poisoned, and a single-bit error in the word that accumulator 7 is merged into. One corrected word
retires a pan, pan 1 failed its self-test, and so a retirement leaves quadrant 0 with seven usable pans. -/
def poorQuadrant : State :=
  { State.reset with
    mem := [(0, 1)], plc := { PlcSt.reset with retirePan := 1 }, ten := [(0, readbackTenant)],
    pans := [(0, { Pan.reset with tenant := some 0, lpan := some 0 }), (1, { Pan.reset with stFail := true })],
    dram := { DramSt.reset with
      stk := [(0, { Stack.reset with pond := 1 })],
      units := [((unitAt State.reset readBank).key, { Machine.Unit.reset with aPoison := [(8, true)] })] } }

/-- The code by which tenant 0 halts in the state that a command answers. -/
def haltAnswered : Answer → Option Byte
  | .next u => (tenOf u 0).haltCode
  | _ => none

/-- The narrow write of accumulator 7 corrects its word, which retires pan 0, and the quadrant's tenant is to halt with 0x1A
before the poisoned column can halt it (R399, R400). -/
theorem poorQuadrant_halts : haltAnswered (exec (.pondStreamIssue 0 0) poorQuadrant) = some 0x1A := by decide +kernel

/-- Refutes O44: a tenant that the read-back's own merge has already marked to halt keeps that code, where the statement has
0x40. -/
theorem not_pondStreams : ¬ Obligations.PondStreams := by
  unfold Obligations.PondStreams
  intro h
  have hcanon : Canon poorQuadrant := by unfold Canon; decide +kernel
  obtain ⟨-, -, hlive, -⟩ := h poorQuadrant 0 0 0 0 0 0 0 readbackTable 0 (bankSeg readBank) 0 (decPond []).2 (decPond []).2 0 [] 0
    { record := 0, pair := 0, slot := 0, block := 0, t0 := 0, heads := 0 } 0 hcanon
  obtain ⟨-, -, -, -, hreadback, -⟩ := hlive rfl rfl rfl
  obtain ⟨-, hbank⟩ := hreadback 0 0 7 2 0 rfl
  obtain ⟨-, -, hidle⟩ := hbank readBank _ rfl rfl
  have hpond : pondOn poorQuadrant readBank.stack (bankSeg readBank).pc = true := by decide +kernel
  obtain ⟨-, hpoisoned⟩ := hidle hpond (by decide +kernel)
  obtain ⟨u, hexec, hhalt, -⟩ := hpoisoned 1 (by decide) (by decide +kernel) (by decide +kernel) rfl
  have hcode := poorQuadrant_halts
  rw [hexec, haltAnswered, hhalt] at hcode
  exact absurd hcode (by decide)

end ReadbackRetires
end Sys2Proof.Machine

/-! ## Folds, and what findings and commands to banks leave alone -/

namespace Sys2Proof.Machine

section Folds

variable {σ α γ : Type} {p : σ → Prop} {f : σ → α → σ} {l : List α}

theorem foldl_holds (hp : ∀ r, ∀ a ∈ l, p r → p (f r a)) {s : σ} (hs : p s) : p (l.foldl f s) := by
  induction l generalizing s with
  | nil => exact hs
  | cons a l ih => exact ih (fun r b hb => hp r b (List.mem_cons_of_mem a hb)) (hp s a List.mem_cons_self hs)

/-- What only one element of a fold's list changes: at the end it reads as that element's step left it, and that step met it as
it was at the start. -/
theorem foldl_visits (get : σ → γ) {e : α} (hp : ∀ r a, p r → p (f r a)) (hnodup : l.Nodup) (he : e ∈ l)
    (hoff : ∀ r, ∀ a ∈ l, a ≠ e → p r → get (f r a) = get r) {s : σ} (hs : p s) :
    ∃ r, p r ∧ get r = get s ∧ get (l.foldl f s) = get (f r e) := by
  obtain ⟨before, behind, rfl⟩ := List.append_of_mem he
  have hbefore : ∀ a ∈ before, a ≠ e := by
    rintro a ha rfl
    exact (List.nodup_append.1 hnodup).2.2 a ha a List.mem_cons_self rfl
  have hbehind : ∀ a ∈ behind, a ≠ e := by
    rintro a ha rfl
    exact (List.nodup_cons.1 (List.nodup_append.1 hnodup).2.1).1 ha
  have hkeeps : ∀ part : List α, (∀ a ∈ part, a ≠ e ∧ a ∈ before ++ e :: behind) → ∀ r, p r →
      p (part.foldl f r) ∧ get (part.foldl f r) = get r := fun part hpart r hr =>
    foldl_holds (p := fun u => p u ∧ get u = get r)
      (fun u a ha hu => ⟨hp u a hu.1, (hoff u a (hpart a ha).2 (hpart a ha).1 hu.1).trans hu.2⟩) ⟨hr, rfl⟩
  obtain ⟨hr, hget⟩ := hkeeps before (fun a ha => ⟨hbefore a ha, List.mem_append_left _ ha⟩) s hs
  refine ⟨before.foldl f s, hr, hget, ?_⟩
  rw [List.foldl_append, List.foldl_cons]
  exact (hkeeps behind (fun a ha => ⟨hbehind a ha, by simp [ha]⟩) _ (hp _ e hr)).2

/-- A flag that each step raises by the same test of its element ends raised by any of them. -/
theorem foldl_any (get : σ → Bool) (test : α → Bool) (hp : ∀ r a, p r → p (f r a))
    (hget : ∀ r a, p r → get (f r a) = (get r || test a)) {s : σ} (hs : p s) : get (l.foldl f s) = (get s || l.any test) := by
  induction l generalizing s with
  | nil => simp
  | cons a l ih => rw [List.foldl_cons, ih (hp s a hs), hget s a hs, List.any_cons, Bool.or_assoc]

end Folds

/-! ### What a reader's findings leave alone, whatever is logged, retired or halted for them -/

section Findings

/-- The injection registers (R297). -/
def LogSt.injection (l : LogSt) : Bool × BitVec 2 × BitVec 6 × Byte × Dword × Half :=
  (l.injArm, l.injMem, l.injUnit, l.injBank, l.injD, l.injC)

/-- The parts of the card that no finding changes: it is logged, its bank or pan retires, and its channel halts. -/
structure Bedrock where
  mem : Memory
  tick : Dword
  test : Option TestUnit
  stk : Nat → Stack
  units : Tab Machine.Unit
  windows : Tab Window
  tags : Tab Nat
  injection : Bool × BitVec 2 × BitVec 6 × Byte × Dword × Half
  refreshing : Nat → Bool

def bedrock (s : State) : Bedrock :=
  { mem := s.mem, tick := s.tick, test := s.svc.test, stk := tabGet Stack.reset s.dram.stk, units := s.dram.units,
    windows := s.dram.windows, tags := s.dram.tags, injection := s.log.injection, refreshing := fun n => (bankOf s n).refreshing }

variable (s : State)

@[simp] theorem injection_addError (l : LogSt) (e : LogEntry) : (l.addError e).injection = l.injection := rfl

@[simp] theorem injection_corrected (l : LogSt) (k : Nat) (e : LogEntry) : (l.corrected k e).injection = l.injection := by
  unfold LogSt.corrected
  split <;> rfl

theorem bedrock_setLog {l : LogSt} (h : l.injection = s.log.injection) : bedrock { s with log := l } = bedrock s := by
  simp only [bedrock, h]
  rfl

@[simp] theorem bedrock_modTen (t : TenIx) (f : Tenant → Tenant) : bedrock (modTen s t f) = bedrock s := rfl

@[simp] theorem bedrock_modPan (p : PanIx) (f : Pan → Pan) : bedrock (modPan s p f) = bedrock s := rfl

@[simp] theorem bedrock_modSch (n : SchIx) (f : SysChan → SysChan) : bedrock (modSch s n f) = bedrock s := rfl

@[simp] theorem bedrock_usedFree (n : Nat) : bedrock (usedFree s n) = bedrock s := rfl

@[simp] theorem bedrock_emit (o : List Out) : bedrock (emit s o) = bedrock s := rfl

@[simp] theorem bedrock_setPlc (x : PlcSt) : bedrock { s with plc := x } = bedrock s := rfl

@[simp] theorem bedrock_addRetire (e : RetireEntry) : bedrock (addRetire s e) = bedrock s := rfl

@[simp] theorem bedrock_addMove (t : TenIx) (m : MoveWhat) : bedrock (addMove s t m) = bedrock s := rfl

@[simp] theorem bedrock_logEvent (code : Byte) (d : List Byte) (t : Option TenIx) :
    bedrock (logEvent s code d t) = bedrock s := by
  have h : (logEvent s code d t).log.injection = s.log.injection := by
    unfold logEvent
    dsimp only
    split <;> rfl
  simp only [bedrock, h]
  rfl

theorem bedrock_modBank (n : Nat) (f : BankSt → BankSt) (hf : ∀ x, (f x).refreshing = x.refreshing) :
    bedrock (modBank s n f) = bedrock s := by
  have h : (fun k => (bankOf (modBank s n f) k).refreshing) = fun k => (bankOf s k).refreshing := by
    funext k
    rw [bankOf_modBank]
    split
    · next hk => rw [hf, hk]
    · rfl
  simp only [bedrock, h]
  rfl

@[simp] theorem bedrock_haltNext (ts : List TenIx) (code : Byte) : bedrock (haltNext s ts code) = bedrock s :=
  foldl_keeps bedrock _ (fun _ _ => bedrock_modTen _ _ _) ts s

@[simp] theorem bedrock_movePan (p : PanIx) (t : TenIx) : bedrock (movePan s p t) = bedrock s := by
  unfold movePan
  split <;> simp

@[simp] theorem bedrock_recallPans (q : PanIx) : bedrock (recallPans s q) = bedrock s :=
  foldl_keeps bedrock _ (fun _ _ => foldl_keeps bedrock _ (fun _ _ => by simp) _ _) _ _

@[simp] theorem bedrock_retirePan (p : PanIx) (c : BitVec 4) : bedrock (retirePan s p c) = bedrock s := by
  have hmoves := fun l r => foldl_keeps bedrock (fun r t => movePan r p t) (fun r t => bedrock_movePan r p t) l r
  unfold retirePan
  dsimp only
  split
  · rfl
  · split <;> simp [hmoves]

@[simp] theorem bedrock_startBankMoves (ms : List (BankIx × BankIx)) : bedrock (startBankMoves s ms) = bedrock s :=
  (foldl_keeps bedrock _ (fun _ _ => foldl_keeps bedrock _ (fun _ _ => bedrock_addMove _ _ _) _ _) _ _).trans
    (bedrock_setPlc s _)

@[simp] theorem bedrock_relocateBank (b : BankIx) (d : List Byte) : bedrock (relocateBank s b d) = bedrock s := by
  have hmark := bedrock_modBank s (bankKeyOf b) (fun x => { x with degraded := true }) fun _ => rfl
  unfold relocateBank
  split
  · rfl
  · split
    · exact bedrock_startBankMoves s _
    · dsimp only
      split <;> simp [hmark]

@[simp] theorem bedrock_recallMoves (c : BankIx) (d : List Byte) : bedrock (recallMoves s c d) = bedrock s := by
  unfold recallMoves
  dsimp only
  split
  · rfl
  · exact (foldl_keeps bedrock _ (fun _ _ => by split <;> simp) _ _).trans
      ((foldl_keeps bedrock _ (fun _ _ => bedrock_modTen _ _ _) _ _).trans (bedrock_setPlc s _))

@[simp] theorem bedrock_retireBank (b : BankIx) (c : BitVec 4) : bedrock (retireBank s b c) = bedrock s := by
  have hmoves := fun j l r => foldl_keeps bedrock (fun r t => addMove r t (.spare b j))
    (fun r t => bedrock_addMove r t (.spare b j)) l r
  have hmark := bedrock_modBank s (bankKeyOf b) (fun x => { x with retired := true }) fun _ => rfl
  unfold retireBank retireBankWith
  dsimp only
  split
  · rfl
  · split <;> simp [hmoves, hmark]

@[simp] theorem bedrock_placerCount (k : Nat) : bedrock (placerCount s k) = bedrock s := by
  have hcount := fun n => bedrock_modBank s n (fun x => { x with ceCount := x.ceCount + 1 }) fun _ => rfl
  unfold placerCount
  dsimp only
  split
  · split <;> simp [hcount]
  · split <;> simp
  · rfl

@[simp] theorem bedrock_logWord (code : Byte) (k : Nat) (d : Decoded) (t : Option TenIx) :
    bedrock (logWord s code k d t) = bedrock s := by
  unfold logWord
  split
  · rfl
  · rw [bedrock_placerCount]
    exact bedrock_setLog s (injection_corrected _ _ _)
  · have hlog := bedrock_setLog s (injection_addError s.log (errEntry s code 1 k d t))
    split
    · rw [bedrock_retireBank, hlog]
    · exact hlog

@[simp] theorem bedrock_noteColumn (code : Byte) (ws : List (Nat × Decoded)) (t : Option TenIx) :
    bedrock (noteColumn s code ws t) = bedrock s := by
  unfold noteColumn
  refine (foldl_keeps bedrock _ (fun _ _ => bedrock_logWord _ _ _ _ _) _ _).trans (bedrock_setLog s ?_)
  split
  · split <;> rfl
  · split <;> rfl

@[simp] theorem bedrock_haltChan (p : PanIx) (c : PanCopy) (rmw : Bool) (region : Half) (off : Nat) :
    bedrock (haltChan s p c rmw region off) = bedrock s := by
  unfold haltChan
  dsimp only
  split <;> simp

@[simp] theorem bedrock_haltSource (src : ReqSource) (rmw : Bool) : bedrock (haltSource s src rmw) = bedrock s := by
  unfold haltSource
  dsimp only
  split
  · split
    · split
      · rfl
      · simp
    · rfl
  · split
    · split
      · rfl
      · simp [haltSch]
    · rfl
  · rfl

/-- Words read clean leave nothing to find. -/
theorem noteColumn_clean (code : Byte) {ws : List (Nat × Decoded)} (t : Option TenIx) (h : ∀ w ∈ ws, w.2.check = .clean) :
    noteColumn s code ws t = s := by
  have hcorr : (ws.any fun w => match w.2.check with | .corrected _ => true | _ => false) = false :=
    List.any_eq_false.2 fun w hw => by rw [h w hw]; exact Bool.false_ne_true
  have hue : (ws.any fun w => w.2.check == .uncorrectable) = false :=
    List.any_eq_false.2 fun w hw => by rw [h w hw]; exact Bool.false_ne_true
  have hwords : ∀ (l : List (Nat × Decoded)) r, (∀ w ∈ l, w.2.check = .clean) →
      l.foldl (fun r w => logWord r code w.1 w.2 t) r = r := by
    intro l r hl
    refine foldl_holds (p := fun u => u = r) (fun u w hw hu => ?_) rfl
    rw [logWord, hl w hw, hu]
  unfold noteColumn
  dsimp only
  rw [hue, hwords ws _ h]
  simp only [Bool.false_eq_true, if_false]
  exact (congrArg (fun c => { s with log := if c then s.log.countCe true else s.log }) hcorr).trans rfl

end Findings

end Sys2Proof.Machine

namespace Sys2Proof.Machine

/-! ### What commands sent to banks leave alone -/

section Traffic

/-- A stack but for its retry buffers and its count of merges. -/
def Stack.quiet (x : Stack) : Stack := { x with sent := [], alerts := [], merge := 0 }

/-- The bedrock but for what commands on their way to the stacks change. -/
def Bedrock.quiet (x : Bedrock) : Bedrock := { x with stk := fun n => (x.stk n).quiet }

/-- The bedrock of a state but for what commands on their way to the stacks change. -/
def quiet (s : State) : Bedrock := (bedrock s).quiet

/-- The switches and the spare map of a stack. -/
def Stack.posture (x : Stack) : Stack :=
  { Stack.reset with pond := x.pond, inj := x.inj, exiting := x.exiting, spmap := x.spmap, spval := x.spval, mode := x.mode }

/-- What the arrival and the effect of a pond command rest on, beside the units and the memory. -/
def Bedrock.setting (x : Bedrock) : Bedrock := { x with mem := [], units := [], stk := fun n => (x.stk n).posture }

/-- What the arrival and the effect of a pond command in a state rest on, beside the units and the memory. -/
def setting (s : State) : Bedrock := (bedrock s).setting

variable {s u : State}

theorem quiet_of_bedrock (h : bedrock u = bedrock s) : quiet u = quiet s := congrArg Bedrock.quiet h

theorem setting_of_quiet (h : quiet u = quiet s) : setting u = setting s := (congrArg Bedrock.setting h :)

theorem setting_of_bedrock (h : bedrock u = bedrock s) : setting u = setting s := setting_of_quiet (quiet_of_bedrock h)

theorem mem_of_quiet (h : quiet u = quiet s) : u.mem = s.mem := congrArg Bedrock.mem h

theorem mem_of_bedrock (h : bedrock u = bedrock s) : u.mem = s.mem := congrArg Bedrock.mem h

theorem tick_of_quiet (h : quiet u = quiet s) : u.tick = s.tick := congrArg Bedrock.tick h

theorem units_of_quiet (h : quiet u = quiet s) : u.dram.units = s.dram.units := congrArg Bedrock.units h

theorem units_of_bedrock (h : bedrock u = bedrock s) : u.dram.units = s.dram.units := congrArg Bedrock.units h

theorem stackOf_of_quiet (h : quiet u = quiet s) (k : StackIx) : (stackOf u k).quiet = (stackOf s k).quiet :=
  congrFun (congrArg Bedrock.stk h) k.val

theorem wq_of_quiet (h : quiet u = quiet s) (k : StackIx) : (stackOf u k).wq = (stackOf s k).wq :=
  (congrArg Stack.wq (stackOf_of_quiet h k) :)

theorem queue_of_quiet (h : quiet u = quiet s) (k : StackIx) : (stackOf u k).queue = (stackOf s k).queue :=
  (congrArg Stack.queue (stackOf_of_quiet h k) :)

theorem stk_of_setting (h : setting u = setting s) (n : Nat) :
    (tabGet Stack.reset u.dram.stk n).posture = (tabGet Stack.reset s.dram.stk n).posture := congrFun (congrArg Bedrock.stk h) n

theorem refreshing_of_setting (h : setting u = setting s) (n : Nat) : (bankOf u n).refreshing = (bankOf s n).refreshing :=
  congrFun (congrArg Bedrock.refreshing h) n

theorem windowOf_of_setting (h : setting u = setting s) (g : SegIx) : windowOf u g = windowOf s g := by
  rw [windowOf, show u.dram.windows = s.dram.windows from congrArg Bedrock.windows h, windowOf]

theorem physBank_of_setting (h : setting u = setting s) (k : StackIx) (d : DieIx) (b : Nat) : physBank u k d b = physBank s k d b := by
  have hval : (stackOf u k).spval = (stackOf s k).spval := (congrArg Stack.spval (stk_of_setting h k.val) :)
  have hmap : (stackOf u k).spmap = (stackOf s k).spmap := (congrArg Stack.spmap (stk_of_setting h k.val) :)
  rw [physBank, hval, hmap, physBank]

theorem unitAt_of_setting (h : setting u = setting s) (b : BankIx) : unitAt u b = unitAt s b := by
  rw [unitAt, physBank_of_setting h, unitAt]

theorem reqKey_of_setting (h : setting u = setting s) (k : StackIx) (r : DramReq) : reqKey u k r = reqKey s k r := by
  rw [reqKey, unitAt_of_setting h, reqKey]

theorem unitOf_of_units (h : u.dram.units = s.dram.units) (n : Nat) : unitOf u n = unitOf s n := by
  rw [unitOf, h, unitOf]

theorem injHits_of_setting (h : setting u = setting s) (key : Nat) : injHits u key = injHits s key := by
  have hinj := congrArg Bedrock.injection h
  obtain ⟨harm, hmem, hunit, hbank, -, -⟩ : u.log.injArm = s.log.injArm ∧ u.log.injMem = s.log.injMem ∧
      u.log.injUnit = s.log.injUnit ∧ u.log.injBank = s.log.injBank ∧ u.log.injD = s.log.injD ∧ u.log.injC = s.log.injC := by
    simpa [setting, bedrock, Bedrock.setting, LogSt.injection] using hinj
  have hbits : ∀ n, (tabGet Stack.reset u.dram.stk n).inj = (tabGet Stack.reset s.dram.stk n).inj := fun n =>
    (congrArg Stack.inj (stk_of_setting h n) :)
  have hmap : ∀ n, (tabGet Stack.reset u.dram.stk n).spmap = (tabGet Stack.reset s.dram.stk n).spmap := fun n =>
    (congrArg Stack.spmap (stk_of_setting h n) :)
  simp only [injHits, dieBank, harm, hmem, hunit, hbank, hbits, hmap]

theorem storedFor_of_setting (h : setting u = setting s) (key : Nat) (d : Dword) : storedFor u key d = storedFor s key d := by
  have hinj := congrArg Bedrock.injection h
  obtain ⟨-, -, -, -, hd, hc⟩ : u.log.injArm = s.log.injArm ∧ u.log.injMem = s.log.injMem ∧ u.log.injUnit = s.log.injUnit ∧
      u.log.injBank = s.log.injBank ∧ u.log.injD = s.log.injD ∧ u.log.injC = s.log.injC := by
    simpa [setting, bedrock, Bedrock.setting, LogSt.injection] using hinj
  rw [storedFor, injHits_of_setting h, hd, hc, storedFor]

/-! ### Commands to a bank -/

variable (s)

theorem stackOf_modStack_same (k : StackIx) (f : Stack → Stack) : stackOf (modStack s k f) k = f (stackOf s k) := by
  rw [stackOf_modStack, if_pos rfl]

@[simp] theorem stackOf_emit (o : List Out) (k : StackIx) : stackOf (emit s o) k = stackOf s k := rfl

theorem quiet_modStack (k : StackIx) (f : Stack → Stack) (hf : ∀ x, (f x).quiet = x.quiet) : quiet (modStack s k f) = quiet s := by
  have h : (fun n => (tabGet Stack.reset (modStack s k f).dram.stk n).quiet) =
      fun n => (tabGet Stack.reset s.dram.stk n).quiet := by
    funext n
    rw [modStack, tabGet_tabModify]
    split
    · next hn => rw [hf, hn]
    · rfl
  exact congrArg (fun x => { bedrock s with stk := x }) h

theorem setting_modStack (k : StackIx) (f : Stack → Stack) (hf : ∀ x, (f x).posture = x.posture) :
    setting (modStack s k f) = setting s := by
  have h : (fun n => (tabGet Stack.reset (modStack s k f).dram.stk n).posture) =
      fun n => (tabGet Stack.reset s.dram.stk n).posture := by
    funext n
    rw [modStack, tabGet_tabModify]
    split
    · next hn => rw [hf, hn]
    · rfl
  exact congrArg (fun x => { (bedrock s).setting with stk := x }) h

theorem quiet_modBank (n : Nat) (f : BankSt → BankSt) (hf : ∀ x, (f x).refreshing = x.refreshing) :
    quiet (modBank s n f) = quiet s := quiet_of_bedrock (bedrock_modBank s n f hf)

@[simp] theorem setting_setMem (m : Memory) : setting { s with mem := m } = setting s := rfl

@[simp] theorem quiet_sendTo (b : BankIx) (c : SentCmd) : quiet (sendTo s b c) = quiet s := quiet_modStack s _ _ fun _ => rfl

@[simp] theorem quiet_answered (b : BankIx) : quiet (answered s b) = quiet s := quiet_modBank s _ _ fun _ => rfl

@[simp] theorem quiet_closeRow (b : BankIx) : quiet (closeRow s b) = quiet s := by
  unfold closeRow prechargeBank
  split
  · rfl
  · rw [quiet_modBank, quiet_sendTo]
    exact fun _ => rfl

@[simp] theorem quiet_openRowFor (b : BankIx) (l : Nat) : quiet (openRowFor s b l) = quiet s := by
  unfold openRowFor
  split
  · rfl
  · rw [quiet_modBank, quiet_sendTo, quiet_closeRow]
    exact fun _ => rfl

@[simp] theorem quiet_rowAfter (b : BankIx) (l : Nat) (hint : PageHint) : quiet (rowAfter s b l hint) = quiet s :=
  quiet_modBank s _ _ fun _ => rfl

@[simp] theorem quiet_readArray (b : BankIx) (l : Nat) (hint : PageHint) : quiet (readArray s b l hint) = quiet s := by
  rw [readArray, quiet_rowAfter, quiet_sendTo, quiet_openRowFor]

theorem quiet_noteColumn (code : Byte) (ws : List (Nat × Decoded)) (t : Option TenIx) : quiet (noteColumn s code ws t) = quiet s :=
  quiet_of_bedrock (bedrock_noteColumn s code ws t)

theorem quiet_haltSource (src : ReqSource) (rmw : Bool) : quiet (haltSource s src rmw) = quiet s :=
  quiet_of_bedrock (bedrock_haltSource s src rmw)

@[simp] theorem quiet_serveRead (k : StackIx) (q : Queued) : quiet (serveRead s k q) = quiet s := by
  have hserved : ∀ (r : State) b l hint o, quiet (rowAfter (emit r o) b l hint) = quiet r := fun r b l hint o =>
    quiet_rowAfter (emit r o) b l hint
  unfold serveRead
  dsimp only
  split
  · rw [quiet_haltSource, hserved, quiet_noteColumn, quiet_sendTo, quiet_openRowFor]
  · rw [hserved, quiet_noteColumn, quiet_sendTo, quiet_openRowFor]

/-! ### A column written to its array -/

/-- Consecutive stored words, read again. -/
theorem readStored_storedRun (ws : List Stored) (m : Memory) (key j : Nat) :
    readStored (ws.foldl (fun (r : Memory × Nat) w => (writeStored r.1 r.2 w, r.2 + 1)) (m, key)).1 j =
      if key ≤ j then (ws[j - key]?).getD (readStored m j) else readStored m j := by
  induction ws generalizing m key with
  | nil => simp
  | cons w ws ih =>
    rw [List.foldl_cons, ih]
    rcases Nat.lt_trichotomy j key with hlt | rfl | hgt
    · rw [if_neg (by omega), if_neg (by omega), readStored_writeStored_ne _ _ _ _ (by omega)]
    · rw [if_neg (by omega), if_pos le_rfl, readStored_writeStored]; simp
    · rw [if_pos (by omega), if_pos (by omega), readStored_writeStored_ne _ _ _ _ (by omega),
        show j - key = (j - (key + 1)) + 1 by omega, List.getElem?_cons_succ]

theorem setting_storeColumn (x : UnitAt) (l : Nat) (ws : List Stored) : setting (storeColumn s x l ws) = setting s := rfl

theorem storeColumn_mem_congr {r : State} (h : r.mem = s.mem) (x : UnitAt) (l : Nat) (ws : List Stored) :
    (storeColumn r x l ws).mem = (storeColumn s x l ws).mem := by
  rw [storeColumn, h]
  rfl

/-! ### An entry of the write queue goes to its array (R236, R246, R254) -/

section Drain

variable (k : StackIx) (pc : PcIx) (e : WqEntry)

/-- A queued request of the entry's column. -/
def ofEntry (q : Queued) : Bool := reqBank k q.req == entryBank k pc e && reqColumn q.req == entryColumn e

/-- The state in which the entry's column is stored: the reads that came before it are served and its row is open. -/
def entryReady : State :=
  sendTo (openRowFor (((stackOf s k).queue.filter fun q => ofEntry k pc e q && !q.req.write).foldl (fun r q => serveRead r k q) s)
    (entryBank k pc e) (entryColumn e)) (entryBank k pc e) (.write (entryBank k pc e) (entryColumn e) e.data)

/-- The entry's column is in its array, and its requests and the entry itself are gone. -/
def entryStoredState : State :=
  modStack (dropQueued (storeColumn (entryReady s k pc e) (unitAt (entryReady s k pc e) (entryBank k pc e)) (entryColumn e) (entryStored e))
    k (ofEntry k pc e)) k fun x => { x with wq := tabModify [] x.wq pc.val fun es => es.filter fun z => z != e }

theorem drainEntry_eq : ∃ hint, drainEntry s k pc e = rowAfter (entryStoredState s k pc e) (entryBank k pc e) (entryColumn e) hint :=
  ⟨_, rfl⟩

theorem quiet_entryReady : quiet (entryReady s k pc e) = quiet s := by
  rw [entryReady, quiet_sendTo, quiet_openRowFor]
  exact foldl_keeps quiet _ (fun r q => quiet_serveRead r k q) _ s

theorem drainEntry_mem : (drainEntry s k pc e).mem =
    (storeColumn s (unitAt s (entryBank k pc e)) (entryColumn e) (entryStored e)).mem := by
  obtain ⟨hint, h⟩ := drainEntry_eq s k pc e
  have hready := quiet_entryReady s k pc e
  rw [h, rowAfter_mem, ← unitAt_of_setting (setting_of_quiet hready), ← storeColumn_mem_congr s (mem_of_quiet hready)]
  rfl

theorem drainEntry_queue : (stackOf (drainEntry s k pc e) k).queue = (stackOf s k).queue.filter fun q => !ofEntry k pc e q := by
  obtain ⟨hint, h⟩ := drainEntry_eq s k pc e
  rw [h, rowAfter, stackOf_modBank, entryStoredState, stackOf_modStack, if_pos rfl, dropQueued, stackOf_modStack, if_pos rfl,
    ← queue_of_quiet (quiet_entryReady s k pc e)]
  rfl

@[simp] theorem setting_drainEntry : setting (drainEntry s k pc e) = setting s := by
  obtain ⟨hint, h⟩ := drainEntry_eq s k pc e
  have hrow := setting_of_quiet (quiet_rowAfter (entryStoredState s k pc e) (entryBank k pc e) (entryColumn e) hint)
  have hgone : setting (entryStoredState s k pc e) = setting (entryReady s k pc e) := by
    rw [entryStoredState, setting_modStack, dropQueued, setting_modStack, setting_storeColumn]
    · exact fun _ => rfl
    · exact fun _ => rfl
  rw [h, hrow, hgone, setting_of_quiet (quiet_entryReady s k pc e)]

@[simp] theorem drainEntry_units : (drainEntry s k pc e).dram.units = s.dram.units := by
  obtain ⟨hint, h⟩ := drainEntry_eq s k pc e
  rw [h, ← units_of_quiet (quiet_entryReady s k pc e), rowAfter, modBank_dram_units, entryStoredState, modStack_dram_units,
    dropQueued, modStack_dram_units, storeColumn]

end Drain

end Traffic

end Sys2Proof.Machine

/-! ## O45: requests to DRAM (R198, R213, R244 to R248, R250, R254, R255, R283) -/

namespace Sys2Proof.Machine

section DramRequests

variable {s : State} {k : StackIx} {r : DramReq} {e : WqEntry}

/-! ### Columns without a finding -/

theorem deliverColumn_of_clean {ws : List Stored} (h : ∀ w ∈ ws, (decodeWord w).check = .clean) :
    deliverColumn ws = some (bytesOfWords ((ws.map decodeWord).map (·.d))) := by
  have hgood : ((ws.map decodeWord).any fun d => d.check == .uncorrectable) = false := by
    rw [List.any_map]
    exact List.any_eq_false.2 fun w hw => by rw [Function.comp_apply, h w hw]; exact Bool.false_ne_true
  rw [deliverColumn, hgood]
  rfl

theorem decodedFrom_clean (key : Nat) {ws : List Stored} (h : ∀ w ∈ ws, (decodeWord w).check = .clean) :
    ∀ w ∈ decodedFrom key ws, w.2.check = .clean := by
  intro w hw
  obtain ⟨x, hx, rfl⟩ := List.mem_map.1 hw
  exact h x.1 (List.fst_mem_of_mem_zipIdx hx)

/-! ### A write joins its entry or takes one (R254, R283) -/

/-- The stored bytes of a column with the request's bytes in it. -/
def mergedColumn (s : State) (k : StackIx) (r : DramReq) (ws : List Stored) : List Byte :=
  (ws.zipIdx.map fun w => patchWord s (reqKey s k r) r w.2 w.1).flatMap storedBytes

theorem mergedColumn_of_setting {u : State} (h : setting u = setting s) (ws : List Stored) :
    mergedColumn u k r ws = mergedColumn s k r ws := by
  have hpatch : ∀ key i w, patchWord u key r i w = patchWord s key r i w := fun key i w => by
    simp only [patchWord, storedFor_of_setting h]
  simp only [mergedColumn, reqKey_of_setting h, hpatch]

theorem placeWrite_of_queued (h : queuedWrite (stackOf s k) r = some e) (ws : List Stored) :
    placeWrite s k r ws = modStack s k fun y => { y with wq := tabModify [] y.wq r.pc.val fun l => l.map fun z =>
      if z = e then { z with data := mergedColumn s k r ws } else z } := by
  rw [placeWrite, h]
  rfl

theorem placeWrite_of_new (h : queuedWrite (stackOf s k) r = none) (ws : List Stored) :
    placeWrite s k r ws = enqueue (modStack s k fun x => { x with wq := tabModify [] x.wq r.pc.val fun l =>
      l ++ [{ sid := r.sid, bank := r.bank, row := r.row, col := r.col, data := mergedColumn s k r ws }] }) k r := by
  rw [placeWrite, h]
  rfl

theorem placeWrite_mem (ws : List Stored) : (placeWrite s k r ws).mem = s.mem := by
  unfold placeWrite
  dsimp only
  split <;> rfl

theorem queuedWrite_of_quiet {u : State} (h : quiet u = quiet s) (k : StackIx) (r : DramReq) :
    queuedWrite (stackOf u k) r = queuedWrite (stackOf s k) r := by
  rw [queuedWrite, wq_of_quiet h, queuedWrite]

/-- The state in which a narrow write merges: its column has been read, from the array where no entry holds it. -/
def mergeRead (s : State) (k : StackIx) (r : DramReq) : State :=
  let held := (queuedWrite (stackOf s k) r).isSome
  let s0 := if held then s else answered (readArray s (reqBank k r) (reqColumn r) r.hint) (reqBank k r)
  let s1 := noteColumn s0 0x40 (decodedFrom (reqKey s k r) (seenColumn s (reqKey s k r))) (reqTenant s r.src)
  if held then s1 else modStack s1 k fun y => { y with merge := satAdd y.merge 1 }

theorem quiet_mergeRead (s : State) (k : StackIx) (r : DramReq) : quiet (mergeRead s k r) = quiet s := by
  unfold mergeRead
  dsimp only
  split
  · rw [quiet_noteColumn]
  · rw [quiet_modStack, quiet_noteColumn, quiet_answered, quiet_readArray]
    exact fun _ => rfl

/-- A write is taken: an entry holds its column, or there is room for one and no read of a merge must wait. -/
def WriteTaken (s : State) (k : StackIx) (r : DramReq) : Prop :=
  (queuedWrite (stackOf s k) r).isSome = true ∨ ((tabGet [] (stackOf s k).wq r.pc.val).length < 64 ∧
    (r.mask = BitVec.allOnes 32 ∨ accessWaits s r.src (reqBank k r) (reqColumn r) = false))

theorem takeWrite_of_taken (h : WriteTaken s k r) : takeWrite s k r =
    if r.mask == BitVec.allOnes 32 then placeWrite s k r (seenColumn s (reqKey s k r))
    else if mergeFails r (seenColumn s (reqKey s k r)) then haltSource (mergeRead s k r) r.src true
    else placeWrite (mergeRead s k r) k r (seenColumn s (reqKey s k r)) := by
  have hfull : ¬ (!(queuedWrite (stackOf s k) r).isSome && decide (64 ≤ (tabGet [] (stackOf s k).wq r.pc.val).length)) = true := by
    rcases h with h | ⟨h, -⟩
    · simp [h]
    · simp [Nat.not_le.2 h]
  have hwait : ¬ (!(queuedWrite (stackOf s k) r).isSome && !(r.mask == BitVec.allOnes 32) &&
      accessWaits s r.src (reqBank k r) (reqColumn r)) = true := by
    rcases h with h | ⟨-, h | h⟩ <;> simp [h]
  rw [takeWrite]
  dsimp only
  rw [if_neg hfull, if_neg hwait]
  rfl

/-- A write that is taken and merges is placed, over a state that differs in what reading does alone. -/
theorem takeWrite_places (h : WriteTaken s k r) (hmerge : mergeFails r (seenColumn s (reqKey s k r)) = false) :
    ∃ u, quiet u = quiet s ∧ takeWrite s k r = placeWrite u k r (seenColumn s (reqKey s k r)) := by
  rw [takeWrite_of_taken h, hmerge]
  split
  · exact ⟨s, rfl, rfl⟩
  · exact ⟨mergeRead s k r, quiet_mergeRead s k r, rfl⟩

theorem takeWrite_of_full (hnew : queuedWrite (stackOf s k) r = none) (h : 64 ≤ (tabGet [] (stackOf s k).wq r.pc.val).length) :
    takeWrite s k r = s := by
  rw [takeWrite, hnew]
  exact if_pos (by simp [h])

theorem takeWrite_of_waits (hnew : queuedWrite (stackOf s k) r = none) (hroom : (tabGet [] (stackOf s k).wq r.pc.val).length < 64)
    (hnarrow : r.mask ≠ BitVec.allOnes 32) (h : accessWaits s r.src (reqBank k r) (reqColumn r) = true) :
    takeWrite s k r = askBank s (reqBank k r) (some r.src) := by
  rw [takeWrite, hnew]
  exact (if_neg (by simp [Nat.not_le.2 hroom])).trans (if_pos (by rw [beq_false_of_ne hnarrow, h]; rfl))

theorem takeWrite_new (hnew : queuedWrite (stackOf s k) r = none) (htaken : WriteTaken s k r)
    (hmerge : mergeFails r (seenColumn s (reqKey s k r)) = false) :
    (takeWrite s k r).mem = s.mem ∧
      tabGet [] (stackOf (takeWrite s k r) k).wq r.pc.val = tabGet [] (stackOf s k).wq r.pc.val ++
        [{ sid := r.sid, bank := r.bank, row := r.row, col := r.col, data := mergedColumn s k r (seenColumn s (reqKey s k r)) }] ∧
      (stackOf (takeWrite s k r) k).queue = (stackOf s k).queue ++
        [{ req := r, cls := srcClass r.src, since := s.tick, promoted := false }] := by
  obtain ⟨u, hu, heq⟩ := takeWrite_places htaken hmerge
  refine ⟨by rw [heq, placeWrite_mem, mem_of_quiet hu], ?_⟩
  rw [heq, placeWrite_of_new ((queuedWrite_of_quiet hu k r).trans hnew), mergedColumn_of_setting (setting_of_quiet hu), enqueue,
    stackOf_modStack_same, stackOf_modStack_same, modStack_tick, tick_of_quiet hu]
  dsimp only
  rw [tabGet_tabModify, if_pos rfl, wq_of_quiet hu, queue_of_quiet hu]
  exact ⟨rfl, rfl⟩

theorem takeWrite_joins (hentry : queuedWrite (stackOf s k) r = some e)
    (hmerge : mergeFails r (seenColumn s (reqKey s k r)) = false) :
    (takeWrite s k r).mem = s.mem ∧ (stackOf (takeWrite s k r) k).queue = (stackOf s k).queue ∧
      tabGet [] (stackOf (takeWrite s k r) k).wq r.pc.val = (tabGet [] (stackOf s k).wq r.pc.val).map fun z =>
        if z = e then { z with data := mergedColumn s k r (seenColumn s (reqKey s k r)) } else z := by
  obtain ⟨u, hu, heq⟩ := takeWrite_places (.inl (by rw [hentry]; rfl)) hmerge
  refine ⟨by rw [heq, placeWrite_mem, mem_of_quiet hu], ?_⟩
  rw [heq, placeWrite_of_queued ((queuedWrite_of_quiet hu k r).trans hentry), mergedColumn_of_setting (setting_of_quiet hu),
    stackOf_modStack_same]
  dsimp only
  rw [tabGet_tabModify, if_pos rfl, wq_of_quiet hu, queue_of_quiet hu]
  exact ⟨rfl, rfl⟩

/-- One that does not merge halts its source and leaves memory and write queue alone. -/
theorem takeWrite_fails (hnarrow : r.mask ≠ BitVec.allOnes 32) (htaken : WriteTaken s k r)
    (hmerge : mergeFails r (seenColumn s (reqKey s k r)) = true) : quiet (takeWrite s k r) = quiet s := by
  rw [takeWrite_of_taken htaken, if_neg (by simpa using hnarrow), if_pos hmerge, quiet_haltSource, quiet_mergeRead]

theorem exec_dramRequest_write (hrow : r.row.toNat < 0x6000) (hwrite : r.write = true) :
    exec (.dramRequest k r) s = .next (takeWrite s k r) := by
  change execDramRequest k r s = _
  rw [execDramRequest, if_neg (Nat.not_le.2 hrow), if_pos hwrite]

/-! ### Reads as they arrive (R255) -/

theorem exec_dramRequest_reserved (hrow : 0x6000 ≤ r.row.toNat) : exec (.dramRequest k r) s =
    .next (if r.write then s else emit s [.dramData k (some (List.replicate 32 0))]) := by
  change execDramRequest k r s = _
  rw [execDramRequest, if_pos hrow]

theorem exec_dramRequest_read (hrow : r.row.toNat < 0x6000) (hread : r.write = false)
    (hnew : queuedWrite (stackOf s k) r = none) : exec (.dramRequest k r) s = .next (enqueue s k r) := by
  change execDramRequest k r s = _
  rw [execDramRequest, if_neg (Nat.not_le.2 hrow), hread, hnew]
  rfl

theorem exec_dramRequest_forward (hrow : r.row.toNat < 0x6000) (hread : r.write = false)
    (hentry : queuedWrite (stackOf s k) r = some e) (hclean : ∀ w ∈ entryStored e, (decodeWord w).check = .clean) :
    exec (.dramRequest k r) s = .next (emit (modStack s k fun x => { x with fwd := satAdd x.fwd 1 })
      [.dramData k (deliverColumn (entryStored e))]) := by
  have hexec : exec (.dramRequest k r) s = .next (forwardRead s k r e) := by
    change execDramRequest k r s = _
    rw [execDramRequest, if_neg (Nat.not_le.2 hrow), hread, hentry]
    rfl
  rw [hexec, forwardRead, noteColumn_clean _ _ _ (decodedFrom_clean _ hclean), deliverColumn_of_clean hclean]
  rfl

/-! ### Service (R213, R244 to R250) -/

section Serve

variable {n : Nat} {q : Queued}

theorem exec_dramRequestServe_of_not (h : mayServe s k n = false) : exec (.dramRequestServe k n) s = .next s := by
  change execDramRequestServe k n s = _
  unfold execDramRequestServe
  split
  · rfl
  · rw [if_neg (by simp [h])]

theorem exec_dramRequestServe_of_may (h : mayServe s k n = true) (hq : (stackOf s k).queue[n]? = some q) :
    exec (.dramRequestServe k n) s = .next (serveAt s k n q) := by
  change execDramRequestServe k n s = _
  rw [execDramRequestServe, hq]
  exact congrArg _ (if_pos h)

/-- The entry that a request finds is one of its bank and column. -/
theorem entry_of_queuedWrite (h : queuedWrite (stackOf s k) r = some e) :
    entryBank k r.pc e = reqBank k r ∧ entryColumn e = reqColumn r := by
  have hnames := List.find?_some h
  simp only [Bool.and_eq_true, beq_iff_eq] at hnames
  obtain ⟨⟨⟨hsid, hbank⟩, hrow⟩, hcol⟩ := hnames
  rw [entryBank, reqBank, entryColumn, reqColumn, hsid, hbank, hrow, hcol]
  exact ⟨rfl, rfl⟩

theorem serveAt_write (hwrite : q.req.write = true) (hentry : queuedWrite (stackOf s k) q.req = some e) :
    (stackOf (serveAt s k n q) k).queue = ((stackOf s k).queue.filter fun y =>
        !(reqBank k y.req == reqBank k q.req && reqColumn y.req == reqColumn q.req)) ∧
      ∀ key, readStored (serveAt s k n q).mem key =
        if reqKey s k q.req ≤ key then ((entryStored e)[key - reqKey s k q.req]?).getD (readStored s.mem key)
        else readStored s.mem key := by
  obtain ⟨hbank, hcolumn⟩ := entry_of_queuedWrite hentry
  have hserve : serveAt s k n q = drainEntry s k q.req.pc e := by rw [serveAt, if_pos hwrite, hentry]
  rw [hserve, drainEntry_queue, drainEntry_mem, hbank, hcolumn]
  refine ⟨?_, fun key => ?_⟩
  · simp only [ofEntry, hbank, hcolumn]
  · exact readStored_storedRun _ _ _ _

theorem serveAt_gone (hwrite : q.req.write = true) (hentry : queuedWrite (stackOf s k) q.req = none) :
    serveAt s k n q = modStack s k fun x => { x with queue := dropNth n x.queue } := by
  rw [serveAt, if_pos hwrite, hentry]

/-- A read of a column without a finding. -/
theorem serveRead_of_clean {ws : List Stored} (hws : (List.range 4).map (fun i => readStored s.mem (reqKey s k q.req + i)) = ws)
    (hclean : ∀ w ∈ ws, (decodeWord w).check = .clean) : serveRead s k q =
      rowAfter (emit (sendTo (openRowFor s (reqBank k q.req) (reqColumn q.req)) (reqBank k q.req)
        (.read (reqBank k q.req) (reqColumn q.req))) [.dramData k (deliverColumn ws)])
        (reqBank k q.req) (reqColumn q.req) q.req.hint := by
  subst hws
  unfold serveRead
  dsimp only
  rw [show dramKey _ _ _ _ 0 = reqKey s k q.req from rfl, noteColumn_clean _ _ _ (decodedFrom_clean _ hclean)]
  refine if_neg ?_
  rw [deliverColumn_of_clean hclean]
  exact Bool.false_ne_true

theorem openRowFor_out (s : State) (b : BankIx) (l : Nat) : (openRowFor s b l).out = s.out := by
  unfold openRowFor
  split
  · rfl
  · rw [modBank_out, sendTo_out, closeRow]
    split
    · rfl
    · rw [prechargeBank_out, sendTo_out]

theorem serveAt_read (hread : q.req.write = false)
    (hclean : ∀ i, i < 4 → (readWord s (reqKey s k q.req + i)).check = .clean) :
    (stackOf (serveAt s k n q) k).queue = dropNth n (stackOf s k).queue ∧ (serveAt s k n q).mem = s.mem ∧
      (serveAt s k n q).out = s.out ++ [.dramData k (some ((List.range 4).flatMap fun i =>
        leBytes 8 (readWord s (reqKey s k q.req + i)).d.toNat))] := by
  have hserve : serveAt s k n q = serveRead (modStack s k fun x => { x with queue := dropNth n x.queue }) k q := by
    rw [serveAt, hread]
    rfl
  have hkey : reqKey (modStack s k fun x => { x with queue := dropNth n x.queue }) k q.req = reqKey s k q.req :=
    reqKey_of_setting (by apply setting_modStack; exact fun _ => rfl) k q.req
  have hwords : ∀ w ∈ (List.range 4).map fun i => readStored s.mem (reqKey s k q.req + i), (decodeWord w).check = .clean := by
    intro w hw
    obtain ⟨i, hi, rfl⟩ := List.mem_map.1 hw
    exact hclean i (List.mem_range.1 hi)
  have hbytes : deliverColumn ((List.range 4).map fun i => readStored s.mem (reqKey s k q.req + i)) =
      some ((List.range 4).flatMap fun i => leBytes 8 (readWord s (reqKey s k q.req + i)).d.toNat) := by
    rw [deliverColumn_of_clean hwords]
    simp only [bytesOfWords, List.flatMap_map, List.map_map, Function.comp_def, readWord]
  rw [hserve]
  refine ⟨?_, by rw [mem_of_quiet (quiet_serveRead _ k q), modStack_mem], ?_⟩
  · rw [queue_of_quiet (quiet_serveRead _ k q), stackOf_modStack_same]
  · rw [serveRead_of_clean (by rw [hkey, modStack_mem]) hwords, rowAfter_out, emit_out, sendTo_out, openRowFor_out, modStack_out,
      hbytes]

end Serve

/-! ### Promotion and the idle row (R247, R248, R250) -/

section Promotion

variable {n : Nat} {q : Queued} (hq : (stackOf s k).queue[n]? = some q)

/-- Entry `n` of the queue moves to a class, its count started anew (R247). -/
def movedUp (s : State) (n : Nat) (cls : SvcClass) (x : Stack) : Stack :=
  { x with queue := mapNth (fun z => { z with cls := cls, since := s.tick, promoted := cls == .sched }) n x.queue }

/-- The time of a request in its class has reached the limit; a limit of 0 is never reached (R247). -/
def promotionDue (s : State) (q : Queued) (limit : Half) : Bool :=
  limit != 0 && decide (q.since.toNat + 800 * limit.toNat ≤ s.tick.toNat)

theorem promotionDue_of_reached {limit : Half} (hon : limit ≠ 0) (h : q.since.toNat + 800 * limit.toNat ≤ s.tick.toNat) :
    promotionDue s q limit = true := by
  rw [promotionDue, bne_iff_ne.2 hon, decide_eq_true h, Bool.and_self]

theorem promotionDue_of_early {limit : Half} (h : limit = 0 ∨ s.tick.toNat < q.since.toNat + 800 * limit.toNat) :
    promotionDue s q limit = false := by
  rcases h with h | h
  · simp [promotionDue, h]
  · simp [promotionDue, Nat.not_le.2 h]

include hq

theorem exec_requestPromotion_sched (hcls : q.cls = .sched) : exec (.requestPromotion k n) s = .next s := by
  change execRequestPromotion k n s = _
  simp only [execRequestPromotion, hq, hcls]

theorem exec_requestPromotion_host (hcls : q.cls = .host) : exec (.requestPromotion k n) s =
    .next (if promotionDue s q (stackOf s k).ageHost then modStack s k fun x =>
      { movedUp s n .sched x with toSched := satAdd x.toSched 1 } else s) := by
  change execRequestPromotion k n s = _
  simp only [execRequestPromotion, hq, hcls]
  rfl

theorem exec_requestPromotion_net (hcls : q.cls = .net) : exec (.requestPromotion k n) s =
    .next (if promotionDue s q (stackOf s k).ageNet then modStack s k fun x =>
      { movedUp s n .host x with toHost := satAdd x.toHost 1 } else s) := by
  change execRequestPromotion k n s = _
  simp only [execRequestPromotion, hq, hcls]
  rfl

theorem exec_requestPromotion_maint (hcls : q.cls = .maint) : exec (.requestPromotion k n) s =
    .next (if promotionDue s q (stackOf s k).ageMaint then modStack s k fun x =>
      { movedUp s n .net x with toNet := satAdd x.toNet 1 } else s) := by
  change execRequestPromotion k n s = _
  simp only [execRequestPromotion, hq, hcls]
  rfl

end Promotion

theorem exec_rowIdleClose_of_not {b : BankIx} (h : (bankOf s (bankKeyOf b)).keep = false ∨
    s.tick.toNat < (bankOf s (bankKeyOf b)).lastUse.toNat + 800) : exec (.rowIdleClose b) s = .next s := by
  refine congrArg _ (if_neg ?_)
  rcases h with h | h
  · simp [h]
  · simp [Nat.not_le.2 h]

theorem exec_rowIdleClose_of_idle {b : BankIx} (hkeep : (bankOf s (bankKeyOf b)).keep = true)
    (h : (bankOf s (bankKeyOf b)).lastUse.toNat + 800 ≤ s.tick.toNat) : exec (.rowIdleClose b) s = .next (closeRow s b) :=
  congrArg _ (if_pos (by simp [hkeep, h]))

/-- Settles O45: a request is taken by what its column finds in the write queue, a served one by its kind, and a promotion by its
class. -/
theorem dramRequests : Obligations.DramRequests := by
  unfold Obligations.DramRequests
  intro s k r n q e l b _ _
  refine ⟨fun hrow => ⟨fun hwrite => ?_, fun hread => ?_⟩, fun hrow => ⟨exec_dramRequest_read hrow, fun hread hentry hclean => ?_,
    fun hwrite hnew hl => ⟨fun hfull => ?_, fun hroom hnarrow hwaits => ?_, fun hroom hgo hmerge => ?_⟩,
    fun hwrite hentry hl hmerge => ?_, fun hwrite hnarrow hl hgo hmerge => ?_⟩, exec_dramRequestServe_of_not,
    fun hmay hq => ⟨fun hwrite hentry => ?_, fun hwrite hgone => ?_, fun hread hclean => ?_⟩,
    fun hq => ⟨exec_requestPromotion_sched hq, fun hcls hearly => ?_, fun hcls hon hdue => ?_, fun hcls hon hdue => ?_,
      fun hcls hon hdue => ?_⟩, exec_rowIdleClose_of_not, fun hkeep hidle => ?_⟩
  · rw [exec_dramRequest_reserved hrow, if_pos hwrite]
  · rw [exec_dramRequest_reserved hrow, hread]; rfl
  · refine ⟨_, exec_dramRequest_forward hrow hread hentry hclean, rfl, ?_, ?_, rfl⟩
    · rw [stackOf_emit, stackOf_modStack_same]
    · rw [stackOf_emit, stackOf_modStack_same]
  · subst hl
    rw [exec_dramRequest_write hrow hwrite, takeWrite_of_full hnew hfull]
  · subst hl
    rw [exec_dramRequest_write hrow hwrite, takeWrite_of_waits hnew hroom hnarrow hwaits]
  · subst hl
    obtain ⟨hmem, hwq, hqueue⟩ := takeWrite_new hnew (.inr ⟨hroom, hgo⟩) hmerge
    exact ⟨_, exec_dramRequest_write hrow hwrite, hmem, hwq, hqueue⟩
  · subst hl
    obtain ⟨hmem, hqueue, hwq⟩ := takeWrite_joins hentry hmerge
    exact ⟨_, exec_dramRequest_write hrow hwrite, hmem, hqueue, hwq⟩
  · subst hl
    have hquiet := takeWrite_fails hnarrow (hgo.imp id fun h => ⟨h.1, .inr h.2⟩) hmerge
    exact ⟨_, exec_dramRequest_write hrow hwrite, mem_of_quiet hquiet, by rw [wq_of_quiet hquiet]⟩
  · obtain ⟨hqueue, hread⟩ := serveAt_write hwrite hentry
    refine ⟨_, exec_dramRequestServe_of_may hmay hq, hqueue, fun i w hw => ?_, fun key hkey => ?_⟩
    · rw [hread, if_pos (Nat.le_add_right _ i), Nat.add_sub_cancel_left, hw, Option.getD_some]
    · rw [hread]
      split
      · rw [List.getElem?_eq_none (by rw [entryStored, storedList, List.length_map, List.length_range]; omega), Option.getD_none]
      · rfl
  · rw [exec_dramRequestServe_of_may hmay hq, serveAt_gone hwrite hgone]
  · obtain ⟨hqueue, hmem, hout⟩ := serveAt_read hread hclean
    exact ⟨_, exec_dramRequestServe_of_may hmay hq, hqueue, hmem, hout⟩
  · rw [exec_requestPromotion_maint hq hcls, promotionDue_of_early hearly]; rfl
  · rw [exec_requestPromotion_maint hq hcls, if_pos (promotionDue_of_reached hon hdue)]; rfl
  · rw [exec_requestPromotion_net hq hcls, if_pos (promotionDue_of_reached hon hdue)]; rfl
  · rw [exec_requestPromotion_host hq hcls, if_pos (promotionDue_of_reached hon hdue)]; rfl
  · exact ⟨_, exec_rowIdleClose_of_idle hkeep hidle, closeRow_closes s b, closeRow_mem s b,
      queue_of_quiet (quiet_closeRow s b) b.stack⟩

end DramRequests
end Sys2Proof.Machine

/-! ## O47: the rake pass, log clears and the spare fill (R204, R289, R290, R293, R294, R296, R450) -/

namespace Sys2Proof.Machine

section Rake

variable {s : State} {key : Nat}

/-! ### Where a word lies -/

/-- The keys from 2 ^ 40 on, and they alone, are words of DRAM. -/
theorem isDram_iff (k : Nat) : isDram k = true ↔ ∃ st d b l w, placeOf k = .dram st d b l w := by
  unfold isDram placeOf
  refine ⟨fun h => ?_, ?_⟩
  · have h := of_decide_eq_true h
    rw [if_neg (by omega), if_neg (by omega), if_neg (by omega), if_neg (by omega)]
    exact ⟨_, _, _, _, _, rfl⟩
  · rintro ⟨st, d, b, l, w, h⟩
    refine decide_eq_true (Nat.not_lt.1 fun hk => ?_)
    split at h
    · cases h
    · split at h
      · cases h
      · split at h
        · cases h
        · cases h

theorem bankOfKey_of_not_dram (h : isDram key = false) : bankOfKey s key = none := by
  unfold bankOfKey
  split
  · next hplace => exact absurd ((isDram_iff key).2 ⟨_, _, _, _, _, hplace⟩) (by simp [h])
  · rfl

theorem isDram_of_bank {b : BankIx} (h : bankOfKey s key = some b) : isDram key = true :=
  Bool.eq_true_of_not_eq_false fun hk => by rw [bankOfKey_of_not_dram hk] at h; cases h

theorem isDram_of_log {l a : Nat} (h : placeOf key = .log l a) : isDram key = false :=
  Bool.eq_false_of_not_eq_true fun hk => by
    obtain ⟨_, _, _, _, _, hplace⟩ := (isDram_iff key).1 hk
    cases h.symm.trans hplace

/-- A word that exists, in no bank in service, is none of DRAM. -/
theorem isDram_of_exists (hexists : keyExists s key = true) (hbank : bankOfKey s key = none) : isDram key = false :=
  Bool.eq_false_of_not_eq_true fun hk => by
    obtain ⟨_, _, _, _, _, hplace⟩ := (isDram_iff key).1 hk
    rw [keyExists, hplace] at hexists
    simp [hbank] at hexists

/-- Words of pans, of quadrants and of the cores' memories lie below the logs. -/
theorem placeOf_below_logs (h : key < 2 ^ 39 + 2 ^ 30) : isDram key = false ∧ ∀ l a, placeOf key ≠ .log l a := by
  refine ⟨decide_eq_false (by omega), fun l a hplace => ?_⟩
  unfold placeOf at hplace
  split at hplace
  · cases hplace
  · split at hplace
    · cases hplace
    · cases hplace

theorem wordTested_of_log {l a : Nat} (h : placeOf key = .log l a) : wordTested s key = false := by
  unfold wordTested
  split
  · next hplace => cases h.symm.trans hplace
  · next hplace => cases h.symm.trans hplace
  · next hplace => cases h.symm.trans hplace
  · rfl

theorem rakeWords_of_dram (h : isDram key = true) : rakeWords s key = readWords s (key / 4 * 4) 4 := by
  unfold rakeWords
  split
  · next hplace => exact absurd (isDram_of_log hplace) (by simp [h])
  · rw [if_pos h]

theorem rakeWords_of_log {l a : Nat} (h : placeOf key = .log l a) : rakeWords s key = [(key, decodeWord (logStored s l a))] := by
  rw [rakeWords, h]

theorem rakeWords_of_sram (h : key < 2 ^ 39 + 2 ^ 30) : rakeWords s key = [(key, readWord s key)] := by
  obtain ⟨hdram, hlog⟩ := placeOf_below_logs h
  unfold rakeWords
  split
  · next hplace => exact absurd hplace (hlog _ _)
  · rw [if_neg (by simp [hdram])]; rfl

theorem storedFor_of_disarmed (h : s.log.injArm = false) (k : Nat) (d : Dword) : storedFor s k d = encodeWord d := by
  rw [storedFor, injHits, h]
  rfl

/-! ### What one read finds (R293, R294) -/

section Words

variable {ws : List (Nat × Decoded)}

theorem no_uncorrectable_of_clean (h : ∀ w ∈ ws, w.2.check = .clean) :
    (ws.filter fun w => w.2.check == .uncorrectable) = [] :=
  List.filter_eq_nil_iff.2 fun w hw => by rw [h w hw]; exact Bool.false_ne_true

theorem fixable_of_clean (h : ∀ w ∈ ws, w.2.check = .clean) : fixable ws = [] := by
  have hnone : (ws.filter fun w => match w.2.check with | .corrected _ => true | _ => false) = [] :=
    List.filter_eq_nil_iff.2 fun w hw => by rw [h w hw]; exact Bool.false_ne_true
  unfold fixable
  split
  · rfl
  · exact hnone

theorem rakeRewrite_of_clean (s : State) (h : ∀ w ∈ ws, w.2.check = .clean) : rakeRewrite s ws = s := by
  rw [rakeRewrite, fixable_of_clean h]
  rfl

theorem rakeFix_of_clean (s : State) (h : ∀ w ∈ ws, w.2.check = .clean) : rakeFix s ws = s := by
  rw [rakeFix, fixable_of_clean h]
  rfl

theorem rakeBad_of_no_bad (s : State) (h : (ws.filter fun w => w.2.check == .uncorrectable) = []) : rakeBad s ws = s := by
  rw [rakeBad, h]
  rfl

/-- What the rake pass makes of the words it has read, `note` taking its other findings. -/
def rakeFound (s : State) (ws : List (Nat × Decoded)) (note : State → List (Nat × Decoded) → State) : State :=
  rakeFix (rakeBad (note (rakeRewrite s ws) ws) ws) ws

/-- Clean words leave the state to the notes alone. -/
theorem rakeFound_of_clean {note : State → List (Nat × Decoded) → State} (h : ∀ w ∈ ws, w.2.check = .clean)
    (hnote : note s ws = s) : rakeFound s ws note = s := by
  rw [rakeFound, rakeRewrite_of_clean s h, hnote, rakeBad_of_no_bad s (no_uncorrectable_of_clean h), rakeFix_of_clean s h]

/-- A word that the pass corrected: rewritten, logged as an event and counted. -/
def rakeCorrected (s : State) (key : Nat) (dec : Decoded) : State :=
  let written := rakeWrite s key dec.d
  let noted := logEvent written 0x74 ((errDetail written key dec.syn 0xFF).take 8) none
  { noted with log := { noted.log with rakeFixed := satAdd noted.log.rakeFixed 1 } }

theorem rakeFound_of_corrected {dec : Decoded} {bit : Nat} {note : State → List (Nat × Decoded) → State}
    (h : dec.check = .corrected bit) (hnote : ∀ r, note r [(key, dec)] = r) :
    rakeFound s [(key, dec)] note = rakeCorrected s key dec := by
  have hfix : fixable [(key, dec)] = [(key, dec)] := by simp [fixable, h]
  have hbad : ([(key, dec)].filter fun w => w.2.check == .uncorrectable) = [] := by simp [h]
  rw [rakeFound, rakeRewrite, hfix, hnote, rakeBad_of_no_bad _ hbad, rakeFix, hfix]
  rfl

end Words

/-! ### One step of the pass -/

section Step

variable {note : State → List (Nat × Decoded) → State}

theorem rakeStep_of_tested (h : wordTested s key = true) : rakeStep s key note = none := by
  rw [rakeStep, if_pos h]

theorem rakeStep_of_word (ht : wordTested s key = false) (hd : isDram key = false) :
    rakeStep s key note = some (rakeFound s (rakeWords s key) note) := by
  rw [rakeStep, if_neg (by simp [ht]), bankOfKey_of_not_dram hd]
  exact if_neg (by simp [hd])

theorem rakeStep_of_idle_spare (ht : wordTested s key = false) (hd : isDram key = true) (hb : bankOfKey s key = none) :
    rakeStep s key note = some s := by
  rw [rakeStep, if_neg (by simp [ht]), hb]
  exact if_pos hd

variable {b : BankIx} (ht : wordTested s key = false) (hb : bankOfKey s key = some b)

include ht hb

theorem rakeStep_of_unfit (h : scrubFits s b = false) : rakeStep s key note = none := by
  rw [rakeStep, if_neg (by simp [ht]), hb]
  exact if_pos (by simp [h])

/-- The bank made ready for a CHECK: its queued columns written, and its row closed, or every row of a pseudo-channel that enters
pond mode for it (R196, R236, R251). -/
def checkReady (s : State) (b : BankIx) : State :=
  if pondOn s b.stack (bankSeg b).pc then prepareBanks s [b]
  else (pcBanks b.stack (bankSeg b).pc).foldl closeRow (prepareBanks s [b])

omit ht hb in
theorem arriveColumn_of_disarmed (h : s.log.injArm = false) (g : SegIx) (bs : List Byte) : arriveColumn s g bs = some bs := by
  rw [arriveColumn, h]
  rfl

omit ht hb in
theorem prepareBanks_of_no_entries (h : bankEntries s b = []) : prepareBanks s [b] = closeRow s b := by
  rw [prepareBanks, List.foldl_cons, List.foldl_nil, drainBank, h, List.foldl_nil]

omit ht hb in
theorem checkReady_keeps {β : Type} (g : State → β) (hg : ∀ r c, g (closeRow r c) = g r) (h : bankEntries s b = []) :
    g (checkReady s b) = g s := by
  unfold checkReady
  split
  · rw [prepareBanks_of_no_entries h, hg]
  · rw [foldl_keeps g closeRow hg, prepareBanks_of_no_entries h, hg]

omit ht hb in
@[simp] theorem closeRow_log (s : State) (b : BankIx) : (closeRow s b).log = s.log := by
  rw [closeRow]; split <;> rfl

theorem rakeStep_of_check (hfits : scrubFits s b = true) (harm : s.log.injArm = false) (hentries : bankEntries s b = []) :
    rakeStep s key note = some (rakeFound (scrubUnit (checkReady s b) b (key / 4 % 2 ^ 20) (rakeWords (checkReady s b) key))
      (rakeWords (checkReady s b) key) note) := by
  have hcolumn : ∀ g bs, arriveColumn (checkReady s b) g bs = some bs :=
    arriveColumn_of_disarmed (by rw [checkReady_keeps State.log closeRow_log hentries, harm])
  rw [rakeStep, if_neg (by simp [ht]), hb]
  refine (if_neg (by simp [hfits])).trans (if_neg ?_)
  rw [show (if pondOn s b.stack (bankSeg b).pc then _ else _) = checkReady s b from rfl, hcolumn]
  simp

end Step

/-! ### What a CHECK leaves (R204, R210, R227) -/

section Scrub

variable (s : State) (b : BankIx) (l : Nat) (ws : List (Nat × Decoded))

theorem scrubUnit_mem : (scrubUnit s b l ws).mem = s.mem := by
  unfold scrubUnit notePeak noteSent
  dsimp only
  rw [modUnit_mem, modStack_mem, modUnit_mem]
  dsimp only
  rw [modStack_mem, modStack_mem]

theorem scrubUnit_log : (scrubUnit s b l ws).log = s.log := by
  unfold scrubUnit notePeak noteSent
  dsimp only
  rw [modUnit_log, modStack_log, modUnit_log]
  dsimp only
  rw [modStack_log, modStack_log]

omit b l ws in
theorem notePeak_cmds (st : StackIx) (d : Nat) (k : StackIx) : (stackOf (notePeak s st d) k).cmds = (stackOf s k).cmds := by
  unfold notePeak
  dsimp only
  rw [stackOf_modStack]
  split
  · next hk =>
    subst hk
    split <;> rfl
  · rfl

omit b l ws in
theorem noteSent_cmds (st : StackIx) (q : PcIx) (c : SentCmd) (k : StackIx) :
    (stackOf (noteSent s st q c) k).cmds = (stackOf s k).cmds := by
  rw [noteSent, stackOf_modStack]
  split
  · next hk => rw [hk]
  · rfl

omit b l ws in
theorem stackOf_setTags (t : Tab Nat) (k : StackIx) : stackOf { s with dram := { s.dram with tags := t } } k = stackOf s k := rfl

omit b l ws in
theorem stackOf_modUnit (n : Nat) (f : Machine.Unit → Machine.Unit) (k : StackIx) : stackOf (modUnit s n f) k = stackOf s k := rfl

theorem scrubUnit_cmds : (stackOf (scrubUnit s b l ws) b.stack).cmds = (stackOf s b.stack).cmds + 1 := by
  unfold scrubUnit
  dsimp only
  rw [stackOf_modUnit, notePeak_cmds, stackOf_modUnit, stackOf_setTags, noteSent_cmds]
  exact congrArg Stack.cmds (stackOf_modStack_same s b.stack _)

theorem scrubUnit_unit : (unitOf (scrubUnit s b l ws) (unitAt s b).key).lop = 12 ∧
    (unitOf (scrubUnit s b l ws) (unitAt s b).key).stat = if ws.any fun w => w.2.check == .uncorrectable then 0xA else 0 := by
  unfold scrubUnit
  dsimp only
  rw [unitOf_modUnit, if_pos rfl]
  exact ⟨rfl, rfl⟩

end Scrub

/-! ### The two actions of the pass -/

section Actions

variable {rest : List Nat} {last : Bool} {ws : List (Nat × Decoded)}

/-- The oldest address is taken from the list. -/
def rakeTaken (s : State) (rest : List Nat) : State := { s with log := { s.log with rakePending := rest } }

/-- The last word of a sweep counts it. -/
def sweepCounted (s : State) (last : Bool) : State :=
  { s with log := { s.log with rakeSweeps := if last then s.log.rakeSweeps + 1 else s.log.rakeSweeps } }

/-- What a rewrite records of the words beside the one it takes. -/
def rewriteNote (key : Nat) (rest : List Nat) (r : State) (ws : List (Nat × Decoded)) : State :=
  noteColumn r 0x71 (ws.filter fun w => w.1 != key && !rest.contains w.1 && w.2.check != .uncorrectable) none

/-- What the sweep records of the words it reads. -/
def sweepNote (key : Nat) (r : State) (ws : List (Nat × Decoded)) : State :=
  let good := ws.filter fun w => w.2.check != .uncorrectable
  if isDram key then noteColumn r 0x71 good none else noteWords r 0x71 good none

theorem exec_rakeTargetedRewrite (hp : s.log.rakePending = key :: rest) (hen : s.log.rakeEn = true) :
    exec .rakeTargetedRewrite s = .next ((rakeStep (rakeTaken s rest) key (rewriteNote key rest)).getD s) := by
  change execRakeTargetedRewrite s = _
  rw [execRakeTargetedRewrite, hp, hen]
  rfl

theorem exec_rakeSweep (hen : s.log.rakeEn = true) (hsweep : s.log.rakeSweep = true) (hexists : keyExists s key = true) :
    exec (.rakeSweep key last) s = .next (((rakeStep s key (sweepNote key)).map (sweepCounted · last)).getD s) := by
  change execRakeSweep key last s = _
  rw [execRakeSweep, hen, hsweep, hexists]
  rw [Bool.not_true, Bool.false_or, Bool.false_or, if_neg Bool.false_ne_true]
  cases h : rakeStep s key (sweepNote key) with
  | none => exact congrArg _ (by unfold sweepNote at h; rw [h]; rfl)
  | some r => exact congrArg _ (by unfold sweepNote at h; rw [h]; rfl)

theorem exec_rakeTargetedRewrite_disabled (hen : s.log.rakeEn = false) : exec .rakeTargetedRewrite s = .next s := by
  change execRakeTargetedRewrite s = _
  rw [execRakeTargetedRewrite, hen]
  split <;> rfl

theorem exec_rakeTargetedRewrite_nothing (hp : s.log.rakePending = []) : exec .rakeTargetedRewrite s = .next s := by
  change execRakeTargetedRewrite s = _
  rw [execRakeTargetedRewrite, hp]

theorem exec_rakeSweep_none (h : (!s.log.rakeEn || !s.log.rakeSweep || !keyExists s key) = true) :
    exec (.rakeSweep key last) s = .next s := by
  change execRakeSweep key last s = _
  rw [execRakeSweep, if_pos h]

theorem rewriteNote_clean (h : ∀ w ∈ ws, w.2.check = .clean) (r : State) : rewriteNote key rest r ws = r :=
  noteColumn_clean r 0x71 none fun w hw => h w (List.mem_filter.1 hw).1

theorem rewriteNote_own (dec : Decoded) (r : State) : rewriteNote key rest r [(key, dec)] = r := by
  refine noteColumn_clean r 0x71 none fun w hw => ?_
  simp only [List.mem_filter, List.mem_singleton] at hw
  obtain ⟨rfl, hw⟩ := hw
  simp at hw

theorem sweepNote_clean (h : ∀ w ∈ ws, w.2.check = .clean) (r : State) : sweepNote key r ws = r := by
  have hgood : ∀ w ∈ ws.filter fun w => w.2.check != .uncorrectable, w.2.check = .clean := fun w hw =>
    h w (List.mem_filter.1 hw).1
  unfold sweepNote
  dsimp only
  split
  · exact noteColumn_clean r 0x71 none hgood
  · exact noteWords_clean r 0x71 _ none hgood

/-! ### Words and columns, one by one -/

theorem rewrite_of_tested (ht : wordTested s key = true) (hp : s.log.rakePending = key :: rest) :
    exec .rakeTargetedRewrite s = .next s := by
  cases hen : s.log.rakeEn
  · exact exec_rakeTargetedRewrite_disabled hen
  · rw [exec_rakeTargetedRewrite hp hen, rakeStep_of_tested (s := rakeTaken s rest) ht]
    rfl

theorem sweep_of_tested (ht : wordTested s key = true) : exec (.rakeSweep key last) s = .next s := by
  cases h : !s.log.rakeEn || !s.log.rakeSweep || !keyExists s key
  · simp only [Bool.or_eq_false_iff, Bool.not_eq_false'] at h
    rw [exec_rakeSweep h.1.1 h.1.2 h.2, rakeStep_of_tested ht]
    rfl
  · exact exec_rakeSweep_none h

theorem rewrite_of_clean (hp : s.log.rakePending = key :: rest) (hen : s.log.rakeEn = true) (ht : wordTested s key = false)
    (hd : isDram key = false) (h : ∀ w ∈ rakeWords s key, w.2.check = .clean) :
    exec .rakeTargetedRewrite s = .next (rakeTaken s rest) := by
  have hword : rakeStep (rakeTaken s rest) key (rewriteNote key rest) = some (rakeTaken s rest) := by
    rw [rakeStep_of_word (s := rakeTaken s rest) ht hd,
      rakeFound_of_clean (ws := rakeWords (rakeTaken s rest) key) h (rewriteNote_clean h _)]
  rw [exec_rakeTargetedRewrite hp hen, hword]
  rfl

theorem rewrite_of_corrected {dec : Decoded} {bit : Nat} (hp : s.log.rakePending = key :: rest) (hen : s.log.rakeEn = true)
    (ht : wordTested s key = false) (hd : isDram key = false) (hwords : rakeWords s key = [(key, dec)])
    (h : dec.check = .corrected bit) :
    exec .rakeTargetedRewrite s = .next (rakeCorrected (rakeTaken s rest) key dec) := by
  have hwords' : rakeWords (rakeTaken s rest) key = [(key, dec)] := hwords
  have hword : rakeStep (rakeTaken s rest) key (rewriteNote key rest) = some (rakeCorrected (rakeTaken s rest) key dec) := by
    rw [rakeStep_of_word (s := rakeTaken s rest) ht hd, hwords', rakeFound_of_corrected h (rewriteNote_own dec)]
  rw [exec_rakeTargetedRewrite hp hen, hword]
  rfl

theorem sweep_of_clean (hen : s.log.rakeEn = true) (hsweep : s.log.rakeSweep = true) (hexists : keyExists s key = true)
    (ht : wordTested s key = false) (hb : bankOfKey s key = none) (h : ∀ w ∈ rakeWords s key, w.2.check = .clean) :
    exec (.rakeSweep key last) s = .next (sweepCounted s last) := by
  rw [exec_rakeSweep hen hsweep hexists, rakeStep_of_word ht (isDram_of_exists hexists hb),
    rakeFound_of_clean h (sweepNote_clean h _)]
  rfl

theorem rewrite_of_idle_spare (hp : s.log.rakePending = key :: rest) (hen : s.log.rakeEn = true) (ht : wordTested s key = false)
    (hd : isDram key = true) (hb : bankOfKey s key = none) : exec .rakeTargetedRewrite s = .next (rakeTaken s rest) := by
  rw [exec_rakeTargetedRewrite hp hen, rakeStep_of_idle_spare (s := rakeTaken s rest) ht hd hb]
  rfl

theorem rakeCorrected_rakePending (dec : Decoded) :
    (rakeCorrected s key dec).log.rakePending = (rakeWrite s key dec.d).log.rakePending := by
  unfold rakeCorrected
  dsimp only
  rw [logEvent_log_rakePending]

theorem rakeCorrected_rakeFixed (dec : Decoded) :
    (rakeCorrected s key dec).log.rakeFixed = satAdd (rakeWrite s key dec.d).log.rakeFixed 1 := by
  unfold rakeCorrected
  dsimp only
  rw [logEvent_log_rakeFixed]

theorem rakeCorrected_mem (dec : Decoded) : (rakeCorrected s key dec).mem = (rakeWrite s key dec.d).mem := by
  unfold rakeCorrected
  dsimp only
  rw [logEvent_mem]

theorem rakeCorrected_errors (dec : Decoded) : (rakeCorrected s key dec).log.errors = (rakeWrite s key dec.d).log.errors := by
  unfold rakeCorrected
  dsimp only
  rw [logEvent_log_errors]

theorem rakeWrite_of_word (d : Dword) (h : ∀ l a, placeOf key ≠ .log l a) : rakeWrite s key d = writeWord s key d := by
  unfold rakeWrite
  split
  · next hplace => exact absurd hplace (h _ _)
  · rfl

theorem rakeWrite_of_log {l a : Nat} (d : Dword) (h : placeOf key = .log l a) : rakeWrite s key d = writeLogWord s l a d := by
  rw [rakeWrite, h]

/-- A corrected word of SRAM, back in its memory whole. -/
theorem rewrite_sram {bit : Nat} (hp : s.log.rakePending = key :: rest) (hen : s.log.rakeEn = true) (hk : key < 2 ^ 39 + 2 ^ 30)
    (ht : wordTested s key = false) (harm : s.log.injArm = false) (h : (readWord s key).check = .corrected bit) :
    ∃ u, exec .rakeTargetedRewrite s = .next u ∧ u.log.rakePending = rest ∧ u.log.rakeFixed = satAdd s.log.rakeFixed 1 ∧
      readStored u.mem key = encodeWord (readWord s key).d ∧ ∀ k, k ≠ key → readStored u.mem k = readStored s.mem k := by
  obtain ⟨hdram, hlog⟩ := placeOf_below_logs hk
  refine ⟨_, rewrite_of_corrected hp hen ht hdram (rakeWords_of_sram hk) h, ?_, ?_, ?_, fun k hne => ?_⟩
  · rw [rakeCorrected_rakePending, rakeWrite_of_word _ hlog]; rfl
  · rw [rakeCorrected_rakeFixed, rakeWrite_of_word _ hlog]; rfl
  · rw [rakeCorrected_mem, rakeWrite_of_word _ hlog, writeWord, readStored_writeStored]
    exact storedFor_of_disarmed (s := rakeTaken s rest) harm _ _
  · rw [rakeCorrected_mem, rakeWrite_of_word _ hlog, writeWord, readStored_writeStored_ne _ _ _ _ hne]; rfl

/-! ### A word of the error log -/

theorem storedList_flatMap_storedBytes (ws : List Stored) : storedList ws.length (ws.flatMap storedBytes) = ws := by
  induction ws with
  | nil => rfl
  | cons w ws ih =>
    have hlen := storedBytes_length w
    have hfirst : readStored (tabSetList 0 [] 0 (storedBytes w)) 0 = w := readStored_writeStored [] 0 w
    have hrest : ∀ i, (storedBytes w ++ ws.flatMap storedBytes).drop (10 * (i + 1)) = (ws.flatMap storedBytes).drop (10 * i) :=
      fun i => by rw [Nat.mul_succ, Nat.add_comm, ← List.drop_drop, List.drop_left' hlen]
    unfold storedList at ih
    rw [storedList, List.length_cons, List.range_succ_eq_map, List.map_cons, List.map_map, List.flatMap_cons]
    refine congrArg₂ _ ?_ ?_
    · rw [Nat.mul_zero, List.drop_zero, List.take_left' hlen, hfirst]
    · refine Eq.trans (List.map_congr_left fun i _ => ?_) ih
      rw [Function.comp_apply, Nat.succ_eq_add_one, hrest]

theorem logStored_writeLogWord (a : Nat) (d : Dword) : logStored (writeLogWord s 0 a d) 0 a = encodeWord d := by
  have hlen : ∀ e : LogEntry, ((storedList 4 e.stored).set (a / 8 % 4) (encodeWord d)).length = 4 := fun e => by simp [storedList]
  have hlist : ∀ e : LogEntry, storedList 4 (((storedList 4 e.stored).set (a / 8 % 4) (encodeWord d)).flatMap storedBytes) =
      (storedList 4 e.stored).set (a / 8 % 4) (encodeWord d) := fun e => by
    have h := storedList_flatMap_storedBytes ((storedList 4 e.stored).set (a / 8 % 4) (encodeWord d))
    rwa [hlen] at h
  unfold logStored writeLogWord
  simp only [if_true, tabGet_tabModify, hlist]
  rw [List.getD_eq_getElem _ _ (by rw [hlen]; omega), List.getElem_set_self]

theorem rewrite_log {a bit : Nat} (hp : s.log.rakePending = key :: rest) (hen : s.log.rakeEn = true) (hk : placeOf key = .log 0 a)
    (h : (decodeWord (logStored s 0 a)).check = .corrected bit) :
    ∃ u, exec .rakeTargetedRewrite s = .next u ∧ u.log.rakePending = rest ∧ u.log.rakeFixed = satAdd s.log.rakeFixed 1 ∧
      logStored u 0 a = encodeWord (decodeWord (logStored s 0 a)).d ∧ u.mem = s.mem := by
  have hwritten := rakeWrite_of_log (s := rakeTaken s rest) (decodeWord (logStored s 0 a)).d hk
  refine ⟨_, rewrite_of_corrected hp hen (wordTested_of_log hk) (isDram_of_log hk) (rakeWords_of_log hk) h, ?_, ?_, ?_, ?_⟩
  · rw [rakeCorrected_rakePending, hwritten]; rfl
  · rw [rakeCorrected_rakeFixed, hwritten]; rfl
  · rw [← logStored_writeLogWord (s := rakeTaken s rest) a, ← hwritten]
    unfold logStored
    rw [if_pos rfl, rakeCorrected_errors]
    rfl
  · rw [rakeCorrected_mem, hwritten]; rfl

/-! ### A column, by a CHECK -/

section Check

variable {b : BankIx} (hb : bankOfKey s key = some b) (ht : wordTested s key = false)

include hb ht

theorem rewrite_of_unfit (hp : s.log.rakePending = key :: rest) (hen : s.log.rakeEn = true) (hfits : scrubFits s b = false) :
    exec .rakeTargetedRewrite s = .next s := by
  rw [exec_rakeTargetedRewrite hp hen, rakeStep_of_unfit (s := rakeTaken s rest) ht hb hfits]
  rfl

theorem sweep_of_unfit (hen : s.log.rakeEn = true) (hsweep : s.log.rakeSweep = true) (hexists : keyExists s key = true)
    (hfits : scrubFits s b = false) : exec (.rakeSweep key last) s = .next s := by
  rw [exec_rakeSweep hen hsweep hexists, rakeStep_of_unfit ht hb hfits]
  rfl

variable (hfits : scrubFits s b = true) (harm : s.log.injArm = false) (hentries : bankEntries s b = [])
  (hclean : ∀ w ∈ rakeWords s key, w.2.check = .clean)

/-- A column read clean by a CHECK. -/
def checkedClean (s : State) (b : BankIx) (key : Nat) : State :=
  scrubUnit (checkReady s b) b (key / 4 % 2 ^ 20) (rakeWords (checkReady s b) key)

omit ht in
include hentries in
theorem rakeWords_checkReady : rakeWords (checkReady s b) key = rakeWords s key := by
  have hmem : (checkReady s b).mem = s.mem := checkReady_keeps State.mem closeRow_mem hentries
  have hwords : ∀ k n, readWords (checkReady s b) k n = readWords s k n := fun k n => by
    simp only [readWords, readWord, hmem]
  rw [rakeWords_of_dram (isDram_of_bank hb), rakeWords_of_dram (isDram_of_bank hb), hwords]

include hfits harm hentries hclean

theorem rakeStep_of_clean_check {note : State → List (Nat × Decoded) → State}
    (hnote : ∀ ws, (∀ w ∈ ws, w.2.check = .clean) → ∀ r, note r ws = r) :
    rakeStep s key note = some (checkedClean s b key) := by
  have hwords : ∀ w ∈ rakeWords (checkReady s b) key, w.2.check = .clean := by rwa [rakeWords_checkReady hb hentries]
  rw [rakeStep_of_check ht hb hfits harm hentries, rakeFound_of_clean hwords (hnote _ hwords _)]
  rfl

omit ht hfits harm in
/-- What such a CHECK leaves. -/
theorem checkedClean_spec : (checkedClean s b key).log = s.log ∧ (checkedClean s b key).mem = s.mem ∧
    (unitOf (checkedClean s b key) (unitAt s b).key).lop = 12 ∧ (unitOf (checkedClean s b key) (unitAt s b).key).stat = 0 ∧
    (stackOf (checkedClean s b key) b.stack).cmds = (stackOf s b.stack).cmds + 1 := by
  have hunit : unitAt (checkReady s b) b = unitAt s b :=
    checkReady_keeps (fun r => unitAt r b) (fun r c => unitAt_of_setting (setting_of_quiet (quiet_closeRow r c)) b) hentries
  have hcmds : (stackOf (checkReady s b) b.stack).cmds = (stackOf s b.stack).cmds :=
    checkReady_keeps (fun r => (stackOf r b.stack).cmds)
      (fun r c => (congrArg Stack.cmds (stackOf_of_quiet (quiet_closeRow r c) b.stack) :)) hentries
  have hue : ((rakeWords (checkReady s b) key).any fun w => w.2.check == .uncorrectable) = false := by
    rw [rakeWords_checkReady hb hentries]
    exact List.any_eq_false.2 fun w hw => by rw [hclean w hw]; exact Bool.false_ne_true
  obtain ⟨hlop, hstat⟩ := scrubUnit_unit (checkReady s b) b (key / 4 % 2 ^ 20) (rakeWords (checkReady s b) key)
  rw [hunit] at hlop hstat
  rw [hue] at hstat
  refine ⟨?_, ?_, hlop, hstat, ?_⟩
  · rw [checkedClean, scrubUnit_log, checkReady_keeps State.log closeRow_log hentries]
  · rw [checkedClean, scrubUnit_mem, checkReady_keeps State.mem closeRow_mem hentries]
  · rw [checkedClean, scrubUnit_cmds, hcmds]

theorem rewrite_of_clean_check (hp : s.log.rakePending = key :: rest) (hen : s.log.rakeEn = true) :
    ∃ u, exec .rakeTargetedRewrite s = .next u ∧ u.log.rakePending = rest ∧
      u.mem = s.mem ∧ (unitOf u (unitAt s b).key).lop = 12 ∧ (unitOf u (unitAt s b).key).stat = 0 ∧
      (stackOf u b.stack).cmds = (stackOf s b.stack).cmds + 1 := by
  obtain ⟨hlog, hmem, hlop, hstat, hcmds⟩ := checkedClean_spec (s := rakeTaken s rest) hb hentries hclean
  have hstep := rakeStep_of_clean_check (s := rakeTaken s rest) hb ht hfits harm hentries hclean
    (note := rewriteNote key rest) fun _ => rewriteNote_clean
  refine ⟨checkedClean (rakeTaken s rest) b key, ?_, ?_, hmem, hlop, hstat, hcmds⟩
  · rw [exec_rakeTargetedRewrite hp hen, hstep]; rfl
  · rw [hlog]; rfl

theorem sweep_of_clean_check (hen : s.log.rakeEn = true) (hsweep : s.log.rakeSweep = true) (hexists : keyExists s key = true) :
    ∃ u, exec (.rakeSweep key last) s = .next u ∧
      u.log.rakeSweeps = (if last then s.log.rakeSweeps + 1 else s.log.rakeSweeps) ∧
      u.mem = s.mem ∧ (unitOf u (unitAt s b).key).lop = 12 ∧ (unitOf u (unitAt s b).key).stat = 0 ∧
      (stackOf u b.stack).cmds = (stackOf s b.stack).cmds + 1 := by
  obtain ⟨hlog, hmem, hlop, hstat, hcmds⟩ := checkedClean_spec hb hentries hclean
  have hstep := rakeStep_of_clean_check hb ht hfits harm hentries hclean (note := sweepNote key) fun _ => sweepNote_clean
  refine ⟨sweepCounted (checkedClean s b key) last, ?_, ?_, hmem, hlop, hstat, hcmds⟩
  · rw [exec_rakeSweep hen hsweep hexists, hstep]; rfl
  · rw [sweepCounted, hlog]

end Check

end Actions

end Rake

/-! ### The spare fill (R289) -/

section SpareFill

variable (s : State)

theorem tabGet_filter_key {α : Type} (d : α) (p : Nat → Bool) (t : Tab α) (i : Nat) :
    tabGet d (t.filter fun e => p e.1) i = if p i then tabGet d t i else d := by
  induction t with
  | nil => simp [tabGet]
  | cons e t ih =>
    obtain ⟨k, v⟩ := e
    by_cases hk : p k = true
    · rw [List.filter_cons_of_pos (p := fun e : Nat × α => p e.1) hk, tabGet, tabGet, ih]
      by_cases hi : i = k
      · rw [if_pos hi, if_pos hi, hi, if_pos hk]
      · rw [if_neg hi, if_neg hi]
    · rw [List.filter_cons_of_neg (p := fun e : Nat × α => p e.1) hk, ih, tabGet]
      by_cases hi : i = k
      · rw [hi, if_neg hk, if_neg hk]
      · rw [if_neg hi]

/-- The unused spares of a die, with the banks over which they are mapped to be filled. -/
def fillPairs (k : StackIx) (d : DieIx) : List (Nat × BankIx) :=
  (unusedSpares s k d).zip (fillHosts s k d (unusedSpares s k d).length)

/-- The number of segments that the fill of a die commands. -/
def fillSegs (k : StackIx) (d : DieIx) : Nat := ((fillPairs s k d).map fun x => bankSeg x.2).dedup.length

/-- The spares of one die filled. -/
def fillDie (k : StackIx) (r : State) (d : DieIx) : State :=
  fillTrace ((unusedSpares s k d).foldl (fun z p => injectRange z (dramKey k.val d.val p 0 0) (4 * 786432)) r) k d (fillPairs s k d)

/-- The memory with every unused spare cleared, and the fill reported. -/
def sparesCleared : State :=
  { s with mem := s.mem.filter (fun e => !inUnusedSpare s (e.1 / 16)), log := { s.log with sparesFilled := true } }

theorem exec_spareFill (h : s.rst.coreHeld = false) : exec .spareFill s =
    .next ((List.finRange 12).foldl (fun r k => (List.finRange 16).foldl (fillDie s k) r) (sparesCleared s)) := by
  change execSpareFill s = _
  rw [execSpareFill, if_neg (by simp [h])]
  rfl

theorem exec_spareFill_held (h : s.rst.coreHeld = true) : exec .spareFill s = .next s := by
  change execSpareFill s = _
  rw [execSpareFill, if_pos h]

theorem fillDie_of_disarmed (k : StackIx) (d : DieIx) {r : State} (h : r.log.injArm = false) :
    fillDie s k r d = fillTrace r k d (fillPairs s k d) := by
  have hfold : (unusedSpares s k d).foldl (fun z p => injectRange z (dramKey k.val d.val p 0 0) (4 * 786432)) r = r :=
    foldl_holds (p := fun z => z = r) (fun z p _ hz => by rw [hz, injectRange, if_neg (by simp [h])]) rfl
  rw [fillDie, hfold]

/-- What the fill of a die leaves alone, beside the stacks. -/
structure Filled (r : State) : Prop where
  log : r.log = (sparesCleared s).log
  pans : r.pans = s.pans
  mem : r.mem = (sparesCleared s).mem

variable {s} (harm : s.log.injArm = false)

include harm

theorem fillDie_eq (k : StackIx) (d : DieIx) {r : State} (h : Filled s r) : fillDie s k r d = fillTrace r k d (fillPairs s k d) :=
  fillDie_of_disarmed s k d (by rw [h.log]; exact harm)

theorem filled_fillDie (k : StackIx) (r : State) (d : DieIx) (h : Filled s r) : Filled s (fillDie s k r d) := by
  rw [fillDie_eq harm k d h]
  exact ⟨h.log, h.pans, h.mem⟩

theorem filled_fillDies (k : StackIx) (l : List DieIx) (r : State) (h : Filled s r) : Filled s (l.foldl (fillDie s k) r) :=
  foldl_holds (fun r d _ hr => filled_fillDie harm k r d hr) h

theorem fillDie_cmds (k j : StackIx) (d : DieIx) {r : State} (h : Filled s r) : (stackOf (fillDie s k r d) j).cmds =
    if j = k then (stackOf r j).cmds + BitVec.ofNat 64 (813 * fillSegs s k d) else (stackOf r j).cmds := by
  rw [fillDie_eq harm k d h, stackOf, fillTrace]
  dsimp only
  rw [tabGet_tabModify]
  split
  · next hj => rw [if_pos (Fin.ext hj), Fin.ext hj]; rfl
  · next hj => rw [if_neg (fun hjk => hj (congrArg Fin.val hjk))]; rfl

theorem fillDies_cmds (k : StackIx) (l : List DieIx) {r : State} (h : Filled s r) : (stackOf (l.foldl (fillDie s k) r) k).cmds =
    (stackOf r k).cmds + BitVec.ofNat 64 (813 * (l.map (fillSegs s k)).sum) := by
  induction l generalizing r with
  | nil => simp
  | cons d l ih =>
    rw [List.foldl_cons, ih (filled_fillDie harm k r d h), fillDie_cmds harm k k d h, if_pos rfl, List.map_cons, List.sum_cons,
      Nat.mul_add, BitVec.ofNat_add, BitVec.add_assoc]

theorem fillDies_cmds_other {k j : StackIx} (hne : j ≠ k) (l : List DieIx) {r : State} (h : Filled s r) :
    (stackOf (l.foldl (fillDie s j) r) k).cmds = (stackOf r k).cmds :=
  (foldl_holds (p := fun u => Filled s u ∧ (stackOf u k).cmds = (stackOf r k).cmds)
    (fun u d _ hu => ⟨filled_fillDie harm j u d hu.1, by rw [fillDie_cmds harm j k d hu.1, if_neg hne.symm, hu.2]⟩) ⟨h, rfl⟩).2

theorem spareFill_spec (hcore : s.rst.coreHeld = false) :
    ∃ u, exec .spareFill s = .next u ∧ u.log = { s.log with sparesFilled := true } ∧ u.pans = s.pans ∧
      (∀ k, (stackOf u k).cmds =
        (stackOf s k).cmds + BitVec.ofNat 64 (813 * ((List.finRange 16).map (fillSegs s k)).sum)) ∧
      (∀ k i, i < 16 → inUnusedSpare s k = true → tabGet 0 u.mem (16 * k + i) = 0) ∧
      ∀ k i, i < 16 → inUnusedSpare s k = false → tabGet 0 u.mem (16 * k + i) = tabGet 0 s.mem (16 * k + i) := by
  have hstart : Filled s (sparesCleared s) := ⟨rfl, rfl, rfl⟩
  have hend : Filled s ((List.finRange 12).foldl (fun r k => (List.finRange 16).foldl (fillDie s k) r) (sparesCleared s)) :=
    foldl_holds (fun r k _ hr => filled_fillDies harm k _ r hr) hstart
  have hbyte : ∀ k i, i < 16 → tabGet 0 (sparesCleared s).mem (16 * k + i) =
      if !inUnusedSpare s k then tabGet 0 s.mem (16 * k + i) else 0 := fun k i hi => by
    have hword : (16 * k + i) / 16 = k := by omega
    rw [sparesCleared, tabGet_filter_key 0 (fun n => !inUnusedSpare s (n / 16)), hword]
  refine ⟨_, exec_spareFill s hcore, hend.log, hend.pans, fun k => ?_, fun k i hi hk => ?_, fun k i hi hk => ?_⟩
  · obtain ⟨r, hr, hget, hcmds⟩ := foldl_visits (l := List.finRange 12) (e := k)
      (f := fun r k => (List.finRange 16).foldl (fillDie s k) r) (fun r => (stackOf r k).cmds)
      (fun r j hr => filled_fillDies harm j _ r hr) (List.nodup_finRange 12) (List.mem_finRange k)
      (fun r j _ hne hr => fillDies_cmds_other harm hne _ hr) hstart
    rw [hcmds, fillDies_cmds harm k _ hr, hget]
    rfl
  · rw [hend.mem, hbyte k i hi, hk]
    rfl
  · rw [hend.mem, hbyte k i hi, hk]
    rfl

end SpareFill

/-- Settles O47: one step of the pass on the words it read, a CHECK on the bank made ready for it, and the spare fill die by die. -/
theorem rakeLogsAndSpares : Obligations.RakeLogsAndSpares := by
  unfold Obligations.RakeLogsAndSpares
  intro s key rest last bit _ _
  have hnone : ∀ e w k, (!e || !w || !k) = true ↔ e = false ∨ w = false ∨ k = false := by decide
  refine ⟨fun hen => ⟨exec_rakeTargetedRewrite_disabled hen, exec_rakeSweep_none ((hnone _ _ _).2 (.inl hen))⟩,
    exec_rakeTargetedRewrite_nothing, fun ht => ⟨sweep_of_tested ht, rewrite_of_tested ht⟩,
    fun hp hen hk ht harm => ⟨fun h => ?_, rewrite_sram hp hen hk ht harm⟩,
    fun a hp hen hk h => rewrite_log hp hen hk h, fun h => exec_rakeSweep_none ((hnone _ _ _).2 (.inr (.inl h))),
    fun h => exec_rakeSweep_none ((hnone _ _ _).2 (.inr (.inr h))), sweep_of_clean,
    fun hd hb ht hp hen => rewrite_of_idle_spare hp hen ht hd hb,
    fun b hen hexists hb ht => ⟨fun hfits => ⟨fun hp => rewrite_of_unfit hb ht hp hen hfits,
      fun hsweep => sweep_of_unfit hb ht hen hsweep hexists hfits⟩,
      fun hfits harm hentries hclean => ⟨fun hp => rewrite_of_clean_check hb ht hfits harm hentries hclean hp hen,
        fun hsweep => sweep_of_clean_check hb ht hfits harm hentries hclean hen hsweep hexists⟩⟩,
    rfl, rfl, exec_spareFill_held s, fun hcore harm => spareFill_spec harm hcore⟩
  have hwords : ∀ w ∈ rakeWords s key, w.2.check = .clean := by
    rw [rakeWords_of_sram hk]
    rintro w hw
    rw [List.mem_singleton.1 hw, h]
  exact rewrite_of_clean hp hen ht (placeOf_below_logs hk).1 hwords

end Sys2Proof.Machine

/-! ## O42: the arrival of pond commands (R198 to R203, R209) -/

namespace Sys2Proof.Machine

section PondArrive

variable {s : State}

/-! ### Units of the banks of a segment -/

/-- No two die banks are served by one physical bank (R224). -/
theorem physBank_injective (s : State) (k : StackIx) (d : DieIx) {b c : Nat} (hb : b < 256) (hc : c < 256)
    (h : physBank s k d b = physBank s k d c) : b = c := by
  unfold physBank at h
  split at h
  · next i hi =>
    split at h
    · next j hj =>
      obtain rfl : i = j := by omega
      have hi := List.find?_some hi
      have hj := List.find?_some hj
      simp only [Bool.and_eq_true, beq_iff_eq] at hi hj
      exact hi.2.symm.trans hj.2
    · omega
  · split at h
    · omega
    · exact h

theorem unitKey_injective (s : State) (g : SegIx) {b c : BankIx} (hb : b ∈ allSegBanks g) (hc : c ∈ allSegBanks g)
    (h : (unitAt s b).key = (unitAt s c).key) : b = c := by
  obtain ⟨i, -, rfl⟩ := List.mem_map.1 hb
  obtain ⟨j, -, rfl⟩ := List.mem_map.1 hc
  have hphys : physBank s g.stack (segDie g) (segBankIx g i).bank = physBank s g.stack (segDie g) (segBankIx g j).bank :=
    Nat.add_left_cancel h
  have hbank := physBank_injective s g.stack (segDie g) (segBankIx g i).bank.isLt (segBankIx g j).bank.isLt hphys
  have hij : i = j := Fin.ext (Nat.add_left_cancel hbank)
  rw [hij]

theorem segBankIx_injective (g : SegIx) : Function.Injective (segBankIx g) := fun i j h =>
  Fin.ext (Nat.add_left_cancel (congrArg (fun b => b.bank.val) h : (segBankIx g i).bank.val = (segBankIx g j).bank.val))

theorem segBanks_nodup (g : SegIx) (m : Half) : (segBanks g m).Nodup :=
  ((List.nodup_finRange 16).filter _).map (segBankIx_injective g)

theorem allSegBanks_nodup (g : SegIx) : (allSegBanks g).Nodup := (List.nodup_finRange 16).map (segBankIx_injective g)

theorem mem_allSegBanks_of_mem {g : SegIx} {m : Half} {b : BankIx} (h : b ∈ segBanks g m) : b ∈ allSegBanks g := by
  obtain ⟨k, hk, rfl⟩ := List.mem_map.1 h
  exact List.mem_map_of_mem (List.mem_finRange k)

theorem pondStop_ne_zero (op : BitVec 6) (c : PondCmd) (bank n : Nat) : pondStop op c bank n ≠ some 0 := by
  unfold pondStop
  split
  · exact nofun
  repeat (split; · decide)
  exact nofun

/-! ### A command reaches a bank (R203) -/

section Accept

variable (s) (b : BankIx) (run : PondRun)

@[simp] theorem unitOf_notePeak (st : StackIx) (d n : Nat) : unitOf (notePeak s st d) n = unitOf s n := by
  rw [notePeak, unitOf_modStack]

@[simp] theorem setting_notePeak (st : StackIx) (d : Nat) : setting (notePeak s st d) = setting s := by
  rw [notePeak, setting_modStack]
  intro x
  split <;> rfl

/-- The command takes no time, and ends as it starts. -/
def endsAtOnce (bank : Nat) (latch : List (Word × Bool)) : Bool := run.op == 0 && (pondStop run.op run.cmd bank latch.length).isNone

/-- The status that the start of a command judges; `full` is said of the latch that it fills. -/
def startStat (bank : Nat) (latch : List (Word × Bool)) (full : Bool) : BitVec 4 :=
  (pondStop run.op run.cmd bank latch.length).getD (if run.op == 9 && full then 7 else if run.op == 10 && latch.isEmpty then 8 else 0)

/-- A unit in which the command starts, before the payload that came while it was held. -/
def startedUnit (stat : BitVec 4) (unstopped : Bool) (y : Machine.Unit) : Machine.Unit :=
  let takes := run.op == 10 && stat == 0
  { y with
    running := some run, runStat := stat, carry := if takes then y.latch else [], latch := if takes then [] else y.latch,
    payload := if waitsPayload run && stat == 0 then run.cmd.nw.toNat - y.heldPay.length else 0, heldPay := [],
    win := if run.cmd.winv && unstopped then run.cmd.win else y.win }

/-- Payload kept for a held command enters the W registers. -/
def loadPayload (pay : List (List Byte × Bool)) (y : Machine.Unit) : Machine.Unit :=
  pay.zipIdx.foldl (fun z p => setW z (run.cmd.wbase.toNat + p.2) p.1.1 p.1.2) y

theorem loadPayload_keeps {β : Type} (get : Machine.Unit → β) (hget : ∀ z r bs bad, get (setW z r bs bad) = get z)
    (pay : List (List Byte × Bool)) (y : Machine.Unit) : get (loadPayload run pay y) = get y :=
  foldl_holds (p := fun z => get z = get y) (fun z _ _ hz => (hget z _ _ _).trans hz) rfl

/-- The latch that a CSEND fills holds data. -/
def targetFull : Bool :=
  !(unitOf s (bankKey b.stack.val b.die.val (physBank s b.stack b.die run.cmd.tgt))).latch.isEmpty

/-- A NOP that ended. -/
def nopEnded (y : Machine.Unit) : Machine.Unit := { y with lop := 0, stat := 0, win := if run.cmd.winv then run.cmd.win else y.win }

/-- The command is in the unit of its bank. -/
def commandIn : State :=
  let u := unitOf s (unitAt s b).key
  modUnit s (unitAt s b).key (startedUnit run (startStat run b.bank.val u.latch (targetFull s b run))
    (pondStop run.op run.cmd b.bank.val u.latch.length).isNone)

theorem startRun_eq : startRun s b run =
    if endsAtOnce run b.bank.val (unitOf s (unitAt s b).key).latch then modUnit s (unitAt s b).key (nopEnded run)
    else notePeak
      (if waitsPayload run && startStat run b.bank.val (unitOf s (unitAt s b).key).latch (targetFull s b run) == 0
       then modUnit (commandIn s b run) (unitAt s b).key (loadPayload run (unitOf s (unitAt s b).key).heldPay)
       else commandIn s b run) b.stack b.die.val := rfl

theorem startRun_other {n : Nat} (hn : n ≠ (unitAt s b).key) : unitOf (startRun s b run) n = unitOf s n := by
  rw [startRun_eq]
  split
  · rw [unitOf_modUnit, if_neg hn]
  · rw [unitOf_notePeak]
    split
    · rw [unitOf_modUnit, if_neg hn, commandIn, unitOf_modUnit, if_neg hn]
    · rw [commandIn, unitOf_modUnit, if_neg hn]

theorem setting_startRun : setting (startRun s b run) = setting s := by
  rw [startRun_eq]
  split
  · rfl
  · rw [setting_notePeak]
    split <;> rfl

theorem startRun_mem : (startRun s b run).mem = s.mem := by
  rw [startRun_eq]
  split
  · rfl
  · rw [notePeak, modStack_mem]
    split <;> rfl

variable {s b run}

theorem startRun_of_nop (h : endsAtOnce run b.bank.val (unitOf s (unitAt s b).key).latch = true) :
    unitOf (startRun s b run) (unitAt s b).key = nopEnded run (unitOf s (unitAt s b).key) := by
  rw [startRun_eq, if_pos h, unitOf_modUnit, if_pos rfl]

/-- A field of the started unit that payload does not touch. -/
theorem startRun_of_run {β : Type} (get : Machine.Unit → β) (hget : ∀ z r bs bad, get (setW z r bs bad) = get z)
    (h : endsAtOnce run b.bank.val (unitOf s (unitAt s b).key).latch = false) :
    get (unitOf (startRun s b run) (unitAt s b).key) =
      get (startedUnit run (startStat run b.bank.val (unitOf s (unitAt s b).key).latch (targetFull s b run))
        (pondStop run.op run.cmd b.bank.val (unitOf s (unitAt s b).key).latch.length).isNone (unitOf s (unitAt s b).key)) := by
  have hin : unitOf (commandIn s b run) (unitAt s b).key = _ := (unitOf_modUnit _ _ _ _).trans (if_pos rfl)
  rw [startRun_eq, if_neg (by rw [h]; exact Bool.false_ne_true), unitOf_notePeak]
  split
  · rw [unitOf_modUnit, if_pos rfl, loadPayload_keeps run get hget, hin]
  · rw [hin]

/-! A command accepted, held or refused. -/

theorem acceptRun_of_holding (h : (unitOf s (unitAt s b).key).holding.isSome = true) :
    acceptRun s b run = modUnit s (unitAt s b).key fun y => { y with stat := 1 } := if_pos h

/-- The command's tag is in the unit. -/
def tagNoted (s : State) (b : BankIx) (run : PondRun) : State := modUnit s (unitAt s b).key fun y => { y with tag := run.tag }

theorem acceptRun_of_busy (h : (unitOf s (unitAt s b).key).holding = none)
    (hbusy : ((unitOf s (unitAt s b).key).running.isSome || (bankOf s (bankKeyOf b)).refreshing) = true) :
    acceptRun s b run = modUnit (tagNoted s b run) (unitAt s b).key fun y => { y with holding := some run, heldPay := [] } :=
  (if_neg (by rw [h]; exact Bool.false_ne_true)).trans (if_pos hbusy)

theorem acceptRun_of_idle (h : (unitOf s (unitAt s b).key).holding = none)
    (hbusy : ((unitOf s (unitAt s b).key).running.isSome || (bankOf s (bankKeyOf b)).refreshing) = false) :
    acceptRun s b run = startRun (tagNoted s b run) b run :=
  (if_neg (by rw [h]; exact Bool.false_ne_true)).trans (if_neg (by rw [hbusy]; exact Bool.false_ne_true))

theorem acceptRun_cases {P : State → Prop} (h : P (modUnit s (unitAt s b).key fun y => { y with stat := 1 }))
    (hheld : P (modUnit (tagNoted s b run) (unitAt s b).key fun y => { y with holding := some run, heldPay := [] }))
    (hstart : P (startRun (tagNoted s b run) b run)) : P (acceptRun s b run) := by
  cases hh : (unitOf s (unitAt s b).key).holding with
  | some _ => rw [acceptRun_of_holding (by rw [hh]; rfl)]; exact h
  | none =>
    cases hb : (unitOf s (unitAt s b).key).running.isSome || (bankOf s (bankKeyOf b)).refreshing
    · rw [acceptRun_of_idle hh hb]; exact hstart
    · rw [acceptRun_of_busy hh hb]; exact hheld

theorem setting_acceptRun : setting (acceptRun s b run) = setting s :=
  acceptRun_cases (P := fun r => setting r = setting s) rfl rfl (setting_startRun (tagNoted s b run) b run)

theorem acceptRun_other {n : Nat} (hn : n ≠ (unitAt s b).key) : unitOf (acceptRun s b run) n = unitOf s n := by
  have htag : unitOf (tagNoted s b run) n = unitOf s n := by rw [tagNoted, unitOf_modUnit, if_neg hn]
  refine acceptRun_cases (P := fun r => unitOf r n = unitOf s n) ?_ ?_ ?_
  · rw [unitOf_modUnit, if_neg hn]
  · rw [unitOf_modUnit, if_neg hn, htag]
  · exact (startRun_other (tagNoted s b run) b run hn).trans htag

/-- What the arrival of a command makes of a unit `x` of its BMASK. -/
def UnitAccepts (run : PondRun) (bank : Nat) (refreshing : Bool) (x y : Machine.Unit) : Prop :=
  (x.holding.isSome = true → y = { x with stat := 1 }) ∧
  (x.holding = none → x.running.isSome = true → y = { x with tag := run.tag, heldPay := [], holding := some run }) ∧
  (x.holding = none → x.running = none → refreshing = false →
    (run.op = 0 → pondStop run.op run.cmd bank x.latch.length = none →
      y.running = none ∧ y.lop = 0 ∧ y.stat = 0 ∧ y.tag = run.tag) ∧
    (run.op ≠ 0 ∨ pondStop run.op run.cmd bank x.latch.length ≠ none →
      y.running = some run ∧ y.tag = run.tag ∧ y.a = x.a ∧
      (∀ st, pondStop run.op run.cmd bank x.latch.length = some st → y.runStat = st ∧ y.latch = x.latch) ∧
      (pondStop run.op run.cmd bank x.latch.length = none →
        (run.op ≠ 9 → run.op ≠ 10 → y.runStat = 0 ∧ y.latch = x.latch) ∧
        (run.op = 10 → x.latch = [] → y.runStat = 8) ∧
        (run.op = 10 → x.latch ≠ [] → y.runStat = 0 ∧ y.latch = [] ∧ y.carry = x.latch))))

theorem unitOf_modUnit_same (s : State) (n : Nat) (f : Machine.Unit → Machine.Unit) : unitOf (modUnit s n f) n = f (unitOf s n) :=
  (unitOf_modUnit s n n f).trans (if_pos rfl)

theorem endsAtOnce_iff (bank : Nat) (latch : List (Word × Bool)) :
    endsAtOnce run bank latch = true ↔ run.op = 0 ∧ pondStop run.op run.cmd bank latch.length = none := by
  simp [endsAtOnce]

theorem startStat_of_stop {bank : Nat} {latch : List (Word × Bool)} {st : BitVec 4} (full : Bool)
    (h : pondStop run.op run.cmd bank latch.length = some st) : startStat run bank latch full = st := by
  rw [startStat, h, Option.getD_some]

/-- What the started unit `y` shows of its command's status and of the latch of the unit `x` as it was. -/
theorem startedUnit_latch {bank : Nat} {x y : Machine.Unit} {full : Bool} (hstat : y.runStat = startStat run bank x.latch full)
    (hlatch : y.latch = if run.op == 10 && startStat run bank x.latch full == 0 then [] else x.latch)
    (hcarry : y.carry = if run.op == 10 && startStat run bank x.latch full == 0 then x.latch else []) :
    (∀ st, pondStop run.op run.cmd bank x.latch.length = some st → y.runStat = st ∧ y.latch = x.latch) ∧
    (pondStop run.op run.cmd bank x.latch.length = none →
      (run.op ≠ 9 → run.op ≠ 10 → y.runStat = 0 ∧ y.latch = x.latch) ∧
      (run.op = 10 → x.latch = [] → y.runStat = 8) ∧
      (run.op = 10 → x.latch ≠ [] → y.runStat = 0 ∧ y.latch = [] ∧ y.carry = x.latch)) := by
  refine ⟨fun st hst => ?_, fun hnone => ?_⟩
  · have hne : (st == 0) = false := beq_eq_false_iff_ne.2 fun h0 => pondStop_ne_zero _ _ _ _ (h0 ▸ hst)
    rw [startStat_of_stop full hst] at hstat hlatch
    rw [hne, Bool.and_false] at hlatch
    exact ⟨hstat, hlatch⟩
  · have hjudge : startStat run bank x.latch full =
        if run.op == 9 && full then 7 else if run.op == 10 && x.latch.isEmpty then 8 else 0 := by
      rw [startStat, hnone, Option.getD_none]
    refine ⟨fun h9 h10 => ?_, fun h10 hempty => ?_, fun h10 hfull => ?_⟩
    · have hzero : startStat run bank x.latch full = 0 := by
        rw [hjudge, beq_eq_false_iff_ne.2 h9, beq_eq_false_iff_ne.2 h10]; rfl
      rw [beq_eq_false_iff_ne.2 h10] at hlatch
      exact ⟨hstat.trans hzero, hlatch⟩
    · rw [hstat, hjudge, h10, hempty]; rfl
    · have hzero : startStat run bank x.latch full = 0 := by
        rw [hjudge, h10, List.isEmpty_eq_false_iff.2 hfull]; rfl
      rw [hzero, h10] at hlatch hcarry
      exact ⟨hstat.trans hzero, hlatch, hcarry⟩

theorem acceptRun_accepts : UnitAccepts run b.bank.val (bankOf s (bankKeyOf b)).refreshing (unitOf s (unitAt s b).key)
    (unitOf (acceptRun s b run) (unitAt s b).key) := by
  have htag : unitOf (tagNoted s b run) (unitAt s b).key = { unitOf s (unitAt s b).key with tag := run.tag } :=
    unitOf_modUnit_same s _ _
  refine ⟨fun h => ?_, fun h hr => ?_, fun h hr hf => ?_⟩
  · rw [acceptRun_of_holding h, unitOf_modUnit_same]
  · rw [acceptRun_of_busy h (by rw [hr]; rfl), unitOf_modUnit_same, htag]
  · rw [acceptRun_of_idle h (by rw [hr, hf]; rfl)]
    have hkey : (unitAt s b).key = (unitAt (tagNoted s b run) b).key := rfl
    refine ⟨fun hop hstop => ?_, fun hgoes => ?_⟩
    · have hnop : endsAtOnce run b.bank.val (unitOf (tagNoted s b run) (unitAt (tagNoted s b run) b).key).latch = true := by
        rw [← hkey, htag]
        exact (endsAtOnce_iff _ _).2 ⟨hop, hstop⟩
      rw [hkey, startRun_of_nop hnop, ← hkey, htag]
      exact ⟨hr, rfl, rfl, rfl⟩
    · have hnop : endsAtOnce run b.bank.val (unitOf (tagNoted s b run) (unitAt (tagNoted s b run) b).key).latch = false := by
        rw [← hkey, htag]
        exact Bool.eq_false_of_not_eq_true fun hend => by
          obtain ⟨hop, hstop⟩ := (endsAtOnce_iff _ _).1 hend
          exact hgoes.elim (· hop) (· hstop)
      have hread {β : Type} (get : Machine.Unit → β) (hget : ∀ z r bs bad, get (setW z r bs bad) = get z) :=
        startRun_of_run get hget hnop
      simp only [← hkey, htag] at hread
      exact ⟨hread _ fun _ _ _ _ => rfl, hread _ fun _ _ _ _ => rfl, hread Machine.Unit.a fun _ _ _ _ => rfl,
        startedUnit_latch (hread _ fun _ _ _ _ => rfl) (hread _ fun _ _ _ _ => rfl) (hread _ fun _ _ _ _ => rfl)⟩

end Accept

/-! ### A command column at the stack (R199 to R203) -/

section Column

variable (s) (g : SegIx) (run : PondRun)

/-- The units of a segment's banks in a mask. -/
def maskUnits (m : Half) : List Machine.Unit := (segBanks g m).map fun b => unitOf s (unitAt s b).key

/-- The command is counted and in the retry buffer. -/
def commandCounted : State :=
  let w := windowOf s g
  noteSent (modStack s g.stack fun x => { x with cmds := x.cmds + 1 }) g.stack g.pc
    (.pond g run (maskUnits s g run.cmd.bmask) w (if w.left = 0 then [] else maskUnits s g w.bmask))

/-- The command is sent, and the segment's next tag noted. -/
def commandSent : State :=
  let s1 := commandCounted s g run
  { s1 with dram := { s1.dram with tags := tabSet 0 s1.dram.tags (segKey g) ((run.tag.toNat + 1) % 16) } }

/-- A payload window that the command finds open is closed (R201). -/
def windowClosed (r : State) : State :=
  let w := windowOf s g
  if w.left = 0 then r
  else setWindow ((segBanks g w.bmask).foldl (fun r b => forcedRefresh (noteWaiting (cutShort r b w.tag) b) b) r) g { w with left := 0 }

/-- STAT of a unit tells of a command column that cannot be corrected (R202). -/
def markLost (r : State) (b : BankIx) : State := modUnit r (unitAt r b).key fun u => { u with stat := 6 }

/-- STAT of every unit of the segment tells of it. -/
def columnLost (r : State) : State := (allSegBanks g).foldl markLost r

/-- The command reaches the banks of its mask. -/
def commandAccepted (r : State) : State := (segBanks g run.cmd.bmask).foldl (fun r b => acceptRun r b run) r

/-- The payload window of an LDW is opened (R201). -/
def windowOpened (r : State) : State :=
  if waitsPayload run then
    setWindow r g { tag := run.tag, bmask := run.cmd.bmask, wbase := run.cmd.wbase.toNat, left := run.cmd.nw.toNat, next := 0 }
  else r

variable {s g run}

theorem windowClosed_of_none (h : (windowOf s g).left = 0) (r : State) : windowClosed s g r = r := if_pos h

theorem commandWrite_lost (h : (windowOf s g).left = 0) {tag : BitVec 4} {op : BitVec 6} {c : PondCmd} {t : Option TenIx} :
    commandWrite s g tag .uncorrectable op c t = columnLost g (commandSent s g { op := op, tag := tag, cmd := c, ten := t }) := by
  rw [← windowClosed_of_none h (commandSent s g _)]
  rfl

theorem commandWrite_good (h : (windowOf s g).left = 0) {tag : BitVec 4} {op : BitVec 6} {c : PondCmd} {t : Option TenIx} :
    commandWrite s g tag .good op c t = windowOpened g { op := op, tag := tag, cmd := c, ten := t }
      (commandAccepted g { op := op, tag := tag, cmd := c, ten := t } (commandSent s g { op := op, tag := tag, cmd := c, ten := t })) := by
  rw [← windowClosed_of_none h (commandSent s g _)]
  rfl

variable (s g run)

theorem commandCounted_units : (commandCounted s g run).dram.units = s.dram.units := by
  rw [commandCounted, noteSent, modStack_dram_units, modStack_dram_units]

theorem commandCounted_mem : (commandCounted s g run).mem = s.mem := by
  rw [commandCounted, noteSent, modStack_mem, modStack_mem]

theorem setting_commandCounted : setting (commandCounted s g run) = setting s := by
  rw [commandCounted, noteSent, setting_modStack, setting_modStack]
  · exact fun _ => rfl
  · exact fun _ => rfl

theorem unitOf_commandSent (n : Nat) : unitOf (commandSent s g run) n = unitOf s n :=
  (unitOf_of_units (commandCounted_units s g run) n :)

theorem unitAt_commandSent (b : BankIx) : unitAt (commandSent s g run) b = unitAt s b :=
  (unitAt_of_setting (setting_commandCounted s g run) b :)

theorem refreshing_commandSent (n : Nat) : (bankOf (commandSent s g run) n).refreshing = (bankOf s n).refreshing :=
  (refreshing_of_setting (setting_commandCounted s g run) n :)

theorem commandSent_mem : (commandSent s g run).mem = s.mem := commandCounted_mem s g run

theorem commandSent_tags : tabGet 0 (commandSent s g run).dram.tags (segKey g) = (run.tag.toNat + 1) % 16 := by
  rw [commandSent, tabGet_tabSet, if_pos rfl]

theorem setting_commandAccepted : setting (commandAccepted g run s) = setting s :=
  foldl_holds (p := fun r => setting r = setting s) (fun _ _ _ hr => setting_acceptRun.trans hr) rfl

theorem commandAccepted_accepts {b : BankIx} (hb : b ∈ segBanks g run.cmd.bmask) :
    UnitAccepts run b.bank.val (bankOf s (bankKeyOf b)).refreshing (unitOf s (unitAt s b).key)
      (unitOf (commandAccepted g run s) (unitAt s b).key) := by
  obtain ⟨r, hr, hbefore, hafter⟩ := foldl_visits (fun r => unitOf r (unitAt s b).key) (p := fun r => setting r = setting s)
    (f := fun r b => acceptRun r b run) (fun _ _ hr => setting_acceptRun.trans hr) (segBanks_nodup g run.cmd.bmask) hb
    (fun r c hc hne hr => acceptRun_other fun hkey => hne <|
      unitKey_injective s g (mem_allSegBanks_of_mem hc) (mem_allSegBanks_of_mem hb) (by rw [hkey, unitAt_of_setting hr])) rfl
  have h := acceptRun_accepts (s := r) (b := b) (run := run)
  rw [unitAt_of_setting hr, refreshing_of_setting hr, hbefore, ← hafter] at h
  exact h

theorem columnLost_mem : (columnLost g s).mem = s.mem := foldl_keeps State.mem markLost (fun _ _ => rfl) _ s

theorem columnLost_running (n : Nat) : (unitOf (columnLost g s) n).running = (unitOf s n).running :=
  foldl_keeps (fun r => (unitOf r n).running) markLost (fun r b => by
    rw [markLost, unitOf_modUnit]
    split
    · next hn => rw [hn]
    · rfl) _ s

theorem columnLost_stat {b : BankIx} (hb : b ∈ allSegBanks g) : (unitOf (columnLost g s) (unitAt s b).key).stat = 6 := by
  obtain ⟨r, hr, -, hafter⟩ := foldl_visits (fun r => unitOf r (unitAt s b).key) (p := fun r => setting r = setting s)
    (f := markLost) (fun _ _ hr => hr) (allSegBanks_nodup g) hb
    (fun r c hc hne hr => (unitOf_modUnit _ _ _ _).trans <| if_neg fun hkey => hne <|
      unitKey_injective s g hc hb (by rw [hkey, unitAt_of_setting hr])) rfl
  rw [markLost, unitAt_of_setting hr, unitOf_modUnit_same] at hafter
  exact congrArg Machine.Unit.stat hafter

theorem windowOpened_units : (windowOpened g run s).dram.units = s.dram.units := by
  unfold windowOpened
  split <;> rfl

theorem windowOpened_tags : (windowOpened g run s).dram.tags = s.dram.tags := by
  unfold windowOpened
  split <;> rfl

end Column

/-! ### Queued writes go first (R236) -/

section Prepare

variable (s) (bs : List BankIx)

theorem prepareBanks_keeps {β : Type} (get : State → β) (hdrain : ∀ r k pc e, get (drainEntry r k pc e) = get r)
    (hclose : ∀ r b, get (closeRow r b) = get r) : get (prepareBanks s bs) = get s :=
  foldl_keeps get _ (fun r b => (hclose _ b).trans (foldl_keeps get _ (fun r e => hdrain r _ _ e) _ r)) bs s

theorem setting_prepareBanks : setting (prepareBanks s bs) = setting s :=
  prepareBanks_keeps s bs setting setting_drainEntry fun r b => setting_of_quiet (quiet_closeRow r b)

theorem prepareBanks_units : (prepareBanks s bs).dram.units = s.dram.units :=
  prepareBanks_keeps s bs (fun r => r.dram.units) drainEntry_units fun r b => units_of_quiet (quiet_closeRow r b)

end Prepare

/-! ### The arrival (R198 to R201) -/

section Arrive

variable {g : SegIx} {tag : BitVec 4} {a : Arrival} {op : BitVec 6} {c : PondCmd} {t : Option TenIx} {data : List Byte}

theorem arrive_of_off (h : pondOn s g.stack g.pc = false) : arrive s g tag a op c t = s := if_pos (by rw [h]; rfl)

theorem rowWrite_of_off (h : pondOn s g.stack g.pc = false) : rowWrite s g tag data t = s := by
  refine (if_neg (by rw [h]; exact Bool.false_ne_true)).trans (arrive_of_off h)

theorem arrive_of_waits (hw : (windowOf s g).left = 0)
    (h : (stackOf s g.stack).exiting.getLsbD g.pc.val = true ∨ drainWaits s (segBanks g c.bmask) = true) :
    arrive s g tag a op c t = s := by
  cases hon : pondOn s g.stack g.pc
  · exact arrive_of_off hon
  · have hwait : (!pondOpen s g.stack g.pc || drainWaits s (segBanks g c.bmask)) = true := by
      rw [pondOpen, hon]
      rcases h with h | h <;> rw [h]
      · rfl
      · exact Bool.or_true _
    exact (if_neg (by rw [hon]; exact Bool.false_ne_true)).trans ((if_neg fun hopen => hopen.1 hw).trans (if_pos hwait))

theorem arrive_of_open (hon : pondOn s g.stack g.pc = true) (hexit : (stackOf s g.stack).exiting.getLsbD g.pc.val = false)
    (hdrain : drainWaits s (segBanks g c.bmask) = false) (hw : (windowOf s g).left = 0) :
    arrive s g tag a op c t = rowCommand s g tag a op c t := by
  have hgo : (!pondOpen s g.stack g.pc || drainWaits s (segBanks g c.bmask)) = false := by rw [pondOpen, hon, hexit, hdrain]; rfl
  exact (if_neg (by rw [hon]; exact Bool.false_ne_true)).trans
    ((if_neg fun hopen => hopen.1 hw).trans (if_neg (by rw [hgo]; exact Bool.false_ne_true)))

theorem rowWrite_of_payload (hon : pondOn s g.stack g.pc = true) (hw : (windowOf s g).left ≠ 0) (htag : (windowOf s g).tag = tag) :
    rowWrite s g tag data t = payloadWrite s g (windowOf s g) (padTo 0 32 data) :=
  if_pos (by rw [hon, bne_iff_ne.2 hw, beq_iff_eq.2 htag]; rfl)

section Command

variable {p : State} (hp : prepareBanks s (segBanks g c.bmask) = p)

include hp

theorem rowCommand_of_flipped (h : arriveColumn p g (encPond op c) = none) :
    rowCommand s g tag .good op c t = commandWrite p g tag .uncorrectable op c t := by
  unfold rowCommand
  rw [hp]
  dsimp only
  rw [h]

theorem rowCommand_of_changed {bs : List Byte} (h : arriveColumn p g (encPond op c) = some bs) (hne : bs ≠ encPond op c) :
    rowCommand s g tag .good op c t = commandWrite p g tag .good (decPond bs).1 (decPond bs).2 t := by
  unfold rowCommand
  rw [hp]
  dsimp only
  rw [h]
  exact if_neg hne

theorem rowCommand_of_good (h : arriveColumn p g (encPond op c) = some (encPond op c)) :
    rowCommand s g tag .good op c t = commandWrite p g tag .good op c t := by
  unfold rowCommand
  rw [hp]
  dsimp only
  rw [h]
  exact if_pos rfl

theorem rowCommand_of_lost : rowCommand s g tag .uncorrectable op c t = commandWrite p g tag .uncorrectable op c t := by
  unfold rowCommand
  rw [hp]

/-- A command column that cannot be corrected. -/
theorem commandWrite_lost_spec (hw : (windowOf s g).left = 0) : ∃ u, commandWrite p g tag .uncorrectable op c t = u ∧ u.mem = p.mem ∧
    ∀ b ∈ allSegBanks g, (unitOf u (unitAt s b).key).stat = 6 ∧
      (unitOf u (unitAt s b).key).running = (unitOf s (unitAt s b).key).running := by
  have hset : setting p = setting s := hp ▸ setting_prepareBanks s _
  have hunits : p.dram.units = s.dram.units := hp ▸ prepareBanks_units s _
  have hw' : (windowOf p g).left = 0 := by rw [windowOf_of_setting hset, hw]
  refine ⟨_, commandWrite_lost hw', ?_, fun b hb => ⟨?_, ?_⟩⟩
  · rw [columnLost_mem, commandSent_mem]
  · rw [← unitAt_of_setting hset, ← unitAt_commandSent p g { op := op, tag := tag, cmd := c, ten := t } b]
    exact columnLost_stat _ g hb
  · rw [columnLost_running, unitOf_commandSent, unitOf_of_units hunits]

/-- A command column that arrives well. -/
theorem commandWrite_good_spec (hw : (windowOf s g).left = 0) : ∃ u, commandWrite p g tag .good op c t = u ∧
    tabGet 0 u.dram.tags (segKey g) = (tag.toNat + 1) % 16 ∧ ∀ b ∈ segBanks g c.bmask,
      UnitAccepts { op := op, tag := tag, cmd := c, ten := t } b.bank.val (bankOf s (bankKeyOf b)).refreshing
        (unitOf s (unitAt s b).key) (unitOf u (unitAt s b).key) := by
  have hset : setting p = setting s := hp ▸ setting_prepareBanks s _
  have hunits : p.dram.units = s.dram.units := hp ▸ prepareBanks_units s _
  have hw' : (windowOf p g).left = 0 := by rw [windowOf_of_setting hset, hw]
  refine ⟨_, commandWrite_good hw', ?_, fun b hb => ?_⟩
  · rw [windowOpened_tags]
    have htags := congrArg Bedrock.tags (setting_commandAccepted (commandSent p g ⟨op, tag, c, t⟩) g ⟨op, tag, c, t⟩)
    exact (congrArg (tabGet 0 · (segKey g)) htags).trans (commandSent_tags p g ⟨op, tag, c, t⟩)
  · have h := commandAccepted_accepts (commandSent p g ⟨op, tag, c, t⟩) g ⟨op, tag, c, t⟩ hb
    rw [unitAt_commandSent, unitAt_of_setting hset, unitOf_commandSent, unitOf_of_units hunits, refreshing_commandSent,
      refreshing_of_setting hset] at h
    rwa [unitOf_of_units (windowOpened_units _ g ⟨op, tag, c, t⟩)]

end Command

/-! ### Payload (R201) -/

theorem setting_payloadSent (w : Window) (was : List (List Byte × Bool)) :
    setting (noteSent s g.stack g.pc (.payload g w data was)) = setting s := by
  rw [noteSent, setting_modStack]
  exact fun _ => rfl

theorem deliver_other (r : State) (b : BankIx) (reg : Nat) (bad : Bool) {n : Nat} (hn : n ≠ (unitAt r b).key) :
    unitOf (deliver r b tag reg data bad) n = unitOf r n := by
  rw [deliver, unitOf_modUnit, if_neg hn]

theorem deliver_awaiting (r : State) (b : BankIx) (reg : Nat) (bad : Bool)
    (h : awaiting (unitOf r (unitAt r b).key).running tag = true) (hleft : (unitOf r (unitAt r b).key).payload ≠ 0) :
    unitOf (deliver r b tag reg data bad) (unitAt r b).key =
      { setW (unitOf r (unitAt r b).key) reg data bad with payload := (unitOf r (unitAt r b).key).payload - 1 } := by
  rw [deliver, unitOf_modUnit_same, if_pos (by rw [h, bne_iff_ne.2 hleft]; rfl)]

/-- A payload column reaches the segment's banks of the window. -/
def payloadDelivered (g : SegIx) (w : Window) (data : List Byte) (bad : Bool) (r : State) : State :=
  (segBanks g w.bmask).foldl (fun r b => deliver r b w.tag (w.wbase + w.next) data bad) r

theorem payloadDelivered_mem (w : Window) (bad : Bool) (r : State) : (payloadDelivered g w data bad r).mem = r.mem :=
  foldl_keeps State.mem (fun r b => deliver r b w.tag (w.wbase + w.next) data bad) (fun _ _ => rfl) _ r

theorem payloadDelivered_unit (w : Window) (bad : Bool) (r : State) {b : BankIx} (hb : b ∈ segBanks g w.bmask)
    (h : awaiting (unitOf r (unitAt r b).key).running w.tag = true) (hleft : (unitOf r (unitAt r b).key).payload ≠ 0) :
    unitOf (payloadDelivered g w data bad r) (unitAt r b).key =
      { setW (unitOf r (unitAt r b).key) (w.wbase + w.next) data bad with payload := (unitOf r (unitAt r b).key).payload - 1 } := by
  obtain ⟨q, hq, hbefore, hafter⟩ := foldl_visits (fun q => unitOf q (unitAt r b).key) (p := fun q => setting q = setting r)
    (f := fun q b => deliver q b w.tag (w.wbase + w.next) data bad) (fun _ _ hq => hq) (segBanks_nodup g w.bmask) hb
    (fun q c hc hne hq => deliver_other q c _ bad fun hkey => hne <|
      unitKey_injective r g (mem_allSegBanks_of_mem hc) (mem_allSegBanks_of_mem hb) (by rw [hkey, unitAt_of_setting hq])) rfl
  have hat : unitAt q b = unitAt r b := unitAt_of_setting hq b
  have hown := deliver_awaiting (tag := w.tag) (data := data) q b (w.wbase + w.next) bad (by rw [hat, hbefore]; exact h)
    (by rw [hat, hbefore]; exact hleft)
  rw [hat, hbefore] at hown
  exact hafter.trans hown

theorem windowOf_setWindow (s : State) (g : SegIx) (w : Window) (h : w.left ≠ 0) : windowOf (setWindow s g w) g = w := by
  rw [windowOf, setWindow, tabGet_tabSet, if_pos rfl, if_neg h]

theorem payloadWrite_spec : ∃ u, payloadWrite s g (windowOf s g) data = u ∧ u.mem = s.mem ∧
    (1 < (windowOf s g).left → (windowOf u g).left = (windowOf s g).left - 1) ∧
    ∀ b ∈ segBanks g (windowOf s g).bmask, ∀ x, unitOf s (unitAt s b).key = x → awaiting x.running (windowOf s g).tag = true →
      x.payload ≠ 0 → unitOf u (unitAt s b).key =
        { setW x ((windowOf s g).wbase + (windowOf s g).next) ((arriveColumn s g data).getD data) (arriveColumn s g data).isNone with
          payload := x.payload - 1 } := by
  refine ⟨_, rfl, ?_, fun hmore => ?_, ?_⟩
  · exact (payloadDelivered_mem (windowOf s g) _ (noteSent s _ _ _)).trans (modStack_mem _ _ _)
  · exact congrArg Window.left (windowOf_setWindow _ g _ (by show (windowOf s g).left - 1 ≠ 0; omega))
  · rintro b hb x rfl hwaits hmore
    have hat : ∀ was, unitAt (noteSent s g.stack g.pc (.payload g (windowOf s g) data was)) b = unitAt s b := fun was =>
      unitAt_of_setting (setting_payloadSent _ was) b
    have hunit : ∀ was n, unitOf (noteSent s g.stack g.pc (.payload g (windowOf s g) data was)) n = unitOf s n := fun was n =>
      unitOf_modStack _ _ _ _
    have hown := fun was => payloadDelivered_unit (data := (arriveColumn s g data).getD data) (windowOf s g)
      (arriveColumn s g data).isNone (noteSent s g.stack g.pc (.payload g (windowOf s g) data was)) hb
      (by rw [hat, hunit]; exact hwaits) (by rw [hat, hunit]; exact hmore)
    simp only [hat, hunit] at hown
    exact hown _

end Arrive

end PondArrive

/-- Settles O42: the column as the stack receives it, then the banks of its mask one by one. -/
theorem pondCommandsArrive : Obligations.PondCommandsArrive := by
  unfold Obligations.PondCommandsArrive
  intro s g tag c a i op data _ hi
  have hexec : exec i s = .next (arrive s g tag a op c none) := by
    simp only [List.mem_cons, Prod.mk.injEq, List.not_mem_nil, or_false] at hi
    rcases hi with ⟨rfl, rfl⟩ | ⟨rfl, rfl⟩ | ⟨rfl, rfl⟩ | ⟨rfl, rfl⟩ | ⟨rfl, rfl⟩ | ⟨rfl, rfl⟩ | ⟨rfl, rfl⟩ | ⟨rfl, rfl⟩ | ⟨rfl, rfl⟩ |
      ⟨rfl, rfl⟩ | ⟨rfl, rfl⟩ | ⟨rfl, rfl⟩ | ⟨rfl, rfl⟩ <;> rfl
  have hpayload : exec (.ldwPayload g tag data) s = .next (rowWrite s g tag data none) := rfl
  rw [hexec, hpayload]
  refine ⟨fun hoff => ⟨by rw [arrive_of_off hoff], by rw [rowWrite_of_off hoff]⟩,
    fun hw hwait => by rw [arrive_of_waits hw hwait], fun hon hexit hdrain hw p hp => ?_, fun hon hw htag => ?_⟩
  · rw [arrive_of_open hon hexit hdrain hw]
    refine ⟨?_, ?_, ?_, ?_⟩
    · rintro rfl h
      rw [rowCommand_of_flipped hp h]
    · rintro bs rfl h hne
      rw [rowCommand_of_changed hp h hne]
    · rintro rfl
      obtain ⟨u, hu, hspec⟩ := commandWrite_lost_spec (tag := tag) (op := op) (t := none) hp hw
      exact ⟨u, by rw [rowCommand_of_lost hp, hu], hspec⟩
    · rintro rfl h
      obtain ⟨u, hu, htags, hbanks⟩ := commandWrite_good_spec (tag := tag) (op := op) (t := none) hp hw
      refine ⟨u, by rw [rowCommand_of_good hp h, hu], htags, ?_⟩
      rintro b hb x y rfl rfl
      exact hbanks b hb
  · subst htag
    rw [rowWrite_of_payload hon hw rfl]
    obtain ⟨u, hu, hspec⟩ := payloadWrite_spec (s := s) (g := g) (data := padTo 0 32 data)
    exact ⟨u, by rw [hu], hspec⟩

end Sys2Proof.Machine

/-! ## O43: pond commands start and end (R203 to R209, R213, R220 to R223) -/

namespace Sys2Proof.Machine

/-! ### What the steps of an effect do to memory and to the unit -/

section Follow

/-- A unit but for what a column read counts in it, and for its latch. -/
def Unit.body (u : Machine.Unit) : Machine.Unit := { u with corr := 0, uec := 0, ueaddr := 0, latch := [] }

variable {s : State} {x : UnitAt} {m : Memory} {u v : Machine.Unit} {r : State} (t : Option TenIx) (l : Nat)

/-- The state `r`, on the way from `s`, with the memory `m` and the body of the unit `u` at `x`. -/
structure Follows (s : State) (x : UnitAt) (m : Memory) (u : Machine.Unit) (r : State) : Prop where
  setting : setting r = setting s
  mem : r.mem = m
  body : (unitOf r x.key).body = u.body

/-- A state and the state itself, with a finding or two more. -/
theorem Follows.of_setting {q : State} (h : Follows s x m u r) (hset : Machine.setting q = Machine.setting r) (hmem : q.mem = r.mem)
    (hbody : (unitOf q x.key).body = (unitOf r x.key).body) : Follows s x m u q :=
  ⟨hset.trans h.setting, hmem.trans h.mem, hbody.trans h.body⟩

theorem follows_refl (s : State) (x : UnitAt) : Follows s x s.mem (unitOf s x.key) s := ⟨rfl, rfl, rfl⟩

theorem Follows.modUnit (h : Follows s x m u r) {f : Machine.Unit → Machine.Unit} (hf : (f (unitOf r x.key)).body = v.body) :
    Follows s x m v (modUnit r x.key f) :=
  ⟨h.setting, h.mem, by rw [unitOf_modUnit_same, hf]⟩

theorem Follows.column (h : Follows s x m u r) : (readColumn r x t l).2 = columnAt m x l := by
  rw [← h.mem]
  rfl

theorem unitOf_notePondErr (r : State) (st : StackIx) (code : Byte) (op : BitVec 6) (stat tag : BitVec 4) (die bank n : Nat) :
    unitOf (notePondErr r st code op stat tag die bank) n = unitOf r n := unitOf_modStack _ _ _ _

theorem unitOf_logEvent (r : State) (code : Byte) (d : List Byte) (n : Nat) : unitOf (logEvent r code d t) n = unitOf r n := rfl

theorem Follows.noteUnitUe (h : Follows s x m u r) : Follows s x m u (noteUnitUe r x t l) := by
  unfold Machine.noteUnitUe
  dsimp only
  split
  · refine h.of_setting ?_ ?_ ?_
    · rw [notePondErr, setting_modStack, setting_of_bedrock (bedrock_logEvent r _ _ _)]
      exact fun _ => rfl
    · rw [notePondErr, modStack_mem, logEvent_mem]
    · rw [unitOf_notePondErr, unitOf_logEvent]
  · exact h.of_setting (setting_of_bedrock (bedrock_logEvent r _ _ _)) (logEvent_mem _ _ _ _) (congrArg _ (unitOf_logEvent t r _ _ _))

theorem Follows.readColumn (h : Follows s x m u r) : Follows s x m u (readColumn r x t l).1 := by
  have hnote : ∀ ws, Follows s x m u (noteColumn r 0x57 ws t) := fun ws =>
    have hb := bedrock_noteColumn r 0x57 ws t
    h.of_setting (setting_of_bedrock hb) (mem_of_bedrock hb) (congrArg _ (unitOf_of_units (units_of_bedrock hb) x.key))
  unfold Machine.readColumn
  dsimp only
  split
  · exact ((hnote _).modUnit ((hnote _).body)).noteUnitUe t l
  · exact (hnote _).modUnit ((hnote _).body)

theorem Follows.readColumns (ls : List Nat) (h : Follows s x m u r) :
    Follows s x m u (readColumns r x t ls).1 ∧ (readColumns r x t ls).2 = ls.map (columnAt m x) := by
  induction ls generalizing r with
  | nil => exact ⟨h, rfl⟩
  | cons l ls ih =>
    obtain ⟨hstate, hcols⟩ := ih (h.readColumn t l)
    exact ⟨hstate, congrArg₂ List.cons (h.column t l) hcols⟩

theorem Follows.storeColumn (h : Follows s x m u r) (ws : List Stored) :
    Follows s x (storeColumn { s with mem := m } x l ws).mem u (storeColumn r x l ws) :=
  ⟨h.setting, storeColumn_mem_congr (s := { s with mem := m }) h.mem x l ws, h.body⟩

/-- The words of a written column as its array holds them (R222, R223). -/
def columnWords (s : State) (x : UnitAt) (l : Nat) (bs : List Byte) (bad : Bool) : List Stored :=
  let ws := (wordsOfBytes (padTo 0 32 bs)).zipIdx.map fun w => storedFor s (dramKey x.st x.d x.phys l w.2) w.1
  if bad then ws.map spoilWord else ws

theorem putColumn_of_setting (bs : List Byte) (bad : Bool) (hset : setting r = setting s) :
    putColumn r x l bs bad = Machine.storeColumn r x l (columnWords s x l bs bad) := by
  unfold putColumn columnWords
  simp only [storedFor_of_setting hset]

theorem Follows.putColumn (h : Follows s x m u r) (bs : List Byte) (bad : Bool) :
    Follows s x (withColumn s x m l bs bad) u (putColumn r x l bs bad) := by
  rw [withColumn, putColumn_of_setting (r := { s with mem := m }) l bs bad (setting_setMem s m), putColumn_of_setting l bs bad h.setting]
  exact h.storeColumn l _

/-- Steps that change the unit alone, in order. -/
theorem follows_foldl_unit {σ α : Type} (st : σ → State) {step : σ → α → σ} {f : Machine.Unit → α → Machine.Unit}
    (hstep : ∀ r u a, Follows s x m u (st r) → Follows s x m (f u a) (st (step r a))) (l : List α) {r : σ}
    (h : Follows s x m u (st r)) : Follows s x m (l.foldl f u) (st (l.foldl step r)) := by
  induction l generalizing r u with
  | nil => exact h
  | cons a l ih => exact ih (hstep r u a h)

/-- Steps that change the memory alone, in order. -/
theorem follows_foldl_mem {σ α : Type} (st : σ → State) {step : σ → α → σ} {f : Memory → α → Memory}
    (hstep : ∀ r m a, Follows s x m u (st r) → Follows s x (f m a) u (st (step r a))) (l : List α) {r : σ}
    (h : Follows s x m u (st r)) : Follows s x (l.foldl f m) u (st (l.foldl step r)) := by
  induction l generalizing r m with
  | nil => exact h
  | cons a l ih => exact ih (hstep r m a h)

end Follow

end Sys2Proof.Machine

namespace Sys2Proof.Machine

/-! ### Lists over ranges -/

section Ranges

variable {α β γ : Type}

theorem zip_range (a b : Nat) : (List.range a).zip (List.range b) = (List.range (min a b)).map fun i => (i, i) := by
  refine List.ext_getElem (by simp) fun i h₁ h₂ => ?_
  simp

theorem zip_map_range (f : Nat → α) (g : Nat → β) (a b : Nat) :
    ((List.range a).map f).zip ((List.range b).map g) = (List.range (min a b)).map fun i => (f i, g i) := by
  rw [List.zip_map, zip_range, List.map_map]
  rfl

theorem zipIdx_map_range (f : Nat → α) (n : Nat) : ((List.range n).map f).zipIdx = (List.range n).map fun i => (f i, i) := by
  refine List.ext_getElem (by simp) fun i h₁ h₂ => ?_
  simp

theorem any_or_any (f g : α → Bool) (l : List α) : (l.any f || l.any g) = l.any fun a => f a || g a := by
  rw [Bool.eq_iff_iff]
  simp [and_or_left, exists_or]

/-- The elements of equally long parts, counted through. -/
theorem flatMap_map_range (f : Nat → Nat → α) (n k : Nat) :
    ((List.range n).flatMap fun a => (List.range k).map (f a)) = (List.range (n * k)).map fun j => f (j / k) (j % k) := by
  induction n with
  | zero => simp
  | succ n ih =>
    rw [List.range_succ, List.flatMap_append, ih, Nat.succ_mul, List.range_add, List.map_append, List.map_map]
    refine congrArg _ ?_
    rw [List.flatMap_singleton]
    refine List.map_congr_left fun j hj => ?_
    have hlt := List.mem_range.1 hj
    rw [Function.comp_apply, Nat.mul_comm n k, Nat.mul_add_div (by omega), Nat.mul_add_mod, Nat.mod_eq_of_lt hlt,
      Nat.div_eq_of_lt hlt, Nat.add_zero]

end Ranges

/-! ### W registers and accumulators -/

section Registers

variable (u : Machine.Unit)

theorem accOf_setAcc (i n : Nat) (v : Word) (bad : Bool) : accOf (setAcc u i v bad) n = if n = i then v else accOf u n :=
  tabGet_tabSet _ _ _ _ _

theorem accBad_setAcc (i n : Nat) (v : Word) (bad : Bool) :
    accBad (setAcc u i v bad) n = if n = i then accBad u i || bad else accBad u n := tabGet_tabSet _ _ _ _ _

/-- Consecutive accumulators, read again. -/
theorem accOf_run (es : List (Word × Bool)) (a k n : Nat) :
    accOf ((es.zipIdx k).foldl (fun y e => setAcc y (a + e.2) e.1.1 e.1.2) u) n =
      if a + k ≤ n then ((es[n - (a + k)]?).map Prod.fst).getD (accOf u n) else accOf u n := by
  induction es generalizing u k with
  | nil => simp
  | cons e es ih =>
    rw [List.zipIdx_cons, List.foldl_cons, ih, accOf_setAcc]
    rcases Nat.lt_trichotomy n (a + k) with hlt | rfl | hgt
    · rw [if_neg (by omega), if_neg (by omega), if_neg (by omega)]
    · rw [if_neg (by omega), if_pos rfl, if_pos le_rfl]; simp
    · rw [if_pos (by omega), if_neg (by omega), if_pos (by omega), show n - (a + k) = n - (a + (k + 1)) + 1 by omega,
        List.getElem?_cons_succ]

theorem padTo_of_length {α : Type} (d : α) {n : Nat} {xs : List α} (h : xs.length = n) : padTo d n xs = xs := by
  rw [padTo, h, Nat.sub_self, List.replicate_zero, List.append_nil, List.take_of_length_le h.le]

theorem wReg_setW (r : Nat) {bs : List Byte} (bad : Bool) (h : bs.length = 32) : wReg (setW u r bs bad) r = bs := by
  refine List.ext_getElem (by simp [wReg, tabRange, h]) fun i h₁ h₂ => ?_
  have hi : i < 32 := h ▸ h₂
  simp only [wReg, tabRange, setW, List.getElem_map, List.getElem_range, padTo_of_length 0 h]
  rw [tabGet_tabSetList, if_pos (by omega), Nat.add_sub_cancel_left, List.getD_eq_getElem _ _ h₂]

theorem wReg_setW_ne {r n : Nat} {bs : List Byte} (bad : Bool) (hne : n ≠ r) : wReg (setW u r bs bad) n = wReg u n := by
  have hlen : (padTo (0 : Byte) 32 bs).length = 32 := by simp [padTo]; omega
  unfold wReg tabRange
  refine List.map_congr_left fun i hi => ?_
  have hlt := List.mem_range.1 hi
  rw [setW, tabGet_tabSetList, if_neg (by rw [hlen]; omega)]

theorem wBad_setW {r n : Nat} (bs : List Byte) (bad : Bool) (hr : r < 32) :
    wBad (setW u r bs bad) n = if n = r then bad else wBad u n := by
  have hbit : ((1#32) <<< r).getLsbD n = decide (n = r) := by
    rw [BitVec.getLsbD_shiftLeft]
    by_cases hn : n = r
    · simp [hn, hr]
    · rw [decide_eq_false hn]
      by_cases hlt : n < r
      · simp [hlt]
      · simp [show n - r ≠ 0 by omega]
  have hread : ∀ y : Machine.Unit, wBad y n = y.wPoison.getLsbD n := fun _ => rfl
  rw [hread, hread, setW]
  cases bad with
  | true => rw [if_pos rfl, BitVec.getLsbD_or, hbit]; by_cases hn : n = r <;> simp [hn]
  | false =>
    rw [if_neg Bool.false_ne_true, BitVec.getLsbD_and, BitVec.getLsbD_not, hbit]
    by_cases hn : n = r
    · simp [hn]
    · simpa [hn] using BitVec.lt_of_getLsbD

end Registers

end Sys2Proof.Machine

namespace Sys2Proof.Machine

/-! ### Effects on the unit and on memory, one by one (R204 to R208, R222, R223) -/

section Effects

variable {s : State} {x : UnitAt} {m : Memory} {u : Machine.Unit} (t : Option TenIx) (c : PondCmd)

theorem Follows.wReg {r : State} (h : Follows s x m u r) (n : Nat) : wReg (unitOf r x.key) n = wReg u n :=
  (congrArg (fun y : Machine.Unit => Machine.wReg y n) h.body :)

theorem Follows.wBad {r : State} (h : Follows s x m u r) (n : Nat) : wBad (unitOf r x.key) n = wBad u n :=
  (congrArg (fun y : Machine.Unit => Machine.wBad y n) h.body :)

theorem Follows.accOf {r : State} (h : Follows s x m u r) (n : Nat) : accOf (unitOf r x.key) n = accOf u n :=
  (congrArg (fun y : Machine.Unit => Machine.accOf y n) h.body :)

theorem Follows.accBad {r : State} (h : Follows s x m u r) (n : Nat) : accBad (unitOf r x.key) n = accBad u n :=
  (congrArg (fun y : Machine.Unit => Machine.accBad y n) h.body :)

/-! #### LDW -/

/-- Column `j` of an LDW with SRC = 1, in its W register. -/
def ldwLoad (m : Memory) (x : UnitAt) (c : PondCmd) (u : Machine.Unit) (j : Nat) : Machine.Unit :=
  let l := columnAt m x (c.l0 + j)
  setW u (c.wbase.toNat + j) (if l.bad then bytesOfWords (l.stored.map (·.d)) else l.bytes) l.bad

theorem follows_ldwColumn (r : State × Bool) (u : Machine.Unit) (j : Nat) (h : Follows s x m u r.1) :
    Follows s x m (ldwLoad m x c u j) (ldwColumn x t c r j).1 := by
  have hbody := (h.readColumn t (c.l0 + j)).body
  rw [ldwColumn, h.column t]
  exact (h.readColumn t _).modUnit (congrArg (fun y => setW y (c.wbase.toNat + j) _ _) hbody)

/-! #### DOT and MVW -/

theorem colValues_zip_fold (f g : BitVec 4) (ws cs : List Byte) :
    ((colValues f ws).zip (colValues g cs)).foldl (fun v q => v.add (q.1.mul q.2)) Ext.zero =
      (List.range (min (perColumn f.toNat) (perColumn g.toNat))).foldl (fun v e =>
        v.add ((fmtVal f.toNat false (packedCode f.toNat ws e)).mul (fmtVal g.toNat false (packedCode g.toNat cs e)))) Ext.zero := by
  rw [colValues, colValues, zip_map_range, List.foldl_map]

theorem dotScore_eq_scoreOf (q i : Nat) (a : Word) :
    dotScore c (((List.range c.nw.toNat).map fun j => c.wbase.toNat + q * c.nw.toNat + j).map (wReg u))
      (((itemColumns c i).map (columnAt m x)).map (·.bytes)) a = scoreOf m u x c q i a := by
  rw [itemColumns, List.map_map, List.map_map, List.map_map, dotScore, zip_map_range, Nat.min_self, List.foldl_map, scoreOf]
  simp only [blockStep, if_true, colValues_zip_fold]
  rfl

theorem any_met_eq_scoreBad (q i : Nat) :
    ((((List.range c.nw.toNat).map fun j => c.wbase.toNat + q * c.nw.toNat + j).any (wBad u)) ||
      ((itemColumns c i).map (columnAt m x)).any (·.bad)) = scoreBad m u x c q i := by
  rw [itemColumns, List.map_map, List.any_map, List.any_map, any_or_any]
  rfl

/-- The accumulator that query `q` and item `i` score in. -/
def scoreAt (c : PondCmd) (q i : Nat) : Nat := c.adst.toNat + q * c.count.toNat + i

/-- One score of a DOT, or of an MVW where `cont` continues from its accumulator. -/
def dotAcc (m : Memory) (x : UnitAt) (c : PondCmd) (cont : Bool) (u : Machine.Unit) (e : Nat × Nat) : Machine.Unit :=
  let n := scoreAt c e.1 e.2
  setAcc u n (scoreOf m u x c e.1 e.2 (if cont then accOf u n else 0)) (scoreBad m u x c e.1 e.2 || (cont && accBad u n))

theorem dotItem_eq (mvw : Bool) {r : State × Bool} (e : Nat × Nat) (h : Follows s x m u r.1) :
    Follows s x m (dotAcc m x c (mvw && c.acc) u e) (dotItem x t c mvw r e).1 ∧
      (dotItem x t c mvw r e).2 = (r.2 || scoreBad m u x c e.1 e.2) := by
  obtain ⟨hread, hcols⟩ := h.readColumns t (itemColumns c e.2)
  have hregs : ∀ l : List Nat, l.map (Machine.wReg (unitOf (readColumns r.1 x t (itemColumns c e.2)).1 x.key)) = l.map (Machine.wReg u) :=
    fun l => List.map_congr_left fun n _ => hread.wReg n
  have hbad : Machine.wBad (unitOf (readColumns r.1 x t (itemColumns c e.2)).1 x.key) = Machine.wBad u := funext hread.wBad
  unfold dotItem
  dsimp only
  rw [hcols, hregs, hbad, dotScore_eq_scoreOf, any_met_eq_scoreBad, hread.accOf, hread.accBad]
  exact ⟨hread.modUnit (congrArg (fun y => setAcc y (scoreAt c e.1 e.2) _ _) hread.body), rfl⟩

/-- The pairs of query and item that a DOT scores, in order. -/
def dotPairs (c : PondCmd) (nq : Nat) : List (Nat × Nat) :=
  (List.range nq).flatMap fun q => (List.range c.count.toNat).map fun i => (q, i)

/-! #### WSUM -/

/-- One product of WSUM added: item `i`, element `j`. -/
def wsumAcc (m : Memory) (x : UnitAt) (c : PondCmd) (i : Nat) (u : Machine.Unit) (j : Nat) : Machine.Unit :=
  let l := columnAt m x (c.l0 + i * c.step + j / perColumn c.fmtA.toNat)
  let v := fmtVal c.fmtA.toNat false (packedCode c.fmtA.toNat l.bytes (j % perColumn c.fmtA.toNat))
  setAcc u (c.adst.toNat + j)
    (canonAcc (rne32 ((Ext.ofF32 (accOf u (c.adst.toNat + j))).add
      (((Ext.ofF32 (accOf u (c.asrc.toNat + i))).mul v).mul (Ext.ofF32 c.sig)))))
    (l.bad || accBad u (c.asrc.toNat + i) || accBad u (c.adst.toNat + j))

/-- Item `i` of WSUM. -/
def wsumUnit (m : Memory) (x : UnitAt) (c : PondCmd) (u : Machine.Unit) (i : Nat) : Machine.Unit :=
  (List.range (c.nw.toNat * perColumn c.fmtA.toNat)).foldl (wsumAcc m x c i) u

theorem item_values (i : Nat) :
    (((itemColumns c i).map (columnAt m x)).flatMap fun l => (colValues c.fmtA l.bytes).map fun v => (v, l.bad)).zipIdx =
      (List.range (c.nw.toNat * perColumn c.fmtA.toNat)).map fun j =>
        let l := columnAt m x (c.l0 + i * c.step + j / perColumn c.fmtA.toNat)
        ((fmtVal c.fmtA.toNat false (packedCode c.fmtA.toNat l.bytes (j % perColumn c.fmtA.toNat)), l.bad), j) := by
  have hparts : (((itemColumns c i).map (columnAt m x)).flatMap fun l => (colValues c.fmtA l.bytes).map fun v => (v, l.bad)) =
      (List.range c.nw.toNat).flatMap fun a => (List.range (perColumn c.fmtA.toNat)).map fun e =>
        (fmtVal c.fmtA.toNat false (packedCode c.fmtA.toNat (columnAt m x (c.l0 + i * c.step + a)).bytes e),
          (columnAt m x (c.l0 + i * c.step + a)).bad) := by
    simp only [itemColumns, colValues, List.map_map, List.flatMap_map]
    rfl
  rw [hparts, flatMap_map_range, zipIdx_map_range]

theorem follows_wsumItem (r : State × Bool) (u : Machine.Unit) (i : Nat) (h : Follows s x m u r.1) :
    Follows s x m (wsumUnit m x c u i) (wsumItem x t c r i).1 := by
  obtain ⟨hread, hcols⟩ := h.readColumns t (itemColumns c i)
  have hbody : ∀ y : Machine.Unit, (wsumUnit m x c y i).body = wsumUnit m x c y.body i := fun y =>
    (List.foldl_hom Unit.body (g₁ := wsumAcc m x c i) (g₂ := wsumAcc m x c i) fun _ _ => rfl).symm
  unfold wsumItem
  dsimp only
  rw [hcols, item_values]
  refine hread.modUnit ?_
  rw [List.foldl_map]
  change (wsumUnit m x c _ i).body = _
  rw [hbody, hbody, hread.body]

/-! #### EWU, FILL, COPYR and CHECK -/

theorem follows_ewuColumn (r : State × Bool) (m : Memory) (e : Nat × Nat) (h : Follows s x m u r.1) :
    Follows s x (ewuWrites s u x c m e.1 e.2) u (ewuColumn x t c r e).1 := by
  have hread := h.readColumn t e.1
  have hflag : (c.eop != 3) = decide (c.eop ≠ 3) := by by_cases h3 : c.eop = 3 <;> simp [h3]
  unfold ewuColumn ewuWrites
  dsimp only
  rw [h.column t, h.wReg, h.wBad, hflag]
  by_cases h0 : c.eop = 0
  · rw [if_pos h0, if_pos h0, decide_eq_false (not_not_intro h0 : ¬c.eop ≠ 0), Bool.false_and, Bool.or_false]
    exact h.putColumn _ _ _
  · rw [if_neg h0, if_neg h0, decide_eq_true (show c.eop ≠ 0 from h0), Bool.true_and]
    exact hread.putColumn _ _ _

theorem follows_copyrColumn (r : State × Bool) (m : Memory) (i : Nat) (h : Follows s x m u r.1) :
    Follows s x (if (columnAt m x (c.l0 + i)).bad
        then (storeColumn { s with mem := m } x (c.dest + i) (columnAt m x (c.l0 + i)).stored).mem
        else withColumn s x m (c.dest + i) (columnAt m x (c.l0 + i)).bytes false) u (copyrColumn x t c r i).1 := by
  have hread := h.readColumn t (c.l0 + i)
  unfold copyrColumn
  dsimp only
  rw [h.column t]
  split
  · exact hread.storeColumn _ _
  · exact hread.putColumn _ _ _

theorem follows_checkColumn (r : State × Bool) (m : Memory) (i : Nat) (h : Follows s x m u r.1) :
    Follows s x (if c.aux0 && (columnAt m x (c.l0 + i)).corr && !(columnAt m x (c.l0 + i)).bad
        then withColumn s x m (c.l0 + i) (columnAt m x (c.l0 + i)).bytes false else m) u (checkColumn x t c r i).1 := by
  have hread := h.readColumn t (c.l0 + i)
  unfold checkColumn
  dsimp only
  rw [h.column t]
  split
  · exact hread.putColumn _ _ _
  · exact hread

end Effects

end Sys2Proof.Machine

namespace Sys2Proof.Machine

/-! ### The effect of a command (R204) -/

section Effect

variable {s : State} {x : UnitAt} {u : Machine.Unit} (c : PondCmd)

/-- FILL with TGT = 1. -/
def fillUnit (c : PondCmd) (u : Machine.Unit) : Machine.Unit :=
  (List.range c.count.toNat).foldl
    (fun y i => { y with a := tabSet 0 y.a (c.adst.toNat + i) c.sig, aPoison := tabSet false y.aPoison (c.adst.toNat + i) false }) u

/-- The unit after the effect of a command of opcode `op` that reads the memory `m`. -/
def effectUnit (m : Memory) (x : UnitAt) (c : PondCmd) (op : Nat) (u : Machine.Unit) : Machine.Unit :=
  match op with
  | 1 => if c.aux0 then (List.range c.nw.toNat).foldl (ldwLoad m x c) u else u
  | 2 => (dotPairs c (c.nq 2)).foldl (dotAcc m x c false) u
  | 3 => softpUnit c u
  | 4 => (List.range (c.nv 4)).foldl (wsumUnit m x c) u
  | 5 => (dotPairs c 1).foldl (dotAcc m x c c.acc) u
  | 7 => if c.aux0 then fillUnit c u else u
  | 10 => crecvUnit c u
  | 11 => ccombUnit c u
  | _ => u

/-- The memory after the effect of a command of opcode `op` of the unit `u`. -/
def effectMem (s : State) (x : UnitAt) (c : PondCmd) (op : Nat) (u : Machine.Unit) : Memory :=
  match op with
  | 6 => ((List.range c.count.toNat).flatMap fun i => (List.range c.nw.toNat).map fun j => (c.l0 + i * c.step + j, j)).foldl
      (fun m e => ewuWrites s u x c m e.1 e.2) s.mem
  | 7 => if c.aux0 then s.mem
      else (List.range c.count.toNat).foldl (fun m i => withColumn s x m (c.l0 + i) (wReg u c.wbase.toNat) (wBad u c.wbase.toNat)) s.mem
  | 8 => (List.range c.count.toNat).foldl (fun m i =>
      if (columnAt m x (c.l0 + i)).bad
      then (storeColumn { s with mem := m } x (c.dest + i) (columnAt m x (c.l0 + i)).stored).mem
      else withColumn s x m (c.dest + i) (columnAt m x (c.l0 + i)).bytes false) s.mem
  | 12 => (List.range c.count.toNat).foldl (fun m i =>
      if c.aux0 && (columnAt m x (c.l0 + i)).corr && !(columnAt m x (c.l0 + i)).bad
      then withColumn s x m (c.l0 + i) (columnAt m x (c.l0 + i)).bytes false else m) s.mem
  | _ => s.mem

theorem follows_dotEffect (t : Option TenIx) (nq : Nat) (mvw : Bool) :
    Follows s x s.mem ((dotPairs c nq).foldl (dotAcc s.mem x c (mvw && c.acc)) (unitOf s x.key)) (dotEffect s x t c nq mvw).1 :=
  follows_foldl_unit Prod.fst (fun _ _ e h => (dotItem_eq t c mvw e h).1) (dotPairs c nq) (follows_refl s x)

theorem follows_ewuEffect (t : Option TenIx) :
    Follows s x (effectMem s x c 6 (unitOf s x.key)) (unitOf s x.key) (ewuEffect s x t c).1 := by
  have hitems : ((List.range c.count.toNat).flatMap fun i => (itemColumns c i).zipIdx) =
      (List.range c.count.toNat).flatMap fun i => (List.range c.nw.toNat).map fun j => (c.l0 + i * c.step + j, j) := by
    simp only [itemColumns, zipIdx_map_range]
  rw [ewuEffect, hitems]
  exact follows_foldl_mem Prod.fst (fun r m e h => follows_ewuColumn t c r m e h) _ (follows_refl s x)

theorem follows_fillEffect :
    Follows s x (effectMem s x c 7 (unitOf s x.key)) (effectUnit s.mem x c 7 (unitOf s x.key)) (fillEffect s x c).1 := by
  have hunit : effectUnit s.mem x c 7 (unitOf s x.key) = if c.aux0 then fillUnit c (unitOf s x.key) else unitOf s x.key := rfl
  have hmem : effectMem s x c 7 (unitOf s x.key) = if c.aux0 then s.mem
      else (List.range c.count.toNat).foldl (fun m i =>
        withColumn s x m (c.l0 + i) (wReg (unitOf s x.key) c.wbase.toNat) (wBad (unitOf s x.key) c.wbase.toNat)) s.mem := rfl
  rw [hunit, hmem, fillEffect]
  by_cases h : c.aux0 = true
  · rw [if_pos h, if_pos h, if_pos h]
    exact (follows_refl s x).modUnit rfl
  · rw [if_neg h, if_neg h, if_neg h]
    exact follows_foldl_mem id
      (step := fun r i => putColumn r x (c.l0 + i) (wReg (unitOf s x.key) c.wbase.toNat) (wBad (unitOf s x.key) c.wbase.toNat))
      (fun _ _ i h => h.putColumn _ _ _) _ (follows_refl s x)

theorem follows_csendEffect : Follows s x s.mem (unitOf s x.key) (csendEffect s x c).1 := by
  unfold csendEffect
  dsimp only
  split
  · split
    · refine ⟨rfl, rfl, ?_⟩
      rw [unitOf_modUnit]
      split
      · next hkey => rw [← hkey]; rfl
      · rfl
    · exact follows_refl s x
  · exact follows_refl s x

theorem follows_pondEffect (run : PondRun) : Follows s x (effectMem s x run.cmd run.op.toNat (unitOf s x.key))
    (effectUnit s.mem x run.cmd run.op.toNat (unitOf s x.key)) (pondEffect s x run).1 := by
  unfold pondEffect
  dsimp only
  generalize run.op.toNat = n
  have hsame := follows_refl s x
  match n with
  | 0 => exact hsame
  | 1 =>
    by_cases h : run.cmd.aux0 = true
    · have hunit : effectUnit s.mem x run.cmd 1 (unitOf s x.key) = _ := if_pos h
      have hloads := follows_foldl_unit Prod.fst (fun r u j h => follows_ldwColumn run.ten run.cmd r u j h) (List.range run.cmd.nw.toNat)
        (r := (s, false)) hsame
      rw [hunit]
      exact (congrArg Prod.fst (if_pos h)).symm ▸ hloads
    · have hunit : effectUnit s.mem x run.cmd 1 (unitOf s x.key) = _ := if_neg h
      rw [hunit]
      exact (congrArg Prod.fst (if_neg h)).symm ▸ hsame
  | 2 => exact follows_dotEffect run.cmd run.ten _ false
  | 3 => exact hsame.modUnit rfl
  | 4 => exact follows_foldl_unit Prod.fst (fun r u i h => follows_wsumItem run.ten run.cmd r u i h) _ hsame
  | 5 => exact follows_dotEffect run.cmd run.ten 1 true
  | 6 => exact follows_ewuEffect run.cmd run.ten
  | 7 => exact follows_fillEffect run.cmd
  | 8 => exact follows_foldl_mem Prod.fst (fun r m i h => follows_copyrColumn run.ten run.cmd r m i h) _ hsame
  | 9 => exact follows_csendEffect run.cmd
  | 10 => exact hsame.modUnit rfl
  | 11 => exact hsame.modUnit rfl
  | 12 => exact follows_foldl_mem Prod.fst (fun r m i h => follows_checkColumn run.ten run.cmd r m i h) _ hsame
  | _ + 13 => exact hsame

end Effect

end Sys2Proof.Machine

namespace Sys2Proof.Machine

/-! ### What an effect leaves of the unit and of memory -/

section Frame

variable {s : State} {m : Memory} {x : UnitAt} {u : Machine.Unit} (c : PondCmd)

/-- A unit but for its accumulators and for what a CRECV took. -/
def Unit.offAcc (u : Machine.Unit) : Machine.Unit := { u with a := [], aPoison := [], carry := [] }

theorem offAcc_foldl {α : Type} (f : Machine.Unit → α → Machine.Unit) (hf : ∀ y a, (f y a).offAcc = y.offAcc) (l : List α)
    (u : Machine.Unit) : (l.foldl f u).offAcc = u.offAcc :=
  foldl_holds (p := fun y => y.offAcc = u.offAcc) (fun y a _ hy => (hf y a).trans hy) rfl

theorem offAcc_setAcc (y : Machine.Unit) (i : Nat) (v : Word) (bad : Bool) : (setAcc y i v bad).offAcc = y.offAcc := rfl

theorem offAcc_wsumUnit (y : Machine.Unit) (i : Nat) : (wsumUnit m x c y i).offAcc = y.offAcc :=
  offAcc_foldl (wsumAcc m x c i) (fun _ _ => rfl) _ y

/-- One accumulator of a FILL with TGT = 1. -/
def fillAcc (c : PondCmd) (y : Machine.Unit) (i : Nat) : Machine.Unit :=
  { y with a := tabSet 0 y.a (c.adst.toNat + i) c.sig, aPoison := tabSet false y.aPoison (c.adst.toNat + i) false }

/-- A run of accumulators written, as an effect leaves them. -/
def accRun (a : Nat) (es : List (Word × Bool)) (u : Machine.Unit) : Machine.Unit :=
  es.zipIdx.foldl (fun y e => setAcc y (a + e.2) e.1.1 e.1.2) u

theorem offAcc_accRun (a : Nat) (es : List (Word × Bool)) (y : Machine.Unit) : (accRun a es y).offAcc = y.offAcc :=
  offAcc_foldl (fun y (e : (Word × Bool) × Nat) => setAcc y (a + e.2) e.1.1 e.1.2) (fun _ _ => rfl) es.zipIdx y

theorem accOf_accRun (a : Nat) (es : List (Word × Bool)) (y : Machine.Unit) (n : Nat) : accOf (accRun a es y) n =
    if a ≤ n then ((es[n - a]?).map Prod.fst).getD (accOf y n) else accOf y n := accOf_run y es a 0 n

/-- The values that CCOMB combines. -/
def combined (c : PondCmd) (u : Machine.Unit) : List (Word × Bool) :=
  let r := c.asrc.toNat
  let o := c.adst.toNat
  let m := max32 (accOf u r) (accOf u o)
  (List.range (c.vlen + 1)).map fun j =>
    (add32 (mul32 (accOf u (r + 1 + j)) (expdWord (accOf u r) m false)) (mul32 (accOf u (o + 1 + j)) (expdWord (accOf u o) m false)),
      (accBad u r || accBad u o) || accBad u (r + 1 + j) || accBad u (o + 1 + j))

theorem ccombUnit_eq : ccombUnit c u = accRun (c.adst.toNat + 1) (combined c u)
    (setAcc u c.adst.toNat (max32 (accOf u c.asrc.toNat) (accOf u c.adst.toNat)) (accBad u c.asrc.toNat || accBad u c.adst.toNat)) := rfl

theorem crecvUnit_eq : crecvUnit c u = { accRun c.adst.toNat u.carry u with carry := [] } := rfl

/-- The new maximum of SOFTP. -/
def softpMax (c : PondCmd) (u : Machine.Unit) : Word :=
  (List.range (c.nv 3)).foldl (fun v i => max32 v (accOf u (c.asrc.toNat + i))) (accOf u c.adst.toNat)

/-- Whether a poisoned value enters that maximum. -/
def softpBad (c : PondCmd) (u : Machine.Unit) : Bool :=
  accBad u c.adst.toNat || (List.range (c.nv 3)).any fun i => accBad u (c.asrc.toNat + i)

/-- The weights that SOFTP leaves in place of the scores. -/
def softpWeights (c : PondCmd) (u : Machine.Unit) : List (Word × Bool) :=
  (List.range c.count.toNat).map fun i => (expdWord (accOf u (c.asrc.toNat + i)) (softpMax c u) (decide (c.nv 3 ≤ i)),
    decide (i < c.nv 3) && (softpBad c u || accBad u (c.asrc.toNat + i)))

/-- One partial sum rescaled by SOFTP. -/
def rescale (c : PondCmd) (k : Word) (bad : Bool) (y : Machine.Unit) (j : Nat) : Machine.Unit :=
  setAcc y (c.adst.toNat + 2 + j) (mul32 (accOf y (c.adst.toNat + 2 + j)) k) (bad || accBad y (c.adst.toNat + 2 + j))

theorem softpUnit_eq : ∃ bad, softpUnit c u =
    setAcc (setAcc
      ((List.range c.vlen).foldl (rescale c (expdWord (accOf u c.adst.toNat) (softpMax c u) false) (softpBad c u))
        (accRun c.asrc.toNat (softpWeights c u) u)) c.adst.toNat (softpMax c u) (softpBad c u)) (c.adst.toNat + 1)
      ((softpWeights c u).foldl (fun v e => add32 v e.1)
        (mul32 (accOf u (c.adst.toNat + 1)) (expdWord (accOf u c.adst.toNat) (softpMax c u) false))) bad := ⟨_, rfl⟩

theorem offAcc_softpUnit : (softpUnit c u).offAcc = u.offAcc := by
  obtain ⟨bad, h⟩ := softpUnit_eq (u := u) c
  rw [h, offAcc_setAcc, offAcc_setAcc, offAcc_foldl (rescale c _ _) (fun _ _ => rfl), offAcc_accRun]

theorem offAcc_crecvUnit : (crecvUnit c u).offAcc = u.offAcc := by
  rw [crecvUnit_eq]
  exact offAcc_accRun c.adst.toNat u.carry u

theorem offAcc_ccombUnit : (ccombUnit c u).offAcc = u.offAcc := by
  rw [ccombUnit_eq, offAcc_accRun, offAcc_setAcc]

theorem effectUnit_offAcc {op : Nat} (h : op ≠ 1 ∨ c.aux0 = false) : (effectUnit m x c op u).offAcc = u.offAcc := by
  match op with
  | 0 => rfl
  | 1 =>
    have hunit : effectUnit m x c 1 u = _ := if_neg (by rw [h.resolve_left (not_not_intro rfl)]; exact Bool.false_ne_true)
    rw [hunit]
  | 2 => exact offAcc_foldl (dotAcc m x c false) (fun _ _ => rfl) _ u
  | 3 => exact offAcc_softpUnit c
  | 4 => exact offAcc_foldl (wsumUnit m x c) (fun y i => offAcc_wsumUnit c y i) _ u
  | 5 => exact offAcc_foldl (dotAcc m x c c.acc) (fun _ _ => rfl) _ u
  | 6 => rfl
  | 7 =>
    have hunit : effectUnit m x c 7 u = if c.aux0 then fillUnit c u else u := rfl
    rw [hunit]
    split
    · exact offAcc_foldl (fillAcc c) (fun _ _ => rfl) _ u
    · rfl
  | 8 => rfl
  | 9 => rfl
  | 10 => exact offAcc_crecvUnit c
  | 11 => exact offAcc_ccombUnit c
  | _ + 12 => rfl

/-- The W registers of a unit loaded, one after another: nothing else of it changes. -/
theorem ldwLoads_frame (l : List Nat) : (l.foldl (ldwLoad m x c) u).a = u.a ∧ (l.foldl (ldwLoad m x c) u).aPoison = u.aPoison ∧
    (l.foldl (ldwLoad m x c) u).tag = u.tag :=
  foldl_holds (f := ldwLoad m x c) (p := fun y : Machine.Unit => y.a = u.a ∧ y.aPoison = u.aPoison ∧ y.tag = u.tag)
    (fun _ _ _ hy => hy) ⟨rfl, rfl, rfl⟩

theorem effectUnit_tag (op : Nat) : (effectUnit m x c op u).tag = u.tag := by
  by_cases h : op ≠ 1 ∨ c.aux0 = false
  · exact (congrArg Machine.Unit.tag (effectUnit_offAcc (m := m) (x := x) (u := u) c h) :)
  · obtain ⟨rfl, haux⟩ : op = 1 ∧ c.aux0 = true := by simpa using h
    have hunit : effectUnit m x c 1 u = _ := if_pos haux
    rw [hunit]
    exact (ldwLoads_frame c _).2.2

/-- Commands whose effect writes no accumulator. -/
theorem effectUnit_acc {op : Nat} (h : op = 1 ∨ op = 6 ∨ op = 8 ∨ op = 9 ∨ op = 12 ∨ (op = 7 ∧ c.aux0 = false)) :
    (effectUnit m x c op u).a = u.a ∧ (effectUnit m x c op u).aPoison = u.aPoison := by
  obtain rfl | rfl | rfl | rfl | rfl | ⟨rfl, haux⟩ := h
  · have hunit : effectUnit m x c 1 u = if c.aux0 then (List.range c.nw.toNat).foldl (ldwLoad m x c) u else u := rfl
    rw [hunit]
    split
    · obtain ⟨ha, hpoison, -⟩ := ldwLoads_frame (m := m) (x := x) (u := u) c (List.range c.nw.toNat)
      exact ⟨ha, hpoison⟩
    · exact ⟨rfl, rfl⟩
  · exact ⟨rfl, rfl⟩
  · exact ⟨rfl, rfl⟩
  · exact ⟨rfl, rfl⟩
  · exact ⟨rfl, rfl⟩
  · have hunit : effectUnit m x c 7 u = _ := if_neg (by rw [haux]; exact Bool.false_ne_true)
    rw [hunit]
    exact ⟨rfl, rfl⟩

theorem effectMem_same {op : Nat} (h6 : op ≠ 6) (h8 : op ≠ 8) (h12 : op ≠ 12) (h7 : op = 7 → c.aux0 = true) :
    effectMem s x c op u = s.mem := by
  unfold effectMem
  split
  · exact absurd rfl h6
  · exact if_pos (h7 rfl)
  · exact absurd rfl h8
  · exact absurd rfl h12
  · rfl

/-! ### Its status -/

theorem ite_stat (f : Bool) : (if f then (0xA : BitVec 4) else 0) = 0 ∨ (if f then (0xA : BitVec 4) else 0) = 0xA := by
  cases f
  · exact .inl rfl
  · exact .inr rfl

theorem pondEffect_stat (run : PondRun) (h : run.op ≠ 9) : (pondEffect s x run).2 = 0 ∨ (pondEffect s x run).2 = 0xA := by
  have h9 : run.op.toNat ≠ 9 := fun hop => h (BitVec.eq_of_toNat_eq hop)
  unfold pondEffect
  dsimp only
  split
  · split
    · exact ite_stat _
    · exact .inl rfl
  · exact ite_stat _
  · exact .inl rfl
  · exact ite_stat _
  · exact ite_stat _
  · exact ite_stat _
  · exact ite_stat _
  · exact ite_stat _
  · next hop => exact absurd hop h9
  · exact .inl rfl
  · exact .inl rfl
  · exact ite_stat _
  · exact .inl rfl

theorem pondEffect_stat_zero (run : PondRun) (h : run.op = 3 ∨ run.op = 10 ∨ run.op = 11) : (pondEffect s x run).2 = 0 := by
  unfold pondEffect
  rcases h with h | h | h <;> rw [h] <;> rfl

end Frame

end Sys2Proof.Machine

namespace Sys2Proof.Machine

/-! ### The values that an effect leaves -/

section Values

variable {s : State} {m : Memory} {x : UnitAt} {u : Machine.Unit} (c : PondCmd)

/-! #### W registers of an LDW -/

theorem columnAt_bytes_length (l : Nat) : (columnAt m x l).bytes.length = 32 := by
  simp [columnAt, bytesOfWords, List.range_succ, leBytes_length]

theorem columnAt_raw_length (l : Nat) : (bytesOfWords ((columnAt m x l).stored.map (·.d))).length = 32 := by
  simp [columnAt, bytesOfWords, List.range_succ, leBytes_length]

theorem ldwLoads_wReg (hfit : c.wbase.toNat + c.nw.toNat ≤ 32) {j : Nat} (hj : j < c.nw.toNat) :
    wReg ((List.range c.nw.toNat).foldl (ldwLoad m x c) u) (c.wbase.toNat + j) =
        (if (columnAt m x (c.l0 + j)).bad then bytesOfWords ((columnAt m x (c.l0 + j)).stored.map (·.d))
          else (columnAt m x (c.l0 + j)).bytes) ∧
      wBad ((List.range c.nw.toNat).foldl (ldwLoad m x c) u) (c.wbase.toNat + j) = (columnAt m x (c.l0 + j)).bad := by
  have hlen : (if (columnAt m x (c.l0 + j)).bad then bytesOfWords ((columnAt m x (c.l0 + j)).stored.map (·.d))
      else (columnAt m x (c.l0 + j)).bytes).length = 32 := by
    split
    · exact columnAt_raw_length _
    · exact columnAt_bytes_length _
  obtain ⟨r, -, -, hload⟩ := foldl_visits (fun y => (wReg y (c.wbase.toNat + j), wBad y (c.wbase.toNat + j))) (p := fun _ => True)
    (f := ldwLoad m x c) (fun _ _ _ => trivial) List.nodup_range (List.mem_range.2 hj) (fun y i hi hne _ => by
      have hlt := List.mem_range.1 hi
      refine Prod.ext (wReg_setW_ne y _ (by omega)) ((wBad_setW y _ _ (by omega)).trans (if_neg (by omega)))) (s := u) trivial
  refine ⟨(congrArg Prod.fst hload).trans (wReg_setW r _ _ hlen), (congrArg Prod.snd hload).trans ?_⟩
  exact (wBad_setW r _ _ (by omega)).trans (if_pos rfl)

/-! #### Scores of DOT and MVW -/

theorem scoreOf_congr {y : Machine.Unit} (h : y.offAcc = u.offAcc) (q i : Nat) (a : Word) : scoreOf m y x c q i a = scoreOf m u x c q i a :=
  (congrArg (fun z => scoreOf m z x c q i a) h :)

theorem scoreBad_congr {y : Machine.Unit} (h : y.offAcc = u.offAcc) (q i : Nat) : scoreBad m y x c q i = scoreBad m u x c q i :=
  (congrArg (fun z => scoreBad m z x c q i) h :)

theorem offAcc_dotAcc (cont : Bool) (y : Machine.Unit) (e : Nat × Nat) : (dotAcc m x c cont y e).offAcc = y.offAcc := rfl

theorem mem_dotPairs {nq q i : Nat} : (q, i) ∈ dotPairs c nq ↔ q < nq ∧ i < c.count.toNat := by
  simp [dotPairs]

theorem dotPairs_nodup (nq : Nat) : (dotPairs c nq).Nodup := List.Nodup.product List.nodup_range List.nodup_range

theorem scoreAt_injective {q i q' i' : Nat} (hi : i < c.count.toNat) (hi' : i' < c.count.toNat) (h : scoreAt c q i = scoreAt c q' i') :
    (q, i) = (q', i') := by
  have hsum : q * c.count.toNat + i = q' * c.count.toNat + i' := by unfold scoreAt at h; omega
  have hmod := congrArg (· % c.count.toNat) hsum
  have hdiv := congrArg (· / c.count.toNat) hsum
  simp only [Nat.mul_add_mod_self_right, Nat.mod_eq_of_lt hi, Nat.mod_eq_of_lt hi'] at hmod
  have hpos : 0 < c.count.toNat := by omega
  simp only [Nat.mul_comm _ c.count.toNat, Nat.mul_add_div hpos, Nat.div_eq_of_lt hi, Nat.div_eq_of_lt hi', Nat.add_zero] at hdiv
  rw [hmod, hdiv]

theorem dotPairs_score {nq q i : Nat} (cont : Bool) (hq : q < nq) (hi : i < c.count.toNat) :
    accOf ((dotPairs c nq).foldl (dotAcc m x c cont) u) (scoreAt c q i) =
        scoreOf m u x c q i (if cont then accOf u (scoreAt c q i) else 0) ∧
      accBad ((dotPairs c nq).foldl (dotAcc m x c cont) u) (scoreAt c q i) = (accBad u (scoreAt c q i) || scoreBad m u x c q i) := by
  obtain ⟨r, hr, hbefore, hafter⟩ := foldl_visits (fun y => (accOf y (scoreAt c q i), accBad y (scoreAt c q i)))
    (p := fun y => y.offAcc = u.offAcc) (f := dotAcc m x c cont) (fun y e hy => (offAcc_dotAcc c cont y e).trans hy) (dotPairs_nodup c nq)
    ((mem_dotPairs c).2 ⟨hq, hi⟩) (fun y e he hne _ => by
      have hlt := ((mem_dotPairs c).1 he).2
      have hat : scoreAt c q i ≠ scoreAt c e.1 e.2 := fun h => hne (scoreAt_injective c hi hlt h).symm
      exact Prod.ext ((accOf_setAcc _ _ _ _ _).trans (if_neg hat)) ((accBad_setAcc _ _ _ _ _).trans (if_neg hat))) (s := u) rfl
  have hacc : accOf r (scoreAt c q i) = accOf u (scoreAt c q i) := congrArg Prod.fst hbefore
  have hbad : accBad r (scoreAt c q i) = accBad u (scoreAt c q i) := congrArg Prod.snd hbefore
  refine ⟨(congrArg Prod.fst hafter).trans ?_, (congrArg Prod.snd hafter).trans ?_⟩
  · refine (accOf_setAcc _ _ _ _ _).trans ((if_pos rfl).trans ?_)
    dsimp only
    rw [scoreOf_congr c hr, hacc]
  · refine (accBad_setAcc _ _ _ _ _).trans ((if_pos rfl).trans ?_)
    dsimp only
    rw [scoreBad_congr c hr, hbad]
    cases accBad u (scoreAt c q i) <;> simp

theorem dotPairs_other {nq n : Nat} (cont : Bool) (hn : n < c.adst.toNat ∨ c.adst.toNat + nq * c.count.toNat ≤ n) :
    accOf ((dotPairs c nq).foldl (dotAcc m x c cont) u) n = accOf u n :=
  foldl_holds (p := fun y => accOf y n = accOf u n) (fun y e he hy => by
    obtain ⟨hq, hi⟩ := (mem_dotPairs c).1 he
    have hle : (e.1 + 1) * c.count.toNat ≤ nq * c.count.toNat := Nat.mul_le_mul_right _ hq
    rw [Nat.succ_mul] at hle
    refine (accOf_setAcc _ _ _ _ _).trans ((if_neg ?_).trans hy)
    unfold scoreAt
    omega) rfl

theorem dotEffect_flag (t : Option TenIx) (nq : Nat) (mvw : Bool) :
    (dotEffect s x t c nq mvw).2 = (dotPairs c nq).any fun e => scoreBad s.mem (unitOf s x.key) x c e.1 e.2 := by
  have hflag := foldl_any (f := dotItem x t c mvw) (l := dotPairs c nq) Prod.snd (fun e => scoreBad s.mem (unitOf s x.key) x c e.1 e.2)
    (p := fun r => ∃ u, Follows s x s.mem u r.1 ∧ u.offAcc = (unitOf s x.key).offAcc)
    (fun r e ⟨u, hu, hoff⟩ => ⟨dotAcc s.mem x c (mvw && c.acc) u e, (dotItem_eq t c mvw e hu).1,
      (offAcc_dotAcc c _ u e).trans hoff⟩)
    (fun r e ⟨u, hu, hoff⟩ => by rw [(dotItem_eq t c mvw e hu).2, scoreBad_congr c hoff])
    (s := (s, false)) ⟨_, follows_refl s x, rfl⟩
  exact hflag

/-! #### Sums of WSUM -/

theorem wsum_weighted (n : Nat) :
    accOf ((List.range (c.nv 4)).foldl (wsumUnit m x c) u) n = weighted m x c (accOf u) n := by
  have hpairs : (List.range (c.nv 4)).foldl (wsumUnit m x c) u =
      ((List.range (c.nv 4)).flatMap fun i => (List.range (c.nw.toNat * perColumn c.fmtA.toNat)).map fun j => (i, j)).foldl
        (fun y e => wsumAcc m x c e.1 y e.2) u := by
    rw [List.foldl_flatMap]
    simp only [List.foldl_map]
    rfl
  rw [hpairs, weighted]
  refine congrFun (List.foldl_hom accOf fun y e => ?_).symm n
  funext k
  rw [wsumAcc, accOf_setAcc]
  by_cases hk : k = c.adst.toNat + e.2
  · rw [if_pos hk, if_pos hk, hk]
  · rw [if_neg hk, if_neg hk]

/-! #### Accumulators of FILL, CRECV, CCOMB and SOFTP -/

theorem accOf_fillAcc (i n : Nat) (y : Machine.Unit) : accOf (fillAcc c y i) n = if n = c.adst.toNat + i then c.sig else accOf y n :=
  tabGet_tabSet _ _ _ _ _

theorem accBad_fillAcc (i n : Nat) (y : Machine.Unit) : accBad (fillAcc c y i) n = if n = c.adst.toNat + i then false else accBad y n :=
  tabGet_tabSet false y.aPoison (c.adst.toNat + i) false n

theorem fillUnit_filled {i : Nat} (hi : i < c.count.toNat) :
    accOf (fillUnit c u) (c.adst.toNat + i) = c.sig ∧ accBad (fillUnit c u) (c.adst.toNat + i) = false := by
  obtain ⟨r, -, -, hfill⟩ := foldl_visits (fun y => (accOf y (c.adst.toNat + i), accBad y (c.adst.toNat + i))) (p := fun _ => True)
    (f := fillAcc c) (fun _ _ _ => trivial) List.nodup_range (List.mem_range.2 hi) (fun y j _ hne _ =>
      Prod.ext ((accOf_fillAcc c j _ y).trans (if_neg (by omega))) ((accBad_fillAcc c j _ y).trans (if_neg (by omega))))
    (s := u) trivial
  exact ⟨(congrArg Prod.fst hfill).trans ((accOf_fillAcc c i _ r).trans (if_pos rfl)),
    (congrArg Prod.snd hfill).trans ((accBad_fillAcc c i _ r).trans (if_pos rfl))⟩

theorem fillUnit_other {n : Nat} (hn : n < c.adst.toNat ∨ c.adst.toNat + c.count.toNat ≤ n) : accOf (fillUnit c u) n = accOf u n :=
  foldl_holds (f := fillAcc c) (p := fun y => accOf y n = accOf u n) (fun y i hi hy => by
    have hlt := List.mem_range.1 hi
    exact (accOf_fillAcc c i n y).trans ((if_neg (by omega)).trans hy)) rfl

theorem crecvUnit_taken {i : Nat} {v : Word × Bool} (h : u.carry[i]? = some v) : accOf (crecvUnit c u) (c.adst.toNat + i) = v.1 := by
  refine (accOf_accRun c.adst.toNat u.carry u (c.adst.toNat + i)).trans ?_
  rw [if_pos (by omega), Nat.add_sub_cancel_left, h]
  rfl

theorem ccombUnit_acc (n : Nat) : accOf (ccombUnit c u) n =
    if n = c.adst.toNat then max32 (accOf u c.asrc.toNat) (accOf u c.adst.toNat)
    else if c.adst.toNat < n ∧ n ≤ c.adst.toNat + 1 + c.vlen then
      add32 (mul32 (accOf u (c.asrc.toNat + (n - c.adst.toNat)))
          (expdWord (accOf u c.asrc.toNat) (max32 (accOf u c.asrc.toNat) (accOf u c.adst.toNat)) false))
        (mul32 (accOf u n) (expdWord (accOf u c.adst.toNat) (max32 (accOf u c.asrc.toNat) (accOf u c.adst.toNat)) false))
    else accOf u n := by
  rw [ccombUnit_eq, accOf_accRun, accOf_setAcc]
  rcases Nat.lt_trichotomy n c.adst.toNat with hlt | rfl | hgt
  · rw [if_neg (by omega), if_neg (by omega), if_neg (by omega), if_neg (by omega)]
  · rw [if_neg (by omega), if_pos rfl, if_pos rfl]
  · rw [if_pos (by omega), if_neg (by omega), if_neg (by omega), combined, List.getElem?_map]
    by_cases hin : n ≤ c.adst.toNat + 1 + c.vlen
    · rw [if_pos ⟨hgt, hin⟩, List.getElem?_range (by omega)]
      dsimp only [Option.map_some, Option.getD_some]
      rw [show c.asrc.toNat + 1 + (n - (c.adst.toNat + 1)) = c.asrc.toNat + (n - c.adst.toNat) by omega,
        show c.adst.toNat + 1 + (n - (c.adst.toNat + 1)) = n by omega]
    · rw [if_neg (fun h => hin h.2), List.getElem?_eq_none (by rw [List.length_range]; omega)]
      rfl

theorem rescaled_acc (k : Word) (bad : Bool) (v n : Nat) (y : Machine.Unit) : accOf ((List.range v).foldl (rescale c k bad) y) n =
    if c.adst.toNat + 2 ≤ n ∧ n < c.adst.toNat + 2 + v then mul32 (accOf y n) k else accOf y n := by
  induction v with
  | zero => rw [if_neg (by omega)]; rfl
  | succ v ih =>
    rw [List.range_succ, List.foldl_append, List.foldl_cons, List.foldl_nil, rescale, accOf_setAcc]
    by_cases hn : n = c.adst.toNat + 2 + v
    · subst hn
      rw [if_pos rfl, if_pos (by omega), ih, if_neg (by omega)]
    · rw [if_neg hn, ih]
      exact if_congr (by omega) rfl rfl

theorem softpWeights_acc (n : Nat) : accOf (accRun c.asrc.toNat (softpWeights c u) u) n =
    if c.asrc.toNat ≤ n ∧ n < c.asrc.toNat + c.count.toNat
    then expdWord (accOf u n) (softpMax c u) (decide (c.nv 3 ≤ n - c.asrc.toNat)) else accOf u n := by
  rw [accOf_accRun, softpWeights, List.getElem?_map]
  by_cases hlow : c.asrc.toNat ≤ n
  · rw [if_pos hlow]
    by_cases hin : n < c.asrc.toNat + c.count.toNat
    · rw [if_pos ⟨hlow, hin⟩, List.getElem?_range (by omega)]
      dsimp only [Option.map_some, Option.getD_some]
      rw [Nat.add_sub_cancel' hlow]
    · rw [if_neg (fun h => hin h.2), List.getElem?_eq_none (by rw [List.length_range]; omega)]
      rfl
  · rw [if_neg hlow, if_neg (fun h => hlow h.1)]

theorem softpUnit_acc {e : Nat → Word}
    (he : ∀ n, e n = if c.asrc.toNat ≤ n ∧ n < c.asrc.toNat + c.count.toNat
      then expdWord (accOf u n) (softpMax c u) (decide (c.nv 3 ≤ n - c.asrc.toNat)) else accOf u n) (n : Nat) :
    accOf (softpUnit c u) n = if n = c.adst.toNat then softpMax c u
      else if n = c.adst.toNat + 1 then (List.range c.count.toNat).foldl
        (fun v i => add32 v (expdWord (accOf u (c.asrc.toNat + i)) (softpMax c u) (decide (c.nv 3 ≤ i))))
        (mul32 (accOf u (c.adst.toNat + 1)) (expdWord (accOf u c.adst.toNat) (softpMax c u) false))
      else if c.adst.toNat + 2 ≤ n ∧ n < c.adst.toNat + 2 + c.vlen
        then mul32 (e n) (expdWord (accOf u c.adst.toNat) (softpMax c u) false) else e n := by
  obtain ⟨bad, h⟩ := softpUnit_eq (u := u) c
  rw [h, accOf_setAcc, accOf_setAcc, rescaled_acc, softpWeights_acc, ← he]
  by_cases hmax : n = c.adst.toNat
  · rw [if_pos hmax, if_neg (by omega), if_pos hmax]
  · rw [if_neg hmax, if_neg hmax]
    refine if_congr Iff.rfl ?_ rfl
    rw [softpWeights, List.foldl_map]

/-! #### Latches of CSEND -/

/-- The values that a CSEND sends. -/
def sentValues (c : PondCmd) (u : Machine.Unit) : List (Word × Bool) :=
  (List.range c.count.toNat).map fun i => (accOf u (c.asrc.toNat + i), accBad u (c.asrc.toNat + i))

theorem csendEffect_latch (b : BankIx) {tk : Nat} (htk : bankKey b.stack.val b.die.val (physBank s b.stack b.die c.tgt) = tk) :
    ((unitOf s tk).latch = [] → (csendEffect s (unitAt s b) c).2 = 0 ∧
      (unitOf (csendEffect s (unitAt s b) c).1 tk).latch = sentValues c (unitOf s (unitAt s b).key)) ∧
    ((unitOf s tk).latch ≠ [] → csendEffect s (unitAt s b) c = (s, 7)) := by
  have hbank : csendEffect s (unitAt s b) c =
      if (unitOf s tk).latch.isEmpty then
        (modUnit s tk fun y => { y with latch := sentValues c (unitOf s (unitAt s b).key) }, 0)
      else (s, 7) := by
    subst htk
    exact dif_pos ⟨b.stack.isLt, b.die.isLt⟩
  refine ⟨fun hempty => ?_, fun hfull => ?_⟩
  · rw [hbank, hempty]
    exact ⟨rfl, congrArg Machine.Unit.latch (unitOf_modUnit_same s tk _)⟩
  · rw [hbank, if_neg (by rw [List.isEmpty_eq_false_iff.2 hfull]; exact Bool.false_ne_true)]

end Values

end Sys2Proof.Machine

namespace Sys2Proof.Machine

/-! ### Start and end (R203, R204, R213, R259) -/

section StartEnd

variable {s : State} {b : BankIx} {run : PondRun}

theorem settleExit_mem (s : State) (k : StackIx) (q : PcIx) : (settleExit s k q).mem = s.mem := by
  unfold settleExit
  split <;> rfl

theorem settleExit_units (s : State) (k : StackIx) (q : PcIx) : (settleExit s k q).dram.units = s.dram.units := by
  unfold settleExit
  split <;> rfl

theorem noteWaiting_mem (s : State) (b : BankIx) : (noteWaiting s b).mem = s.mem := by
  unfold noteWaiting
  split <;> rfl

theorem noteWaiting_units (s : State) (b : BankIx) : (noteWaiting s b).dram.units = s.dram.units := by
  unfold noteWaiting
  split <;> rfl

theorem beginRefresh_mem (s : State) (b : BankIx) : (beginRefresh s b).mem = s.mem := by
  rw [beginRefresh, modBank_mem, mem_of_quiet (quiet_sendTo _ b _), mem_of_quiet (quiet_closeRow s b)]

theorem beginRefresh_units (s : State) (b : BankIx) : (beginRefresh s b).dram.units = s.dram.units := by
  rw [beginRefresh, modBank_dram_units, units_of_quiet (quiet_sendTo _ b _), units_of_quiet (quiet_closeRow s b)]

theorem forcedRefresh_mem (s : State) (b : BankIx) : (forcedRefresh s b).mem = s.mem := by
  unfold forcedRefresh
  split
  · rw [logEvent_mem, modStack_mem, beginRefresh_mem]
  · rfl

theorem forcedRefresh_units (s : State) (b : BankIx) : (forcedRefresh s b).dram.units = s.dram.units := by
  unfold forcedRefresh
  split
  · rw [logEvent_dram, modStack_dram_units, beginRefresh_units]
  · rfl

/-! #### The start -/

/-- What keeps a held command from starting: a refresh, or an access that came before it. -/
def startWaits (s : State) (b : BankIx) : Bool :=
  let k := bankOf s (bankKeyOf b)
  k.refreshing || (k.waiting && (stackOf s b.stack).queue.any fun q => reqBank b.stack q.req == b) || k.asked.any (asking s)

/-- The held command taken from its register, the bank's asks answered. -/
def heldTaken (s : State) (b : BankIx) : State := answered (modUnit s (unitAt s b).key fun y => { y with holding := none }) b

theorem exec_start_of_none (h : (unitOf s (unitAt s b).key).holding = none) : exec (.pondCommandStart b) s = .next s := by
  change execPondCommandStart b s = _
  unfold execPondCommandStart
  dsimp only
  rw [h]

theorem exec_start_of_running (h : (unitOf s (unitAt s b).key).running.isSome = true) : exec (.pondCommandStart b) s = .next s := by
  change execPondCommandStart b s = _
  unfold execPondCommandStart
  dsimp only
  obtain ⟨r, hr⟩ := Option.isSome_iff_exists.1 h
  rw [hr]
  split
  · next hnone => cases hnone
  · rfl

theorem exec_start_of_held (h : (unitOf s (unitAt s b).key).holding = some run) (hr : (unitOf s (unitAt s b).key).running = none) :
    exec (.pondCommandStart b) s =
      .next (if startWaits s b then s else settleExit (startRun (heldTaken s b) b run) b.stack (bankSeg b).pc) := by
  change execPondCommandStart b s = _
  unfold execPondCommandStart
  dsimp only
  rw [h, hr]
  rfl

theorem exec_start_of_waits (h : startWaits s b = true) : exec (.pondCommandStart b) s = .next s := by
  cases hh : (unitOf s (unitAt s b).key).holding with
  | none => exact exec_start_of_none hh
  | some run =>
    cases hr : (unitOf s (unitAt s b).key).running with
    | none => rw [exec_start_of_held hh hr, h]; rfl
    | some r => exact exec_start_of_running (by rw [hr]; rfl)

theorem startWaits_of_waiting (hw : (bankOf s (bankKeyOf b)).waiting = true)
    (hq : ∃ q ∈ (stackOf s b.stack).queue, reqBank b.stack q.req = b) : startWaits s b = true := by
  obtain ⟨q, hq, hbank⟩ := hq
  have hany : ((stackOf s b.stack).queue.any fun q => reqBank b.stack q.req == b) = true :=
    List.any_eq_true.2 ⟨q, hq, beq_iff_eq.2 hbank⟩
  unfold startWaits
  dsimp only
  rw [hw, hany, Bool.and_self, Bool.or_true, Bool.true_or]

theorem startWaits_false (hf : (bankOf s (bankKeyOf b)).refreshing = false)
    (hw : (bankOf s (bankKeyOf b)).waiting = true → ∀ q ∈ (stackOf s b.stack).queue, reqBank b.stack q.req ≠ b)
    (ha : (bankOf s (bankKeyOf b)).asked.any (asking s) = false) : startWaits s b = false := by
  have hwait : ((bankOf s (bankKeyOf b)).waiting && (stackOf s b.stack).queue.any fun q => reqBank b.stack q.req == b) = false := by
    refine Bool.and_eq_false_imp.2 fun hwaiting => List.any_eq_false.2 fun q hq => ?_
    rw [beq_false_of_ne (hw hwaiting q hq)]
    exact Bool.false_ne_true
  unfold startWaits
  dsimp only
  rw [hf, hwait, ha]
  rfl

theorem unitOf_heldTaken : unitOf (heldTaken s b) (unitAt s b).key = { unitOf s (unitAt s b).key with holding := none } :=
  (unitOf_of_units (units_of_quiet (quiet_answered _ b)) _).trans (unitOf_modUnit_same s _ _)

theorem unitAt_heldTaken : unitAt (heldTaken s b) b = unitAt s b :=
  unitAt_of_setting (setting_of_quiet (quiet_answered (modUnit s (unitAt s b).key fun y => { y with holding := none }) b)) b

/-- A held command started. -/
theorem startRun_held {x : Machine.Unit} (hx : unitOf s (unitAt s b).key = x) (hr : x.running = none) :
    ∃ y, unitOf (startRun (heldTaken s b) b run) (unitAt s b).key = y ∧ y.holding = none ∧
      (run.op = 0 → pondStop 0 run.cmd b.bank.val x.latch.length = none → y.running = none ∧ y.lop = 0 ∧ y.stat = 0) ∧
      (run.op ≠ 0 → y.running = some run ∧
        ∀ st, pondStop run.op run.cmd b.bank.val x.latch.length = some st → y.runStat = st) := by
  have hunit : unitOf (heldTaken s b) (unitAt (heldTaken s b) b).key = { x with holding := none } := by
    rw [unitAt_heldTaken, unitOf_heldTaken, hx]
  refine ⟨_, rfl, ?_⟩
  rw [← unitAt_heldTaken (s := s) (b := b)]
  cases hnop : endsAtOnce run b.bank.val x.latch with
  | true =>
    obtain ⟨hop, -⟩ := (endsAtOnce_iff _ _).1 hnop
    rw [startRun_of_nop (by rw [hunit]; exact hnop), hunit]
    exact ⟨rfl, fun _ _ => ⟨hr, rfl, rfl⟩, fun hne => absurd hop hne⟩
  | false =>
    have hread {β : Type} (get : Machine.Unit → β) (hget : ∀ z r bs bad, get (setW z r bs bad) = get z) :=
      startRun_of_run (s := heldTaken s b) (b := b) (run := run) get hget (by rw [hunit]; exact hnop)
    simp only [hunit] at hread
    refine ⟨hread _ fun _ _ _ _ => rfl, fun hop hstop => ?_, fun _ => ⟨hread _ fun _ _ _ _ => rfl, fun st hst => ?_⟩⟩
    · rw [(endsAtOnce_iff _ _).2 ⟨hop, by rw [hop]; exact hstop⟩] at hnop
      cases hnop
    · exact (hread Machine.Unit.runStat fun _ _ _ _ => rfl).trans (startStat_of_stop _ hst)

/-! #### The end -/

/-- The effect of the running command, and the status that it ends with. -/
def judged (s : State) (b : BankIx) (run : PondRun) : State × BitVec 4 :=
  if (unitOf s (unitAt s b).key).runStat = 0 then pondEffect s (unitAt s b) run else (s, (unitOf s (unitAt s b).key).runStat)

/-- A unit whose command has ended with a status. -/
def ended (run : PondRun) (stat : BitVec 4) (y : Machine.Unit) : Machine.Unit :=
  { y with running := none, runStat := 0, carry := [], lop := run.op, stat := stat }

theorem exec_end_of_none (h : (unitOf s (unitAt s b).key).running = none) : exec (.pondCommandEnd b) s = .next s := by
  change execPondCommandEnd b s = _
  unfold execPondCommandEnd
  dsimp only
  rw [h]

theorem exec_end_of_payload (h : (unitOf s (unitAt s b).key).running = some run) (hp : (unitOf s (unitAt s b).key).payload ≠ 0) :
    exec (.pondCommandEnd b) s = .next s := by
  change execPondCommandEnd b s = _
  unfold execPondCommandEnd
  dsimp only
  rw [h]
  exact congrArg _ (if_neg hp)

theorem exec_end_of_running (h : (unitOf s (unitAt s b).key).running = some run) (hp : (unitOf s (unitAt s b).key).payload = 0) :
    ∃ u, exec (.pondCommandEnd b) s = .next u ∧ u.mem = (judged s b run).1.mem ∧ ∀ n, unitOf u n =
      if n = (unitAt s b).key then ended run (judged s b run).2 (unitOf (judged s b run).1 n) else unitOf (judged s b run).1 n := by
  have hend : endRun s b run =
      noteWaiting (modUnit (judged s b run).1 (unitAt s b).key (ended run (judged s b run).2)) b := rfl
  have hexec : exec (.pondCommandEnd b) s = .next (settleExit (forcedRefresh (endRun s b run) b) b.stack (bankSeg b).pc) := by
    change execPondCommandEnd b s = _
    unfold execPondCommandEnd
    dsimp only
    rw [h]
    exact congrArg _ (if_pos hp)
  refine ⟨_, hexec, ?_, fun n => ?_⟩
  · rw [settleExit_mem, forcedRefresh_mem, hend, noteWaiting_mem, modUnit_mem]
  · rw [unitOf_of_units (settleExit_units _ _ _), unitOf_of_units (forcedRefresh_units _ b), hend,
      unitOf_of_units (noteWaiting_units _ b), unitOf_modUnit]
    split
    · next hn => rw [hn]
    · rfl

end StartEnd

end Sys2Proof.Machine

namespace Sys2Proof.Machine

/-! ### What each command leaves -/

section EndedBy

variable {s : State} {x : UnitAt} {run : PondRun}

theorem pondEffect_dot_stat (h : run.op = 2 ∨ run.op = 5) : (pondEffect s x run).2 =
    if (dotPairs run.cmd (run.cmd.nq run.op)).any fun e => scoreBad s.mem (unitOf s x.key) x run.cmd e.1 e.2 then 0xA else 0 := by
  unfold pondEffect
  rcases h with h | h
  · rw [h, ← dotEffect_flag run.cmd run.ten _ false]
    rfl
  · rw [h, ← dotEffect_flag run.cmd run.ten _ true]
    rfl

theorem pondEffect_dot_ue (h : run.op = 2 ∨ run.op = 5) : (pondEffect s x run).2 = 0xA ↔
    ∃ q i, q < run.cmd.nq run.op ∧ i < run.cmd.count.toNat ∧ scoreBad s.mem (unitOf s x.key) x run.cmd q i = true := by
  rw [pondEffect_dot_stat h]
  refine Iff.trans (b := ((dotPairs run.cmd (run.cmd.nq run.op)).any fun e => scoreBad s.mem (unitOf s x.key) x run.cmd e.1 e.2) = true)
    ?_ ?_
  · split
    · next hany => exact iff_of_true rfl hany
    · next hany => exact iff_of_false (by decide) hany
  · rw [List.any_eq_true]
    constructor
    · rintro ⟨⟨q, i⟩, hmem, hbad⟩
      obtain ⟨hq, hi⟩ := (mem_dotPairs run.cmd).1 hmem
      exact ⟨q, i, hq, hi, hbad⟩
    · rintro ⟨q, i, hq, hi, hbad⟩
      exact ⟨(q, i), (mem_dotPairs run.cmd).2 ⟨hq, hi⟩, hbad⟩

theorem pondEffect_fill_stat (h : run.op = 7) (haux : run.cmd.aux0 = true) : (pondEffect s x run).2 = 0 := by
  unfold pondEffect
  rw [h]
  have hfill : (fillEffect s x run.cmd).2 = false := congrArg Prod.snd (if_pos haux)
  exact (congrArg (fun f => if f then (0xA : BitVec 4) else 0) hfill).trans rfl

theorem pondEffect_csend (h : run.op = 9) : pondEffect s x run = csendEffect s x run.cmd := by
  unfold pondEffect
  rw [h]
  rfl

/-! What the state that follows an effect shows, by opcode. -/

section Shown

variable {m : Memory} {u : Machine.Unit} {r : State}

theorem Follows.ldw_loads {c : PondCmd} (h : Follows s x m (effectUnit s.mem x c 1 u) r) (haux : c.aux0 = true)
    (hfit : c.wbase.toNat + c.nw.toNat ≤ 32) {j : Nat} (hj : j < c.nw.toNat) :
    Machine.wReg (unitOf r x.key) (c.wbase.toNat + j) =
        (if (columnAt s.mem x (c.l0 + j)).bad then bytesOfWords ((columnAt s.mem x (c.l0 + j)).stored.map (·.d))
          else (columnAt s.mem x (c.l0 + j)).bytes) ∧
      Machine.wBad (unitOf r x.key) (c.wbase.toNat + j) = (columnAt s.mem x (c.l0 + j)).bad := by
  have hload : effectUnit s.mem x c 1 u = _ := if_pos haux
  rw [hload] at h
  obtain ⟨hw, hbad⟩ := ldwLoads_wReg c hfit hj
  exact ⟨(h.wReg _).trans hw, (h.wBad _).trans hbad⟩

theorem Follows.dot_scores {c : PondCmd} (h : Follows s x m (effectUnit s.mem x c 2 u) r) {q i : Nat} (hq : q < c.nq 2)
    (hi : i < c.count.toNat) : Machine.accOf (unitOf r x.key) (scoreAt c q i) = scoreOf s.mem u x c q i 0 ∧
      Machine.accBad (unitOf r x.key) (scoreAt c q i) = (Machine.accBad u (scoreAt c q i) || scoreBad s.mem u x c q i) := by
  obtain ⟨hscore, hbad⟩ := dotPairs_score (m := s.mem) (x := x) (u := u) c false hq hi
  exact ⟨(h.accOf _).trans hscore, (h.accBad _).trans hbad⟩

theorem Follows.mvw_scores {c : PondCmd} (h : Follows s x m (effectUnit s.mem x c 5 u) r) {i : Nat} (hi : i < c.count.toNat) :
    Machine.accOf (unitOf r x.key) (c.adst.toNat + i) =
        scoreOf s.mem u x c 0 i (if c.acc then Machine.accOf u (c.adst.toNat + i) else 0) ∧
      Machine.accBad (unitOf r x.key) (c.adst.toNat + i) = (Machine.accBad u (c.adst.toNat + i) || scoreBad s.mem u x c 0 i) := by
  obtain ⟨hscore, hbad⟩ := dotPairs_score (m := s.mem) (x := x) (u := u) (nq := 1) c c.acc one_pos hi
  rw [scoreAt, Nat.zero_mul, Nat.add_zero] at hscore hbad
  exact ⟨(h.accOf _).trans hscore, (h.accBad _).trans hbad⟩

theorem Follows.fills {c : PondCmd} (h : Follows s x m (effectUnit s.mem x c 7 u) r) (haux : c.aux0 = true) :
    (∀ i, i < c.count.toNat → Machine.accOf (unitOf r x.key) (c.adst.toNat + i) = c.sig ∧
        Machine.accBad (unitOf r x.key) (c.adst.toNat + i) = false) ∧
      ∀ i, i < c.adst.toNat ∨ c.adst.toNat + c.count.toNat ≤ i → Machine.accOf (unitOf r x.key) i = Machine.accOf u i := by
  have hfill : effectUnit s.mem x c 7 u = _ := if_pos haux
  rw [hfill] at h
  refine ⟨fun i hi => ?_, fun i hi => (h.accOf i).trans (fillUnit_other c hi)⟩
  obtain ⟨hacc, hbad⟩ := fillUnit_filled (u := u) c hi
  exact ⟨(h.accOf _).trans hacc, (h.accBad _).trans hbad⟩

end Shown

end EndedBy

/-- Settles O43: the start by what keeps it waiting, the end by the effect that its state follows. -/
theorem pondCommandsRun : Obligations.PondCommandsRun := by
  unfold Obligations.PondCommandsRun
  rintro s b run x - rfl
  refine ⟨?_, fun hh hr hf hw ha => ?_, exec_end_of_none, exec_end_of_payload, fun hrun hpay => ?_⟩
  · rintro (h | h | h | ⟨hw, hq⟩ | h)
    · exact exec_start_of_none h
    · exact exec_start_of_running h
    · exact exec_start_of_waits (by unfold startWaits; dsimp only; rw [h, Bool.true_or, Bool.true_or])
    · exact exec_start_of_waits (startWaits_of_waiting hw hq)
    · exact exec_start_of_waits (by unfold startWaits; dsimp only; rw [h, Bool.or_true])
  · obtain ⟨y, hy, hstarted⟩ := startRun_held (s := s) (b := b) (run := run) rfl hr
    refine ⟨_, y, exec_start_of_held hh hr, ?_, ?_, hstarted⟩
    · rw [startWaits_false hf hw ha, if_neg Bool.false_ne_true, settleExit_mem, startRun_mem, heldTaken, answered_mem, modUnit_mem]
    · rw [startWaits_false hf hw ha, if_neg Bool.false_ne_true, unitOf_of_units (settleExit_units _ _ _), hy]
  obtain ⟨u, hexec, hmem, hunits⟩ := exec_end_of_running hrun hpay
  have hown := (hunits (unitAt s b).key).trans (if_pos rfl)
  refine ⟨fun hst => ?_, fun hst => ?_⟩
  · have hj : judged s b run = (s, (unitOf s (unitAt s b).key).runStat) := if_neg hst
    rw [hj] at hmem hown
    exact ⟨u, hexec, hmem, hown⟩
  have hj : judged s b run = pondEffect s (unitAt s b) run := if_pos hst
  rw [hj] at hmem hunits hown
  have heffect : ∀ n, run.op.toNat = n → Follows s (unitAt s b) (effectMem s (unitAt s b) run.cmd n (unitOf s (unitAt s b).key))
      (effectUnit s.mem (unitAt s b) run.cmd n (unitOf s (unitAt s b).key)) (pondEffect s (unitAt s b) run).1 := by
    rintro n rfl
    exact follows_pondEffect run
  have hop : ∀ k : BitVec 6, run.op = k → run.op.toNat = k.toNat := fun k h => congrArg BitVec.toNat h
  have hne : ∀ k : BitVec 6, run.op ≠ k → run.op.toNat ≠ k.toNat := fun k h hk => h (BitVec.eq_of_toNat_eq hk)
  have hbody := (heffect _ rfl).body
  refine ⟨u, _, hexec, hown, rfl, rfl, ?_, pondEffect_stat run, pondEffect_stat_zero run, fun h => ?_, fun h => ?_,
    fun h6 h8 h12 h7 => ?_, ?_, fun h7 haux => ?_, fun h10 i v hv => ?_, ?_⟩
  · exact (congrArg Machine.Unit.tag hbody).trans (effectUnit_tag _ _)
  · have hoff := effectUnit_offAcc (m := s.mem) (x := unitAt s b) (u := unitOf s (unitAt s b).key) run.cmd (h.imp (hne 1) id)
    exact ⟨(congrArg Machine.Unit.w hbody).trans (congrArg Machine.Unit.w hoff :),
      (congrArg Machine.Unit.wPoison hbody).trans (congrArg Machine.Unit.wPoison hoff :)⟩
  · obtain ⟨ha, hpoison⟩ := effectUnit_acc (m := s.mem) (x := unitAt s b) (u := unitOf s (unitAt s b).key) run.cmd
      (h.imp (hop 1) (Or.imp (hop 6) (Or.imp (hop 8) (Or.imp (hop 9) (Or.imp (hop 12) (And.imp (hop 7) id))))))
    exact ⟨(congrArg Machine.Unit.a hbody).trans ha, (congrArg Machine.Unit.aPoison hbody).trans hpoison⟩
  · exact (hmem.trans (heffect _ rfl).mem).trans
      (effectMem_same run.cmd (hne 6 h6) (hne 8 h8) (hne 12 h12) fun hn => h7 (BitVec.eq_of_toNat_eq hn))
  · rintro p c rfl rfl
    refine ⟨?_, ?_, ?_, fun h => ⟨?_, ?_⟩, ?_, ?_, ?_, ?_, ?_, ?_, ?_⟩
    · rintro h haux hfit j hj l rfl
      exact (heffect 1 (hop 1 h)).ldw_loads haux hfit hj
    · rintro h q i hq hi d rfl
      exact (heffect 2 (hop 2 h)).dot_scores hq hi
    · rintro h i hi d rfl
      exact (heffect 5 (hop 5 h)).mvw_scores hi
    · exact pondEffect_dot_ue h
    · intro n hn
      rcases h with h | h
      · rw [h] at hn
        exact ((heffect 2 (hop 2 h)).accOf n).trans (dotPairs_other run.cmd false hn)
      · rw [h] at hn
        exact ((heffect 5 (hop 5 h)).accOf n).trans (dotPairs_other run.cmd run.cmd.acc hn)
    · rintro h m k e rfl rfl he n
      exact ((heffect 3 (hop 3 h)).accOf n).trans (softpUnit_acc run.cmd he n)
    · exact fun h n => ((heffect 4 (hop 4 h)).accOf n).trans (wsum_weighted run.cmd n)
    · exact fun h => hmem.trans (heffect 6 (hop 6 h)).mem
    · intro h haux
      have hfill : effectMem s (unitAt s b) run.cmd 7 (unitOf s (unitAt s b).key) = _ := if_neg (by rw [haux]; exact Bool.false_ne_true)
      exact (hmem.trans (heffect 7 (hop 7 h)).mem).trans hfill
    · exact fun h => hmem.trans (heffect 8 (hop 8 h)).mem
    · rintro h m rfl n
      exact ((heffect 11 (hop 11 h)).accOf n).trans (ccombUnit_acc run.cmd n)
    · exact fun h => hmem.trans (heffect 12 (hop 12 h)).mem
  · exact ⟨pondEffect_fill_stat h7 haux, (heffect 7 (hop 7 h7)).fills haux⟩
  · exact ((heffect 10 (hop 10 h10)).accOf _).trans (crecvUnit_taken run.cmd hv)
  · intro h9 tk htk
    obtain ⟨hempty, hfull⟩ := csendEffect_latch run.cmd b htk
    have hlatch : (unitOf u tk).latch = (unitOf (pondEffect s (unitAt s b) run).1 tk).latch := by
      rw [hunits tk]
      split <;> rfl
    rw [pondEffect_csend h9] at hlatch ⊢
    refine ⟨fun h => ?_, fun h => ?_⟩
    · obtain ⟨hstat, hsent⟩ := hempty h
      exact ⟨hstat, hlatch.trans hsent⟩
    · rw [hfull h] at hlatch ⊢
      exact ⟨rfl, hlatch⟩

end Sys2Proof.Machine

/-! ## O46: refresh, training, clock changes, parity alerts and self-refresh (R257 to R263, R265, R267, R268, R271, R272, R367, R369) -/

namespace Sys2Proof.Machine

section Refresh

/-! ### What a refresh leaves of its bank, and of every other (R257, R259) -/

variable (s : State) (k : StackIx) (b : BankIx)

theorem bankKeyOf_injective : Function.Injective bankKeyOf := by
  rintro ⟨k, d, i⟩ ⟨k', d', i'⟩ h
  have hkey : (k.val * 16 + d.val) * 264 + i.val = (k'.val * 16 + d'.val) * 264 + i'.val := h
  simp only [BankIx.mk.injEq, Fin.ext_iff]
  omega

/-- What a change of one bank keeps, it keeps of every bank. -/
theorem modBank_keeps {γ : Type} (g : BankSt → γ) {f : BankSt → BankSt} (hf : ∀ x, g (f x) = g x) (m n : Nat) :
    g (bankOf (modBank s m f) n) = g (bankOf s n) := by
  rw [bankOf_modBank]
  split
  · next h => rw [hf, h]
  · rfl

@[simp] theorem closeRow_owed (n : Nat) : (bankOf (closeRow s b) n).owed = (bankOf s n).owed := by
  unfold closeRow prechargeBank
  split
  · rfl
  · rw [modBank_keeps _ BankSt.owed]
    · rfl
    · exact fun _ => rfl

@[simp] theorem beginRefresh_owed (n : Nat) : (bankOf (beginRefresh s b) n).owed = (bankOf s n).owed := by
  rw [beginRefresh, modBank_keeps _ BankSt.owed]
  · exact closeRow_owed s b n
  · exact fun _ => rfl

theorem beginRefresh_bank : bankOf (beginRefresh s b) (bankKeyOf b) =
    { bankOf (closeRow s b) (bankKeyOf b) with refreshing := true } := by
  rw [beginRefresh, bankOf_modBank, if_pos rfl]
  rfl

theorem beginRefresh_closes : (bankOf (beginRefresh s b) (bankKeyOf b)).openRow = none := by
  rw [beginRefresh_bank]
  exact closeRow_closes s b

/-! ### A forced refresh (R259) -/

@[simp] theorem forcedRefresh_owed (n : Nat) : (bankOf (forcedRefresh s b) n).owed = (bankOf s n).owed := by
  unfold forcedRefresh
  split
  · exact beginRefresh_owed s b n
  · rfl

variable {s k b}

theorem forcedRefresh_of_few (h : (bankOf s (bankKeyOf b)).owed < 8) : forcedRefresh s b = s := by
  rw [forcedRefresh, decide_eq_false (Nat.not_le.2 h)]
  rfl

theorem forcedRefresh_of_eight (howed : 8 ≤ (bankOf s (bankKeyOf b)).owed) (hready : (bankOf s (bankKeyOf b)).refreshing = false)
    (hidle : (unitOf s (unitAt s b).key).running = none) : (bankOf (forcedRefresh s b) (bankKeyOf b)).refreshing = true := by
  rw [forcedRefresh, decide_eq_true howed, hready, hidle]
  exact congrArg BankSt.refreshing (beginRefresh_bank s b)

/-! ### The refresh tick (R257, R260) -/

theorem accrue_owed (n : Nat) : (bankOf (accrue s b) n).owed =
    if n = bankKeyOf b then min 8 ((bankOf s (bankKeyOf b)).owed + 1) else (bankOf s n).owed := by
  rw [accrue, forcedRefresh_owed, bankOf_modStack, bankOf_modBank]
  split <;> rfl

theorem accrue_mem : (accrue s b).mem = s.mem := by
  rw [accrue, forcedRefresh_mem]
  rfl

theorem stackBanks_nodup (k : StackIx) : (stackBanks k).Nodup := by
  refine List.nodup_flatMap.2 ⟨fun d _ => (List.nodup_finRange 256).map fun i j h => by simpa using h, ?_⟩
  refine (List.nodup_finRange 16).imp fun {d e} hne => ?_
  intro x hd he
  obtain ⟨i, -, rfl⟩ := List.mem_map.1 hd
  obtain ⟨j, -, h⟩ := List.mem_map.1 he
  exact hne (congrArg BankIx.die h).symm

theorem exec_refreshTick_of_selfRefresh (h : inSelfRefresh s k = true) : exec (.refreshTick k) s = .next s := by
  change execRefreshTick k s = .next s
  rw [execRefreshTick, h]
  rfl

theorem exec_refreshTick (h : inSelfRefresh s k = false) : ∃ u, exec (.refreshTick k) s = .next u ∧ u.mem = s.mem ∧
    ∀ x ∈ stackBanks k, (bankOf u (bankKeyOf x)).owed = min 8 ((bankOf s (bankKeyOf x)).owed + 1) := by
  have hexec : exec (.refreshTick k) s =
      .next ((stackBanks k).foldl accrue (modStack s k fun x => { x with refX2 := doubledRefresh s k })) := by
    change execRefreshTick k s = _
    rw [execRefreshTick, h]
    rfl
  refine ⟨_, hexec, foldl_keeps State.mem accrue (fun _ _ => accrue_mem) _ _, fun x hx => ?_⟩
  obtain ⟨r, -, hmet, hleft⟩ := foldl_visits (p := fun _ => True) (f := accrue) (fun r => (bankOf r (bankKeyOf x)).owed)
    (fun _ _ _ => trivial) (stackBanks_nodup k) hx (s := modStack s k fun x => { x with refX2 := doubledRefresh s k })
    (fun r a _ hne _ => by
      rw [accrue_owed, if_neg fun h => hne (bankKeyOf_injective h).symm]) trivial
  rw [hleft, accrue_owed, if_pos rfl, hmet, bankOf_modStack]

/-! ### Stacks that refresh themselves (R263, R272) -/

theorem inSelfRefresh_of_changed (hmode : (stackOf s k).mode = .clockChange)
    (htick : (stackOf s k).changeTick.toNat + 22 * 800 ≤ s.tick.toNat) : inSelfRefresh s k = false := by
  simp only [inSelfRefresh, hmode, decide_eq_false (Nat.not_lt.2 htick)]
  rfl

theorem inSelfRefresh_of_serving (h : (stackOf s k).mode = .run ∨ (stackOf s k).mode = .training) : inSelfRefresh s k = false := by
  rcases h with h | h <;> simp only [inSelfRefresh, h] <;> rfl

/-! ### Refresh windows (R214, R257, R258) -/

theorem windowOpen_iff : windowOpen s b = true ↔ (bankOf s (bankKeyOf b)).refreshing = false ∧ unitIdle s b = true ∧
    stackServes s b.stack = true ∧ (dueBanks s (s.tick.toNat + 192)).contains b = false := by
  have hrun : unitIdle s b = true → (unitOf s (unitAt s b).key).running.isSome = false := fun h => by
    rw [unitIdle, Bool.and_eq_true, Option.isNone_iff_eq_none] at h
    rw [h.1]; rfl
  simp only [windowOpen, bankBusy, Bool.and_eq_true, Bool.not_eq_true', Bool.or_eq_false_iff, Bool.not_eq_false']
  exact ⟨fun ⟨⟨⟨⟨_, hready⟩, hserves⟩, hidle⟩, hdue⟩ => ⟨hready, hidle, hserves, hdue⟩,
    fun ⟨hready, hidle, hserves, hdue⟩ => ⟨⟨⟨⟨hrun hidle, hready⟩, hserves⟩, hidle⟩, hdue⟩⟩

theorem refreshable_iff : refreshable s b = true ↔ (bankOf s (bankKeyOf b)).owed ≠ 0 ∧ windowOpen s b = true := by
  simp [refreshable]

theorem exec_refreshIssue_of_not (h : refreshable s b = false) : exec (.refreshIssue b) s = .next s := by
  change execRefreshIssue b s = .next s
  rw [execRefreshIssue, h]
  rfl

/-- The lowest of the banks of its segment that are owed a refresh has its own. -/
theorem exec_refreshIssue_of_lowest (h : refreshable s b = true)
    (hlow : ∀ a ∈ allSegBanks (bankSeg b), a.bank.val < b.bank.val → (bankOf s (bankKeyOf a)).owed = 0) :
    exec (.refreshIssue b) s = .next (beginRefresh s b) := by
  have hfirst : ((allSegBanks (bankSeg b)).all fun a => decide (b.bank.val ≤ a.bank.val) || !refreshable s a) = true := by
    refine List.all_eq_true.2 fun a ha => ?_
    rcases Nat.lt_or_ge a.bank.val b.bank.val with hlt | hge
    · rw [refreshable, hlow a ha hlt]
      exact Bool.or_true _
    · rw [decide_eq_true hge]
      rfl
  change execRefreshIssue b s = _
  rw [execRefreshIssue, h, hfirst]
  rfl

theorem exec_refreshIssue_not_due (h : (bankOf s (bankKeyOf b)).owed = 0 ∨ (bankOf s (bankKeyOf b)).refreshing = true ∨
    unitIdle s b = false ∨ stackServes s b.stack = false ∨ (dueBanks s (s.tick.toNat + 192)).contains b = true) :
    exec (.refreshIssue b) s = .next s := by
  refine exec_refreshIssue_of_not (Bool.eq_false_iff.2 fun hdue => ?_)
  obtain ⟨howed, hopen⟩ := refreshable_iff.1 hdue
  obtain ⟨hready, hidle, hserves, hfree⟩ := windowOpen_iff.1 hopen
  simp only [howed, hready, hidle, hserves, hfree, Bool.false_eq_true, Bool.true_eq_false, or_self] at h

theorem exec_refreshIssue_begins (howed : (bankOf s (bankKeyOf b)).owed ≠ 0) (hready : (bankOf s (bankKeyOf b)).refreshing = false)
    (hidle : unitIdle s b = true) (hserves : stackServes s b.stack = true)
    (hfree : (dueBanks s (s.tick.toNat + 192)).contains b = false)
    (hlow : ∀ a ∈ allSegBanks (bankSeg b), a.bank.val < b.bank.val → (bankOf s (bankKeyOf a)).owed = 0) :
    ∃ u, exec (.refreshIssue b) s = .next u ∧ (bankOf u (bankKeyOf b)).refreshing = true ∧
      (bankOf u (bankKeyOf b)).openRow = none ∧ (bankOf u (bankKeyOf b)).owed = (bankOf s (bankKeyOf b)).owed ∧
      u.mem = s.mem ∧ u.dram.units = s.dram.units := by
  have hdue := refreshable_iff.2 ⟨howed, windowOpen_iff.2 ⟨hready, hidle, hserves, hfree⟩⟩
  exact ⟨_, exec_refreshIssue_of_lowest hdue hlow, congrArg BankSt.refreshing (beginRefresh_bank s b), beginRefresh_closes s b,
    beginRefresh_owed s b _, beginRefresh_mem s b, beginRefresh_units s b⟩

/-! ### The end of a refresh or of a training step (R257, R259, R261) -/

variable (s b) in
/-- The bank once its refresh or training step is over. -/
def refreshPaid : State :=
  modBank s (bankKeyOf b) fun x =>
    { x with refreshing := false, train := false, owed := if x.late || x.train then x.owed else x.owed - 1,
             late := x.late && x.train }

theorem exec_refreshComplete (h : (bankOf s (bankKeyOf b)).refreshing = true) :
    exec (.refreshComplete b) s = .next (forcedRefresh (refreshPaid s b) b) := by
  change execRefreshComplete b s = _
  rw [execRefreshComplete, h]
  rfl

theorem exec_refreshComplete_of_not (h : (bankOf s (bankKeyOf b)).refreshing = false) : exec (.refreshComplete b) s = .next s := by
  change execRefreshComplete b s = .next s
  rw [execRefreshComplete, h]
  rfl

theorem refreshPaid_refreshing : (bankOf (refreshPaid s b) (bankKeyOf b)).refreshing = false := by
  rw [refreshPaid, bankOf_modBank, if_pos rfl]

end Refresh

section Training

variable {s : State} {k : StackIx} {b : BankIx}

/-! ### Passes and their steps (R261, R262) -/

theorem exec_trainingPeriodic_begins (hmode : (stackOf s k).mode = .run) (hdefer : (stackOf s k).defer = none) :
    exec (.trainingPeriodic ⟨k, none⟩) s = .next (modStack s k fun x => { x with mode := .training }) := by
  change execTrainingPeriodic ⟨k, none⟩ s = _
  simp only [execTrainingPeriodic, hmode, hdefer]
  rfl

theorem exec_trainingPeriodic_waits (h : (stackOf s k).mode ≠ .run ∨ (stackOf s k).defer ≠ none) :
    exec (.trainingPeriodic ⟨k, none⟩) s = .next s := by
  change execTrainingPeriodic ⟨k, none⟩ s = _
  have hno : ((stackOf s k).mode == .run && (stackOf s k).defer.isNone) = false := by
    rcases h with h | h
    · rw [beq_false_of_ne h, Bool.false_and]
    · rw [Option.isNone_eq_false_iff.2 (Option.isSome_iff_ne_none.2 h), Bool.and_false]
  simp only [execTrainingPeriodic, hno]
  rfl

variable (s b) in
/-- A bank in a training step (R261). -/
def stepTaken : State := modBank (closeRow s b) (bankKeyOf b) fun x => { x with refreshing := true, train := true }

theorem exec_trainingStep_eq : exec (.trainingPeriodic ⟨b.stack, some (b.die, b.bank)⟩) s = .next (trainBank s b) := rfl

theorem exec_trainingStep (hmode : (stackOf s b.stack).mode = .training) (hopen : windowOpen s b = true) :
    exec (.trainingPeriodic ⟨b.stack, some (b.die, b.bank)⟩) s = .next (stepTaken s b) := by
  rw [exec_trainingStep_eq]
  rw [trainBank, hmode, hopen]
  rfl

theorem exec_trainingStep_waits (h : (stackOf s b.stack).mode ≠ .training ∨ windowOpen s b = false) :
    exec (.trainingPeriodic ⟨b.stack, some (b.die, b.bank)⟩) s = .next s := by
  rw [exec_trainingStep_eq]
  have hno : ((stackOf s b.stack).mode == .training && windowOpen s b) = false := by
    rcases h with h | h
    · rw [beq_false_of_ne h, Bool.false_and]
    · rw [h, Bool.and_false]
  rw [trainBank, hno]
  rfl

theorem stepTaken_bank : bankOf (stepTaken s b) (bankKeyOf b) =
    { bankOf (closeRow s b) (bankKeyOf b) with refreshing := true, train := true } := by
  rw [stepTaken, bankOf_modBank, if_pos rfl]

/-- A step takes its bank as a refresh does, and pays none (R261). -/
theorem stepTaken_spec : (bankOf (stepTaken s b) (bankKeyOf b)).refreshing = true ∧
    (bankOf (stepTaken s b) (bankKeyOf b)).openRow = none ∧
    (bankOf (stepTaken s b) (bankKeyOf b)).owed = (bankOf s (bankKeyOf b)).owed ∧ bankBusy (stepTaken s b) b = true ∧
    (stepTaken s b).mem = s.mem ∧ (stepTaken s b).dram.units = s.dram.units := by
  have hbank := stepTaken_bank (s := s) (b := b)
  have hrefreshing : (bankOf (stepTaken s b) (bankKeyOf b)).refreshing = true := by rw [hbank]
  refine ⟨hrefreshing, ?_, ?_, ?_, closeRow_mem s b, closeRow_units s b⟩
  · rw [hbank]; exact closeRow_closes s b
  · rw [hbank]; exact closeRow_owed s b _
  · rw [bankBusy, hrefreshing, Bool.or_true, Bool.true_or]

/-! ### The end of a pass (R261 to R263, R265, R272) -/

theorem fullPass_iff : fullPass s k = true ↔ (stackOf s k).trained = false ∧
    (((stackOf s k).mode = .clockChange ∧ inSelfRefresh s k = false) ∨
      ((stackOf s k).mode = .selfRefresh ∧ s.host.attach = .attached)) := by
  simp [fullPass]

theorem badPcs_zero (x : Stack) : badPcs x 0 = [] := by simp [badPcs]

/-- A pass that finds every eye. -/
theorem countFails_zero : countFails s k 0 = s := by rw [countFails, badPcs_zero]; rfl

variable (s k) in
/-- A pass has found every eye, and its settings are applied. -/
def passApplied : State :=
  modStack (clearFails s k 0) k fun y =>
    { y with passes := y.passes + 1, mode := if y.mode == .training then .run else y.mode, trained := y.mode != .training }

theorem exec_trainingPassEnd_applies (hpass : (stackOf s k).mode = .training ∨ fullPass s k = true)
    (hdefer : (stackOf s k).mode = .training → (stackOf s k).defer = none) :
    exec (.trainingPassEnd k 0) s = .next (passApplied s k) := by
  have hruns : ((stackOf s k).mode != .training && !fullPass s k) = false := by
    rcases hpass with h | h <;> rw [h] <;> simp
  have hkept : ((stackOf s k).mode == .training && (stackOf s k).defer.isSome) = false := by
    by_cases h : (stackOf s k).mode = .training
    · rw [hdefer h]; exact Bool.and_false _
    · rw [beq_false_of_ne h]; rfl
  change execTrainingPassEnd k 0 s = _
  simp only [execTrainingPassEnd, hruns, hkept, countFails_zero, badPcs_zero]
  rfl

theorem exec_trainingPassEnd_none (hmode : (stackOf s k).mode ≠ .training) (hfull : ¬ fullPass s k = true) :
    exec (.trainingPassEnd k 0) s = .next s := by
  change execTrainingPassEnd k 0 s = _
  have hno : ((stackOf s k).mode != .training && !fullPass s k) = true := by simp [hmode, hfull]
  simp only [execTrainingPassEnd, hno]
  rfl

theorem exec_trainingPassEnd_discards {clk : Byte} (hmode : (stackOf s k).mode = .training) (hdefer : (stackOf s k).defer = some clk) :
    exec (.trainingPassEnd k 0) s =
      .next (logEvent (modStack s k fun y => { y with mode := .run, discard := satAdd y.discard 1 }) 0x62
        [BitVec.ofNat 8 k.val, 0xFF] none) := by
  change execTrainingPassEnd k 0 s = _
  simp only [execTrainingPassEnd, hmode, hdefer]
  rfl

theorem passApplied_stack : (stackOf (passApplied s k) k).passes = (stackOf s k).passes + 1 ∧
    (stackOf (passApplied s k) k).mode = (if (stackOf s k).mode == .training then .run else (stackOf s k).mode) ∧
    (stackOf (passApplied s k) k).trained = ((stackOf s k).mode != .training) := by
  rw [passApplied, stackOf_modStack_same, clearFails, stackOf_modStack_same]
  exact ⟨rfl, rfl, rfl⟩

theorem exec_trainingPassEnd_counts (hmode : (stackOf s k).mode = .training) (hdefer : (stackOf s k).defer = none) :
    ∃ u, exec (.trainingPassEnd k 0) s = .next u ∧ (stackOf u k).mode = .run ∧
      (stackOf u k).passes = (stackOf s k).passes + 1 ∧ u.mem = s.mem := by
  obtain ⟨hpasses, hrun, -⟩ := passApplied_stack (s := s) (k := k)
  exact ⟨_, exec_trainingPassEnd_applies (.inl hmode) fun _ => hdefer, by rw [hrun, hmode]; rfl, hpasses, rfl⟩

theorem exec_trainingPassEnd_discarded {clk : Byte} (hmode : (stackOf s k).mode = .training)
    (hdefer : (stackOf s k).defer = some clk) : ∃ u, exec (.trainingPassEnd k 0) s = .next u ∧ (stackOf u k).mode = .run ∧
      (stackOf u k).passes = (stackOf s k).passes ∧ (stackOf u k).discard = satAdd (stackOf s k).discard 1 := by
  refine ⟨_, exec_trainingPassEnd_discards hmode hdefer, ?_⟩
  rw [stackOf, logEvent_dram, ← stackOf, stackOf_modStack_same]
  exact ⟨rfl, rfl, rfl⟩

theorem exec_trainingPassEnd_of_run (hmode : (stackOf s k).mode = .run) : exec (.trainingPassEnd k 0) s = .next s :=
  exec_trainingPassEnd_none (by rw [hmode]; decide) fun h => by simp [fullPass_iff, hmode] at h

theorem exec_trainingPassEnd_of_selfRefresh (hmode : (stackOf s k).mode = .selfRefresh) (hattach : s.host.attach ≠ .attached) :
    exec (.trainingPassEnd k 0) s = .next s :=
  exec_trainingPassEnd_none (by rw [hmode]; decide) fun h => by simp [fullPass_iff, hmode, hattach] at h

theorem exec_trainingPassEnd_of_full (hdue : ((stackOf s k).mode = .clockChange ∧ inSelfRefresh s k = false) ∨
    ((stackOf s k).mode = .selfRefresh ∧ s.host.attach = .attached)) (htrained : (stackOf s k).trained = false) :
    ∃ u, exec (.trainingPassEnd k 0) s = .next u ∧ (stackOf u k).trained = true ∧ (stackOf u k).mode = (stackOf s k).mode ∧
      (stackOf u k).passes = (stackOf s k).passes + 1 ∧ u.mem = s.mem := by
  have hnot : (stackOf s k).mode ≠ .training := by
    rcases hdue with ⟨h, -⟩ | ⟨h, -⟩ <;> rw [h] <;> decide
  obtain ⟨hpasses, hmode, hdone⟩ := passApplied_stack (s := s) (k := k)
  refine ⟨_, exec_trainingPassEnd_applies (.inr (fullPass_iff.2 ⟨htrained, hdue⟩)) fun h => absurd h hnot, ?_, ?_, hpasses, rfl⟩
  · rw [hdone]; simpa using hnot
  · rw [hmode, beq_false_of_ne hnot]; rfl

end Training

section Records

variable {s u : State}

/-! ### What traffic and refreshes leave of the stacks -/

/-- A stack but for what its traffic, its refreshes and a change of pond mode or of clock change in it. -/
def Stack.record (x : Stack) : Stack :=
  { x with sent := [], alerts := [], merge := 0, queue := [], wq := [], pond := 0, exiting := 0, forced := 0, trained := false }

/-- The records of all stacks. -/
def records (s : State) (n : Nat) : Stack := (tabGet Stack.reset s.dram.stk n).record

theorem stackOf_of_records (h : records u = records s) (k : StackIx) : (stackOf u k).record = (stackOf s k).record := congrFun h k.val

theorem records_of_quiet (h : quiet u = quiet s) : records u = records s :=
  funext fun n => (congrArg Stack.record (congrFun (congrArg Bedrock.stk h) n) :)

variable (s)

theorem records_modStack (k : StackIx) {f : Stack → Stack} (hf : ∀ x, (f x).record = x.record) :
    records (modStack s k f) = records s := by
  funext n
  rw [records, modStack, tabGet_tabModify]
  split
  · next hn => rw [hf, records, hn]
  · rfl

theorem records_closeRow (b : BankIx) : records (closeRow s b) = records s := records_of_quiet (quiet_closeRow s b)

theorem records_beginRefresh (b : BankIx) : records (beginRefresh s b) = records s :=
  (records_of_quiet (quiet_sendTo (closeRow s b) b (.refresh b))).trans (records_closeRow s b)

theorem records_logEvent (code : Byte) (d : List Byte) (t : Option TenIx) : records (logEvent s code d t) = records s := rfl

theorem records_forcedRefresh (b : BankIx) : records (forcedRefresh s b) = records s := by
  unfold forcedRefresh
  split
  · rw [records_logEvent, records_modStack, records_beginRefresh]
    exact fun _ => rfl
  · rfl

theorem records_settleExit (k : StackIx) (q : PcIx) : records (settleExit s k q) = records s := by
  unfold settleExit
  split
  · exact records_modStack s k fun _ => rfl
  · rfl

/-! ### The write queue goes to the arrays (R263) -/

theorem records_drainEntry (k : StackIx) (pc : PcIx) (e : WqEntry) : records (drainEntry s k pc e) = records s := by
  obtain ⟨hint, h⟩ := drainEntry_eq s k pc e
  have hgone : records (entryStoredState s k pc e) = records (entryReady s k pc e) := by
    rw [entryStoredState, records_modStack, dropQueued, records_modStack]
    · rfl
    · exact fun _ => rfl
    · exact fun _ => rfl
  rw [h, records_of_quiet (quiet_rowAfter _ _ _ hint), hgone, records_of_quiet (quiet_entryReady s k pc e)]

theorem drainEntry_wq (k : StackIx) (pc p : PcIx) (e : WqEntry) :
    tabGet [] (stackOf (drainEntry s k pc e) k).wq p.val =
      if p = pc then (tabGet [] (stackOf s k).wq pc.val).filter fun z => z != e else tabGet [] (stackOf s k).wq p.val := by
  obtain ⟨hint, h⟩ := drainEntry_eq s k pc e
  rw [h, rowAfter, stackOf_modBank, entryStoredState, stackOf_modStack_same, tabGet_tabModify, dropQueued, stackOf_modStack_same]
  have hready := wq_of_quiet (quiet_entryReady s k pc e) k
  rw [← hready]
  simp only [Fin.ext_iff]
  rfl

variable (k : StackIx)

/-- The entries of a stack's write queue, each with its pseudo-channel, in the order in which they go to the arrays. -/
def drainOrder : List (PcIx × WqEntry) :=
  (stackOf s k).wq.flatMap fun kv => kv.2.map fun e => (⟨kv.1 % 64, Nat.mod_lt _ (by decide)⟩, e)

theorem drainStack_eq : drainStack s k = (drainOrder s k).foldl (fun r x => drainEntry r k x.1 x.2) s := by
  rw [drainStack, drainOrder, List.foldl_flatMap]
  simp only [List.foldl_map]

theorem mem_of_mem_tabGet {α : Type} {t : Tab (List α)} {n : Nat} {e : α} (h : e ∈ tabGet [] t n) : (n, tabGet [] t n) ∈ t := by
  induction t with
  | nil => cases h
  | cons x t ih =>
    obtain ⟨m, l⟩ := x
    rw [tabGet] at h ⊢
    split
    · next hn => rw [hn]; exact List.mem_cons_self
    · next hn =>
      rw [if_neg hn] at h
      exact List.mem_cons_of_mem _ (ih h)

theorem mem_drainOrder {p : PcIx} {e : WqEntry} (h : e ∈ tabGet [] (stackOf s k).wq p.val) : (p, e) ∈ drainOrder s k := by
  refine List.mem_flatMap.2 ⟨_, mem_of_mem_tabGet h, List.mem_map.2 ⟨e, h, ?_⟩⟩
  simp only [Nat.mod_eq_of_lt p.isLt]

/-- No entry joins a queue that drains. -/
theorem mem_of_mem_drained {p pc : PcIx} {e z : WqEntry} (h : z ∈ tabGet [] (stackOf (drainEntry s k pc e) k).wq p.val) :
    z ∈ tabGet [] (stackOf s k).wq p.val := by
  rw [drainEntry_wq] at h
  split at h
  · next hp => rw [hp]; exact (List.mem_filter.1 h).1
  · exact h

theorem not_mem_drained {p : PcIx} {e : WqEntry} : e ∉ tabGet [] (stackOf (drainEntry s k p e) k).wq p.val := by
  rw [drainEntry_wq, if_pos rfl]
  simp

theorem drainStack_empties (p : PcIx) : tabGet [] (stackOf (drainStack s k) k).wq p.val = [] := by
  refine List.eq_nil_iff_forall_not_mem.2 fun e hlast => ?_
  rw [drainStack_eq] at hlast
  have hfirst : e ∈ tabGet [] (stackOf s k).wq p.val := by
    exact foldl_inv (fun r => e ∈ tabGet [] (stackOf r k).wq p.val → e ∈ tabGet [] (stackOf s k).wq p.val) _
      (fun r x hr h => hr (mem_of_mem_drained r k h)) (drainOrder s k) s id hlast
  exact foldl_settles (a := (p, e)) (f := fun r (x : PcIx × WqEntry) => drainEntry r k x.1 x.2)
    (P := fun r => e ∉ tabGet [] (stackOf r k).wq p.val) (Q := fun _ => True)
    (fun r _ => not_mem_drained r k) (fun r x hr h => hr (mem_of_mem_drained r k h)) (fun _ _ _ => trivial)
    (mem_drainOrder s k hfirst) trivial hlast

/-! ### A stack made ready for self-refresh (R263, R271) -/

theorem records_drainStack : records (drainStack s k) = records s := by
  have hkeeps := foldl_keeps records (fun r (x : PcIx × WqEntry) => drainEntry r k x.1 x.2)
    (fun r x => records_drainEntry r k x.1 x.2) (drainOrder s k) s
  rw [drainStack_eq, hkeeps]

theorem records_quietStack : records (quietStack s k) = records s := by
  rw [quietStack, records_modStack, foldl_keeps records closeRow records_closeRow, records_drainStack]
  exact fun _ => rfl

theorem quietStack_pond : (stackOf (quietStack s k) k).pond = 0 := by rw [quietStack, stackOf_modStack_same]

theorem quietStack_wq (p : PcIx) : tabGet [] (stackOf (quietStack s k) k).wq p.val = [] := by
  have hclosed := foldl_keeps quiet closeRow quiet_closeRow (openBanks (drainStack s k) k) (drainStack s k)
  rw [quietStack, stackOf_modStack_same]
  exact (congrArg (fun t => tabGet [] t p.val) (wq_of_quiet hclosed k)).trans (drainStack_empties s k p)

end Records

section ClockChange

variable {s : State} {k : StackIx} {clk : Byte}

/-! ### A clock change (R262, R263) -/

variable (s k clk) in
/-- Self-refresh is entered, and the divider changes (R263). -/
def clockChanging : State :=
  modStack (quietStack s k) k fun y =>
    { y with mode := .clockChange, memClk := clk, newClk := clk, defer := none, changeTick := s.tick }

theorem exec_clockChangeStart_of_none (h : (stackOf s k).defer = none) : exec (.clockChangeStart k) s = .next s := by
  change execClockChangeStart k s = .next s
  simp only [execClockChangeStart, h]

theorem exec_clockChangeStart_waits (hidle : stackIdle s k = false) : exec (.clockChangeStart k) s = .next s := by
  change execClockChangeStart k s = .next s
  cases h : (stackOf s k).defer <;> simp [execClockChangeStart, h, hidle]

theorem stackOf_leaveSelfRefresh (s : State) (k j : StackIx) : stackOf (leaveSelfRefresh s k) j = stackOf s j := rfl

theorem exec_clockChangeStart (hmode : (stackOf s k).mode = .run) (hdefer : (stackOf s k).defer = some clk)
    (hidle : stackIdle s k = true) : ∃ u, exec (.clockChangeStart k) s = .next u ∧ (stackOf u k).mode = .clockChange ∧
      (stackOf u k).memClk = clk ∧ (stackOf u k).defer = none ∧ (stackOf u k).pond = 0 ∧
      ∀ p : PcIx, tabGet [] (stackOf u k).wq p.val = [] := by
  have hexec : exec (.clockChangeStart k) s = .next (leaveSelfRefresh (clockChanging s k clk) k) := by
    change execClockChangeStart k s = _
    simp only [execClockChangeStart, hmode, hdefer, hidle]
    rfl
  refine ⟨_, hexec, ?_⟩
  rw [stackOf_leaveSelfRefresh, clockChanging, stackOf_modStack_same]
  exact ⟨rfl, rfl, rfl, quietStack_pond s k, quietStack_wq s k⟩

variable (s k) in
/-- The stack serves again at its new clock. -/
def clockChanged : State := modStack s k fun x => { x with mode := .run, trained := false }

theorem exec_clockChangeComplete (hmode : (stackOf s k).mode = .clockChange) (htrained : (stackOf s k).trained = true) :
    ∃ u, exec (.clockChangeComplete k) s = .next u ∧ (stackOf u k).mode = .run ∧ u.mem = s.mem := by
  have hexec : exec (.clockChangeComplete k) s = .next ((liveTenants (clockChanged s k)).foldl
      (fun r t => if (tenOf r t).shift && clocksSettled r t then modTen r t fun x => { x with shift := false } else r)
      (clockChanged s k)) := by
    change execClockChangeComplete k s = _
    simp only [execClockChangeComplete, hmode, htrained]
    rfl
  refine ⟨_, hexec, ?_, foldl_keeps State.mem _ (fun _ _ => by split <;> rfl) _ _⟩
  have hstk := foldl_keeps (fun r => stackOf r k)
    (fun r t => if (tenOf r t).shift && clocksSettled r t then modTen r t fun x => { x with shift := false } else r)
    (fun _ _ => by split <;> rfl) (liveTenants (clockChanged s k)) (clockChanged s k)
  rw [hstk, clockChanged, stackOf_modStack_same]

theorem exec_clockChangeComplete_waits (h : (stackOf s k).mode ≠ .clockChange ∨ (stackOf s k).trained = false) :
    exec (.clockChangeComplete k) s = .next s := by
  have hno : ((stackOf s k).mode != .clockChange || !(stackOf s k).trained) = true := by simpa using h
  change execClockChangeComplete k s = _
  simp only [execClockChangeComplete, hno]
  rfl

end ClockChange

section Parity

variable (s : State) (k : StackIx) (q : PcIx) (n : Fin 16)

/-! ### Parity alerts (R266 to R268) -/

/-- The memory, and the records of the stacks. -/
def holdings (s : State) : Memory × (Nat → Stack) := (s.mem, records s)

theorem holdings_forcedRefresh (b : BankIx) : holdings (forcedRefresh s b) = holdings s :=
  Prod.ext (forcedRefresh_mem s b) (records_forcedRefresh s b)

theorem holdings_settleExit : holdings (settleExit s k q) = holdings s := Prod.ext (settleExit_mem s k q) (records_settleExit s k q)

theorem holdings_reopenWindow (g : SegIx) (w : Window) (cut : List Machine.Unit) : holdings (reopenWindow s g w cut) = holdings s := by
  unfold reopenWindow
  split
  · rfl
  · exact foldl_keeps holdings _ (by intros; rfl) _ s

/-- Commands that a stack ignored leave the memory and the records as they were. -/
theorem holdings_cancelSent (c : SentCmd) : holdings (cancelSent s c) = holdings s := by
  cases c with
  | pond g run was w cut =>
    rw [cancelSent]
    dsimp only
    rw [holdings_settleExit, foldl_keeps holdings forcedRefresh holdings_forcedRefresh, holdings_reopenWindow]
    have hruns := foldl_keeps holdings (fun r (b : BankIx × Machine.Unit) => cancelRun r b.1 run b.2) (fun _ _ => rfl)
      ((segBanks g run.cmd.bmask).zip was) s
    split
    · exact hruns
    · exact hruns
  | payload g w data was => exact foldl_keeps holdings _ (by intros; rfl) _ s
  | _ => rfl

theorem haltNext_dram (ts : List TenIx) (code : Byte) : (haltNext s ts code).dram = s.dram :=
  foldl_keeps State.dram _ (by intros; rfl) ts s

theorem failPc_mem (code : Byte) : (failPc s k q code).mem = s.mem := by rw [failPc, haltNext_mem, logEvent_mem, modStack_mem]

theorem stackOf_failPc (code : Byte) : stackOf (failPc s k q code) k =
    { stackOf s k with pcFail := (stackOf s k).pcFail ||| pcBit q } := by
  rw [failPc, stackOf, haltNext_dram]
  exact stackOf_modStack_same s k _

/-- Alerts in succession on place `n` of the retry buffer, this one counted (R268). -/
def alertCount : Nat :=
  if tabGet 0 (stackOf s k).alerts q.val % 16 = n.val then tabGet 0 (stackOf s k).alerts q.val / 16 + 1 else 1

/-- The alert is counted and logged (R267). -/
def alertNoted : State :=
  logEvent
    (modStack s k fun y =>
      { y with replays := satAdd y.replays 1, lastPc := BitVec.ofNat 6 q.val,
               alerts := tabSet 0 y.alerts q.val (if alertCount s k q n < 4 then 16 * alertCount s k q n + n.val else 0) })
    0x64 [BitVec.ofNat 8 k.val, BitVec.ofNat 8 q.val] none

/-- The commands from the failing one on never take effect. -/
def alertCancelled : State := ((tabGet [] (stackOf s k).sent q.val).drop n.val).reverse.foldl cancelSent (alertNoted s k q n)

theorem alertNoted_stack : (stackOf (alertNoted s k q n) k).record =
    ({ stackOf s k with replays := satAdd (stackOf s k).replays 1, lastPc := BitVec.ofNat 6 q.val } : Stack).record := by
  rw [alertNoted, stackOf, logEvent_dram, ← stackOf, stackOf_modStack_same]
  rfl

theorem holdings_alertCancelled : holdings (alertCancelled s k q n) = holdings (alertNoted s k q n) :=
  foldl_keeps holdings cancelSent holdings_cancelSent _ _

theorem alertCancelled_stack : (stackOf (alertCancelled s k q n) k).record =
    ({ stackOf s k with replays := satAdd (stackOf s k).replays 1, lastPc := BitVec.ofNat 6 q.val } : Stack).record :=
  (stackOf_of_records (congrArg Prod.snd (holdings_alertCancelled s k q n)) k).trans (alertNoted_stack s k q n)

theorem alertCancelled_mem : (alertCancelled s k q n).mem = s.mem := congrArg Prod.fst (holdings_alertCancelled s k q n)

variable {s k q n}

theorem exec_parityAlert_of_no_command (h : (tabGet [] (stackOf s k).sent q.val).length ≤ n.val) :
    exec (.parityAlert k q n) s = .next s := by
  change execParityAlert k q n s = .next s
  rw [execParityAlert, if_pos h]

theorem exec_parityAlert_eq (h : n.val < (tabGet [] (stackOf s k).sent q.val).length) : exec (.parityAlert k q n) s =
    .next (if alertCount s k q n < 4 then alertNoted s k q n else failPc (alertCancelled s k q n) k q 0x61) := by
  change execParityAlert k q n s = _
  rw [execParityAlert, if_neg (Nat.not_le.2 h)]
  rfl

theorem exec_parityAlert (h : n.val < (tabGet [] (stackOf s k).sent q.val).length) : ∃ u, exec (.parityAlert k q n) s = .next u ∧
    (stackOf u k).replays = satAdd (stackOf s k).replays 1 ∧ (stackOf u k).lastPc = BitVec.ofNat 6 q.val ∧ u.mem = s.mem ∧
    (tabGet 0 (stackOf s k).alerts q.val % 16 ≠ n.val → (stackOf u k).pcFail = (stackOf s k).pcFail) ∧
    (tabGet 0 (stackOf s k).alerts q.val = 48 + n.val → (stackOf u k).pcFail.getLsbD q.val = true) := by
  have hfourth : tabGet 0 (stackOf s k).alerts q.val = 48 + n.val → ¬ alertCount s k q n < 4 := fun halerts => by
    have hn := n.isLt
    rw [alertCount, halerts, if_pos (by omega)]
    omega
  have hfirst : tabGet 0 (stackOf s k).alerts q.val % 16 ≠ n.val → alertCount s k q n < 4 := fun hplace => by
    rw [alertCount, if_neg hplace]
    decide
  refine ⟨_, exec_parityAlert_eq h, ?_⟩
  by_cases hfew : alertCount s k q n < 4
  · have hstack := alertNoted_stack s k q n
    rw [if_pos hfew]
    exact ⟨(congrArg Stack.replays hstack :), (congrArg Stack.lastPc hstack :), rfl, fun _ => (congrArg Stack.pcFail hstack :),
      fun halerts => absurd hfew (hfourth halerts)⟩
  · have hstack := alertCancelled_stack s k q n
    rw [if_neg hfew, stackOf_failPc, failPc_mem, alertCancelled_mem]
    refine ⟨(congrArg Stack.replays hstack :), (congrArg Stack.lastPc hstack :), rfl,
      fun hplace => absurd (hfirst hplace) hfew, fun _ => ?_⟩
    rw [getLsbD_or_pcBit]
    simp

end Parity

section SelfRefreshEntry

variable (s : State)

/-! ### Self-refresh entered (R271, R367, R369) -/

/-- The mode of a stack, and the eighths that self-refresh keeps of it. -/
def Stack.retention (x : Stack) : DmcMode × Dword × Dword := (x.mode, x.pasr0, x.pasr1)

theorem retention_eq {x : Stack} {keep0 keep1 : Dword} (h : x.retention = (.selfRefresh, keep0, keep1)) :
    x.mode = .selfRefresh ∧ x.pasr0 = keep0 ∧ x.pasr1 = keep1 := by simpa [Stack.retention] using h

theorem retention_of_record {x y : Stack} (h : x.record = y.record) : x.retention = y.retention := (congrArg Stack.retention h :)

theorem retention_enterSelfRefresh (k : StackIx) (keep0 keep1 : Dword) :
    (stackOf (enterSelfRefresh s k keep0 keep1) k).retention = (.selfRefresh, keep0, keep1) := by
  rw [enterSelfRefresh, stackOf_modStack_same]
  rfl

theorem retention_enterSelfRefresh_other {j k : StackIx} (hne : j ≠ k) (keep0 keep1 : Dword) :
    (stackOf (enterSelfRefresh s k keep0 keep1) j).retention = (stackOf s j).retention := by
  rw [enterSelfRefresh, stackOf_modStack, if_neg hne]
  exact retention_of_record (stackOf_of_records (records_quietStack s k) j)

/-- Every stack is in self-refresh, with the eighths that hold regions kept. -/
def allRefreshing : State := (List.finRange 12).foldl (fun r k => enterSelfRefresh r k (keepMask s k 0) (keepMask s k 8)) s

theorem retention_allRefreshing (k : StackIx) :
    (stackOf (allRefreshing s) k).retention = (.selfRefresh, keepMask s k 0, keepMask s k 8) := by
  obtain ⟨r, -, -, hleft⟩ := foldl_visits (p := fun _ => True)
    (f := fun r j => enterSelfRefresh r j (keepMask s j 0) (keepMask s j 8)) (fun r => (stackOf r k).retention)
    (fun _ _ _ => trivial) (List.nodup_finRange 12) (List.mem_finRange k)
    (fun r j _ hne _ => retention_enterSelfRefresh_other r hne.symm _ _) (s := s) trivial
  exact hleft.trans (retention_enterSelfRefresh r k _ _)

theorem modRings_dram (f : Ring → Ring) : (modRings s f).dram = s.dram := foldl_keeps State.dram _ (by intros; rfl) _ s

theorem modRings_attach (f : Ring → Ring) : (modRings s f).host.attach = s.host.attach :=
  foldl_keeps (fun r => r.host.attach) _ (by intros; rfl) _ s

/-- An attach keeps every stack: what it ends is the state of units and banks. -/
theorem attachNow_stk : (attachNow s).dram.stk = s.dram.stk := by
  have hleft := foldl_keeps (fun r => r.dram.stk) (fun r j => if (stackOf r j).mode == .selfRefresh then leaveSelfRefresh r j else r)
    (fun _ _ => by split <;> rfl) (List.finRange 12) s
  unfold attachNow
  dsimp only
  split
  · rw [modHost_dram, hleft]
  · rw [modRings_dram, modHost_dram, hleft]

theorem stackOf_attachNow (k : StackIx) : stackOf (attachNow s) k = stackOf s k := by rw [stackOf, attachNow_stk, stackOf]

theorem attachNow_attach : (attachNow s).host.attach = .attached := by
  unfold attachNow
  dsimp only
  split
  · rfl
  · rw [modRings_attach]
    rfl

variable {s}

theorem exec_selfRefreshEntered_not_quiescing (h : s.host.attach ≠ .quiescing) : exec .selfRefreshEntered s = .next s := by
  change execSelfRefreshEntered s = .next s
  have hno : (s.host.attach != .quiescing) = true := by simpa using h
  rw [execSelfRefreshEntered, hno]
  rfl

theorem exec_selfRefreshEntered_busy {k : StackIx} (h : stackIdle s k = false) : exec .selfRefreshEntered s = .next s := by
  have hbusy : ((List.finRange 12).any fun k => !stackIdle s k) = true :=
    List.any_eq_true.2 ⟨k, List.mem_finRange k, by rw [h]; rfl⟩
  change execSelfRefreshEntered s = .next s
  rw [execSelfRefreshEntered, hbusy, Bool.or_true]
  rfl

variable (s) in
/-- The card once its stacks are in self-refresh (R369). -/
def quiesced : State := modHost (allRefreshing s) fun h => { h with attach := .quiesced }

theorem quiesced_attach : (quiesced s).host.attach = .quiesced := by rw [quiesced, modHost_host]

theorem retention_quiesced (k : StackIx) :
    (stackOf (quiesced s) k).retention = (.selfRefresh, keepMask s k 0, keepMask s k 8) := by
  rw [quiesced, stackOf, modHost_dram]
  exact retention_allRefreshing s k

theorem exec_selfRefreshEntered_eq (hattach : s.host.attach = .quiescing)
    (htenants : (liveTenants s).any (stillQuiescing s) = false) (hidle : ∀ k, stackIdle s k = true) :
    exec .selfRefreshEntered s = .next (if s.host.attachPend then attachNow (quiesced s) else quiesced s) := by
  have hstacks : ((List.finRange 12).any fun k => !stackIdle s k) = false :=
    List.any_eq_false.2 fun k _ => by rw [hidle k]; exact Bool.false_ne_true
  change execSelfRefreshEntered s = _
  rw [execSelfRefreshEntered, hattach, htenants, hstacks]
  rfl

theorem exec_selfRefreshEntered (hattach : s.host.attach = .quiescing)
    (htenants : (liveTenants s).any (stillQuiescing s) = false) (hidle : ∀ k, stackIdle s k = true) :
    ∃ u, exec .selfRefreshEntered s = .next u ∧ u.host.attach = (if s.host.attachPend then .attached else .quiesced) ∧
      ∀ k, (stackOf u k).mode = .selfRefresh ∧ (stackOf u k).pasr0 = keepMask s k 0 ∧ (stackOf u k).pasr1 = keepMask s k 8 := by
  refine ⟨_, exec_selfRefreshEntered_eq hattach htenants hidle, ?_⟩
  by_cases hpend : s.host.attachPend = true
  · rw [if_pos hpend, if_pos hpend]
    refine ⟨attachNow_attach _, fun k => ?_⟩
    rw [stackOf_attachNow]
    exact retention_eq (retention_quiesced k)
  · rw [if_neg hpend, if_neg hpend]
    exact ⟨quiesced_attach, fun k => retention_eq (retention_quiesced k)⟩

end SelfRefreshEntry

section SelfRefreshExit

variable (s : State)

/-! ### Memory beside the arrays (R272) -/

/-- Two memories agree on all that lies below the arrays: SRAM and the logs. -/
def SameBelowArrays (m m' : Memory) : Prop := ∀ a, a < 2 ^ 44 → tabGet 0 m' a = tabGet 0 m a

theorem writeStored_below {m : Memory} {key a : Nat} (hkey : 2 ^ 40 ≤ key) (ha : a < 2 ^ 44) (w : Stored) :
    tabGet 0 (writeStored m key w) a = tabGet 0 m a := by
  rw [writeStored, tabGet_tabSetList, if_neg (by omega)]

theorem injectRange_below {key : Nat} (hkey : 2 ^ 40 ≤ key) (n : Nat) : SameBelowArrays s.mem (injectRange s key n).mem := by
  intro a ha
  unfold injectRange
  split
  · refine foldl_keeps (fun r => tabGet 0 r.mem a) _ (fun r i => ?_) _ _
    split
    · exact writeStored_below (Nat.le_add_right_of_le hkey) ha _
    · rfl
  · rfl

theorem dramKey_ge (s d b l w : Nat) : 2 ^ 40 ≤ dramKey s d b l w := by
  unfold dramKey
  omega

theorem droppedKey_below {n : Nat} (h : n < 2 ^ 40) : droppedKey s n = false := by
  have hno : ∀ st d b l w, placeOf n ≠ .dram st d b l w := fun st d b l w hn =>
    absurd (of_decide_eq_true ((isDram_iff n).2 ⟨st, d, b, l, w, hn⟩)) (Nat.not_le.2 h)
  unfold droppedKey
  split
  · next hn => exact absurd hn (hno _ _ _ _ _)
  · rfl

theorem forDies_keeps {γ : Type} (g : State → γ) {f : State → StackIx → DieIx → State} (hf : ∀ r k d, g (f r k d) = g r) :
    g (forDies s f) = g s :=
  foldl_keeps g _ (fun r k => foldl_keeps g _ (fun q d => hf q k d) (List.finRange 16) r) (List.finRange 12) s

theorem fillDropped_below : SameBelowArrays s.mem (fillDropped s).mem := by
  intro a ha
  have hfilter : tabGet 0 (s.mem.filter fun e => !droppedKey s (e.1 / 16)) a = tabGet 0 s.mem a := by
    rw [tabGet_filter_key 0 (fun i => !droppedKey s (i / 16)), droppedKey_below s (by omega)]
    rfl
  unfold fillDropped
  dsimp only
  split
  · refine (forDies_keeps _ (fun r => tabGet 0 r.mem a) fun r k d => ?_).trans hfilter
    exact foldl_keeps (fun q => tabGet 0 q.mem a) _ (fun q b => injectRange_below q (dramKey_ge _ _ _ _ _) _ a ha) _ _
  · exact hfilter

/-! ### Self-refresh left (R272, R369) -/

theorem rewriteSpares_mem : (rewriteSpares s).mem = s.mem := foldl_keeps State.mem _ (by intros; rfl) _ s

theorem countDropped_mem : (countDropped s).mem = s.mem := forDies_keeps s State.mem fun _ _ _ => rfl

theorem injectRange_keeps {γ : Type} (g : State → γ) (hmem : ∀ r m, g { r with mem := m } = g r) (key n : Nat) :
    g (injectRange s key n) = g s := by
  unfold injectRange
  split
  · refine foldl_keeps g _ (fun r i => ?_) _ s
    split
    · exact hmem r _
    · rfl
  · rfl

/-- The fill of the dropped eighths changes the memory alone. -/
theorem fillDropped_keeps {γ : Type} (g : State → γ) (hmem : ∀ r m, g { r with mem := m } = g r) : g (fillDropped s) = g s := by
  unfold fillDropped
  dsimp only
  split
  · refine (forDies_keeps _ g fun r k d => ?_).trans (hmem s _)
    exact foldl_keeps g _ (fun q b => injectRange_keeps q g hmem _ _) _ _
  · exact hmem s _

/-- The passes that a stack has counted, whatever the fill of the dropped eighths counts beside them. -/
theorem passes_fillTrace (r : State) (k j : StackIx) (d : DieIx) (xs : List (Nat × BankIx)) :
    (stackOf (fillTrace r k d xs) j).passes = (stackOf r j).passes := by
  rw [stackOf, fillTrace]
  dsimp only
  rw [tabGet_tabModify]
  split
  · next h => rw [stackOf, h]
  · rfl

/-- The state that the exit leaves to the stacks before they serve. -/
def dropsFilled : State := countDropped (fillDropped (rewriteSpares s))

theorem exitSelfRefresh_eq : exitSelfRefresh s =
    (List.finRange 12).foldl (fun r k => modStack r k fun x => { x with mode := .run, trained := false }) (dropsFilled s) := rfl

theorem rewriteSpares_passes (k : StackIx) : (stackOf (rewriteSpares s) k).passes = (stackOf s k).passes := by
  refine foldl_keeps (fun r => (stackOf r k).passes) _ (fun r j => ?_) _ s
  rw [stackOf_modStack]
  split
  · next h =>
    rw [h]
    exact List.foldlRecOn (motive := fun y : Stack => y.passes = (stackOf r j).passes) _ _ rfl fun y hy e _ => hy
  · rfl

theorem dropsFilled_passes (k : StackIx) : (stackOf (dropsFilled s) k).passes = (stackOf s k).passes := by
  rw [dropsFilled, countDropped, forDies_keeps _ (fun r => (stackOf r k).passes) fun r j d => passes_fillTrace r j k d _,
    fillDropped_keeps _ (fun r => (stackOf r k).passes) fun _ _ => rfl, rewriteSpares_passes]

theorem dropsFilled_below : SameBelowArrays s.mem (dropsFilled s).mem := by
  intro a ha
  rw [dropsFilled, countDropped_mem, fillDropped_below _ a ha, rewriteSpares_mem]

theorem exitSelfRefresh_mem : (exitSelfRefresh s).mem = (dropsFilled s).mem := foldl_keeps State.mem _ (by intros; rfl) _ _

theorem exitSelfRefresh_stack (k : StackIx) : (stackOf (exitSelfRefresh s) k).mode = .run ∧
    (stackOf (exitSelfRefresh s) k).passes = (stackOf s k).passes ∧ (stackOf (exitSelfRefresh s) k).trained = false := by
  obtain ⟨r, -, hmet, hleft⟩ := foldl_visits (p := fun _ => True)
    (f := fun r (j : StackIx) => modStack r j fun x => { x with mode := .run, trained := false }) (fun r => stackOf r k)
    (fun _ _ _ => trivial) (List.nodup_finRange 12) (List.mem_finRange k)
    (fun r j _ hne _ => by rw [stackOf_modStack, if_neg hne.symm]) (s := dropsFilled s) trivial
  have hpasses : (stackOf r k).passes = (stackOf s k).passes := by rw [hmet, dropsFilled_passes]
  rw [exitSelfRefresh_eq, hleft, stackOf_modStack_same]
  exact ⟨rfl, hpasses, rfl⟩

/-- The time, and the tenants. -/
def tenancyTime (s : State) : Dword × Tab Tenant := (s.tick, s.ten)

theorem tick_of_tenancyTime {u : State} (h : tenancyTime u = tenancyTime s) : u.tick = s.tick := congrArg Prod.fst h

theorem tenOf_of_tenancyTime {u : State} (h : tenancyTime u = tenancyTime s) (t : TenIx) : tenOf u t = tenOf s t :=
  congrArg (fun x : Dword × Tab Tenant => tabGet Tenant.reset x.2 t.val) h

theorem tenancyTime_exitSelfRefresh : tenancyTime (exitSelfRefresh s) = tenancyTime s := by
  rw [exitSelfRefresh_eq, foldl_keeps tenancyTime _ (by intros; rfl), dropsFilled, countDropped,
    forDies_keeps _ tenancyTime (by intros; rfl), fillDropped_keeps _ tenancyTime fun _ _ => rfl, rewriteSpares]
  exact foldl_keeps tenancyTime _ (by intros; rfl) _ s

/-! ### Tenants that a host loss quiesced run again (R369) -/

/-- The tenant's host loss is over, and it runs again where nothing else keeps it quiesced. -/
def hostBack (r : State) (t : TenIx) : State := resumeTenant (modTen r t fun x => { x with quiesceHost := false }) t

theorem resumeTenant_keeps {γ : Type} (g : State → γ) (hten : ∀ r t, g { r with ten := t } = g r) (t : TenIx) :
    g (resumeTenant s t) = g s := by
  unfold resumeTenant
  split
  · exact hten s _
  · rfl

theorem hostBack_keeps {γ : Type} (g : State → γ) (hten : ∀ r t, g { r with ten := t } = g r) (t : TenIx) : g (hostBack s t) = g s :=
  (resumeTenant_keeps _ g hten t).trans (hten s _)

theorem tenOf_hostBack_other {t t' : TenIx} (hne : t' ≠ t) : tenOf (hostBack s t) t' = tenOf s t' := by
  unfold hostBack resumeTenant
  split
  · rw [tenOf_modTen, if_neg hne, tenOf_modTen, if_neg hne]
  · rw [tenOf_modTen, if_neg hne]

theorem hostBack_resumes {t : TenIx} (hstate : (tenOf s t).state = .quiesced) (hthermal : (tenOf s t).quiesceThermal = false)
    (hfence : (tenOf s t).quiesceFence = false) : (tenOf (hostBack s t) t).anchor = s.tick ∧
      ((tenOf (hostBack s t) t).state = .running ∨ (tenOf (hostBack s t) t).state = .slicedOut) := by
  have hback : tenOf (modTen s t fun x => { x with quiesceHost := false }) t = { tenOf s t with quiesceHost := false } := by
    rw [tenOf_modTen, if_pos rfl]
  have hready : ((tenOf (modTen s t fun x => { x with quiesceHost := false }) t).state == .quiesced &&
      !(tenOf (modTen s t fun x => { x with quiesceHost := false }) t).quiesceDue) = true := by
    rw [hback, Tenant.quiesceDue]
    dsimp only
    rw [hstate, hthermal, hfence]
    rfl
  rw [hostBack, resumeTenant, if_pos hready, tenOf_modTen, if_pos rfl]
  refine ⟨rfl, ?_⟩
  dsimp only
  split
  · exact Or.inl rfl
  · exact Or.inr rfl

variable {s}

theorem exec_selfRefreshExitDone_eq (hattach : s.host.attach = .attached)
    (hstacks : ∀ k, (stackOf s k).mode = .selfRefresh ∧ (stackOf s k).trained = true) :
    exec .selfRefreshExitDone s = .next ((List.finRange 16).foldl hostBack (exitSelfRefresh s)) := by
  have hready : ((List.finRange 12).any fun k => (stackOf s k).mode != .selfRefresh || !(stackOf s k).trained) = false :=
    List.any_eq_false.2 fun k _ => by rw [(hstacks k).1, (hstacks k).2]; exact Bool.false_ne_true
  change execSelfRefreshExitDone s = _
  rw [execSelfRefreshExitDone, hattach, hready]
  rfl

theorem exec_selfRefreshExitDone (hattach : s.host.attach = .attached)
    (hstacks : ∀ k, (stackOf s k).mode = .selfRefresh ∧ (stackOf s k).trained = true) :
    ∃ u, exec .selfRefreshExitDone s = .next u ∧
      (∀ k, (stackOf u k).mode = .run ∧ (stackOf u k).passes = (stackOf s k).passes ∧ (stackOf u k).trained = false) ∧
      SameBelowArrays s.mem u.mem ∧
      ∀ t : TenIx, (tenOf s t).state = .quiesced → (tenOf s t).quiesceThermal = false → (tenOf s t).quiesceFence = false →
        (tenOf u t).anchor = s.tick ∧ ((tenOf u t).state = .running ∨ (tenOf u t).state = .slicedOut) := by
  refine ⟨_, exec_selfRefreshExitDone_eq hattach hstacks, fun k => ?_, fun a ha => ?_, fun t hstate hthermal hfence => ?_⟩
  · have hstack := foldl_keeps (fun r => stackOf r k) hostBack (fun r t => hostBack_keeps r (fun r => stackOf r k) (fun _ _ => rfl) t)
      (List.finRange 16) (exitSelfRefresh s)
    rw [hstack]
    exact exitSelfRefresh_stack s k
  · rw [foldl_keeps State.mem hostBack (fun r t => hostBack_keeps r State.mem (fun _ _ => rfl) t), exitSelfRefresh_mem,
      dropsFilled_below s a ha]
  · obtain ⟨r, htick, hmet, hleft⟩ := foldl_visits (p := fun r => r.tick = s.tick) (f := hostBack) (fun r => tenOf r t)
      (fun r t hr => (hostBack_keeps r State.tick (fun _ _ => rfl) t).trans hr) (List.nodup_finRange 16) (List.mem_finRange t)
      (fun r t' _ hne _ => tenOf_hostBack_other r hne.symm) (tick_of_tenancyTime s (tenancyTime_exitSelfRefresh s))
    have hwas := hmet.trans (tenOf_of_tenancyTime s (tenancyTime_exitSelfRefresh s) t)
    obtain ⟨hanchor, hruns⟩ := hostBack_resumes r (by rw [hwas]; exact hstate) (by rw [hwas]; exact hthermal)
      (by rw [hwas]; exact hfence)
    rw [hleft]
    exact ⟨hanchor.trans htick, hruns⟩

end SelfRefreshExit

/-- Settles O46: what banks owe, the records of the stacks and the memory are as the rules say, whatever rows a refresh closes
and whatever the write queue sends ahead of self-refresh. -/
theorem dramMaintenance : Obligations.DramMaintenance := by
  unfold Obligations.DramMaintenance
  intro s k b q n clk _ _
  refine ⟨exec_refreshTick_of_selfRefresh, inSelfRefresh_of_changed, inSelfRefresh_of_serving, exec_refreshTick,
    exec_refreshIssue_not_due, exec_refreshIssue_begins, ?complete, exec_refreshComplete_of_not, exec_trainingPeriodic_begins,
    exec_trainingPeriodic_waits, fun hmode hopen => ⟨_, exec_trainingStep hmode hopen, stepTaken_spec⟩, exec_trainingStep_waits,
    fun hmode => ⟨exec_trainingPassEnd_counts hmode, exec_trainingPassEnd_discarded hmode⟩, exec_trainingPassEnd_of_run,
    exec_trainingPassEnd_of_selfRefresh, exec_trainingPassEnd_of_full, exec_clockChangeStart_of_none,
    ?change, exec_clockChangeComplete,
    exec_clockChangeComplete_waits, exec_parityAlert_of_no_command, exec_parityAlert, exec_selfRefreshEntered_not_quiescing,
    fun ⟨_, hbusy⟩ => exec_selfRefreshEntered_busy hbusy, exec_selfRefreshEntered, exec_selfRefreshExitDone⟩
  case complete =>
    rintro r rfl h
    exact ⟨exec_refreshComplete h, forcedRefresh_of_few,
      fun howed hidle => forcedRefresh_of_eight howed refreshPaid_refreshing hidle⟩
  case change =>
    refine fun hmode hdefer => ⟨exec_clockChangeStart_waits, fun hidle => ?_⟩
    obtain ⟨u, hexec, hchange, hclk, hdone, hpond, hdrained⟩ := exec_clockChangeStart hmode hdefer hidle
    exact ⟨u, hexec, hchange, hclk, hdone, hpond, fun _ => hdrained⟩

end Sys2Proof.Machine

/-! ## O3: the memory keeps its canonical form (R276)

A command that does not write memory leaves it as it was (`X_mem`); one that writes it keeps its form, since each of its
writes does (`X_form`). -/

namespace Sys2Proof.Machine

/-! ### What leaves the memory alone -/

/-- A fold leaves the memory alone if each of its steps does. -/
@[simp] theorem foldl_mem {α : Type} {f : State → α → State} (h : ∀ r a, (f r a).mem = r.mem) (l : List α) (s : State) :
    (l.foldl f s).mem = s.mem := foldl_keeps State.mem f h l s

/-- So does one that carries something beside the state. -/
@[simp] theorem foldl_fst_mem {α γ : Type} {f : State × γ → α → State × γ} (h : ∀ r a, (f r a).1.mem = r.1.mem)
    (l : List α) (q : State × γ) : (l.foldl f q).1.mem = q.1.mem := foldl_fst_keeps State.mem f h l q

/-- A state that a fold carries behind something else. -/
@[simp] theorem foldl_snd_mem {α γ : Type} {f : γ × State → α → γ × State} (h : ∀ r a, (f r a).2.mem = r.2.mem)
    (l : List α) (q : γ × State) : (l.foldl f q).2.mem = q.2.mem := by
  induction l generalizing q with
  | nil => rfl
  | cons a l ih => rw [List.foldl_cons, ih, h]

/-- The memory of the state that an answer gives, or `m` where it gives none. -/
def answerMem (m : Memory) : Answer → Memory
  | .next t => t.mem
  | _ => m

@[simp] theorem answerMem_next (m : Memory) (t : State) : answerMem m (.next t) = t.mem := rfl

/-- The memory of the state that the read of a register leaves, or `m` where no register is there. -/
def regMem (m : Memory) : RegRead → Memory
  | some q => q.2.mem
  | none => m

@[simp] theorem regMem_some (m : Memory) (q : Dword × State) : regMem m (some q) = q.2.mem := rfl
@[simp] theorem regMem_none (m : Memory) : regMem m none = m := rfl

/-! #### Queues, debug writes and checked reads -/

@[simp] theorem passFree_mem (s : State) (i bits : Nat) (ns : List Nat) : (passFree s i bits ns).mem = s.mem := by
  unfold passFree
  exact foldl_mem (fun _ _ => by simp) _ _

@[simp] theorem queueDrop_mem (s : State) (i : Nat) : (queueDrop s i).mem = s.mem := by
  exact rfl

@[simp] theorem takeChecked_mem (s : State) (i n : Nat) : (takeChecked s i n).1.mem = s.mem := by
  unfold takeChecked
  exact foldl_keeps State.mem _ (by intros; rfl) _ _

@[simp] theorem queueUpset_mem (s : State) (u : Nat × Nat) : (queueUpset s u).mem = s.mem := by
  unfold queueUpset
  split <;> simp [apply_ite State.mem]

@[simp] theorem debugWrite_mem (s : State) (f : State → State) (hf : ∀ r, (f r).mem = r.mem) :
    (debugWrite s f).mem = s.mem := by
  simp [hf, debugWrite, apply_ite State.mem]

/-! #### Mailbox responses and notices -/

@[simp] theorem pushNotice_mem (s : State) (w : Dword) (notify : Bool) : (pushNotice s w notify).mem = s.mem := by
  unfold pushNotice
  split <;> rfl

@[simp] theorem commitNotice_mem (s : State) (w : Dword) (notify : Bool) : (commitNotice s w notify).mem = s.mem := by
  simp [commitNotice, apply_ite State.mem]

@[simp] theorem drainNotices_mem (s : State) : (drainNotices s).mem = s.mem := by
  unfold drainNotices
  split <;> simp [apply_ite State.mem]

@[simp] theorem drainAllNotices_mem (s : State) : (drainAllNotices s).mem = s.mem := by
  unfold drainAllNotices
  exact foldl_mem (fun _ _ => by simp) _ _

@[simp] theorem writeResponse_mem (s : State) (n : MbxIx) (img : List Byte) (dseq : Dword) (notify : Bool) :
    (writeResponse s n img dseq notify).mem = s.mem := by
  simp [writeResponse]
@[simp] theorem answer_mem (s : State) (n : MbxIx) (cmd : List Byte) (status : Byte) (result : List Byte) :
    (answer s n cmd status result).mem = s.mem := by
  simp [answer]
@[simp] theorem respond_mem (s : State) (n : MbxIx) (status : Byte) (result : List Byte) :
    (respond s n status result).mem = s.mem := by
  simp [respond]
@[simp] theorem runMailbox_mem (m : Memory) (s : State) (n : MbxIx) (op : Nat) (act : List Byte → State → State)
    (hact : ∀ a r, (act a r).mem = r.mem) : answerMem m (runMailbox s n op act) = s.mem := by
  simp [runMailbox, apply_ite (answerMem m), hact]
@[simp] theorem execMbxDoorbell_mem (m : Memory) (slot : MbxIx) (s : State) :
    answerMem m (execMbxDoorbell slot s) = s.mem := by
  simp [execMbxDoorbell, apply_ite State.mem]

@[simp] theorem acceptSlot_mem (s : State) (slot : MbxIx) : (acceptSlot s slot).mem = s.mem := by
  unfold acceptSlot
  dsimp only
  (repeat' split) <;> simp

@[simp] theorem execMbxAccept_mem (m : Memory) (s : State) : answerMem m (execMbxAccept s) = s.mem := by
  simp only [execMbxAccept]
  (repeat' split) <;> simp [notePoison_mem]

@[simp] theorem askReset_mem (s : State) (img : List Byte) (status : Byte) : (askReset s img status).mem = s.mem := by
  unfold askReset
  split <;> rfl

@[simp] theorem execMbxBackgroundComplete_mem (m : Memory) (slot : MbxIx) (s : State) :
    answerMem m (execMbxBackgroundComplete slot s) = s.mem := by
  simp only [execMbxBackgroundComplete]
  split <;> simp [apply_ite State.mem]

@[simp] theorem execPing_mem (m : Memory) (slot : MbxIx) (s : State) : answerMem m (execPing slot s) = s.mem := by
  simp [execPing]
@[simp] theorem execCrashMode_mem (m : Memory) (slot : MbxIx) (s : State) : answerMem m (execCrashMode slot s) = s.mem := by
  simp [execCrashMode, apply_ite State.mem]

/-! #### Banks, rows and traffic -/

@[simp] theorem haltChan_mem (s : State) (p : PanIx) (c : PanCopy) (rmw : Bool) (region : Half) (off : Nat) :
    (haltChan s p c rmw region off).mem = s.mem := by
  simp [haltChan, apply_ite State.mem]
@[simp] theorem haltSch_mem (s : State) (n : SchIx) (r : SysReq) (region : Half) (off : Nat) :
    (haltSch s n r region off).mem = s.mem := by
  exact rfl

@[simp] theorem haltSource_mem (s : State) (src : ReqSource) (rmw : Bool) : (haltSource s src rmw).mem = s.mem := by
  unfold haltSource
  (repeat' split) <;> simp

@[simp] theorem askBank_mem (s : State) (b : BankIx) (src : Option ReqSource) : (askBank s b src).mem = s.mem := by
  unfold askBank
  split <;> rfl

@[simp] theorem enterPond_mem (s : State) (k : StackIx) (q : PcIx) : (enterPond s k q).mem = s.mem := by
  simp [enterPond, closeRow_mem]
@[simp] theorem openRowFor_mem (s : State) (b : BankIx) (l : Nat) : (openRowFor s b l).mem = s.mem := by
  simp [openRowFor, apply_ite State.mem]
@[simp] theorem serveRead_mem (s : State) (k : StackIx) (q : Queued) : (serveRead s k q).mem = s.mem := by
  simp [serveRead, apply_ite State.mem]
@[simp] theorem dropQueued_mem (s : State) (k : StackIx) (f : Queued → Bool) : (dropQueued s k f).mem = s.mem := by
  exact rfl

@[simp] theorem countMerge_mem (s : State) (u : Nat) : (countMerge s u).mem = s.mem := by
  unfold countMerge
  split <;> rfl

@[simp] theorem countForward_mem (s : State) (u : Nat) : (countForward s u).mem = s.mem := by
  unfold countForward
  split <;> rfl

@[simp] theorem askUnits_mem (s : State) (src : ReqSource) (us : List Nat) : (askUnits s src us).mem = s.mem := by
  unfold askUnits
  exact foldl_mem (fun _ _ => by split <;> simp) _ _

@[simp] theorem readArray_mem (s : State) (b : BankIx) (l : Nat) (hint : PageHint) : (readArray s b l hint).mem = s.mem := by
  simp [readArray]

@[simp] theorem accessedUnit_mem (s : State) (u : Nat) (next : Option Nat) : (accessedUnit s u next).mem = s.mem := by
  unfold accessedUnit
  split <;> simp [apply_ite State.mem]

@[simp] theorem noteUnit_mem (s : State) (code : Byte) (u : Nat) (t : Option TenIx) : (noteUnit s code u t).mem = s.mem := by
  simp [noteUnit, apply_ite State.mem]

@[simp] theorem noteUnits_mem (s : State) (code : Byte) (us : List Nat) (t : Option TenIx) :
    (noteUnits s code us t).mem = s.mem := by
  unfold noteUnits
  exact foldl_mem (fun _ _ => by simp) _ _

@[simp] theorem readLines_mem (s : State) (ls : List Nat) : (readLines s ls).mem = s.mem := by
  unfold readLines
  split <;> rfl

@[simp] theorem fillTrace_mem (s : State) (k : StackIx) (d : DieIx) (xs : List (Nat × BankIx)) :
    (fillTrace s k d xs).mem = s.mem := by
  exact rfl

/-! #### Lines of Triyx -/

@[simp] theorem drainLines_mem (s : State) : (drainLines s).mem = s.mem := by
  simp [drainLines, apply_ite State.mem]
@[simp] theorem sendLine_mem (s : State) (o : Out) : (sendLine s o).mem = s.mem := by
  simp [sendLine, apply_ite State.mem]
@[simp] theorem dataLine_mem (s : State) (ws : List Dword) : (dataLine s ws).mem = s.mem := by
  simp [dataLine]

@[simp] theorem dataLines_mem (s : State) (ls : List (List Dword)) : (dataLines s ls).mem = s.mem := by
  unfold dataLines
  exact foldl_mem (fun _ _ => by simp) _ _

@[simp] theorem finalReply_mem (s : State) (f : FinalLine) : (finalReply s f).mem = s.mem := by
  simp [finalReply]
@[simp] theorem replyOk_mem (s : State) (n : Nat) : (replyOk s n).mem = s.mem := by
  simp [replyOk]
@[simp] theorem replyErr_mem (s : State) (code : Byte) : (replyErr s code).mem = s.mem := by
  simp [replyErr]
@[simp] theorem replyLines_mem (s : State) (ls : List (List Dword)) : (replyLines s ls).mem = s.mem := by
  simp [replyLines]
@[simp] theorem lineFailed_mem (s : State) : (lineFailed s).mem = s.mem := by
  simp [lineFailed]

/-! #### Tallies, gates, waiters and snapshots -/

@[simp] theorem addTally_mem (s : State) (t : TlyIx) (n : Nat) (src : SigSource) (hand : Bool) :
    (addTally s t n src hand).mem = s.mem := by
  simp [addTally, apply_ite State.mem]

@[simp] theorem takeSignal_mem (s : State) (g : Signal) (bad : Bool) : (takeSignal s g bad).1.mem = s.mem := by
  unfold takeSignal
  split
  · dsimp only
    split <;> simp [notePoison_mem]
  · rfl

@[simp] theorem execTallySignal_mem (m : Memory) (p : SigPick) (s : State) : answerMem m (execTallySignal p s) = s.mem := by
  simp only [execTallySignal]
  (repeat' split) <;> simp

@[simp] theorem applySignals_mem (s : State) : (applySignals s).mem = s.mem := by
  unfold applySignals
  exact foldl_mem (fun _ _ => by simp) _ _

@[simp] theorem answerArrival_mem (s : State) (n : Nat) (who : Arriver) (status : Byte) :
    (answerArrival s n who status).mem = s.mem := by
  unfold answerArrival
  split <;> rfl

@[simp] theorem answerHeld_mem (s : State) (n : Nat) (g : GateSt) (status : Byte) :
    (answerHeld s n g status).mem = s.mem := by
  unfold answerHeld
  exact foldl_mem (fun _ _ => by simp) _ _

@[simp] theorem freeGatePans_mem (s : State) (n : Nat) : (freeGatePans s n).mem = s.mem := by
  unfold freeGatePans
  exact foldl_keeps State.mem _ (by intros; rfl) _ _

@[simp] theorem releaseGate_mem (s : State) (n : Nat) : (releaseGate s n).mem = s.mem := by
  simp [releaseGate]

@[simp] theorem releaseWhile_mem (fuel : Nat) (s : State) (n : Nat) : (releaseWhile fuel s n).mem = s.mem := by
  induction fuel generalizing s with
  | zero => rfl
  | succ fuel ih =>
    rw [releaseWhile]
    split
    · rw [ih, releaseGate_mem]
    · rfl

@[simp] theorem portArrival_mem (s : State) (n : Nat) (k : Fin 4) (who : Arriver) : (portArrival s n k who).mem = s.mem := by
  have hreply : ∀ (r : State) (code : Byte), (match who with
      | .mailbox m => endBackground r m code []
      | .core _ => if code = 0 then r else answerArrival r n who code).mem = r.mem := fun r code => by
    cases who <;> simp [apply_ite State.mem, endBackground_mem]
  unfold portArrival
  dsimp only
  split
  · exact hreply s _
  · split
    · exact hreply (setGate s n _) _
    · simp

@[simp] theorem panArrival_mem (s : State) (w : GateWaiter) : (panArrival s w).mem = s.mem := by
  exact rfl
@[simp] theorem applyGates_mem (s : State) : (applyGates s).mem = s.mem := by
  simp [applyGates]
@[simp] theorem applyPorts_mem (s : State) (n : Nat) (ports : BitVec 4) : (applyPorts s n ports).mem = s.mem := by
  simp [applyPorts]
@[simp] theorem logHand_mem (s : State) (triyx gate : Bool) (n : Nat) (op : Byte) (old new : Word) :
    (logHand s triyx gate n op old new).mem = s.mem := by
  simp [logHand, apply_ite State.mem]

@[simp] theorem applyHand_mem (triyx : Bool) (s : State) (h : HandOp) : (applyHand triyx s h).mem = s.mem := by
  unfold applyHand
  dsimp only
  split <;> simp

@[simp] theorem applyStep1_mem (s : State) : (applyStep1 s).mem = s.mem := by
  simp [applyStep1]
@[simp] theorem completeWait_mem (s : State) (w : Waiter) (v : Dword) : (completeWait s w v).mem = s.mem := by
  exact rfl
@[simp] theorem serveWaiter_mem (s : State) (w : Waiter) : (serveWaiter s w).mem = s.mem := by
  simp [serveWaiter, apply_ite State.mem]
@[simp] theorem serveCore_mem (s : State) (c : CoreWait) : (serveCore s c).mem = s.mem := by
  simp [serveCore, apply_ite State.mem]
@[simp] theorem serveStanding_mem (s : State) (w : Standing) : (serveStanding s w).mem = s.mem := by
  cases w <;> simp [serveStanding]

@[simp] theorem serveWaiters_mem (s : State) : (serveWaiters s).mem = s.mem := by
  unfold serveWaiters
  exact foldl_mem (fun _ _ => by simp) _ _

@[simp] theorem expireWaiters_mem (s : State) (now : Dword) : (expireWaiters s now).mem = s.mem := by
  unfold expireWaiters
  exact foldl_keeps State.mem _ (by intros; rfl) _ _

@[simp] theorem execWaitTimeout_mem (m : Memory) (p : PanIx) (s : State) : answerMem m (execWaitTimeout p s) = s.mem := by
  simp only [execWaitTimeout]
  (repeat' split) <;> simp

@[simp] theorem takeSnaps_mem (s : State) : (takeSnaps s).mem = s.mem := by
  exact rfl
@[simp] theorem execSnap_mem (m : Memory) (s : State) : answerMem m (execSnap s) = s.mem := by
  simp [execSnap]
@[simp] theorem endOfTick_mem (s : State) : (endOfTick s).mem = s.mem := by
  simp [endOfTick]

@[simp] theorem closeWindow_mem (s : State) (n : LaneIx) (bounds : Bool) : (closeWindow s n bounds).mem = s.mem := by
  unfold closeWindow
  dsimp only
  split <;> simp [apply_ite State.mem]

@[simp] theorem closeWindows_mem (s : State) : (closeWindows s).mem = s.mem := by
  unfold closeWindows
  exact foldl_mem (fun _ _ => by simp) _ _

@[simp] theorem passTicks_mem (s : State) (n : Nat) : (passTicks s n).mem = s.mem := by
  exact rfl
@[simp] theorem coreTally_mem (s : State) (t : TlyIx) (own : Bool) : (coreTally s t own).mem = s.mem := by
  simp [coreTally, apply_ite State.mem]
@[simp] theorem coreGate_mem (s : State) (g : GateIx) (own : Bool) (ports : BitVec 4) :
    (coreGate s g own ports).mem = s.mem := by
  simp [coreGate, apply_ite State.mem]
@[simp] theorem rejectHand_mem (s : State) : (rejectHand s).mem = s.mem := by
  exact rfl

@[simp] theorem handWrite_mem (s : State) (confirm : Half) (h : HandOp) : (handWrite s confirm h).mem = s.mem := by
  unfold handWrite
  split <;> rfl

@[simp] theorem execTlyHandSet_mem (m : Memory) (confirm : Half) (t : TlyIx) (v : Word) (s : State) :
    answerMem m (execTlyHandSet confirm t v s) = s.mem := by
  simp [execTlyHandSet]
@[simp] theorem execTlyHandSignal_mem (m : Memory) (confirm : Half) (t : TlyIx) (v : Word) (s : State) :
    answerMem m (execTlyHandSignal confirm t v s) = s.mem := by
  simp [execTlyHandSignal]
@[simp] theorem execGateHandRelease_mem (m : Memory) (confirm : Half) (g : GateIx) (s : State) :
    answerMem m (execGateHandRelease confirm g s) = s.mem := by
  simp [execGateHandRelease]
@[simp] theorem execGateHandReset_mem (m : Memory) (confirm : Half) (g : GateIx) (s : State) :
    answerMem m (execGateHandReset confirm g s) = s.mem := by
  simp [execGateHandReset]

/-! #### Copies -/

@[simp] theorem Mover.wait_mem (m : Mover) (s : State) : (Mover.wait m s).mem = s.mem := by
  unfold Mover.wait
  split <;> simp

@[simp] theorem countList_mem (s : State) (t : Option TenIx) (oor drop : Nat) : (countList s t oor drop).mem = s.mem := by
  unfold countList
  split <;> rfl

/-! #### Issue of a bundle -/

@[simp] theorem fetchRow_mem (s : State) (p : PanIx) : (fetchRow s p).mem = s.mem := by
  simp [fetchRow, apply_ite State.mem]

@[simp] theorem issueSlot_mem (s : State) (p : PanIx) (b : Bundle) (sl : BitVec 2) (act : State → State)
    (hact : ∀ r, (act r).mem = r.mem) : (issueSlot s p b sl act).mem = s.mem := by
  unfold issueSlot
  split <;> simp [hact]

@[simp] theorem issueS_mem (s : State) (p : PanIx) (b : Bundle) (act : State → State) (pc : Pan → Dword)
    (pause : Bool) (hact : ∀ r, (act r).mem = r.mem) : (issueS s p b act pc pause).mem = s.mem := by
  simp [hact, issueS]
@[simp] theorem issueG_mem (s : State) (p : PanIx) (b : Bundle) (rd : Reg5) (val : Pan → Dword) :
    (issueG s p b rd val).mem = s.mem :=
  issueS_mem _ _ _ _ _ _ fun _ => rfl
@[simp] theorem issueBranch_mem (s : State) (p : PanIx) (b : Bundle) (pc : Pan → Dword) :
    (issueBranch s p b pc).mem = s.mem := by
  simp [issueBranch]

/-! #### The C slot -/

@[simp] theorem issueC_mem (s : State) (p : PanIx) (b : Bundle) (act : State → State)
    (hact : ∀ r, (act r).mem = r.mem) : (issueC s p b act).mem = s.mem := by
  simp [hact, issueC]
@[simp] theorem execCnop_mem (m : Memory) (p : PanIx) (b : Bundle) (z : BitVec 26) (s : State) :
    answerMem m (execCnop p b z s) = s.mem := by
  simp [execCnop]
@[simp] theorem execVld_mem (m : Memory) (p : PanIx) (b : Bundle) (vr ga : Reg5) (size : BitVec 2) (imm : BitVec 14)
    (s : State) : answerMem m (execVld p b vr ga size imm s) = s.mem := by
  simp [execVld]
@[simp] theorem execVst_mem (m : Memory) (p : PanIx) (b : Bundle) (vr ga : Reg5) (size : BitVec 2) (imm : BitVec 14)
    (s : State) : answerMem m (execVst p b vr ga size imm s) = s.mem :=
  issueC_mem _ _ _ _ fun r => modPan_mem r p _
@[simp] theorem execCpy_mem (m : Memory) (p : PanIx) (b : Bundle) (gs gd : Reg5) (sig : BitVec 1) (z : BitVec 3)
    (tly : BitVec 12) (s : State) : answerMem m (execCpy p b gs gd sig z tly s) = s.mem :=
  issueC_mem _ _ _ _ fun r => modPan_mem r p _
@[simp] theorem execFence_mem (m : Memory) (p : PanIx) (b : Bundle) (z : BitVec 22) (scope : BitVec 4) (s : State) :
    answerMem m (execFence p b z scope s) = s.mem :=
  issueC_mem _ _ _ _ fun r => modPan_mem r p _

@[simp] theorem execFenceComplete_mem (m : Memory) (p : PanIx) (s : State) :
    answerMem m (execFenceComplete p s) = s.mem := by
  simp only [execFenceComplete]
  split <;> simp [apply_ite State.mem]

@[simp] theorem noteHarvest_mem (s : State) (t : TenIx) (g : TlyIx) (n : Nat) : (noteHarvest s t g n).mem = s.mem := by
  exact rfl

@[simp] theorem execSig_mem (m : Memory) (p : PanIx) (b : Bundle) (z : BitVec 10) (inc : BitVec 4) (tly : BitVec 12)
    (s : State) : answerMem m (execSig p b z inc tly s) = s.mem := by
  refine issueC_mem _ _ _ _ fun r => ?_
  dsimp only
  split <;> simp

@[simp] theorem ownerFault_mem (s : State) (t : TenIx) (code : Byte) : (ownerFault s t code).mem = s.mem := by
  exact rfl

@[simp] theorem startWait_mem (s : State) (p : PanIx) (rd gt : Reg5) (tly : BitVec 12) (consuming : Bool) :
    (startWait s p rd gt tly consuming).mem = s.mem := by
  unfold startWait
  dsimp only
  split <;> simp [apply_ite State.mem]

@[simp] theorem execWait_mem (m : Memory) (p : PanIx) (b : Bundle) (rd gt : Reg5) (z : BitVec 4) (tly : BitVec 12)
    (s : State) : answerMem m (execWait p b rd gt z tly s) = s.mem := by
  simp [execWait]
@[simp] theorem execWaitn_mem (m : Memory) (p : PanIx) (b : Bundle) (rd gt : Reg5) (z : BitVec 4) (tly : BitVec 12)
    (s : State) : answerMem m (execWaitn p b rd gt z tly s) = s.mem := by
  simp [execWaitn]

@[simp] theorem startGate_mem (s : State) (p : PanIx) (f : Byte) : (startGate s p f).mem = s.mem := by
  unfold startGate
  dsimp only
  split <;> simp [apply_ite State.mem]

@[simp] theorem execGate_mem (m : Memory) (p : PanIx) (b : Bundle) (z : BitVec 18) (g : Byte) (s : State) :
    answerMem m (execGate p b z g s) = s.mem := by
  simp [execGate]
@[simp] theorem countSch_mem (s : State) (n : SchIx) (bytes : Nat) : (countSch s n bytes).mem = s.mem := by
  exact rfl

@[simp] theorem sendStream_mem (s : State) (os : List Out) : (sendStream s os).mem = s.mem := by
  unfold sendStream
  split <;> rfl

@[simp] theorem sendMirrored_mem (s : State) (t : TenIx) (ws : List (Half × Nat × List Byte)) :
    (sendMirrored s t ws).mem = s.mem := by
  simp [sendMirrored, apply_ite State.mem]

@[simp] theorem execCopyComplete_mem (m : Memory) (p : PanIx) (s : State) : answerMem m (execCopyComplete p s) = s.mem := by
  simp only [execCopyComplete]
  (repeat' split) <;> simp

/-! #### System channels -/

@[simp] theorem execSysRequest_mem (m : Memory) (n : SchIx) (r : SysReq) (s : State) :
    answerMem m (execSysRequest n r s) = s.mem := by
  simp [execSysRequest, apply_ite State.mem]

@[simp] theorem sendWritten_mem (s : State) (n : SchIx) (r : SysReq) (ws : List (Half × Nat × List Byte)) :
    (sendWritten s n r ws).mem = s.mem := by
  unfold sendWritten
  split <;> simp [apply_ite State.mem]

@[simp] theorem endRequest_mem (s : State) (n : SchIx) (code : Byte) : (endRequest s n code).mem = s.mem := by
  exact rfl
@[simp] theorem transmit_mem (s : State) (n : PortIx) (o : Out) (ws : List Nat) : (transmit s n o ws).mem = s.mem := by
  simp [transmit, apply_ite State.mem]
@[simp] theorem answerFrame_mem (s : State) (n : PortIx) (o : Out) : (answerFrame s n o).mem = s.mem := by
  simp [answerFrame]

@[simp] theorem completeAction_mem (s : State) (n : SchIx) (a : Completion) (code : Byte) :
    (completeAction s n a code).mem = s.mem := by
  cases a with
  | none => rfl
  | tally t => simp [completeAction, apply_ite State.mem]
  | mailbox slot => simp [completeAction, apply_ite State.mem, endBackground_mem]
  | flag ring => simp [completeAction, apply_ite State.mem]
  | netAck port qp => simp [completeAction, apply_ite State.mem]

@[simp] theorem resumeSch_mem (s : State) (n : SchIx) : (resumeSch s n).mem = s.mem := by
  simp [resumeSch, apply_ite State.mem]

@[simp] theorem execSysRequestComplete_mem (m : Memory) (n : SchIx) (s : State) :
    answerMem m (execSysRequestComplete n s) = s.mem := by
  simp only [execSysRequestComplete]
  split <;> simp

@[simp] theorem restartSch_mem (s : State) (n : SchIx) : (restartSch s n).mem = s.mem := by
  unfold restartSch
  split <;> simp

@[simp] theorem execCpyRestart_mem (m : Memory) (n : SchIx) (s : State) : answerMem m (execCpyRestart n s) = s.mem := by
  simp [execCpyRestart]
@[simp] theorem enableSch_mem (s : State) (n : SchIx) (enable : Bool) : (enableSch s n enable).mem = s.mem := by
  simp [enableSch]
@[simp] theorem execCpyEnable_mem (m : Memory) (n : SchIx) (enable : Bool) (s : State) :
    answerMem m (execCpyEnable n enable s) = s.mem := by
  simp [execCpyEnable]

/-! #### Streams and rings -/

@[simp] theorem modStream_mem (s : State) (t : TenIx) (i : Nat) (f : Machine.Stream → Machine.Stream) :
    (modStream s t i f).mem = s.mem := by
  exact rfl
@[simp] theorem refreshStoreHi_mem (s : State) : (refreshStoreHi s).mem = s.mem := by
  simp [refreshStoreHi, apply_ite State.mem]
@[simp] theorem writeFlag_mem (s : State) (ring : RingIx) (seq : Dword) : (writeFlag s ring seq).mem = s.mem := by
  exact rfl

@[simp] theorem sendRecords_mem (s : State) (r : Machine.Ring) (rs : List (Nat × List Byte)) :
    (sendRecords s r rs).mem = s.mem := by
  unfold sendRecords
  exact foldl_keeps State.mem _ (by intros; rfl) _ _

@[simp] theorem failFlush_mem (s : State) (ring : RingIx) : (failFlush s ring).mem = s.mem := by
  exact rfl

@[simp] theorem execFlushReadComplete_mem (m : Memory) (ring : RingIx) (ok : Bool) (s : State) :
    answerMem m (execFlushReadComplete ring ok s) = s.mem := by
  simp only [execFlushReadComplete]
  split <;> simp [apply_ite State.mem]

@[simp] theorem execHrvHeadWrite_mem (m : Memory) (ring : RingIx) (head : Dword) (s : State) :
    answerMem m (execHrvHeadWrite ring head s) = s.mem := by
  simp [execHrvHeadWrite, apply_ite (answerMem m), apply_ite State.mem]

@[simp] theorem execBindRing_mem (m : Memory) (slot : MbxIx) (s : State) : answerMem m (execBindRing slot s) = s.mem := by
  unfold execBindRing
  refine runMailbox_mem _ _ _ _ _ fun a r => ?_
  dsimp only
  split <;> simp [apply_ite State.mem]

@[simp] theorem unbindRing_mem (s : State) (ring : RingIx) : (unbindRing s ring).mem = s.mem := by
  exact rfl

@[simp] theorem execUnbindRing_mem (m : Memory) (slot : MbxIx) (s : State) :
    answerMem m (execUnbindRing slot s) = s.mem := by
  unfold execUnbindRing
  refine runMailbox_mem _ _ _ _ _ fun a r => ?_
  dsimp only
  split <;> simp [apply_ite State.mem]

@[simp] theorem execReplayRing_mem (m : Memory) (slot : MbxIx) (s : State) :
    answerMem m (execReplayRing slot s) = s.mem := by
  unfold execReplayRing
  refine runMailbox_mem _ _ _ _ _ fun a r => ?_
  dsimp only
  split <;> simp [apply_ite State.mem, endBackground_mem]

/-! #### The placer -/

@[simp] theorem refreshSpares_mem (s : State) : (refreshSpares s).mem = s.mem := by
  unfold refreshSpares
  exact foldl_mem (fun _ _ => by simp) _ _

@[simp] theorem bindPans_mem (s : State) (t : TenIx) : (bindPans s t).mem = s.mem := by
  unfold bindPans
  rw [refreshSpares_mem]
  exact foldl_mem (fun r lp => modPan_mem r (Prod.snd lp) _) _ s

theorem withSlice_mem (s : State) (x : SliceSt) : { s with slice := x }.mem = s.mem := by
  exact rfl

@[simp] theorem unbindPans_mem (s : State) (t : TenIx) : (unbindPans s t).mem = s.mem := by
  unfold unbindPans
  rw [refreshSpares_mem]
  refine foldl_mem (fun r p => ?_) _ s
  split
  · rw [apply_ite State.mem, modPan_mem, withSlice_mem, ite_self]
  · rfl

@[simp] theorem freshSaved_mem (s : State) (t : TenIx) : (freshSaved s t).mem = s.mem := by
  exact rfl
@[simp] theorem ownTallies_mem (s : State) (base n : Nat) (owner : BitVec 5) : (ownTallies s base n owner).mem = s.mem := by
  exact rfl
@[simp] theorem ownGates_mem (s : State) (base : Nat) (owner : BitVec 5) (gs : List GateReq) :
    (ownGates s base owner gs).mem = s.mem := by
  exact rfl
@[simp] theorem freeTallies_mem (s : State) (base n : Nat) (t : TenIx) : (freeTallies s base n t).mem = s.mem := by
  exact rfl
@[simp] theorem freeGates_mem (s : State) (base n : Nat) (t : TenIx) : (freeGates s base n t).mem = s.mem := by
  exact rfl

@[simp] theorem barUntilTable_mem (s : State) (t : TenIx) : (barUntilTable s t).mem = s.mem := by
  unfold barUntilTable
  split <;> rfl

@[simp] theorem markSliced_mem (s : State) (table : List SliceEntry) : (markSliced s table).mem = s.mem := by
  unfold markSliced
  exact foldl_mem (fun _ _ => by simp) _ _

@[simp] theorem fillStack_mem (s : State) (k : StackIx) : (fillStack s k).mem = s.mem := by
  unfold fillStack
  dsimp only
  rw [foldl_mem (fun r e => modUnit_mem r _ _), foldl_mem (fun r d => fillTrace_mem r k d _),
    foldl_mem (fun r e => prechargeBank_mem r _)]

@[simp] theorem countFill_mem (s : State) : (countFill s).mem = s.mem := by
  rw [countFill]
@[simp] theorem revokeKeys_mem (s : State) (t : TenIx) : (revokeKeys s t).mem = s.mem := by
  exact rfl
@[simp] theorem refillReserve_mem (s : State) (freed : Nat) : (refillReserve s freed).mem = s.mem := by
  exact rfl
@[simp] theorem loseMessages_mem (s : State) (t : TenIx) : (loseMessages s t).mem = s.mem := by
  exact rfl
@[simp] theorem dropTenant_mem (s : State) (t : TenIx) : (dropTenant s t).mem = s.mem := by
  simp [dropTenant, apply_ite State.mem]

@[simp] theorem execUnload_mem (m : Memory) (slot : MbxIx) (table : List SliceEntry) (s : State) :
    answerMem m (execUnload slot table s) = s.mem := by
  refine runMailbox_mem _ _ _ _ _ fun a r => ?_
  dsimp only
  split
  · split
    · exact endBackground_mem ..
    · split
      · rfl
      · split
        · rw [endBackground_mem, markSliced_mem, setTable_mem, retryDegraded_mem, dropTenant_mem]
        · rfl
  · exact endBackground_mem ..

@[simp] theorem commitClock_mem (s : State) (ks : List StackIx) (clk : Byte) : (commitClock s ks clk).mem = s.mem := by
  simp [commitClock, apply_ite State.mem]
@[simp] theorem quiesceTenant_mem (s : State) (t : TenIx) : (quiesceTenant s t).mem = s.mem := by
  exact rfl

@[simp] theorem execStart_mem (m : Memory) (slot : MbxIx) (s : State) : answerMem m (execStart slot s) = s.mem := by
  unfold execStart
  refine runMailbox_mem _ _ _ _ _ fun a r => ?_
  dsimp only
  (repeat' split) <;> simp

@[simp] theorem execSetWeight_mem (m : Memory) (slot : MbxIx) (table : List SliceEntry) (s : State) :
    answerMem m (execSetWeight slot table s) = s.mem := by
  unfold execSetWeight
  refine runMailbox_mem _ _ _ _ _ fun a r => ?_
  dsimp only
  split <;> simp [apply_ite State.mem]

@[simp] theorem execPlcBudget_mem (m : Memory) (slot : MbxIx) (s : State) : answerMem m (execPlcBudget slot s) = s.mem := by
  unfold execPlcBudget
  refine runMailbox_mem _ _ _ _ _ fun a r => ?_
  dsimp only
  split <;> simp [apply_ite State.mem]

@[simp] theorem execPlcTrim_mem (m : Memory) (slot : MbxIx) (s : State) : answerMem m (execPlcTrim slot s) = s.mem := by
  unfold execPlcTrim
  refine runMailbox_mem _ _ _ _ _ fun a r => ?_
  dsimp only
  (repeat' split) <;> simp

@[simp] theorem execPlcQuery_mem (m : Memory) (slot : MbxIx) (s : State) : answerMem m (execPlcQuery slot s) = s.mem := by
  simp [execPlcQuery]

@[simp] theorem execPlcRetire_mem (m : Memory) (slot : MbxIx) (s : State) : answerMem m (execPlcRetire slot s) = s.mem := by
  unfold execPlcRetire
  refine runMailbox_mem _ _ _ _ _ fun a r => ?_
  dsimp only
  (repeat' split) <;> simp

/-! #### Tides and slices -/

@[simp] theorem sendRecord_mem (s : State) (t : TenIx) (body : Nat) : (sendRecord s t body).mem = s.mem := by
  simp [sendRecord]

@[simp] theorem modPans_mem (s : State) (t : TenIx) (f : Pan → Pan) : (modPans s t f).mem = s.mem := by
  unfold modPans
  exact foldl_keeps State.mem _ (by intros; rfl) _ _

@[simp] theorem logAbandoned_mem (s : State) (t : TenIx) : (logAbandoned s t).mem = s.mem := by
  unfold logAbandoned
  exact foldl_mem (fun _ _ => by simp [apply_ite State.mem]) _ _

@[simp] theorem dropWaits_mem (s : State) (t : TenIx) : (dropWaits s t).mem = s.mem := by
  exact rfl

@[simp] theorem sendUnfinished_mem (s : State) (t : TenIx) : (sendUnfinished s t).mem = s.mem := by
  unfold sendUnfinished
  exact foldl_mem (fun _ _ => by simp) _ _

@[simp] theorem haltTenant_mem (s : State) (t : TenIx) (code slot : Byte) : (haltTenant s t code slot).mem = s.mem := by
  simp [haltTenant]

@[simp] theorem closeTide_mem (s : State) (t : TenIx) : (closeTide s t).mem = s.mem := by
  unfold closeTide
  dsimp only
  (repeat' split) <;> simp

@[simp] theorem resumeTenant_mem (s : State) (t : TenIx) : (resumeTenant s t).mem = s.mem := by
  unfold resumeTenant
  split <;> rfl

@[simp] theorem takeBudget_mem (s : State) (t : TenIx) : (takeBudget s t).mem = s.mem := by
  unfold takeBudget
  split <;> rfl

@[simp] theorem takeTrims_mem (s : State) (t : TenIx) : (takeTrims s t).mem = s.mem := by
  exact rfl
@[simp] theorem bindBanks_mem (s : State) (t : TenIx) (ms : List (BankIx × BankIx)) : (bindBanks s t ms).mem = s.mem := by
  exact rfl

@[simp] theorem bindSlot_mem (s : State) (t : TenIx) (k : Nat) (z : SeqSlot) (given : List BlockPlace) :
    (bindSlot s t k z given).mem = s.mem := by
  unfold bindSlot
  dsimp only
  split <;> simp

@[simp] theorem bindGrowth_mem (s : State) (t : TenIx) (grow : List BlockPlace) : (bindGrowth s t grow).mem = s.mem := by
  unfold bindGrowth
  refine foldl_fst_mem (fun q k => ?_) _ (s, grow)
  split
  · rfl
  · split <;> simp

@[simp] theorem decideGrowth_mem (s : State) (t : TenIx) : (decideGrowth s t).mem = s.mem := by
  unfold decideGrowth
  exact foldl_mem (by intros; dsimp only; (repeat' split) <;> simp) _ _

@[simp] theorem logGear_mem (s : State) (t : TenIx) (old new : BitVec 3) : (logGear s t old new).mem = s.mem := by
  exact rfl

@[simp] theorem enterGear_mem (s : State) (t : TenIx) : (enterGear s t).mem = s.mem := by
  unfold enterGear
  dsimp only
  split <;> simp [apply_ite State.mem]

@[simp] theorem noteNoRoom_mem (s : State) (t : TenIx) : (noteNoRoom s t).mem = s.mem := by
  unfold noteNoRoom
  split <;> rfl

@[simp] theorem noteThrottle_mem (s : State) (t : TenIx) : (noteThrottle s t).mem = s.mem := by
  unfold noteThrottle
  split <;> rfl

@[simp] theorem otherCauses_mem (s : State) (t : TenIx) : (otherCauses s t).1.mem = s.mem := by
  simp [otherCauses, apply_ite State.mem]

@[simp] theorem testEntry_mem (s : State) (t : TenIx) (body : Nat) : (testEntry s t body).1.mem = s.mem := by
  unfold testEntry
  dsimp only
  (repeat' split) <;> simp

@[simp] theorem startPan_mem (s : State) (p : PanIx) (base : Dword) (body : Nat) : (startPan s p base body).mem = s.mem := by
  simp [startPan, apply_ite State.mem]
@[simp] theorem idlePans_mem (s : State) (t : TenIx) : (idlePans s t).mem = s.mem := by
  simp [idlePans]
@[simp] theorem nextTide_mem (s : State) (t : TenIx) : (nextTide s t).mem = s.mem := by
  exact rfl

@[simp] theorem beginTide_mem (s : State) (t : TenIx) : (beginTide s t).mem = s.mem := by
  unfold beginTide
  dsimp only
  split <;> simp [apply_ite State.mem]

@[simp] theorem execCommitTick_mem (m : Memory) (t : TenIx) (s : State) : answerMem m (execCommitTick t s) = s.mem := by
  simp only [execCommitTick]
  (repeat' split) <;> simp

@[simp] theorem leaveSlice_mem (s : State) (t : TenIx) : (leaveSlice s t).mem = s.mem := by
  rw [leaveSlice, modTen_mem, unbindPans_mem]

@[simp] theorem arriveSlice_mem (s : State) (t : TenIx) : (arriveSlice s t).mem = s.mem := by
  unfold arriveSlice
  refine (foldl_keeps State.mem _ (by intros; simp) _ _).trans ?_
  simp

@[simp] theorem turnover_mem (s : State) (old new : Half) : (turnover s old new).mem = s.mem := by
  simp [turnover]
@[simp] theorem execSliceEntryEnd_mem (m : Memory) (s : State) : answerMem m (execSliceEntryEnd s) = s.mem := by
  simp [execSliceEntryEnd, apply_ite (answerMem m), apply_ite State.mem]

@[simp] theorem execTurnoverEnd_mem (m : Memory) (s : State) : answerMem m (execTurnoverEnd s) = s.mem := by
  unfold execTurnoverEnd
  split
  · rfl
  · exact foldl_mem (fun r t => modTen_mem r t _) _ _

/-! #### The host -/

@[simp] theorem readRespq_mem (s : State) : (readRespq s).2.mem = s.mem := by
  unfold readRespq
  dsimp only
  split <;> simp [notePoison_mem]

@[simp] theorem readEvq_mem (s : State) : (readEvq s).2.mem = s.mem := by
  unfold readEvq
  dsimp only
  split <;> simp [notePoison_mem]

@[simp] theorem execHostRespqRead_mem (m : Memory) (s : State) : answerMem m (execHostRespqRead s) = s.mem := by
  simp [execHostRespqRead]
@[simp] theorem execHostEvqRead_mem (m : Memory) (s : State) : answerMem m (execHostEvqRead s) = s.mem := by
  simp [execHostEvqRead]
@[simp] theorem flushResp_mem (s : State) : (flushResp s).mem = s.mem := by
  simp [flushResp]
@[simp] theorem flushEv_mem (s : State) : (flushEv s).mem = s.mem := by
  exact rfl
@[simp] theorem execFlushResp_mem (m : Memory) (s : State) : answerMem m (execFlushResp s) = s.mem := by
  simp [execFlushResp, apply_ite (answerMem m)]
@[simp] theorem execFlushEv_mem (m : Memory) (s : State) : answerMem m (execFlushEv s) = s.mem := by
  simp [execFlushEv, apply_ite (answerMem m)]
@[simp] theorem execQueueFlushEffect_mem (m : Memory) (ev : Bool) (s : State) :
    answerMem m (execQueueFlushEffect ev s) = s.mem := by
  simp [execQueueFlushEffect, apply_ite (answerMem m), apply_ite State.mem]
@[simp] theorem execBar2Read_mem (m : Memory) (_lane : LaneIx) (_off : BitVec 26) (s : State) :
    answerMem m (execBar2Read _lane _off s) = s.mem := by
  simp [execBar2Read]
@[simp] theorem execIngestDoorbell_mem (m : Memory) (lane : LaneIx) (token : Word) (s : State) :
    answerMem m (execIngestDoorbell lane token s) = s.mem := by
  simp [execIngestDoorbell, apply_ite (answerMem m)]

@[simp] theorem execBindLane_mem (m : Memory) (slot : MbxIx) (s : State) : answerMem m (execBindLane slot s) = s.mem := by
  unfold execBindLane
  refine runMailbox_mem _ _ _ _ _ fun a r => ?_
  dsimp only
  split <;> simp [apply_ite State.mem]

@[simp] theorem execMapHost_mem (m : Memory) (slot : MbxIx) (region : Half) (s : State) :
    answerMem m (execMapHost slot region s) = s.mem := by
  simp [execMapHost, apply_ite State.mem, setRegion_mem]

@[simp] theorem execSignal_mem (m : Memory) (slot : MbxIx) (s : State) : answerMem m (execSignal slot s) = s.mem := by
  unfold execSignal
  refine runMailbox_mem _ _ _ _ _ fun a r => ?_
  dsimp only
  split <;> simp [apply_ite State.mem]

@[simp] theorem execGateArrive_mem (m : Memory) (slot : MbxIx) (s : State) :
    answerMem m (execGateArrive slot s) = s.mem := by
  unfold execGateArrive
  refine runMailbox_mem _ _ _ _ _ fun a r => ?_
  dsimp only
  (repeat' split) <;> simp [endBackground_mem]

@[simp] theorem execGatePorts_mem (m : Memory) (slot : MbxIx) (s : State) : answerMem m (execGatePorts slot s) = s.mem := by
  unfold execGatePorts
  refine runMailbox_mem _ _ _ _ _ fun a r => ?_
  dsimp only
  split <;> simp [apply_ite State.mem]

@[simp] theorem execSyncDump_mem (m : Memory) (slot : MbxIx) (s : State) : answerMem m (execSyncDump slot s) = s.mem := by
  unfold execSyncDump
  refine runMailbox_mem _ _ _ _ _ fun a r => ?_
  dsimp only
  (repeat' split) <;> simp [endBackground_mem]

@[simp] theorem execReset_mem (m : Memory) (slot : MbxIx) (s : State) : answerMem m (execReset slot s) = s.mem := by
  refine runMailbox_mem _ _ _ _ _ fun a r => ?_
  split <;> exact endBackground_mem ..

@[simp] theorem modRings_mem (s : State) (f : Machine.Ring → Machine.Ring) : (modRings s f).mem = s.mem := by
  unfold modRings
  exact foldl_mem (fun _ _ => by simp) _ _

@[simp] theorem attachNow_mem (s : State) : (attachNow s).mem = s.mem := by
  simp [attachNow, apply_ite State.mem]

@[simp] theorem execHostAttach_mem (m : Memory) (v : Dword) (s : State) : answerMem m (execHostAttach v s) = s.mem := by
  simp only [execHostAttach]
  (repeat' split) <;> simp

@[simp] theorem loseRing_mem (s : State) (n : RingIx) : (loseRing s n).mem = s.mem := by
  simp [loseRing, apply_ite State.mem]
@[simp] theorem preserveTenant_mem (s : State) (t : TenIx) : (preserveTenant s t).mem = s.mem := by
  simp [preserveTenant, apply_ite State.mem]
@[simp] theorem crashMode_mem (s : State) : (crashMode s).mem = s.mem := by
  simp [crashMode, apply_ite State.mem]
@[simp] theorem linkLost_mem (s : State) : (linkLost s).mem = s.mem := by
  exact rfl
@[simp] theorem loseHost_mem (s : State) : (loseHost s).mem = s.mem := by
  simp [loseHost, apply_ite State.mem]
@[simp] theorem execHostLoss_mem (m : Memory) (_k : LossKind) (s : State) : answerMem m (execHostLoss _k s) = s.mem := by
  simp [execHostLoss]
@[simp] theorem execLinkRetrain_mem (m : Memory) (s : State) : answerMem m (execLinkRetrain s) = s.mem := by
  simp [execLinkRetrain]
@[simp] theorem execSnoop_mem (m : Memory) (_addr : Dword) (s : State) : answerMem m (execSnoop _addr s) = s.mem := by
  simp [execSnoop]
@[simp] theorem execLinkUp_mem (m : Memory) (width : Byte) (speed : BitVec 4) (flit cache : Bool) (s : State) :
    answerMem m (execLinkUp width speed flit cache s) = s.mem := by
  simp [execLinkUp, apply_ite State.mem]

/-! #### The M slot -/

@[simp] theorem queueM_mem (s : State) (p : PanIx) (b : Bundle) (op : MOp) : (queueM s p b op).mem = s.mem := by
  exact rfl
@[simp] theorem execMnop_mem (m : Memory) (p : PanIx) (b : Bundle) (z : BitVec 26) (s : State) :
    answerMem m (execMnop p b z s) = s.mem := by
  simp [execMnop]
@[simp] theorem execMfmt_mem (m : Memory) (p : PanIx) (b : Bundle) (fa fb : BitVec 4) (sc : BitVec 2) (gs : Reg5)
    (z : BitVec 11) (s : State) : answerMem m (execMfmt p b fa fb sc gs z s) = s.mem := by
  simp [execMfmt]
@[simp] theorem execMsca_mem (m : Memory) (p : PanIx) (b : Bundle) (ga : Reg5) (rows : BitVec 7) (z : BitVec 14)
    (s : State) : answerMem m (execMsca p b ga rows z s) = s.mem := by
  simp [execMsca]
@[simp] theorem execMldb_mem (m : Memory) (p : PanIx) (b : Bundle) (ga gt gc : Reg5) (bs : BitVec 1) (z : BitVec 10)
    (s : State) : answerMem m (execMldb p b ga gt gc bs z s) = s.mem := by
  simp [execMldb]
@[simp] theorem execMldbt_mem (m : Memory) (p : PanIx) (b : Bundle) (tb : BitVec 2) (gr : Reg5) (bs : BitVec 1)
    (z : BitVec 18) (s : State) : answerMem m (execMldbt p b tb gr bs z s) = s.mem := by
  simp [execMldbt]
@[simp] theorem execMmv_mem (m : Memory) (p : PanIx) (b : Bundle) (va vd : Reg5) (n : BitVec 4)
    (acc out bs : BitVec 1) (z : BitVec 9) (s : State) : answerMem m (execMmv p b va vd n acc out bs z s) = s.mem := by
  simp [execMmv]
@[simp] theorem execMmt_mem (m : Memory) (p : PanIx) (b : Bundle) (gr : Reg5) (ta td : BitVec 2) (n : BitVec 8)
    (acc out bs : BitVec 1) (z : BitVec 6) (s : State) : answerMem m (execMmt p b gr ta td n acc out bs z s) = s.mem := by
  simp [execMmt]

@[simp] theorem execMOpStart_mem (m : Memory) (p : PanIx) (s : State) : answerMem m (execMOpStart p s) = s.mem := by
  simp only [execMOpStart]
  (repeat' split) <;> simp

@[simp] theorem execMOpComplete_mem (m : Memory) (p : PanIx) (k : Nat) (s : State) :
    answerMem m (execMOpComplete p k s) = s.mem := by
  simp only [execMOpComplete]
  split <;> simp [apply_ite (answerMem m)]

/-! #### Ponds -/

@[simp] theorem execPondEnter_mem (m : Memory) (k : StackIx) (q : PcIx) (s : State) :
    answerMem m (execPondEnter k q s) = s.mem := by
  simp [execPondEnter]
@[simp] theorem execPondExit_mem (m : Memory) (k : StackIx) (q : PcIx) (s : State) :
    answerMem m (execPondExit k q s) = s.mem := by
  simp [execPondExit, settleExit_mem]
@[simp] theorem execPmodeInj_mem (m : Memory) (k : StackIx) (q : PcIx) (inj : Bool) (s : State) :
    answerMem m (execPmodeInj k q inj s) = s.mem := by
  simp [execPmodeInj]
@[simp] theorem notePondErr_mem (s : State) (st : StackIx) (code : Byte) (op : BitVec 6) (stat tag : BitVec 4)
    (die bank : Nat) : (notePondErr s st code op stat tag die bank).mem = s.mem := by
  exact rfl

@[simp] theorem noteUnitUe_mem (s : State) (x : UnitAt) (t : Option TenIx) (l : Nat) : (noteUnitUe s x t l).mem = s.mem := by
  unfold noteUnitUe
  split <;> rfl

@[simp] theorem readColumn_mem (s : State) (x : UnitAt) (t : Option TenIx) (l : Nat) :
    (readColumn s x t l).1.mem = s.mem := by
  simp [readColumn, apply_ite State.mem]

@[simp] theorem readColumns_mem (s : State) (x : UnitAt) (t : Option TenIx) (ls : List Nat) :
    (readColumns s x t ls).1.mem = s.mem := by
  induction ls generalizing s with
  | nil => rfl
  | cons l ls ih => rw [readColumns, ih, readColumn_mem]

@[simp] theorem dotItem_mem (x : UnitAt) (t : Option TenIx) (c : PondCmd) (mvw : Bool) (r : State × Bool)
    (qi : Nat × Nat) : (dotItem x t c mvw r qi).1.mem = r.1.mem := by
  simp [dotItem]
@[simp] theorem dotEffect_mem (s : State) (x : UnitAt) (t : Option TenIx) (c : PondCmd) (nq : Nat) (mvw : Bool) :
    (dotEffect s x t c nq mvw).1.mem = s.mem := by
  simp [dotEffect]
@[simp] theorem wsumItem_mem (x : UnitAt) (t : Option TenIx) (c : PondCmd) (r : State × Bool) (i : Nat) :
    (wsumItem x t c r i).1.mem = r.1.mem := by
  simp [wsumItem]
@[simp] theorem wsumEffect_mem (s : State) (x : UnitAt) (t : Option TenIx) (c : PondCmd) :
    (wsumEffect s x t c).1.mem = s.mem := by
  simp [wsumEffect]
@[simp] theorem ldwColumn_mem (x : UnitAt) (t : Option TenIx) (c : PondCmd) (r : State × Bool) (j : Nat) :
    (ldwColumn x t c r j).1.mem = r.1.mem := by
  simp [ldwColumn]

@[simp] theorem csendEffect_mem (s : State) (x : UnitAt) (c : PondCmd) : (csendEffect s x c).1.mem = s.mem := by
  unfold csendEffect
  dsimp only
  (repeat' split) <;> simp

@[simp] theorem notePeak_mem (s : State) (st : StackIx) (d : Nat) : (notePeak s st d).mem = s.mem := by
  exact rfl

@[simp] theorem acceptRun_mem (s : State) (b : BankIx) (run : PondRun) : (acceptRun s b run).mem = s.mem := by
  unfold acceptRun
  dsimp only
  split
  · rfl
  · split
    · rfl
    · rw [startRun_mem, modUnit_mem]

@[simp] theorem deliver_mem (s : State) (b : BankIx) (tag : BitVec 4) (reg : Nat) (data : List Byte) (bad : Bool) :
    (deliver s b tag reg data bad).mem = s.mem := by
  exact rfl
@[simp] theorem cutShort_mem (s : State) (b : BankIx) (tag : BitVec 4) : (cutShort s b tag).mem = s.mem := by
  exact rfl
@[simp] theorem setWindow_mem (s : State) (g : SegIx) (w : Window) : (setWindow s g w).mem = s.mem := by
  exact rfl

@[simp] theorem commandWrite_mem (s : State) (g : SegIx) (tag : BitVec 4) (a : Arrival) (op : BitVec 6) (c : PondCmd)
    (t : Option TenIx) : (commandWrite s g tag a op c t).mem = s.mem := by
  unfold commandWrite
  extract_lets units w s1 d s2 s3 run s5
  have h3 : s3.mem = s.mem := by
    simp only [s3]
    split
    · rfl
    · simp [noteWaiting_mem, forcedRefresh_mem, s2, s1]
  have h5 : s5.mem = s.mem := by simp [s5, h3]
  split
  · exact (foldl_mem (fun r b => modUnit_mem r _ _) _ s3).trans h3
  · split <;> simp [h5]

@[simp] theorem payloadWrite_mem (s : State) (g : SegIx) (w : Window) (data : List Byte) :
    (payloadWrite s g w data).mem = s.mem := by
  unfold payloadWrite
  exact foldl_keeps State.mem _ (by intros; rfl) _ _

@[simp] theorem execPondCommandStart_mem (m : Memory) (b : BankIx) (s : State) :
    answerMem m (execPondCommandStart b s) = s.mem := by
  simp only [execPondCommandStart]
  split <;> simp [apply_ite State.mem, settleExit_mem, startRun_mem]

@[simp] theorem execResultRowRead_mem (m : Memory) (b : BankIx) (col : Fin 32) (s : State) :
    answerMem m (execResultRowRead b col s) = s.mem := by
  simp [execResultRowRead, apply_ite State.mem]

/-! #### DRAM requests -/

@[simp] theorem enqueue_mem (s : State) (k : StackIx) (r : DramReq) : (enqueue s k r).mem = s.mem := by
  exact rfl

@[simp] theorem takeWrite_mem (s : State) (k : StackIx) (r : DramReq) : (takeWrite s k r).mem = s.mem := by
  simp only [takeWrite]
  split
  · rfl
  · split
    · rw [askBank_mem]
    · split
      · rw [placeWrite_mem]
      · rw [apply_ite State.mem, haltSource_mem, placeWrite_mem, ite_self, apply_ite State.mem, modStack_mem, ite_self,
          noteColumn_mem, apply_ite State.mem, answered_mem, readArray_mem, ite_self]

@[simp] theorem forwardRead_mem (s : State) (k : StackIx) (r : DramReq) (e : WqEntry) :
    (forwardRead s k r e).mem = s.mem := by
  simp [forwardRead, apply_ite State.mem]

@[simp] theorem execDramRequest_mem (m : Memory) (k : StackIx) (r : DramReq) (s : State) :
    answerMem m (execDramRequest k r s) = s.mem := by
  simp only [execDramRequest]
  (repeat' split) <;> simp

@[simp] theorem execRequestPromotion_mem (m : Memory) (k : StackIx) (n : Nat) (s : State) :
    answerMem m (execRequestPromotion k n s) = s.mem := by
  simp only [execRequestPromotion]
  (repeat' split) <;> simp

@[simp] theorem execRowIdleClose_mem (m : Memory) (b : BankIx) (s : State) : answerMem m (execRowIdleClose b s) = s.mem := by
  simp [execRowIdleClose, apply_ite State.mem]

/-! #### Command streams -/

@[simp] theorem readAttn_mem (s : State) (t : TenIx) (r : AttnRef) : (readAttn s t r).mem = s.mem := by
  unfold readAttn
  split <;> simp [apply_ite State.mem]

@[simp] theorem execAttnRecordRead_mem (m : Memory) (t : TenIx) (r : AttnRef) (s : State) :
    answerMem m (execAttnRecordRead t r s) = s.mem := by
  simp [execAttnRecordRead, apply_ite State.mem]
@[simp] theorem advance_mem (s : State) (t : TenIx) (table n : Nat) : (advance s t table n).mem = s.mem := by
  exact rfl
@[simp] theorem refuseBudget_mem (s : State) (t : TenIx) (g : SegIx) (op : BitVec 6) (c : PondCmd) :
    (refuseBudget s t g op c).mem = s.mem := by
  exact rfl
@[simp] theorem statusRead_mem (s : State) (t : TenIx) (table : Nat) (b : BankIx) :
    (statusRead s t table b).mem = s.mem := by
  simp [statusRead, apply_ite State.mem]

@[simp] theorem execPondStreamComplete_mem (m : Memory) (t : TenIx) (table : Nat) (s : State) :
    answerMem m (execPondStreamComplete t table s) = s.mem := by
  simp only [execPondStreamComplete]
  (repeat' split) <;> simp

/-! #### Rakes and spares -/

@[simp] theorem readLogEntry_mem (s : State) (ev : Bool) (n : Nat) : (readLogEntry s ev n).2.mem = s.mem := by
  simp [readLogEntry]

@[simp] theorem writeLogWord_mem (s : State) (l a : Nat) (d : Dword) : (writeLogWord s l a d).mem = s.mem := by
  unfold writeLogWord
  split <;> rfl

@[simp] theorem rakeBad_mem (s : State) (ws : List (Nat × Decoded)) : (rakeBad s ws).mem = s.mem := by
  simp [rakeBad, apply_ite State.mem]

@[simp] theorem rakeFix_mem (s : State) (ws : List (Nat × Decoded)) : (rakeFix s ws).mem = s.mem := by
  unfold rakeFix
  exact foldl_keeps State.mem _ (by intros; rfl) _ _

@[simp] theorem inPond_mem (s : State) (k : StackIx) (q : PcIx) (f : State → State) (hf : ∀ r, (f r).mem = r.mem) :
    (inPond s k q f).mem = s.mem := by
  unfold inPond
  split <;> simp [settleExit_mem, hf]

@[simp] theorem execEvClr_mem (m : Memory) (s : State) : answerMem m (execEvClr s) = s.mem := by
  simp [execEvClr]
@[simp] theorem execErClr_mem (m : Memory) (s : State) : answerMem m (execErClr s) = s.mem := by
  simp [execErClr]

/-! #### The network -/

@[simp] theorem dropFrame_mem (s : State) (n : PortIx) : (dropFrame s n).mem = s.mem := by
  exact rfl
@[simp] theorem corruptFrame_mem (s : State) (n : PortIx) : (corruptFrame s n).mem = s.mem := by
  exact rfl

@[simp] theorem takeFrames_mem (s : State) (n : PortIx) (k : Nat) : (takeFrames s n k).mem = s.mem := by
  unfold takeFrames
  exact foldl_keeps State.mem _ (by intros; rfl) _ _

@[simp] theorem sendQueued_mem (s : State) (n : PortIx) (o : Out) (k : Nat) : (sendQueued s n o k).mem = s.mem := by
  simp [sendQueued]
@[simp] theorem resumePort_mem (s : State) (n : PortIx) : (resumePort s n).mem = s.mem := by
  simp [resumePort]
@[simp] theorem queueFrame_mem (s : State) (n : PortIx) (f : RxFrame) : (queueFrame s n f).mem = s.mem := by
  simp [queueFrame, apply_ite State.mem]

@[simp] theorem serveFrames_mem (k : Nat) (s : State) (n : PortIx) : (serveFrames k s n).mem = s.mem := by
  induction k generalizing s with
  | zero => rfl
  | succ k ih =>
    rw [serveFrames]
    split
    · rfl
    · split
      · dsimp only
        rw [ih]
        split <;> simp
      · rfl

@[simp] theorem serveFront_mem (s : State) (n : PortIx) : (serveFront s n).mem = s.mem := by
  simp [serveFront]

@[simp] theorem execFrameReceive_mem (m : Memory) (n : PortIx) (kind : FrameKind) (bytes : Nat) (fcsOk : Bool)
    (s : State) : answerMem m (execFrameReceive n kind bytes fcsOk s) = s.mem := by
  simp only [execFrameReceive]
  (repeat' split) <;> simp

@[simp] theorem refuseMessage_mem (s : State) (n : PortIx) (q : Fin 64) (key : Word) (syn : Byte) :
    (refuseMessage s n q key syn).mem = s.mem := by
  simp [refuseMessage, apply_ite State.mem]
@[simp] theorem refuseSequence_mem (s : State) (n : PortIx) (q : Fin 64) : (refuseSequence s n q).mem = s.mem := by
  simp [refuseSequence]
@[simp] theorem setMsg_mem (s : State) (n : PortIx) (m : Option RxMsg) : (setMsg s n m).mem = s.mem := by
  exact rfl
@[simp] theorem takeFrame_mem (s : State) (n : PortIx) (q : Fin 64) : (takeFrame s n q).mem = s.mem := by
  simp [takeFrame, apply_ite State.mem]
@[simp] theorem packetDone_mem (s : State) (n : PortIx) (m : RxMsg) (len : Nat) : (packetDone s n m len).mem = s.mem := by
  simp [packetDone, apply_ite State.mem]

@[simp] theorem execRdmaImmSignal_mem (m : Memory) (n : PortIx) (q : Fin 64) (s : State) :
    answerMem m (execRdmaImmSignal n q s) = s.mem := by
  simp only [execRdmaImmSignal]
  (repeat' split) <;> simp

@[simp] theorem queueLost_mem (s : State) (i : Nat) : (queueLost s i).mem = s.mem := by
  exact rfl
@[simp] theorem execNetLinkDown_mem (m : Memory) (n : PortIx) (s : State) : answerMem m (execNetLinkDown n s) = s.mem := by
  simp [execNetLinkDown, apply_ite State.mem]

@[simp] theorem execNetPortCfg_mem (m : Memory) (slot : MbxIx) (s : State) :
    answerMem m (execNetPortCfg slot s) = s.mem := by
  refine runMailbox_mem _ _ _ _ _ fun a r => ?_
  split
  · rw [respond_mem]
  · split
    · rw [respond_mem]
    · rw [respond_mem, modPort_mem]

@[simp] theorem execNetKeyBind_mem (m : Memory) (slot : MbxIx) (entry : Byte) (owner : Option TenIx) (s : State) :
    answerMem m (execNetKeyBind slot entry owner s) = s.mem := by
  unfold execNetKeyBind
  refine runMailbox_mem _ _ _ _ _ fun a r => ?_
  dsimp only
  split <;> simp [apply_ite State.mem]

@[simp] theorem execNetKeyRevoke_mem (m : Memory) (slot : MbxIx) (s : State) :
    answerMem m (execNetKeyRevoke slot s) = s.mem := by
  simp [execNetKeyRevoke, apply_ite State.mem]
@[simp] theorem resumeStream_mem (s : State) : (resumeStream s).mem = s.mem := by
  simp [resumeStream]
@[simp] theorem losePair_mem (s : State) (n : PortIx) (q : Fin 64) : (losePair s n q).mem = s.mem := by
  exact rfl

@[simp] theorem execNetQpSet_mem (m : Memory) (slot : MbxIx) (s : State) : answerMem m (execNetQpSet slot s) = s.mem := by
  refine runMailbox_mem _ _ _ _ _ fun a r => ?_
  split
  · split
    · rw [respond_mem]
    · rw [respond_mem, resumeStream_mem, modQp_mem, losePair_mem]
  · rw [respond_mem]

@[simp] theorem execNetQpDestroy_mem (m : Memory) (slot : MbxIx) (s : State) :
    answerMem m (execNetQpDestroy slot s) = s.mem := by
  unfold execNetQpDestroy
  refine runMailbox_mem _ _ _ _ _ fun a r => ?_
  dsimp only
  split <;> simp

@[simp] theorem execPortLinkUp_mem (m : Memory) (n : PortIx) (s : State) : answerMem m (execPortLinkUp n s) = s.mem := by
  simp [execPortLinkUp, apply_ite State.mem]

/-! #### Mirrors -/

@[simp] theorem fenceTenant_mem (s : State) (t : TenIx) : (fenceTenant s t).mem = s.mem := by
  simp [fenceTenant, apply_ite State.mem]
@[simp] theorem sendFirstRecord_mem (s : State) (t : TenIx) : (sendFirstRecord s t).mem = s.mem := by
  simp [sendFirstRecord]
@[simp] theorem fence_mem (s : State) : (fence s).mem = s.mem := by
  simp [fence, apply_ite State.mem]
@[simp] theorem execMirAccept_mem (m : Memory) (slot : MbxIx) (s : State) : answerMem m (execMirAccept slot s) = s.mem := by
  simp [execMirAccept]
@[simp] theorem execMirUnpair_mem (m : Memory) (slot : MbxIx) (s : State) : answerMem m (execMirUnpair slot s) = s.mem := by
  simp [execMirUnpair, apply_ite State.mem]
@[simp] theorem countMirror_mem (s : State) (n : Nat) : (countMirror s n).mem = s.mem := by
  exact rfl
@[simp] theorem execMirrorWriteReceive_mem (m : Memory) (t : TenIx) (region : Half) (off : Nat) (data : List Byte)
    (s : State) : answerMem m (execMirrorWriteReceive t region off data s) = s.mem := by
  simp [execMirrorWriteReceive, apply_ite State.mem]

@[simp] theorem refreshSync_mem (s : State) : (refreshSync s).mem = s.mem := by
  unfold refreshSync
  split <;> rfl

@[simp] theorem execMirrorAck_mem (m : Memory) (t : TenIx) (tide : Dword) (s : State) :
    answerMem m (execMirrorAck t tide s) = s.mem := by
  simp [execMirrorAck, apply_ite State.mem]
@[simp] theorem execHeartbeatToggle_mem (m : Memory) (s : State) : answerMem m (execHeartbeatToggle s) = s.mem := by
  simp [execHeartbeatToggle, apply_ite State.mem]
@[simp] theorem execHbInEdge_mem (m : Memory) (s : State) : answerMem m (execHbInEdge s) = s.mem := by
  simp [execHbInEdge]

@[simp] theorem takeOver.restore_mem (s : State) (t : TenIx) (anchor : Dword) :
    (takeOver.restore s t anchor).mem = s.mem := by
  unfold takeOver.restore
  dsimp only
  simp only [modTen_mem]
  rw [foldl_mem (fun _ _ => setGate_mem _ _ _), foldl_mem (fun _ _ => setTally_mem _ _ _), foldl_mem fun r i => ?_,
    foldl_mem fun r l => ?_]
  · split <;> rfl
  · split <;> simp

@[simp] theorem takeOver_mem (s : State) : (takeOver s).mem = s.mem := by
  simp [takeOver, apply_ite State.mem]
@[simp] theorem execHeartbeatLost_mem (m : Memory) (s : State) : answerMem m (execHeartbeatLost s) = s.mem := by
  simp [execHeartbeatLost, apply_ite State.mem]
@[simp] theorem execStreamSilent_mem (m : Memory) (s : State) : answerMem m (execStreamSilent s) = s.mem := by
  simp [execStreamSilent, apply_ite State.mem]

@[simp] theorem execTakeoverTenantStart_mem (m : Memory) (t : TenIx) (s : State) :
    answerMem m (execTakeoverTenantStart t s) = s.mem := by
  simp only [execTakeoverTenantStart]
  (repeat' split) <;> simp

@[simp] theorem execTkoInAssert_mem (m : Memory) (s : State) : answerMem m (execTkoInAssert s) = s.mem := by
  simp [execTkoInAssert]

/-! #### The E slot -/

@[simp] theorem queueE_mem (s : State) (p : PanIx) (b : Bundle) (op : EOp) : (queueE s p b op).mem = s.mem := by
  exact rfl
@[simp] theorem execEnop_mem (m : Memory) (p : PanIx) (b : Bundle) (z : BitVec 26) (s : State) :
    answerMem m (execEnop p b z s) = s.mem := by
  simp [execEnop]
@[simp] theorem execErun_mem (m : Memory) (p : PanIx) (b : Bundle) (cwi : BitVec 6) (vs vd vb n : Reg5) (s : State) :
    answerMem m (execErun p b cwi vs vd vb n s) = s.mem := by
  simp [execErun]
@[simp] theorem execErunt_mem (m : Memory) (p : PanIx) (b : Bundle) (cwi : BitVec 6) (ts td : BitVec 2) (gr vb : Reg5)
    (z : BitVec 6) (s : State) : answerMem m (execErunt p b cwi ts td gr vb z s) = s.mem := by
  simp [execErunt]
@[simp] theorem execEcwld_mem (m : Memory) (p : PanIx) (b : Bundle) (cw : BitVec 6) (ga : Reg5) (cnt : BitVec 6)
    (z : BitVec 9) (s : State) : answerMem m (execEcwld p b cw ga cnt z s) = s.mem := by
  simp [execEcwld, apply_ite State.mem]
@[simp] theorem execEyclr_mem (m : Memory) (p : PanIx) (b : Bundle) (yr : BitVec 3) (z : BitVec 23) (s : State) :
    answerMem m (execEyclr p b yr z s) = s.mem := by
  simp [execEyclr]

@[simp] theorem execEOpStart_mem (m : Memory) (p : PanIx) (s : State) : answerMem m (execEOpStart p s) = s.mem := by
  simp only [execEOpStart]
  (repeat' split) <;> simp

@[simp] theorem execEOpComplete_mem (m : Memory) (p : PanIx) (s : State) : answerMem m (execEOpComplete p s) = s.mem := by
  simp only [execEOpComplete]
  split <;> simp

/-! #### The S slot -/

@[simp] theorem execSnop_mem (m : Memory) (p : PanIx) (b : Bundle) (z : BitVec 26) (s : State) :
    answerMem m (execSnop p b z s) = s.mem := by
  simp [execSnop]
@[simp] theorem execAdd_mem (m : Memory) (p : PanIx) (b : Bundle) (rd ra rb : Reg5) (z : BitVec 11) (s : State) :
    answerMem m (execAdd p b rd ra rb z s) = s.mem := by
  simp [execAdd]
@[simp] theorem execSub_mem (m : Memory) (p : PanIx) (b : Bundle) (rd ra rb : Reg5) (z : BitVec 11) (s : State) :
    answerMem m (execSub p b rd ra rb z s) = s.mem := by
  simp [execSub]
@[simp] theorem execAnd_mem (m : Memory) (p : PanIx) (b : Bundle) (rd ra rb : Reg5) (z : BitVec 11) (s : State) :
    answerMem m (execAnd p b rd ra rb z s) = s.mem := by
  simp [execAnd]
@[simp] theorem execOr_mem (m : Memory) (p : PanIx) (b : Bundle) (rd ra rb : Reg5) (z : BitVec 11) (s : State) :
    answerMem m (execOr p b rd ra rb z s) = s.mem := by
  simp [execOr]
@[simp] theorem execXor_mem (m : Memory) (p : PanIx) (b : Bundle) (rd ra rb : Reg5) (z : BitVec 11) (s : State) :
    answerMem m (execXor p b rd ra rb z s) = s.mem := by
  simp [execXor]
@[simp] theorem execShl_mem (m : Memory) (p : PanIx) (b : Bundle) (rd ra rb : Reg5) (z : BitVec 11) (s : State) :
    answerMem m (execShl p b rd ra rb z s) = s.mem := by
  simp [execShl]
@[simp] theorem execShr_mem (m : Memory) (p : PanIx) (b : Bundle) (rd ra rb : Reg5) (z : BitVec 11) (s : State) :
    answerMem m (execShr p b rd ra rb z s) = s.mem := by
  simp [execShr]
@[simp] theorem execSar_mem (m : Memory) (p : PanIx) (b : Bundle) (rd ra rb : Reg5) (z : BitVec 11) (s : State) :
    answerMem m (execSar p b rd ra rb z s) = s.mem := by
  simp [execSar]
@[simp] theorem execMul_mem (m : Memory) (p : PanIx) (b : Bundle) (rd ra rb : Reg5) (z : BitVec 11) (s : State) :
    answerMem m (execMul p b rd ra rb z s) = s.mem := by
  simp [execMul]
@[simp] theorem execSlt_mem (m : Memory) (p : PanIx) (b : Bundle) (rd ra rb : Reg5) (z : BitVec 11) (s : State) :
    answerMem m (execSlt p b rd ra rb z s) = s.mem := by
  simp [execSlt]
@[simp] theorem execSltu_mem (m : Memory) (p : PanIx) (b : Bundle) (rd ra rb : Reg5) (z : BitVec 11) (s : State) :
    answerMem m (execSltu p b rd ra rb z s) = s.mem := by
  simp [execSltu]
@[simp] theorem execAddi_mem (m : Memory) (p : PanIx) (b : Bundle) (rd ra : Reg5) (imm : Half) (s : State) :
    answerMem m (execAddi p b rd ra imm s) = s.mem := by
  simp [execAddi]
@[simp] theorem execAndi_mem (m : Memory) (p : PanIx) (b : Bundle) (rd ra : Reg5) (imm : Half) (s : State) :
    answerMem m (execAndi p b rd ra imm s) = s.mem := by
  simp [execAndi]
@[simp] theorem execOri_mem (m : Memory) (p : PanIx) (b : Bundle) (rd ra : Reg5) (imm : Half) (s : State) :
    answerMem m (execOri p b rd ra imm s) = s.mem := by
  simp [execOri]
@[simp] theorem execXori_mem (m : Memory) (p : PanIx) (b : Bundle) (rd ra : Reg5) (imm : Half) (s : State) :
    answerMem m (execXori p b rd ra imm s) = s.mem := by
  simp [execXori]
@[simp] theorem execShli_mem (m : Memory) (p : PanIx) (b : Bundle) (rd ra : Reg5) (imm : Half) (s : State) :
    answerMem m (execShli p b rd ra imm s) = s.mem := by
  simp [execShli]
@[simp] theorem execShri_mem (m : Memory) (p : PanIx) (b : Bundle) (rd ra : Reg5) (imm : Half) (s : State) :
    answerMem m (execShri p b rd ra imm s) = s.mem := by
  simp [execShri]
@[simp] theorem execSari_mem (m : Memory) (p : PanIx) (b : Bundle) (rd ra : Reg5) (imm : Half) (s : State) :
    answerMem m (execSari p b rd ra imm s) = s.mem := by
  simp [execSari]
@[simp] theorem execMovk_mem (m : Memory) (p : PanIx) (b : Bundle) (rd : Reg5) (z : BitVec 3) (h : BitVec 2)
    (imm : Half) (s : State) : answerMem m (execMovk p b rd z h imm s) = s.mem := by
  simp [execMovk]
@[simp] theorem execLd_mem (m : Memory) (p : PanIx) (b : Bundle) (rd ra : Reg5) (imm : Half) (s : State) :
    answerMem m (execLd p b rd ra imm s) = s.mem := by
  simp [execLd]
@[simp] theorem execSt_mem (m : Memory) (p : PanIx) (b : Bundle) (rd ra : Reg5) (imm : Half) (s : State) :
    answerMem m (execSt p b rd ra imm s) = s.mem :=
  issueS_mem _ _ _ _ _ _ fun r => modPan_mem r p _
@[simp] theorem execLdy_mem (m : Memory) (p : PanIx) (b : Bundle) (rd ra : Reg5) (imm : Half) (s : State) :
    answerMem m (execLdy p b rd ra imm s) = s.mem := by
  simp [execLdy]
@[simp] theorem execLds_mem (m : Memory) (p : PanIx) (b : Bundle) (rd ra : Reg5) (imm : Half) (s : State) :
    answerMem m (execLds p b rd ra imm s) = s.mem := by
  simp [execLds]
@[simp] theorem execBeq_mem (m : Memory) (p : PanIx) (b : Bundle) (ra rb : Reg5) (off : Half) (s : State) :
    answerMem m (execBeq p b ra rb off s) = s.mem := by
  simp [execBeq]
@[simp] theorem execBne_mem (m : Memory) (p : PanIx) (b : Bundle) (ra rb : Reg5) (off : Half) (s : State) :
    answerMem m (execBne p b ra rb off s) = s.mem := by
  simp [execBne]
@[simp] theorem execBlt_mem (m : Memory) (p : PanIx) (b : Bundle) (ra rb : Reg5) (off : Half) (s : State) :
    answerMem m (execBlt p b ra rb off s) = s.mem := by
  simp [execBlt]
@[simp] theorem execBge_mem (m : Memory) (p : PanIx) (b : Bundle) (ra rb : Reg5) (off : Half) (s : State) :
    answerMem m (execBge p b ra rb off s) = s.mem := by
  simp [execBge]
@[simp] theorem execBranchY_mem (m : Memory) (p : PanIx) (b : Bundle) (yr : BitVec 3) (bit : BitVec 6)
    (sense : BitVec 1) (off : Half) (s : State) : answerMem m (execBranchY p b yr bit sense off s) = s.mem := by
  simp [execBranchY]
@[simp] theorem execJ_mem (m : Memory) (p : PanIx) (b : Bundle) (off : BitVec 26) (s : State) :
    answerMem m (execJ p b off s) = s.mem := by
  simp [execJ]
@[simp] theorem execJal_mem (m : Memory) (p : PanIx) (b : Bundle) (rd ra : Reg5) (imm : Half) (s : State) :
    answerMem m (execJal p b rd ra imm s) = s.mem :=
  issueS_mem _ _ _ _ _ _ fun r => modPan_mem r p _
@[simp] theorem execJr_mem (m : Memory) (p : PanIx) (b : Bundle) (rd ra rb : Reg5) (z : BitVec 11) (s : State) :
    answerMem m (execJr p b rd ra rb z s) = s.mem := by
  simp [execJr]
@[simp] theorem execEndb_mem (m : Memory) (p : PanIx) (b : Bundle) (z : BitVec 26) (s : State) :
    answerMem m (execEndb p b z s) = s.mem :=
  issueS_mem _ _ _ _ _ _ fun r => modPan_mem r p _
@[simp] theorem execBrk_mem (m : Memory) (p : PanIx) (b : Bundle) (z : BitVec 26) (s : State) :
    answerMem m (execBrk p b z s) = s.mem := by
  simp [execBrk]

@[simp] theorem execLoadReturn_mem (m : Memory) (p : PanIx) (k : Nat) (s : State) :
    answerMem m (execLoadReturn p k s) = s.mem := by
  simp only [execLoadReturn]
  split <;> simp [apply_ite (answerMem m)]

@[simp] theorem execPanEnded_mem (m : Memory) (p : PanIx) (s : State) : answerMem m (execPanEnded p s) = s.mem := by
  simp [execPanEnded, apply_ite (answerMem m)]
@[simp] theorem execPanPause_mem (m : Memory) (p : PanIx) (pause : Bool) (s : State) :
    answerMem m (execPanPause p pause s) = s.mem :=
  debugWrite_mem _ _ fun r => modPan_mem r p _
@[simp] theorem execPanStep_mem (m : Memory) (p : PanIx) (s : State) : answerMem m (execPanStep p s) = s.mem :=
  debugWrite_mem _ _ fun r => modPan_mem r p _

/-! #### The DRAM controller -/

@[simp] theorem execRefreshTick_mem (m : Memory) (k : StackIx) (s : State) : answerMem m (execRefreshTick k s) = s.mem := by
  simp [execRefreshTick, apply_ite State.mem, accrue_mem]
@[simp] theorem execRefreshIssue_mem (m : Memory) (b : BankIx) (s : State) : answerMem m (execRefreshIssue b s) = s.mem := by
  simp [execRefreshIssue, apply_ite State.mem, beginRefresh_mem]
@[simp] theorem execRefreshComplete_mem (m : Memory) (b : BankIx) (s : State) :
    answerMem m (execRefreshComplete b s) = s.mem := by
  simp [execRefreshComplete, apply_ite State.mem, forcedRefresh_mem]
@[simp] theorem trainBank_mem (s : State) (b : BankIx) : (trainBank s b).mem = s.mem := by
  simp [trainBank, apply_ite State.mem]

@[simp] theorem execTrainingPeriodic_mem (m : Memory) (x : TrainStep) (s : State) :
    answerMem m (execTrainingPeriodic x s) = s.mem := by
  simp only [execTrainingPeriodic]
  split <;> simp [apply_ite State.mem]

@[simp] theorem countFails_mem (s : State) (k : StackIx) (bad : Dword) : (countFails s k bad).mem = s.mem := by
  unfold countFails
  refine foldl_mem (fun r q => ?_) _ s
  dsimp only
  split
  · rfl
  · rw [failPc_mem, modStack_mem]

@[simp] theorem clearFails_mem (s : State) (k : StackIx) (bad : Dword) : (clearFails s k bad).mem = s.mem := by
  exact rfl
@[simp] theorem execTrainingPassEnd_mem (m : Memory) (k : StackIx) (bad : Dword) (s : State) :
    answerMem m (execTrainingPassEnd k bad s) = s.mem := by
  simp [execTrainingPassEnd, apply_ite State.mem]
@[simp] theorem execClockChangeComplete_mem (m : Memory) (k : StackIx) (s : State) :
    answerMem m (execClockChangeComplete k s) = s.mem := by
  simp [execClockChangeComplete, apply_ite State.mem]
@[simp] theorem cancelRun_mem (s : State) (b : BankIx) (run : PondRun) (was : Machine.Unit) :
    (cancelRun s b run was).mem = s.mem := by
  exact rfl

@[simp] theorem reopenWindow_mem (s : State) (g : SegIx) (w : Window) (cut : List Machine.Unit) :
    (reopenWindow s g w cut).mem = s.mem := by
  unfold reopenWindow
  split
  · rfl
  · rw [setWindow_mem]
    exact foldl_mem (fun r b => modUnit_mem r _ _) _ s

@[simp] theorem cancelPayload_mem (s : State) (b : BankIx) (w : Window) (was : List Byte × Bool) :
    (cancelPayload s b w was).mem = s.mem := by
  exact rfl

@[simp] theorem cancelSent_mem (s : State) (c : SentCmd) : (cancelSent s c).mem = s.mem := by
  unfold cancelSent
  split
  · dsimp only
    rw [settleExit_mem, foldl_mem forcedRefresh_mem, reopenWindow_mem]
    split <;> simp
  · simp
  · rfl

@[simp] theorem execParityAlert_mem (m : Memory) (k : StackIx) (q : PcIx) (n : Fin 16) (s : State) :
    answerMem m (execParityAlert k q n s) = s.mem := by
  unfold execParityAlert
  dsimp only
  rw [answerMem_next]
  split
  · rfl
  · rw [apply_ite State.mem, failPc_mem, foldl_mem cancelSent_mem, ite_self, logEvent_mem, modStack_mem]

@[simp] theorem forDies_mem (s : State) {f : State → StackIx → DieIx → State} (hf : ∀ r k d, (f r k d).mem = r.mem) :
    (forDies s f).mem = s.mem :=
  forDies_keeps s State.mem hf

/-! #### Sensors and the governor -/

@[simp] theorem thermalTenant_mem (s : State) (t : TenIx) : (thermalTenant s t).mem = s.mem := by
  simp [thermalTenant, apply_ite State.mem]

@[simp] theorem enterCritical_mem (s : State) : (enterCritical s).mem = s.mem := by
  unfold enterCritical
  exact foldl_mem (fun _ _ => by simp) _ _

@[simp] theorem hotTenant_mem (s : State) (t : TenIx) : (hotTenant s t).mem = s.mem := by
  unfold hotTenant
  dsimp only
  (repeat' split) <;> simp

@[simp] theorem noteWarm_mem (s : State) (t : TenIx) : (noteWarm s t).mem = s.mem := by
  unfold noteWarm
  split <;> rfl

@[simp] theorem hotStep_mem (s : State) (t : TenIx) : (hotStep s t).mem = s.mem := by
  simp [hotStep, apply_ite State.mem]

@[simp] theorem markHot_mem (s : State) : (markHot s).mem = s.mem := by
  unfold markHot
  exact foldl_mem (fun _ _ => by simp) _ _

@[simp] theorem passSamples_mem (s : State) (r : Sweep) : (passSamples s r).mem = s.mem := by
  unfold passSamples
  dsimp only
  split <;> simp [notePoison_mem]

@[simp] theorem governSweep_mem (s : State) (r : Sweep) : (governSweep s r).mem = s.mem := by
  simp [governSweep, apply_ite State.mem]
@[simp] theorem execSensorSweep_mem (m : Memory) (r : Sweep) (s : State) : answerMem m (execSensorSweep r s) = s.mem := by
  simp [execSensorSweep, apply_ite State.mem]
@[simp] theorem requestGear_mem (s : State) (t : TenIx) (g : Gear) : (requestGear s t g).mem = s.mem := by
  exact rfl

theorem stepDown_mem (s : State) {r : State} (h : stepDown s = some r) : r.mem = s.mem := by
  obtain ⟨t, _, ht⟩ := List.exists_of_findSome?_eq_some h
  obtain ⟨_, ht⟩ := Option.ite_none_left_eq_some.1 ht
  obtain ⟨g, _, rfl⟩ := Option.map_eq_some_iff.1 ht
  exact requestGear_mem s t g

theorem stepUp_mem (s : State) {fits : Nat → Bool} {r : State} (h : stepUp s fits = some r) : r.mem = s.mem := by
  obtain ⟨t, _, ht⟩ := List.exists_of_findSome?_eq_some h
  obtain ⟨_, ht⟩ := Option.ite_none_left_eq_some.1 ht
  split at ht
  · next g _ =>
    obtain ⟨_, ht⟩ := Option.ite_none_right_eq_some.1 ht
    obtain rfl := Option.some.inj ht
    exact requestGear_mem s t g
  · cases ht

theorem moveClock_mem (s : State) {down : Bool} {r : State} (h : moveClock s down = some r) : r.mem = s.mem := by
  obtain ⟨t, _, ht⟩ := List.exists_of_findSome?_eq_some h
  obtain ⟨_, ht⟩ := Option.ite_none_left_eq_some.1 ht
  obtain rfl := Option.some.inj ht
  refine foldl_mem (fun r u => ?_) _ s
  split
  · split <;> simp
  · rfl

@[simp] theorem deepen_mem (s : State) : (deepen s).mem = s.mem := by
  unfold deepen
  split <;> rfl

@[simp] theorem relax_mem (s : State) : (relax s).mem = s.mem := by
  exact rfl

@[simp] theorem overCap_mem (s : State) : (overCap s).mem = s.mem := by
  unfold overCap
  split
  · next r h => exact stepDown_mem s h
  · split
    · rfl
    · split
      · next r h => exact moveClock_mem s h
      · simp

@[simp] theorem setLow_mem (s : State) (a b : Nat) : (setLow s a b).mem = s.mem := by
  exact rfl

@[simp] theorem underCap_mem (s : State) (fits : Nat → Bool) : (underCap s fits).mem = s.mem := by
  unfold underCap
  dsimp only
  split
  · simp
  · split
    · next r h =>
      rw [setLow_mem]
      exact stepUp_mem s (by simpa using (Option.ite_none_right_eq_some.1 h).2)
    · next r _ h =>
      rw [setLow_mem]
      exact moveClock_mem s (Option.ite_none_right_eq_some.1 h).2
    · simp

@[simp] theorem endCritical_mem (s : State) : (endCritical s).mem = s.mem := by
  unfold endCritical
  exact foldl_mem (fun _ _ => by simp) _ _

@[simp] theorem coolWindow_mem (s : State) : (coolWindow s).mem = s.mem := by
  simp [coolWindow, apply_ite State.mem]
@[simp] theorem hotWindow_mem (s : State) (t : TenIx) : (hotWindow s t).mem = s.mem := by
  simp [hotWindow, apply_ite State.mem]
@[simp] theorem takePower_mem (s : State) : (takePower s).mem = s.mem := by
  simp [takePower, apply_ite State.mem]
@[simp] theorem execGovernorWindow_mem (m : Memory) (s0 : State) : answerMem m (execGovernorWindow s0) = s0.mem := by
  simp [execGovernorWindow, apply_ite State.mem]
@[simp] theorem execGovSetCap_mem (m : Memory) (slot : MbxIx) (s : State) : answerMem m (execGovSetCap slot s) = s.mem := by
  simp [execGovSetCap, apply_ite State.mem]
@[simp] theorem setCalendar_mem (s : State) (sec frac : Nat) : (setCalendar s sec frac).mem = s.mem := by
  exact rfl
@[simp] theorem execCalSet_mem (m : Memory) (slot : MbxIx) (s : State) : answerMem m (execCalSet slot s) = s.mem := by
  simp [execCalSet, apply_ite State.mem]
@[simp] theorem execCalHoldLoss_mem (m : Memory) (s : State) : answerMem m (execCalHoldLoss s) = s.mem := by
  simp [execCalHoldLoss]

/-! #### Resets and bring-up -/

@[simp] theorem holdLeds_mem (s : State) : (holdLeds s).mem = s.mem := by
  exact rfl
@[simp] theorem noteSource_mem (s : State) (code rank : Nat) : (noteSource s code rank).mem = s.mem := by
  exact rfl
@[simp] theorem releaseSource_mem (s : State) (code : Nat) : (releaseSource s code).mem = s.mem := by
  exact rfl
@[simp] theorem dropRails_mem (s : State) : (dropRails s).mem = s.mem := by
  exact rfl
@[simp] theorem rampAgain_mem (s : State) : (rampAgain s).mem = s.mem := by
  exact rfl
@[simp] theorem execInput48vGood_mem (m : Memory) (s : State) : answerMem m (execInput48vGood s) = s.mem := by
  simp [execInput48vGood]
@[simp] theorem execRstNRelease_mem (m : Memory) (s : State) : answerMem m (execRstNRelease s) = s.mem := by
  simp [execRstNRelease]
@[simp] theorem execWdogKick_mem (m : Memory) (s : State) : answerMem m (execWdogKick s) = s.mem := by
  simp [execWdogKick, apply_ite (answerMem m)]
@[simp] theorem execPerstDeassert_mem (m : Memory) (s : State) : answerMem m (execPerstDeassert s) = s.mem := by
  simp [execPerstDeassert]

@[simp] theorem rstCtrl_mem (s : State) (confirm : Half) (r : Reach) : (rstCtrl s confirm r).mem = s.mem := by
  unfold rstCtrl
  split <;> rfl

@[simp] theorem execRstCtrlCore_mem (m : Memory) (confirm : Half) (s : State) :
    answerMem m (execRstCtrlCore confirm s) = s.mem := by
  simp [execRstCtrlCore]
@[simp] theorem execRstCtrlSystem_mem (m : Memory) (confirm : Half) (s : State) :
    answerMem m (execRstCtrlSystem confirm s) = s.mem := by
  simp [execRstCtrlSystem]
@[simp] theorem execResetSourceTimeout_mem (m : Memory) (source : Fin 8) (s : State) :
    answerMem m (execResetSourceTimeout source s) = s.mem := by
  simp [execResetSourceTimeout, apply_ite (answerMem m)]

@[simp] theorem debugOperation_mem (s : State) (bad : Bool) : (debugOperation s bad).mem = s.mem := by
  unfold debugOperation
  split
  · rfl
  · split <;> simp [notePoison_mem]

@[simp] theorem abortTest_mem (s : State) : (abortTest s).mem = s.mem := by
  unfold abortTest
  split <;> simp

@[simp] theorem announce_mem (s : State) : (announce s).mem = s.mem := by
  simp [announce]

@[simp] theorem logHeldCopies_mem (s : State) : (logHeldCopies s).mem = s.mem := by
  unfold logHeldCopies
  exact foldl_keeps State.mem _ (by intros; rfl) _ _

@[simp] theorem releaseCore_mem (s : State) : (releaseCore s).mem = s.mem := by
  simp [releaseCore, apply_ite State.mem]
@[simp] theorem releaseSystem_mem (s : State) : (releaseSystem s).mem = s.mem := by
  simp [releaseSystem, apply_ite State.mem]
@[simp] theorem judgeCalendar_mem (s : State) : (judgeCalendar s).mem = s.mem := by
  simp [judgeCalendar, apply_ite State.mem]
@[simp] theorem releasePowerOn_mem (s : State) : (releasePowerOn s).mem = s.mem := by
  simp [releasePowerOn, apply_ite State.mem]

@[simp] theorem execResetRelease_mem (m : Memory) (r : Reach) (s : State) : answerMem m (execResetRelease r s) = s.mem := by
  simp only [execResetRelease]
  split <;> simp

@[simp] theorem execClkTimeout_mem (m : Memory) (domain : Fin 60) (s : State) :
    answerMem m (execClkTimeout domain s) = s.mem := by
  simp [execClkTimeout, apply_ite (answerMem m)]
/-- The parts that an option block sets. -/
theorem withOptions_mem (s : State) (gov : GovSt) (host : HostSt) (log : LogSt) (plc : PlcSt) (mir : MirSt)
    (svc : SvcSt) (rst : RstSt) :
    { s with gov := gov, host := host, log := log, plc := plc, mir := mir, svc := svc, rst := rst }.mem = s.mem := by
  exact rfl

@[simp] theorem applyOptions_mem (s : State) (o : OptBlock) : (applyOptions s o).mem = s.mem := by
  unfold applyOptions
  exact (withOptions_mem ..).trans (foldl_mem (fun r k => modStack_mem r k _) _ s)

@[simp] theorem applyRecord_mem (s : State) (r : List RetireEntry) : (applyRecord s r).mem = s.mem := by
  unfold applyRecord
  refine foldl_mem (fun q e => ?_) r _
  split
  · split <;> rfl
  · rfl

@[simp] theorem afterOptions_mem (s : State) : (afterOptions s).mem = s.mem := by
  exact rfl
@[simp] theorem execOptionLoadDone_mem (m : Memory) (b0 b1 : List Byte) (q0 q1 : CopyRead (List RetireEntry))
    (s : State) : answerMem m (execOptionLoadDone b0 b1 q0 q1 s) = s.mem := by
  simp [execOptionLoadDone, apply_ite (answerMem m), apply_ite State.mem]
@[simp] theorem execRailsGood_mem (m : Memory) (s : State) : answerMem m (execRailsGood s) = s.mem := by
  simp [execRailsGood, apply_ite (answerMem m)]
@[simp] theorem execPllLocked_mem (m : Memory) (s : State) : answerMem m (execPllLocked s) = s.mem := by
  simp [execPllLocked, apply_ite (answerMem m)]
@[simp] theorem failSpare_mem (s : State) (st : StackIx) (d : DieIx) (j : Nat) : (failSpare s st d j).mem = s.mem := by
  simp [failSpare, apply_ite State.mem]

@[simp] theorem failUnit_mem (s : State) (st : StackIx) (d : DieIx) (b : Fin 264) : (failUnit s st d b).mem = s.mem := by
  unfold failUnit
  split <;> simp

@[simp] theorem failPan_mem (s : State) (p : PanIx) (bank : List Byte) : (failPan s p bank).mem = s.mem := by
  simp [failPan]
@[simp] theorem failQuad_mem (s : State) (q : QuadIx) (bank : List Byte) : (failQuad s q bank).mem = s.mem := by
  exact rfl
@[simp] theorem execSelftestDone_mem (m : Memory) (pans : List (PanIx × Fin 64)) (quads : List (QuadIx × Fin 64))
    (units : List (StackIx × DieIx × Fin 264)) (s : State) : answerMem m (execSelftestDone pans quads units s) = s.mem := by
  simp [execSelftestDone, apply_ite (answerMem m)]

@[simp] theorem trainStacks_mem (s : State) (bad : List (StackIx × PcIx)) : (trainStacks s bad).mem = s.mem := by
  simp only [trainStacks]
  rw [foldl_mem fun r b => failPc_mem _ _ _ _]
  rw [foldl_mem (fun r k => (modStack_mem _ k _).trans (leaveSelfRefresh_mem r k)), rewriteSpares_mem]

@[simp] theorem execDramTrained_mem (m : Memory) (bad : List (StackIx × PcIx)) (s : State) :
    answerMem m (execDramTrained bad s) = s.mem := by
  simp [execDramTrained, apply_ite (answerMem m)]
@[simp] theorem execFwCopyDone_mem (m : Memory) (x y : CopyRead (List Byte)) (s : State) :
    answerMem m (execFwCopyDone x y s) = s.mem := by
  simp [execFwCopyDone, apply_ite (answerMem m), apply_ite State.mem]

@[simp] theorem abortMailbox_mem (s : State) : (abortMailbox s).mem = s.mem := by
  unfold abortMailbox
  exact foldl_mem (fun _ _ => by split <;> simp) _ _

@[simp] theorem readCage_mem (s : State) (n : PortIx) : (readCage s n).mem = s.mem := by
  exact rfl
@[simp] theorem restorePins_mem (s : State) : (restorePins s).mem = s.mem := by
  simp [restorePins, apply_ite State.mem]
@[simp] theorem execRilefReady_mem (m : Memory) (s : State) : answerMem m (execRilefReady s) = s.mem := by
  simp [execRilefReady, apply_ite (answerMem m)]
@[simp] theorem execConfigRequest_mem (m : Memory) (off : BitVec 12) (s : State) :
    answerMem m (execConfigRequest off s) = s.mem := by
  simp [execConfigRequest, apply_ite (answerMem m)]
@[simp] theorem execModulePresenceChange_mem (m : Memory) (port : PortIx) (present ready fault over30 : Bool)
    (s : State) : answerMem m (execModulePresenceChange port present ready fault over30 s) = s.mem := by
  simp [execModulePresenceChange, apply_ite State.mem]

/-! #### Registers of BAR0 -/

@[simp] theorem plain_mem (s : State) (v : Dword) : regMem s.mem (plain s v) = s.mem := by
  simp [plain]

@[simp] theorem pick_mem (s : State) (rs : List Dword) (o : Nat) : regMem s.mem (pick s rs o) = s.mem := by
  unfold pick
  cases rs[o / 8]? <;> rfl

@[simp] theorem readQerr_mem (s : State) (n : Nat) : (readQerr s n).2.mem = s.mem := by
  exact rfl
@[simp] theorem readSvcCount_mem (s : State) : (readSvcCount s).2.mem = s.mem := by
  exact rfl
@[simp] theorem readChal_mem (s : State) : (readChal s).2.mem = s.mem := by
  exact rfl

@[simp] theorem readIdentity_mem (s : State) (o : Nat) : regMem s.mem (readIdentity s o) = s.mem := by
  simp only [readIdentity]
  (repeat' split) <;> simp

@[simp] theorem lockDebug_mem (s : State) : (lockDebug s).mem = s.mem := by
  exact rfl
@[simp] theorem openDebug_mem (s : State) (triyx : Bool) : (openDebug s triyx).mem = s.mem := by
  exact rfl
@[simp] theorem writeUnlock_mem (s : State) (confirm : Half) (lock : Bool) (resp : Word) :
    (writeUnlock s confirm lock resp).mem = s.mem := by
  simp [writeUnlock, apply_ite State.mem]

@[simp] theorem writeMsix_mem (s : State) (n : Nat) (v : Dword) : (writeMsix s n v).mem = s.mem := by
  unfold writeMsix
  split <;> simp [apply_ite State.mem]

@[simp] theorem after_mem (s : State) (a : Answer) : (after s a).mem = answerMem s.mem a := by
  cases a <;> rfl
@[simp] theorem writeQctl_mem (s : State) (v : Dword) : (writeQctl s v).mem = s.mem := by
  simp [writeQctl, apply_ite State.mem]

@[simp] theorem writeIdentity_mem (s : State) (o : Nat) (v : Dword) : (writeIdentity s o v).mem = s.mem := by
  unfold writeIdentity
  (repeat' split) <;> simp

@[simp] theorem readMailbox_mem (s : State) (o : Nat) : regMem s.mem (readMailbox s o) = s.mem := by
  simp only [readMailbox]
  (repeat' split) <;> simp

@[simp] theorem writeMailbox_mem (s : State) (o : Nat) (v : Dword) : (writeMailbox s o v).mem = s.mem := by
  unfold writeMailbox
  split <;> simp [apply_ite State.mem]

@[simp] theorem readLane_mem (s : State) (n : LaneIx) (k : Nat) : regMem s.mem (readLane s n k) = s.mem := by
  simp only [readLane]
  split <;> simp

@[simp] theorem readIngest_mem (s : State) (o : Nat) : regMem s.mem (readIngest s o) = s.mem := by
  simp only [readIngest]
  (repeat' split) <;> simp

@[simp] theorem writeIngest_mem (s : State) (o : Nat) (v : Dword) : (writeIngest s o v).mem = s.mem := by
  unfold writeIngest
  (repeat' split) <;> simp

@[simp] theorem readRing_mem (s : State) (r : Machine.Ring) (k : Nat) : regMem s.mem (readRing s r k) = s.mem := by
  simp only [readRing]
  split <;> simp

@[simp] theorem readRings_mem (s : State) (o : Nat) : regMem s.mem (readRings s o) = s.mem := by
  simp only [readRings]
  (repeat' split) <;> simp

@[simp] theorem writeRings_mem (s : State) (o : Nat) (v : Dword) : (writeRings s o v).mem = s.mem := by
  unfold writeRings
  (repeat' split) <;> simp

@[simp] theorem readSync_mem (s : State) (o : Nat) : regMem s.mem (readSync s o) = s.mem := by
  simp only [readSync]
  (repeat' split) <;> simp

@[simp] theorem writeTlyHand_mem (s : State) (v : Dword) : (writeTlyHand s v).mem = s.mem := by
  unfold writeTlyHand
  split <;> simp

@[simp] theorem writeGateHand_mem (s : State) (v : Dword) : (writeGateHand s v).mem = s.mem := by
  unfold writeGateHand
  split <;> simp

@[simp] theorem writeSync_mem (s : State) (o : Nat) (v : Dword) : (writeSync s o v).mem = s.mem := by
  unfold writeSync
  split <;> simp [apply_ite State.mem]

@[simp] theorem readReset_mem (s : State) (o : Nat) : regMem s.mem (readReset s o) = s.mem := by
  simp only [readReset]
  (repeat' split) <;> simp

@[simp] theorem writeRstCtrl_mem (s : State) (v : Dword) : (writeRstCtrl s v).mem = s.mem := by
  unfold writeRstCtrl
  split <;> simp

@[simp] theorem writeReset_mem (s : State) (o : Nat) (v : Dword) : (writeReset s o v).mem = s.mem := by
  unfold writeReset
  split <;> simp

@[simp] theorem readSensors_mem (s : State) (o : Nat) : regMem s.mem (readSensors s o) = s.mem := by
  simp only [readSensors]
  (repeat' split) <;> simp

@[simp] theorem readGovernor_mem (s : State) (o : Nat) : regMem s.mem (readGovernor s o) = s.mem := by
  simp only [readGovernor]
  (repeat' split) <;> simp

@[simp] theorem readLogs_mem (s : State) (o : Nat) : regMem s.mem (readLogs s o) = s.mem := by
  simp only [readLogs]
  (repeat' split) <;> simp

@[simp] theorem writeLogs_mem (s : State) (o : Nat) (v : Dword) : (writeLogs s o v).mem = s.mem := by
  unfold writeLogs
  split <;> simp [apply_ite State.mem]

@[simp] theorem readPort_mem (s : State) (p : PortIx) (k : Nat) : regMem s.mem (readPort s p k) = s.mem := by
  simp only [readPort]
  split <;> simp

@[simp] theorem readNet_mem (s : State) (o : Nat) : regMem s.mem (readNet s o) = s.mem := by
  simp only [readNet]
  (repeat' split) <;> simp

@[simp] theorem writeNet_mem (s : State) (o : Nat) (v : Dword) : (writeNet s o v).mem = s.mem := by
  unfold writeNet
  split <;> rfl

@[simp] theorem readTenant_mem (s : State) (x : Tenant) (k : Nat) : regMem s.mem (readTenant s x k) = s.mem := by
  simp only [readTenant]
  split <;> simp

@[simp] theorem readDesc_mem (s : State) (t k : Nat) : regMem s.mem (readDesc s t k) = s.mem := by
  simp only [readDesc]
  split <;> simp

@[simp] theorem readPlacer_mem (s : State) (o : Nat) : regMem s.mem (readPlacer s o) = s.mem := by
  simp only [readPlacer]
  split <;> simp [apply_ite (regMem s.mem)]

@[simp] theorem readPan_mem (s : State) (p : PanIx) (k : Nat) : regMem s.mem (readPan s p k) = s.mem := by
  simp only [readPan]
  (repeat' split) <;> simp

@[simp] theorem writePan_mem (s : State) (p : PanIx) (k : Nat) (v : Dword) : (writePan s p k v).mem = s.mem := by
  simp [writePan, apply_ite State.mem]

@[simp] theorem readSch_mem (s : State) (n : SchIx) (k : Nat) : regMem s.mem (readSch s n k) = s.mem := by
  simp only [readSch]
  split <;> simp

@[simp] theorem writeSch_mem (s : State) (n : SchIx) (k : Nat) (v : Dword) : (writeSch s n k v).mem = s.mem := by
  simp [writeSch, apply_ite State.mem]

@[simp] theorem readPond_mem (s : State) (st : StackIx) (k : Nat) : regMem s.mem (readPond s st k) = s.mem := by
  simp only [readPond]
  (repeat' split) <;> simp

@[simp] theorem readDmc_mem (s : State) (st : StackIx) (k : Nat) : regMem s.mem (readDmc s st k) = s.mem := by
  simp only [readDmc]
  split <;> simp

@[simp] theorem writeDmc_mem (s : State) (st : StackIx) (k : Nat) (v : Dword) : (writeDmc s st k v).mem = s.mem := by
  unfold writeDmc
  split <;> rfl

@[simp] theorem writeInj_mem (s : State) (o : Nat) (v : Dword) : (writeInj s o v).mem = s.mem := by
  unfold writeInj
  split <;> rfl

@[simp] theorem readDebug_mem (s : State) (o : Nat) : regMem s.mem (readDebug s o) = s.mem := by
  simp only [readDebug]
  (repeat' split) <;> simp

@[simp] theorem writeDebug_mem (s : State) (o : Nat) (v : Dword) : (writeDebug s o v).mem = s.mem := by
  unfold writeDebug
  (repeat' split) <;> simp

@[simp] theorem readBlock_mem (s : State) (o : Nat) : regMem s.mem (readBlock s o) = s.mem := by
  simp only [readBlock]
  split <;> simp [apply_ite (regMem s.mem)]

@[simp] theorem writeBlock_mem (s : State) (o : Nat) (v : Dword) : (writeBlock s o v).mem = s.mem := by
  unfold writeBlock
  split <;> simp [apply_ite State.mem]

@[simp] theorem bar0Read_mem (s : State) (o : Nat) : (bar0Read s o).2.mem = s.mem := by
  have h := readBlock_mem s (regOffset o)
  unfold bar0Read
  cases hread : readBlock s (regOffset o) with
  | none => rfl
  | some q => simpa [hread] using h

@[simp] theorem execBar0Write_mem (m : Memory) (off : BitVec 26) (v : Dword) (s : State) :
    answerMem m (execBar0Write off v s) = s.mem := by
  simp [execBar0Write, apply_ite (answerMem m)]

/-! #### The service port -/

@[simp] theorem idnt_mem (s : State) : (idnt s).mem = s.mem := by
  simp [idnt]
@[simp] theorem replyRegs_mem (s : State) (os : List Nat) : (replyRegs s os).mem = s.mem := by
  simp [replyRegs, readRegs]
@[simp] theorem rcau_mem (s : State) : (rcau s).mem = s.mem := by
  simp [rcau]
@[simp] theorem calr_mem (s : State) : (calr s).mem = s.mem := by
  simp [calr]
@[simp] theorem optr_mem (s : State) : (optr s).mem = s.mem := by
  simp [optr]
@[simp] theorem rreg_mem (off : Nat) (s : State) : (rreg off s).mem = s.mem := by
  simp [rreg, apply_ite State.mem]

@[simp] theorem logr_mem (ev : Bool) (first count : Nat) (s : State) : (logr ev first count s).mem = s.mem := by
  unfold logr
  extract_lets size r
  split
  · rw [replyErr_mem]
  · rw [replyLines_mem]
    refine foldl_snd_mem (fun r i => ?_) (List.range count) ([], s)
    exact readLogEntry_mem ..

@[simp] theorem logc_mem (ev : Bool) (head : Half) (s : State) : (logc ev head s).mem = s.mem := by
  simp [logc, apply_ite State.mem]
@[simp] theorem retr_mem (first count : Nat) (s : State) : (retr first count s).mem = s.mem := by
  simp [retr, apply_ite State.mem]

@[simp] theorem startTest_mem (u : TestUnit) (s : State) : (startTest u s).mem = s.mem := by
  unfold startTest
  (repeat' split) <;> simp

@[simp] theorem failTest_mem (s : State) (u : TestUnit) (ls : List (List Dword)) : (failTest s u ls).mem = s.mem := by
  cases u <;> simp [failTest]

@[simp] theorem passTest_mem (s : State) (u : TestUnit) : (passTest s u).mem = s.mem := by
  unfold passTest
  split <;> simp [apply_ite State.mem]

@[simp] theorem endTest_mem (s : State) (u : TestUnit) : (endTest s u).mem = s.mem := by
  unfold endTest
  split <;> rfl

@[simp] theorem rset_mem (r : Reach) (confirm : Half) (s : State) : (rset r confirm s).mem = s.mem := by
  simp [rset, apply_ite State.mem]
@[simp] theorem dump_mem (s : State) : (dump s).mem = s.mem := by
  exact rfl

@[simp] theorem hset_mem (op : HsetOp) (confirm : Half) (s : State) : (hset op confirm s).mem = s.mem := by
  unfold hset
  split <;> simp [apply_ite State.mem]

@[simp] theorem cals_mem (sec frac : Nat) (s : State) : (cals sec frac s).mem = s.mem := by
  simp [cals, apply_ite State.mem]
@[simp] theorem baud_mem (rate : Nat) (s : State) : (baud rate s).mem = s.mem := by
  simp [baud, apply_ite State.mem]
@[simp] theorem authNonce_mem (s : State) : (authNonce s).mem = s.mem := by
  simp [authNonce]
@[simp] theorem auts_mem (signature : List Word) (pubkey : List Byte) (s : State) :
    (auts signature pubkey s).mem = s.mem := by
  simp [auts, apply_ite State.mem]
@[simp] theorem execAuthTimeout_mem (m : Memory) (s : State) : answerMem m (execAuthTimeout s) = s.mem := by
  simp [execAuthTimeout, apply_ite State.mem]
@[simp] theorem authorised_mem (s : State) (act : State → State) (hact : ∀ r, (act r).mem = r.mem) :
    (authorised s act).mem = s.mem := by
  simp [hact, authorised, apply_ite State.mem]

@[simp] theorem optw_mem (off size v : Nat) (s : State) : (optw off size v s).mem = s.mem := by
  unfold optw
  split <;> simp [apply_ite State.mem]

@[simp] theorem retc_mem (entry : Nat) (s : State) : (retc entry s).mem = s.mem := by
  simp [retc, apply_ite State.mem]
@[simp] theorem dbun_mem (open_ : Bool) (s : State) : (dbun open_ s).mem = s.mem := by
  simp [dbun, apply_ite State.mem]
@[simp] theorem verbAct_mem (v : Verb) (s : State) : (verbAct v s).mem = s.mem := by
  cases v <;> simp [verbAct]

@[simp] theorem runLine_mem (s : State) (l : TriyxLine) : (runLine s l).mem = s.mem := by
  cases l with
  | command seq v =>
    rw [runLine]
    split
    · dsimp only
      split <;> simp
    · simp
  | broken cs => simp [runLine, apply_ite State.mem]

@[simp] theorem arriveLine_mem (s : State) (l : TriyxLine) (bad : Option Nat) : (arriveLine s l bad).mem = s.mem := by
  unfold arriveLine
  dsimp only
  split
  · rfl
  · split
    · simp
    · split
      · split <;> simp [notePoison_mem]
      · simp

@[simp] theorem triyx_mem (s : State) (seq : Half) (v : Verb) : (triyx s seq v).mem = s.mem := by
  simp [triyx]

@[simp] theorem nextLine_mem (s : State) : (nextLine s).mem = s.mem := by
  unfold nextLine
  dsimp only
  split <;> simp [apply_ite State.mem]

@[simp] theorem execIdnt_mem (m : Memory) (seq : Half) (s : State) : answerMem m (execIdnt seq s) = s.mem := by
  simp [execIdnt]
@[simp] theorem execSens_mem (m : Memory) (seq : Half) (s : State) : answerMem m (execSens seq s) = s.mem := by
  simp [execSens]
@[simp] theorem execTest_mem (m : Memory) (seq : Half) (u : TestUnit) (s : State) :
    answerMem m (execTest seq u s) = s.mem := by
  simp [execTest]
@[simp] theorem execLogr_mem (m : Memory) (seq : Half) (ev : Bool) (first count : Nat) (s : State) :
    answerMem m (execLogr seq ev first count s) = s.mem := by
  simp [execLogr]
@[simp] theorem execLogc_mem (m : Memory) (seq : Half) (ev : Bool) (head : Half) (s : State) :
    answerMem m (execLogc seq ev head s) = s.mem := by
  simp [execLogc]
@[simp] theorem execRcau_mem (m : Memory) (seq : Half) (s : State) : answerMem m (execRcau seq s) = s.mem := by
  simp [execRcau]
@[simp] theorem execRsetC_mem (m : Memory) (seq confirm : Half) (s : State) :
    answerMem m (execRsetC seq confirm s) = s.mem := by
  simp [execRsetC]
@[simp] theorem execRsetS_mem (m : Memory) (seq confirm : Half) (s : State) :
    answerMem m (execRsetS seq confirm s) = s.mem := by
  simp [execRsetS]
@[simp] theorem execRsetP_mem (m : Memory) (seq confirm : Half) (s : State) :
    answerMem m (execRsetP seq confirm s) = s.mem := by
  simp [execRsetP]
@[simp] theorem execDump_mem (m : Memory) (seq : Half) (s : State) : answerMem m (execDump seq s) = s.mem := by
  simp [execDump]
@[simp] theorem execHsetTlySet_mem (m : Memory) (seq : Half) (t v : Nat) (confirm : Half) (s : State) :
    answerMem m (execHsetTlySet seq t v confirm s) = s.mem := by
  simp [execHsetTlySet]
@[simp] theorem execHsetTlySig_mem (m : Memory) (seq : Half) (t v : Nat) (confirm : Half) (s : State) :
    answerMem m (execHsetTlySig seq t v confirm s) = s.mem := by
  simp [execHsetTlySig]
@[simp] theorem execHsetGateRel_mem (m : Memory) (seq : Half) (g : Nat) (confirm : Half) (s : State) :
    answerMem m (execHsetGateRel seq g confirm s) = s.mem := by
  simp [execHsetGateRel]
@[simp] theorem execHsetGateRst_mem (m : Memory) (seq : Half) (g : Nat) (confirm : Half) (s : State) :
    answerMem m (execHsetGateRst seq g confirm s) = s.mem := by
  simp [execHsetGateRst]
@[simp] theorem execCalr_mem (m : Memory) (seq : Half) (s : State) : answerMem m (execCalr seq s) = s.mem := by
  simp [execCalr]
@[simp] theorem execCals_mem (m : Memory) (seq : Half) (sec frac : Nat) (s : State) :
    answerMem m (execCals seq sec frac s) = s.mem := by
  simp [execCals]
@[simp] theorem execOptr_mem (m : Memory) (seq : Half) (s : State) : answerMem m (execOptr seq s) = s.mem := by
  simp [execOptr]
@[simp] theorem execRreg_mem (m : Memory) (seq : Half) (off : Nat) (s : State) :
    answerMem m (execRreg seq off s) = s.mem := by
  simp [execRreg]
@[simp] theorem execBaud_mem (m : Memory) (seq : Half) (rate : Nat) (s : State) :
    answerMem m (execBaud seq rate s) = s.mem := by
  simp [execBaud]
@[simp] theorem execAuth_mem (m : Memory) (seq : Half) (s : State) : answerMem m (execAuth seq s) = s.mem := by
  simp [execAuth]
@[simp] theorem execAuts_mem (m : Memory) (seq : Half) (signature : List Word) (pubkey : List Byte) (s : State) :
    answerMem m (execAuts seq signature pubkey s) = s.mem := by
  simp [execAuts]
@[simp] theorem execOptw_mem (m : Memory) (seq : Half) (off size v : Nat) (s : State) :
    answerMem m (execOptw seq off size v s) = s.mem := by
  simp [execOptw]
@[simp] theorem execRetr_mem (m : Memory) (seq : Half) (first count : Nat) (s : State) :
    answerMem m (execRetr seq first count s) = s.mem := by
  simp [execRetr]
@[simp] theorem execRetc_mem (m : Memory) (seq : Half) (entry : Nat) (s : State) :
    answerMem m (execRetc seq entry s) = s.mem := by
  simp [execRetc]
@[simp] theorem execDbunOpen_mem (m : Memory) (seq : Half) (s : State) : answerMem m (execDbunOpen seq s) = s.mem := by
  simp [execDbunOpen]
@[simp] theorem execDbunLock_mem (m : Memory) (seq : Half) (s : State) : answerMem m (execDbunLock seq s) = s.mem := by
  simp [execDbunLock]
@[simp] theorem execUnknownVerb_mem (m : Memory) (seq : Half) (s : State) : answerMem m (execUnknownVerb seq s) = s.mem := by
  simp [execUnknownVerb]

@[simp] theorem execBadLine_mem (m : Memory) (fault : LineFault) (s : State) :
    answerMem m (execBadLine fault s) = s.mem := by
  simp only [execBadLine]
  split <;> simp

@[simp] theorem execDbgChalRead_mem (m : Memory) (s : State) : answerMem m (execDbgChalRead s) = s.mem := by
  simp [execDbgChalRead]
@[simp] theorem execDbgUnlock_mem (m : Memory) (confirm : Half) (resp : Word) (s : State) :
    answerMem m (execDbgUnlock confirm resp s) = s.mem := by
  simp [execDbgUnlock]
@[simp] theorem execDbgLock_mem (m : Memory) (confirm : Half) (s : State) : answerMem m (execDbgLock confirm s) = s.mem := by
  simp [execDbgLock]
@[simp] theorem setJtag_mem (s : State) (n : BitVec 2) : (setJtag s n).mem = s.mem := by
  exact rfl
@[simp] theorem execBypass_mem (m : Memory) (s : State) : answerMem m (execBypass s) = s.mem := by
  simp [execBypass]
@[simp] theorem execIdcode_mem (m : Memory) (s : State) : answerMem m (execIdcode s) = s.mem := by
  simp [execIdcode]
@[simp] theorem execSamplePreload_mem (m : Memory) (s : State) : answerMem m (execSamplePreload s) = s.mem := by
  simp [execSamplePreload]
@[simp] theorem execExtest_mem (m : Memory) (s : State) : answerMem m (execExtest s) = s.mem := by
  simp [execExtest]
@[simp] theorem spdm_mem (s : State) (code : Byte) (data : List Byte) : (spdm s code data).mem = s.mem := by
  exact rfl
@[simp] theorem spdmError_mem (s : State) (why : Byte) : (spdmError s why).mem = s.mem := by
  exact rfl
@[simp] theorem spdmReady_mem (s : State) (act : State → State) (hact : ∀ r, (act r).mem = r.mem) :
    (spdmReady s act).mem = s.mem := by
  simp [hact, spdmReady, apply_ite State.mem]
@[simp] theorem execGetVersion_mem (m : Memory) (s : State) : answerMem m (execGetVersion s) = s.mem := by
  simp [execGetVersion]
@[simp] theorem execGetCapabilities_mem (m : Memory) (s : State) : answerMem m (execGetCapabilities s) = s.mem := by
  simp [execGetCapabilities, apply_ite State.mem]
@[simp] theorem execNegotiateAlgorithms_mem (m : Memory) (asym hash : Word) (s : State) :
    answerMem m (execNegotiateAlgorithms asym hash s) = s.mem := by
  simp [execNegotiateAlgorithms, apply_ite State.mem]
@[simp] theorem execGetDigests_mem (m : Memory) (s : State) : answerMem m (execGetDigests s) = s.mem := by
  simp [execGetDigests]
@[simp] theorem execGetCertificate_mem (m : Memory) (slot : BitVec 4) (off len : Half) (s : State) :
    answerMem m (execGetCertificate slot off len s) = s.mem := by
  simp [execGetCertificate, apply_ite State.mem]
@[simp] theorem execChallenge_mem (m : Memory) (slot : BitVec 4) (nonce : List Byte) (s : State) :
    answerMem m (execChallenge slot nonce s) = s.mem := by
  simp [execChallenge, apply_ite State.mem]

@[simp] theorem execGetMeasurements_mem (m : Memory) (index : Byte) (nonce : List Byte) (s : State) :
    answerMem m (execGetMeasurements index nonce s) = s.mem := by
  refine spdmReady_mem _ _ fun r => ?_
  split <;> simp

/-! #### Ticks -/

@[simp] theorem releaseFlow_mem (s : State) : (releaseFlow s).mem = s.mem := by
  unfold releaseFlow
  exact foldl_mem (fun _ _ => by split <;> simp) _ _

/-! ### What writes memory keeps its form -/

/-- The memory is in its canonical form. -/
def MemForm (s : State) : Prop := Memory.wf s.mem = true

theorem memForm_of_mem {s t : State} (e : t.mem = s.mem) (h : MemForm s) : MemForm t := by
  rw [MemForm, e]
  exact h

theorem foldl_memForm {α : Type} {f : State → α → State} (hf : ∀ r a, MemForm r → MemForm (f r a)) (l : List α)
    {s : State} (h : MemForm s) : MemForm (l.foldl f s) := foldl_inv MemForm f hf l s h

/-- A fold that carries its state within something else. -/
theorem foldl_memForm_of {σ α : Type} (st : σ → State) {f : σ → α → σ}
    (hf : ∀ r a, MemForm (st r) → MemForm (st (f r a))) (l : List α) {q : σ} (h : MemForm (st q)) :
    MemForm (st (l.foldl f q)) := by
  induction l generalizing q with
  | nil => exact h
  | cons a l ih => exact ih (hf q a h)

/-! #### Words and bytes -/

section Words

variable {s : State}

/-- Words stored one behind the other. -/
theorem storedRun_wf (ws : List Stored) (q : Memory × Nat) (h : Memory.wf q.1 = true) :
    Memory.wf (ws.foldl (fun (r : Memory × Nat) w => (writeStored r.1 r.2 w, r.2 + 1)) q).1 = true := by
  induction ws generalizing q with
  | nil => exact h
  | cons w ws ih => exact ih _ (writeStored_wf _ _ _ h)

theorem storeColumn_form (h : MemForm s) (x : UnitAt) (l : Nat) (ws : List Stored) : MemForm (storeColumn s x l ws) :=
  storedRun_wf ws _ h

theorem writeWord_form (h : MemForm s) (k : Nat) (d : Dword) : MemForm (writeWord s k d) := writeWord_wf s k d h

theorem writeWords_form (h : MemForm s) (k : Nat) (ds : List Dword) : MemForm (writeWords s k ds) := writeWords_wf s k ds h

theorem injectRange_form (h : MemForm s) (k n : Nat) : MemForm (injectRange s k n) := by
  unfold injectRange
  split
  · refine foldl_memForm (fun r i hr => ?_) _ h
    split
    · exact writeStored_wf _ _ _ hr
    · exact hr
  · exact h

theorem putBytes_form (h : MemForm s) (loc : Nat) (bs : List Byte) (t : Option TenIx) : MemForm (putBytes s loc bs t).1 := by
  unfold putBytes
  refine foldl_memForm_of Prod.fst (fun r i hr => ?_) _ h
  dsimp only
  split
  · exact hr
  · exact writePart_wf _ _ _ _ _ hr

theorem putAt_form (h : MemForm s) (v : RegView) (off : Nat) (bs : List Byte) : MemForm (putAt s v off bs).1 := by
  unfold putAt
  split
  · exact h
  · split
    · dsimp only
      split
      · exact h
      · exact h
    · exact putBytes_form h _ bs none

theorem putRegion_form (h : MemForm s) (v : RegView) (off : Nat) (bs : List Byte) : MemForm (putRegion s v off bs).1 := by
  unfold putRegion
  dsimp only
  split
  · split
    · exact putAt_form h v off _
    · exact putAt_form (putAt_form h v off _) v _ _
  · exact putAt_form h v off bs

end Words

/-! #### Columns, write queues and places -/

section Columns

variable {s : State}

theorem putColumn_form (h : MemForm s) (x : UnitAt) (l : Nat) (bs : List Byte) (bad : Bool) : MemForm (putColumn s x l bs bad) :=
  storeColumn_form h x l _

theorem drainEntry_form (h : MemForm s) (k : StackIx) (pc : PcIx) (e : WqEntry) : MemForm (drainEntry s k pc e) :=
  memForm_of_mem (drainEntry_mem ..) (storeColumn_form h _ _ _)

theorem drainBank_form (h : MemForm s) (b : BankIx) : MemForm (drainBank s b) :=
  foldl_memForm (fun _ e hr => drainEntry_form hr _ _ e) _ h

theorem prepareBanks_form (h : MemForm s) (bs : List BankIx) : MemForm (prepareBanks s bs) :=
  foldl_memForm (fun _ b hr => memForm_of_mem (closeRow_mem _ b) (drainBank_form hr b)) bs h

theorem drainStack_form (h : MemForm s) (k : StackIx) : MemForm (drainStack s k) :=
  foldl_memForm (fun _ _ hr => foldl_memForm (fun _ e hq => drainEntry_form hq _ _ e) _ hr) _ h

theorem quietStack_form (h : MemForm s) (k : StackIx) : MemForm (quietStack s k) := by
  refine memForm_of_mem (modStack_mem ..) ?_
  exact memForm_of_mem (foldl_mem closeRow_mem _ _) (drainStack_form h k)

theorem enterSelfRefresh_form (h : MemForm s) (k : StackIx) (keep0 keep1 : Dword) :
    MemForm (enterSelfRefresh s k keep0 keep1) :=
  memForm_of_mem (modStack_mem ..) (quietStack_form h k)

theorem makeRoom_form (h : MemForm s) (b : BankIx) : MemForm (makeRoom s b) := by
  unfold makeRoom
  split
  · exact h
  · split
    · exact drainEntry_form h _ _ _
    · exact h

theorem putColumnVia_form (h : MemForm s) (src : ReqSource) (hint : PageHint) (u : Nat) (ws : List Stored) :
    MemForm (putColumnVia s src hint u ws) := by
  unfold putColumnVia
  dsimp only
  split
  · exact storedRun_wf ws _ h
  · split
    · exact memForm_of_mem (modStack_mem ..) h
    · exact memForm_of_mem (queueColumn_mem ..) (makeRoom_form h _)

theorem serveAt_form (h : MemForm s) (k : StackIx) (n : Nat) (q : Queued) : MemForm (serveAt s k n q) := by
  unfold serveAt
  split
  · split
    · exact drainEntry_form h _ _ _
    · exact memForm_of_mem (modStack_mem ..) h
  · exact memForm_of_mem ((serveRead_mem ..).trans (modStack_mem ..)) h

theorem serveSlot_form (h : MemForm s) (x : Tenant) (region seg : Nat) : MemForm (serveSlot s x region seg) := by
  unfold serveSlot
  split
  · exact h
  · dsimp only
    split
    · exact serveAt_form h _ _ _
    · exact h

theorem bindMove_form (h : MemForm s) (t : TenIx) (m : MoveWhat) : MemForm (bindMove s t m) := by
  cases m with
  | pan a b =>
    refine memForm_of_mem ?_ h
    simp only [bindMove]
    split
    · split
      · rw [refreshSpares_mem, modPan_mem, modPan_mem, modTen_mem]
      · exact modTen_mem ..
    · exact modTen_mem ..
  | bank a b => exact h
  | spare b j => exact memForm_of_mem (mapSpare_mem ..) (prepareBanks_form h [b])

theorem bindMoves_form (h : MemForm s) (t : TenIx) : MemForm (bindMoves s t) := by
  unfold bindMoves
  refine memForm_of_mem (modTen_mem ..) (foldl_memForm (fun _ m hr => bindMove_form hr t _) _ ?_)
  exact memForm_of_mem (foldl_mem (fun _ _ => bindBanks_mem _ _ _) _ _) h

theorem placerBoundary_form (h : MemForm s) (t : TenIx) (grow : List BlockPlace) : MemForm (placerBoundary s t grow) := by
  have hbound : MemForm (retryDegraded (bindMoves (takeTrims (takeBudget s t) t) t)) :=
    memForm_of_mem (retryDegraded_mem ..) (bindMoves_form (memForm_of_mem ((takeTrims_mem ..).trans (takeBudget_mem ..)) h) t)
  unfold placerBoundary
  refine memForm_of_mem (decideGrowth_mem ..) ?_
  split
  · exact hbound
  · exact memForm_of_mem (bindGrowth_mem ..) hbound

end Columns

/-! #### Reads, writes and copies of a channel -/

section Movers

variable {m : Mover}

/-! ##### What reading leaves alone -/

theorem Mover.note_mem (m : Mover) (u : Nat) (merge : Bool) : (m.note u merge).s.mem = m.s.mem := by
  unfold Mover.note
  split
  · rfl
  · dsimp only
    rw [noteUnit_mem]
    split <;> split <;> simp

theorem Mover.mergeRead_mem (m : Mover) (u : Nat) (next : Option Nat) : (m.mergeRead u next).s.mem = m.s.mem := by
  unfold Mover.mergeRead
  split
  · rw [accessedUnit_mem, countMerge_mem]
  · rfl

theorem Mover.readLine_mem (m : Mover) (a : Nat) : (m.readLine a).s.mem = m.s.mem := by
  unfold Mover.readLine
  split
  · rfl
  · dsimp only
    split <;> rfl

theorem Mover.read_mem (m : Mover) (n : Nat) (e : ElemAt) : (m.read n e).1.s.mem = m.s.mem := by
  unfold Mover.read
  split
  · rfl
  · dsimp only
    split
    · split <;> exact m.readLine_mem _
    · split
      · rfl
      · split
        · rfl
        · split <;> exact m.note_mem _ false

theorem readVia_form (h : MemForm m.s) (region : Half) (v : RegView) (base n : Nat) :
    MemForm (readVia m region v base n).1.s := by
  unfold readVia
  refine foldl_memForm_of (fun q : Mover × List Byte => q.1.s) (fun q i hq => ?_) _ h
  dsimp only
  split
  · exact hq
  · exact memForm_of_mem (Mover.read_mem ..) hq

theorem readRecord_form (h : MemForm m.s) (v : RegView) (ps : List Nat) : MemForm (readRecord m v ps).1.s := by
  unfold readRecord
  refine foldl_memForm_of (fun q : Mover × List Byte => q.1.s) (fun q p hq => ?_) ps h
  dsimp only
  exact readVia_form hq _ _ _ _

/-! ##### What a gathered unit stores -/

theorem Mover.flush_form (h : MemForm m.s) (next : Option Nat) : MemForm (m.flush next).s := by
  unfold Mover.flush
  split
  · exact h
  · next u _ =>
    have hread : MemForm (if m.needsRead u then (m.note u true).mergeRead u next else m).s := by
      split
      · exact memForm_of_mem ((Mover.mergeRead_mem ..).trans (m.note_mem u true)) h
      · exact h
    generalize (if m.needsRead u then (m.note u true).mergeRead u next else m) = m1 at hread ⊢
    dsimp only
    split
    · exact hread
    · split
      · exact hread
      · dsimp only
        split
        · exact putColumnVia_form hread _ _ _ _
        · refine foldl_memForm (fun r i hr => ?_) _ hread
          exact writeStored_wf _ _ _ hr

theorem Mover.turn_form (h : MemForm m.s) (u : Nat) : MemForm (m.turn u).s := by
  unfold Mover.turn
  split
  · exact h
  · exact Mover.flush_form h _

theorem Mover.store_form (h : MemForm m.s) (n : Nat) (e : ElemAt) (v count : Nat) : MemForm (m.store n e v count).s := by
  unfold Mover.store
  split
  · exact h
  · next loc _ =>
    dsimp only
    split
    · split
      · exact h
      · dsimp only
        split <;> exact h
    · have hturn := Mover.turn_form h (unitFirst loc)
      split
      · exact hturn
      · split <;> exact hturn

theorem Mover.write_form (h : MemForm m.s) (n : Nat) (e : ElemAt) (v : Nat) : MemForm (m.write n e v).s :=
  Mover.store_form h n e v n

theorem Mover.put_form (h : MemForm m.s) (d : Desc) (e : ElemAt) (x : List Nat) (v : Nat) : MemForm (m.put d e x v).s := by
  have hwrite := Mover.write_form h (fmtBits d.fmt) e v
  unfold Mover.put
  dsimp only
  split
  · refine foldl_memForm_of Mover.s (fun q i hq => ?_) _ hwrite
    split
    · exact hq
    · exact Mover.store_form hq _ _ _ _
  · exact hwrite

theorem writeVia_form (h : MemForm m.s) (region : Half) (v : RegView) (base : Nat) (data : List Byte) :
    MemForm (writeVia m region v base data).s := by
  refine foldl_memForm_of Mover.s (fun q b hq => ?_) _ h
  split
  · exact hq
  · exact Mover.write_form hq _ _ _

theorem writeRecord_form (h : MemForm m.s) (v : RegView) (ps : List Nat) (img : List Byte) :
    MemForm (writeRecord m v ps img).s :=
  foldl_memForm_of Mover.s (fun _ _ hq => writeVia_form hq _ _ _ _) _ h

theorem Mover.finish_form (h : MemForm m.s) : MemForm m.finish.s := by
  unfold Mover.finish
  extract_lets m0 m1
  have hflush : MemForm m0.s := Mover.flush_form h none
  have hforget : MemForm m1.s := by
    refine memForm_of_mem (forgetAsks_mem ..) ?_
    split
    · exact memForm_of_mem (accessedUnit_mem ..) hflush
    · exact hflush
  clear_value m1
  dsimp only
  split
  · exact memForm_of_mem (emit_mem ..) hforget
  · exact hforget

/-! ##### Copies -/

theorem moveElem_form (h : MemForm m.s) (pl : Plane) (v : Visit) : MemForm (moveElem pl m v).s := by
  unfold moveElem
  split
  · exact h
  · extract_lets n r
    have hr : MemForm r.1.s := by
      simp only [r]
      split
      · exact h
      · exact memForm_of_mem (Mover.read_mem ..) h
    clear_value r
    split
    · exact hr
    · exact Mover.put_form hr _ _ _ _

theorem moveVisit_form (h : MemForm m.s) (pl : Plane) (v : Visit) : MemForm (moveVisit pl m v).s := by
  unfold moveVisit
  split
  · exact h
  · split
    · refine moveElem_form ?_ pl v
      split
      · exact Mover.turn_form h _
      · exact h
    · exact moveElem_form h pl v

theorem movePlane_form (h : MemForm m.s) (pl : Plane) : MemForm (movePlane pl m).s :=
  foldl_memForm_of Mover.s (fun _ v hq => moveVisit_form hq pl v) _ h

theorem swapCells_form (h : MemForm m.s) (pl : Plane) (cells : List (Nat × Nat)) : MemForm (swapCells pl m cells).s := by
  unfold swapCells
  extract_lets n off rd
  have hread : MemForm rd.1.s := by
    refine foldl_memForm_of (fun q : Mover × List Nat => q.1.s) (fun q c hq => ?_) cells h
    dsimp only
    split
    · exact hq
    · exact memForm_of_mem (Mover.read_mem ..) hq
  clear_value rd
  split
  · exact hread
  · refine foldl_memForm_of Mover.s (fun q c hq => ?_) _ hread
    split
    · exact hq
    · exact Mover.write_form hq _ _ _

theorem swapPlane_form (h : MemForm m.s) (pl : Plane) (n : Nat) : MemForm (swapPlane pl n m).s := by
  refine foldl_memForm_of Mover.s (fun q ab hq => ?_) _ h
  split
  · exact hq
  · exact swapCells_form hq pl _

theorem moveEntry_form (pl : Plane) (l : CopyList) (vs : List Visit) (q : Mover × Nat × Nat) (kc : Nat × List Int)
    (h : MemForm q.1.s) : MemForm (moveEntry pl l vs q kc).1.s := by
  unfold moveEntry
  split
  · exact h
  · extract_lets n out q1
    have hq1 : MemForm q1.1.s := by
      simp only [q1]
      split <;> exact h
    clear_value q1
    refine foldl_memForm_of (fun q : Mover × Nat × Nat => q.1.s) (fun r v hr => ?_) _ hq1
    split
    · exact hr
    · extract_lets b rd1 rd2 old v'
      have hrd1 : MemForm rd1.1.s := by
        simp only [rd1]
        split
        · exact hr
        · exact memForm_of_mem (Mover.read_mem ..) hr
      have hrd2 : MemForm rd2.1.s := by
        simp only [rd2]
        split
        · exact hr
        · exact memForm_of_mem (Mover.read_mem ..) hr
      clear_value rd1 rd2
      have hold : MemForm old.1.s := by
        simp only [old]
        split
        · exact memForm_of_mem (Mover.read_mem ..) hrd2
        · exact hrd2
      clear_value old
      split
      · split
        · exact hrd1
        · exact Mover.put_form hrd1 _ _ _ _
      · split
        · exact hr
        · split
          · exact hr
          · split
            · exact hrd2
            · split
              · exact hold
              · refine foldl_memForm_of Mover.s (fun w rep hw => ?_) _ hold
                split
                · exact hw
                · exact Mover.put_form hw _ _ _ _

theorem moveList_form (h : MemForm m.s) (pl : Plane) (l : CopyList) : MemForm (moveList pl l m).1.s :=
  foldl_memForm_of (fun q : Mover × Nat × Nat => q.1.s) (fun q kc hq => moveEntry_form pl l _ q kc hq) _ h

theorem runCopy_form (h : MemForm m.s) (sys : Bool) (l : Fin 32) (j : CopyJob) : MemForm (runCopy sys l j m).1.s := by
  unfold runCopy
  split
  · exact h
  · split
    · extract_lets pl r
      have hr : MemForm r.1.s := by
        simp only [r]
        split
        · exact moveList_form h _ _
        · split
          · exact swapPlane_form h _ _
          · exact movePlane_form h _
      clear_value r
      split
      · split
        · exact Mover.finish_form hr
        · split
          · refine Mover.finish_form ?_
            split
            · exact moveList_form (Mover.flush_form hr _) _ _
            · exact movePlane_form (Mover.flush_form hr _) _
          · exact Mover.finish_form hr
      · exact Mover.finish_form hr
    · exact h

end Movers

/-- An answer's state has its memory in canonical form. -/
def AnswerForm (a : Answer) : Prop := ∀ t, a = .next t → MemForm t

theorem answerForm_next {t : State} (h : MemForm t) : AnswerForm (.next t) := by
  rintro u ⟨⟩
  exact h

theorem answerForm_of_mem {a : Answer} {s : State} (e : ∀ m, answerMem m a = s.mem) (h : MemForm s) : AnswerForm a := by
  rintro t rfl
  exact memForm_of_mem (e []) h

theorem runMailbox_form {s : State} (h : MemForm s) {n : MbxIx} {op : Nat} {act : List Byte → State → State}
    (hact : ∀ a, MemForm (act a s)) : AnswerForm (runMailbox s n op act) := by
  unfold runMailbox
  split
  · exact answerForm_next (hact _)
  · exact answerForm_next h

/-- A transfer that ends leaves its memory in canonical form. -/
def ResultForm (r : Except Mover State) : Prop := ∀ t, r = .ok t → MemForm t

theorem resultForm_ok {t : State} (h : MemForm t) : ResultForm (.ok t) := by
  rintro u ⟨⟩
  exact h

theorem resultForm_error (m : Mover) : ResultForm (.error m) := by
  rintro u ⟨⟩

/-- A transfer that has to wait leaves the card as it was, but for what it asks for. -/
theorem orWait_form {s : State} (h : MemForm s) {r : Except Mover State} (hr : ResultForm r) : MemForm (orWait s r) := by
  cases r with
  | ok t => exact hr t rfl
  | error m => exact memForm_of_mem (Mover.wait_mem ..) h

/-! #### Core calls and the tick -/

section Tick

variable {s : State}

theorem coreLoad_form (h : MemForm s) (core : Fin 4) (addr : Nat) (flipD : Dword) (flipC : Half) :
    MemForm (coreLoad s core addr flipD flipC) := by
  unfold coreLoad
  extract_lets k s0 d s1 s2
  have h1 : MemForm s1 := memForm_of_mem (noteWord_mem ..) (writeStored_wf _ _ _ h)
  have h2 : MemForm s2 := memForm_of_mem (logEvent_mem ..) h1
  clear_value s1 s2
  split
  · exact h2
  · exact h1

theorem coreCall_form (h : MemForm s) (c : CoreCall) : MemForm (coreCall s c) := by
  unfold coreCall
  split
  · exact h
  · split
    · split <;> exact h
    · split <;> exact h
    · split
      · exact h
      · exact coreLoad_form h _ _ _ _
    · split
      · exact h
      · exact writeWord_form h _ _
    · exact memForm_of_mem (coreTally_mem ..) h
    · exact memForm_of_mem (coreGate_mem ..) h

/-! ##### Packets (R372 to R379) -/

theorem placePacket_form (h : MemForm s) (n : PortIx) (m : RxMsg) (data : List Byte) {done : State → State}
    (hdone : ∀ r, MemForm r → MemForm (done r)) : ResultForm (placePacket s n m data done) := by
  unfold placePacket
  split
  · exact resultForm_ok (hdone s h)
  · extract_lets w s1 s2
    have hw : MemForm w.s := Mover.finish_form (writeVia_form h _ _ _ _)
    have h1 : MemForm s1 := memForm_of_mem ((countSch_mem ..).trans (modPort_mem ..)) hw
    clear_value s1
    have h2 : MemForm s2 := by
      simp only [s2]
      split
      · exact memForm_of_mem (sendMirrored_mem ..) h1
      · exact h1
    clear_value s2
    split
    · exact resultForm_error w
    · split
      · exact resultForm_ok (hdone s2 h2)
      · exact resultForm_ok (memForm_of_mem (haltSch_mem ..) h2)

theorem nextPacket_form (h : MemForm s) (n : PortIx) : MemForm (nextPacket s n).1 := by
  unfold nextPacket
  split
  · exact h
  · next m _ =>
    have htake := memForm_of_mem (takeFrame_mem s n m.qp) h
    split
    · exact h
    · split
      · exact memForm_of_mem (setMsg_mem ..) htake
      · split
        · have hset := memForm_of_mem (setMsg_mem _ n (m.drop false)) htake
          dsimp only
          split
          · exact memForm_of_mem (refuseSequence_mem ..) hset
          · exact hset
        · dsimp only
          split
          · exact memForm_of_mem (Mover.wait_mem ..) h
          · next r hr =>
            have hplaced := placePacket_form htake n m _ (fun x hx => memForm_of_mem (packetDone_mem x n m _) hx) r hr
            split
            · exact memForm_of_mem (setMsg_mem ..) hplaced
            · exact hplaced

theorem takePackets_form (k : Nat) (h : MemForm s) (n : PortIx) : MemForm (takePackets k s n) := by
  induction k generalizing s with
  | zero => exact h
  | succ k ih =>
    rw [takePackets]
    split
    · exact ih (nextPacket_form h n)
    · exact nextPacket_form h n

theorem portTurn_form (h : MemForm s) (n : PortIx) : MemForm (portTurn s n) :=
  memForm_of_mem (serveFront_mem ..) (takePackets_form _ (memForm_of_mem (serveFront_mem ..) h) n)

theorem crossTick_form (h : MemForm s) (r : TickReq) : MemForm (crossTick s r) := by
  have hqueues : MemForm (drainAllNotices (syncQueues (r.upsets.foldl queueUpset s))) :=
    memForm_of_mem ((drainAllNotices_mem _).trans ((syncQueues_mem _).trans (foldl_mem queueUpset_mem _ _))) h
  have hports := foldl_memForm (fun q n hq => portTurn_form hq n) (List.finRange 2) hqueues
  have hlines := memForm_of_mem ((nextLine_mem _).trans (releaseFlow_mem _)) hports
  unfold crossTick
  extract_lets s1 s2
  have h2 : MemForm s2 := hlines
  clear_value s2
  split
  · exact h2
  · exact h2

theorem execSyncStoreTick_form (h : MemForm s) (r : TickReq) : AnswerForm (execSyncStoreTick r s) := by
  have hcalls := foldl_memForm (fun q c hq => coreCall_form hq c) r.calls h
  unfold execSyncStoreTick
  extract_lets s1 s2 s3 s4
  have h1 : MemForm s1 := memForm_of_mem (endOfTick_mem _) hcalls
  have h2 : MemForm s2 := memForm_of_mem ((applyStep1_mem _).trans (passTicks_mem _ 1)) h1
  clear_value s2
  have h4 : MemForm s4 := memForm_of_mem ((passTicks_mem _ _).trans (endOfTick_mem _)) h2
  clear_value s4
  split
  · exact answerForm_next (crossTick_form (memForm_of_mem (closeWindows_mem _) h2) r)
  · exact answerForm_next (crossTick_form (memForm_of_mem ((closeWindows_mem _).trans (expireWaiters_mem _ _)) h4) r)

end Tick

section Arrivals

variable {s : State}

/-! ##### Messages (R376 to R378) -/

theorem takeWriteMessage_form (h : MemForm s) (n : PortIx) (q : Fin 64) (psn : BitVec 24) (key : Word) (imm : Bool) (off : Dword)
    (data : List Byte) : MemForm (takeWriteMessage s n q psn key imm off data) := by
  have htake := memForm_of_mem (takeFrame_mem s n q) h
  have hset := fun m => memForm_of_mem (setMsg_mem _ n m) htake
  unfold takeWriteMessage
  split
  · exact h
  · extract_lets k m refuse
    split
    · exact portTurn_form (hset _) n
    · split
      · exact portTurn_form (memForm_of_mem (refuseSequence_mem ..) (hset _)) n
      · split
        · exact portTurn_form (memForm_of_mem (refuseMessage_mem ..) (hset _)) n
        · exact portTurn_form (memForm_of_mem (setMsg_mem ..) h) n

theorem takeOne_form (h : MemForm s) (n : PortIx) (q : Fin 64) (psn : BitVec 24) {act : State → Except Mover State}
    (hact : ∀ r, MemForm r → ResultForm (act r)) : MemForm (takeOne s n q psn act) := by
  have htake := memForm_of_mem (takeFrame_mem s n q) h
  unfold takeOne
  split
  · exact h
  · dsimp only
    split
    · exact memForm_of_mem (serveFront_mem ..) htake
    · split
      · exact memForm_of_mem ((serveFront_mem ..).trans (refuseSequence_mem ..)) htake
      · split
        · exact memForm_of_mem (Mover.wait_mem ..) h
        · next r hr => exact memForm_of_mem (serveFront_mem ..) (hact _ htake r hr)

theorem execRdmaRead_form (h : MemForm s) (n : PortIx) (q : Fin 64) (psn : BitVec 24) (key : Word) (off : Dword) (len : Word) :
    AnswerForm (execRdmaRead n q psn key off len s) := by
  unfold execRdmaRead
  refine answerForm_next ?_
  split
  · exact h
  · refine takeOne_form h n q psn fun r1 h1 => ?_
    split
    · exact resultForm_ok (memForm_of_mem (refuseMessage_mem ..) h1)
    · extract_lets r k base
      have hr : MemForm r := memForm_of_mem (modQp_mem ..) h1
      clear_value r
      split
      · exact resultForm_ok hr
      · extract_lets rd r2
        have h2 : MemForm r2 := Mover.finish_form (readVia_form hr _ _ _ _)
        clear_value r2
        split
        · exact resultForm_error _
        · split
          · exact resultForm_ok (memForm_of_mem (haltSch_mem ..) h2)
          · split
            · exact resultForm_ok (memForm_of_mem (answerFrame_mem ..) h2)
            · split
              · exact resultForm_error _
              · exact resultForm_ok (memForm_of_mem ((transmit_mem ..).trans ((modPort_mem ..).trans (countSch_mem ..))) h2)

theorem execRdmaOtherOpcode_form (h : MemForm s) (n : PortIx) (q : Fin 64) (psn : BitVec 24) (opcode : Byte) :
    AnswerForm (execRdmaOtherOpcode n q psn opcode s) :=
  answerForm_next (takeOne_form h n q psn fun _ hr => resultForm_ok (memForm_of_mem (answerFrame_mem ..) hr))

end Arrivals

/-! #### Copies of pans and system channels -/

section Copies

variable {s : State}

theorem execStoreWritten_form (h : MemForm s) (p : PanIx) : AnswerForm (execStoreWritten p s) := by
  unfold execStoreWritten
  split
  · exact answerForm_next h
  · exact answerForm_next (memForm_of_mem (modPan_mem ..) (writeWords_form h _ _))

theorem execCopyStart_form (h : MemForm s) (p : PanIx) : AnswerForm (execCopyStart p s) := by
  unfold execCopyStart
  extract_lets x l
  split
  · split
    · exact answerForm_next h
    · split
      extract_lets s1 quad m swap s2 s3
      have h1 : MemForm s1 := memForm_of_mem ((noteWords_mem ..).trans (modPan_mem ..)) h
      clear_value s1
      have hcopy : MemForm m.s := runCopy_form h1 false _ _
      clear_value m
      have h2 : MemForm s2 := memForm_of_mem (modPan_mem ..) hcopy
      have h3 : MemForm s3 := memForm_of_mem (modPan_mem ..) h2
      clear_value s2 s3
      split
      · exact answerForm_next (memForm_of_mem ((haltChan_mem ..).trans (usedFree_mem ..)) h1)
      · split
        · exact answerForm_next (memForm_of_mem ((haltRefused_mem ..).trans ((markRefused_mem ..).trans (modPan_mem ..))) h1)
        · split
          · exact answerForm_next (memForm_of_mem (Mover.wait_mem ..) h)
          · split
            · exact answerForm_next (memForm_of_mem ((haltChan_mem ..).trans (sendMirrored_mem ..)) h3)
            · exact answerForm_next h2
  · exact answerForm_next h

theorem execSysRequestStart_form (h : MemForm s) (n : SchIx) : AnswerForm (execSysRequestStart n s) := by
  unfold execSysRequestStart
  extract_lets c
  split
  · next r rest _ _ =>
    split
    · exact answerForm_next h
    · extract_lets s1 rd s2 s2' q s3 s4
      have h1 : MemForm s1 := memForm_of_mem ((queueTake_mem ..).trans (modSch_mem ..)) h
      clear_value s1
      have h2 : MemForm s2' := by
        have hnoted := memForm_of_mem (noteUnits_mem s1 0x40 rd.units r.tenant) h1
        simp only [s2', s2]
        split
        · exact memForm_of_mem ((usedFree_mem ..).trans (readLines_mem ..)) hnoted
        · exact hnoted
      clear_value s2'
      have hcopy : MemForm q.1.s := runCopy_form h2 true _ _
      clear_value q
      have h4 : MemForm s4 := memForm_of_mem ((modSch_mem ..).trans (countList_mem ..)) hcopy
      clear_value s4
      split
      · exact answerForm_next (memForm_of_mem ((endRequest_mem ..).trans (notePoison_mem ..)) h1)
      · split
        · exact answerForm_next (memForm_of_mem (askUnits_mem ..) h)
        · split
          · exact answerForm_next (memForm_of_mem ((endRequest_mem ..).trans (logEvent_mem ..)) h2)
          · split
            · exact answerForm_next (memForm_of_mem ((haltSch_mem ..).trans (usedFree_mem ..)) h2)
            · split
              · extract_lets s5
                have h5 : MemForm s5 := by
                  simp only [s5]
                  split
                  · exact memForm_of_mem (markRefused_mem ..) h2
                  · exact h2
                exact answerForm_next (memForm_of_mem ((endRequest_mem ..).trans (logEvent_mem ..)) h5)
              · split
                · exact answerForm_next (memForm_of_mem (Mover.wait_mem ..) h)
                · split
                  · exact answerForm_next (memForm_of_mem ((haltSch_mem ..).trans (sendWritten_mem ..)) h4)
                  · split
                    · exact answerForm_next (memForm_of_mem ((endRequest_mem ..).trans (logEvent_mem ..)) h4)
                    · exact answerForm_next (memForm_of_mem (endRequest_mem ..) h4)
  · exact answerForm_next h

end Copies

/-! #### Lanes, stages and snapshots -/

section Ingest

variable {s : State}

theorem stageBytes_form (h : MemForm s) (lane : LaneIx) (i : Nat) (bs : List Byte) : MemForm (stageBytes s lane i bs) := by
  have hput : ∀ r j xs, MemForm r →
      MemForm (if xs.isEmpty then r else (putBytes r (stagingLoc (stageOff lane j)) xs none).1) := by
    intro r j xs hr
    split
    · exact hr
    · exact putBytes_form hr _ _ _
  exact hput _ _ _ (hput _ _ _ h)

theorem execIngestWrite_form (h : MemForm s) (lane : LaneIx) (off : BitVec 26) (data : List Byte) :
    AnswerForm (execIngestWrite lane off data s) := by
  unfold execIngestWrite
  extract_lets l limit given kept
  split
  · exact answerForm_next (memForm_of_mem (modLane_mem ..) h)
  · split
    · exact answerForm_next h
    · exact answerForm_next (memForm_of_mem (modLane_mem ..) (stageBytes_form h _ _ _))

theorem drainMover_form (h : MemForm s) (lane : LaneIx) (l : Lane) (v : RegView) (n : Nat) :
    MemForm (drainMover s lane l v n).s := by
  refine Mover.finish_form (foldl_memForm_of Mover.s (fun m b hm => ?_) _ h)
  dsimp only
  split
  · exact hm
  · have hread := memForm_of_mem (Mover.read_mem m 8
      { region := 0x8000, view := stagingView, byte := stageOff lane (l.stageAt + b.2), hi := false,
        off := stageOff lane (l.stageAt + b.2) }) hm
    split
    · exact hread
    · exact Mover.write_form hread _ _ _

/-- What a drained lane leaves, where the drain ends. -/
theorem drainLane_form (h : MemForm s) (lane : LaneIx) (n : Nat) (d : State × Bool) (hd : drainLane s lane n = .ok d) :
    MemForm d.1 := by
  unfold drainLane at hd
  extract_lets l took at hd
  have htook : ∀ r lost, (took r lost).mem = r.mem := fun r lost => modLane_mem ..
  clear_value took
  split at hd
  · cases hd
    exact memForm_of_mem (htook s false) h
  · next v _ =>
    extract_lets m s1 s2 at hd
    have hm : MemForm m.s := drainMover_form h lane l v n
    clear_value m
    have h1 : MemForm s1 := memForm_of_mem ((countSch_mem ..).trans (htook m.s m.halt.isSome)) hm
    clear_value s1
    have h2 : MemForm s2 := by
      simp only [s2]
      split
      · exact memForm_of_mem (sendMirrored_mem ..) h1
      · exact h1
    clear_value s2
    split at hd
    · cases hd
    · split at hd
      · cases hd
        exact h2
      · cases hd
        exact memForm_of_mem (haltSch_mem ..) h2

theorem serveBell_form (h : MemForm s) (lane : LaneIx) : MemForm (serveBell s lane) := by
  unfold serveBell
  extract_lets l
  split
  · exact h
  · split
    · split
      · exact h
      · split
        · next d hd => exact drainLane_form h lane _ d hd
        · exact memForm_of_mem (Mover.wait_mem ..) h
    · split
      · exact h
      · split
        · exact memForm_of_mem (Mover.wait_mem ..) h
        · next d hd =>
          extract_lets s0 s1 s2
          have h0 : MemForm s0 := memForm_of_mem (modLane_mem ..) (drainLane_form h lane _ d hd)
          clear_value s0
          have h1 : MemForm s1 := by
            simp only [s1]
            split
            · exact h0
            · exact memForm_of_mem (queueTake_mem ..) h0
          clear_value s1
          split
          · exact memForm_of_mem ((sendSignal_mem ..).trans (modLane_mem ..)) h1
          · exact h1

theorem execIngestDoorbellSignal_form (h : MemForm s) (bell : BellTake) : AnswerForm (execIngestDoorbellSignal bell s) := by
  unfold execIngestDoorbellSignal
  split
  · exact answerForm_next (serveBell_form h _)
  · refine answerForm_next (foldl_memForm (fun r n hr => ?_) _ (memForm_of_mem (notePoison_mem ..) h))
    split
    · exact hr
    · exact serveBell_form hr n

theorem drainAll_form (h : MemForm s) (lane : LaneIx) : MemForm (drainAll s lane) :=
  foldl_memForm (fun _ _ hr => serveBell_form hr lane) _ h

theorem clearPlace_form (h : MemForm s) (pl : Place) : MemForm (clearPlace s pl) := by
  rw [MemForm, clearPlace_mem]
  exact filter_wf _ _ h

theorem execStage_form (h : MemForm s) (slot : MbxIx) (region : Half) (pl : Place) :
    AnswerForm (execStage slot region pl s) := by
  refine runMailbox_form h fun a => ?_
  dsimp only
  split
  · exact memForm_of_mem (endBackground_mem ..) h
  · split
    · exact h
    · refine memForm_of_mem ((endBackground_mem ..).trans (setRegion_mem ..)) ?_
      split
      · exact clearPlace_form h pl
      · exact h

theorem endDump_form (h : MemForm s) (slot : MbxIx) (x : SnapShot) (n : Word) : MemForm (endDump s slot x n) := by
  unfold endDump
  extract_lets a
  split
  · exact memForm_of_mem (endBackground_mem ..) h
  · next v _ =>
    extract_lets r
    have hr : MemForm r.1 := putRegion_form h v _ _
    clear_value r
    split
    · exact memForm_of_mem ((endBackground_mem ..).trans (logEvent_mem ..)) hr
    · exact memForm_of_mem (endBackground_mem ..) hr

theorem execSnapshotComplete_form (h : MemForm s) : AnswerForm (execSnapshotComplete s) := by
  unfold execSnapshotComplete
  split
  · exact answerForm_next h
  · extract_lets n sync s1
    have h1 : MemForm s1 := h
    clear_value s1
    split
    · exact answerForm_next h1
    · exact answerForm_next (endDump_form h1 _ _ _)
    · exact answerForm_next (memForm_of_mem (replyLines_mem ..) h1)

end Ingest

/-! #### Images, fills and records -/

section Loads

variable {s : State}

/-- What an attempt makes, or the card where it makes nothing. -/
theorem option_getD_form {o : Option State} (ho : ∀ t, o = some t → MemForm t) (h : MemForm s) : MemForm (o.getD s) := by
  cases o with
  | none => exact h
  | some t => exact ho t rfl

theorem execUnbindLane_form (h : MemForm s) (slot : MbxIx) : AnswerForm (execUnbindLane slot s) := by
  refine runMailbox_form h fun a => ?_
  dsimp only
  split
  · split
    · exact memForm_of_mem (respond_mem ..) h
    · have hdrain := drainAll_form h ⟨_, ‹_›⟩
      split
      · exact hdrain
      · exact memForm_of_mem ((respond_mem ..).trans (modLane_mem ..)) hdrain
  · exact memForm_of_mem (respond_mem ..) h

theorem fillDram_form (h : MemForm s) : MemForm (fillDram s) := by
  unfold fillDram
  extract_lets s0 log rst s1
  have h0 : MemForm s0 := memForm_of_mem ((foldl_mem (fun r k => modStack_mem r k _) _ _).trans (countFill_mem s)) h
  clear_value s0
  have h1 : MemForm s1 := filter_wf _ _ h0
  clear_value s1
  split
  · exact foldl_memForm (fun r k hr => foldl_memForm (fun q e hq => injectRange_form hq _ _) _ hr) _ h1
  · exact h1

theorem putInits_form (h : MemForm s) (b : Binding) (ins : List InitReq) : MemForm (putInits s b ins).1 := by
  unfold putInits
  refine foldl_memForm_of Prod.fst (fun r i hr => ?_) ins h
  split
  · exact hr
  · extract_lets put
    have hput : ∀ key region, MemForm (put key region).1 := fun key region => putBytes_form hr _ _ _
    clear_value put
    split
    · exact hput _ _
    · split
      · exact hput _ _
      · exact hr

theorem bindImage_form (h : MemForm s) (c : SchIx) (slot : MbxIx) (region : Half) (i : ImageRead) (img : ImageReq)
    (bind : Binding) (table : List SliceEntry) (elig : List Nat) (n : Need) (budget : Nat) (t : State)
    (ht : bindImage s c slot region i img bind table elig n budget = some t) : MemForm t := by
  unfold bindImage at ht
  extract_lets s0 made q owner s1 s2 s3 at ht
  have hmade : ∀ r, (made r).mem = r.mem := fun r => (setTen_mem ..).trans (freshSaved_mem ..)
  clear_value made
  have hq : MemForm q.1 := putInits_form (memForm_of_mem (markSliced_mem ..) h) bind img.inits
  clear_value q
  have h2 : MemForm s2 := memForm_of_mem ((countSch_mem ..).trans ((setTable_mem ..).trans ((barUntilTable_mem ..).trans
    ((ownGates_mem ..).trans ((ownTallies_mem ..).trans ((markSliced_mem ..).trans (hmade q.1))))))) hq
  clear_value s2
  have h3 : MemForm s3 := by
    simp only [s3]
    split
    · exact memForm_of_mem (bindPans_mem ..) h2
    · exact h2
  clear_value s3
  split at ht
  · cases ht
  · split at ht
    · cases ht
      exact memForm_of_mem (haltSch_mem ..) hq
    · cases ht
      exact memForm_of_mem (endBackground_mem ..) h3

theorem execLoadImage_form (h : MemForm s) (slot : MbxIx) (img : ImageReq) (bind : Binding) (table : List SliceEntry) :
    AnswerForm (execLoadImage slot img bind table s) := by
  refine runMailbox_form h fun a => ?_
  extract_lets region
  split
  · exact h
  · exact memForm_of_mem (endBackground_mem ..) h
  · split
    split
    · exact memForm_of_mem (askUnits_mem ..) h
    · extract_lets s0 s0' s1 i
      have h0 : MemForm s0' := by
        have hnoted : MemForm s0 := memForm_of_mem (noteUnits_mem ..) h
        simp only [s0']
        split
        · exact memForm_of_mem ((usedFree_mem ..).trans (readLines_mem ..)) hnoted
        · exact hnoted
      clear_value s0'
      have h1 : MemForm s1 := by
        simp only [s1]
        split
        · exact fillDram_form h0
        · exact h0
      clear_value s1
      have hlogged := fun (e : Byte) d => memForm_of_mem ((endBackground_mem _ slot e []).trans (logEvent_mem s1 e d none)) h1
      have hended := fun (e : Byte) bs => memForm_of_mem (endBackground_mem s1 slot e bs) h1
      split
      · exact hlogged _ _
      · split
        · exact hended _ _
        · split
          · exact hended _ _
          · exact hlogged _ _
          · split
            · exact hended _ _
            · exact option_getD_form (bindImage_form h1 _ _ _ _ _ _ _ _ _ _) h

theorem execHarvestTake_form (h : MemForm s) (t : TenIx) (stream : Byte) : AnswerForm (execHarvestTake t stream s) := by
  unfold execHarvestTake
  extract_lets x g
  split
  · exact answerForm_next h
  · next v _ =>
    split
    · exact answerForm_next h
    · extract_lets rd img m s1
      have hm : MemForm m.s := Mover.finish_form (writeRecord_form (readVia_form h _ _ _ _) _ _ _)
      clear_value m
      have h1 : MemForm s1 := memForm_of_mem (setTally_mem ..) hm
      clear_value s1
      split
      · exact answerForm_next (memForm_of_mem (Mover.wait_mem ..) h)
      · split
        · exact answerForm_next (memForm_of_mem ((haltSch_mem ..).trans (modStream_mem ..)) h1)
        · exact answerForm_next
            (memForm_of_mem ((refreshStoreHi_mem ..).trans ((modStream_mem ..).trans (countSch_mem ..))) h1)

theorem readRecords_form (h : MemForm s) (t : TenIx) (x : Stream) (first n : Nat) : MemForm (readRecords s t x first n).1.s := by
  unfold readRecords
  refine foldl_memForm_of (fun r : Mover × List (Nat × List Byte) => r.1.s) (fun r i hr => ?_) _ h
  dsimp only
  split
  · exact hr
  · exact readRecord_form hr _ _

theorem execHarvestRecordWrite_form (h : MemForm s) (ring : RingIx) (n : Nat) : AnswerForm (execHarvestRecordWrite ring n s) := by
  unfold execHarvestRecordWrite
  extract_lets r x first last rd s1
  have h1 : MemForm s1 := memForm_of_mem (sendRecords_mem ..) (Mover.finish_form (readRecords_form h _ _ _ _))
  clear_value s1
  split
  · exact answerForm_next h
  · split
    · exact answerForm_next (memForm_of_mem (Mover.wait_mem ..) h)
    · split
      · exact answerForm_next (memForm_of_mem (haltSch_mem ..) h1)
      · split
        · exact answerForm_next (memForm_of_mem ((emit_mem ..).trans (modRing_mem ..)) h1)
        · exact answerForm_next (memForm_of_mem (writeFlag_mem ..) h1)

end Loads

/-! #### Pond commands and their effects -/

section Pond

variable {s : State}

theorem rowCommand_form (h : MemForm s) (g : SegIx) (tag : BitVec 4) (a : Arrival) (op : BitVec 6) (c : PondCmd)
    (t : Option TenIx) : MemForm (rowCommand s g tag a op c t) := by
  unfold rowCommand
  extract_lets r
  have hr : MemForm r := prepareBanks_form h _
  clear_value r
  split
  · exact memForm_of_mem (commandWrite_mem ..) hr
  · split <;> exact memForm_of_mem (commandWrite_mem ..) hr
  · exact memForm_of_mem (commandWrite_mem ..) hr

theorem arrive_form (h : MemForm s) (g : SegIx) (tag : BitVec 4) (a : Arrival) (op : BitVec 6) (c : PondCmd)
    (t : Option TenIx) : MemForm (arrive s g tag a op c t) := by
  unfold arrive
  extract_lets w
  split
  · exact h
  · split
    · exact memForm_of_mem (payloadWrite_mem ..) h
    · split
      · exact h
      · exact rowCommand_form h _ _ _ _ _ _

theorem rowWrite_form (h : MemForm s) (g : SegIx) (tag : BitVec 4) (data : List Byte) (t : Option TenIx) :
    MemForm (rowWrite s g tag data t) := by
  unfold rowWrite
  extract_lets w
  split
  · exact memForm_of_mem (payloadWrite_mem ..) h
  · exact arrive_form h _ _ _ _ _ _

theorem ewuColumn_form (x : UnitAt) (t : Option TenIx) (c : PondCmd) (r : State × Bool) (lj : Nat × Nat) (h : MemForm r.1) :
    MemForm (ewuColumn x t c r lj).1 := by
  unfold ewuColumn
  dsimp only
  split
  · exact putColumn_form h _ _ _ _
  · exact putColumn_form (memForm_of_mem (readColumn_mem ..) h) _ _ _ _

theorem ewuEffect_form (h : MemForm s) (x : UnitAt) (t : Option TenIx) (c : PondCmd) : MemForm (ewuEffect s x t c).1 :=
  foldl_memForm_of Prod.fst (fun r lj hr => ewuColumn_form x t c r lj hr) _ h

theorem fillEffect_form (h : MemForm s) (x : UnitAt) (c : PondCmd) : MemForm (fillEffect s x c).1 := by
  unfold fillEffect
  split
  · exact memForm_of_mem (modUnit_mem ..) h
  · exact foldl_memForm (fun r i hr => putColumn_form hr _ _ _ _) _ h

theorem copyrColumn_form (x : UnitAt) (t : Option TenIx) (c : PondCmd) (r : State × Bool) (i : Nat) (h : MemForm r.1) :
    MemForm (copyrColumn x t c r i).1 := by
  have hread := memForm_of_mem (readColumn_mem r.1 x t (c.l0 + i)) h
  unfold copyrColumn
  dsimp only
  split
  · exact storeColumn_form hread _ _ _
  · exact putColumn_form hread _ _ _ _

theorem checkColumn_form (x : UnitAt) (t : Option TenIx) (c : PondCmd) (r : State × Bool) (i : Nat) (h : MemForm r.1) :
    MemForm (checkColumn x t c r i).1 := by
  have hread := memForm_of_mem (readColumn_mem r.1 x t (c.l0 + i)) h
  unfold checkColumn
  dsimp only
  split
  · exact putColumn_form hread _ _ _ _
  · exact hread

theorem pondEffect_form (h : MemForm s) (x : UnitAt) (run : PondRun) : MemForm (pondEffect s x run).1 := by
  unfold pondEffect
  extract_lets c t ue cols
  split
  · split
    · exact memForm_of_mem (foldl_fst_mem (fun r j => ldwColumn_mem x t c r j) _ _) h
    · exact h
  · exact memForm_of_mem (dotEffect_mem ..) h
  · exact memForm_of_mem (modUnit_mem ..) h
  · exact memForm_of_mem (wsumEffect_mem ..) h
  · exact memForm_of_mem (dotEffect_mem ..) h
  · exact ewuEffect_form h x t c
  · exact fillEffect_form h x c
  · exact foldl_memForm_of Prod.fst (copyrColumn_form x t c) cols h
  · exact memForm_of_mem (csendEffect_mem ..) h
  · exact memForm_of_mem (modUnit_mem ..) h
  · exact memForm_of_mem (modUnit_mem ..) h
  · exact foldl_memForm_of Prod.fst (checkColumn_form x t c) cols h
  · exact h

theorem endRun_form (h : MemForm s) (b : BankIx) (run : PondRun) : MemForm (endRun s b run) := by
  unfold endRun
  extract_lets x u r
  have hr : MemForm r.1 := by
    simp only [r]
    split
    · exact pondEffect_form h x run
    · exact h
  clear_value r
  exact memForm_of_mem ((noteWaiting_mem ..).trans (modUnit_mem ..)) hr

theorem execPondCommandEnd_form (h : MemForm s) (b : BankIx) : AnswerForm (execPondCommandEnd b s) := by
  unfold execPondCommandEnd
  refine answerForm_next ?_
  dsimp only
  split
  · exact h
  · split
    · exact memForm_of_mem ((settleExit_mem ..).trans (forcedRefresh_mem ..)) (endRun_form h b _)
    · exact h

theorem rawBank_wf (m : Memory) (k d a b : Nat) (h : Memory.wf m = true) : Memory.wf (rawBank m k d a b) = true :=
  tabCopy_wf 0 _ _ _ _ h

theorem carryBanks_form (h : MemForm s) (r : State) (c : SchIx) (bs : List BankIx) : MemForm (carryBanks s r c bs) := by
  unfold carryBanks
  refine foldl_memForm (fun q b hq => ?_) bs h
  exact rawBank_wf _ _ _ _ _ hq

theorem execSpmapWrite_form (h : MemForm s) (k : StackIx) (d : DieIx) (j : Fin 8) (bank : Byte) (valid : Bool) :
    AnswerForm (execSpmapWrite k d j bank valid s) := by
  unfold execSpmapWrite
  refine answerForm_next ?_
  extract_lets b bs free s1 done
  have h1 : MemForm s1 := prepareBanks_form h _
  clear_value s1
  have hdone : ∀ r, (done r).mem = r.mem := by
    intro r
    refine (foldl_mem (fun q t => ?_) _ _).trans (mapSpare_mem ..)
    split
    · rfl
    · exact modTen_mem ..
  clear_value done
  split
  · exact h
  · split
    · exact h
    · split
      · exact memForm_of_mem (hdone _) h1
      · split
        · exact memForm_of_mem (hdone _) (carryBanks_form h1 _ _ _)
        · exact h

end Pond

/-! #### Command streams and requests -/

section Streams

variable {s : State}

theorem writeCommand_form (h : MemForm s) (t : TenIx) (g : SegIx) (op : BitVec 6) (c : PondCmd) (payload : List Byte) :
    MemForm (writeCommand s t g op c payload) := by
  unfold writeCommand
  extract_lets tag bs s2 s3
  have h2 : MemForm s2 := arrive_form h _ _ _ _ _ _
  clear_value s2
  have h3 : MemForm s3 := by
    simp only [s3]
    split
    · exact foldl_memForm (fun r p hr => rowWrite_form hr _ _ _ _) _ h2
    · exact h2
  clear_value s3
  exact memForm_of_mem (modTen_mem ..) h3

theorem writeTargets_form (h : MemForm s) (t : TenIx) (op : BitVec 6) (c : PondCmd) (payload : List Byte)
    (ts : List (SegIx × Half)) : MemForm (writeTargets s t op c payload ts) := by
  refine foldl_memForm (fun r g hr => ?_) ts h
  dsimp only
  split
  · exact memForm_of_mem (refuseBudget_mem ..) hr
  · exact writeCommand_form hr _ _ _ _ _

theorem writeEntry_form (h : MemForm s) (t : TenIx) (table pos : Nat) (op : BitVec 6) (c : PondCmd) (payload : List Byte)
    (ts : List (SegIx × Half)) : MemForm (writeEntry s t table pos op c payload ts) := by
  unfold writeEntry
  split
  · exact h
  · exact memForm_of_mem (advance_mem ..) (writeTargets_form h _ _ _ _ _)

theorem issueAttention_form (h : MemForm s) (t : TenIx) (table pos : Nat) (op : BitVec 6) (c : PondCmd) (payload : List Byte)
    (r : AttnRef) : MemForm (issueAttention s t table pos op c payload r) := by
  unfold issueAttention
  extract_lets s1 x
  have h1 : MemForm s1 := memForm_of_mem (readAttn_mem ..) h
  clear_value s1
  have hadvance := memForm_of_mem (advance_mem s1 t table (pos + 1)) h1
  split
  · exact hadvance
  · split
    · split
      · exact hadvance
      · exact writeEntry_form h1 _ _ _ _ _ _ _
    · split
      · exact writeEntry_form h1 _ _ _ _ _ _ _
      · exact hadvance

theorem issueCommand_form (h : MemForm s) (t : TenIx) (table pos group m : Nat) (seg : Fin 16) (op : BitVec 6) (c : PondCmd)
    (payload : List Byte) (attn : Option AttnRef) : MemForm (issueCommand s t table pos group m seg op c payload attn) := by
  unfold issueCommand
  split
  · exact issueAttention_form h _ _ _ _ _ _ _
  · exact writeEntry_form h _ _ _ _ _ _ _

theorem readback_form (h : MemForm s) (t : TenIx) (table pos : Nat) (b : BankIx) (win : BitVec 3) (first count sram : Nat) :
    MemForm (readback s t table pos b win first count sram) := by
  unfold readback
  extract_lets u r s0 put s1 s2
  have h0 : MemForm s0 := memForm_of_mem (foldl_mem (fun q c => sendTo_mem q b _) _ _) h
  clear_value s0
  have hput : MemForm put.1 := by
    simp only [put]
    split
    · exact putBytes_form h0 _ _ _
    · exact h0
  have h1 : MemForm s1 := hput
  clear_value s1
  have h2 : MemForm s2 := memForm_of_mem (logEvent_mem ..) h1
  clear_value s2
  split
  · exact memForm_of_mem ((modTen_mem ..).trans (advance_mem ..)) h2
  · exact memForm_of_mem (advance_mem ..) h1

theorem readEntry_form (h : MemForm s) (t : TenIx) (table pos : Nat) (b : BankIx) (win : BitVec 3) (first count sram : Nat) :
    MemForm (readEntry s t table pos b win first count sram) := by
  unfold readEntry
  split
  · exact h
  · split
    · exact memForm_of_mem (askBank_mem ..) h
    · exact readback_form (memForm_of_mem (answered_mem ..) h) _ _ _ _ _ _ _ _

theorem issueReadback_form (h : MemForm s) (t : TenIx) (table pos group m : Nat) (bank : Fin 256) (win : BitVec 3)
    (first count sram : Nat) (part : Option PartialRef) :
    MemForm (issueReadback s t table pos group m bank win first count sram part) := by
  unfold issueReadback
  split
  · split
    · exact readEntry_form h _ _ _ _ _ _ _ _
    · exact memForm_of_mem (advance_mem ..) h
  · next q =>
    extract_lets s1 x
    have h1 : MemForm s1 := memForm_of_mem (readAttn_mem ..) h
    clear_value s1
    have hadvance := memForm_of_mem (advance_mem s1 t table (pos + 1)) h1
    split
    · split
      · exact hadvance
      · exact readEntry_form h1 _ _ _ _ _ _ _ _
    · exact hadvance

theorem execPondStreamIssue_form (h : MemForm s) (t : TenIx) (table : Nat) : AnswerForm (execPondStreamIssue t table s) := by
  unfold execPondStreamIssue
  refine answerForm_next ?_
  extract_lets x
  split
  · exact h
  · split
    · exact h
    · split
      · exact h
      · exact issueCommand_form h _ _ _ _ _ _ _ _ _ _
      · exact issueReadback_form h _ _ _ _ _ _ _ _ _ _ _
      · split
        · split
          · exact memForm_of_mem ((advance_mem ..).trans (statusRead_mem ..)) h
          · exact h
        · exact memForm_of_mem (advance_mem ..) h
      · exact memForm_of_mem (advance_mem ..) (serveSlot_form h x _ _)

theorem execDramRequestServe_form (h : MemForm s) (k : StackIx) (n : Nat) : AnswerForm (execDramRequestServe k n s) := by
  unfold execDramRequestServe
  refine answerForm_next ?_
  split
  · exact h
  · split
    · exact serveAt_form h _ _ _
    · exact h

theorem execClockChangeStart_form (h : MemForm s) (k : StackIx) : AnswerForm (execClockChangeStart k s) := by
  unfold execClockChangeStart
  refine answerForm_next ?_
  dsimp only
  split
  · exact h
  · split
    · exact h
    · exact memForm_of_mem ((leaveSelfRefresh_mem ..).trans (modStack_mem ..)) (quietStack_form h k)

end Streams

/-! #### Self-refresh, rakes and spares -/

section Dram

variable {s : State}

theorem forDies_form {f : State → StackIx → DieIx → State} (hf : ∀ r k d, MemForm r → MemForm (f r k d))
    (h : MemForm s) : MemForm (forDies s f) :=
  foldl_memForm (fun _ k hr => foldl_memForm (fun q d hq => hf q k d hq) _ hr) _ h

theorem fillDropped_form (h : MemForm s) : MemForm (fillDropped s) := by
  unfold fillDropped
  extract_lets s1
  have h1 : MemForm s1 := filter_wf _ _ h
  clear_value s1
  split
  · exact forDies_form (fun r k d hr => foldl_memForm (fun q b hq => injectRange_form hq _ _) _ hr) h1
  · exact h1

theorem exitSelfRefresh_form (h : MemForm s) : MemForm (exitSelfRefresh s) := by
  have hfill := fillDropped_form (memForm_of_mem (rewriteSpares_mem s) h)
  exact memForm_of_mem ((foldl_mem (fun r k => modStack_mem r k _) _ _).trans (countDropped_mem _)) hfill

theorem execSelfRefreshExitDone_form (h : MemForm s) : AnswerForm (execSelfRefreshExitDone s) := by
  unfold execSelfRefreshExitDone
  refine answerForm_next ?_
  split
  · exact h
  · exact memForm_of_mem (foldl_mem (fun r t => (resumeTenant_mem ..).trans (modTen_mem ..)) _ _) (exitSelfRefresh_form h)

theorem rakeWrite_form (h : MemForm s) (k : Nat) (d : Dword) : MemForm (rakeWrite s k d) := by
  unfold rakeWrite
  split
  · exact memForm_of_mem (writeLogWord_mem ..) h
  · exact writeWord_form h k d

theorem rakeRewrite_form (h : MemForm s) (ws : List (Nat × Decoded)) : MemForm (rakeRewrite s ws) :=
  foldl_memForm (fun _ _ hr => rakeWrite_form hr _ _) _ h

theorem inPond_form (h : MemForm s) (k : StackIx) (q : PcIx) {f : State → State} (hf : ∀ r, MemForm r → MemForm (f r)) :
    MemForm (inPond s k q f) := by
  unfold inPond
  split
  · exact hf s h
  · exact memForm_of_mem ((settleExit_mem ..).trans (modStack_mem ..)) (hf _ (memForm_of_mem (enterPond_mem s k q) h))

theorem rakeStep_form (h : MemForm s) (k : Nat) {note : State → List (Nat × Decoded) → State}
    (hnote : ∀ r ws, (note r ws).mem = r.mem) (t : State) (ht : rakeStep s k note = some t) : MemForm t := by
  have hdone : ∀ r ws, (rakeFix (rakeBad (note r ws) ws) ws).mem = r.mem := fun r ws =>
    (rakeFix_mem ..).trans ((rakeBad_mem ..).trans (hnote r ws))
  unfold rakeStep at ht
  split at ht
  · cases ht
  · split at ht
    · extract_lets ws at ht
      split at ht
      · cases ht
        exact h
      · cases ht
        exact memForm_of_mem (hdone _ ws) (rakeRewrite_form h ws)
    · next b _ =>
      split at ht
      · cases ht
      · extract_lets s1 s2 ws c at ht
        have h1 : MemForm s1 := prepareBanks_form h _
        clear_value s1
        have h2 : MemForm s2 := by
          simp only [s2]
          split
          · exact h1
          · exact memForm_of_mem (foldl_mem closeRow_mem _ _) h1
        clear_value s2
        split at ht
        · cases ht
          exact inPond_form h2 _ _ fun r hr => rowCommand_form hr _ _ _ _ _ _
        · cases ht
          exact memForm_of_mem (hdone _ ws) (rakeRewrite_form (memForm_of_mem (scrubUnit_mem ..) h2) ws)

theorem execRakeTargetedRewrite_form (h : MemForm s) : AnswerForm (execRakeTargetedRewrite s) := by
  unfold execRakeTargetedRewrite
  refine answerForm_next ?_
  split
  · exact h
  · split
    · exact h
    · refine option_getD_form (rakeStep_form ?_ _ fun r ws => noteColumn_mem ..) h
      exact h

theorem execRakeSweep_form (h : MemForm s) (k : Nat) (last : Bool) : AnswerForm (execRakeSweep k last s) := by
  have hnote : ∀ (r : State) (ws : List (Nat × Decoded)), (
      let good := ws.filter fun w => w.2.check != .uncorrectable
      if isDram k then noteColumn r 0x71 good none else noteWords r 0x71 good none).mem = r.mem := by
    intro r ws
    dsimp only
    split
    · exact noteColumn_mem ..
    · exact noteWords_mem ..
  unfold execRakeSweep
  refine answerForm_next ?_
  split
  · exact h
  · split
    · exact h
    · next r hr => exact rakeStep_form h k hnote r hr

theorem execSpareFill_form (h : MemForm s) : AnswerForm (execSpareFill s) := by
  unfold execSpareFill
  refine answerForm_next ?_
  split
  · exact h
  · extract_lets log s1
    have h1 : MemForm s1 := filter_wf _ _ h
    clear_value s1
    refine foldl_memForm (fun r k hr => foldl_memForm (fun q d hq => ?_) _ hr) _ h1
    exact memForm_of_mem (fillTrace_mem ..) (foldl_memForm (fun z p hz => injectRange_form hz _ _) _ hq)

end Dram

/-! #### Mirrors and moves -/

section Mirror

variable {s : State}

theorem baselineRegions_form (h : MemForm s) (t : TenIx) : MemForm (baselineRegions s t).s := by
  unfold baselineRegions
  refine Mover.finish_form (foldl_memForm_of Mover.s (fun m g hm => ?_) _ h)
  extract_lets region
  split
  · exact hm
  · split
    · exact hm
    · exact memForm_of_mem (sendMirrored_mem ..) (readVia_form hm _ _ _ _)

theorem sendBaseline_form (h : MemForm s) (t : TenIx) : ResultForm (sendBaseline s t) := by
  unfold sendBaseline
  extract_lets m
  have hm : MemForm m.s := baselineRegions_form h t
  clear_value m
  split
  · exact resultForm_error m
  · split
    · exact resultForm_ok (memForm_of_mem (haltSch_mem ..) hm)
    · exact resultForm_ok hm

theorem resultForm_bind {r : Except Mover State} {f : State → Except Mover State} (hr : ResultForm r)
    (hf : ∀ t, MemForm t → ResultForm (f t)) : ResultForm (r.bind f) := by
  cases r with
  | error m => exact resultForm_error m
  | ok t => exact hf t (hr t rfl)

theorem resultForm_map {r : Except Mover State} {f : State → State} (hr : ResultForm r)
    (hf : ∀ t, MemForm t → MemForm (f t)) : ResultForm (r.map f) := by
  cases r with
  | error m => exact resultForm_error m
  | ok t => exact resultForm_ok (hf t (hr t rfl))

theorem sendBaselines_form (h : MemForm s) (ts : List TenIx) : ResultForm (sendBaselines s ts) := by
  have hall : ∀ (ts : List TenIx) (r : Except Mover State), ResultForm r →
      ResultForm (ts.foldl (fun r t => r.bind fun x => if (schOf x 10).state == .halted then .ok x else sendBaseline x t) r) := by
    intro ts
    induction ts with
    | nil => exact fun r hr => hr
    | cons t ts ih =>
      refine fun r hr => ih _ (resultForm_bind hr fun x hx => ?_)
      split
      · exact resultForm_ok hx
      · exact sendBaseline_form hx t
  unfold sendBaselines
  refine resultForm_map (hall ts _ ?_) fun x hx => ?_
  · split
    · exact resultForm_error _
    · exact resultForm_ok h
  · split
    · exact hx
    · exact memForm_of_mem (foldl_mem sendFirstRecord_mem _ _) hx

theorem execMirPair_form (h : MemForm s) (slot : MbxIx) (partner : List Byte) (interval : Nat) :
    AnswerForm (execMirPair slot partner interval s) := by
  refine runMailbox_form h fun a => ?_
  extract_lets +lift role mask kept s0
  have h0 : MemForm s0 := memForm_of_mem (emit_mem ..) h
  clear_value s0
  split
  · extract_lets s1 s2
    have h1 : MemForm s1 := memForm_of_mem (modMir_mem ..) h0
    clear_value s1
    have h2 : MemForm s2 := memForm_of_mem (foldl_mem (fun r t => modTen_mem r t _) _ _) h1
    clear_value s2
    split
    · exact memForm_of_mem (respond_mem ..) h
    · split
      · exact memForm_of_mem ((respond_mem ..).trans (logEvent_mem ..)) h0
      · split
        · exact memForm_of_mem ((respond_mem ..).trans ((logEvent_mem ..).trans (modMir_mem ..))) h0
        · split
          · split
            · next r hr => exact memForm_of_mem ((respond_mem ..).trans (fence_mem r)) (sendBaselines_form h2 _ r hr)
            · exact memForm_of_mem (Mover.wait_mem ..) h
          · exact memForm_of_mem (respond_mem ..) h2
  · exact memForm_of_mem (respond_mem ..) h

theorem applyWrite_form {m : Mover} (h : MemForm m.s) (w : MirWrite) : MemForm (applyWrite m w).s := by
  unfold applyWrite
  extract_lets ws m1
  have h1 : MemForm m1.s := memForm_of_mem (noteWords_mem ..) h
  clear_value m1
  split
  · exact memForm_of_mem (usedFree_mem ..) h1
  · split
    · split
      · exact writeVia_form h1 _ _ _ _
      · exact h1
    · exact h1

theorem bufferMover_form (h : MemForm s) (t : TenIx) : MemForm (bufferMover s t).s := by
  refine Mover.finish_form (foldl_memForm_of Mover.s (fun m w hm => ?_) _ h)
  split
  · exact hm
  · exact applyWrite_form hm w

theorem applyBuffer_form (h : MemForm s) (t : TenIx) {done : State → State} (hdone : ∀ r, (done r).mem = r.mem) :
    ResultForm (applyBuffer s t done) := by
  unfold applyBuffer
  extract_lets m s1
  have h1 : MemForm s1 := memForm_of_mem (countSch_mem ..) (bufferMover_form h t)
  clear_value s1
  split
  · exact resultForm_error m
  · split
    · exact resultForm_ok (memForm_of_mem (haltSch_mem ..) h1)
    · exact resultForm_ok (memForm_of_mem ((hdone _).trans (modMir_mem ..)) h1)

theorem execMirrorRecordReceive_form (h : MemForm s) (rec_ : List Byte) : AnswerForm (execMirrorRecordReceive rec_ s) := by
  unfold execMirrorRecordReceive
  refine answerForm_next ?_
  split
  · exact h
  · extract_lets s1
    have h1 : MemForm s1 := memForm_of_mem ((modMir_mem ..).trans (countMirror_mem ..)) h
    clear_value s1
    split
    · exact h1
    · refine orWait_form h (applyBuffer_form h1 _ fun r => ?_)
      exact (refreshSync_mem ..).trans ((emit_mem ..).trans ((modTen_mem ..).trans (modMir_mem ..)))

/-! ##### Moves between places -/

theorem copyWords_form (h : MemForm s) (src dst : Nat) (ks : List Nat) (t : TenIx) : MemForm (copyWords s src dst ks t) := by
  refine foldl_memForm (fun r k hr => ?_) ks h
  dsimp only
  split
  · exact writeWord_form (memForm_of_mem (noteWord_mem ..) hr) _ _
  · exact memForm_of_mem (noteWord_mem ..) hr

theorem copySram_form (h : MemForm s) (c : SchIx) (src dst n : Nat) (t : TenIx) : MemForm (copySram s c src dst n t).1 := by
  unfold copySram
  extract_lets ks bad m s1 s2
  have hcopy : MemForm { s with mem := tabCopy s.mem (16 * src) (16 * dst) (16 * m) } := copy_wf _ _ _ _ h
  have h1 : MemForm s1 := copyWords_form (injectRange_form hcopy _ _) _ _ _ _
  clear_value s1
  have h2 : MemForm s2 := memForm_of_mem (countSch_mem ..) h1
  clear_value s2 bad
  split
  · exact memForm_of_mem ((haltSch_mem ..).trans (noteWord_mem ..)) h2
  · exact h2

theorem copyMove_form (h : MemForm s) (c : SchIx) (t : TenIx) (m : MoveWhat) (q : State × Bool)
    (hq : copyMove s c t m = some q) : MemForm q.1 := by
  unfold copyMove at hq
  split at hq
  · cases hq
    exact copySram_form h _ _ _ _ _
  · split at hq
    · cases hq
    · extract_lets s1 src dst at hq
      have h1 : MemForm s1 := prepareBanks_form h _
      cases hq
      exact copy_wf _ _ _ _ h1
  · split at hq
    · cases hq
    · extract_lets s1 at hq
      have h1 : MemForm s1 := prepareBanks_form h _
      cases hq
      exact rawBank_wf _ _ _ _ _ h1

theorem execPlacementMoveComplete_form (h : MemForm s) (t : TenIx) (m : MoveWhat) :
    AnswerForm (execPlacementMoveComplete t m s) := by
  have hmove : ∀ q, ((moveChan s).bind fun c => copyMove s c t m) = some q → MemForm q.1 := by
    intro q hq
    obtain ⟨c, _, hc⟩ := Option.bind_eq_some_iff.mp hq
    exact copyMove_form h c t m q hc
  unfold execPlacementMoveComplete
  refine answerForm_next ?_
  dsimp only
  split
  · exact h
  · split
    · exact h
    · next r hr => exact hmove _ hr
    · next r hr => exact memForm_of_mem (foldl_mem (fun q u => modTen_mem q u _) _ _) (hmove _ hr)

theorem execBoundaryTick_form (h : MemForm s) (t : TenIx) (grow : List BlockPlace) : AnswerForm (execBoundaryTick t grow s) := by
  unfold execBoundaryTick
  split
  · exact answerForm_next h
  · extract_lets s1
    have h1 : MemForm s1 := memForm_of_mem ((closeTide_mem ..).trans (applySignals_mem ..)) h
    clear_value s1
    split
    · exact answerForm_next h1
    · split
      · exact answerForm_next (memForm_of_mem (quiesceTenant_mem ..) h1)
      · split
        · exact answerForm_next (memForm_of_mem (idlePans_mem ..) (placerBoundary_form h1 t grow))
        · exact answerForm_next (memForm_of_mem (beginTide_mem ..) (placerBoundary_form h1 t grow))

end Mirror

/-! #### Resets and tests -/

section Resets

variable {s : State}

theorem clearPowerOn_form (s : State) : MemForm (clearPowerOn s) := reset_wf

theorem execPor_form (s : State) (low : Bool) : AnswerForm (execPor low s) :=
  answerForm_next (memForm_of_mem (modRst_mem ..) (clearPowerOn_form _))

theorem clearScheduling_form (h : MemForm s) : MemForm (clearScheduling s) :=
  foldl_memForm (fun _ k hr => memForm_of_mem (modStack_mem ..) (drainStack_form hr k)) _ h

theorem clearCore_form (h : MemForm s) : MemForm (clearCore s) := by
  have hsched := clearScheduling_form h
  unfold clearCore
  generalize clearScheduling s = s1 at hsched
  exact hsched

theorem endNow_form (h : MemForm s) (b : BankIx) : MemForm (endNow s b) := by
  unfold endNow
  dsimp only
  split
  · split
    · exact endRun_form h b _
    · exact memForm_of_mem (cutShort_mem ..) h
  · exact h

theorem drainUnit_form (h : MemForm s) (b : BankIx) : MemForm (drainUnit s b) := by
  have hend := endNow_form h b
  unfold drainUnit
  dsimp only
  split
  · exact endNow_form (memForm_of_mem ((startRun_mem _ _ _).trans (modUnit_mem ..)) hend) b
  · exact hend

theorem drainUnits_form (h : MemForm s) : MemForm (drainUnits s) := foldl_memForm (fun _ b hr => drainUnit_form hr b) _ h

theorem clearStacks_form (h : MemForm s) (lost : Bool) : MemForm (clearStacks s lost) := by
  unfold clearStacks
  extract_lets all s1
  have h1 : MemForm s1 := by
    refine foldl_memForm (fun r k hr => ?_) _ ?_
    · split
      · exact memForm_of_mem (modStack_mem ..) (enterSelfRefresh_form hr k _ _)
      · exact memForm_of_mem (modStack_mem ..) hr
    · split
      · exact h
      · exact drainUnits_form h
  clear_value s1
  exact h1

theorem clearSystem_form (h : MemForm s) (lost : Bool) : MemForm (clearSystem s lost) := by
  have hstacks := clearStacks_form h lost
  unfold clearSystem
  generalize clearStacks s lost = s1 at hstacks
  exact hstacks

theorem takeReset_form (h : MemForm s) (r : Reach) (lost : Bool) : MemForm (takeReset s r lost) := by
  unfold takeReset
  extract_lets s0 s1
  have h1 : MemForm s1 := memForm_of_mem ((modRst_mem ..).trans ((modSvc_mem ..).trans (holdLeds_mem _))) h
  clear_value s1
  cases r with
  | core => exact memForm_of_mem (logEvent_mem ..) (clearCore_form h1)
  | system => exact memForm_of_mem (logEvent_mem ..) (clearSystem_form h1 lost)
  | powerOn => exact clearPowerOn_form s1

theorem assertSource_form (h : MemForm s) (code : Nat) (r : Reach) (lost : Bool) : MemForm (assertSource s code r lost) := by
  unfold assertSource
  split
  · exact h
  · extract_lets s1 holds s2
    have h2 : MemForm s2 := memForm_of_mem ((modRst_mem ..).trans (noteSource_mem ..)) h
    clear_value s2
    split
    · exact h2
    · exact takeReset_form h2 r lost

theorem brownOut_form (h : MemForm s) : MemForm (brownOut s) :=
  memForm_of_mem (rampAgain_mem _) (assertSource_form (memForm_of_mem (dropRails_mem s) h) _ _ _)

theorem execBrownout_form (h : MemForm s) (input : Bool) : AnswerForm (execBrownout input s) := by
  refine answerForm_next (brownOut_form ?_)
  split
  · exact memForm_of_mem (modRst_mem ..) h
  · exact h

theorem execPrsntNHigh_form (h : MemForm s) : AnswerForm (execPrsntNHigh s) :=
  answerForm_next (brownOut_form (memForm_of_mem (modRst_mem ..) h))

theorem execRstNAssert_form (h : MemForm s) : AnswerForm (execRstNAssert s) :=
  answerForm_next (assertSource_form (memForm_of_mem (modRst_mem ..) h) _ _ _)

theorem execWdogExpiry_form (h : MemForm s) : AnswerForm (execWdogExpiry s) :=
  answerForm_next (assertSource_form (memForm_of_mem (modRst_mem ..) h) _ _ _)

theorem execPerstAssert_form (h : MemForm s) : AnswerForm (execPerstAssert s) := by
  unfold execPerstAssert
  extract_lets s1
  have h1 : MemForm s1 := memForm_of_mem (modRst_mem ..) h
  clear_value s1
  split
  · exact answerForm_next (assertSource_form h1 _ _ _)
  · split
    · exact answerForm_next h1
    · split
      · exact answerForm_next (memForm_of_mem (noteSource_mem ..) h1)
      · exact answerForm_next (memForm_of_mem ((loseHost_mem _).trans (noteSource_mem ..)) h1)

theorem execHostSourceAssert_form (h : MemForm s) : AnswerForm (execHostSourceAssert s) := by
  unfold execHostSourceAssert
  split
  · exact answerForm_next h
  · exact answerForm_next (assertSource_form (memForm_of_mem (modRst_mem ..) h) _ _ _)

theorem execDbgResetRequest_form (h : MemForm s) (op : DebugReset) : AnswerForm (execDbgResetRequest op s) := by
  unfold execDbgResetRequest
  extract_lets s1
  have h1 : MemForm s1 := memForm_of_mem (debugOperation_mem ..) h
  clear_value s1
  split
  · exact answerForm_next (assertSource_form h1 _ _ _)
  · exact answerForm_next h1

theorem triyxReset_form (h : MemForm s) (r : Reach) : MemForm (triyxReset s r) := by
  cases r with
  | core => exact assertSource_form h _ _ _
  | system => exact assertSource_form h _ _ _
  | powerOn => exact memForm_of_mem (modRst_mem ..) (assertSource_form h _ _ _)

theorem execFinalLineSent_form (h : MemForm s) : AnswerForm (execFinalLineSent s) := by
  unfold execFinalLineSent
  extract_lets s0 s1
  have h0 : MemForm s0 := memForm_of_mem (drainLines_mem _) h
  clear_value s0
  have h1 : MemForm s1 := by
    simp only [s1]
    split
    · exact memForm_of_mem (modSvc_mem ..) h0
    · exact h0
  clear_value s1
  split
  · exact answerForm_next (triyxReset_form (memForm_of_mem (modSvc_mem ..) h1) _)
  · exact answerForm_next h1

/-! ##### Fills -/

theorem fillSram_form (h : MemForm s) : MemForm (fillSram s) := by
  unfold fillSram
  extract_lets log s1
  have h1 : MemForm s1 := filter_wf _ _ h
  clear_value s1
  exact foldl_memForm (fun r q hr => injectRange_form hr _ _) _ (foldl_memForm (fun r p hr => injectRange_form hr _ _) _ h1)

theorem execSramFillDone_form (h : MemForm s) : AnswerForm (execSramFillDone s) := by
  unfold execSramFillDone
  split
  · exact answerForm_next h
  · exact answerForm_next (memForm_of_mem (modRst_mem ..) (fillSram_form h))

theorem execDramFillDone_form (h : MemForm s) : AnswerForm (execDramFillDone s) := by
  unfold execDramFillDone
  split
  · exact answerForm_next h
  · exact answerForm_next (memForm_of_mem ((releaseCore_mem _).trans (modRst_mem ..)) (fillDram_form h))

theorem zeroUnit_form (h : MemForm s) (u : TestUnit) : MemForm (zeroUnit s u) := by
  unfold zeroUnit
  extract_lets s0 s1
  have h0 : MemForm s0 := by
    simp only [s0]
    split
    · exact memForm_of_mem (modStack_mem ..) h
    · exact h
  clear_value s0
  have h1 : MemForm s1 := filter_wf _ _ h0
  clear_value s1
  split
  · exact injectRange_form h1 _ _
  · exact injectRange_form h1 _ _
  · split
    · exact foldl_memForm (fun r i hr => injectRange_form hr _ _) _ h1
    · exact h1
  · exact h1

theorem execTestComplete_form (h : MemForm s) (failures : List (List Dword)) : AnswerForm (execTestComplete failures s) := by
  unfold execTestComplete
  split
  · exact answerForm_next h
  · next u _ =>
    extract_lets s1 s2
    have h1 : MemForm s1 := memForm_of_mem (endTest_mem ..) (zeroUnit_form (memForm_of_mem (modSvc_mem ..) h) u)
    clear_value s1
    have h2 : MemForm s2 := by
      simp only [s2]
      split
      · exact memForm_of_mem (passTest_mem ..) h1
      · exact memForm_of_mem (failTest_mem ..) h1
    clear_value s2
    exact answerForm_next (memForm_of_mem ((finalReply_mem ..).trans (dataLines_mem ..)) h2)

theorem execSelfRefreshEntered_form (h : MemForm s) : AnswerForm (execSelfRefreshEntered s) := by
  unfold execSelfRefreshEntered
  refine answerForm_next ?_
  split
  · exact h
  · extract_lets s1 s2
    have h1 : MemForm s1 := foldl_memForm (fun r k hr => enterSelfRefresh_form hr k _ _) _ h
    clear_value s1
    have h2 : MemForm s2 := memForm_of_mem (modHost_mem ..) h1
    clear_value s2
    split
    · exact memForm_of_mem (attachNow_mem _) h2
    · exact h2

end Resets

/-! ### Commands and steps -/

/-- Whatever a command does, it answers a state whose memory has the form: the commands that write memory by their lemmas above,
the others because they leave it. -/
theorem exec_form {s : State} (h : MemForm s) (c : Instr) : AnswerForm (exec c s) := by
  cases c
  case boundaryTick t grow => exact execBoundaryTick_form h t grow
  case storeWritten p => exact execStoreWritten_form h p
  case copyStart p => exact execCopyStart_form h p
  case sysRequestStart n => exact execSysRequestStart_form h n
  case syncStoreTick r => exact execSyncStoreTick_form h r
  case snapshotComplete => exact execSnapshotComplete_form h
  case ingestWrite lane off data => exact execIngestWrite_form h lane off data
  case ingestDoorbellSignal bell => exact execIngestDoorbellSignal_form h bell
  case stage slot region pl => exact execStage_form h slot region pl
  case loadImage slot img bind table => exact execLoadImage_form h slot img bind table
  case unbindLane slot => exact execUnbindLane_form h slot
  case harvestTake t stream => exact execHarvestTake_form h t stream
  case harvestRecordWrite ring n => exact execHarvestRecordWrite_form h ring n
  case nop | ldw | dot | softp | wsum | mvw | ewu | fill | copyr | csend | crecv | ccomb | check =>
    exact answerForm_next (arrive_form h ..)
  case ldwPayload => exact answerForm_next (rowWrite_form h ..)
  case pondCommandEnd b => exact execPondCommandEnd_form h b
  case spmapWrite k d j bank valid => exact execSpmapWrite_form h k d j bank valid
  case pondStreamIssue t table => exact execPondStreamIssue_form h t table
  case dramRequestServe k n => exact execDramRequestServe_form h k n
  case clockChangeStart k => exact execClockChangeStart_form h k
  case selfRefreshEntered => exact execSelfRefreshEntered_form h
  case selfRefreshExitDone => exact execSelfRefreshExitDone_form h
  case rakeTargetedRewrite => exact execRakeTargetedRewrite_form h
  case rakeSweep k last => exact execRakeSweep_form h k last
  case spareFill => exact execSpareFill_form h
  case rdmaWrite | rdmaWriteImm => exact answerForm_next (takeWriteMessage_form h ..)
  case rdmaRead n q psn key off len => exact execRdmaRead_form h n q psn key off len
  case rdmaOtherOpcode n q psn opcode => exact execRdmaOtherOpcode_form h n q psn opcode
  case mirPair slot partner interval => exact execMirPair_form h slot partner interval
  case mirrorRecordReceive rec_ => exact execMirrorRecordReceive_form h rec_
  case placementMoveComplete t m => exact execPlacementMoveComplete_form h t m
  case por low => exact execPor_form s low
  case brownout input => exact execBrownout_form h input
  case prsntNHigh => exact execPrsntNHigh_form h
  case rstNAssert => exact execRstNAssert_form h
  case wdogExpiry => exact execWdogExpiry_form h
  case perstAssert => exact execPerstAssert_form h
  case hostSourceAssert => exact execHostSourceAssert_form h
  case dbgResetRequest op => exact execDbgResetRequest_form h op
  case finalLineSent => exact execFinalLineSent_form h
  case sramFillDone => exact execSramFillDone_form h
  case dramFillDone => exact execDramFillDone_form h
  case testComplete failures => exact execTestComplete_form h failures
  all_goals
    refine answerForm_of_mem (fun m => ?_) h
    simp [exec]

theorem step_form {s : State} (h : MemForm s) : AnswerForm (step s) := by
  unfold step
  split
  · exact answerForm_next h
  · refine exec_form ?_ _
    exact h

/-- Settles O3: a step takes the front command, and each command keeps the form. -/
theorem memoryFormKeptByStep : Obligations.MemoryFormKeptByStep := by
  unfold Obligations.MemoryFormKeptByStep
  exact fun s t h hstep => step_form h t hstep

end Sys2Proof.Machine

/-! ## O58: what Triyx reads answer (R291, R403, R447) -/

namespace Sys2Proof.Machine

/-! ### A fresh command -/

section Fresh

variable {s : State} {seq : Half} {v : Verb}

theorem triyx_of_fresh (h : Fresh s seq v) : triyx s seq v = verbAct v (accepted s seq v) := by
  obtain ⟨⟨hheld, hstandby, hlen, hroom⟩, hactive, hqueue, hseq⟩ := h
  rcases triyx_cases s seq v with ⟨hlost, _⟩ | ⟨hdropped, _⟩ | ⟨hwaits, _⟩ | ⟨_, htaken⟩
  · rw [hheld, hstandby] at hlost
    simp at hlost
  · omega
  · simp [handlerFree, hactive, hqueue] at hwaits
  · rcases runLine_cases (lineRead s seq v) seq v with ⟨hlast, _⟩ | ⟨_, hrun⟩
    · rw [lineRead, queuePass_svc] at hlast
      exact absurd hlast hseq
    · exact htaken.trans hrun

@[simp] theorem accepted_mem : (accepted s seq v).mem = s.mem :=
  (modSvc_mem ..).trans (queuePass_mem ..)
@[simp] theorem accepted_log : (accepted s seq v).log = s.log :=
  (modSvc_log ..).trans (queuePass_log ..)
@[simp] theorem accepted_rst : (accepted s seq v).rst = s.rst :=
  (modSvc_rst ..).trans (queuePass_rst ..)
@[simp] theorem accepted_sen : (accepted s seq v).sen = s.sen :=
  (modSvc_sen ..).trans (queuePass_sen ..)
@[simp] theorem accepted_plc : (accepted s seq v).plc = s.plc :=
  (modSvc_plc ..).trans (queuePass_plc ..)
@[simp] theorem accepted_lseq : (accepted s seq v).svc.lseq = some seq := rfl

end Fresh

/-! ### Replies -/

section Replies

variable (s : State)

@[simp] theorem drainLines_svc : (drainLines s).svc = s.svc := by
  have hnote : ∀ (r : State) (e : Nat), (notePoison r 41 e true).svc = r.svc := fun _ _ => rfl
  unfold drainLines takeChecked
  dsimp only
  split <;> exact foldl_keeps State.svc _ hnote _ _

theorem mem_out_notePoison {o : Out} (h : o ∈ s.out) (i e : Nat) : o ∈ (notePoison s i e true).out :=
  List.mem_append_left _ h

theorem mem_out_drainLines {o : Out} (h : o ∈ s.out) : o ∈ (drainLines s).out := by
  have hnote := foldl_inv (fun r => o ∈ r.out) (fun r e => notePoison r 41 e true) (fun r e hr => mem_out_notePoison r hr 41 e)
    (queuePoison s 41 ((queueOf s 41).count 4096)) (queueTake s 41 ((queueOf s 41).count 4096)) h
  unfold drainLines takeChecked
  dsimp only
  split
  · exact hnote
  · exact List.mem_append_left _ hnote

@[simp] theorem sendLine_svc (o : Out) : (sendLine s o).svc = s.svc := by
  unfold sendLine
  dsimp only
  rw [emit_svc, queueSend_svc]
  split
  · exact drainLines_svc s
  · rfl

theorem sent_mem_out (o : Out) : o ∈ (sendLine s o).out := List.mem_append_right _ (List.mem_singleton_self o)

theorem mem_out_sendLine {o : Out} (h : o ∈ s.out) (x : Out) : o ∈ (sendLine s x).out := by
  unfold sendLine
  dsimp only
  rw [emit_out, queueSend_out]
  refine List.mem_append_left _ (List.mem_append_left _ ?_)
  split
  · exact mem_out_drainLines s h
  · exact h

@[simp] theorem dataLines_svc (ls : List (List Dword)) : (dataLines s ls).svc = s.svc :=
  foldl_keeps State.svc _ (fun r _ => sendLine_svc r _) ls s

theorem mem_out_dataLines {o : Out} (ls : List (List Dword)) (h : o ∈ s.out) : o ∈ (dataLines s ls).out :=
  foldl_inv (fun r => o ∈ r.out) dataLine (fun r _ hr => mem_out_sendLine r hr _) ls s h

/-- The first line goes out with the sequence number of the command. -/
theorem head_mem_dataLines (ws : List Dword) (ls : List (List Dword)) :
    Out.line (lastSeq s) ws ∈ (dataLines s (ws :: ls)).out :=
  mem_out_dataLines _ ls (sent_mem_out s _)

/-- A reply ends its command, whose final line counts its lines. -/
theorem replyLines_svc (ls : List (List Dword)) : (replyLines s ls).svc =
    { s.svc with final := some { err := none, lines := ls.length, text := [] }, active := false } := by
  rw [replyLines, replyOk_eq, finalReply_eq, sendLine_svc, modSvc_svc, dataLines_svc]
  rfl

theorem head_mem_replyLines (ws : List Dword) (ls : List (List Dword)) :
    Out.line (lastSeq s) ws ∈ (replyLines s (ws :: ls)).out := by
  rw [replyLines, replyOk_eq, finalReply_eq]
  refine mem_out_sendLine _ ?_ _
  rw [modSvc_out]
  exact head_mem_dataLines s ws ls

end Replies

/-! ### Bytes and words -/

theorem leBytes_leNat (bs : List Byte) : leBytes bs.length (leNat bs) = bs := by
  induction bs with
  | nil => rfl
  | cons b bs ih =>
    have hb := b.isLt
    have hlow : BitVec.ofNat 8 (b.toNat + 256 * leNat bs) = b := by
      apply BitVec.eq_of_toNat_eq
      simp
      omega
    have hrest : (b.toNat + 256 * leNat bs) / 256 = leNat bs := by omega
    rw [List.length_cons, leNat, leBytes, hlow, hrest, ih]

theorem leNat_lt (bs : List Byte) : leNat bs < 256 ^ bs.length := by
  induction bs with
  | nil => exact Nat.one_pos
  | cons b bs ih =>
    have hb := b.isLt
    rw [leNat, List.length_cons, Nat.pow_succ]
    omega

theorem leBytes_wordOfBytes {bs : List Byte} (h : bs.length = 8) : leBytes 8 (wordOfBytes bs).toNat = bs := by
  have hlt : leNat bs < 2 ^ 64 := lt_of_lt_of_eq (leNat_lt bs) (by rw [h]; norm_num)
  rw [wordOfBytes, BitVec.toNat_ofNat, Nat.mod_eq_of_lt hlt, ← h]
  exact leBytes_leNat bs

/-- Whole words taken from bytes give the same bytes again. -/
theorem groupsOf_whole (n k : Nat) (bs : List Byte) (hlen : bs.length = 8 * n) (hk : n ≤ k) :
    (groupsOf 8 k bs).length = n ∧ bytesOfWords ((groupsOf 8 k bs).map wordOfBytes) = bs := by
  induction n generalizing k bs with
  | zero =>
    obtain rfl : bs = [] := List.eq_nil_of_length_eq_zero hlen
    cases k <;> exact ⟨rfl, rfl⟩
  | succ n ih =>
    obtain ⟨k, rfl⟩ : ∃ j, k = j + 1 := ⟨k - 1, by omega⟩
    have hne : bs.isEmpty = false := List.isEmpty_eq_false_iff.2 (List.ne_nil_of_length_pos (by omega))
    obtain ⟨hcount, hbytes⟩ := ih k (bs.drop 8) (by rw [List.length_drop]; omega) (by omega)
    rw [groupsOf, hne, if_neg Bool.false_ne_true, List.length_cons, hcount, List.map_cons]
    refine ⟨rfl, ?_⟩
    rw [bytesOfWords] at hbytes ⊢
    rw [List.flatMap_cons, hbytes, leBytes_wordOfBytes (by rw [List.length_take]; omega), List.take_append_drop]

theorem wordsOfBytes_whole {n : Nat} {bs : List Byte} (h : bs.length = 8 * n) :
    (wordsOfBytes bs).length = n ∧ bytesOfWords (wordsOfBytes bs) = bs := by
  unfold wordsOfBytes
  rw [List.length_map]
  exact groupsOf_whole n bs.length bs h (by omega)

/-! ### Entries of the logs (R291) -/

theorem entryBytes_length (e : LogEntry) : (entryBytes e).length = 32 := by
  simp only [entryBytes, listPatch, List.length_append, List.length_take, List.length_drop, List.length_replicate, leBytes_length,
    List.length_cons, List.length_nil, Nat.zero_add]
  omega

section Entries

variable {s : State} {ev : Bool} {n : Nat} {e : LogEntry}

/-- The words of entry `n` of a log, as the read of an entry decodes them. -/
def entryWords (ev : Bool) (n : Nat) (ws : List Stored) : List (Nat × Decoded) :=
  ws.zipIdx.map fun w => (logKey (if ev then 1 else 0) (32 * n + 8 * w.2), decodeWord w.1)

theorem readLogEntry_eq (he : tabGet LogEntry.zero (if ev then s.log.events else s.log.errors) n = e) :
    readLogEntry s ev n =
      (if (entryWords ev n (storedList 4 e.stored)).any fun w => w.2.check == .uncorrectable then (List.replicate 32 0).set 13 3
        else bytesOfWords (wordsOf (entryWords ev n (storedList 4 e.stored))),
      noteWords s 0 (entryWords ev n (storedList 4 e.stored)) none) := by
  rw [← he]
  rfl

theorem entryWords_encoded_clean (ds : List Dword) : ∀ w ∈ entryWords ev n (ds.map encodeWord), w.2.check = .clean := by
  intro w hw
  obtain ⟨x, hx, rfl⟩ := List.mem_map.1 hw
  rw [List.zipIdx_map] at hx
  obtain ⟨y, _, rfl⟩ := List.mem_map.1 hx
  exact congrArg Decoded.check (decodeWord_encodeWord y.1)

theorem wordsOf_entryWords_encoded (ds : List Dword) : wordsOf (entryWords ev n (ds.map encodeWord)) = ds := by
  rw [wordsOf, entryWords, List.zipIdx_map, List.map_map, List.map_map]
  refine Eq.trans (List.map_congr_left fun w _ => ?_) (List.zipIdx_map_fst 0 ds)
  exact congrArg Decoded.d (decodeWord_encodeWord w.1)

/-- An entry whose words decode clean is read as they are, and leaves no trace. -/
theorem readLogEntry_of_encoded {ds : List Dword} (he : tabGet LogEntry.zero (if ev then s.log.events else s.log.errors) n = e)
    (hstored : storedList 4 e.stored = ds.map encodeWord) : readLogEntry s ev n = (bytesOfWords ds, s) := by
  have hclean := entryWords_encoded_clean (ev := ev) (n := n) ds
  have hnone : ¬(entryWords ev n (ds.map encodeWord)).any (fun w => w.2.check == .uncorrectable) = true := by
    rw [List.any_eq_true]
    rintro ⟨w, hw, hbad⟩
    rw [hclean w hw] at hbad
    exact Bool.false_ne_true hbad
  rw [readLogEntry_eq he, hstored, if_neg hnone, wordsOf_entryWords_encoded, noteWords_clean _ _ _ _ hclean]

theorem readLogEntry_of_coded (he : tabGet LogEntry.zero (if ev then s.log.events else s.log.errors) n = e)
    (hcoded : e.stored = e.coded.stored ∨ e = LogEntry.zero) : readLogEntry s ev n = (entryBytes e, s) := by
  rcases hcoded with hcoded | rfl
  · obtain ⟨hcount, hbytes⟩ := wordsOfBytes_whole (n := 4) (entryBytes_length e)
    have hstored := storedList_flatMap_storedBytes ((wordsOfBytes (entryBytes e)).map encodeWord)
    rw [List.length_map, hcount, List.flatMap_map] at hstored
    rw [readLogEntry_of_encoded he ((congrArg (storedList 4) hcoded).trans hstored), hbytes]
  · exact readLogEntry_of_encoded (ds := List.replicate 4 0) he (by decide)

/-- An entry with a word that cannot be corrected reads as zeros, its code aside (log entry 162). -/
theorem readLogEntry_of_uncorrectable (he : tabGet LogEntry.zero (if ev then s.log.events else s.log.errors) n = e)
    (hbad : ∃ w ∈ storedList 4 e.stored, (decodeWord w).check = .uncorrectable) :
    (readLogEntry s ev n).1 = (List.replicate 32 0).set 13 3 := by
  obtain ⟨w, hw, hcheck⟩ := hbad
  obtain ⟨i, hi⟩ := List.mem_iff_getElem?.1 hw
  rw [readLogEntry_eq he, if_pos]
  rw [List.any_eq_true]
  exact ⟨_, List.mem_map_of_mem (List.mk_mem_zipIdx_iff_getElem?.2 hi), by rw [hcheck]; rfl⟩

theorem readLogEntry_svc (s : State) (ev : Bool) (n : Nat) : (readLogEntry s ev n).2.svc = s.svc := noteWords_svc ..

end Entries

/-! ### Registers that RCAU and CALR read (R447) -/

section Registers

variable (s : State)

theorem bar0Read_rstCause : bar0Read s 0x500000 = (rstCause s, s) := rfl
theorem bar0Read_rstStat : bar0Read s 0x500010 = (rstStat s, s) := rfl
theorem bar0Read_rstWdog : (bar0Read s 0x500018).2 = modRst s fun x => { x with wdogExpiry := 0 } := rfl
theorem bar0Read_clkGood : (bar0Read s 0x500100).2 = s := rfl
theorem bar0Read_clkHeld : (bar0Read s 0x500110).2 = s := rfl
theorem bar0Read_clkPll : (bar0Read s 0x500118).2 = s := rfl
theorem bar0Read_calNow : (bar0Read s 0x602000).2 = s := rfl
theorem bar0Read_calStat : (bar0Read s 0x602010).2 = s := rfl
theorem bar0Read_calEpoch : (bar0Read s 0x602008).2 = s := rfl

/-- RCAU counts a watchdog's expiries from 0 again (R421), and answers six lines. -/
theorem rcau_eq : ∃ ls : List (List Dword), ls.length = 5 ∧
    rcau s = replyLines (modRst s fun x => { x with wdogExpiry := 0 }) ([rstCause s] :: ls) := by
  refine ⟨[[?stat], [?wdog], [?good], [?held], [?pll]], rfl, ?eq⟩
  case eq =>
    simp only [rcau, replyRegs, readRegs, List.foldl_cons, List.foldl_nil, bar0Read_rstCause, bar0Read_rstStat, bar0Read_rstWdog,
      bar0Read_clkGood, bar0Read_clkHeld, bar0Read_clkPll, List.nil_append, List.cons_append]
    rfl

theorem calr_eq : ∃ ls : List (List Dword), ls.length = 3 ∧ calr s = replyLines s ls := by
  refine ⟨[[?now], [?stat], [?epoch]], rfl, ?eq⟩
  case eq =>
    simp only [calr, replyRegs, readRegs, List.foldl_cons, List.foldl_nil, bar0Read_calNow, bar0Read_calStat, bar0Read_calEpoch,
      List.nil_append, List.cons_append]
    rfl

end Registers

/-! ### Each read (R447) -/

section Reads

variable {s : State} {seq : Half}

theorem imageInUse_accepted (v : Verb) : imageInUse (accepted s seq v) = imageInUse s := by
  unfold imageInUse
  rw [accepted_rst]

theorem sensorLines_accepted (v : Verb) : sensorLines (accepted s seq v) = sensorLines s := by
  unfold sensorLines
  rw [accepted_rst, accepted_sen]

theorem rstCause_accepted (v : Verb) : rstCause (accepted s seq v) = rstCause s := by
  unfold rstCause
  rw [accepted_rst]

theorem optStat_accepted (v : Verb) : optStat (accepted s seq v) = optStat s := by
  unfold optStat
  rw [accepted_rst]

theorem exec_idnt (h : Fresh s seq .idnt) : exec (.idnt seq) s = .next (replyLines (accepted s seq .idnt)
    [textWords partNumber, [0x41], [0xB0], [Config.serial], imageInUse s, wordsOf32 (Config.sha256 Config.certificate)]) := by
  rw [← imageInUse_accepted (seq := seq) .idnt]
  exact congrArg Host.Outcome.next (triyx_of_fresh h)

theorem exec_sens (h : Fresh s seq .sens) :
    exec (.sens seq) s = .next (replyLines (accepted s seq .sens) (sensorLines s)) := by
  rw [← sensorLines_accepted (seq := seq) .sens]
  exact congrArg Host.Outcome.next (triyx_of_fresh h)

theorem exec_rcau (h : Fresh s seq .rcau) : ∃ t, exec (.rcau seq) s = .next t ∧ t.svc.active = false ∧
    t.svc.lseq = some seq ∧ t.mem = s.mem ∧ t.svc.final = some { err := none, lines := 6, text := [] } ∧
    Out.line seq [rstCause s] ∈ t.out := by
  obtain ⟨ls, hlen, hrcau⟩ := rcau_eq (accepted s seq .rcau)
  have hexec : exec (.rcau seq) s = .next (rcau (accepted s seq .rcau)) := congrArg Host.Outcome.next (triyx_of_fresh h)
  rw [hrcau, rstCause_accepted] at hexec
  have hout := head_mem_replyLines (modRst (accepted s seq .rcau) fun x => { x with wdogExpiry := 0 }) [rstCause s] ls
  refine ⟨_, hexec, ?_, ?_, ?_, ?_, hout⟩
  · rw [replyLines_svc]
  · rw [replyLines_svc, modRst_svc, accepted_lseq]
  · rw [replyLines_mem, modRst_mem, accepted_mem]
  · rw [replyLines_svc, List.length_cons, hlen]

theorem exec_calr (h : Fresh s seq .calr) : ∃ t, exec (.calr seq) s = .next t ∧ t.svc.active = false ∧ t.mem = s.mem ∧
    t.svc.final = some { err := none, lines := 3, text := [] } := by
  obtain ⟨ls, hlen, hcalr⟩ := calr_eq (accepted s seq .calr)
  have hexec : exec (.calr seq) s = .next (calr (accepted s seq .calr)) := congrArg Host.Outcome.next (triyx_of_fresh h)
  rw [hcalr] at hexec
  refine ⟨_, hexec, ?_, ?_, ?_⟩
  · rw [replyLines_svc]
  · rw [replyLines_mem, accepted_mem]
  · rw [replyLines_svc, hlen]

theorem exec_optr (h : Fresh s seq .optr) : exec (.optr seq) s = .next (replyLines (accepted s seq .optr)
    ([optStat s] :: (groupsOf 64 64 (optImage s.rst.optGen s.rst.opt)).map wordsOf32)) := by
  rw [← optStat_accepted (seq := seq) .optr, ← accepted_rst (seq := seq) (v := .optr)]
  exact congrArg Host.Outcome.next (triyx_of_fresh h)

theorem exec_rreg_outside {off : Nat} (h : Fresh s seq (.rreg off)) (hoff : off % 8 ≠ 0 ∨ 2 ^ 26 ≤ off) :
    exec (.rreg seq off) s = .next (replyErr (accepted s seq (.rreg off)) 0xE1) :=
  congrArg Host.Outcome.next ((triyx_of_fresh h).trans (if_pos hoff))

theorem exec_rreg {off : Nat} (h : Fresh s seq (.rreg off)) (haligned : off % 8 = 0) (hrange : off < 2 ^ 26) :
    exec (.rreg seq off) s = .next (replyLines (bar0Read (accepted s seq (.rreg off)) off).2
      [[(bar0Read (accepted s seq (.rreg off)) off).1]]) :=
  congrArg Host.Outcome.next ((triyx_of_fresh h).trans (if_neg (by omega)))

/-! #### LOGR -/

variable {ev : Bool} {first count : Nat}

/-- Entries read one after the other, where reading leaves no trace. -/
theorem readEntries {is : List Nat} {at_ : Nat → Nat} {e : Nat → LogEntry} (ls : List (List Dword))
    (hread : ∀ i ∈ is, readLogEntry s ev (at_ i) = (entryBytes (e i), s)) :
    is.foldl (fun (r : List (List Dword) × State) i =>
      let x := readLogEntry r.2 ev (at_ i)
      (r.1 ++ [wordsOf32 x.1], x.2)) (ls, s) = (ls ++ is.map fun i => wordsOf32 (entryBytes (e i)), s) := by
  induction is generalizing ls with
  | nil => rw [List.foldl_nil, List.map_nil, List.append_nil]
  | cons i is ih =>
    rw [List.foldl_cons, hread i List.mem_cons_self, ih _ fun j hj => hread j (List.mem_cons_of_mem i hj), List.map_cons,
      List.append_assoc]
    rfl

theorem exec_logr_outside (h : Fresh s seq (.logr ev first count))
    (hout : count = 0 ∨ 256 < count ∨ (if ev then 16384 else 4096) ≤ first) :
    exec (.logr seq ev first count) s = .next (replyErr (accepted s seq (.logr ev first count)) 0xE1) :=
  congrArg Host.Outcome.next ((triyx_of_fresh h).trans (if_pos hout))

theorem exec_logr (h : Fresh s seq (.logr ev first count)) {e : Nat → LogEntry} (hlow : 1 ≤ count) (hhigh : count ≤ 256)
    (hfirst : first < (if ev then 16384 else 4096))
    (he : ∀ i, i < count → tabGet LogEntry.zero (if ev then s.log.events else s.log.errors)
        ((first + i) % (if ev then 16384 else 4096)) = e i ∧ ((e i).stored = (e i).coded.stored ∨ e i = LogEntry.zero)) :
    exec (.logr seq ev first count) s = .next (replyLines (accepted s seq (.logr ev first count))
      ((List.range count).map fun i => wordsOf32 (entryBytes (e i)))) := by
  have hin : ¬(count = 0 ∨ 256 < count ∨ (if ev then 16384 else 4096) ≤ first) := by omega
  have hread : ∀ i ∈ List.range count, readLogEntry (accepted s seq (.logr ev first count)) ev
      ((first + i) % (if ev then 16384 else 4096)) = (entryBytes (e i), accepted s seq (.logr ev first count)) := by
    intro i hi
    obtain ⟨hat, hcoded⟩ := he i (List.mem_range.1 hi)
    rw [← accepted_log (seq := seq) (v := .logr ev first count)] at hat
    exact readLogEntry_of_coded hat hcoded
  have hrun := (triyx_of_fresh h).trans (if_neg hin)
  dsimp only at hrun
  rw [readEntries [] hread] at hrun
  exact congrArg Host.Outcome.next hrun

theorem exec_logr_uncorrectable (h : Fresh s seq (.logr false first 1)) (hfirst : first < 4096)
    (hbad : ∃ w ∈ storedList 4 (tabGet LogEntry.zero s.log.errors first).stored, (decodeWord w).check = .uncorrectable) :
    ∃ u, exec (.logr seq false first 1) s = .next u ∧ u.svc.active = false ∧ u.mem = s.mem ∧
      Out.line seq (wordsOf32 ((List.replicate 32 0).set 13 3)) ∈ u.out := by
  have hrun : triyx s seq (.logr false first 1) =
      replyLines (readLogEntry (accepted s seq (.logr false first 1)) false (first % 4096)).2
        [wordsOf32 (readLogEntry (accepted s seq (.logr false first 1)) false (first % 4096)).1] :=
    (triyx_of_fresh h).trans (if_neg (by simp; omega))
  rw [Nat.mod_eq_of_lt hfirst, readLogEntry_of_uncorrectable (ev := false) rfl (by rw [accepted_log]; exact hbad)] at hrun
  have hout := head_mem_replyLines (readLogEntry (accepted s seq (.logr false first 1)) false first).2
    (wordsOf32 ((List.replicate 32 0).set 13 3)) []
  have hseq : lastSeq (readLogEntry (accepted s seq (.logr false first 1)) false first).2 = seq := by
    rw [lastSeq, readLogEntry_svc, accepted_lseq]
    rfl
  rw [hseq] at hout
  refine ⟨_, congrArg Host.Outcome.next hrun, ?_, ?_, hout⟩
  · rw [replyLines_svc]
  · rw [replyLines_mem, readLogEntry_mem, accepted_mem]

/-! #### RETR -/

theorem exec_retr_outside (h : Fresh s seq (.retr first count)) (hout : count = 0 ∨ 64 < count ∨ 1024 < first + count) :
    exec (.retr seq first count) s = .next (replyErr (accepted s seq (.retr first count)) 0xE1) :=
  congrArg Host.Outcome.next ((triyx_of_fresh h).trans (if_pos hout))

theorem exec_retr (h : Fresh s seq (.retr first count)) (hlow : 1 ≤ count) (hhigh : count ≤ 64)
    (hlast : first + count ≤ 1024) : exec (.retr seq first count) s = .next (replyLines (accepted s seq (.retr first count))
      ((List.range count).map fun i => [match s.plc.retire[first + i]? with | some e => retireWord e | none => 0])) := by
  rw [← accepted_plc (seq := seq) (v := .retr first count)]
  exact congrArg Host.Outcome.next ((triyx_of_fresh h).trans (if_neg (by omega)))

end Reads

/-- Settles O58: a fresh command runs as it is accepted, and each read answers the lines of what it reads. -/
theorem triyxReads : Obligations.TriyxReads := by
  unfold Obligations.TriyxReads
  intro s seq off first count ev
  refine ⟨exec_idnt, exec_sens, exec_rcau, exec_calr, exec_optr, fun h => ⟨exec_rreg_outside h, exec_rreg h⟩, fun h =>
    ⟨fun e hlow hhigh hfirst he => exec_logr h hlow hhigh hfirst he, ?bad, exec_logr_outside h⟩, fun h =>
    ⟨exec_retr h, exec_retr_outside h⟩⟩
  case bad =>
    rintro rfl rfl hfirst hbad
    exact exec_logr_uncorrectable h hfirst hbad

end Sys2Proof.Machine

/-! ## O55: bring-up (R433 to R435) -/

namespace Sys2Proof.Machine

section OptionCopies

/-- A copy of an option block: `body`, and the CRC of it (R433). -/
def sealedCopy (body : List Byte) : List Byte := body ++ leBytes 4 (crc32 body).toNat

theorem optBytes_sealedCopy {body : List Byte} (h : body.length = 4092) : optBytes (sealedCopy body) = body := by
  rw [optBytes, sealedCopy, List.take_left' h, padTo, h, Nat.sub_self, List.replicate_zero, List.append_nil, ← h,
    List.take_length]

theorem fieldAt_sealedCopy {body : List Byte} (h : body.length = 4092) :
    fieldAt (sealedCopy body) 0xFFC 4 = (crc32 body).toNat := by
  have hcrc : ((sealedCopy body).drop 0xFFC).take 4 = leBytes 4 (crc32 body).toNat := by
    rw [sealedCopy, List.drop_left' h, List.take_of_length_le (le_of_eq (leBytes_length _ _))]
  rw [fieldAt, hcrc, leNat_leBytes]
  exact Nat.mod_eq_of_lt (crc32 body).isLt

/-- MAGIC, VERSION and SIZE, and every other field 0 (R433). -/
def plainBody : List Byte := padTo 0 4092 [0x4F, 0x50, 0x54, 0x42, 1, 0, 0, 0x10]

theorem optionsValid_plain : optionsValid (sealedCopy plainBody) = true := by
  have hlen : plainBody.length = 4092 := by decide +kernel
  have hmagic : fieldAt (sealedCopy plainBody) 0 4 = 0x4254504F := rfl
  have hversion : fieldAt (sealedCopy plainBody) 4 2 = 1 := rfl
  have hsize : fieldAt (sealedCopy plainBody) 6 2 = 0x1000 := rfl
  rw [optionsValid, hmagic, hversion, hsize, fieldAt_sealedCopy hlen, optBytes_sealedCopy hlen]
  simp

/-! ### A flash whose option block lists a reserved field that the block does not have -/

/-- The default fields, and 0 among the offsets of the reserved fields that are not 0. -/
def strayBlock : OptBlock := { OptBlock.default with rsv := [0] }

theorem badFields_strayBlock : badFields strayBlock = [] := by decide

theorem effectiveOptions_strayBlock : effectiveOptions strayBlock ≠ strayBlock := by decide

/-- The card at its option step, its flash read before: copy 0 of the option block and of the record stand, copy 1 of neither. -/
def strayFlash : State :=
  { State.reset with
    rst := { RstSt.reset with
             phase := 1, poHeld := false, asserted := 0,
             flash := { Flash.reset with opt0 := some (0, strayBlock), ret0 := some (0, []), optRead := true } } }

theorem strayFlash_canon : Canon strayFlash := by
  unfold Canon
  decide

end OptionCopies

/-- Refutes O55: the block in effect lists no reserved field (`rsv`), and the statement has it equal to the copy as soon as no
field of the copy is outside its range. In `strayFlash`, which the statement's hypotheses allow, the copy that the flash holds
lists offset 0, where the block has no reserved field: no field is outside its range, and the block in effect is another. -/
theorem not_bringUp : ¬ Obligations.BringUp := by
  unfold Obligations.BringUp
  intro h
  obtain ⟨-, -, -, hload, -⟩ := h strayFlash (sealedCopy plainBody) [] _ _ { valid := true, gen := 0, content := [] }
    { valid := false, gen := 0, content := [] } _ _ { valid := false, gen := 0, content := [] }
    { valid := false, gen := 0, content := [] } _ _ [] [] [] [] strayFlash_canon rfl rfl rfl rfl rfl rfl rfl
  obtain ⟨-, hcopy0⟩ := hload rfl rfl rfl (by decide)
  obtain ⟨u, -, -, -, -, heffective, hsame, -⟩ := hcopy0 optionsValid_plain rfl rfl rfl
  obtain ⟨hopt, -⟩ := hsame badFields_strayBlock
  exact effectiveOptions_strayBlock (heffective.symm.trans hopt)

end Sys2Proof.Machine

/-! ## O23: hand writes and SNAP (R314, R317, R318) -/

namespace Sys2Proof.Machine

/-- Settles O23: the CONFIRM value decides in `handWrite`, which the four commands share. -/
theorem handWritesNeedConfirm : Obligations.HandWritesNeedConfirm := by
  unfold Obligations.HandWritesNeedConfirm
  intro s confirm t v g
  refine ⟨?_, ?_, rfl⟩
  · rintro rfl
    exact ⟨rfl, rfl, rfl, rfl⟩
  · intro hconfirm c hc
    have hdrop : ∀ op, handWrite s confirm op = rejectHand s := fun op => if_neg hconfirm
    simp only [List.mem_cons, List.not_mem_nil, or_false] at hc
    rcases hc with rfl | rfl | rfl | rfl <;> exact congrArg Host.Outcome.next (hdrop _)

end Sys2Proof.Machine

/-! ## O24: signals add and saturate (R301) -/

namespace Sys2Proof.Machine

/-! ### The head of the event log (R290) -/

@[simp] theorem LogEntry.coded_detail (e : LogEntry) : e.coded.detail = e.detail := rfl

theorem addEvent_head (l : LogSt) (e : LogEntry) :
    tabGet LogEntry.zero (l.addEvent e).events l.evHead = e.coded := by
  simp [LogSt.addEvent]

theorem addEvent_other (l : LogSt) (e : LogEntry) {n : Nat} (hn : n ≠ l.evHead) :
    tabGet LogEntry.zero (l.addEvent e).events n = tabGet LogEntry.zero l.events n := by
  simp [LogSt.addEvent, hn]

/-- The entry that `logEvent` writes stands at the head of the log, whether or not its notice found room. -/
theorem logEvent_head (s : State) (code : Byte) (detail : List Byte) (t : Option TenIx) :
    tabGet LogEntry.zero (logEvent s code detail t).log.events s.log.evHead = (eventEntry s code detail t).coded := by
  have hnext : s.log.evHead ≠ (s.log.addEvent (eventEntry s code detail t)).evHead := by
    simp only [LogSt.addEvent]
    omega
  simp only [logEvent]
  split
  · rw [addEvent_other _ _ hnext, addEvent_head]
  · exact addEvent_head _ _

/-! ### What a signal leaves of the tallies and of the log -/

theorem tallyOf_addTally (s : State) (t : TlyIx) (n : Nat) (src : SigSource) (hand : Bool) (u : TlyIx) :
    tallyOf (addTally s t n src hand) u =
      if u = t then { tallyOf s t with value := satAdd (tallyOf s t).value n, hand := hand } else tallyOf s u := by
  have hset : ∀ r x, r.sync = (setTally s t.val x).sync → tallyOf r u = if u = t then x else tallyOf s u := by
    intro r x hr
    rw [show tallyOf r u = tallyOf (setTally s t.val x) u by simp only [tallyOf, hr]]
    simp [Fin.ext_iff]
  unfold addTally
  dsimp only
  split
  · exact hset _ _ rfl
  · exact hset _ _ rfl


theorem satAdd_toNat {w : Nat} (a : BitVec w) (n : Nat) : (satAdd a n).toNat = min (a.toNat + n) (2 ^ w - 1) := by
  have hw : 0 < 2 ^ w := Nat.two_pow_pos w
  unfold satAdd
  split <;> simp only [BitVec.toNat_ofNat] <;> rw [Nat.mod_eq_of_lt] <;> omega

@[simp] theorem srcBytes_length (src : SigSource) : (srcBytes src).length = 2 := by cases src <;> rfl

/-- DETAIL of ERR_TLY_SATURATE: tally, source code and unit (R301), padded to its eleven bytes. -/
theorem saturation_detail (s : State) (t : TlyIx) (src : SigSource) (o : Option TenIx) :
    (eventEntry s 0x81 (leBytes 2 t.val ++ srcBytes src) o).detail =
      leBytes 2 t.val ++ (srcBytes src ++ List.replicate 7 0) := by
  simp [eventEntry, padTo, leBytes_length]

theorem tenByte_ownerTenant {owner : BitVec 5} {o : TenIx} (h : owner.toNat = o.val) :
    tenByte (ownerTenant owner) = BitVec.ofNat 8 o.val := by
  simp [ownerTenant, tenByte, h]

theorem addTally_log_of_room {s : State} {t : TlyIx} {n : Nat} (h : (tallyOf s t).value.toNat + n < 2 ^ 32)
    (src : SigSource) (hand : Bool) : (addTally s t n src hand).log = s.log := by
  unfold addTally
  dsimp only
  rw [if_neg (by omega)]
  rfl

/-- ERR_TLY_SATURATE as a sum above 0xFFFF_FFFF leaves it in the log (R301). -/
theorem addTally_saturation_entry {s : State} {t : TlyIx} {n : Nat} (h : 2 ^ 32 ≤ (tallyOf s t).value.toNat + n)
    (src : SigSource) (hand : Bool) {e : LogEntry}
    (he : tabGet LogEntry.zero (addTally s t n src hand).log.events s.log.evHead = e) :
    e.code = 0x81 ∧ e.detail = leBytes 2 t.val ++ (srcBytes src ++ List.replicate 7 0) ∧
      e.tenant = tenByte (ownerTenant (tallyOf s t).owner) := by
  unfold addTally at he
  dsimp only at he
  rw [if_pos h] at he
  have hentry := (logEvent_head _ _ _ _).symm.trans he
  subst hentry
  exact ⟨rfl, by rw [LogEntry.coded_detail, saturation_detail], rfl⟩

/-- DETAIL holds the tally's number in its first two bytes, then the two bytes of the source. -/
theorem saturation_detail_source {t : TlyIx} {src : SigSource} {detail : List Byte} {code unit_ : Byte}
    (h : detail = leBytes 2 t.val ++ (srcBytes src ++ List.replicate 7 0)) (hsrc : srcBytes src = [code, unit_]) :
    detail[2]? = some code ∧ detail[3]? = some unit_ := by
  rw [h, hsrc]
  exact ⟨rfl, rfl⟩

/-- Settles O24: the sum is `satAdd`, and the entry of a saturated one stands at the head of the log. -/
theorem signalsAddAndSaturate : Obligations.SignalsAddAndSaturate := by
  unfold Obligations.SignalsAddAndSaturate
  rintro s t u n src hand r e rfl he
  have hown := tallyOf_addTally s t n src hand t
  rw [if_pos rfl] at hown
  refine ⟨by rw [hown], fun hu => ?_, fun hroom => ?_, fun hfull => ?_⟩
  · rw [tallyOf_addTally, if_neg hu]
  · refine ⟨?_, addTally_log_of_room (by omega) src hand⟩
    rw [hown, satAdd_toNat]
    omega
  · obtain ⟨hcode, hdetail, htenant⟩ := addTally_saturation_entry (by omega) src hand he
    have hbytes : ∀ {code unit_ : Byte}, srcBytes src = [code, unit_] → e.detail[2]? = some code ∧ e.detail[3]? = some unit_ :=
      saturation_detail_source hdetail
    refine ⟨?_, hcode, ?_, ?_, ?_, ?_, ?_, ?_, ?_, ?_, ?_, ?_, fun o ho => ?_, fun ho => ?_⟩
    · apply BitVec.eq_of_toNat_eq
      rw [hown, satAdd_toNat]
      exact Nat.min_eq_right (by omega)
    · rw [hdetail, List.take_left' (leBytes_length ..)]
    · rintro l o rfl; exact hbytes rfl
    · rintro l o rfl; exact hbytes rfl
    · rintro k o rfl; exact hbytes rfl
    · rintro c rfl; exact hbytes rfl
    · rintro m rfl; exact hbytes rfl
    · rintro p rfl; exact hbytes rfl
    · rintro rfl; exact hbytes rfl
    · rintro c rfl; exact hbytes rfl
    · rintro fromTriyx rfl; exact hbytes rfl
    · rw [htenant, tenByte_ownerTenant ho]
    · rw [htenant, ho]; rfl

end Sys2Proof.Machine

/-! ## O31: SIGNAL, GATE_PORTS, GATE_ARRIVE and SYNC_DUMP (R300, R306, R310, R314, R355) -/

namespace Sys2Proof.Machine

section Commands

variable {s : State} {slot : MbxIx} {img : List Byte}

/-! ### What each command does with the image that its slot holds -/

theorem exec_signal_of_holds {t : TlyIx} (h : Holds s slot 0x30 img) (ht : fieldAt img 0x10 2 = t.val) :
    exec (.signal slot) s = .next (
      if fieldAt img 0x12 2 = 0 then respond s slot 0xA2 []
      else if (tallyOf s t).owner = 0x1F then respond s slot 0x80 []
      else respond (sendSignal s { tly := t, n := fieldAt img 0x12 2, src := .mailbox slot }) slot 0 []) := by
  change execSignal slot s = _
  rw [execSignal, runMailbox_of_holds h]
  refine congrArg Host.Outcome.next ?_
  dsimp only
  rw [dif_pos (ht ▸ t.isLt)]
  simp only [ht]

/-- What GATE_PORTS and GATE_ARRIVE ask of their gate: it is assigned, and has no pans (R310). -/
theorem exec_gatePorts_of_holds {g : GateIx} (h : Holds s slot 0x32 img) (hg : fieldAt img 0x10 1 = g.val) :
    exec (.gatePorts slot) s = .next (
      if 15 < fieldAt img 0x11 1 ∨ (gateOf s g).owner = 0x1F ∨ (gateOf s g).mask ≠ 0 then respond s slot 0xA2 []
      else respond { s with sync := { s.sync with
        newPorts := s.sync.newPorts ++ [(g, BitVec.ofNat 4 (fieldAt img 0x11 1))] } } slot 0 []) := by
  change execGatePorts slot s = _
  rw [execGatePorts, runMailbox_of_holds h]
  refine congrArg Host.Outcome.next ?_
  dsimp only
  rw [dif_pos (hg ▸ g.isLt)]
  simp only [hg]
  rfl

theorem exec_gateArrive_of_holds {g : GateIx} {k : Fin 4} (h : Holds s slot 0x31 img) (hout : arrivalOut s slot = false)
    (hg : fieldAt img 0x10 1 = g.val) (hk : fieldAt img 0x11 1 = k.val) :
    exec (.gateArrive slot) s = .next (
      if (gateOf s g).owner = 0x1F ∨ (gateOf s g).mask ≠ 0 ∨ (gateOf s g).ports.getLsbD k.val = false then
        endBackground s slot 0xA2 []
      else { s with sync := { s.sync with portArrive := s.sync.portArrive ++ [(g, k, .mailbox slot)] } }) := by
  change execGateArrive slot s = _
  rw [execGateArrive, runMailbox_of_holds h]
  refine congrArg Host.Outcome.next ?_
  dsimp only
  rw [if_neg (by simp [hout]), dif_pos ⟨hg ▸ g.isLt, hk ▸ k.isLt⟩]
  simp only [hg, hk]
  rfl

theorem exec_syncDump_of_holds {v : RegView} (h : Holds s slot 0x33 img) (hout : snapOut s slot = false)
    (hv : regionView s none 0 (BitVec.ofNat 16 (fieldAt img 0x10 2)) = some v) :
    exec (.syncDump slot) s = .next (
      if dumpPlace v ∧ fieldAt img 0x18 8 + 43072 ≤ v.limit then
        { s with sync := { s.sync with snapReq := s.sync.snapReq ++ [.mailbox slot] } }
      else endBackground s slot 0xA2 []) := by
  change execSyncDump slot s = _
  rw [execSyncDump, runMailbox_of_holds h]
  refine congrArg Host.Outcome.next ?_
  dsimp only
  rw [if_neg (by simp [hout]), hv]
  rfl

end Commands

/-- Settles O31: each command by what its image asks and what its tally, gate or region is. -/
theorem mailboxSynchronisation : Obligations.MailboxSynchronisation := by
  unfold Obligations.MailboxSynchronisation
  intro s slot img t g k n v
  refine ⟨?_, ?_, ?_, ?_⟩
  · rintro hheld ht rfl
    rw [exec_signal_of_holds hheld ht]
    refine ⟨fun hn ho => ?_, fun hn ho => ?_, fun hn => ?_⟩
    · rw [if_neg hn, if_neg ho]
      rfl
    · rw [if_neg hn, if_pos ho]
    · rw [if_pos hn]
  · intro hheld hg
    rw [exec_gatePorts_of_holds hheld hg]
    refine ⟨fun hp ho hm => ?_, fun hrefused => ?_⟩
    · rw [if_neg (not_or.2 ⟨Nat.not_lt.2 hp, not_or.2 ⟨ho, not_not.2 hm⟩⟩)]
    · rw [if_pos (.inr hrefused)]
  · intro hheld hout hg hk
    rw [exec_gateArrive_of_holds hheld hout hg hk]
    refine ⟨fun ho hm hp => ?_, fun hrefused => ?_⟩
    · rw [if_neg (not_or.2 ⟨ho, not_or.2 ⟨not_not.2 hm, by simp [hp]⟩⟩)]
    · rw [if_pos hrefused]
  · intro hheld hout hv
    rw [exec_syncDump_of_holds hheld hout hv]
    refine ⟨fun hplace hroom => ?_, fun hpast => ?_⟩
    · rw [if_pos ⟨hplace, hroom⟩]
    · rw [if_neg (by omega)]

end Sys2Proof.Machine

/-! ## O26: waiters of a tick (R300, R302, R304) -/

namespace Sys2Proof.Machine

/-! ### A tick in which nothing comes in from outside the store

What the store and the pans see of such a tick is the service of its waiters (`serveWaiters`), and the waits that expire. -/

/-- What the queues, the lanes and the host interface leave alone in a tick. -/
def storeSide (s : State) : SyncSt × Tab Pan × NetSt × List TriyxLine := (s.sync, s.pans, s.net, s.svc.queue)

theorem storeSide_closeWindow (s : State) (n : LaneIx) (bounds : Bool) :
    storeSide (closeWindow s n bounds) = storeSide s := by
  unfold closeWindow
  dsimp only
  split
  · rfl
  · split
    · rfl
    · rfl

theorem storeSide_closeWindows (s : State) : storeSide (closeWindows s) = storeSide s := by
  unfold closeWindows
  exact foldl_keeps storeSide _ (fun _ _ => (storeSide_closeWindow _ _ _).trans (storeSide_closeWindow _ _ _)) _ _

theorem storeSide_queueUpset (s : State) (u : Nat × Nat) : storeSide (queueUpset s u) = storeSide s := by
  unfold queueUpset
  split
  case h_6 => split <;> rfl
  all_goals rfl

theorem storeSide_drainNotices (s : State) : storeSide (drainNotices s) = storeSide s := by
  unfold drainNotices pushNotice
  split
  · rfl
  · split
    · rfl
    · split <;> rfl

theorem storeSide_queues (s : State) (ups : List (Nat × Nat)) :
    storeSide (drainAllNotices (syncQueues (ups.foldl queueUpset s))) = storeSide s := by
  unfold drainAllNotices
  rw [foldl_keeps storeSide _ (fun r _ => storeSide_drainNotices r)]
  exact foldl_keeps storeSide queueUpset storeSide_queueUpset ups s

/-- A port that no frame waits for takes nothing. -/
theorem portTurn_of_no_frames {s : State} {n : PortIx} (h : (portOf s n).frames = []) : portTurn s n = s := by
  simp [portTurn, serveFront, h, serveFrames, takePackets]

theorem nextLine_of_no_line {s : State} (h : s.svc.queue = []) : nextLine s = s := by
  unfold nextLine
  rw [h]

/-- What XON leaves alone. -/
theorem releaseFlow_leaves (s : State) :
    ((releaseFlow s).sync, (releaseFlow s).pans, (releaseFlow s).svc) = (s.sync, s.pans, s.svc) := by
  refine foldl_keeps (fun r => (r.sync, r.pans, r.svc)) _ (fun r n => ?_) _ s
  split <;> rfl

/-- A tick at whose end no frame and no line waits leaves the store and the pans alone as its queues come through. -/
theorem crossTick_of_calm {s : State} (h : Calm s) (r : TickReq) :
    (crossTick s r).sync = s.sync ∧ (crossTick s r).pans = s.pans := by
  obtain ⟨hports, hlines⟩ := h
  have hside := storeSide_queues s r.upsets
  unfold crossTick
  generalize drainAllNotices (syncQueues (r.upsets.foldl queueUpset s)) = q at hside
  simp only [storeSide, Prod.mk.injEq] at hside
  obtain ⟨hsync, hpans, hnet, hqueue⟩ := hside
  have hturn : ∀ n, portTurn q n = q := fun n => portTurn_of_no_frames (by rw [portOf, hnet]; exact hports n)
  have hflow := releaseFlow_leaves q
  simp only [Prod.mk.injEq] at hflow
  obtain ⟨hfsync, hfpans, hfsvc⟩ := hflow
  simp only [List.foldl_fixed' hturn, nextLine_of_no_line (s := releaseFlow q) (by rw [hfsvc, hqueue, hlines])]
  split
  · exact ⟨hfsync.trans hsync, hfpans.trans hpans⟩
  · exact ⟨hfsync.trans hsync, hfpans.trans hpans⟩

/-! ### What the service of waiters leaves of the rest -/

/-- What nothing in the tick below touches but arrivals, hand operations and requests for snapshots. -/
def tickInbox (s : State) :=
  (s.sync.portArrive, s.sync.panArrive, s.sync.handBar0, s.sync.handTriyx, s.sync.newPorts, s.sync.snapReq, s.net, s.svc.queue)

theorem tickInbox_serveWaiter (s : State) (w : Waiter) : tickInbox (serveWaiter s w) = tickInbox s := by
  unfold serveWaiter
  dsimp only
  split
  · rfl
  · split <;> rfl

theorem tickInbox_serveCore (s : State) (c : CoreWait) : tickInbox (serveCore s c) = tickInbox s := by
  unfold serveCore
  dsimp only
  split
  · rfl
  · split <;> rfl

theorem tickInbox_serveWaiters (s : State) : tickInbox (serveWaiters s) = tickInbox s := by
  refine foldl_keeps tickInbox serveStanding (fun r w => ?_) _ _
  cases w with
  | pan w => exact tickInbox_serveWaiter r w
  | core c => exact tickInbox_serveCore r c

theorem tickInbox_expireWaiters (s : State) (now : Dword) : tickInbox (expireWaiters s now) = tickInbox s := by
  unfold expireWaiters
  exact foldl_keeps tickInbox (fun r w => completeWait r w 0) (fun _ _ => rfl) _ _

/-- Nothing has come in for the tick but waits: no signal, arrival, hand operation, request for a snapshot, frame or line. -/
structure QuietTick (s : State) : Prop where
  calm : Calm s
  arrived : s.sync.arrived = []
  portArrive : s.sync.portArrive = []
  panArrive : s.sync.panArrive = []
  handBar0 : s.sync.handBar0 = []
  handTriyx : s.sync.handTriyx = []
  newPorts : s.sync.newPorts = []
  snapReq : s.sync.snapReq = []

theorem withSync_self {s : State} {x : SyncSt} (h : x = s.sync) : { s with sync := x } = s := by
  subst h
  rfl

theorem applySignals_of_none {s : State} (h : s.sync.arrived = []) : applySignals s = s := by
  rw [applySignals, h]
  exact withSync_self (by rw [← h])

theorem applyGates_of_none {s : State} (hports : s.sync.portArrive = []) (hpans : s.sync.panArrive = []) :
    applyGates s = s := by
  simp only [applyGates, hports, hpans, sortBy, List.foldl_nil, List.map_nil, List.append_nil, distinct]
  refine withSync_self ?_
  generalize s.sync = x at hports hpans
  cases x
  simp_all

theorem takeSnaps_of_none {s : State} (h : s.sync.snapReq = []) : takeSnaps s = s := by
  rw [takeSnaps, h]
  refine withSync_self ?_
  generalize s.sync = x at h
  cases x
  simp_all

theorem applyStep1_of_none {s : State} (hbar0 : s.sync.handBar0 = []) (htriyx : s.sync.handTriyx = [])
    (hports : s.sync.newPorts = []) : applyStep1 s = s := by
  simp only [applyStep1, hbar0, htriyx, hports, List.foldl_nil]
  refine withSync_self ?_
  generalize s.sync = x at hbar0 htriyx hports
  cases x
  simp_all

/-- The waiters of a tick as its end leaves them. -/
def waitersServed (s : State) : State := expireWaiters (serveWaiters s) s.tick

theorem tickInbox_waitersServed (s : State) : tickInbox (waitersServed s) = tickInbox s :=
  (tickInbox_expireWaiters _ _).trans (tickInbox_serveWaiters s)

theorem endOfTick_of_quiet {s : State} (h : QuietTick s) : endOfTick s = waitersServed s := by
  have hin := tickInbox_waitersServed s
  simp only [tickInbox, Prod.mk.injEq] at hin
  obtain ⟨hport, hpan, -, -, -, hsnap, -, -⟩ := hin
  rw [endOfTick, applySignals_of_none h.arrived]
  change takeSnaps (applyGates (waitersServed s)) = _
  rw [applyGates_of_none (hport.trans h.portArrive) (hpan.trans h.panArrive), takeSnaps_of_none (hsnap.trans h.snapReq)]

/-- What the store and the pans are after a quiet tick. -/
theorem exec_syncStoreTick_of_quiet {s : State} (h : QuietTick s) (tko : Bool) (ups : List (Nat × Nat)) :
    ∃ t, exec (.syncStoreTick ⟨0, tko, [], ups⟩) s = .next t ∧ t.sync = (waitersServed s).sync ∧
      t.pans = (waitersServed s).pans := by
  have hin := tickInbox_waitersServed s
  simp only [tickInbox, Prod.mk.injEq] at hin
  obtain ⟨-, -, hbar0, htriyx, hports, -, hnet, hqueue⟩ := hin
  have hstep : applyStep1 (passTicks (waitersServed s) 1) = passTicks (waitersServed s) 1 :=
    applyStep1_of_none (hbar0.trans h.handBar0) (htriyx.trans h.handTriyx) (hports.trans h.newPorts)
  have hclose := storeSide_closeWindows (passTicks (waitersServed s) 1)
  simp only [storeSide, Prod.mk.injEq] at hclose
  obtain ⟨hcsync, hcpans, hcnet, hcqueue⟩ := hclose
  have hcalm : Calm (closeWindows (passTicks (waitersServed s) 1)) := by
    refine ⟨fun n => ?_, hcqueue.trans (hqueue.trans h.calm.2)⟩
    rw [portOf, hcnet.trans hnet]
    exact h.calm.1 n
  obtain ⟨hsync, hpans⟩ := crossTick_of_calm hcalm ⟨0, tko, [], ups⟩
  refine ⟨_, rfl, ?_, ?_⟩
  · simp only [List.foldl_nil, endOfTick_of_quiet h, hstep]
    exact hsync.trans hcsync
  · simp only [List.foldl_nil, endOfTick_of_quiet h, hstep]
    exact hpans.trans hcpans

/-! ### One or two waiters -/

section Waiters

variable {s : State} {w : Waiter}

/-- The state in which the list of waits has been taken up, to be served (step 4 of R302). -/
def listTaken (s : State) : State := { s with sync := { s.sync with waiters := [], coreWaits := [] } }

theorem serveWaiters_of_one (hw : s.sync.waiters = [w]) (hc : s.sync.coreWaits = []) :
    serveWaiters s = serveWaiter (listTaken s) w := by
  rw [serveWaiters, hw, hc]
  rfl

/-- The older of two waits, then the lower tenant, then the lower logical pan, is served first, whatever order they stand in. -/
theorem serveWaiters_of_two {w1 w2 : Waiter} (hw : s.sync.waiters = [w1, w2] ∨ s.sync.waiters = [w2, w1])
    (hc : s.sync.coreWaits = []) (hlt : waitOrder (.pan w1) < waitOrder (.pan w2)) :
    serveWaiters s = serveWaiter (serveWaiter (listTaken s) w1) w2 := by
  have hsort : sortBy waitOrder (s.sync.waiters.map .pan ++ s.sync.coreWaits.map .core) = [.pan w1, .pan w2] := by
    rcases hw with hw | hw
    · simp [hw, hc, sortBy, insertBy, Nat.not_lt.2 hlt.le]
    · simp [hw, hc, sortBy, insertBy, hlt]
  rw [serveWaiters, hsort]
  rfl

theorem expireWaiters_of_none {now : Dword} (hw : ∀ v ∈ s.sync.waiters, v.expiry = none) (hc : s.sync.coreWaits = []) :
    expireWaiters s now = s := by
  have hlate : ∀ v ∈ s.sync.waiters, waitLate v.expiry now = false := fun v hv => by rw [hw v hv]; rfl
  have hnone : (s.sync.waiters.filter fun w => waitLate w.expiry now) = [] := by
    simpa [List.filter_eq_nil_iff] using hlate
  have hall : (s.sync.waiters.filter fun w => !waitLate w.expiry now) = s.sync.waiters := by
    simpa [List.filter_eq_self] using hlate
  rw [expireWaiters, hnone, hall, hc]
  refine withSync_self ?_
  generalize s.sync = x at hc
  cases x
  simp_all

theorem serveWaiter_of_zero (h : (tallyOf s w.tly).value = 0) :
    serveWaiter s w = { s with sync := { s.sync with waiters := s.sync.waiters ++ [w] } } := if_pos h

/-- A wait on a tally of 1 or more takes 1, if it consumes, and completes with 1. -/
theorem serveWaiter_of_pos (h : (tallyOf s w.tly).value ≠ 0) :
    serveWaiter s w = completeWait
      (if w.consuming then
        setTally s w.tly.val { tallyOf s w.tly with value := (tallyOf s w.tly).value - 1, hand := false } else s) w 1 := if_neg h

theorem panOf_completeWait {rd : Reg5} (h : (panOf s w.pan).wait = .tally rd) (v : Dword) :
    panOf (completeWait s w v) w.pan = { (panOf s w.pan).writeG rd.toNat v with wait := .none } := by
  rw [completeWait, panOf_modPan, if_pos rfl, h]

/-- The only wait of a tick, on a tally of 1 or more. -/
theorem waitersServed_of_pos {rd : Reg5} (hw : s.sync.waiters = [w]) (hc : s.sync.coreWaits = [])
    (hwait : (panOf s w.pan).wait = .tally rd) (hval : (tallyOf s w.tly).value ≠ 0) :
    (waitersServed s).sync.waiters = [] ∧
      panOf (waitersServed s) w.pan = { (panOf s w.pan).writeG rd.toNat 1 with wait := .none } ∧
      (tallyOf (waitersServed s) w.tly).value =
        (if w.consuming then (tallyOf s w.tly).value - 1 else (tallyOf s w.tly).value) := by
  have hserve : serveWaiters s = completeWait (if w.consuming then setTally (listTaken s) w.tly.val
      { tallyOf s w.tly with value := (tallyOf s w.tly).value - 1, hand := false } else listTaken s) w 1 :=
    (serveWaiters_of_one hw hc).trans (serveWaiter_of_pos hval)
  cases hcons : w.consuming
  case' true =>
    rw [hcons, if_pos rfl] at hserve
    have hkeep : waitersServed s = serveWaiters s := expireWaiters_of_none (by rw [hserve]; simp [completeWait, setTally, listTaken]) (by rw [hserve]; rfl)
  case' false =>
    rw [hcons, if_neg (by simp)] at hserve
    have hkeep : waitersServed s = serveWaiters s := expireWaiters_of_none (by rw [hserve]; simp [completeWait, listTaken]) (by rw [hserve]; rfl)
  all_goals
    rw [hkeep, hserve]
    refine ⟨rfl, panOf_completeWait hwait 1, ?_⟩
  · rfl
  · exact congrArg Tally.value ((tallyOf_setTally _ _ _ _).trans (if_pos rfl))

/-- The only wait of a tick, on a tally of 0: it stands as it did. -/
theorem waitersServed_of_zero (hw : s.sync.waiters = [w]) (hc : s.sync.coreWaits = []) (hval : (tallyOf s w.tly).value = 0) :
    waitersServed s = expireWaiters s s.tick := by
  have hserve : serveWaiters s = s := by
    rw [serveWaiters_of_one hw hc, serveWaiter_of_zero (s := listTaken s) hval]
    refine withSync_self (s := s) (x := { s.sync with waiters := [w], coreWaits := [] }) ?_
    generalize s.sync = x at hw hc
    cases x
    simp_all
  rw [waitersServed, hserve]

/-- Its expiry tick has come: it completes with 0. -/
theorem expireWaiters_of_late {rd : Reg5} {e : Nat} (hw : s.sync.waiters = [w]) (hwait : (panOf s w.pan).wait = .tally rd)
    (hexpiry : w.expiry = some e) {now : Dword} (he : e ≤ now.toNat) :
    (expireWaiters s now).sync.waiters = [] ∧
      panOf (expireWaiters s now) w.pan = { (panOf s w.pan).writeG rd.toNat 0 with wait := .none } := by
  have hlate : waitLate w.expiry now = true := by simp [hexpiry, waitLate, he]
  simp only [expireWaiters, hw, List.filter_cons, hlate, List.filter_nil, if_true, Bool.not_true, List.foldl_cons,
    List.foldl_nil]
  exact ⟨rfl, panOf_completeWait hwait 0⟩

/-- Two consuming waits on a tally of 1: the first takes it, the second stands. -/
theorem waitersServed_of_two {w1 w2 : Waiter} (hw : s.sync.waiters = [w1, w2] ∨ s.sync.waiters = [w2, w1])
    (hc : s.sync.coreWaits = []) (htly : w1.tly = w2.tly) (hcons : w1.consuming = true) (hexpiry : w2.expiry = none)
    (hval : (tallyOf s w1.tly).value = 1) (hlt : waitOrder (.pan w1) < waitOrder (.pan w2)) :
    (waitersServed s).sync.waiters = [w2] ∧ (tallyOf (waitersServed s) w1.tly).value = 0 := by
  have hfirst : serveWaiter (listTaken s) w1 = completeWait (setTally (listTaken s) w1.tly.val
      { tallyOf s w1.tly with value := 0, hand := false }) w1 1 := by
    have htaken : tallyOf (listTaken s) w1.tly = tallyOf s w1.tly := rfl
    rw [serveWaiter_of_pos (by rw [htaken, hval]; decide), if_pos hcons, htaken, hval]
    rfl
  have hzero : ∀ r, r.sync = (serveWaiter (listTaken s) w1).sync → (tallyOf r w1.tly).value = 0 := by
    intro r hr
    rw [tallyOf, hr, hfirst]
    exact congrArg Tally.value ((tallyOf_setTally _ _ _ _).trans (if_pos rfl))
  have hserve := serveWaiters_of_two hw hc hlt
  rw [serveWaiter_of_zero (htly ▸ hzero _ rfl)] at hserve
  have hkeep : waitersServed s = serveWaiters s := expireWaiters_of_none (by
      rw [hserve, hfirst]
      simp [completeWait, setTally, listTaken, hexpiry]) (by rw [hserve, hfirst]; rfl)
  rw [hkeep, hserve]
  refine ⟨by rw [hfirst]; rfl, ?_⟩
  exact hzero (serveWaiter (listTaken s) w1) rfl

end Waiters

/-! ### WAIT_TIMEOUT -/

theorem exec_waitTimeout {s : State} {p : PanIx} {w : Waiter} {e : Nat}
    (hfind : s.sync.waiters.find? (fun v => v.pan == p) = some w) (hexpiry : w.expiry = some e) :
    exec (.waitTimeout p) s = if e ≤ s.tick.toNat ∧ s.sync.arrived.isEmpty ∧ (tallyOf s w.tly).value = 0 then
      .next (completeWait { s with sync := { s.sync with waiters := s.sync.waiters.filter fun v => v.pan != p } } w 0)
      else .next s := by
  change execWaitTimeout p s = _
  simp only [execWaitTimeout, hfind, hexpiry]

/-- Settles O26: the tick is quiet but for its waits, and what it leaves is `waitersServed`. -/
theorem waitersAreServed : Obligations.WaitersAreServed := by
  unfold Obligations.WaitersAreServed
  refine ⟨?_, ?_⟩
  · intro s w w1 w2 rd tko ups hcalm harrived hport hpan hbar0 htriyx hports hsnap hcore
    obtain ⟨t, hexec, hsync, hpans⟩ :=
      exec_syncStoreTick_of_quiet ⟨hcalm, harrived, hport, hpan, hbar0, htriyx, hports, hsnap⟩ tko ups
    have hpanOf : ∀ p, panOf t p = panOf (waitersServed s) p := fun p => by rw [panOf, hpans]; rfl
    have htallyOf : ∀ y, tallyOf t y = tallyOf (waitersServed s) y := fun y => by rw [tallyOf, hsync]; rfl
    refine ⟨fun hw hwait hval => ?_, fun hw hwait hval => ⟨fun hnone => ?_, fun e hexpiry he => ?_⟩,
      fun hw htly hcons1 _ _ hexpiry2 hval hlt => ?_⟩
    · obtain ⟨hwaiters, hpan, hvalue⟩ := waitersServed_of_pos hw hcore hwait hval
      refine ⟨t, hexec, hsync ▸ hwaiters, ?_, ?_, ?_⟩
      · rw [hpanOf, hpan]
      · rw [hpanOf, hpan]
      · rw [htallyOf, hvalue]
    · have hstands : waitersServed s = s := (waitersServed_of_zero hw hcore hval).trans
        (expireWaiters_of_none (by simp [hw, hnone]) hcore)
      exact ⟨t, hexec, by rw [hsync, hstands, hw], by rw [hpans, hstands]⟩
    · obtain ⟨hwaiters, hpan⟩ := expireWaiters_of_late hw hwait hexpiry he
      rw [← waitersServed_of_zero hw hcore hval] at hwaiters hpan
      refine ⟨t, hexec, hsync ▸ hwaiters, ?_, ?_⟩
      · rw [hpanOf, hpan]
      · rw [hpanOf, hpan]
    · obtain ⟨hwaiters, hvalue⟩ := waitersServed_of_two hw hcore htly hcons1 hexpiry2 hval hlt
      exact ⟨t, hexec, hsync ▸ hwaiters, by rw [htallyOf, hvalue]⟩
  · intro s p w e hfind hexpiry
    rw [exec_waitTimeout hfind hexpiry]
    refine ⟨fun he harrived hval => ?_, fun he => ?_, fun harrived => ?_, fun hval => ?_⟩
    · rw [if_pos ⟨he, by simp [harrived], hval⟩]
      rfl
    · exact if_neg fun h => by omega
    · exact if_neg fun h => harrived (List.isEmpty_iff.1 h.2.1)
    · exact if_neg fun h => hval h.2.2

end Sys2Proof.Machine

/-! ## O27: an entry of the event log that the reply of its own command overwrites (R290, R330, R337, R447) -/

namespace Sys2Proof.Machine

section Overrun

variable {s : State} {n : Nat}

/-! ### Events that come behind an entry

The event log has 16,384 entries. Once as many events have come behind ERR_TLY_HAND, its entry is another. -/

/-- `n` events have come into the log, which was empty, and the first of them alone may be ERR_TLY_HAND (0x83): once the log has
come round, entry 0 is another. -/
def ComesRound (l : LogSt) (n : Nat) : Prop :=
  l.evHead = n % 16384 ∧ (16384 < n → (tabGet LogEntry.zero l.events 0).code ≠ 0x83)

theorem comesRound_addEvent {l : LogSt} (h : ComesRound l n) {e : LogEntry} (he : e.code ≠ 0x83) :
    ComesRound (l.addEvent e) (n + 1) := by
  obtain ⟨hhead, hround⟩ := h
  refine ⟨by simp only [LogSt.addEvent, hhead]; omega, fun hlt => ?_⟩
  by_cases h0 : l.evHead = 0
  · have hnew := addEvent_head l e
    rw [h0] at hnew
    rw [hnew]
    exact he
  · rw [addEvent_other l e (Ne.symm h0)]
    exact hround (by omega)

/-- While the system reach is held HOST_EVQ takes nothing, and the notice that it has no room for is logged as well (R326, R336). -/
theorem logEvent_log_of_held (h : s.rst.sysHeld = true) (code : Byte) (detail : List Byte) (t : Option TenIx) :
    (logEvent s code detail t).log =
      (s.log.addEvent (eventEntry s code detail t)).addEvent (eventEntry s 0x91 [1] none) :=
  if_pos (by simp [evqFull, h])

theorem comesRound_notePoison (hheld : s.rst.sysHeld = true) (h : ComesRound s.log n) (i e : Nat) :
    ComesRound (notePoison s i e true).log (n + 2) := by
  have hlog := logEvent_log_of_held (s := modQErr s i fun q => { q with par := satAdd q.par 1 }) hheld 0x90
    (BitVec.ofNat 8 i :: leBytes 2 e) none
  rw [notePoison, if_pos rfl, hlog]
  have hpoison : (0x90 : Byte) ≠ 0x83 := by decide
  have hfull : (0x91 : Byte) ≠ 0x83 := by decide
  exact comesRound_addEvent (comesRound_addEvent h hpoison) hfull

/-- Each poisoned word that is read logs two events. -/
theorem comesRound_notePoisons (es : List Nat) (i : Nat) (hheld : s.rst.sysHeld = true) (h : ComesRound s.log n) :
    ComesRound (es.foldl (fun r e => notePoison r i e true) s).log (n + 2 * es.length) := by
  induction es generalizing s n with
  | nil => exact h
  | cons e es ih =>
    have hrest := ih (s := notePoison s i e true) hheld (comesRound_notePoison hheld h i e)
    rwa [show n + 2 * (e :: es).length = n + 2 + 2 * es.length by rw [List.length_cons]; omega]

/-! ### Lines of Triyx that find no room (R326, R337) -/

/-- The queue of the lines once the port has sent what stands there. -/
def Queue.sentOff (q : Queue) : Queue :=
  Queue.settle { q with rp := (q.rp + q.count 4096) % 8192, cpSeen := if q.seen 4096 < q.count 4096 then gray q.cp else q.cpSeen }

/-- The queue with one more line in it. -/
def Queue.withLine (q : Queue) (o : Out) : Queue := (q.packet 4096 (charWords (lineText o)) none).settle

theorem queueOf_notePoisons (es : List Nat) (i j : Nat) (s : State) :
    queueOf (es.foldl (fun r e => notePoison r i e true) s) j = queueOf s j :=
  foldl_keeps (fun r => queueOf r j) (fun r e => notePoison r i e true) (fun _ _ => rfl) es s

theorem queueOf_drainLines (s : State) : queueOf (drainLines s) 41 = (queueOf s 41).sentOff := by
  have htake := queueOf_notePoisons (queuePoison s 41 ((queueOf s 41).count 4096)) 41 41
    (queueTake s 41 ((queueOf s 41).count 4096))
  have hsent : queueOf (queueTake s 41 ((queueOf s 41).count 4096)) 41 = (queueOf s 41).sentOff := by
    rw [queueTake, queueOf_modQueue, if_pos rfl]
    rfl
  unfold drainLines takeChecked
  dsimp only
  split <;> exact htake.trans hsent

theorem queueOf_queueSend_lines (s : State) (o : Out) :
    queueOf (queueSend s 41 (charWords (lineText o)) none) 41 = (queueOf s 41).withLine o := by
  have hwrite := queueOf_modQueue s 41 41 fun q => q.packet (queueDepth 41) (charWords (lineText o)) none
  rw [if_pos rfl] at hwrite
  exact hwrite

theorem queueOf_sendLine_of_full {o : Out} (h : (queueOf s 41).room 4096 < (lineText o).length) :
    queueOf (sendLine s o) 41 = (queueOf s 41).sentOff.withLine o := by
  unfold sendLine
  dsimp only
  rw [if_pos h, ← queueOf_drainLines]
  exact queueOf_queueSend_lines (drainLines s) o

theorem sendLine_log_of_full {o : Out} (h : (queueOf s 41).room 4096 < (lineText o).length) :
    (sendLine s o).log = (drainLines s).log := by
  unfold sendLine
  dsimp only
  rw [if_pos h, emit_log, queueSend_log]

/-- What the port sends is checked as it is read: its poisoned words are logged. -/
theorem comesRound_drainLines (hheld : s.rst.sysHeld = true) (h : ComesRound s.log n) :
    ComesRound (drainLines s).log (n + 2 * (queuePoison s 41 ((queueOf s 41).count 4096)).length) := by
  have hnotes := comesRound_notePoisons (s := queueTake s 41 ((queueOf s 41).count 4096))
    (queuePoison s 41 ((queueOf s 41).count 4096)) 41 hheld h
  unfold drainLines takeChecked
  dsimp only
  split <;> exact hnotes

theorem sendLine_rst (s : State) (o : Out) : (sendLine s o).rst = s.rst := by
  have hnote : ∀ (r : State) (e : Nat), (notePoison r 41 e true).rst = r.rst := fun _ _ => rfl
  have hdrain : (drainLines s).rst = s.rst := by
    unfold drainLines takeChecked
    dsimp only
    split <;> exact foldl_keeps State.rst _ hnote _ _
  unfold sendLine
  dsimp only
  rw [emit_rst, queueSend_rst]
  split
  · exact hdrain
  · rfl

theorem length_lineText_line_pos (seq : Half) (ws : List Dword) : 0 < (lineText (.line seq ws)).length := Nat.zero_lt_succ _

theorem length_lineText_finalLine_pos (seq : Half) (f : FinalLine) : 0 < (lineText (.finalLine seq f)).length :=
  Nat.zero_lt_succ _

/-- A line for which the queue has no room makes the port send what stands there, and the poisoned words of that are logged. -/
theorem comesRound_sendLine (hheld : s.rst.sysHeld = true) (h : ComesRound s.log n) {o : Out}
    (hfull : (queueOf s 41).room 4096 < (lineText o).length) :
    ComesRound (sendLine s o).log (n + 2 * (queuePoison s 41 ((queueOf s 41).count 4096)).length) := by
  rw [sendLine_log_of_full hfull]
  exact comesRound_drainLines hheld h

/-- An entry that nothing has written fails its parity check (R330). -/
theorem length_queuePoison_of_empty {i : Nat} (h : (queueOf s i).mem = []) (n : Nat) : (queuePoison s i n).length = n := by
  have hall : ∀ e, (tabGet QEntry.reset (queueOf s i).mem e).poisoned = true := fun e => by
    rw [h]
    exact (by decide : QEntry.reset.poisoned = true)
  simp [queuePoison, hall]

/-- The next word fails its parity check. -/
theorem length_queuePoison_pos {i : Nat} (hn : 0 < n)
    (h : (tabGet QEntry.reset (queueOf s i).mem ((queueOf s i).rp % queueDepth i)).poisoned = true) :
    0 < (queuePoison s i n).length := by
  refine List.length_pos_of_mem (a := queueRead s i % queueDepth i) (List.mem_filter.2 ⟨List.mem_map.2 ⟨0, ?_, rfl⟩, ?_⟩)
  · exact List.mem_range.2 hn
  · rwa [queueRead, Nat.mod_mod]

/-! ### The card whose lines do not fit -/

/-- The queue of the lines (41) with 8,191 committed words, none of them ever written, and its write pointer elsewhere. -/
def crowdedLines : Queue := { Queue.reset with wp := 5000, cp := 8191 }

/-- The card as at reset, but for that queue. -/
def crowdedState : State := { State.reset with host := { State.reset.host with queues := [(41, crowdedLines)] } }

/-- The line that reports the old and the new value, 0 and 0. -/
def zeroLine : Out := .line 0 [0, 0]

/-- After that line the queue holds words again that fail their parity check, and has no room. -/
theorem crowdedLines_after :
    (crowdedLines.sentOff.withLine zeroLine).room 4096 = 0 ∧ 0 < (crowdedLines.sentOff.withLine zeroLine).count 4096 ∧
      (tabGet QEntry.reset (crowdedLines.sentOff.withLine zeroLine).mem
        ((crowdedLines.sentOff.withLine zeroLine).rp % 4096)).poisoned = true := by
  decide +kernel

end Overrun

/-- ERR_TLY_HAND has been logged for a hand operation that writes 0 to a tally of 0, and its command has yet to be answered. -/
def zeroLogged : State :=
  logEvent
    { setTally crowdedState 0 { tallyOf crowdedState 0 with value := 0, hand := true } with
      sync := { (setTally crowdedState 0 { tallyOf crowdedState 0 with value := 0, hand := true }).sync with handDone := 1 } } 0x83
    ([1, 0] ++ leBytes 2 0 ++ [0] ++ leBytes 4 0 ++ leBytes 4 0) none

theorem comesRound_zeroLogged : ComesRound zeroLogged.log 2 := by
  refine ⟨rfl, fun h => absurd h (by decide)⟩

theorem applyHand_crowdedState :
    applyHand true crowdedState (.tlySet 0 0) =
      finalReply (sendLine zeroLogged zeroLine) { err := none, lines := 1, text := [] } := by
  rfl

theorem queueOf_zeroLogged : queueOf zeroLogged 41 = crowdedLines := rfl

theorem zeroLine_finds_no_room : (queueOf zeroLogged 41).room 4096 < (lineText zeroLine).length := by
  rw [queueOf_zeroLogged, show crowdedLines.room 4096 = 0 by decide]
  exact length_lineText_line_pos 0 [0, 0]

/-- As the data line goes out the port sends the 8,191 words. -/
theorem comesRound_zeroLine : ComesRound (sendLine zeroLogged zeroLine).log (2 + 2 * 8191) := by
  have hdrain := comesRound_sendLine rfl comesRound_zeroLogged zeroLine_finds_no_room
  rwa [length_queuePoison_of_empty (by rw [queueOf_zeroLogged]; rfl), queueOf_zeroLogged,
    show crowdedLines.count 4096 = 8191 by decide] at hdrain

theorem queueOf_zeroLine : queueOf (sendLine zeroLogged zeroLine) 41 = crowdedLines.sentOff.withLine zeroLine := by
  rw [queueOf_sendLine_of_full zeroLine_finds_no_room, queueOf_zeroLogged]

/-- A final line for which there is no room, while the next word of the queue fails its parity check, makes the log come round. -/
theorem finalReply_comesRound {r : State} (hheld : r.rst.sysHeld = true) (hlog : ComesRound r.log (2 + 2 * 8191))
    (hroom : (queueOf r 41).room 4096 = 0) (hcount : 0 < (queueOf r 41).count 4096)
    (hpoison : (tabGet QEntry.reset (queueOf r 41).mem ((queueOf r 41).rp % 4096)).poisoned = true) (f : FinalLine) :
    (tabGet LogEntry.zero (finalReply r f).log.events 0).code ≠ 0x83 := by
  rw [finalReply_eq]
  generalize hfinal : modSvc r _ = u
  have hqueue : queueOf u 41 = queueOf r 41 := by rw [← hfinal]; rfl
  rw [← hqueue] at hroom hcount hpoison
  have hpos : 0 < (queuePoison u 41 ((queueOf u 41).count 4096)).length := length_queuePoison_pos hcount hpoison
  obtain ⟨-, hround⟩ := comesRound_sendLine (s := u) (n := 2 + 2 * 8191) (by rw [← hfinal]; exact hheld)
    (by rw [← hfinal]; exact hlog) (o := .finalLine (lastSeq r) f)
    (by rw [hroom]; exact length_lineText_finalLine_pos _ _)
  exact hround (by omega)

/-- Both lines of the reply make the port send what stands in the queue, and the second of the two overwrites the entry. -/
theorem hand_entry_overwritten :
    (tabGet LogEntry.zero (applyHand true crowdedState (.tlySet 0 0)).log.events 0).code ≠ 0x83 := by
  obtain ⟨hroom, hcount, hpoison⟩ := crowdedLines_after
  rw [← queueOf_zeroLine] at hroom hcount hpoison
  rw [applyHand_crowdedState]
  exact finalReply_comesRound (by rw [sendLine_rst]; rfl) comesRound_zeroLine hroom hcount hpoison _

/-- Refutes O27: its clause on ERR_TLY_HAND has the entry stand where the head of the event log was, whatever the lines of Triyx
hold. In `crowdedState`, whose queue 41 holds words that nothing has written, the reply of the hand operation makes the port
send them all, twice; each fails its parity check and is logged, the log comes round, and the entry is ERR_QUEUE_PARITY's. -/
theorem not_gatesAndHandOperations : ¬ Obligations.GatesAndHandOperations := by
  unfold Obligations.GatesAndHandOperations
  rintro ⟨-, hhand, -⟩
  obtain ⟨-, -, -, -, -, -, -, -, -, -, -, -, -, -, -, -, hcode, -⟩ := hhand crowdedState 0 0 0 true
  exact hand_entry_overwritten hcode

end Sys2Proof.Machine

/-! ## O53: a pond command that a system reset ends retires a bank, which the flash records (R197, R222, R399, R402) -/

namespace Sys2Proof.Machine

/-- CHECK of column 0 of a bank, without rewrite. -/
def checkOne : PondRun :=
  { op := 12, tag := 0, ten := none,
    cmd := { opHi := 0, fmtA := 0, fmtW := 0, bmask := 1, acc := false, winv := false, win := 0, flagsHi := 0, wbase := 0, nw := 0,
             rsv7 := 0, row := 0, col := 0, rsvB := 0, count := 1, stride := 0, adst := 0, asrc := 0, sig := 0, aux := 0, rsv1C := 0 } }

/-- The system domains run, and the first bank of the card runs that CHECK on a column whose first word is uncorrectable. -/
def checkRuns : State :=
  { State.reset with
    mem := writeStored [] (dramKey 0 0 0 0 0) (spoilWord (encodeWord 0)),
    dram := { DramSt.reset with units := [(0, { Unit.reset with running := some checkOne })] },
    rst := { RstSt.reset with sysHeld := false } }

theorem checkRuns_canon : Canon checkRuns := by
  unfold Canon
  decide

theorem checkRuns_memForm : Memory.wf checkRuns.mem = true := 
  writeStored_wf [] (dramKey 0 0 0 0 0) (spoilWord (encodeWord 0)) rfl

/-- The reset ends the CHECK, whose column retires the bank, and the retirement record in the flash takes it. -/
theorem rstN_records_retirement :
    (assertSource (modRst checkRuns fun x => { x with rstNLow := true }) 2 .system false).rst.flash ≠ checkRuns.rst.flash := by
  decide +kernel

/-- Refutes O53: its clause on RST_N has the flash stand. In `checkRuns`, before stacks go into self-refresh, pond mode is left
and the running CHECK ends (R197): it meets an uncorrectable column, the placer retires the bank (R399), and the record in
the flash changes (R402). -/
theorem not_resetSources : ¬ Obligations.ResetSources := by
  unfold Obligations.ResetSources
  intro h
  obtain ⟨-, hsystem, -⟩ := h checkRuns false false false 0 [] checkRuns_canon checkRuns_memForm
  obtain ⟨⟨u, hexec, -, -, -, -, -, -, -, -, -, -, -, -, -, hflash⟩, -⟩ := hsystem rfl rfl
  obtain rfl : assertSource (modRst checkRuns fun x => { x with rstNLow := true }) 2 .system false = u :=
    Host.Outcome.next.inj hexec
  exact rstN_records_retirement hflash

end Sys2Proof.Machine

/-! ## O4: the tables of numbered units keep their canonical form (R299, R310)

A command changes a table of numbered units only entry by entry, by filtering it, or by emptying it. `Canon.after_f`
states that what `f` makes of a card keeps the form of its tables; where `f` gives an answer or a read, `of_f` states it of
the card in it. -/

namespace Sys2Proof.Machine

/-! ### The fourteen tables -/

/-- What leaves the fourteen tables alone keeps their form. -/
theorem Canon.frame {s t : State} (h : Canon s)
    (e : (t.pans, t.ten, t.sch, t.dram.stk, t.dram.units, t.dram.banks, t.sync.tallies, t.sync.gates, t.host.lanes,
        t.host.rings, t.host.queues, t.net.ports, t.net.keys, t.net.qps) =
      (s.pans, s.ten, s.sch, s.dram.stk, s.dram.units, s.dram.banks, s.sync.tallies, s.sync.gates, s.host.lanes,
        s.host.rings, s.host.queues, s.net.ports, s.net.keys, s.net.qps)) : Canon t := by
  simp only [Prod.mk.injEq] at e
  obtain ⟨hpans, hten, hsch, hstk, hunits, hbanks, htallies, hgates, hlanes, hrings, hqueues, hports, hkeys, hqps⟩ := e
  simpa only [Canon, hpans, hten, hsch, hstk, hunits, hbanks, htallies, hgates, hlanes, hrings, hqueues, hports, hkeys,
    hqps] using h

section
variable {s : State} (h : Canon s)
include h

theorem Canon.put_pans {x : Tab Pan} (hx : tabWf Pan.reset s.pans = true → tabWf Pan.reset x = true) :
    Canon { s with pans := x } := by
  simp_all only [Canon, and_self]
theorem Canon.put_ten {x : Tab Tenant} (hx : tabWf Tenant.reset s.ten = true → tabWf Tenant.reset x = true) :
    Canon { s with ten := x } := by
  simp_all only [Canon, and_self]
theorem Canon.put_sch {x : Tab SysChan} (hx : tabWf SysChan.reset s.sch = true → tabWf SysChan.reset x = true) :
    Canon { s with sch := x } := by
  simp_all only [Canon, and_self]
theorem Canon.put_stk {x : Tab Stack} (hx : tabWf Stack.reset s.dram.stk = true → tabWf Stack.reset x = true) :
    Canon { s with dram := { s.dram with stk := x } } := by
  simp_all only [Canon, and_self]
theorem Canon.put_units {x : Tab Unit} (hx : tabWf Unit.reset s.dram.units = true → tabWf Unit.reset x = true) :
    Canon { s with dram := { s.dram with units := x } } := by
  simp_all only [Canon, and_self]
theorem Canon.put_banks {x : Tab BankSt} (hx : tabWf BankSt.reset s.dram.banks = true → tabWf BankSt.reset x = true) :
    Canon { s with dram := { s.dram with banks := x } } := by
  simp_all only [Canon, and_self]
theorem Canon.put_tallies {x : Tab Tally} (hx : tabWf Tally.reset s.sync.tallies = true → tabWf Tally.reset x = true) :
    Canon { s with sync := { s.sync with tallies := x } } := by
  simp_all only [Canon, and_self]
theorem Canon.put_gates {x : Tab GateSt} (hx : tabWf GateSt.reset s.sync.gates = true → tabWf GateSt.reset x = true) :
    Canon { s with sync := { s.sync with gates := x } } := by
  simp_all only [Canon, and_self]
theorem Canon.put_lanes {x : Tab Lane} (hx : tabWf Lane.reset s.host.lanes = true → tabWf Lane.reset x = true) :
    Canon { s with host := { s.host with lanes := x } } := by
  simp_all only [Canon, and_self]
theorem Canon.put_rings {x : Tab Ring} (hx : tabWf Ring.reset s.host.rings = true → tabWf Ring.reset x = true) :
    Canon { s with host := { s.host with rings := x } } := by
  simp_all only [Canon, and_self]
theorem Canon.put_queues {x : Tab Queue} (hx : tabWf Queue.reset s.host.queues = true → tabWf Queue.reset x = true) :
    Canon { s with host := { s.host with queues := x } } := by
  simp_all only [Canon, and_self]
theorem Canon.put_ports {x : Tab PortSt} (hx : tabWf PortSt.reset s.net.ports = true → tabWf PortSt.reset x = true) :
    Canon { s with net := { s.net with ports := x } } := by
  simp_all only [Canon, and_self]
theorem Canon.put_keys {x : Tab NetKey} (hx : tabWf NetKey.reset s.net.keys = true → tabWf NetKey.reset x = true) :
    Canon { s with net := { s.net with keys := x } } := by
  simp_all only [Canon, and_self]
theorem Canon.put_qps {x : Tab Qp} (hx : tabWf Qp.reset s.net.qps = true → tabWf Qp.reset x = true) :
    Canon { s with net := { s.net with qps := x } } := by
  simp_all only [Canon, and_self]

end

/-- A table whose entries are mapped under their numbers, and rebuilt without its default entries, is in canonical form. -/
theorem tabClean_map_wf {α : Type} [DecidableEq α] (d : α) (t : Tab α) (g : Nat × α → Nat × α) (hg : ∀ e, (g e).1 = e.1)
    (h : tabWf d t = true) : tabWf d (tabClean d (t.map g)) = true := by
  rw [tabWf_iff] at h ⊢
  refine ⟨.filter _ (List.pairwise_map.2 (h.1.imp ?_)), fun e he => by simpa using (List.mem_filter.1 he).2⟩
  intro a b hab
  rwa [hg, hg]

/-- A fold over a table keeps its form if each of its steps does. -/
theorem foldl_table_wf {α β : Type} [DecidableEq α] (d : α) (f : Tab α → β → Tab α) (xs : List β) (t : Tab α)
    (hf : ∀ r x, tabWf d r = true → tabWf d (f r x) = true) (h : tabWf d t = true) : tabWf d (xs.foldl f t) = true := by
  induction xs generalizing t with
  | nil => exact h
  | cons x xs ih => exact ih _ (hf t x h)

/-- A table whose entries are mapped under their numbers, none to the default, is in canonical form. -/
theorem tab_map_wf {α : Type} [DecidableEq α] (d : α) (t : Tab α) (g : Nat × α → Nat × α) (hg : ∀ e, (g e).1 = e.1)
    (hd : ∀ e, (g e).2 = d → e.2 = d) (h : tabWf d t = true) : tabWf d (t.map g) = true := by
  rw [tabWf_iff] at h ⊢
  refine ⟨List.pairwise_map.2 (h.1.imp ?_), ?_⟩
  · intro a b hab
    rwa [hg, hg]
  · simp only [List.forall_mem_map]
    exact fun e he => mt (hd e) (h.2 e he)

/-- A card with the stacks of another one. -/
theorem Canon.with_dram {s t : State} (hs : Canon s) (ht : Canon t) : Canon { s with dram := t.dram } := by
  simp_all only [Canon, and_self]

/-! ### The card inside a read, an answer or a pair -/

/-- The card that an answer gives, if it gives one, is in canonical form. -/
structure CanonAnswer (a : Answer) : Prop where
  of_next : ∀ {t}, a = .next t → Canon t

/-- The card that the read of a register leaves, if the register is there, is in canonical form. -/
structure CanonRead (o : RegRead) : Prop where
  of_read : ∀ {q}, o = some q → Canon q.2

/-- A card that may be there is in canonical form. -/
structure CanonSome (o : Option State) : Prop where
  of_some : ∀ {s}, o = some s → Canon s

/-- The card of a transfer, whether it ended or halted, is in canonical form. -/
structure CanonMoved (x : Except Mover State) : Prop where
  of_ok : ∀ {s}, x = .ok s → Canon s
  of_error : ∀ {m}, x = .error m → Canon m.s

/-- The card of a lane's drain, whether it ended or must wait, is in canonical form. -/
structure CanonDrained (x : Except Mover (State × Bool)) : Prop where
  of_ok : ∀ {d}, x = .ok d → Canon d.1
  of_error : ∀ {m}, x = .error m → Canon m.s

theorem CanonAnswer.next {s : State} (h : Canon s) : CanonAnswer (.next s) := ⟨by rintro _ ⟨⟩; exact h⟩
theorem CanonRead.some {q : Dword × State} (h : Canon q.2) : CanonRead (some q) := ⟨by rintro _ ⟨⟩; exact h⟩
theorem CanonRead.none : CanonRead none := ⟨by rintro _ ⟨⟩⟩
theorem CanonSome.some {s : State} (h : Canon s) : CanonSome (some s) := ⟨by rintro _ ⟨⟩; exact h⟩
theorem CanonSome.none : CanonSome none := ⟨by rintro _ ⟨⟩⟩
theorem CanonMoved.ok {s : State} (h : Canon s) : CanonMoved (.ok s) := ⟨by rintro _ ⟨⟩; exact h, by rintro _ ⟨⟩⟩
theorem CanonMoved.error {m : Mover} (h : Canon m.s) : CanonMoved (.error m) := ⟨by rintro _ ⟨⟩, by rintro _ ⟨⟩; exact h⟩
theorem CanonDrained.ok {d : State × Bool} (h : Canon d.1) : CanonDrained (.ok d) :=
  ⟨by rintro _ ⟨⟩; exact h, by rintro _ ⟨⟩⟩
theorem CanonDrained.error {m : Mover} (h : Canon m.s) : CanonDrained (.error m) :=
  ⟨by rintro _ ⟨⟩, by rintro _ ⟨⟩; exact h⟩

theorem Canon.of_fst {α : Type} {q : State × α} {s : State} {a : α} (e : q = (s, a)) (h : Canon q.1) : Canon s := by
  simpa only [e] using h
theorem Canon.of_fst_s {α : Type} {q : Mover × α} {m : Mover} {a : α} (e : q = (m, a)) (h : Canon q.1.s) : Canon m.s := by
  simpa only [e] using h
theorem Canon.of_snd {α : Type} {q : α × State} {s : State} {a : α} (e : q = (a, s)) (h : Canon q.2) : Canon s := by
  simpa only [e] using h
theorem Canon.getD {o : Option State} {s : State} (ho : CanonSome o) (h : Canon s) : Canon (o.getD s) := by
  cases o with
  | none => exact h
  | some t => exact ho.of_some rfl
theorem Canon.getD_snd {o : RegRead} {q : Dword × State} (ho : CanonRead o) (h : Canon q.2) : Canon (o.getD q).2 := by
  cases o with
  | none => exact h
  | some t => exact ho.of_read rfl

section
variable {c : Prop} [Decidable c] {α : Type}

theorem Canon.ite {s t : State} (hs : Canon s) (ht : Canon t) : Canon (if c then s else t) := by
  split <;> assumption
theorem Canon.dite {f : c → State} {g : ¬c → State} (hf : ∀ e, Canon (f e)) (hg : ∀ e, Canon (g e)) :
    Canon (if e : c then f e else g e) := by
  split
  · exact hf _
  · exact hg _
theorem Canon.dite_fst {f : c → State × α} {g : ¬c → State × α} (hf : ∀ e, Canon (f e).1) (hg : ∀ e, Canon (g e).1) :
    Canon (if e : c then f e else g e).1 := by
  split
  · exact hf _
  · exact hg _
theorem Canon.ite_fst {s t : State × α} (hs : Canon s.1) (ht : Canon t.1) : Canon (if c then s else t).1 := by
  split <;> assumption
theorem Canon.ite_snd {s t : α × State} (hs : Canon s.2) (ht : Canon t.2) : Canon (if c then s else t).2 := by
  split <;> assumption
theorem Canon.ite_s {s t : Mover} (hs : Canon s.s) (ht : Canon t.s) : Canon (if c then s else t).s := by
  split <;> assumption
theorem Canon.ite_fst_s {s t : Mover × α} (hs : Canon s.1.s) (ht : Canon t.1.s) : Canon (if c then s else t).1.s := by
  split <;> assumption
theorem CanonAnswer.ite {s t : Answer} (hs : CanonAnswer s) (ht : CanonAnswer t) : CanonAnswer (if c then s else t) := by
  split <;> assumption
theorem CanonRead.ite {s t : RegRead} (hs : CanonRead s) (ht : CanonRead t) : CanonRead (if c then s else t) := by
  split <;> assumption
theorem CanonRead.dite {f : c → RegRead} {g : ¬c → RegRead} (hf : ∀ e, CanonRead (f e)) (hg : ∀ e, CanonRead (g e)) :
    CanonRead (if e : c then f e else g e) := by
  split
  · exact hf _
  · exact hg _
theorem CanonSome.ite {s t : Option State} (hs : CanonSome s) (ht : CanonSome t) : CanonSome (if c then s else t) := by
  split <;> assumption
theorem CanonDrained.ite {s t : Except Mover (State × Bool)} (hs : CanonDrained s) (ht : CanonDrained t) :
    CanonDrained (if c then s else t) := by
  split <;> assumption
theorem CanonMoved.ite {s t : Except Mover State} (hs : CanonMoved s) (ht : CanonMoved t) :
    CanonMoved (if c then s else t) := by
  split <;> assumption

end

section
variable {α γ : Type}

theorem Canon.foldl {f : State → α → State} {s : State} {l : List α} (hf : ∀ r a, Canon r → Canon (f r a)) (h : Canon s) :
    Canon (l.foldl f s) := foldl_inv Canon f hf l s h

/-- A fold that carries the card inside something else. -/
theorem Canon.foldl_of {f : γ → α → γ} {v : γ → State} {q : γ} {l : List α}
    (hf : ∀ q a, Canon (v q) → Canon (v (f q a))) (h : Canon (v q)) : Canon (v (l.foldl f q)) := by
  induction l generalizing q with
  | nil => exact h
  | cons a l ih => exact ih (hf q a h)

theorem Canon.foldl_fst {f : State × γ → α → State × γ} {q : State × γ} {l : List α}
    (hf : ∀ q a, Canon q.1 → Canon (f q a).1) (h : Canon q.1) : Canon (l.foldl f q).1 :=
  .foldl_of (v := Prod.fst) hf h
theorem Canon.foldl_snd {f : γ × State → α → γ × State} {q : γ × State} {l : List α}
    (hf : ∀ q a, Canon q.2 → Canon (f q a).2) (h : Canon q.2) : Canon (l.foldl f q).2 :=
  .foldl_of (v := Prod.snd) hf h
theorem Canon.foldl_s {f : Mover → α → Mover} {m : Mover} {l : List α}
    (hf : ∀ m a, Canon m.s → Canon (f m a).s) (h : Canon m.s) : Canon (l.foldl f m).s :=
  .foldl_of (v := Mover.s) hf h
theorem Canon.foldl_fst_s {f : Mover × γ → α → Mover × γ} {q : Mover × γ} {l : List α}
    (hf : ∀ q a, Canon q.1.s → Canon (f q a).1.s) (h : Canon q.1.s) : Canon (l.foldl f q).1.s :=
  .foldl_of (v := fun q : Mover × γ => q.1.s) hf h

end

theorem CanonMoved.map {f : State → State} {x : Except Mover State} (hf : ∀ s, Canon s → Canon (f s)) (h : CanonMoved x) :
    CanonMoved (x.map f) := by
  cases x with
  | error m => exact .error (h.of_error rfl)
  | ok s => exact .ok (hf s (h.of_ok rfl))
theorem CanonMoved.bind {x : Except Mover State} {f : State → Except Mover State} (h : CanonMoved x)
    (hf : ∀ s, Canon s → CanonMoved (f s)) : CanonMoved (x.bind f) := by
  cases x with
  | error m => exact .error (h.of_error rfl)
  | ok s => exact hf s (h.of_ok rfl)
theorem CanonMoved.foldl {α : Type} {f : Except Mover State → α → Except Mover State} {x : Except Mover State} {l : List α}
    (hf : ∀ x a, CanonMoved x → CanonMoved (f x a)) (h : CanonMoved x) : CanonMoved (l.foldl f x) := by
  induction l generalizing x with
  | nil => exact h
  | cons a l ih => exact ih (hf x a h)

theorem CanonSome.map {α : Type} {f : α → State} {o : Option α} (h : ∀ a, Canon (f a)) : CanonSome (o.map f) := by
  cases o with
  | none => exact .none
  | some a => exact .some (h a)
theorem CanonSome.findSome? {α : Type} {f : α → Option State} {l : List α} (h : ∀ a, CanonSome (f a)) :
    CanonSome (l.findSome? f) := by
  refine ⟨fun e => ?_⟩
  obtain ⟨a, -, ha⟩ := List.exists_of_findSome?_eq_some e
  exact (h a).of_some ha

/-! ### The card at power-on -/

theorem Canon.reset : Canon State.reset := by
  refine ⟨?_, ?_, ?_, ?_, ?_, ?_, ?_, ?_, ?_, ?_, ?_, ?_, ?_, ?_⟩ <;> rfl

/-! ### Units, queues, logs and retirement -/

theorem Canon.after_modPan {s p f} (h : Canon s) : Canon (modPan s p f) := h.put_pans (tabModify_wf _ _ _ _)
theorem Canon.after_setTen {s t x} (h : Canon s) : Canon (setTen s t x) := h.put_ten (tabSet_wf _ _ _ _)
theorem Canon.after_modTen {s t f} (h : Canon s) : Canon (modTen s t f) := h.put_ten (tabModify_wf _ _ _ _)
theorem Canon.after_modStack {s k f} (h : Canon s) : Canon (modStack s k f) := h.put_stk (tabModify_wf _ _ _ _)
theorem Canon.after_modSch {s n f} (h : Canon s) : Canon (modSch s n f) := h.put_sch (tabModify_wf _ _ _ _)
theorem Canon.after_modLane {s n f} (h : Canon s) : Canon (modLane s n f) := h.put_lanes (tabModify_wf _ _ _ _)
theorem Canon.after_modRing {s n f} (h : Canon s) : Canon (modRing s n f) := h.put_rings (tabModify_wf _ _ _ _)
theorem Canon.after_modQp {s n q f} (h : Canon s) : Canon (modQp s n q f) := h.put_qps (tabModify_wf _ _ _ _)
theorem Canon.after_modPort {s n f} (h : Canon s) : Canon (modPort s n f) := h.put_ports (tabModify_wf _ _ _ _)
theorem Canon.after_emit {s o} (h : Canon s) : Canon (emit s o) := h.frame rfl
theorem Canon.after_usedFree {s n} (h : Canon s) : Canon (usedFree s n) := h.frame rfl
theorem Canon.after_modUnit {s k f} (h : Canon s) : Canon (modUnit s k f) := h.put_units (tabModify_wf _ _ _ _)
theorem Canon.after_modBank {s k f} (h : Canon s) : Canon (modBank s k f) := h.put_banks (tabModify_wf _ _ _ _)
theorem Canon.after_injectRange {s k n} (h : Canon s) : Canon (injectRange s k n) :=
  .ite (.foldl (fun _ _ hr => .ite (hr.frame rfl) hr) h) h
theorem Canon.after_writeWord {s k d} (h : Canon s) : Canon (writeWord s k d) := h.frame rfl
theorem Canon.after_writeWords {s k ds} (h : Canon s) : Canon (writeWords s k ds) := h.frame rfl
theorem Canon.after_modQErr {s n f} (h : Canon s) : Canon (modQErr s n f) := h.frame rfl
theorem Canon.after_modQueue {s i f} (h : Canon s) : Canon (modQueue s i f) := h.put_queues (tabModify_wf _ _ _ _)
theorem Canon.after_queueWrite {s i ws bad} (h : Canon s) : Canon (queueWrite s i ws bad) :=
  .after_modQErr <| .after_modQueue h
theorem Canon.after_queueTake {s i n} (h : Canon s) : Canon (queueTake s i n) := .after_modQueue h
theorem Canon.after_queueClear {s i} (h : Canon s) : Canon (queueClear s i) := .after_modQueue h
theorem Canon.after_queueAbandon {s i} (h : Canon s) : Canon (queueAbandon s i) := .after_modQueue h
theorem Canon.after_syncQueues {s} (h : Canon s) : Canon (syncQueues s) :=
  .frame (h.put_queues (tabClean_map_wf _ _ (fun e => (e.1, e.2.settle)) fun _ => rfl)) rfl
theorem Canon.after_queueSend {s i ws bad} (h : Canon s) : Canon (queueSend s i ws bad) :=
  .after_emit <| .after_queueWrite h
theorem Canon.after_queuePass {s i ws} (h : Canon s) : Canon (queuePass s i ws) :=
  .after_queueTake <| .after_queueSend h
theorem Canon.after_passFree {s i bits ns} (h : Canon s) : Canon (passFree s i bits ns) :=
  .foldl (fun _ _ hr => .after_usedFree <| .after_queuePass hr) h

theorem Canon.after_sendSignal {s g} (h : Canon s) : Canon (sendSignal s g) := by
  unfold sendSignal
  dsimp only
  split
  · exact .after_queueWrite <| h.frame rfl
  · exact h.frame rfl

theorem Canon.after_sendMsix {s v} (h : Canon s) : Canon (sendMsix s v) := h.frame rfl
theorem Canon.after_logEvent {s code detail t} (h : Canon s) : Canon (logEvent s code detail t) := h.frame rfl
theorem Canon.after_queueDrop {s i} (h : Canon s) : Canon (queueDrop s i) := .after_logEvent <| .after_modQErr h
theorem Canon.after_notePoison {s inst entry poison} (h : Canon s) : Canon (notePoison s inst entry poison) :=
  .ite (.after_logEvent <| .after_modQErr h) h
theorem Canon.after_takeChecked {s i n} (h : Canon s) : Canon (takeChecked s i n).1 :=
  .foldl (fun _ _ hr => .after_notePoison hr) <| .after_queueTake h

theorem Canon.after_queueUpset {s u} (h : Canon s) : Canon (queueUpset s u) := by
  unfold queueUpset
  dsimp only
  split
  · exact h.frame rfl
  · exact h.frame rfl
  · exact h.frame rfl
  · exact h
  · exact h
  · exact .ite (.after_modQueue h) h

theorem Canon.after_logEvents {s code ds t} (h : Canon s) : Canon (logEvents s code ds t) :=
  .foldl (fun _ _ hr => .after_logEvent hr) h
theorem Canon.after_prechargeBank {s b} (h : Canon s) : Canon (prechargeBank s b) := .after_modBank h
theorem Canon.after_writeOption {s f} (h : Canon s) : Canon (writeOption s f) := h.frame rfl
theorem Canon.after_addRetire {s e} (h : Canon s) : Canon (addRetire s e) := h.frame rfl
theorem Canon.after_haltRefused {s t l code} (h : Canon s) : Canon (haltRefused s t l code) := .after_modTen h
theorem Canon.after_haltNext {s ts code} (h : Canon s) : Canon (haltNext s ts code) :=
  .foldl (fun _ _ hr => .after_modTen hr) h
theorem Canon.after_addMove {s t m} (h : Canon s) : Canon (addMove s t m) := .after_modTen h

theorem Canon.after_movePan {s p t} (h : Canon s) : Canon (movePan s p t) := by
  unfold movePan
  split
  · exact .after_addMove h
  · exact .after_logEvent <| .after_modPan h

theorem Canon.after_recallPans {s q} (h : Canon s) : Canon (recallPans s q) :=
  .foldl (fun _ _ h1 => .foldl (fun _ _ h2 => .after_movePan <| .after_modTen h2) h1) h

theorem Canon.after_retirePan {s p cause} (h : Canon s) : Canon (retirePan s p cause) :=
  .ite h <| .ite (.after_haltNext <| .foldl (fun _ _ h1 => .after_movePan h1) <|
    .after_recallPans <| .after_logEvent <| .after_addRetire <| .after_modPan h) <|
    .foldl (fun _ _ h2 => .after_movePan h2) <| .after_recallPans <| .after_logEvent <|
    .after_addRetire <| .after_modPan h

theorem Canon.after_startBankMoves {s ms} (h : Canon s) : Canon (startBankMoves s ms) :=
  .foldl (fun _ _ h1 => .foldl (fun _ _ h2 => .after_addMove h2) h1) <| h.frame rfl

theorem Canon.after_relocateBank {s b detail} (h : Canon s) : Canon (relocateBank s b detail) := by
  unfold relocateBank
  refine .ite h ?_
  split
  · exact .after_startBankMoves h
  · exact .ite (.after_modBank h) <| .after_logEvent <| .after_modBank h

theorem Canon.after_recallMoves {s c detail} (h : Canon s) : Canon (recallMoves s c detail) :=
  .ite h <| .foldl (fun _ _ h1 => .ite h1 <| .after_relocateBank h1) <|
    .foldl (fun _ _ h2 => .after_modTen h2) <| h.frame rfl

theorem Canon.after_retireBankWith {useSpare s b cause} (h : Canon s) :
    Canon (retireBankWith useSpare s b cause) := by
  unfold retireBankWith
  dsimp only
  refine .ite h ?_
  split
  · exact .foldl (fun _ _ hr => .after_addMove hr) <| .after_recallMoves <| .after_logEvent <|
      .after_addRetire <| .after_modBank h
  · exact .after_relocateBank <| .after_recallMoves <| .after_logEvent <| .after_addRetire <| .after_modBank h

theorem Canon.after_retireBank {s b cause} (h : Canon s) : Canon (retireBank s b cause) := .after_retireBankWith h

theorem Canon.after_retryBank {s b} (h : Canon s) : Canon (retryBank s b) := by
  unfold retryBank
  refine .ite (.after_modBank h) ?_
  split
  · exact .after_startBankMoves <| .after_modBank h
  · exact h

theorem Canon.after_retryPan {s p} (h : Canon s) : Canon (retryPan s p) := by
  unfold retryPan
  dsimp only
  refine .ite (.after_modPan h) ?_
  split
  · exact .foldl (fun _ _ hr => .after_addMove hr) <| .after_modPan h
  · exact h

theorem Canon.after_retryDegraded {s} (h : Canon s) : Canon (retryDegraded s) :=
  .foldl (fun _ _ h1 => .after_retryPan h1) <| .foldl (fun _ _ h2 => .after_retryBank h2) h

theorem Canon.after_placerCount {s k} (h : Canon s) : Canon (placerCount s k) := by
  unfold placerCount
  split
  · exact .ite (.after_retireBank <| .after_modBank h) <| .after_modBank h
  · exact .ite (.after_retirePan <| .after_modPan h) <| .after_modPan h
  · exact h

theorem Canon.after_logWord {s code k dec t} (h : Canon s) : Canon (logWord s code k dec t) := by
  unfold logWord
  split
  · exact h
  · exact .after_placerCount <| h.frame rfl
  · split
    · exact .after_retireBank <| h.frame rfl
    · exact h.frame rfl

theorem Canon.after_noteWord {s code k dec t} (h : Canon s) : Canon (noteWord s code k dec t) := by
  unfold noteWord
  split
  · exact h
  · exact .after_logWord <| h.frame rfl
  · exact .after_logWord <| h.frame rfl

theorem Canon.after_noteWords {s code ws t} (h : Canon s) : Canon (noteWords s code ws t) :=
  .foldl (fun _ _ hr => .after_noteWord hr) h
theorem Canon.after_noteColumn {s code ws t} (h : Canon s) : Canon (noteColumn s code ws t) :=
  .foldl (fun _ _ hr => .after_logWord hr) <| h.frame rfl
theorem Canon.after_writePart {s loc bs code t} (h : Canon s) : Canon (writePart s loc bs code t).1 :=
  .ite_fst (.after_writeWord h) <| .ite_fst (.after_noteWord h) <| .after_writeWord <| .after_noteWord h
theorem Canon.after_trapPan {s p cause slot pc addr late} (h : Canon s) :
    Canon (trapPan s p cause slot pc addr late) :=
  .ite (.after_retirePan <| .after_logEvent <| .after_modPan h) <| .after_logEvent <| .after_modPan h
theorem Canon.after_dropBar0 {s} (h : Canon s) : Canon (dropBar0 s) := h.frame rfl
theorem Canon.after_debugWrite {s f} (h : Canon s) (hf : ∀ r, Canon r → Canon (f r)) : Canon (debugWrite s f) :=
  .ite (hf _ h) <| .after_dropBar0 h

/-! ### The mailbox -/

theorem Canon.after_pushNotice {s w notify} (h : Canon s) : Canon (pushNotice s w notify) :=
  .ite (.after_sendMsix <| h.frame rfl) <| h.frame rfl
theorem Canon.after_commitNotice {s w notify} (h : Canon s) : Canon (commitNotice s w notify) :=
  .ite (h.frame rfl) <| .after_pushNotice h

theorem Canon.after_drainNotices {s} (h : Canon s) : Canon (drainNotices s) := by
  unfold drainNotices
  split
  · exact h
  · exact .ite h <| .after_pushNotice <| h.frame rfl

theorem Canon.after_drainAllNotices {s} (h : Canon s) : Canon (drainAllNotices s) :=
  .foldl (fun _ _ hr => .after_drainNotices hr) h
theorem Canon.after_writeResponse {s n img dseq notify} (h : Canon s) : Canon (writeResponse s n img dseq notify) :=
  .after_commitNotice <| h.frame rfl
theorem Canon.after_answer {s n cmd status result} (h : Canon s) : Canon (answer s n cmd status result) :=
  .after_writeResponse <| h.frame rfl
theorem Canon.after_respond {s n status result} (h : Canon s) : Canon (respond s n status result) :=
  .after_answer <| h.frame rfl
theorem Canon.after_endBackground {s n status result} (h : Canon s) : Canon (endBackground s n status result) :=
  h.frame rfl
theorem CanonAnswer.of_runMailbox {s n op act} (h : Canon s) (hact : ∀ a r, Canon r → Canon (act a r)) :
    CanonAnswer (runMailbox s n op act) :=
  .ite (.next <| hact _ _ h) <| .next h
theorem CanonAnswer.of_execMbxDoorbell {slot s} (h : Canon s) : CanonAnswer (execMbxDoorbell slot s) :=
  .next <| .ite (.after_logEvent h) <| .ite h <| .after_emit <| h.frame rfl

theorem Canon.after_acceptSlot {s slot} (h : Canon s) : Canon (acceptSlot s slot) := by
  unfold acceptSlot
  dsimp only
  refine .ite (.after_logEvent h) ?_
  refine .ite (.ite (h.frame rfl) <| .after_respond <| h.frame rfl) ?_
  refine .ite (.after_answer h) ?_
  refine .ite h ?_
  split
  · exact .after_writeResponse h
  · exact .after_answer h

theorem CanonAnswer.of_execMbxAccept {s} (h : Canon s) : CanonAnswer (execMbxAccept s) := by
  unfold execMbxAccept
  dsimp only
  refine .ite (.next h) ?_
  refine .ite (.next h) ?_
  refine .ite ?_ (.next <| .after_acceptSlot <| h.frame rfl)
  split
  · exact .next <| .after_acceptSlot <| .after_notePoison <| h.frame rfl
  · exact .next <| .after_notePoison <| h.frame rfl

theorem Canon.after_askReset {s img status} (h : Canon s) : Canon (askReset s img status) := .ite (h.frame rfl) h

theorem CanonAnswer.of_execMbxBackgroundComplete {slot s} (h : Canon s) :
    CanonAnswer (execMbxBackgroundComplete slot s) := by
  unfold execMbxBackgroundComplete
  split
  · exact .next <| .ite (.after_askReset <| .after_respond h) h
  · exact .next h

theorem CanonAnswer.of_execPing {slot s} (h : Canon s) : CanonAnswer (execPing slot s) :=
  .of_runMailbox h fun _ _ hr => .after_respond hr
theorem CanonAnswer.of_execCrashMode {slot s} (h : Canon s) : CanonAnswer (execCrashMode slot s) :=
  .of_runMailbox h fun _ _ hr => .ite (.after_respond hr) <| .after_respond <| hr.frame rfl

/-! ### Stored words and the commands of a stack's controller -/

theorem Canon.after_haltChan {s p c rmw region off} (h : Canon s) : Canon (haltChan s p c rmw region off) :=
  .ite (.after_retirePan <| .after_logEvent <| .after_modPan h) <| .after_logEvent <| .after_modPan h
theorem Canon.after_haltSch {s n r region off} (h : Canon s) : Canon (haltSch s n r region off) :=
  .after_logEvent <| .after_modSch h

theorem Canon.after_haltSource {s src rmw} (h : Canon s) : Canon (haltSource s src rmw) := by
  unfold haltSource
  dsimp only
  split
  · split
    · exact .ite h <| .after_haltChan <| .after_usedFree h
    · exact h
  · split
    · exact .ite h <| .after_haltSch <| .after_usedFree h
    · exact h
  · exact h

theorem Canon.after_askBank {s b src} (h : Canon s) : Canon (askBank s b src) := .ite (.after_modBank h) h
theorem Canon.after_answered {s b} (h : Canon s) : Canon (answered s b) := .after_modBank h
theorem Canon.after_forgetAsks {s src} (h : Canon s) : Canon (forgetAsks s src) :=
  h.put_banks (tabClean_map_wf _ _ _ fun _ => rfl)
theorem Canon.after_storeColumn {s x l ws} (h : Canon s) : Canon (storeColumn s x l ws) := h.frame rfl
theorem Canon.after_noteSent {s k q c} (h : Canon s) : Canon (noteSent s k q c) := .after_modStack h
theorem Canon.after_sendTo {s b c} (h : Canon s) : Canon (sendTo s b c) := .after_noteSent h
theorem Canon.after_closeRow {s b} (h : Canon s) : Canon (closeRow s b) :=
  .ite h <| .after_prechargeBank <| .after_sendTo h
theorem Canon.after_enterPond {s k q} (h : Canon s) : Canon (enterPond s k q) :=
  .after_modStack <| .foldl (fun _ _ hr => .after_closeRow hr) h
theorem Canon.after_leaveSelfRefresh {s k} (h : Canon s) : Canon (leaveSelfRefresh s k) :=
  .frame (.put_banks (h.put_units (tabClean_map_wf _ _ _ (by intros; split <;> rfl)))
    (tabClean_map_wf _ _ _ (by intros; split <;> rfl))) rfl
theorem Canon.after_openRowFor {s b l} (h : Canon s) : Canon (openRowFor s b l) :=
  .ite h <| .after_modBank <| .after_sendTo <| .after_closeRow h
theorem Canon.after_rowAfter {s b l hint} (h : Canon s) : Canon (rowAfter s b l hint) := .after_modBank h

theorem Canon.after_serveRead {s k q} (h : Canon s) : Canon (serveRead s k q) :=
  .ite (.after_haltSource <| .after_rowAfter <| .after_emit <| .after_noteColumn <| .after_sendTo <|
    .after_openRowFor h) <| .after_rowAfter <| .after_emit <| .after_noteColumn <| .after_sendTo <|
    .after_openRowFor h

theorem Canon.after_dropQueued {s k f} (h : Canon s) : Canon (dropQueued s k f) := .after_modStack h
theorem Canon.after_drainEntry {s k pc e} (h : Canon s) : Canon (drainEntry s k pc e) :=
  .after_rowAfter <| .after_modStack <| .after_dropQueued <| .after_storeColumn <|
    .after_sendTo <| .after_openRowFor <| .foldl (fun _ _ hr => .after_serveRead hr) h
theorem Canon.after_drainBank {s b} (h : Canon s) : Canon (drainBank s b) :=
  .foldl (fun _ _ hr => .after_drainEntry hr) h

theorem Canon.after_makeRoom {s b} (h : Canon s) : Canon (makeRoom s b) := by
  unfold makeRoom
  refine .ite h ?_
  split
  · exact .after_drainEntry h
  · exact h

theorem Canon.after_queueColumn {s b l src hint data} (h : Canon s) : Canon (queueColumn s b l src hint data) :=
  .after_modStack h

theorem Canon.after_putColumnVia {s src hint u ws} (h : Canon s) : Canon (putColumnVia s src hint u ws) := by
  unfold putColumnVia
  dsimp only
  split
  · exact h.frame rfl
  · exact .ite (.after_modStack h) <| .after_queueColumn <| .after_makeRoom h

theorem Canon.after_countMerge {s u} (h : Canon s) : Canon (countMerge s u) := by
  unfold countMerge
  split
  · exact .after_modStack h
  · exact h

theorem Canon.after_countForward {s u} (h : Canon s) : Canon (countForward s u) := by
  unfold countForward
  split
  · exact .after_modStack h
  · exact h

theorem Canon.after_askUnits {s src us} (h : Canon s) : Canon (askUnits s src us) := by
  unfold askUnits
  refine .foldl ?_ h
  intro _ _ hr
  split
  · exact .after_askBank hr
  · exact hr

theorem Canon.after_readArray {s b l hint} (h : Canon s) : Canon (readArray s b l hint) :=
  .after_rowAfter <| .after_sendTo <| .after_openRowFor h

theorem Canon.after_accessedUnit {s u next} (h : Canon s) : Canon (accessedUnit s u next) := by
  unfold accessedUnit
  split
  · exact h
  · exact .ite h <| .after_readArray h

theorem Canon.after_noteUnit {s code u t} (h : Canon s) : Canon (noteUnit s code u t) :=
  .ite (.after_noteColumn h) <| .after_noteWords h
theorem Canon.after_noteUnits {s code us t} (h : Canon s) : Canon (noteUnits s code us t) :=
  .foldl (fun _ _ hr => .after_noteUnit <| .after_accessedUnit <| .after_countForward hr) h
theorem Canon.after_readLines {s ls} (h : Canon s) : Canon (readLines s ls) := .ite (.after_emit h) h
theorem Canon.after_putBytes {s loc bs t} (h : Canon s) : Canon (putBytes s loc bs t).1 :=
  .foldl_fst (fun _ _ hr => .ite_fst hr <| .after_writePart hr) h
theorem Canon.after_prepareBanks {s bs} (h : Canon s) : Canon (prepareBanks s bs) :=
  .foldl (fun _ _ hr => .after_closeRow <| .after_drainBank hr) h
theorem Canon.after_mapSpare {s b j valid} (h : Canon s) : Canon (mapSpare s b j valid) :=
  .after_modBank <| .after_modStack h
theorem Canon.after_fillTrace {s k d xs} (h : Canon s) : Canon (fillTrace s k d xs) :=
  .frame (.put_stk (h.put_units (foldl_table_wf _ _ _ _ fun _ _ hr => tabModify_wf _ _ _ _ hr))
    (tabModify_wf _ _ _ _)) rfl

/-! ### Lines of Triyx -/

theorem Canon.after_modSvc {s f} (h : Canon s) : Canon (modSvc s f) := h.frame rfl
theorem Canon.after_drainLines {s} (h : Canon s) : Canon (drainLines s) :=
  .ite (.after_takeChecked h) <| .after_emit <| .after_takeChecked h
theorem Canon.after_sendLine {s o} (h : Canon s) : Canon (sendLine s o) :=
  .after_emit <| .after_queueSend <| .ite (.after_drainLines h) h
theorem Canon.after_dataLine {s ws} (h : Canon s) : Canon (dataLine s ws) := .after_sendLine h
theorem Canon.after_dataLines {s ls} (h : Canon s) : Canon (dataLines s ls) :=
  .foldl (fun _ _ hr => .after_dataLine hr) h
theorem Canon.after_finalReply {s f} (h : Canon s) : Canon (finalReply s f) := .after_sendLine <| .after_modSvc h
theorem Canon.after_replyOk {s n} (h : Canon s) : Canon (replyOk s n) := .after_finalReply h
theorem Canon.after_replyErr {s code} (h : Canon s) : Canon (replyErr s code) := .after_finalReply h
theorem Canon.after_replyLines {s ls} (h : Canon s) : Canon (replyLines s ls) := .after_replyOk <| .after_dataLines h
theorem Canon.after_lineFailed {s} (h : Canon s) : Canon (lineFailed s) :=
  .after_logEvent <| .after_sendLine <| .after_modSvc h

/-! ### The synchronisation store -/

theorem Canon.after_setTally {s n x} (h : Canon s) : Canon (setTally s n x) := h.put_tallies (tabSet_wf _ _ _ _)
theorem Canon.after_setGate {s n x} (h : Canon s) : Canon (setGate s n x) := h.put_gates (tabSet_wf _ _ _ _)
theorem Canon.after_addTally {s t n src hand} (h : Canon s) : Canon (addTally s t n src hand) :=
  .ite (.after_logEvent <| .after_setTally h) <| .after_setTally h

theorem Canon.after_takeSignal {s g bad} (h : Canon s) : Canon (takeSignal s g bad).1 := by
  unfold takeSignal
  split
  · exact .ite_fst (.after_haltNext <| .after_notePoison <| .after_queueTake h) <| .after_queueTake h
  · exact h

theorem CanonAnswer.of_execTallySignal {p s} (h : Canon s) : CanonAnswer (execTallySignal p s) := by
  unfold execTallySignal
  dsimp only
  split
  · exact .next <| h.frame rfl
  · exact .next <| h.frame rfl
  · split
    · exact .next h
    · refine .ite (.next h) ?_
      refine .ite (.next <| .after_takeSignal <| h.frame rfl) ?_
      split
      · exact .ite (.next <| .after_haltNext <| .after_logEvent <| .after_takeSignal <| h.frame rfl) <|
          .next <| .frame (.after_takeSignal <| h.frame (by rfl)) rfl
      · exact .next <| .frame (.after_takeSignal <| h.frame (by rfl)) rfl

theorem Canon.after_applySignals {s} (h : Canon s) : Canon (applySignals s) :=
  .foldl (fun _ _ hr => .after_addTally hr) <| h.frame rfl

theorem Canon.after_answerArrival {s n who status} (h : Canon s) : Canon (answerArrival s n who status) := by
  unfold answerArrival
  split
  · exact .after_endBackground h
  · exact .after_emit h

theorem Canon.after_answerHeld {s n g status} (h : Canon s) : Canon (answerHeld s n g status) :=
  .foldl (fun _ _ hr => .after_answerArrival hr) h
theorem Canon.after_freeGatePans {s n} (h : Canon s) : Canon (freeGatePans s n) :=
  .foldl (fun _ _ hr => .after_modPan hr) <| h.frame rfl
theorem Canon.after_releaseGate {s n} (h : Canon s) : Canon (releaseGate s n) :=
  .after_freeGatePans <| .after_answerHeld <| .after_setGate h

theorem Canon.after_releaseWhile {fuel s n} (h : Canon s) : Canon (releaseWhile fuel s n) := by
  induction fuel generalizing s with
  | zero => exact h
  | succ fuel ih =>
    unfold releaseWhile
    exact .ite (ih <| .after_releaseGate h) h

theorem Canon.after_portArrival {s n k who} (h : Canon s) : Canon (portArrival s n k who) := by
  unfold portArrival
  dsimp only
  refine .ite ?_ ?_
  · split
    · exact .after_endBackground h
    · exact .ite h <| .after_answerArrival h
  · refine .ite ?_ (.after_logEvent <| .after_setGate h)
    split
    · exact .after_endBackground <| .after_setGate h
    · exact .ite (.after_setGate h) <| .after_answerArrival <| .after_setGate h

theorem Canon.after_panArrival {s w} (h : Canon s) : Canon (panArrival s w) := .frame (.after_setGate h) rfl
theorem Canon.after_applyGates {s} (h : Canon s) : Canon (applyGates s) :=
  .foldl (fun _ _ h1 => .after_releaseWhile h1) <| .foldl (fun _ _ h2 => .after_panArrival h2) <|
    .foldl (fun _ _ h3 => .after_portArrival h3) <| h.frame rfl
theorem Canon.after_applyPorts {s n ports} (h : Canon s) : Canon (applyPorts s n ports) :=
  .after_releaseWhile <| .after_setGate <| .foldl (fun _ _ hr => .after_answerArrival hr) h
theorem Canon.after_logHand {s triyx gate n op old new} (h : Canon s) : Canon (logHand s triyx gate n op old new) :=
  .ite (.after_replyLines <| .after_logEvent <| h.frame rfl) <| .after_logEvent <| h.frame rfl

theorem Canon.after_applyHand {triyx s w} (h : Canon s) : Canon (applyHand triyx s w) := by
  unfold applyHand
  split
  · exact .after_logHand <| .after_setTally h
  · exact .after_logHand <| .after_addTally h
  · exact .after_logHand <| .after_releaseWhile <| .after_releaseGate h
  · exact .after_logHand <| .after_freeGatePans <| .after_answerHeld <| .after_setGate h

theorem Canon.after_applyStep1 {s} (h : Canon s) : Canon (applyStep1 s) :=
  .foldl (fun _ _ h1 => .after_applyPorts h1) <| .foldl (fun _ _ h2 => .after_applyHand h2) <|
    .foldl (fun _ _ h3 => .after_applyHand h3) <| h.frame rfl
theorem Canon.after_completeWait {s w v} (h : Canon s) : Canon (completeWait s w v) := .after_modPan h
theorem Canon.after_serveWaiter {s w} (h : Canon s) : Canon (serveWaiter s w) :=
  .ite (h.frame rfl) <| .after_completeWait <| .ite (.after_setTally h) h
theorem Canon.after_serveCore {s c} (h : Canon s) : Canon (serveCore s c) :=
  .ite (h.frame rfl) <| .ite (.after_setTally h) h

theorem Canon.after_serveStanding {s w} (h : Canon s) : Canon (serveStanding s w) := by
  unfold serveStanding
  split
  · exact .after_serveWaiter h
  · exact .after_serveCore h

theorem Canon.after_serveWaiters {s} (h : Canon s) : Canon (serveWaiters s) :=
  .foldl (fun _ _ hr => .after_serveStanding hr) <| h.frame rfl
theorem Canon.after_expireWaiters {s now} (h : Canon s) : Canon (expireWaiters s now) :=
  .foldl (fun _ _ hr => .after_completeWait hr) <| h.frame rfl

theorem CanonAnswer.of_execWaitTimeout {p s} (h : Canon s) : CanonAnswer (execWaitTimeout p s) := by
  unfold execWaitTimeout
  split
  · exact .next h
  · split
    · exact .next h
    · exact .ite (.next <| .after_completeWait <| h.frame rfl) <| .next h

theorem Canon.after_takeSnaps {s} (h : Canon s) : Canon (takeSnaps s) := h.frame rfl
theorem CanonAnswer.of_execSnap {s} (h : Canon s) : CanonAnswer (execSnap s) := .next <| h.frame rfl
theorem Canon.after_endOfTick {s} (h : Canon s) : Canon (endOfTick s) :=
  .after_takeSnaps <| .after_applyGates <| .after_expireWaiters <| .after_serveWaiters <| .after_applySignals h

theorem Canon.after_closeWindow {s n bounds} (h : Canon s) : Canon (closeWindow s n bounds) := by
  unfold closeWindow
  dsimp only
  split
  · exact h
  · exact .ite (.after_logEvent <| .after_modLane h) h

theorem Canon.after_closeWindows {s} (h : Canon s) : Canon (closeWindows s) :=
  .foldl (fun _ _ hr => .after_closeWindow <| .after_closeWindow hr) h
theorem Canon.after_passTicks {s n} (h : Canon s) : Canon (passTicks s n) := h.frame rfl

theorem Canon.after_coreLoad {s core addr flipD flipC} (h : Canon s) : Canon (coreLoad s core addr flipD flipC) := by
  unfold coreLoad
  extract_lets k s0 d s1 s2 y
  have hs0 : Canon s0 := h.frame rfl
  have hs1 : Canon s1 := .after_noteWord hs0
  have hs2 : Canon s2 := .after_logEvent hs1
  exact .ite (hs2.frame rfl) hs1

theorem Canon.after_coreTally {s t own} (h : Canon s) : Canon (coreTally s t own) :=
  .ite (h.put_tallies (tabSet_wf _ _ _ _)) <| .ite (h.put_tallies (tabSet_wf _ _ _ _)) h
theorem Canon.after_coreGate {s g own ports} (h : Canon s) : Canon (coreGate s g own ports) :=
  .ite (h.put_gates (tabSet_wf _ _ _ _)) <| .ite (h.put_gates (tabSet_wf _ _ _ _)) h

theorem Canon.after_coreCall {s c} (h : Canon s) : Canon (coreCall s c) := by
  unfold coreCall
  refine .ite h ?_
  split
  · exact .ite h <| h.frame rfl
  · exact .ite (h.frame rfl) h
  · exact .ite h <| .after_coreLoad h
  · exact .ite h <| .after_writeWord h
  · exact .after_coreTally h
  · exact .after_coreGate h

theorem Canon.after_rejectHand {s} (h : Canon s) : Canon (rejectHand s) := h.frame rfl
theorem Canon.after_handWrite {s confirm w} (h : Canon s) : Canon (handWrite s confirm w) :=
  .ite (h.frame rfl) <| .after_rejectHand h
theorem CanonAnswer.of_execTlyHandSet {confirm t v s} (h : Canon s) : CanonAnswer (execTlyHandSet confirm t v s) :=
  .next <| .after_handWrite h
theorem CanonAnswer.of_execTlyHandSignal {confirm t v s} (h : Canon s) :
    CanonAnswer (execTlyHandSignal confirm t v s) :=
  .next <| .after_handWrite h
theorem CanonAnswer.of_execGateHandRelease {confirm g s} (h : Canon s) :
    CanonAnswer (execGateHandRelease confirm g s) :=
  .next <| .after_handWrite h
theorem CanonAnswer.of_execGateHandReset {confirm g s} (h : Canon s) : CanonAnswer (execGateHandReset confirm g s) :=
  .next <| .after_handWrite h

/-! ### Movers -/

theorem Canon.after_moverStart {s t src} (h : Canon s) : Canon (Mover.start s t src).s := h

theorem Canon.after_moverNote {m : Mover} {u merge} (h : Canon m.s) : Canon (m.note u merge).s := by
  unfold Mover.note
  dsimp only
  refine .ite_s h ?_
  refine .after_noteUnit ?_
  refine .ite ?_ ?_
  · split
    · exact .after_accessedUnit h
    · exact h
  · refine .after_countForward ?_
    split
    · exact .after_accessedUnit h
    · exact h

theorem Canon.after_moverHold {m : Mover} {u} (h : Canon m.s) : Canon (m.hold u).s := h

theorem Canon.after_moverWait {m : Mover} {s} (hs : Canon s) : Canon (m.wait s) := by
  unfold Mover.wait
  split
  · exact .after_askUnits hs
  · exact hs

theorem Canon.after_orWait {s x} (hs : Canon s) (hx : CanonMoved x) : Canon (orWait s x) := by
  unfold orWait
  split
  · exact hx.of_ok rfl
  · exact .after_moverWait hs

theorem Canon.after_moverDrop {m : Mover} (h : Canon m.s) : Canon m.drop.s := h
theorem Canon.after_moverMergeRead {m : Mover} {u next} (h : Canon m.s) : Canon (m.mergeRead u next).s :=
  .ite_s (.after_accessedUnit <| .after_countMerge h) h

theorem Canon.after_moverFlush {m : Mover} {next} (h : Canon m.s) : Canon (m.flush next).s := by
  unfold Mover.flush
  split
  · exact h
  · exact .ite_s (.after_moverHold <| .after_moverDrop <| .ite_s (.after_moverMergeRead <|
      .after_moverNote h) h) <| .ite_s (.after_moverDrop <| .ite_s (.after_moverMergeRead <|
      .after_moverNote h) h) <| .ite (.after_putColumnVia <| .ite_s (.after_moverMergeRead <|
      .after_moverNote h) h) <| .foldl (fun _ _ hr => hr.frame rfl) <|
      .ite_s (.after_moverMergeRead <| .after_moverNote h) h

theorem Canon.after_moverTurn {m : Mover} {u} (h : Canon m.s) : Canon (m.turn u).s := .ite_s h <| .after_moverFlush h
theorem Canon.after_moverReadLine {m : Mover} {a} (h : Canon m.s) : Canon (m.readLine a).s :=
  .ite_s h <| .ite (.after_emit h) h

theorem Canon.after_moverRead {m : Mover} {n e} (h : Canon m.s) : Canon (m.read n e).1.s := by
  unfold Mover.read
  split
  · exact .after_usedFree h
  · exact .ite_fst_s (.ite_fst_s (.after_usedFree <| .after_moverReadLine h) <|
      .after_usedFree <| .after_moverReadLine h) <| .ite_fst_s h <| .ite_fst_s (.after_moverHold h) <|
      .ite_fst_s (.after_moverNote h) <| .after_moverNote h

theorem Canon.after_moverStore {m : Mover} {n e v count} (h : Canon m.s) : Canon (m.store n e v count).s := by
  unfold Mover.store
  split
  · exact h
  · refine .ite_s ?_ (.ite_s (.after_moverTurn h) <| .ite_s (.after_moverTurn h) <| .after_moverTurn h)
    split
    · exact h
    · exact .ite (.after_usedFree h) h

theorem Canon.after_moverWrite {m : Mover} {n e v} (h : Canon m.s) : Canon (m.write n e v).s := .after_moverStore h
theorem Canon.after_readVia {m : Mover} {region v base n} (h : Canon m.s) : Canon (readVia m region v base n).1.s :=
  .foldl_fst_s (fun _ _ hr => .ite_fst_s hr <| .after_moverRead hr) h
theorem Canon.after_writeVia {m : Mover} {region v base data} (h : Canon m.s) :
    Canon (writeVia m region v base data).s :=
  .foldl_s (fun _ _ hr => .ite_s hr <| .after_moverWrite hr) h

theorem Canon.after_moverFinish {m : Mover} (h : Canon m.s) : Canon m.finish.s := by
  unfold Mover.finish
  dsimp only
  refine .ite ?_ ?_
  · refine .after_emit ?_
    refine .after_forgetAsks ?_
    split
    · exact .after_accessedUnit <| .after_moverFlush h
    · exact .after_moverFlush h
  · refine .after_forgetAsks ?_
    split
    · exact .after_accessedUnit <| .after_moverFlush h
    · exact .after_moverFlush h

theorem Canon.after_moverPut {m : Mover} {d e x v} (h : Canon m.s) : Canon (m.put d e x v).s :=
  .ite_s (.foldl_s (fun _ _ hr => .ite_s hr <| .after_moverStore hr) <| .after_moverWrite h) <| .after_moverWrite h

theorem Canon.after_moveElem {pl} {m : Mover} {v} (h : Canon m.s) : Canon (moveElem pl m v).s := by
  unfold moveElem
  dsimp only
  refine .ite_s h ?_
  refine .ite_s ?_ ?_
  · split
    · exact h
    · exact .after_moverRead h
  · refine .after_moverPut ?_
    split
    · exact h
    · exact .after_moverRead h

theorem Canon.after_moveVisit {pl} {m : Mover} {v} (h : Canon m.s) : Canon (moveVisit pl m v).s := by
  unfold moveVisit
  refine .ite_s h ?_
  split
  · exact .after_moveElem <| .ite_s (.after_moverTurn h) h
  · exact .after_moveElem h

theorem Canon.after_movePlane {pl} {m : Mover} (h : Canon m.s) : Canon (movePlane pl m).s :=
  .foldl_s (fun _ _ hr => .after_moveVisit hr) h

theorem Canon.after_swapCells {pl} {m : Mover} {cells} (h : Canon m.s) : Canon (swapCells pl m cells).s :=
  .ite_s (.foldl_fst_s (fun _ _ h1 => .ite_fst_s h1 <| .after_moverRead h1) h) <|
    .foldl_s (fun _ _ h2 => .ite_s h2 <| .after_moverWrite h2) <|
    .foldl_fst_s (fun _ _ h3 => .ite_fst_s h3 <| .after_moverRead h3) h

theorem Canon.after_swapPlane {pl n} {m : Mover} (h : Canon m.s) : Canon (swapPlane pl n m).s :=
  .foldl_s (fun _ _ hr => .ite_s hr <| .after_swapCells hr) h

theorem Canon.after_moveEntry {pl l vs} {q : Mover × ℕ × ℕ} {kc} (h : Canon q.1.s) :
    Canon (moveEntry pl l vs q kc).1.s := by
  unfold moveEntry
  dsimp only
  refine .ite_fst_s h ?_
  refine .foldl_fst_s ?_ (.ite_fst_s h h)
  intro _ _ h1
  refine .ite_fst_s h1 ?_
  refine .ite_fst_s ?_ ?_
  · refine .ite_fst_s ?_ ?_
    · split
      · exact h1
      · exact .after_moverRead h1
    · refine .after_moverPut ?_
      split
      · exact h1
      · exact .after_moverRead h1
  · refine .ite_fst_s h1 ?_
    refine .ite_fst_s h1 ?_
    refine .ite_fst_s ?_ ?_
    · split
      · exact h1
      · exact .after_moverRead h1
    · refine .ite_fst_s ?_ ?_
      · refine .ite_fst_s ?_ ?_
        · refine .after_moverRead ?_
          split
          · exact h1
          · exact .after_moverRead h1
        · split
          · exact h1
          · exact .after_moverRead h1
      · refine .foldl_s (fun _ _ h2 => .ite_s h2 <| .after_moverPut h2) ?_
        refine .ite_fst_s ?_ ?_
        · refine .after_moverRead ?_
          split
          · exact h1
          · exact .after_moverRead h1
        · split
          · exact h1
          · exact .after_moverRead h1

theorem Canon.after_moveList {pl l} {m : Mover} (h : Canon m.s) : Canon (moveList pl l m).1.s :=
  .foldl_fst_s (fun _ _ hr => .after_moveEntry hr) h

theorem Canon.after_runCopy {sys l j} {m : Mover} (h : Canon m.s) : Canon (runCopy sys l j m).1.s := by
  unfold runCopy
  dsimp only
  refine .ite_fst_s h ?_
  split
  · split
    · refine .ite_fst_s ?_ ?_
      · refine .after_moverFinish ?_
        split
        · exact .after_moveList h
        · exact .ite_fst_s (.after_swapPlane h) <| .after_movePlane h
      · split
        · refine .after_moverFinish ?_
          split
          · exact .after_moveList <| .after_moverFlush <| .after_moveList h
          · exact .after_movePlane <| .after_moverFlush <| .ite_fst_s (.after_swapPlane h) <| .after_movePlane h
        · refine .after_moverFinish ?_
          split
          · exact .after_moveList h
          · exact .ite_fst_s (.after_swapPlane h) <| .after_movePlane h
    · refine .after_moverFinish ?_
      split
      · exact .after_moveList h
      · exact .ite_fst_s (.after_swapPlane h) <| .after_movePlane h
  · exact h

theorem Canon.after_markRefused {s t r sys chan addr} (h : Canon s) : Canon (markRefused s t r sys chan addr) :=
  h.frame rfl

theorem Canon.after_countList {s t oor drop} (h : Canon s) : Canon (countList s t oor drop) := by
  unfold countList
  split
  · exact h
  · exact h.frame rfl

/-! ### Issue of a slot -/

theorem Canon.after_fetchRow {s p} (h : Canon s) : Canon (fetchRow s p) :=
  .ite h <| .after_noteWords <| .after_modPan h

theorem Canon.after_issueSlot {s p b sl act} (h : Canon s) (hact : ∀ r, Canon r → Canon (act r)) :
    Canon (issueSlot s p b sl act) := by
  unfold issueSlot
  split
  · exact .after_fetchRow h
  · exact .after_modPan <| .after_fetchRow h
  · exact .after_trapPan <| .after_fetchRow h
  · exact hact _ <| .after_modPan <| .after_fetchRow h

theorem Canon.after_issueS {s p b act pc pause} (h : Canon s) (hact : ∀ r, Canon r → Canon (act r)) :
    Canon (issueS s p b act pc pause) :=
  .after_issueSlot h fun _ hr => .after_modPan <| hact _ hr
theorem Canon.after_issueG {s p b rd val} (h : Canon s) : Canon (issueG s p b rd val) :=
  .after_issueS h fun _ hr => .after_modPan hr
theorem Canon.after_issueBranch {s p b pc} (h : Canon s) : Canon (issueBranch s p b pc) :=
  .after_issueS h fun _ hr => hr

/-! ### C slots -/

theorem Canon.after_issueC {s p b act} (h : Canon s) (hact : ∀ r, Canon r → Canon (act r)) :
    Canon (issueC s p b act) :=
  .after_issueSlot h fun _ hr => hact _ hr
theorem CanonAnswer.of_execCnop {p b z s} (h : Canon s) : CanonAnswer (execCnop p b z s) :=
  .next <| .after_issueC h fun _ hr => hr
theorem CanonAnswer.of_execVld {p b vr ga size imm s} (h : Canon s) : CanonAnswer (execVld p b vr ga size imm s) :=
  .next <| .after_issueC h fun _ hr => .after_modPan <| .after_noteWords hr
theorem CanonAnswer.of_execVst {p b vr ga size imm s} (h : Canon s) : CanonAnswer (execVst p b vr ga size imm s) :=
  .next <| .after_issueC h fun _ hr => .after_modPan hr
theorem CanonAnswer.of_execCpy {p b gs gd sig z tly s} (h : Canon s) : CanonAnswer (execCpy p b gs gd sig z tly s) :=
  .next <| .after_issueC h fun _ hr => .after_modPan hr
theorem CanonAnswer.of_execFence {p b z scope s} (h : Canon s) : CanonAnswer (execFence p b z scope s) :=
  .next <| .after_issueC h fun _ hr => .after_modPan hr

theorem CanonAnswer.of_execFenceComplete {p s} (h : Canon s) : CanonAnswer (execFenceComplete p s) := by
  unfold execFenceComplete
  split
  · exact .next h
  · exact .next <| .ite (.after_modPan h) h

theorem Canon.after_noteHarvest {s t g n} (h : Canon s) : Canon (noteHarvest s t g n) := .after_modTen h

theorem CanonAnswer.of_execSig {p b z inc tly s} (h : Canon s) : CanonAnswer (execSig p b z inc tly s) := by
  unfold execSig
  dsimp only
  refine .next ?_
  refine .after_issueC h ?_
  intro _ hr
  split
  · exact hr
  · exact .after_sendSignal <| .after_noteHarvest hr

theorem Canon.after_ownerFault {s t code} (h : Canon s) : Canon (ownerFault s t code) :=
  .after_haltNext <| .after_logEvent h

theorem Canon.after_startWait {s p rd gt tly consuming} (h : Canon s) :
    Canon (startWait s p rd gt tly consuming) := by
  unfold startWait
  extract_lets x s1 y
  have hs1 : Canon s1 := .after_modPan h
  split
  · exact hs1
  · exact .ite (.after_ownerFault hs1) <| hs1.frame rfl

theorem CanonAnswer.of_execWait {p b rd gt z tly s} (h : Canon s) : CanonAnswer (execWait p b rd gt z tly s) :=
  .next <| .after_issueC h fun _ hr => .after_startWait hr
theorem CanonAnswer.of_execWaitn {p b rd gt z tly s} (h : Canon s) : CanonAnswer (execWaitn p b rd gt z tly s) :=
  .next <| .after_issueC h fun _ hr => .after_startWait hr

theorem Canon.after_startGate {s p f} (h : Canon s) : Canon (startGate s p f) := by
  unfold startGate
  extract_lets x s1 y
  have hs1 : Canon s1 := .after_modPan h
  split
  · exact hs1
  · exact .ite (hs1.frame rfl) <| .after_ownerFault hs1

theorem CanonAnswer.of_execGate {p b z g s} (h : Canon s) : CanonAnswer (execGate p b z g s) :=
  .next <| .after_issueC h fun _ hr => .after_startGate hr
theorem Canon.after_countSch {s n bytes} (h : Canon s) : Canon (countSch s n bytes) := .after_modSch h
theorem Canon.after_sendStream {s os} (h : Canon s) : Canon (sendStream s os) :=
  .ite (h.frame rfl) <| .after_countSch <| .after_emit <| .after_modPort <| h.frame rfl
theorem Canon.after_sendMirrored {s t ws} (h : Canon s) : Canon (sendMirrored s t ws) :=
  .ite (.after_modTen <| .after_sendStream h) h

theorem CanonAnswer.of_execCopyStart {p s} (h : Canon s) : CanonAnswer (execCopyStart p s) := by
  unfold execCopyStart
  extract_lets x
  split
  · refine .ite (.next h) ?_
    extract_lets
    split
    extract_lets s1 quad m swap s2
    have hs1 : Canon s1 := .after_noteWords <| .after_modPan h
    clear_value s1
    have hm : Canon m.s := .after_runCopy <| .after_moverStart hs1
    clear_value m
    have hs2 : Canon s2 := .after_modPan hm
    clear_value s2
    refine .ite (.next <| .after_haltChan <| .after_usedFree hs1) ?_
    split
    · exact .next <| .after_haltRefused <| .after_markRefused <| .after_modPan hs1
    · refine .ite (.next <| .after_moverWait h) ?_
      split
      · exact .next <| .after_haltChan <| .after_sendMirrored <| .after_modPan hs2
      · exact .next hs2
  · exact .next h

theorem CanonAnswer.of_execCopyComplete {p s} (h : Canon s) : CanonAnswer (execCopyComplete p s) := by
  unfold execCopyComplete
  dsimp only
  split
  · refine .ite (.next h) ?_
    split
    · exact .next <| .after_sendMirrored <| .after_modPan h
    · exact .next <| .after_sendSignal <| .after_sendMirrored <| .after_modPan h
  · exact .next h

/-! ### System channels -/

theorem CanonAnswer.of_execSysRequest {n r s} (h : Canon s) : CanonAnswer (execSysRequest n r s) :=
  .next <| .ite h <| .after_queueSend <| .after_modSch h

theorem Canon.after_sendWritten {s n r ws} (h : Canon s) : Canon (sendWritten s n r ws) := by
  unfold sendWritten
  split
  · exact .ite (.after_sendMirrored h) h
  · exact h

theorem Canon.after_endRequest {s n code} (h : Canon s) : Canon (endRequest s n code) := .after_modSch h

theorem CanonAnswer.of_execSysRequestStart {n s} (h : Canon s) : CanonAnswer (execSysRequestStart n s) := by
  unfold execSysRequestStart
  dsimp only
  split
  · refine .ite (.next h) ?_
    refine .ite (.next <| .after_endRequest <| .after_notePoison <| .after_queueTake <| .after_modSch h) ?_
    refine .ite (.next <| .after_askUnits h) ?_
    refine .ite (.next <| .after_endRequest <| .after_logEvent <| .ite (.after_usedFree <|
      .after_readLines <| .after_noteUnits <| .after_queueTake <| .after_modSch h) <|
      .after_noteUnits <| .after_queueTake <| .after_modSch h) ?_
    split
    · exact .next <| .after_haltSch <| .after_usedFree <| .ite (.after_usedFree <|
        .after_readLines <| .after_noteUnits <| .after_queueTake <| .after_modSch h) <|
        .after_noteUnits <| .after_queueTake <| .after_modSch h
    · split
      · refine .next ?_
        refine .after_endRequest ?_
        refine .after_logEvent ?_
        split
        · exact .after_markRefused <| .ite (.after_usedFree <| .after_readLines <|
            .after_noteUnits <| .after_queueTake <| .after_modSch h) <| .after_noteUnits <|
            .after_queueTake <| .after_modSch h
        · exact .ite (.after_usedFree <| .after_readLines <| .after_noteUnits <| .after_queueTake <|
            .after_modSch h) <| .after_noteUnits <| .after_queueTake <| .after_modSch h
      · refine .ite (.next <| .after_moverWait h) ?_
        split
        · exact .next <| .after_haltSch <| .after_sendWritten <| .after_modSch <|
            .after_countList <| .after_runCopy <| .after_moverStart <| .ite (.after_usedFree <|
            .after_readLines <| .after_noteUnits <| .after_queueTake <| .after_modSch h) <|
            .after_noteUnits <| .after_queueTake <| .after_modSch h
        · exact .ite (.next <| .after_endRequest <| .after_logEvent <| .after_modSch <|
            .after_countList <| .after_runCopy <| .after_moverStart <| .ite (.after_usedFree <|
            .after_readLines <| .after_noteUnits <| .after_queueTake <| .after_modSch h) <|
            .after_noteUnits <| .after_queueTake <| .after_modSch h) <| .next <| .after_endRequest <|
            .after_modSch <| .after_countList <| .after_runCopy <| .after_moverStart <|
            .ite (.after_usedFree <| .after_readLines <| .after_noteUnits <| .after_queueTake <|
            .after_modSch h) <| .after_noteUnits <| .after_queueTake <| .after_modSch h
  · exact .next h

theorem Canon.after_transmit {s n o ws} (h : Canon s) : Canon (transmit s n o ws) :=
  .ite (.after_modPort <| .foldl (fun _ _ hr => .after_usedFree <| .after_queueWrite hr) h) <|
    .after_emit <| .after_passFree h
theorem Canon.after_answerFrame {s n o} (h : Canon s) : Canon (answerFrame s n o) := .after_transmit h

theorem Canon.after_completeAction {s n a code} (h : Canon s) : Canon (completeAction s n a code) := by
  unfold completeAction
  split
  · exact h
  · exact .ite (.after_sendSignal h) h
  · exact .ite (.after_endBackground h) h
  · exact .ite (.after_sendMsix <| .after_emit h) h
  · exact .ite (.after_answerFrame h) <| .after_answerFrame <| .after_modQp h

theorem Canon.after_resumeSch {s n} (h : Canon s) : Canon (resumeSch s n) := .ite (.after_sendStream h) h

theorem CanonAnswer.of_execSysRequestComplete {n s} (h : Canon s) : CanonAnswer (execSysRequestComplete n s) := by
  unfold execSysRequestComplete
  split
  · exact .next <| .after_resumeSch <| .after_completeAction <| .after_sendWritten <| .after_modSch h
  · exact .next h

theorem Canon.after_restartSch {s n} (h : Canon s) : Canon (restartSch s n) := by
  unfold restartSch
  split
  · exact .after_resumeSch <| .after_completeAction <| .after_modSch h
  · exact h

theorem CanonAnswer.of_execCpyRestart {n s} (h : Canon s) : CanonAnswer (execCpyRestart n s) :=
  .next <| .after_restartSch h
theorem Canon.after_enableSch {s n enable} (h : Canon s) : Canon (enableSch s n enable) :=
  .after_resumeSch <| .after_modSch h
theorem CanonAnswer.of_execCpyEnable {n enable s} (h : Canon s) : CanonAnswer (execCpyEnable n enable s) :=
  .next <| .after_debugWrite h fun _ hr => .after_enableSch hr

/-! ### Harvest streams and rings -/

theorem Canon.after_modStream {s t i f} (h : Canon s) : Canon (modStream s t i f) := .after_modTen h
theorem Canon.after_writeRecord {m : Mover} {v ps img} (h : Canon m.s) : Canon (writeRecord m v ps img).s :=
  .foldl_s (fun _ _ hr => .after_writeVia hr) h

theorem Canon.after_readRecord {m : Mover} {v ps} (h : Canon m.s) : Canon (readRecord m v ps).1.s := by
  unfold readRecord
  refine .foldl_fst_s (fun q p hq => ?_) h
  dsimp only
  exact .after_readVia hq

theorem Canon.after_refreshStoreHi {s} (h : Canon s) : Canon (refreshStoreHi s) := by
  have h1 {hi} : Canon { s with host := { s.host with storeHi := hi } } := h.frame rfl
  unfold refreshStoreHi
  exact .ite (.after_sendMsix h1) h1

theorem CanonAnswer.of_execHarvestTake {t stream s} (h : Canon s) : CanonAnswer (execHarvestTake t stream s) := by
  unfold execHarvestTake
  dsimp only
  split
  · exact .next h
  · refine .ite (.next h) ?_
    refine .ite (.next <| .after_moverWait h) ?_
    split
    · exact .next <| .after_haltSch <| .after_modStream <| .after_setTally <|
        .after_moverFinish <| .after_writeRecord <| .after_readVia <| .after_moverStart h
    · exact .next <| .after_refreshStoreHi <| .after_modStream <| .after_countSch <|
        .after_setTally <| .after_moverFinish <| .after_writeRecord <| .after_readVia <| .after_moverStart h

theorem Canon.after_writeFlag {s ring seq} (h : Canon s) : Canon (writeFlag s ring seq) :=
  .after_sendMsix <| .after_emit <| .after_modRing <| .after_countSch h
theorem Canon.after_readRecords {s t x first n} (h : Canon s) : Canon (readRecords s t x first n).1.s :=
  .foldl_fst_s (fun _ _ hr => .ite_fst_s hr <| .after_readRecord hr) <| .after_moverStart h
theorem Canon.after_sendRecords {s r rs} (h : Canon s) : Canon (sendRecords s r rs) :=
  .foldl (fun _ _ hr => .after_emit <| .after_countSch hr) h

theorem CanonAnswer.of_execHarvestRecordWrite {ring n s} (h : Canon s) :
    CanonAnswer (execHarvestRecordWrite ring n s) := by
  unfold execHarvestRecordWrite
  dsimp only
  refine .ite (.next h) ?_
  refine .ite (.next <| .after_moverWait h) ?_
  split
  · exact .next <| .after_haltSch <| .after_sendRecords <| .after_moverFinish <| .after_readRecords h
  · exact .ite (.next <| .after_emit <| .after_modRing <| .after_sendRecords <|
      .after_moverFinish <| .after_readRecords h) <| .next <| .after_writeFlag <|
      .after_sendRecords <| .after_moverFinish <| .after_readRecords h

theorem Canon.after_failFlush {s ring} (h : Canon s) : Canon (failFlush s ring) := .after_logEvent <| .after_modRing h

theorem CanonAnswer.of_execFlushReadComplete {ring ok s} (h : Canon s) :
    CanonAnswer (execFlushReadComplete ring ok s) := by
  unfold execFlushReadComplete
  split
  · exact .next h
  · exact .next <| .ite (.after_writeFlag h) <| .after_failFlush h

theorem CanonAnswer.of_execHrvHeadWrite {ring head s} (h : Canon s) : CanonAnswer (execHrvHeadWrite ring head s) :=
  .ite (.next <| .after_dropBar0 h) <| .next <| .ite (.after_refreshStoreHi <| .after_modStream <|
    .after_modRing h) <| .after_modRing h
theorem CanonAnswer.of_execBindRing {slot s} (h : Canon s) : CanonAnswer (execBindRing slot s) :=
  .of_runMailbox h fun _ _ hr => .dite (fun _ => .ite (.after_respond hr) <|
    .after_respond <| .after_refreshStoreHi <| .after_modRing <| .after_modStream hr) fun _ => .after_respond hr
theorem Canon.after_unbindRing {s ring} (h : Canon s) : Canon (unbindRing s ring) :=
  .after_modRing <| .after_modStream h
theorem CanonAnswer.of_execUnbindRing {slot s} (h : Canon s) : CanonAnswer (execUnbindRing slot s) :=
  .of_runMailbox h fun _ _ hr => .dite (fun _ => .ite (.after_respond <| .after_refreshStoreHi <|
    .after_unbindRing hr) <| .after_respond hr) fun _ => .after_respond hr
theorem CanonAnswer.of_execReplayRing {slot s} (h : Canon s) : CanonAnswer (execReplayRing slot s) :=
  .of_runMailbox h fun _ _ hr => .dite (fun _ => .ite (.after_endBackground hr) <|
    .ite (.after_endBackground hr) <| .after_endBackground <| .after_modRing hr) fun _ => .after_endBackground hr

/-! ### Loading and removing tenants -/

theorem Canon.after_refreshSpares {s} (h : Canon s) : Canon (refreshSpares s) :=
  .foldl (fun _ _ hr => .after_modPan hr) h
theorem Canon.after_bindPans {s t} (h : Canon s) : Canon (bindPans s t) :=
  .after_refreshSpares <| .foldl (fun _ _ hr => .after_modPan hr) h

theorem Canon.after_unbindPans {s t} (h : Canon s) : Canon (unbindPans s t) := by
  unfold unbindPans
  refine .after_refreshSpares ?_
  refine .foldl ?_ h
  intro _ _ hr
  split
  · exact .ite (.after_modPan <| hr.frame rfl) hr
  · exact hr

theorem Canon.after_freshSaved {s t} (h : Canon s) : Canon (freshSaved s t) := h.frame rfl
theorem Canon.after_ownTallies {s base n owner} (h : Canon s) : Canon (ownTallies s base n owner) :=
  h.put_tallies (tabSetList_wf _ _ _ _)
theorem Canon.after_ownGates {s base owner gs} (h : Canon s) : Canon (ownGates s base owner gs) :=
  h.put_gates (tabSetList_wf _ _ _ _)
theorem Canon.after_freeTallies {s base n t} (h : Canon s) : Canon (freeTallies s base n t) :=
  h.put_tallies (foldl_table_wf _ _ _ _ fun r k hr => by split; exacts [tabSet_wf _ _ _ _ hr, hr])
theorem Canon.after_freeGates {s base n t} (h : Canon s) : Canon (freeGates s base n t) :=
  h.put_gates (foldl_table_wf _ _ _ _ fun r k hr => by split; exacts [tabSet_wf _ _ _ _ hr, hr])

theorem Canon.after_putInits {s b ins} (h : Canon s) : Canon (putInits s b ins).1 := by
  unfold putInits
  refine .foldl_fst (fun r i hr => ?_) h
  split
  · exact hr
  · extract_lets put
    have hput : ∀ key region, Canon (put key region).1 := fun _ _ => .after_putBytes hr
    clear_value put
    refine .ite_fst (hput _ _) ?_
    split
    · exact hput _ _
    · exact hr

theorem Canon.after_setTable {s table} (h : Canon s) : Canon (setTable s table) := .ite (h.frame rfl) <| h.frame rfl
theorem Canon.after_barUntilTable {s t} (h : Canon s) : Canon (barUntilTable s t) := .ite h <| h.frame rfl
theorem Canon.after_markSliced {s table} (h : Canon s) : Canon (markSliced s table) :=
  .foldl (fun _ _ hr => .after_modTen hr) h
theorem Canon.after_fillStack {s k} (h : Canon s) : Canon (fillStack s k) :=
  .foldl (fun _ _ h1 => .after_modUnit h1) <| .foldl (fun _ _ h2 => .after_fillTrace h2) <|
    .foldl (fun _ _ h3 => .after_prechargeBank h3) h
theorem Canon.after_countFill {s} (h : Canon s) : Canon (countFill s) := by
  rw [countFill]
  exact h.with_dram (.foldl (fun _ _ hr => .after_fillStack hr) h)

theorem Canon.after_fillDram {s} (h : Canon s) : Canon (fillDram s) := by
  unfold fillDram
  extract_lets s0 log rst s1
  have h0 : Canon s0 := .foldl (fun _ _ hr => .after_modStack hr) (.after_countFill h)
  clear_value s0
  have h1 : Canon s1 := h0.frame rfl
  clear_value s1
  exact .ite (.foldl (fun _ _ hr => .foldl (fun _ _ hq => .after_injectRange hq) hr) h1) h1

theorem CanonSome.of_bindImage {s c slot region i img bind table elig n budget} (h : Canon s) :
    CanonSome (bindImage s c slot region i img bind table elig n budget) := by
  unfold bindImage
  extract_lets s0 made q owner s1 s2 s3
  have hmade : ∀ r, Canon r → Canon (made r) := fun _ hr => .after_setTen <| .after_freshSaved hr
  clear_value made
  have hq : Canon q.1 := .after_putInits <| .after_markSliced h
  clear_value q
  have h2 : Canon s2 := .after_countSch <| .after_setTable <| .after_barUntilTable <| .after_ownGates <|
    .after_ownTallies <| .after_markSliced <| hmade _ hq
  clear_value s2
  have h3 : Canon s3 := .ite (.after_bindPans h2) h2
  clear_value s3
  refine .ite .none ?_
  split
  · exact .some <| .after_haltSch hq
  · exact .some <| .after_endBackground h3

theorem CanonAnswer.of_execLoadImage {slot img bind table s} (h : Canon s) :
    CanonAnswer (execLoadImage slot img bind table s) := by
  refine .of_runMailbox h fun a r hr => ?_
  extract_lets region
  split
  · exact hr
  · exact .after_endBackground hr
  · split
    next hd rd _ =>
    refine .ite (.after_askUnits hr) ?_
    extract_lets s0 s0' s1 i
    have hs0 : Canon s0 := .after_noteUnits hr
    clear_value s0
    have hs0' : Canon s0' := .ite (.after_usedFree <| .after_readLines hs0) hs0
    clear_value s0'
    have hs1 : Canon s1 := .ite (.after_fillDram hs0') hs0'
    clear_value s1
    refine .ite (.after_endBackground <| .after_logEvent hs1) <| .ite (.after_endBackground hs1) ?_
    split
    · exact .after_endBackground hs1
    · exact .after_endBackground <| .after_logEvent hs1
    · split
      · exact .after_endBackground hs1
      · exact .getD (.of_bindImage hs1) hr

theorem Canon.after_revokeKeys {s t} (h : Canon s) : Canon (revokeKeys s t) :=
  h.put_keys (tabClean_map_wf _ _ _ (by intros; split <;> rfl))
theorem Canon.after_refillReserve {s freed} (h : Canon s) : Canon (refillReserve s freed) := h.frame rfl

theorem Canon.after_loseMessages {s t} (h : Canon s) : Canon (loseMessages s t) :=
  h.put_ports <| tab_map_wf _ _ _ (by intros; rfl) <| by
    rintro ⟨k, x⟩ hx
    cases x
    simpa only [PortSt.reset, PortSt.mk.injEq, Option.map_eq_none_iff] using hx

theorem Canon.after_dropTenant {s t} (h : Canon s) : Canon (dropTenant s t) := by
  unfold dropTenant
  extract_lets x s1 s2 s3 s4 y s5
  have hs2 : Canon s2 := .foldl (fun _ _ hr => .ite (.after_queueTake <| .after_modLane hr) hr) <| .after_freshSaved <|
    .after_unbindPans h
  clear_value s2
  have hs4 : Canon s4 := .after_freeGates <| .after_freeTallies <|
    .foldl (fun _ _ hr => .ite (.after_unbindRing hr) hr) hs2
  clear_value s4
  have hs5 : Canon s5 := hs4.frame rfl
  exact .after_refreshStoreHi <| .after_refillReserve <| .after_setTen <| .after_loseMessages <| .after_revokeKeys hs5

theorem CanonAnswer.of_execUnload {slot table s} (h : Canon s) : CanonAnswer (execUnload slot table s) :=
  .of_runMailbox h fun _ _ hr => .dite (fun _ => .ite (.after_endBackground hr) <| .ite hr <|
    .ite (.after_endBackground <| .after_markSliced <| .after_setTable <| .after_retryDegraded <|
    .after_dropTenant hr) hr) fun _ => .after_endBackground hr

theorem Canon.after_commitClock {s ks clk} (h : Canon s) : Canon (commitClock s ks clk) :=
  .foldl (fun _ _ h1 => .ite (.after_modTen h1) h1) <| .foldl (fun _ _ h2 => .ite h2 <| .after_modStack h2) h
theorem Canon.after_quiesceTenant {s t} (h : Canon s) : Canon (quiesceTenant s t) := .after_modTen h

theorem CanonAnswer.of_execStart {slot s} (h : Canon s) : CanonAnswer (execStart slot s) := by
  unfold execStart
  dsimp only
  refine .of_runMailbox h ?_
  intro _ _ hr
  refine .dite ?_ (fun _ => .after_respond hr)
  intro _
  refine .ite (.after_respond hr) ?_
  split
  · exact .after_respond hr
  · exact .ite (.after_respond hr) <| .after_respond <| .ite (.after_commitClock <|
      .ite (.after_quiesceTenant <| .after_modTen hr) <| .after_modTen hr) <|
      .ite (.after_quiesceTenant <| .after_modTen hr) <| .after_modTen hr

theorem CanonAnswer.of_execSetWeight {slot table s} (h : Canon s) : CanonAnswer (execSetWeight slot table s) :=
  .of_runMailbox h fun _ _ hr => .dite (fun _ => .ite (.after_respond hr) <| .ite hr <|
    .after_respond <| .after_setTable <| .after_modTen hr) fun _ => .after_respond hr
theorem CanonAnswer.of_execPlcBudget {slot s} (h : Canon s) : CanonAnswer (execPlcBudget slot s) :=
  .of_runMailbox h fun _ _ hr => .dite (fun _ => .ite (.after_respond hr) <| .ite (.after_respond <|
    .after_modTen hr) <| .after_respond hr) fun _ => .after_respond hr

theorem CanonAnswer.of_execPlcTrim {slot s} (h : Canon s) : CanonAnswer (execPlcTrim slot s) := by
  unfold execPlcTrim
  dsimp only
  refine .of_runMailbox h ?_
  intro _ _ hr
  refine .dite ?_ (fun _ => .after_respond hr)
  intro _
  split
  · exact .after_respond hr
  · exact .after_respond <| .after_modTen hr

theorem CanonAnswer.of_execPlcQuery {slot s} (h : Canon s) : CanonAnswer (execPlcQuery slot s) :=
  .of_runMailbox h fun _ _ hr => .after_respond hr

theorem CanonAnswer.of_execPlcRetire {slot s} (h : Canon s) : CanonAnswer (execPlcRetire slot s) :=
  .of_runMailbox h fun _ _ hr => .ite (.dite (fun _ => .after_respond <|
    .after_retirePan hr) fun _ => .after_respond hr) <| .dite (fun _ => .after_respond <|
    .after_retireBank hr) fun _ => .after_respond hr

/-! ### Tides and slices -/

theorem Canon.after_sendRecord {s t body} (h : Canon s) : Canon (sendRecord s t body) :=
  .after_modTen <| .frame (.after_sendStream h) rfl
theorem Canon.after_modPans {s t f} (h : Canon s) : Canon (modPans s t f) := .foldl (fun _ _ hr => .after_modPan hr) h
theorem Canon.after_logAbandoned {s t} (h : Canon s) : Canon (logAbandoned s t) :=
  .foldl (fun _ _ hr => .ite hr <| .after_logEvent hr) h
theorem Canon.after_dropWaits {s t} (h : Canon s) : Canon (dropWaits s t) := h.frame rfl
theorem Canon.after_sendUnfinished {s t} (h : Canon s) : Canon (sendUnfinished s t) :=
  .foldl (fun _ _ hr => .after_sendMirrored hr) h
theorem Canon.after_haltTenant {s t code slot} (h : Canon s) : Canon (haltTenant s t code slot) :=
  .after_modTen <| .after_modPans <| .after_dropWaits <| .after_logAbandoned <|
    .after_sendUnfinished <| .after_logEvent h

theorem Canon.after_closeTide {s t} (h : Canon s) : Canon (closeTide s t) := by
  unfold closeTide
  dsimp only
  refine .ite ?_ ?_
  · split
    · exact .after_haltTenant h
    · exact h
  · split
    · exact .after_modTen <| .ite (.after_sendRecord <| .after_modPans h) <| .after_modPans h
    · exact .after_haltTenant <| .after_modPans h

theorem Canon.after_resumeTenant {s t} (h : Canon s) : Canon (resumeTenant s t) := .ite (.after_modTen h) h

theorem Canon.after_takeBudget {s t} (h : Canon s) : Canon (takeBudget s t) := by
  unfold takeBudget
  split
  · exact h
  · exact .after_refillReserve <| .after_modTen h

theorem Canon.after_takeTrims {s t} (h : Canon s) : Canon (takeTrims s t) := .after_modTen h

theorem Canon.after_bindMove {s t m} (h : Canon s) : Canon (bindMove s t m) := by
  unfold bindMove
  dsimp only
  split
  · split
    · exact .ite (.after_refreshSpares <| .after_modPan <| .after_modPan <| .after_modTen h) <| .after_modTen h
    · exact .after_modTen h
  · exact h
  · exact .after_mapSpare <| .after_prepareBanks h

theorem Canon.after_bindBanks {s t ms} (h : Canon s) : Canon (bindBanks s t ms) :=
  .after_refillReserve <| .after_modTen h
theorem Canon.after_bindMoves {s t} (h : Canon s) : Canon (bindMoves s t) :=
  .after_modTen <| .foldl (fun _ _ h1 => .after_bindMove h1) <| .foldl (fun _ _ h2 => .after_bindBanks h2) h

theorem Canon.after_bindSlot {s t k z given} (h : Canon s) : Canon (bindSlot s t k z given) := by
  unfold bindSlot
  dsimp only
  split
  · exact .after_modTen <| .after_modTen h
  · exact .after_logEvent <| .after_modTen h

theorem Canon.after_bindGrowth {s t grow} (h : Canon s) : Canon (bindGrowth s t grow) := by
  unfold bindGrowth
  refine .foldl_fst ?_ h
  intro _ _ hr
  split
  · exact hr
  · exact .ite_fst hr <| .after_bindSlot hr

theorem Canon.after_decideGrowth {s t} (h : Canon s) : Canon (decideGrowth s t) := by
  unfold decideGrowth
  dsimp only
  refine .foldl ?_ h
  intro _ _ hr
  split
  · exact hr
  · split
    · exact hr
    · exact .ite (.after_modTen hr) <| .ite (.after_logEvent <| .after_modTen hr) <| .after_modTen hr

theorem Canon.after_placerBoundary {s t grow} (h : Canon s) : Canon (placerBoundary s t grow) :=
  .after_decideGrowth <| .ite (.after_retryDegraded <| .after_bindMoves <| .after_takeTrims <|
    .after_takeBudget h) <| .after_bindGrowth <| .after_retryDegraded <| .after_bindMoves <|
    .after_takeTrims <| .after_takeBudget h

theorem Canon.after_logGear {s t old new} (h : Canon s) : Canon (logGear s t old new) :=
  .after_logEvent <| h.frame rfl

theorem Canon.after_enterGear {s t} (h : Canon s) : Canon (enterGear s t) := by
  unfold enterGear
  dsimp only
  split
  · exact h
  · exact .ite h <| .after_logGear <| .after_modTen h

theorem Canon.after_noteNoRoom {s t} (h : Canon s) : Canon (noteNoRoom s t) :=
  .ite (h.frame rfl) <| .after_modTen <| .after_logEvent <| h.frame rfl

theorem Canon.after_noteThrottle {s t} (h : Canon s) : Canon (noteThrottle s t) := by
  unfold noteThrottle
  extract_lets s1 y
  have hs1 : Canon s1 := .after_modTen h
  exact .ite hs1 <| .after_logEvent <| hs1.frame rfl

theorem Canon.after_otherCauses {s t} (h : Canon s) : Canon (otherCauses s t).1 :=
  .ite (.after_noteThrottle <| .ite h <| .after_noteNoRoom h) <| .ite h <| .after_noteNoRoom h

theorem Canon.after_testEntry {s t body} (h : Canon s) : Canon (testEntry s t body).1 := by
  unfold testEntry
  split
  · exact h
  · exact .ite_fst (.ite h <| h.frame rfl) <| .after_setTally <| h.frame rfl

theorem Canon.after_startPan {s p base body} (h : Canon s) : Canon (startPan s p base body) :=
  .ite (.after_trapPan <| .after_modPan h) <| .ite (.after_trapPan <| .after_noteWord <| .after_modPan h) <|
    .ite (.after_trapPan <| .after_noteWord <| .after_modPan h) <| .after_modPan <| .after_noteWord <| .after_modPan h
theorem Canon.after_idlePans {s t} (h : Canon s) : Canon (idlePans s t) := .after_modPans h
theorem Canon.after_nextTide {s t} (h : Canon s) : Canon (nextTide s t) := .after_modTen h

theorem Canon.after_beginTide {s t} (h : Canon s) : Canon (beginTide s t) := by
  unfold beginTide
  extract_lets s1 x body
  have hs1 : Canon s1 := .after_enterGear <| .after_nextTide h
  clear_value s1
  split
  next s2 idle e1 =>
  have hs2 : Canon s2 := .of_fst e1 <| .after_otherCauses hs1
  split
  next s3 go e2 =>
  have hs3 : Canon s3 := .of_fst e2 <| .ite_fst hs2 <| .after_testEntry hs2
  exact .ite (.foldl (fun _ _ hr => .after_startPan hr) <| .after_modTen hs3) <| .after_idlePans <| .after_modTen hs3

theorem CanonAnswer.of_execBoundaryTick {t grow s} (h : Canon s) : CanonAnswer (execBoundaryTick t grow s) :=
  .ite (.next h) <| .ite (.next <| .after_closeTide <| .after_applySignals h) <|
    .ite (.next <| .after_quiesceTenant <| .after_closeTide <| .after_applySignals h) <|
    .ite (.next <| .after_idlePans <| .after_placerBoundary <| .after_closeTide <| .after_applySignals h) <|
    .next <| .after_beginTide <| .after_placerBoundary <| .after_closeTide <| .after_applySignals h

theorem CanonAnswer.of_execCommitTick {t s} (h : Canon s) : CanonAnswer (execCommitTick t s) := by
  unfold execCommitTick
  dsimp only
  refine .ite (.next h) ?_
  refine .ite (.next h) ?_
  split
  · exact .next <| .after_modTen h
  · exact .ite (.next <| .after_commitClock <| .after_modTen h) <| .next <| .after_modTen h

theorem Canon.after_leaveSlice {s t} (h : Canon s) : Canon (leaveSlice s t) := .after_modTen <| .after_unbindPans h
theorem Canon.after_arriveSlice {s t} (h : Canon s) : Canon (arriveSlice s t) :=
  .foldl (fun _ _ hr => .after_enterPond hr) <| .after_bindPans h
theorem Canon.after_turnover {s old new} (h : Canon s) : Canon (turnover s old new) :=
  .frame (.foldl (fun _ _ h1 => .after_arriveSlice h1) <| .foldl (fun _ _ h2 => .after_leaveSlice h2) h) rfl

theorem CanonAnswer.of_execSliceEntryEnd {s} (h : Canon s) : CanonAnswer (execSliceEntryEnd s) :=
  .ite (.next h) <| .ite (.next <| h.frame rfl) <| .ite (.next <|
    .foldl (fun _ _ h1 => .ite (.after_quiesceTenant h1) h1) <|
    .foldl (fun _ _ h2 => .after_closeTide h2) <| .after_applySignals h) <| .next <| .after_turnover <|
    .frame (.foldl (fun _ _ h3 => .after_closeTide h3) <| .after_applySignals h) rfl

theorem CanonAnswer.of_execTurnoverEnd {s} (h : Canon s) : CanonAnswer (execTurnoverEnd s) :=
  .ite (.next h) <| .next <| .foldl (fun _ _ hr => .after_modTen hr) <| h.frame rfl

/-! ### The host: queues, lanes, regions, attach and loss -/

theorem Canon.after_readRespq {s} (h : Canon s) : Canon (readRespq s).2 :=
  .ite_snd h <| .after_drainNotices <| .after_notePoison <| h.frame rfl
theorem Canon.after_readEvq {s} (h : Canon s) : Canon (readEvq s).2 := .ite_snd h <| .after_notePoison <| h.frame rfl
theorem CanonAnswer.of_execHostRespqRead {s} (h : Canon s) : CanonAnswer (execHostRespqRead s) :=
  .next <| .after_emit <| .after_readRespq h
theorem CanonAnswer.of_execHostEvqRead {s} (h : Canon s) : CanonAnswer (execHostEvqRead s) :=
  .next <| .after_emit <| .after_readEvq h
theorem Canon.after_flushResp {s} (h : Canon s) : Canon (flushResp s) := .after_drainAllNotices <| h.frame rfl
theorem Canon.after_flushEv {s} (h : Canon s) : Canon (flushEv s) := h.frame rfl
theorem CanonAnswer.of_execFlushResp {s} (h : Canon s) : CanonAnswer (execFlushResp s) :=
  .ite (.next <| .after_flushResp h) <| .next <| h.frame rfl
theorem CanonAnswer.of_execFlushEv {s} (h : Canon s) : CanonAnswer (execFlushEv s) :=
  .ite (.next <| .after_flushEv h) <| .next <| h.frame rfl
theorem CanonAnswer.of_execQueueFlushEffect {ev s} (h : Canon s) : CanonAnswer (execQueueFlushEffect ev s) :=
  .ite (.next h) <| .next <| .ite (.after_flushEv h) <| .after_flushResp h
theorem Canon.after_stageBytes {s lane i bs} (h : Canon s) : Canon (stageBytes s lane i bs) :=
  .ite (.ite h <| .after_putBytes h) <| .after_putBytes <| .ite h <| .after_putBytes h
theorem CanonAnswer.of_execIngestWrite {lane off data s} (h : Canon s) :
    CanonAnswer (execIngestWrite lane off data s) :=
  .ite (.next <| .after_modLane h) <| .ite (.next h) <| .next <| .after_modLane <| .after_stageBytes h
theorem CanonAnswer.of_execBar2Read {_lane _off s} (h : Canon s) : CanonAnswer (execBar2Read _lane _off s) :=
  .next <| .after_emit <| h.frame rfl
theorem CanonAnswer.of_execIngestDoorbell {lane token s} (h : Canon s) :
    CanonAnswer (execIngestDoorbell lane token s) :=
  .ite (.next <| .after_modLane h) <| .ite (.next h) <| .next <| .after_queueSend <| .after_modLane h

theorem Canon.after_drainMover {s lane l v n} (h : Canon s) : Canon (drainMover s lane l v n).s := by
  unfold drainMover
  refine .after_moverFinish (.foldl_s (fun m b hm => ?_) (.after_moverStart h))
  dsimp only
  have hread : ∀ e, Canon (m.read 8 e).1.s := fun _ => .after_moverRead hm
  exact .ite_s hm (.ite_s (hread _) (.after_moverWrite (hread _)))

theorem CanonDrained.of_drainLane {s lane n} (h : Canon s) : CanonDrained (drainLane s lane n) := by
  unfold drainLane
  dsimp only
  split
  · exact .ok <| .after_modLane h
  · refine .ite (.error <| .after_drainMover h) ?_
    split
    · refine .ok ?_
      split
      · exact .after_sendMirrored <| .after_countSch <| .after_modLane <| .after_drainMover h
      · exact .after_countSch <| .after_modLane <| .after_drainMover h
    · refine .ok ?_
      refine .after_haltSch ?_
      split
      · exact .after_sendMirrored <| .after_countSch <| .after_modLane <| .after_drainMover h
      · exact .after_countSch <| .after_modLane <| .after_drainMover h

theorem Canon.after_serveBell {s lane} (h : Canon s) : Canon (serveBell s lane) := by
  unfold serveBell
  dsimp only
  refine .ite h ?_
  split
  · refine .ite h ?_
    split
    · next e1 =>
        exact (CanonDrained.of_drainLane h).of_ok e1
    · exact .after_moverWait h
  · refine .ite h ?_
    split
    · exact .after_moverWait h
    · next e2 =>
        exact .ite (.after_sendSignal <| .after_modLane <| .ite (.after_modLane <|
          (CanonDrained.of_drainLane h).of_ok e2) <| .after_queueTake <| .after_modLane <|
          (CanonDrained.of_drainLane h).of_ok e2) <| .ite (.after_modLane <|
          (CanonDrained.of_drainLane h).of_ok e2) <| .after_queueTake <| .after_modLane <|
          (CanonDrained.of_drainLane h).of_ok e2

theorem CanonAnswer.of_execIngestDoorbellSignal {bell s} (h : Canon s) :
    CanonAnswer (execIngestDoorbellSignal bell s) :=
  .ite (.next <| .after_serveBell h) <| .next <| .foldl (fun _ _ hr => .ite hr <|
    .after_serveBell hr) <| .after_notePoison h

theorem CanonAnswer.of_execBindLane {slot s} (h : Canon s) : CanonAnswer (execBindLane slot s) :=
  .of_runMailbox h fun _ _ hr => .dite (fun _ => .ite (.after_respond hr) <| .after_respond <|
    .after_modLane hr) fun _ => .after_respond hr
theorem Canon.after_drainAll {s lane} (h : Canon s) : Canon (drainAll s lane) :=
  .foldl (fun _ _ hr => .after_serveBell hr) h
theorem CanonAnswer.of_execUnbindLane {slot s} (h : Canon s) : CanonAnswer (execUnbindLane slot s) :=
  .of_runMailbox h fun _ _ hr => .dite (fun _ => .ite (.after_respond hr) <|
    .ite (.after_drainAll hr) <| .after_respond <| .after_modLane <| .after_drainAll hr) fun _ => .after_respond hr
theorem Canon.after_setRegion {s r x} (h : Canon s) : Canon (setRegion s r x) := h.frame rfl
theorem Canon.after_clearPlace {s pl} (h : Canon s) : Canon (clearPlace s pl) :=
  .foldl (fun _ _ hr => .after_modStack hr) <| h.frame rfl
theorem CanonAnswer.of_execStage {slot region pl s} (h : Canon s) : CanonAnswer (execStage slot region pl s) :=
  .of_runMailbox h fun _ _ hr => .ite (.after_endBackground hr) <| .ite hr <|
    .after_endBackground <| .after_setRegion <| .ite (.after_clearPlace hr) hr
theorem CanonAnswer.of_execMapHost {slot region s} (h : Canon s) : CanonAnswer (execMapHost slot region s) :=
  .of_runMailbox h fun _ _ hr => .ite (.after_respond hr) <| .ite hr <| .after_respond <| .after_setRegion hr
theorem CanonAnswer.of_execSignal {slot s} (h : Canon s) : CanonAnswer (execSignal slot s) :=
  .of_runMailbox h fun _ _ hr => .dite (fun _ => .ite (.after_respond hr) <|
    .ite (.after_respond hr) <| .after_respond <| .after_sendSignal hr) fun _ => .after_respond hr
theorem CanonAnswer.of_execGateArrive {slot s} (h : Canon s) : CanonAnswer (execGateArrive slot s) :=
  .of_runMailbox h fun _ _ hr => .ite hr <| .dite (fun _ => .ite (.after_endBackground hr) <|
    hr.frame rfl) fun _ => .after_endBackground hr
theorem CanonAnswer.of_execGatePorts {slot s} (h : Canon s) : CanonAnswer (execGatePorts slot s) :=
  .of_runMailbox h fun _ _ hr => .dite (fun _ => .ite (.after_respond hr) <| .after_respond <|
    hr.frame rfl) fun _ => .after_respond hr

theorem CanonAnswer.of_execSyncDump {slot s} (h : Canon s) : CanonAnswer (execSyncDump slot s) := by
  unfold execSyncDump
  dsimp only
  refine .of_runMailbox h ?_
  intro _ _ hr
  refine .ite hr ?_
  split
  · exact .ite (hr.frame rfl) <| .after_endBackground hr
  · exact .after_endBackground hr

theorem Canon.after_putAt {s v off bs} (h : Canon s) : Canon (putAt s v off bs).1 := by
  unfold putAt
  split
  · exact h
  · exact .ite_fst (.ite (.after_emit h) h) <| .after_putBytes h

theorem Canon.after_putRegion {s v off bs} (h : Canon s) : Canon (putRegion s v off bs).1 :=
  .ite_fst (.ite_fst (.after_putAt h) <| .after_putAt <| .after_putAt h) <| .after_putAt h

theorem Canon.after_endDump {s slot x n} (h : Canon s) : Canon (endDump s slot x n) := by
  unfold endDump
  dsimp only
  split
  · exact .after_endBackground h
  · exact .ite (.after_endBackground <| .after_logEvent <| .after_putRegion h) <|
      .after_endBackground <| .after_putRegion h

theorem CanonAnswer.of_execSnapshotComplete {s} (h : Canon s) : CanonAnswer (execSnapshotComplete s) := by
  unfold execSnapshotComplete
  dsimp only
  split
  · exact .next h
  · split
    · exact .next <| h.frame rfl
    · exact .next <| .after_endDump <| h.frame rfl
    · exact .next <| .after_replyLines <| h.frame rfl

theorem CanonAnswer.of_execReset {slot s} (h : Canon s) : CanonAnswer (execReset slot s) := by
  unfold execReset
  refine .of_runMailbox h ?_
  intro _ _ hr
  split
  · exact .after_endBackground hr
  · exact .after_endBackground hr
  · exact .after_endBackground hr

theorem Canon.after_modRings {s f} (h : Canon s) : Canon (modRings s f) := .foldl (fun _ _ hr => .after_modRing hr) h

theorem Canon.after_attachNow {s} (h : Canon s) : Canon (attachNow s) := by
  unfold attachNow
  extract_lets s0 s1
  have hs0 : Canon s0 := .foldl (fun _ _ hr => .ite (.after_leaveSelfRefresh hr) hr) h
  clear_value s0
  have hs1 : Canon s1 := hs0.frame rfl
  exact .ite hs1 (.after_modRings hs1)

theorem CanonAnswer.of_execHostAttach {v s} (h : Canon s) : CanonAnswer (execHostAttach v s) := by
  unfold execHostAttach
  refine .ite (.next <| .after_dropBar0 h) ?_
  refine .ite (.next h) ?_
  split
  · exact .next <| h.frame rfl
  · exact .next <| .after_attachNow h

theorem Canon.after_loseRing {s n} (h : Canon s) : Canon (loseRing s n) :=
  .ite (.after_failFlush h) <| .ite (.after_modRing h) h
theorem Canon.after_preserveTenant {s t} (h : Canon s) : Canon (preserveTenant s t) :=
  .ite (.after_modTen h) <| .ite (.after_quiesceTenant <| .after_modTen h) <| .ite (.after_modTen h) h
theorem Canon.after_crashMode {s} (h : Canon s) : Canon (crashMode s) :=
  .ite (h.frame rfl) <| .foldl (fun _ _ hr => .after_preserveTenant hr) <| h.frame rfl
theorem Canon.after_linkLost {s} (h : Canon s) : Canon (linkLost s) := h.frame rfl

theorem Canon.after_loseHost {s} (h : Canon s) : Canon (loseHost s) := by
  unfold loseHost
  extract_lets s1 s2
  have hs1 : Canon s1 := .after_linkLost <| .foldl (fun _ _ hr => .after_loseRing hr) h
  clear_value s1
  have hs2 : Canon s2 := .after_queueClear (hs1.frame rfl)
  exact .ite (.after_linkLost h) (.after_crashMode <| .after_logEvent <| .after_drainAllNotices hs2)

theorem CanonAnswer.of_execHostLoss {_k s} (h : Canon s) : CanonAnswer (execHostLoss _k s) :=
  .next <| .after_loseHost h
theorem CanonAnswer.of_execLinkRetrain {s} (h : Canon s) : CanonAnswer (execLinkRetrain s) := .next <| h.frame rfl
theorem CanonAnswer.of_execSnoop {_addr s} (h : Canon s) : CanonAnswer (execSnoop _addr s) := .next <| .after_emit h
theorem CanonAnswer.of_execLinkUp {width speed flit cache s} (h : Canon s) :
    CanonAnswer (execLinkUp width speed flit cache s) :=
  .next <| .ite (.after_drainAllNotices <| h.frame rfl) h

/-! ### M slots -/

theorem Canon.after_queueM {s p b op} (h : Canon s) : Canon (queueM s p b op) := .after_modPan h
theorem CanonAnswer.of_execMnop {p b z s} (h : Canon s) : CanonAnswer (execMnop p b z s) :=
  .next <| .after_issueSlot h fun _ hr => hr
theorem CanonAnswer.of_execMfmt {p b fa fb sc gs z s} (h : Canon s) : CanonAnswer (execMfmt p b fa fb sc gs z s) :=
  .next <| .after_issueSlot h fun _ hr => .after_queueM hr
theorem CanonAnswer.of_execMsca {p b ga rows z s} (h : Canon s) : CanonAnswer (execMsca p b ga rows z s) :=
  .next <| .after_issueSlot h fun _ hr => .after_queueM <| .after_noteWords hr
theorem CanonAnswer.of_execMldb {p b ga gt gc bs z s} (h : Canon s) : CanonAnswer (execMldb p b ga gt gc bs z s) :=
  .next <| .after_issueSlot h fun _ hr => .after_queueM <| .after_noteWords hr
theorem CanonAnswer.of_execMldbt {p b tb gr bs z s} (h : Canon s) : CanonAnswer (execMldbt p b tb gr bs z s) :=
  .next <| .after_issueSlot h fun _ hr => .after_queueM hr
theorem CanonAnswer.of_execMmv {p b va vd n acc out bs z s} (h : Canon s) :
    CanonAnswer (execMmv p b va vd n acc out bs z s) :=
  .next <| .after_issueSlot h fun _ hr => .after_queueM hr
theorem CanonAnswer.of_execMmt {p b gr ta td n acc out bs z s} (h : Canon s) :
    CanonAnswer (execMmt p b gr ta td n acc out bs z s) :=
  .next <| .after_issueSlot h fun _ hr => .after_queueM hr

theorem CanonAnswer.of_execMOpStart {p s} (h : Canon s) : CanonAnswer (execMOpStart p s) := by
  unfold execMOpStart
  split
  · exact .next h
  · refine .ite (.next h) ?_
    split
    · exact .next <| .after_trapPan h
    · exact .next <| .after_modPan h

theorem CanonAnswer.of_execMOpComplete {p k s} (h : Canon s) : CanonAnswer (execMOpComplete p k s) := by
  unfold execMOpComplete
  split
  · exact .next h
  · exact .ite (.next h) <| .next <| .after_modPan h

/-! ### Pond commands -/

theorem Canon.after_settleExit {s k q} (h : Canon s) : Canon (settleExit s k q) := .ite (.after_modStack h) h
theorem CanonAnswer.of_execPondEnter {k q s} (h : Canon s) : CanonAnswer (execPondEnter k q s) :=
  .next <| .after_enterPond h
theorem CanonAnswer.of_execPondExit {k q s} (h : Canon s) : CanonAnswer (execPondExit k q s) :=
  .next <| .after_settleExit <| .after_modStack h
theorem CanonAnswer.of_execPmodeInj {k q inj s} (h : Canon s) : CanonAnswer (execPmodeInj k q inj s) :=
  .next <| .after_modStack h
theorem Canon.after_notePondErr {s st code op stat tag die bank} (h : Canon s) :
    Canon (notePondErr s st code op stat tag die bank) :=
  .after_modStack h
theorem Canon.after_noteUnitUe {s x t l} (h : Canon s) : Canon (noteUnitUe s x t l) :=
  .dite (fun _ => .after_notePondErr <| .after_logEvent h) fun _ => .after_logEvent h
theorem Canon.after_readColumn {s x t l} (h : Canon s) : Canon (readColumn s x t l).1 :=
  .ite (.after_noteUnitUe <| .after_modUnit <| .after_noteColumn h) <| .after_modUnit <| .after_noteColumn h

theorem Canon.after_readColumns {s x t ls} (h : Canon s) : Canon (readColumns s x t ls).1 := by
  induction ls generalizing s with
  | nil => exact h
  | cons l ls ih => exact ih (.after_readColumn h)

theorem Canon.after_putColumn {s x l bs bad} (h : Canon s) : Canon (putColumn s x l bs bad) := .after_storeColumn h
theorem Canon.after_dotItem {x t c mvw} {r : State × Bool} {qi} (h : Canon r.1) : Canon (dotItem x t c mvw r qi).1 :=
  .after_modUnit <| .after_readColumns h
theorem Canon.after_dotEffect {s x t c nq mvw} (h : Canon s) : Canon (dotEffect s x t c nq mvw).1 :=
  .foldl_fst (fun _ _ hr => .after_dotItem hr) h
theorem Canon.after_wsumItem {x t c} {r : State × Bool} {i} (h : Canon r.1) : Canon (wsumItem x t c r i).1 :=
  .after_modUnit <| .after_readColumns h
theorem Canon.after_wsumEffect {s x t c} (h : Canon s) : Canon (wsumEffect s x t c).1 :=
  .foldl_fst (fun _ _ hr => .after_wsumItem hr) h
theorem Canon.after_ewuColumn {x t c} {r : State × Bool} {lj} (h : Canon r.1) : Canon (ewuColumn x t c r lj).1 :=
  .ite_fst (.after_putColumn h) <| .after_putColumn <| .after_readColumn h
theorem Canon.after_ewuEffect {s x t c} (h : Canon s) : Canon (ewuEffect s x t c).1 :=
  .foldl_fst (fun _ _ hr => .after_ewuColumn hr) h
theorem Canon.after_fillEffect {s x c} (h : Canon s) : Canon (fillEffect s x c).1 :=
  .ite_fst (.after_modUnit h) <| .foldl (fun _ _ hr => .after_putColumn hr) h
theorem Canon.after_copyrColumn {x t c} {r : State × Bool} {i} (h : Canon r.1) : Canon (copyrColumn x t c r i).1 :=
  .ite (.after_storeColumn <| .after_readColumn h) <| .after_putColumn <| .after_readColumn h
theorem Canon.after_checkColumn {x t c} {r : State × Bool} {i} (h : Canon r.1) : Canon (checkColumn x t c r i).1 :=
  .ite (.after_putColumn <| .after_readColumn h) <| .after_readColumn h
theorem Canon.after_ldwColumn {x t c} {r : State × Bool} {j} (h : Canon r.1) : Canon (ldwColumn x t c r j).1 :=
  .after_modUnit <| .after_readColumn h
theorem Canon.after_csendEffect {s x c} (h : Canon s) : Canon (csendEffect s x c).1 :=
  .dite_fst (fun _ => .ite_fst (.after_modUnit h) h) fun _ => h

theorem Canon.after_pondEffect {s x run} (h : Canon s) : Canon (pondEffect s x run).1 := by
  unfold pondEffect
  dsimp only
  split
  · exact .ite_fst (.foldl_fst (fun _ _ h1 => .after_ldwColumn h1) h) h
  · exact .after_dotEffect h
  · exact .after_modUnit h
  · exact .after_wsumEffect h
  · exact .after_dotEffect h
  · exact .after_ewuEffect h
  · exact .after_fillEffect h
  · exact .foldl_fst (fun _ _ h2 => .after_copyrColumn h2) h
  · exact .after_csendEffect h
  · exact .after_modUnit h
  · exact .after_modUnit h
  · exact .foldl_fst (fun _ _ h3 => .after_checkColumn h3) h
  · exact h

theorem Canon.after_notePeak {s st d} (h : Canon s) : Canon (notePeak s st d) := .after_modStack h
theorem Canon.after_startRun {s b run} (h : Canon s) : Canon (startRun s b run) :=
  .ite (.after_modUnit h) <| .after_notePeak <| .ite (.after_modUnit <| .after_modUnit h) <| .after_modUnit h
theorem Canon.after_acceptRun {s b run} (h : Canon s) : Canon (acceptRun s b run) :=
  .ite (.after_modUnit h) <| .ite (.after_modUnit <| .after_modUnit h) <| .after_startRun <| .after_modUnit h
theorem Canon.after_deliver {s b tag reg data bad} (h : Canon s) : Canon (deliver s b tag reg data bad) :=
  .after_modUnit h
theorem Canon.after_cutShort {s b tag} (h : Canon s) : Canon (cutShort s b tag) := .after_modUnit h
theorem Canon.after_setWindow {s g w} (h : Canon s) : Canon (setWindow s g w) := h.frame rfl
theorem Canon.after_noteWaiting {s b} (h : Canon s) : Canon (noteWaiting s b) := .ite (.after_modBank h) h
theorem Canon.after_beginRefresh {s b} (h : Canon s) : Canon (beginRefresh s b) :=
  .after_modBank <| .after_sendTo <| .after_closeRow h
theorem Canon.after_forcedRefresh {s b} (h : Canon s) : Canon (forcedRefresh s b) :=
  .ite (.after_logEvent <| .after_modStack <| .after_beginRefresh h) h

theorem Canon.after_commandWrite {s g tag a op c t} (h : Canon s) : Canon (commandWrite s g tag a op c t) := by
  unfold commandWrite
  extract_lets units w s1 y s2 s3 run s5
  have hs1 : Canon s1 := .after_noteSent <| .after_modStack h
  clear_value s1
  have hs2 : Canon s2 := hs1.frame rfl
  have hs3 : Canon s3 := .ite hs2 <| .after_setWindow <|
    .foldl (fun _ _ hr => .after_forcedRefresh <| .after_noteWaiting <| .after_cutShort hr) hs2
  clear_value s3
  have hs5 : Canon s5 := .foldl (fun _ _ hr => .after_acceptRun hr) hs3
  clear_value s5
  split
  · exact .foldl (fun _ _ hr => .after_modUnit hr) hs3
  · exact .ite (.after_setWindow hs5) hs5

theorem Canon.after_payloadWrite {s g w data} (h : Canon s) : Canon (payloadWrite s g w data) :=
  .after_setWindow <| .foldl (fun _ _ hr => .after_deliver hr) <| .after_noteSent h

theorem Canon.after_rowCommand {s0 g tag a op c t} (h : Canon s0) : Canon (rowCommand s0 g tag a op c t) := by
  unfold rowCommand
  dsimp only
  split
  · exact .after_commandWrite <| .after_prepareBanks h
  · exact .ite (.after_commandWrite <| .after_prepareBanks h) <| .after_commandWrite <| .after_prepareBanks h
  · exact .after_commandWrite <| .after_prepareBanks h

theorem Canon.after_arrive {s g tag a op c t} (h : Canon s) : Canon (arrive s g tag a op c t) :=
  .ite h <| .ite (.after_payloadWrite h) <| .ite h <| .after_rowCommand h
theorem Canon.after_rowWrite {s g tag data t} (h : Canon s) : Canon (rowWrite s g tag data t) :=
  .ite (.after_payloadWrite h) <| .after_arrive h
theorem CanonAnswer.of_execNop {g tag a c s} (h : Canon s) : CanonAnswer (execNop g tag a c s) :=
  .next <| .after_arrive h
theorem CanonAnswer.of_execLdw {g tag a c s} (h : Canon s) : CanonAnswer (execLdw g tag a c s) :=
  .next <| .after_arrive h
theorem CanonAnswer.of_execLdwPayload {g tag data s} (h : Canon s) : CanonAnswer (execLdwPayload g tag data s) :=
  .next <| .after_rowWrite h
theorem CanonAnswer.of_execDot {g tag a c s} (h : Canon s) : CanonAnswer (execDot g tag a c s) :=
  .next <| .after_arrive h
theorem CanonAnswer.of_execSoftp {g tag a c s} (h : Canon s) : CanonAnswer (execSoftp g tag a c s) :=
  .next <| .after_arrive h
theorem CanonAnswer.of_execWsum {g tag a c s} (h : Canon s) : CanonAnswer (execWsum g tag a c s) :=
  .next <| .after_arrive h
theorem CanonAnswer.of_execMvw {g tag a c s} (h : Canon s) : CanonAnswer (execMvw g tag a c s) :=
  .next <| .after_arrive h
theorem CanonAnswer.of_execEwu {g tag a c s} (h : Canon s) : CanonAnswer (execEwu g tag a c s) :=
  .next <| .after_arrive h
theorem CanonAnswer.of_execFill {g tag a c s} (h : Canon s) : CanonAnswer (execFill g tag a c s) :=
  .next <| .after_arrive h
theorem CanonAnswer.of_execCopyr {g tag a c s} (h : Canon s) : CanonAnswer (execCopyr g tag a c s) :=
  .next <| .after_arrive h
theorem CanonAnswer.of_execCsend {g tag a c s} (h : Canon s) : CanonAnswer (execCsend g tag a c s) :=
  .next <| .after_arrive h
theorem CanonAnswer.of_execCrecv {g tag a c s} (h : Canon s) : CanonAnswer (execCrecv g tag a c s) :=
  .next <| .after_arrive h
theorem CanonAnswer.of_execCcomb {g tag a c s} (h : Canon s) : CanonAnswer (execCcomb g tag a c s) :=
  .next <| .after_arrive h
theorem CanonAnswer.of_execCheck {g tag a c s} (h : Canon s) : CanonAnswer (execCheck g tag a c s) :=
  .next <| .after_arrive h

theorem CanonAnswer.of_execPondCommandStart {b s} (h : Canon s) : CanonAnswer (execPondCommandStart b s) := by
  unfold execPondCommandStart
  dsimp only
  refine .next ?_
  split
  · exact .ite h <| .after_settleExit <| .after_startRun <| .after_answered <| .after_modUnit h
  · exact h

theorem Canon.after_endRun {s b run} (h : Canon s) : Canon (endRun s b run) :=
  .after_noteWaiting <| .after_modUnit <| .ite_fst (.after_pondEffect h) h

theorem CanonAnswer.of_execPondCommandEnd {b s} (h : Canon s) : CanonAnswer (execPondCommandEnd b s) := by
  unfold execPondCommandEnd
  dsimp only
  refine .next ?_
  split
  · exact h
  · exact .ite (.after_settleExit <| .after_forcedRefresh <| .after_endRun h) h

theorem Canon.after_endNow {s b} (h : Canon s) : Canon (endNow s b) := by
  unfold endNow
  dsimp only
  split
  · exact .ite (.after_endRun h) <| .after_cutShort h
  · exact h

theorem Canon.after_drainUnit {s b} (h : Canon s) : Canon (drainUnit s b) := by
  unfold drainUnit
  dsimp only
  split
  · exact .after_endNow <| .after_startRun <| .after_modUnit <| .after_endNow h
  · exact .after_endNow h

theorem Canon.after_drainUnits {s} (h : Canon s) : Canon (drainUnits s) :=
  .foldl (fun _ _ hr => .after_drainUnit hr) h
theorem Canon.after_clearStatus {s b} (h : Canon s) : Canon (clearStatus s b) := .after_modStack <| .after_modUnit h

theorem CanonAnswer.of_execResultRowRead {b col s} (h : Canon s) : CanonAnswer (execResultRowRead b col s) :=
  .next <| .ite (.after_emit h) <| .ite (.after_emit <| .after_clearStatus <| .after_sendTo h) <|
    .ite (.after_emit <| .after_sendTo h) <| .ite (.after_askBank h) <| .after_emit <|
    .after_answered <| .after_sendTo h

/-! ### DRAM requests -/

theorem Canon.after_enqueue {s k r} (h : Canon s) : Canon (enqueue s k r) := .after_modStack h

theorem Canon.after_placeWrite {s k r ws} (h : Canon s) : Canon (placeWrite s k r ws) := by
  unfold placeWrite
  dsimp only
  split
  · exact .after_modStack h
  · exact .after_enqueue <| .after_modStack h

theorem Canon.after_takeWrite {s k r} (h : Canon s) : Canon (takeWrite s k r) :=
  .ite h <| .ite (.after_askBank h) <| .ite (.after_placeWrite h) <| .ite (.after_haltSource <|
    .ite (.after_noteColumn <| .ite h <| .after_answered <| .after_readArray h) <|
    .after_modStack <| .after_noteColumn <| .ite h <| .after_answered <| .after_readArray h) <|
    .after_placeWrite <| .ite (.after_noteColumn <| .ite h <| .after_answered <|
    .after_readArray h) <| .after_modStack <| .after_noteColumn <| .ite h <| .after_answered <| .after_readArray h

theorem Canon.after_forwardRead {s k r e} (h : Canon s) : Canon (forwardRead s k r e) :=
  .ite (.after_haltSource <| .after_emit <| .after_noteColumn <| .after_modStack h) <|
    .after_emit <| .after_noteColumn <| .after_modStack h

theorem CanonAnswer.of_execDramRequest {k r s} (h : Canon s) : CanonAnswer (execDramRequest k r s) := by
  unfold execDramRequest
  refine .next ?_
  refine .ite (.ite h <| .after_emit h) ?_
  refine .ite (.after_takeWrite h) ?_
  split
  · exact .after_forwardRead h
  · exact .after_enqueue h

theorem Canon.after_serveAt {s k n q} (h : Canon s) : Canon (serveAt s k n q) := by
  unfold serveAt
  refine .ite ?_ (.after_serveRead <| .after_modStack h)
  split
  · exact .after_drainEntry h
  · exact .after_modStack h

theorem CanonAnswer.of_execDramRequestServe {k n s} (h : Canon s) : CanonAnswer (execDramRequestServe k n s) := by
  unfold execDramRequestServe
  refine .next ?_
  split
  · exact h
  · exact .ite (.after_serveAt h) h

theorem Canon.after_serveSlot {s x region seg} (h : Canon s) : Canon (serveSlot s x region seg) := by
  unfold serveSlot
  dsimp only
  split
  · exact h
  · split
    · exact .after_serveAt h
    · exact h

theorem CanonAnswer.of_execRequestPromotion {k n s} (h : Canon s) : CanonAnswer (execRequestPromotion k n s) := by
  unfold execRequestPromotion
  dsimp only
  refine .next ?_
  split
  · exact h
  · split
    · exact h
    · exact .ite (.after_modStack h) h
    · exact .ite (.after_modStack h) h
    · exact .ite (.after_modStack h) h

theorem CanonAnswer.of_execRowIdleClose {b s} (h : Canon s) : CanonAnswer (execRowIdleClose b s) :=
  .next <| .ite (.after_closeRow h) h

/-! ### Pond streams -/

theorem Canon.after_readAttn {s t r} (h : Canon s) : Canon (readAttn s t r) := by
  unfold readAttn
  dsimp only
  refine .ite h ?_
  split
  · exact h
  · exact .ite (.after_modTen <| .after_logEvent <| .after_noteWords h) <| .ite (.after_modTen <|
      .after_logEvent <| .after_modTen <| .after_noteWords h) <| .after_modTen <| .after_noteWords h

theorem CanonAnswer.of_execAttnRecordRead {t r s} (h : Canon s) : CanonAnswer (execAttnRecordRead t r s) :=
  .next <| .ite (.after_readAttn h) h
theorem Canon.after_writeCommand {s t g op c payload} (h : Canon s) : Canon (writeCommand s t g op c payload) :=
  .after_modTen <| .ite (.foldl (fun _ _ hr => .after_rowWrite hr) <| .after_arrive h) <| .after_arrive h
theorem Canon.after_advance {s t table n} (h : Canon s) : Canon (advance s t table n) := .after_modTen h
theorem Canon.after_refuseBudget {s t g op c} (h : Canon s) : Canon (refuseBudget s t g op c) :=
  .after_modTen <| .after_notePondErr <| .after_logEvent h

theorem Canon.after_readback {s t table pos b win first count sram} (h : Canon s) :
    Canon (readback s t table pos b win first count sram) := by
  unfold readback
  dsimp only
  refine .ite ?_ ?_
  · refine .after_modTen ?_
    refine .after_advance ?_
    refine .after_logEvent ?_
    split
    · exact .after_putBytes <| .foldl (fun _ _ h1 => .after_sendTo h1) h
    · exact .foldl (fun _ _ h2 => .after_sendTo h2) h
  · refine .after_advance ?_
    split
    · exact .after_putBytes <| .foldl (fun _ _ h3 => .after_sendTo h3) h
    · exact .foldl (fun _ _ h4 => .after_sendTo h4) h

theorem Canon.after_statusRead {s t table b} (h : Canon s) : Canon (statusRead s t table b) :=
  .ite h <| .ite (.after_clearStatus <| .after_sendTo h) <| .after_modTen <| .after_notePondErr <|
    .after_logEvent <| .after_clearStatus <| .after_sendTo h
theorem Canon.after_writeTargets {s t op c payload ts} (h : Canon s) : Canon (writeTargets s t op c payload ts) :=
  .foldl (fun _ _ hr => .ite (.after_refuseBudget hr) <| .after_writeCommand hr) h
theorem Canon.after_writeEntry {s t table pos op c payload ts} (h : Canon s) :
    Canon (writeEntry s t table pos op c payload ts) :=
  .ite h <| .after_advance <| .after_writeTargets h

theorem Canon.after_issueAttention {s t table pos op c payload r} (h : Canon s) :
    Canon (issueAttention s t table pos op c payload r) := by
  unfold issueAttention
  dsimp only
  split
  · exact .after_advance <| .after_readAttn h
  · refine .ite (.ite (.after_advance <| .after_readAttn h) <| .after_writeEntry <| .after_readAttn h) ?_
    split
    · exact .after_writeEntry <| .after_readAttn h
    · exact .after_advance <| .after_readAttn h

theorem Canon.after_issueCommand {s t table pos group m seg op c payload attn} (h : Canon s) :
    Canon (issueCommand s t table pos group m seg op c payload attn) := by
  unfold issueCommand
  split
  · exact .after_issueAttention h
  · exact .after_writeEntry h

theorem Canon.after_readEntry {s t table pos b win first count sram} (h : Canon s) :
    Canon (readEntry s t table pos b win first count sram) :=
  .ite h <| .ite (.after_askBank h) <| .after_readback <| .after_answered h

theorem Canon.after_issueReadback {s t table pos group m bank win first count sram part} (h : Canon s) :
    Canon (issueReadback s t table pos group m bank win first count sram part) := by
  unfold issueReadback
  dsimp only
  split
  · split
    · exact .after_readEntry h
    · exact .after_advance h
  · split
    · exact .ite (.after_advance <| .after_readAttn h) <| .after_readEntry <| .after_readAttn h
    · exact .after_advance <| .after_readAttn h

theorem CanonAnswer.of_execPondStreamIssue {t table s} (h : Canon s) :
    CanonAnswer (execPondStreamIssue t table s) := by
  unfold execPondStreamIssue
  dsimp only
  refine .next ?_
  split
  · exact h
  · refine .ite h ?_
    split
    · exact h
    · exact .after_issueCommand h
    · exact .after_issueReadback h
    · split
      · exact .ite (.after_advance <| .after_statusRead h) h
      · exact .after_advance h
    · exact .after_advance <| .after_serveSlot h

theorem CanonAnswer.of_execPondStreamComplete {t table s} (h : Canon s) :
    CanonAnswer (execPondStreamComplete t table s) := by
  unfold execPondStreamComplete
  dsimp only
  refine .next ?_
  split
  · exact h
  · refine .ite h ?_
    split
    · exact .after_sendSignal <| .after_advance h
    · exact .after_advance h

/-! ### The rake -/

theorem Canon.after_readLogEntry {s ev n} (h : Canon s) : Canon (readLogEntry s ev n).2 := .after_noteWords h
theorem Canon.after_writeLogWord {s l a d} (h : Canon s) : Canon (writeLogWord s l a d) :=
  .ite (h.frame rfl) <| h.frame rfl

theorem Canon.after_rakeWrite {s k d} (h : Canon s) : Canon (rakeWrite s k d) := by
  unfold rakeWrite
  split
  · exact .after_writeLogWord h
  · exact .after_writeWord h

theorem Canon.after_rakeBad {s ws} (h : Canon s) : Canon (rakeBad s ws) :=
  .ite h <| .frame (.foldl (fun _ _ hr => .after_logEvent <| .after_logWord hr) <| h.frame (by rfl)) rfl
theorem Canon.after_rakeRewrite {s ws} (h : Canon s) : Canon (rakeRewrite s ws) :=
  .foldl (fun _ _ hr => .after_rakeWrite hr) h
theorem Canon.after_rakeFix {s ws} (h : Canon s) : Canon (rakeFix s ws) := .foldl (fun _ _ hr => hr.frame rfl) h

theorem Canon.after_scrubUnit {s b l ws} (h : Canon s) : Canon (scrubUnit s b l ws) := by
  unfold scrubUnit
  extract_lets g x tag corr bad run s1 y s2 s3
  have hs1 : Canon s1 := .after_noteSent <| .after_modStack h
  clear_value s1
  have hs2 : Canon s2 := hs1.frame rfl
  have hs3 : Canon s3 := .after_notePeak <| .after_modUnit hs2
  exact .after_modUnit hs3

theorem Canon.after_inPond {s k q f} (h : Canon s) (hf : ∀ r, Canon r → Canon (f r)) : Canon (inPond s k q f) :=
  .ite (hf _ h) <| .after_settleExit <| .after_modStack <| hf _ <| .after_enterPond h

theorem CanonSome.of_rakeStep {s k note} (h : Canon s) (hnote : ∀ r a, Canon r → Canon (note r a)) :
    CanonSome (rakeStep s k note) := by
  unfold rakeStep
  refine .ite .none ?_
  split
  · exact .ite (.some h) <| .some <| .after_rakeFix <| .after_rakeBad <| hnote _ _ <| .after_rakeRewrite h
  · exact .ite .none <| .ite (.some <| .after_inPond (.ite (.after_prepareBanks h) <|
      .foldl (fun _ _ h1 => .after_closeRow h1) <| .after_prepareBanks h) fun _ h2 => .after_rowCommand h2) <|
      .some <| .after_rakeFix <| .after_rakeBad <| hnote _ _ <| .after_rakeRewrite <| .after_scrubUnit <|
      .ite (.after_prepareBanks h) <| .foldl (fun _ _ h3 => .after_closeRow h3) <| .after_prepareBanks h

theorem CanonAnswer.of_execRakeTargetedRewrite {s} (h : Canon s) : CanonAnswer (execRakeTargetedRewrite s) := by
  unfold execRakeTargetedRewrite
  refine .next ?_
  split
  · exact h
  · exact .ite h <| .getD (.of_rakeStep (h.frame rfl) fun _ _ hr => .after_noteColumn hr) h

theorem CanonAnswer.of_execRakeSweep {k last s} (h : Canon s) : CanonAnswer (execRakeSweep k last s) := by
  unfold execRakeSweep
  refine .next ?_
  refine .ite h ?_
  split
  · exact h
  · next e =>
      exact .frame ((CanonSome.of_rakeStep h fun _ _ hr => .ite (.after_noteColumn hr) <|
        .after_noteWords hr).of_some e) rfl

theorem CanonAnswer.of_execEvClr {s} (h : Canon s) : CanonAnswer (execEvClr s) := .next <| h.frame rfl
theorem CanonAnswer.of_execErClr {s} (h : Canon s) : CanonAnswer (execErClr s) := .next <| h.frame rfl
theorem CanonAnswer.of_execSpareFill {s} (h : Canon s) : CanonAnswer (execSpareFill s) :=
  .next <| .ite h <| .foldl (fun _ _ h1 => .foldl (fun _ _ h2 => .after_fillTrace <|
    .foldl (fun _ _ h3 => .after_injectRange h3) h2) h1) <| h.frame rfl

/-! ### Frames and RDMA -/

theorem Canon.after_dropFrame {s n} (h : Canon s) : Canon (dropFrame s n) := .after_modPort h
theorem Canon.after_corruptFrame {s n} (h : Canon s) : Canon (corruptFrame s n) := .after_modPort h
theorem Canon.after_takeFrames {s n k} (h : Canon s) : Canon (takeFrames s n k) :=
  .foldl (fun _ _ hr => .after_corruptFrame <| .after_notePoison hr) <| .after_queueTake <| .after_modPort h
theorem Canon.after_sendQueued {s n o k} (h : Canon s) : Canon (sendQueued s n o k) :=
  .after_emit <| .after_takeChecked h
theorem Canon.after_resumePort {s n} (h : Canon s) : Canon (resumePort s n) :=
  .after_sendStream <| .foldl (fun _ _ hr => .after_sendQueued hr) <| .after_modPort h

theorem Canon.after_queueFrame {s n f} (h : Canon s) : Canon (queueFrame s n f) :=
  .ite (.after_queueDrop <| .after_dropFrame h) <| .ite (.after_emit <| .after_modPort <|
    .after_modPort <| .after_usedFree <| .after_queueSend h) <| .after_modPort <| .after_usedFree <|
    .after_queueSend h

theorem Canon.after_serveFrames {k s n} (h : Canon s) : Canon (serveFrames k s n) := by
  induction k generalizing s with
  | zero => exact h
  | succ k ih =>
    unfold serveFrames
    split
    · exact h
    · exact .ite (ih <| .ite (.after_answerFrame <| .after_takeFrames h) <| .after_takeFrames h) h

theorem Canon.after_serveFront {s n} (h : Canon s) : Canon (serveFront s n) := .after_serveFrames h

theorem CanonAnswer.of_execFrameReceive {n kind bytes fcsOk s} (h : Canon s) :
    CanonAnswer (execFrameReceive n kind bytes fcsOk s) := by
  unfold execFrameReceive
  dsimp only
  refine .next ?_
  refine .ite h ?_
  refine .ite (.after_corruptFrame h) ?_
  refine .ite (.after_dropFrame h) ?_
  split
  · exact .after_dropFrame h
  · exact .after_dropFrame h
  · exact .ite (.after_modPort h) <| .after_resumePort h
  · exact .after_queueFrame h
  · exact .after_queueFrame h

theorem Canon.after_modKey {s k f} (h : Canon s) : Canon (modKey s k f) := h.put_keys (tabModify_wf _ _ _ _)
theorem Canon.after_refuseMessage {s n q key syn} (h : Canon s) : Canon (refuseMessage s n q key syn) :=
  .ite (.after_answerFrame <| .after_modPort h) <| .after_logEvent <| .after_modKey <|
    .after_answerFrame <| .after_modPort h
theorem Canon.after_refuseSequence {s n q} (h : Canon s) : Canon (refuseSequence s n q) :=
  .after_answerFrame <| .after_modPort h

theorem CanonMoved.of_placePacket {s n m data done} (h : Canon s) (hdone : ∀ r, Canon r → Canon (done r)) :
    CanonMoved (placePacket s n m data done) := by
  unfold placePacket
  dsimp only
  split
  · exact .ok <| hdone _ h
  · refine .ite (.error <| .after_moverFinish <| .after_writeVia <| .after_moverStart h) ?_
    split
    · refine .ok ?_
      refine hdone _ ?_
      split
      · exact .after_sendMirrored <| .after_countSch <| .after_modPort <| .after_moverFinish <|
          .after_writeVia <| .after_moverStart h
      · exact .after_countSch <| .after_modPort <| .after_moverFinish <| .after_writeVia <| .after_moverStart h
    · refine .ok ?_
      refine .after_haltSch ?_
      split
      · exact .after_sendMirrored <| .after_countSch <| .after_modPort <| .after_moverFinish <|
          .after_writeVia <| .after_moverStart h
      · exact .after_countSch <| .after_modPort <| .after_moverFinish <| .after_writeVia <| .after_moverStart h

theorem Canon.after_setMsg {s n m} (h : Canon s) : Canon (setMsg s n m) := .after_modPort h
theorem Canon.after_takeFrame {s n q} (h : Canon s) : Canon (takeFrame s n q) :=
  .ite (.after_answerFrame <| .after_takeFrames h) <| .after_takeFrames h
theorem Canon.after_packetDone {s n m len} (h : Canon s) : Canon (packetDone s n m len) :=
  .ite (.after_answerFrame <| .ite (.after_modQp <| .after_setMsg <| .after_modQp h) <| .after_setMsg <|
    .after_modQp h) <| .after_setMsg <| .after_modQp h

theorem Canon.after_nextPacket {s n} (h : Canon s) : Canon (nextPacket s n).1 := by
  unfold nextPacket
  dsimp only
  split
  · exact h
  · refine .ite_fst h ?_
    refine .ite_fst (.after_setMsg <| .after_takeFrame h) ?_
    refine .ite_fst (.ite (.after_refuseSequence <| .after_setMsg <| .after_takeFrame h) <|
      .after_setMsg <| .after_takeFrame h) ?_
    split
    · exact .after_moverWait h
    · next e =>
        exact .ite_fst (.after_setMsg <| (CanonMoved.of_placePacket (.after_takeFrame h) fun _ h1 =>
          .after_packetDone h1).of_ok e) <| (CanonMoved.of_placePacket (.after_takeFrame h) fun _ h2 =>
          .after_packetDone h2).of_ok e

theorem Canon.after_takePackets {k s n} (h : Canon s) : Canon (takePackets k s n) := by
  induction k generalizing s with
  | zero => exact h
  | succ k ih => exact .ite (ih <| .after_nextPacket h) (.after_nextPacket h)

theorem Canon.after_portTurn {s n} (h : Canon s) : Canon (portTurn s n) :=
  .after_serveFront <| .after_takePackets <| .after_serveFront h

theorem Canon.after_takeWriteMessage {s n q psn key imm off data} (h : Canon s) :
    Canon (takeWriteMessage s n q psn key imm off data) := by
  unfold takeWriteMessage
  dsimp only
  refine .ite h ?_
  refine .ite (.after_portTurn <| .after_setMsg <| .after_takeFrame h) ?_
  refine .ite (.after_portTurn <| .after_refuseSequence <| .after_setMsg <| .after_takeFrame h) ?_
  split
  · exact .after_portTurn <| .after_refuseMessage <| .after_setMsg <| .after_takeFrame h
  · exact .after_portTurn <| .after_setMsg h

theorem CanonAnswer.of_execRdmaWrite {n q psn key off data s} (h : Canon s) :
    CanonAnswer (execRdmaWrite n q psn key off data s) :=
  .next <| .after_takeWriteMessage h

theorem Canon.after_takeOne {s n q psn act} (h : Canon s) (hact : ∀ r, Canon r → CanonMoved (act r)) :
    Canon (takeOne s n q psn act) := by
  unfold takeOne
  dsimp only
  refine .ite h ?_
  refine .ite (.after_serveFront <| .after_takeFrame h) ?_
  refine .ite (.after_serveFront <| .after_refuseSequence <| .after_takeFrame h) ?_
  split
  · exact .after_moverWait h
  · next e =>
      exact .after_serveFront <| (hact _ <| .after_takeFrame h).of_ok e

theorem CanonAnswer.of_execRdmaRead {n q psn key off len s} (h : Canon s) :
    CanonAnswer (execRdmaRead n q psn key off len s) := by
  unfold execRdmaRead
  dsimp only
  refine .next ?_
  refine .ite h ?_
  refine .after_takeOne h ?_
  intro _ hr
  split
  · exact .ok <| .after_refuseMessage hr
  · split
    · exact .ok <| .after_modQp hr
    · refine .ite (.error <| .after_readVia <| .after_moverStart <| .after_modQp hr) ?_
      split
      · exact .ok <| .after_haltSch <| .after_moverFinish <| .after_readVia <| .after_moverStart <| .after_modQp hr
      · exact .ite (.ok <| .after_answerFrame <| .after_moverFinish <| .after_readVia <|
          .after_moverStart <| .after_modQp hr) <| .ite (.error <| .after_readVia <| .after_moverStart <|
          .after_modQp hr) <| .ok <| .after_transmit <| .after_modPort <| .after_countSch <|
          .after_moverFinish <| .after_readVia <| .after_moverStart <| .after_modQp hr

theorem CanonAnswer.of_execRdmaWriteImm {n q psn key off data s} (h : Canon s) :
    CanonAnswer (execRdmaWriteImm n q psn key off data s) :=
  .next <| .after_takeWriteMessage h

theorem CanonAnswer.of_execRdmaImmSignal {n q s} (h : Canon s) : CanonAnswer (execRdmaImmSignal n q s) := by
  unfold execRdmaImmSignal
  dsimp only
  refine .next ?_
  split
  · exact h
  · split
    · exact .after_sendSignal <| .after_modQp h
    · exact .after_modQp h

theorem CanonAnswer.of_execRdmaOtherOpcode {n q psn _opcode s} (h : Canon s) :
    CanonAnswer (execRdmaOtherOpcode n q psn _opcode s) :=
  .next <| .after_takeOne h fun _ hr => .ok <| .after_answerFrame hr
theorem Canon.after_queueLost {s i} (h : Canon s) : Canon (queueLost s i) := .after_modQueue <| .after_queueAbandon h
theorem CanonAnswer.of_execNetLinkDown {n s} (h : Canon s) : CanonAnswer (execNetLinkDown n s) :=
  .next <| .ite h <| .after_logEvent <| .after_modPort <| .after_queueLost <| .after_queueLost <|
    .foldl (fun _ _ hr => .ite (.after_modQp hr) hr) h

theorem CanonAnswer.of_execNetPortCfg {slot s} (h : Canon s) : CanonAnswer (execNetPortCfg slot s) := by
  unfold execNetPortCfg
  refine .of_runMailbox h ?_
  intro _ _ hr
  split
  · exact .after_respond hr
  · exact .ite (.after_respond hr) <| .after_respond <| .after_modPort hr

theorem CanonAnswer.of_execNetKeyBind {slot entry owner s} (h : Canon s) :
    CanonAnswer (execNetKeyBind slot entry owner s) := by
  unfold execNetKeyBind
  dsimp only
  refine .of_runMailbox h ?_
  intro _ _ hr
  split
  · exact .after_respond hr
  · exact .ite (.after_respond hr) <| .ite hr <| .after_respond <| .after_modKey hr

theorem CanonAnswer.of_execNetKeyRevoke {slot s} (h : Canon s) : CanonAnswer (execNetKeyRevoke slot s) :=
  .of_runMailbox h fun _ _ hr => .ite (.after_respond hr) <| .after_respond <| .after_modKey hr
theorem Canon.after_resumeStream {s} (h : Canon s) : Canon (resumeStream s) := .after_sendStream h
theorem Canon.after_losePair {s n q} (h : Canon s) : Canon (losePair s n q) := .after_modPort h

theorem CanonAnswer.of_execNetQpSet {slot s} (h : Canon s) : CanonAnswer (execNetQpSet slot s) := by
  unfold execNetQpSet
  refine .of_runMailbox h ?_
  intro _ _ hr
  split
  · exact .ite (.after_respond hr) <| .after_respond <| .after_resumeStream <| .after_modQp <| .after_losePair hr
  · exact .after_respond hr

theorem CanonAnswer.of_execNetQpDestroy {slot s} (h : Canon s) : CanonAnswer (execNetQpDestroy slot s) := by
  unfold execNetQpDestroy
  refine .of_runMailbox h ?_
  intro _ _ hr
  split
  · exact .after_respond <| .after_modQp <| .after_losePair hr
  · exact .after_respond hr

theorem CanonAnswer.of_execPortLinkUp {n s} (h : Canon s) : CanonAnswer (execPortLinkUp n s) :=
  .next <| .ite h <| .after_resumeStream <| .after_modPort h

/-! ### The mirror pair -/

theorem Canon.after_modMir {s f} (h : Canon s) : Canon (modMir s f) := h.frame rfl
theorem Canon.after_fenceTenant {s t} (h : Canon s) : Canon (fenceTenant s t) :=
  .ite (.after_quiesceTenant <| .after_modTen h) <| .ite (.after_modTen h) h

theorem Canon.after_baselineRegions {s t} (h : Canon s) : Canon (baselineRegions s t).s := by
  unfold baselineRegions
  dsimp only
  refine .after_moverFinish ?_
  refine .foldl_s ?_ (.after_moverStart h)
  intro _ _ hr
  refine .ite_s hr ?_
  split
  · exact hr
  · exact .after_sendMirrored <| .after_readVia hr

theorem CanonMoved.of_sendBaseline {s t} (h : Canon s) : CanonMoved (sendBaseline s t) := by
  unfold sendBaseline
  dsimp only
  refine .ite (.error <| .after_baselineRegions h) ?_
  split
  · exact .ok <| .after_haltSch <| .after_baselineRegions h
  · exact .ok <| .after_baselineRegions h

theorem Canon.after_sendFirstRecord {s t} (h : Canon s) : Canon (sendFirstRecord s t) := .after_sendRecord h

theorem CanonMoved.of_sendBaselines {s ts} (h : Canon s) : CanonMoved (sendBaselines s ts) := by
  unfold sendBaselines
  refine .map (fun r hr => .ite hr <| .foldl (fun _ _ hq => .after_sendFirstRecord hq) hr) (.foldl (fun x t hx => ?_) ?_)
  · exact hx.bind fun r hr => .ite (.ok hr) (.of_sendBaseline hr)
  · exact .ite (.error (.after_moverStart h)) (.ok h)

theorem Canon.after_fence {s} (h : Canon s) : Canon (fence s) :=
  .ite (.foldl (fun _ _ h1 => .after_fenceTenant h1) <| .foldl (fun _ _ h2 => .after_loseRing h2) <|
    .after_logEvent <| .after_modMir h) h

theorem CanonAnswer.of_execMirPair {slot partner interval s} (h : Canon s) :
    CanonAnswer (execMirPair slot partner interval s) := by
  unfold execMirPair
  dsimp only
  refine .of_runMailbox h ?_
  intro _ _ h1
  split
  · refine .ite (.after_respond h1) ?_
    refine .ite (.after_respond <| .after_logEvent <| .after_emit h1) ?_
    refine .ite (.after_respond <| .after_logEvent <| .after_modMir <| .after_emit h1) ?_
    refine .ite ?_ (.after_respond <| .foldl (fun _ _ h2 => .after_modTen h2) <| .after_modMir <| .after_emit h1)
    split
    · next e =>
        exact .after_respond <| .after_fence <| (CanonMoved.of_sendBaselines <|
          .foldl (fun _ _ h3 => .after_modTen h3) <| .after_modMir <| .after_emit h1).of_ok e
    · exact .after_moverWait h1
  · exact .after_respond h1

theorem CanonAnswer.of_execMirAccept {slot s} (h : Canon s) : CanonAnswer (execMirAccept slot s) :=
  .of_runMailbox h fun _ _ hr => .after_respond <| hr.frame rfl
theorem CanonAnswer.of_execMirUnpair {slot s} (h : Canon s) : CanonAnswer (execMirUnpair slot s) :=
  .of_runMailbox h fun _ _ h1 => .after_respond <| .foldl (fun _ _ h2 => .after_resumeTenant <|
    .after_modTen h2) <| .ite (.after_modRings <| .after_modMir h1) <| .after_modMir h1
theorem Canon.after_countMirror {s n} (h : Canon s) : Canon (countMirror s n) := .after_modPort h
theorem CanonAnswer.of_execMirrorWriteReceive {t region off data s} (h : Canon s) :
    CanonAnswer (execMirrorWriteReceive t region off data s) :=
  .next <| .ite (.after_modMir <| .after_countMirror h) h

theorem Canon.after_applyWrite {m : Mover} {w} (h : Canon m.s) : Canon (applyWrite m w).s := by
  unfold applyWrite
  dsimp only
  split
  · exact .after_usedFree <| .after_noteWords h
  · split
    · exact .ite_s (.after_writeVia <| .after_noteWords h) <| .after_noteWords h
    · exact .after_noteWords h

theorem Canon.after_bufferMover {s t} (h : Canon s) : Canon (bufferMover s t).s :=
  .after_moverFinish <| .foldl_s (fun _ _ hr => .ite_s hr <| .after_applyWrite hr) <| .after_moverStart h

theorem CanonMoved.of_applyBuffer {s t done} (h : Canon s) (hdone : ∀ r, Canon r → Canon (done r)) :
    CanonMoved (applyBuffer s t done) := by
  unfold applyBuffer
  dsimp only
  refine .ite (.error <| .after_bufferMover h) ?_
  split
  · exact .ok <| .after_haltSch <| .after_countSch <| .after_bufferMover h
  · exact .ok <| hdone _ <| .after_modMir <| .after_countSch <| .after_bufferMover h

theorem Canon.after_refreshSync {s} (h : Canon s) : Canon (refreshSync s) := .ite (.after_modMir h) h

theorem CanonAnswer.of_execMirrorRecordReceive {rec_ s} (h : Canon s) :
    CanonAnswer (execMirrorRecordReceive rec_ s) := by
  unfold execMirrorRecordReceive
  dsimp only
  refine .next ?_
  refine .ite h ?_
  split
  · exact .after_modMir <| .after_countMirror h
  · exact .after_orWait h <| .of_applyBuffer (.after_modMir <|
      .after_countMirror h) fun _ hr => .after_refreshSync <| .after_emit <| .after_modTen <| .after_modMir hr

theorem CanonAnswer.of_execMirrorAck {t tide s} (h : Canon s) : CanonAnswer (execMirrorAck t tide s) :=
  .next <| .ite h <| .after_modTen <| .after_modMir h
theorem CanonAnswer.of_execHeartbeatToggle {s} (h : Canon s) : CanonAnswer (execHeartbeatToggle s) :=
  .next <| .ite h <| .after_modMir h
theorem CanonAnswer.of_execHbInEdge {s} (h : Canon s) : CanonAnswer (execHbInEdge s) := .next <| .after_modMir h

theorem Canon.after_takeOverRestore {s t anchor} (h : Canon s) : Canon (takeOver.restore s t anchor) := by
  unfold takeOver.restore
  dsimp only
  refine .after_modTen ?_
  refine .foldl (fun _ _ h1 => .after_setGate h1) ?_
  refine .foldl (fun _ _ h2 => .after_setTally h2) ?_
  refine .foldl ?_ (.foldl (fun _ _ h3 => .ite (.after_modLane h3) h3) h)
  intro _ _ h4
  split
  · exact .after_modRing <| .after_modStream h4
  · exact .after_modStream h4

theorem Canon.after_takeOver {s} (h : Canon s) : Canon (takeOver s) :=
  .ite (.after_logEvent <| .after_modMir h) <| .foldl (fun _ _ hr => .after_takeOverRestore hr) <|
    .after_logEvent <| .after_modMir h
theorem CanonAnswer.of_execHeartbeatLost {s} (h : Canon s) : CanonAnswer (execHeartbeatLost s) :=
  .next <| .ite h <| .ite (.after_takeOver <| .after_modMir h) <| .after_logEvent <| .after_modMir h
theorem CanonAnswer.of_execStreamSilent {s} (h : Canon s) : CanonAnswer (execStreamSilent s) :=
  .next <| .ite h <| .ite (.after_takeOver <| .after_modMir h) <| .after_logEvent <| .after_modMir h

theorem CanonAnswer.of_execTakeoverTenantStart {t s} (h : Canon s) : CanonAnswer (execTakeoverTenantStart t s) := by
  unfold execTakeoverTenantStart
  dsimp only
  refine .next ?_
  refine .ite h ?_
  split
  · exact h
  · exact .ite (.after_commitClock <| .after_modTen h) <| .after_modTen h

theorem CanonAnswer.of_execTkoInAssert {s} (h : Canon s) : CanonAnswer (execTkoInAssert s) :=
  .next <| .after_fence <| .after_modMir h

/-! ### E slots -/

theorem Canon.after_queueE {s p b op} (h : Canon s) : Canon (queueE s p b op) := .after_modPan h
theorem CanonAnswer.of_execEnop {p b z s} (h : Canon s) : CanonAnswer (execEnop p b z s) :=
  .next <| .after_issueSlot h fun _ hr => hr
theorem CanonAnswer.of_execErun {p b cwi vs vd vb n s} (h : Canon s) : CanonAnswer (execErun p b cwi vs vd vb n s) :=
  .next <| .after_issueSlot h fun _ hr => .after_queueE hr
theorem CanonAnswer.of_execErunt {p b cwi ts td gr vb z s} (h : Canon s) :
    CanonAnswer (execErunt p b cwi ts td gr vb z s) :=
  .next <| .after_issueSlot h fun _ hr => .after_queueE hr
theorem CanonAnswer.of_execEcwld {p b cw ga cnt z s} (h : Canon s) : CanonAnswer (execEcwld p b cw ga cnt z s) :=
  .next <| .after_issueSlot h fun _ hr => .ite (.after_queueE hr) <| .after_queueE <| .after_noteWords hr
theorem CanonAnswer.of_execEyclr {p b yr z s} (h : Canon s) : CanonAnswer (execEyclr p b yr z s) :=
  .next <| .after_issueSlot h fun _ hr => .after_queueE hr

theorem CanonAnswer.of_execEOpStart {p s} (h : Canon s) : CanonAnswer (execEOpStart p s) := by
  unfold execEOpStart
  split
  · exact .next h
  · refine .ite (.next h) ?_
    split
    · exact .next <| .after_trapPan h
    · exact .next <| .after_modPan h

theorem CanonAnswer.of_execEOpComplete {p s} (h : Canon s) : CanonAnswer (execEOpComplete p s) := by
  unfold execEOpComplete
  split
  · exact .next h
  · exact .next <| .after_modPan h

/-! ### S slots -/

theorem CanonAnswer.of_execSnop {p b z s} (h : Canon s) : CanonAnswer (execSnop p b z s) :=
  .next <| .after_issueBranch h
theorem CanonAnswer.of_execAdd {p b rd ra rb z s} (h : Canon s) : CanonAnswer (execAdd p b rd ra rb z s) :=
  .next <| .after_issueG h
theorem CanonAnswer.of_execSub {p b rd ra rb z s} (h : Canon s) : CanonAnswer (execSub p b rd ra rb z s) :=
  .next <| .after_issueG h
theorem CanonAnswer.of_execAnd {p b rd ra rb z s} (h : Canon s) : CanonAnswer (execAnd p b rd ra rb z s) :=
  .next <| .after_issueG h
theorem CanonAnswer.of_execOr {p b rd ra rb z s} (h : Canon s) : CanonAnswer (execOr p b rd ra rb z s) :=
  .next <| .after_issueG h
theorem CanonAnswer.of_execXor {p b rd ra rb z s} (h : Canon s) : CanonAnswer (execXor p b rd ra rb z s) :=
  .next <| .after_issueG h
theorem CanonAnswer.of_execShl {p b rd ra rb z s} (h : Canon s) : CanonAnswer (execShl p b rd ra rb z s) :=
  .next <| .after_issueG h
theorem CanonAnswer.of_execShr {p b rd ra rb z s} (h : Canon s) : CanonAnswer (execShr p b rd ra rb z s) :=
  .next <| .after_issueG h
theorem CanonAnswer.of_execSar {p b rd ra rb z s} (h : Canon s) : CanonAnswer (execSar p b rd ra rb z s) :=
  .next <| .after_issueG h
theorem CanonAnswer.of_execMul {p b rd ra rb z s} (h : Canon s) : CanonAnswer (execMul p b rd ra rb z s) :=
  .next <| .after_issueG h
theorem CanonAnswer.of_execSlt {p b rd ra rb z s} (h : Canon s) : CanonAnswer (execSlt p b rd ra rb z s) :=
  .next <| .after_issueG h
theorem CanonAnswer.of_execSltu {p b rd ra rb z s} (h : Canon s) : CanonAnswer (execSltu p b rd ra rb z s) :=
  .next <| .after_issueG h
theorem CanonAnswer.of_execAddi {p b rd ra imm s} (h : Canon s) : CanonAnswer (execAddi p b rd ra imm s) :=
  .next <| .after_issueG h
theorem CanonAnswer.of_execAndi {p b rd ra imm s} (h : Canon s) : CanonAnswer (execAndi p b rd ra imm s) :=
  .next <| .after_issueG h
theorem CanonAnswer.of_execOri {p b rd ra imm s} (h : Canon s) : CanonAnswer (execOri p b rd ra imm s) :=
  .next <| .after_issueG h
theorem CanonAnswer.of_execXori {p b rd ra imm s} (h : Canon s) : CanonAnswer (execXori p b rd ra imm s) :=
  .next <| .after_issueG h
theorem CanonAnswer.of_execShli {p b rd ra imm s} (h : Canon s) : CanonAnswer (execShli p b rd ra imm s) :=
  .next <| .after_issueG h
theorem CanonAnswer.of_execShri {p b rd ra imm s} (h : Canon s) : CanonAnswer (execShri p b rd ra imm s) :=
  .next <| .after_issueG h
theorem CanonAnswer.of_execSari {p b rd ra imm s} (h : Canon s) : CanonAnswer (execSari p b rd ra imm s) :=
  .next <| .after_issueG h
theorem CanonAnswer.of_execMovk {p b rd z w imm s} (h : Canon s) : CanonAnswer (execMovk p b rd z w imm s) :=
  .next <| .after_issueG h
theorem CanonAnswer.of_execLd {p b rd ra imm s} (h : Canon s) : CanonAnswer (execLd p b rd ra imm s) :=
  .next <| .after_issueS h fun _ hr => .after_modPan <| .after_noteWords hr
theorem CanonAnswer.of_execSt {p b rd ra imm s} (h : Canon s) : CanonAnswer (execSt p b rd ra imm s) :=
  .next <| .after_issueS h fun _ hr => .after_modPan hr
theorem CanonAnswer.of_execLdy {p b rd ra imm s} (h : Canon s) : CanonAnswer (execLdy p b rd ra imm s) :=
  .next <| .after_issueG h
theorem CanonAnswer.of_execLds {p b rd ra imm s} (h : Canon s) : CanonAnswer (execLds p b rd ra imm s) :=
  .next <| .after_issueG h
theorem CanonAnswer.of_execBeq {p b ra rb off s} (h : Canon s) : CanonAnswer (execBeq p b ra rb off s) :=
  .next <| .after_issueBranch h
theorem CanonAnswer.of_execBne {p b ra rb off s} (h : Canon s) : CanonAnswer (execBne p b ra rb off s) :=
  .next <| .after_issueBranch h
theorem CanonAnswer.of_execBlt {p b ra rb off s} (h : Canon s) : CanonAnswer (execBlt p b ra rb off s) :=
  .next <| .after_issueBranch h
theorem CanonAnswer.of_execBge {p b ra rb off s} (h : Canon s) : CanonAnswer (execBge p b ra rb off s) :=
  .next <| .after_issueBranch h
theorem CanonAnswer.of_execBranchY {p b yr bit sense off s} (h : Canon s) :
    CanonAnswer (execBranchY p b yr bit sense off s) :=
  .next <| .after_issueBranch h
theorem CanonAnswer.of_execJ {p b off s} (h : Canon s) : CanonAnswer (execJ p b off s) :=
  .next <| .after_issueBranch h
theorem CanonAnswer.of_execJal {p b rd ra imm s} (h : Canon s) : CanonAnswer (execJal p b rd ra imm s) :=
  .next <| .after_issueS h fun _ hr => .after_modPan hr
theorem CanonAnswer.of_execJr {p b rd ra rb z s} (h : Canon s) : CanonAnswer (execJr p b rd ra rb z s) :=
  .next <| .after_issueBranch h
theorem CanonAnswer.of_execEndb {p b z s} (h : Canon s) : CanonAnswer (execEndb p b z s) :=
  .next <| .after_issueS h fun _ hr => .after_modPan hr
theorem CanonAnswer.of_execBrk {p b z s} (h : Canon s) : CanonAnswer (execBrk p b z s) :=
  .next <| .after_issueS h fun _ hr => hr

theorem CanonAnswer.of_execLoadReturn {p k s} (h : Canon s) : CanonAnswer (execLoadReturn p k s) := by
  unfold execLoadReturn
  split
  · exact .next h
  · exact .ite (.next h) <| .ite (.next <| .after_trapPan <| .after_modPan h) <| .next <| .after_modPan h

theorem CanonAnswer.of_execStoreWritten {p s} (h : Canon s) : CanonAnswer (execStoreWritten p s) := by
  unfold execStoreWritten
  split
  · exact .next h
  · exact .next <| .after_modPan <| .after_writeWords h

theorem CanonAnswer.of_execPanEnded {p s} (h : Canon s) : CanonAnswer (execPanEnded p s) :=
  .ite (.next <| .after_modPan h) <| .next h
theorem CanonAnswer.of_execPanPause {p pause s} (h : Canon s) : CanonAnswer (execPanPause p pause s) :=
  .next <| .after_debugWrite h fun _ hr => .after_modPan hr
theorem CanonAnswer.of_execPanStep {p s} (h : Canon s) : CanonAnswer (execPanStep p s) :=
  .next <| .after_debugWrite h fun _ hr => .after_modPan hr

/-! ### Refresh, training, self-refresh and moves of data -/

theorem Canon.after_accrue {s b} (h : Canon s) : Canon (accrue s b) :=
  .after_forcedRefresh <| .after_modStack <| .after_modBank h
theorem CanonAnswer.of_execRefreshTick {k s} (h : Canon s) : CanonAnswer (execRefreshTick k s) :=
  .next <| .ite h <| .foldl (fun _ _ hr => .after_accrue hr) <| .after_modStack h
theorem CanonAnswer.of_execRefreshIssue {b s} (h : Canon s) : CanonAnswer (execRefreshIssue b s) :=
  .next <| .ite (.after_beginRefresh h) h
theorem CanonAnswer.of_execRefreshComplete {b s} (h : Canon s) : CanonAnswer (execRefreshComplete b s) :=
  .next <| .ite h <| .after_forcedRefresh <| .after_modBank h
theorem Canon.after_failPc {s k q code} (h : Canon s) : Canon (failPc s k q code) :=
  .after_haltNext <| .after_logEvent <| .after_modStack h
theorem Canon.after_trainBank {s b} (h : Canon s) : Canon (trainBank s b) :=
  .ite (.after_modBank <| .after_closeRow h) h

theorem CanonAnswer.of_execTrainingPeriodic {x s} (h : Canon s) : CanonAnswer (execTrainingPeriodic x s) := by
  unfold execTrainingPeriodic
  refine .next ?_
  split
  · exact .ite (.after_modStack h) h
  · exact .after_trainBank h

theorem Canon.after_countFails {s k bad} (h : Canon s) : Canon (countFails s k bad) :=
  .foldl (fun _ _ hr => .ite (.after_modStack hr) <| .after_failPc <| .after_modStack hr) h
theorem Canon.after_clearFails {s k bad} (h : Canon s) : Canon (clearFails s k bad) := .after_modStack h
theorem CanonAnswer.of_execTrainingPassEnd {k bad s} (h : Canon s) : CanonAnswer (execTrainingPassEnd k bad s) :=
  .next <| .ite h <| .ite (.after_logEvent <| .after_modStack h) <| .ite (.after_modStack <|
    .after_countFails <| .after_clearFails h) <| .after_modStack <| .after_countFails <| .after_clearFails h
theorem Canon.after_drainStack {s k} (h : Canon s) : Canon (drainStack s k) :=
  .foldl (fun _ _ h1 => .foldl (fun _ _ h2 => .after_drainEntry h2) h1) h
theorem Canon.after_quietStack {s k} (h : Canon s) : Canon (quietStack s k) :=
  .after_modStack <| .foldl (fun _ _ hr => .after_closeRow hr) <| .after_drainStack h

theorem CanonAnswer.of_execClockChangeStart {k s} (h : Canon s) : CanonAnswer (execClockChangeStart k s) := by
  unfold execClockChangeStart
  dsimp only
  refine .next ?_
  split
  · exact h
  · exact .ite h <| .after_leaveSelfRefresh <| .after_modStack <| .after_quietStack h

theorem CanonAnswer.of_execClockChangeComplete {k s} (h : Canon s) : CanonAnswer (execClockChangeComplete k s) :=
  .next <| .ite h <| .foldl (fun _ _ hr => .ite (.after_modTen hr) hr) <| .after_modStack h
theorem Canon.after_cancelRun {s b run was} (h : Canon s) : Canon (cancelRun s b run was) := .after_modUnit h
theorem Canon.after_reopenWindow {s g w cut} (h : Canon s) : Canon (reopenWindow s g w cut) :=
  .ite h <| .after_setWindow <| .foldl (fun _ _ hr => .after_modUnit hr) h
theorem Canon.after_cancelPayload {s b w was} (h : Canon s) : Canon (cancelPayload s b w was) := .after_modUnit h

theorem Canon.after_cancelSent {s c} (h : Canon s) : Canon (cancelSent s c) := by
  unfold cancelSent
  split
  · exact .after_settleExit <| .foldl (fun _ _ h1 => .after_forcedRefresh h1) <| .after_reopenWindow <|
      .ite (.after_setWindow <| .foldl (fun _ _ h2 => .after_cancelRun h2) h) <|
      .foldl (fun _ _ h3 => .after_cancelRun h3) h
  · exact .after_setWindow <| .foldl (fun _ _ h4 => .after_cancelPayload h4) h
  · exact h

theorem CanonAnswer.of_execParityAlert {k q n s} (h : Canon s) : CanonAnswer (execParityAlert k q n s) :=
  .next <| .ite h <| .ite (.after_logEvent <| .after_modStack h) <| .after_failPc <|
    .foldl (fun _ _ hr => .after_cancelSent hr) <| .after_logEvent <| .after_modStack h
theorem Canon.after_enterSelfRefresh {s k keep0 keep1} (h : Canon s) : Canon (enterSelfRefresh s k keep0 keep1) :=
  .after_modStack <| .after_quietStack h

theorem CanonAnswer.of_execSelfRefreshEntered {s} (h : Canon s) : CanonAnswer (execSelfRefreshEntered s) := by
  refine .next (.ite h ?_)
  extract_lets s1 s2
  have hs1 : Canon s1 := .foldl (fun _ _ hr => .after_enterSelfRefresh hr) h
  clear_value s1
  have hs2 : Canon s2 := hs1.frame rfl
  exact .ite (.after_attachNow hs2) hs2

theorem Canon.after_rewriteSpares {s} (h : Canon s) : Canon (rewriteSpares s) :=
  .foldl (fun _ _ hr => .after_modStack hr) h
theorem Canon.after_forDies {s f} (h : Canon s) (hf : ∀ r a, ∀ b, Canon r → Canon (f r a b)) :
    Canon (forDies s f) :=
  .foldl (fun _ _ h1 => .foldl (fun _ _ h2 => hf _ _ _ h2) h1) h
theorem Canon.after_fillDropped {s} (h : Canon s) : Canon (fillDropped s) :=
  .ite (.after_forDies (h.frame rfl) fun _ _ _ h1 => .foldl (fun _ _ h2 => .after_injectRange h2) h1) <| h.frame rfl
theorem Canon.after_countDropped {s} (h : Canon s) : Canon (countDropped s) :=
  .after_forDies h fun _ _ _ hr => .after_fillTrace hr
theorem Canon.after_exitSelfRefresh {s} (h : Canon s) : Canon (exitSelfRefresh s) :=
  .foldl (fun _ _ hr => .after_modStack hr) <| .after_countDropped <| .after_fillDropped <| .after_rewriteSpares h
theorem CanonAnswer.of_execSelfRefreshExitDone {s} (h : Canon s) : CanonAnswer (execSelfRefreshExitDone s) :=
  .next <| .ite h <| .foldl (fun _ _ hr => .after_resumeTenant <| .after_modTen hr) <| .after_exitSelfRefresh h

/-! ### Sensors and the governor -/

theorem Canon.after_copyWords {s src dst ks t} (h : Canon s) : Canon (copyWords s src dst ks t) := by
  unfold copyWords
  dsimp only
  refine .foldl ?_ h
  intro _ _ hr
  split
  · exact .after_writeWord <| .after_noteWord hr
  · exact .after_noteWord hr

theorem Canon.after_copySram {s c src dst n t} (h : Canon s) : Canon (copySram s c src dst n t).1 := by
  unfold copySram
  dsimp only
  split
  · exact .after_haltSch <| .after_noteWord <| .after_countSch <| .after_copyWords <| .after_injectRange <|
      h.frame rfl
  · exact .after_countSch <| .after_copyWords <| .after_injectRange <| h.frame rfl

theorem Canon.of_copyMove {s c t w r done} (h : Canon s) (e : copyMove s c t w = some (r, done)) : Canon r := by
  have hprep (bs) : Canon (countSch (prepareBanks s bs) c bankBytes) := .after_countSch <| .after_prepareBanks h
  cases w with
  | pan a b => exact .of_fst (Option.some.inj e) (.after_copySram h)
  | bank a b =>
    simp only [copyMove, Option.ite_none_left_eq_some, Option.some.injEq, Prod.mk.injEq] at e
    obtain ⟨-, rfl, -⟩ := e
    have hq := hprep [a, b]
    generalize countSch (prepareBanks s [a, b]) c bankBytes = q at hq ⊢
    exact hq.frame rfl
  | spare b j =>
    simp only [copyMove, Option.ite_none_left_eq_some, Option.some.injEq, Prod.mk.injEq] at e
    obtain ⟨-, rfl, -⟩ := e
    have hq := hprep [b]
    generalize countSch (prepareBanks s [b]) c bankBytes = q at hq ⊢
    exact hq.frame rfl

theorem Canon.after_carryBanks {s r c bs} (hs : Canon s) : Canon (carryBanks s r c bs) :=
  .foldl (fun _ _ hr => .frame (.after_countSch hr) rfl) hs

theorem CanonAnswer.of_execSpmapWrite {k d j bank valid s} (h : Canon s) :
    CanonAnswer (execSpmapWrite k d j bank valid s) := by
  unfold execSpmapWrite
  dsimp only
  refine .next ?_
  refine .ite h ?_
  refine .ite h ?_
  refine .ite (.foldl (fun _ _ h1 => .ite h1 <| .after_modTen h1) <| .after_mapSpare <| .after_prepareBanks h) ?_
  split
  · exact .foldl (fun _ _ h2 => .ite h2 <| .after_modTen h2) <| .after_mapSpare <|
      .after_carryBanks <| .after_prepareBanks h
  · exact h

theorem CanonAnswer.of_execPlacementMoveComplete {t w s} (h : Canon s) :
    CanonAnswer (execPlacementMoveComplete t w s) := by
  refine .next ?_
  extract_lets ts
  refine .ite h ?_
  have hmove {r done} (e : ((moveChan s).bind fun c => copyMove s c t w) = some (r, done)) : Canon r := by
    obtain ⟨c, -, e⟩ := Option.bind_eq_some_iff.1 e
    exact .of_copyMove h e
  split
  · exact h
  next e => exact hmove e
  next e => exact .foldl (fun _ _ hr => .after_modTen hr) (hmove e)

theorem Canon.after_thermalTenant {s t} (h : Canon s) : Canon (thermalTenant s t) :=
  .ite (.after_modTen h) <| .ite (.after_quiesceTenant <| .after_modTen h) h
theorem Canon.after_enterCritical {s} (h : Canon s) : Canon (enterCritical s) :=
  .foldl (fun _ _ hr => .after_thermalTenant hr) <| .after_logEvent <| h.frame rfl

theorem Canon.after_hotTenant {s t} (h : Canon s) : Canon (hotTenant s t) := by
  unfold hotTenant
  dsimp only
  refine .ite (.after_modTen h) ?_
  split
  · exact .after_modTen h
  · exact h

theorem Canon.after_noteWarm {s t} (h : Canon s) : Canon (noteWarm s t) := .ite (h.frame rfl) h
theorem Canon.after_hotStep {s t} (h : Canon s) : Canon (hotStep s t) :=
  .ite (.after_hotTenant <| .after_noteWarm h) <| .after_noteWarm h
theorem Canon.after_markHot {s} (h : Canon s) : Canon (markHot s) := .foldl (fun _ _ hr => .after_modStack hr) h

theorem Canon.after_passSamples {s r} (h : Canon s) : Canon (passSamples s r) := by
  unfold passSamples
  dsimp only
  split
  · exact .after_notePoison <| .foldl (fun _ _ h1 => .after_queueTake <| .after_queueSend h1) h
  · exact .foldl (fun _ _ h2 => .after_queueTake <| .after_queueSend h2) h

theorem Canon.after_governSweep {s r} (h : Canon s) : Canon (governSweep s r) := by
  unfold governSweep
  extract_lets y s1 s2 warm z s3 s4
  have hs1 : Canon s1 := .ite h (h.frame rfl)
  have hs2 : Canon s2 := .after_markHot hs1
  clear_value s2
  have hs3 : Canon s3 := hs2.frame rfl
  have hs4 : Canon s4 := .foldl (fun _ _ hr => .after_hotStep hr) hs3
  clear_value s4
  exact .ite (.after_enterCritical hs4) hs4

theorem CanonAnswer.of_execSensorSweep {r s} (h : Canon s) : CanonAnswer (execSensorSweep r s) := by
  unfold execSensorSweep
  extract_lets y s1 x
  have hs1 : Canon s1 := h.frame rfl
  have hx : Canon x := .after_governSweep <| .after_passSamples (hs1.frame rfl)
  clear_value x
  exact .next <| .ite (.foldl (fun _ _ hr => .after_queueDrop hr) hs1) (hx.frame rfl)

theorem Canon.after_requestGear {s t g} (h : Canon s) : Canon (requestGear s t g) := .after_modTen h
theorem CanonSome.of_stepDown {s} (h : Canon s) : CanonSome (stepDown s) :=
  .findSome? fun _ => .ite .none <| .map fun _ => .after_requestGear h

theorem CanonSome.of_stepUp {s fits} (h : Canon s) : CanonSome (stepUp s fits) := by
  unfold stepUp
  dsimp only
  refine .findSome? ?_
  intro _
  refine .ite .none ?_
  split
  · exact .ite (.some <| .after_requestGear h) .none
  · exact .none

theorem CanonSome.of_moveClock {s down} (h : Canon s) : CanonSome (moveClock s down) := by
  unfold moveClock
  dsimp only
  refine .findSome? ?_
  intro _
  refine .ite .none ?_
  refine .some ?_
  refine .foldl ?_ h
  intro _ _ hr
  refine .ite ?_ hr
  split
  · exact .after_requestGear hr
  · exact hr

theorem Canon.after_deepen {s} (h : Canon s) : Canon (deepen s) := .ite (h.frame rfl) <| h.frame rfl
theorem Canon.after_relax {s} (h : Canon s) : Canon (relax s) := h.frame rfl

theorem Canon.after_overCap {s} (h : Canon s) : Canon (overCap s) := by
  unfold overCap
  split
  · next e1 =>
      exact (CanonSome.of_stepDown h).of_some e1
  · refine .ite h ?_
    split
    · next e2 =>
        exact (CanonSome.of_moveClock h).of_some e2
    · exact .after_deepen h

theorem Canon.after_setLow {s a b} (h : Canon s) : Canon (setLow s a b) := h.frame rfl

theorem Canon.after_underCap {s fits} (h : Canon s) : Canon (underCap s fits) := by
  unfold underCap
  dsimp only
  refine .ite (.after_setLow <| .after_relax h) ?_
  split
  · next e1 =>
      exact .after_setLow <| (CanonSome.ite (.of_stepUp h) .none).of_some e1
  · next e2 =>
      exact .after_setLow <| (CanonSome.ite (.of_moveClock h) .none).of_some e2
  · exact .after_setLow h

theorem Canon.after_endCritical {s} (h : Canon s) : Canon (endCritical s) :=
  .foldl (fun _ _ hr => .after_resumeTenant <| .after_modTen hr) <| h.frame rfl
theorem Canon.after_coolWindow {s} (h : Canon s) : Canon (coolWindow s) :=
  .ite (.frame (h.frame (by rfl)) rfl) <| .ite (.after_endCritical <| h.frame rfl) <| h.frame rfl
theorem Canon.after_hotWindow {s t} (h : Canon s) : Canon (hotWindow s t) :=
  .ite (h.frame rfl) <| .ite (.after_modTen <| h.frame rfl) <| h.frame rfl

theorem Canon.after_takePower {s} (h : Canon s) : Canon (takePower s) := by
  unfold takePower
  extract_lets d exact up s1
  clear_value exact
  have hs1 : Canon s1 := .ite h (.after_usedFree h)
  clear_value s1
  exact hs1.frame rfl

theorem CanonAnswer.of_execGovernorWindow {s0} (h : Canon s0) : CanonAnswer (execGovernorWindow s0) :=
  .next <| .ite (h.frame rfl) <| .ite (.after_setLow <| .after_overCap <|
    .foldl (fun _ _ h1 => .after_hotWindow h1) <| .after_coolWindow <| .after_takePower <| h.frame rfl) <|
    .ite (.after_underCap <| .foldl (fun _ _ h2 => .after_hotWindow h2) <| .after_coolWindow <|
    .after_takePower <| h.frame rfl) <| .after_setLow <| .foldl (fun _ _ h3 => .after_hotWindow h3) <|
    .after_coolWindow <| .after_takePower <| h.frame rfl

theorem CanonAnswer.of_execGovSetCap {slot s} (h : Canon s) : CanonAnswer (execGovSetCap slot s) :=
  .of_runMailbox h fun _ _ hr => .ite (.after_respond hr) <| .after_respond <| hr.frame rfl
theorem Canon.after_setCalendar {s sec frac} (h : Canon s) : Canon (setCalendar s sec frac) := h.frame rfl
theorem CanonAnswer.of_execCalSet {slot s} (h : Canon s) : CanonAnswer (execCalSet slot s) :=
  .of_runMailbox h fun _ _ hr => .ite (.after_respond hr) <| .after_respond <| .after_setCalendar hr
theorem CanonAnswer.of_execCalHoldLoss {s} (h : Canon s) : CanonAnswer (execCalHoldLoss s) := .next <| h.frame rfl

/-! ### Resets and bring-up -/

theorem Canon.after_modRst {s f} (h : Canon s) : Canon (modRst s f) := h.frame rfl
theorem Canon.after_holdLeds {s} (h : Canon s) : Canon (holdLeds s) := .after_modRst h
theorem Canon.after_clearScheduling {s} (h : Canon s) : Canon (clearScheduling s) :=
  .foldl (fun _ _ hr => .after_modStack <| .after_drainStack hr) h

theorem Canon.after_clearCore {s} (h : Canon s) : Canon (clearCore s) := by
  unfold clearCore
  extract_lets s1
  have hs1 : Canon s1 := .after_clearScheduling h
  clear_value s1
  obtain ⟨hpans, hten, hsch, hstk, -, hunits, hbanks, -, hlanes, hrings, hqueues, hports, hkeys, hqps⟩ := hs1
  refine ⟨tabClean_map_wf _ _ _ ?_ hpans, tabClean_map_wf _ _ _ ?_ hten, tabClean_map_wf _ _ _ ?_ hsch, hstk, rfl, hunits,
    hbanks, rfl, tabClean_map_wf _ _ _ ?_ hlanes, hrings, tabClean_map_wf _ _ _ ?_ hqueues,
    tabClean_map_wf _ _ _ ?_ hports, hkeys, hqps⟩ <;> exact fun _ => rfl

theorem Canon.after_clearStacks {s lost} (h : Canon s) : Canon (clearStacks s lost) := by
  unfold clearStacks
  extract_lets all s1 y
  have hs1 : Canon s1 := by
    refine .foldl (fun r k hr => .ite (.after_modStack <| .after_enterSelfRefresh hr) (.after_modStack hr)) ?_
    exact .ite h (.after_drainUnits h)
  clear_value s1
  refine .frame ((hs1.put_banks (x := []) fun _ => rfl).put_units (x := if lost then [] else s1.dram.units) fun hunits => ?_) rfl
  split
  · rfl
  · exact hunits

theorem Canon.after_clearSystem {s lost} (h : Canon s) : Canon (clearSystem s lost) := by
  unfold clearSystem
  extract_lets s1
  have hs1 : Canon s1 := .after_clearStacks h
  clear_value s1
  obtain ⟨-, -, hsch, hstk, -, hunits, hbanks, -, -, -, hqueues, -, -, -⟩ := hs1
  refine ⟨rfl, rfl, tabClean_map_wf _ _ _ ?_ hsch, hstk, rfl, hunits, hbanks, rfl, rfl, rfl,
    tabClean_map_wf _ _ _ ?_ hqueues, rfl, rfl, rfl⟩ <;> exact fun _ => rfl

theorem Canon.after_clearPowerOn {s} : Canon (clearPowerOn s) := by
  unfold clearPowerOn
  extract_lets y y2 y3 y4 y5
  have hy : Canon y := .reset
  exact hy.frame rfl

theorem Canon.after_noteSource {s code rank} (h : Canon s) : Canon (noteSource s code rank) := .after_modRst h

theorem Canon.after_takeReset {s r lost} (h : Canon s) : Canon (takeReset s r lost) := by
  unfold takeReset
  dsimp only
  split
  · exact .after_logEvent <| .after_clearCore <| .after_modRst <| .after_modSvc <| .after_holdLeds h
  · exact .after_logEvent <| .after_clearSystem <| .after_modRst <| .after_modSvc <| .after_holdLeds h
  · exact .after_clearPowerOn

theorem Canon.after_assertSource {s code r lost} (h : Canon s) : Canon (assertSource s code r lost) :=
  .ite h <| .ite (.after_modRst <| .after_noteSource h) <| .after_takeReset <| .after_modRst <| .after_noteSource h
theorem Canon.after_releaseSource {s code} (h : Canon s) : Canon (releaseSource s code) := .after_modRst h
theorem Canon.after_standbyReset {s up} : Canon (standbyReset s up) := .after_modRst .after_clearPowerOn
theorem CanonAnswer.of_execPor {low s} : CanonAnswer (execPor low s) := .next .after_standbyReset
theorem Canon.after_dropRails {s} (h : Canon s) : Canon (dropRails s) := .after_modRst h
theorem Canon.after_rampAgain {s} (h : Canon s) : Canon (rampAgain s) := .after_modRst h
theorem Canon.after_brownOut {s} (h : Canon s) : Canon (brownOut s) :=
  .after_rampAgain <| .after_assertSource <| .after_dropRails h
theorem CanonAnswer.of_execBrownout {input s} (h : Canon s) : CanonAnswer (execBrownout input s) :=
  .next <| .after_brownOut <| .ite (.after_modRst h) h
theorem CanonAnswer.of_execPrsntNHigh {s} (h : Canon s) : CanonAnswer (execPrsntNHigh s) :=
  .next <| .after_brownOut <| .after_modRst h
theorem CanonAnswer.of_execInput48vGood {s} (h : Canon s) : CanonAnswer (execInput48vGood s) :=
  .next <| .after_modRst h
theorem CanonAnswer.of_execRstNAssert {s} (h : Canon s) : CanonAnswer (execRstNAssert s) :=
  .next <| .after_assertSource <| .after_modRst h
theorem CanonAnswer.of_execRstNRelease {s} (h : Canon s) : CanonAnswer (execRstNRelease s) :=
  .next <| .after_releaseSource <| .after_modRst h
theorem CanonAnswer.of_execWdogExpiry {s} (h : Canon s) : CanonAnswer (execWdogExpiry s) :=
  .next <| .after_assertSource <| .after_modRst h
theorem CanonAnswer.of_execWdogKick {s} (h : Canon s) : CanonAnswer (execWdogKick s) :=
  .ite (.next h) <| .next <| .after_modRst h

theorem CanonAnswer.of_execPerstAssert {s} (h : Canon s) : CanonAnswer (execPerstAssert s) :=
  .ite (.next <| .after_assertSource <| .after_modRst h) <| .ite (.next <| .after_modRst h) <|
    .ite (.next <| .after_noteSource <| .after_modRst h) <| .next <| .after_loseHost <|
    .after_noteSource <| .after_modRst h

theorem CanonAnswer.of_execPerstDeassert {s} (h : Canon s) : CanonAnswer (execPerstDeassert s) :=
  .next <| .after_releaseSource <| .after_modRst h
theorem Canon.after_rstCtrl {s confirm r} (h : Canon s) : Canon (rstCtrl s confirm r) :=
  .ite (.after_modRst h) <| .after_dropBar0 h
theorem CanonAnswer.of_execRstCtrlCore {confirm s} (h : Canon s) : CanonAnswer (execRstCtrlCore confirm s) :=
  .next <| .after_rstCtrl h
theorem CanonAnswer.of_execRstCtrlSystem {confirm s} (h : Canon s) : CanonAnswer (execRstCtrlSystem confirm s) :=
  .next <| .after_rstCtrl h

theorem CanonAnswer.of_execHostSourceAssert {s} (h : Canon s) : CanonAnswer (execHostSourceAssert s) := by
  unfold execHostSourceAssert
  split
  · exact .next h
  · exact .next <| .after_assertSource <| .after_modRst h

theorem CanonAnswer.of_execResetSourceTimeout {source s} (h : Canon s) :
    CanonAnswer (execResetSourceTimeout source s) :=
  .ite (.next <| .after_releaseSource h) <| .next h
theorem Canon.after_debugOperation {s bad} (h : Canon s) : Canon (debugOperation s bad) :=
  .ite h <| .ite (.after_queueDrop h) <| .after_notePoison <| .after_usedFree <| .after_queueTake <|
    .after_queueSend h
theorem CanonAnswer.of_execDbgResetRequest {op s} (h : Canon s) : CanonAnswer (execDbgResetRequest op s) :=
  .ite (.next <| .after_assertSource <| .after_debugOperation h) <| .next <| .after_debugOperation h

theorem Canon.after_abortTest {s} (h : Canon s) : Canon (abortTest s) := by
  unfold abortTest
  split
  · exact h
  · exact .after_sendLine <| .after_modSvc h

theorem Canon.after_announce {s} (h : Canon s) : Canon (announce s) := .after_abortTest <| .after_sendLine h
theorem Canon.after_logHeldCopies {s} (h : Canon s) : Canon (logHeldCopies s) :=
  .foldl (fun _ _ hr => .after_logEvent hr) <| .after_modRst h
theorem Canon.after_releaseCore {s} (h : Canon s) : Canon (releaseCore s) :=
  .ite (.ite (.after_announce <| .after_logHeldCopies <| .after_modRst h) <| .after_logHeldCopies <|
    .after_modRst h) h
theorem Canon.after_releaseSystem {s} (h : Canon s) : Canon (releaseSystem s) :=
  .ite (.ite (.after_announce <| h.frame rfl) <| h.frame rfl) h
theorem Canon.after_judgeCalendar {s} (h : Canon s) : Canon (judgeCalendar s) :=
  .ite (.ite (h.frame rfl) h) <| .after_logEvent <| .ite (h.frame rfl) h
theorem Canon.after_releasePowerOn {s} (h : Canon s) : Canon (releasePowerOn s) :=
  .ite h <| .after_announce <| .after_judgeCalendar <| .after_logEvent <| .after_modRst <| .after_releaseSource h

theorem CanonAnswer.of_execResetRelease {r s} (h : Canon s) : CanonAnswer (execResetRelease r s) := by
  unfold execResetRelease
  split
  · exact .next <| .after_releaseCore h
  · exact .next <| .after_releaseSystem h
  · exact .next <| .after_releasePowerOn h

theorem CanonAnswer.of_execClkTimeout {domain s} (h : Canon s) : CanonAnswer (execClkTimeout domain s) :=
  .ite (.next <| .after_logEvent <| .after_modRst h) <| .next h

theorem Canon.after_applyOptions {s o} (h : Canon s) : Canon (applyOptions s o) := by
  unfold applyOptions
  extract_lets s1
  have hs1 : Canon s1 := .foldl (fun _ _ hr => .after_modStack hr) h
  clear_value s1
  exact hs1.frame rfl

theorem Canon.after_applyRecord {s r} (h : Canon s) : Canon (applyRecord s r) :=
  .foldl (fun _ _ hr => .ite (.dite (fun _ => .after_modPan hr) fun _ => hr) <| .after_modBank hr) <| h.frame rfl
theorem Canon.after_afterOptions {s} (h : Canon s) : Canon (afterOptions s) := .after_modRst h

theorem CanonAnswer.of_execOptionLoadDone {b0 b1 q0 q1 s} (h : Canon s) :
    CanonAnswer (execOptionLoadDone b0 b1 q0 q1 s) := by
  refine .ite (.next h) ?_
  extract_lets f o0 o1 r0 r1 oc rc raw rec_ gen fl s1 s2 s3 s4 s5 s6
  have hs2 : Canon s2 := .after_applyRecord <| .after_applyOptions <| .after_modRst h
  clear_value s2
  have hs3 : Canon s3 := .ite (.after_logEvent hs2) hs2
  have hs4 : Canon s4 := .ite (.after_logEvent hs3) hs3
  have hs5 : Canon s5 := .ite (.after_logEvent hs4) hs4
  have hs6 : Canon s6 := .ite (.after_logEvent hs5) hs5
  exact .next <| .after_afterOptions <| .after_logEvents hs6

theorem CanonAnswer.of_execRailsGood {s} (h : Canon s) : CanonAnswer (execRailsGood s) :=
  .ite (.next <| .after_releaseSource <| .after_modRst h) <| .next h
theorem CanonAnswer.of_execPllLocked {s} (h : Canon s) : CanonAnswer (execPllLocked s) :=
  .ite (.next <| .after_releaseSystem <| .after_modRst h) <| .next h
theorem Canon.after_failSpare {s st d j} (h : Canon s) : Canon (failSpare s st d j) :=
  .ite (.frame (.after_modBank h) rfl) <| .after_modBank h
theorem Canon.after_failUnit {s st d b} (h : Canon s) : Canon (failUnit s st d b) :=
  .dite (fun _ => .after_retireBankWith <| .after_logEvent h) fun _ => .after_failSpare <| .after_logEvent h
theorem Canon.after_failPan {s p bank} (h : Canon s) : Canon (failPan s p bank) :=
  .after_retirePan <| .after_logEvent <| .after_modPan h
theorem Canon.after_failQuad {s q bank} (h : Canon s) : Canon (failQuad s q bank) := .after_logEvent <| h.frame rfl

theorem CanonAnswer.of_execSelftestDone {pans quads units s} (h : Canon s) :
    CanonAnswer (execSelftestDone pans quads units s) :=
  .ite (.next h) <| .next <| .frame (.foldl (fun _ _ h1 => .after_failUnit h1) <|
    .foldl (fun _ _ h2 => .after_failQuad h2) <| .foldl (fun _ _ h3 => .after_failPan h3) h) rfl

theorem Canon.after_fillSram {s} (h : Canon s) : Canon (fillSram s) :=
  .foldl (fun _ _ h1 => .after_injectRange h1) <| .foldl (fun _ _ h2 => .after_injectRange h2) <| h.frame rfl
theorem CanonAnswer.of_execSramFillDone {s} (h : Canon s) : CanonAnswer (execSramFillDone s) :=
  .ite (.next h) <| .next <| .after_modRst <| .after_fillSram h
theorem Canon.after_trainStacks {s bad} (h : Canon s) : Canon (trainStacks s bad) :=
  .foldl (fun _ _ h1 => .after_failPc h1) <| .foldl (fun _ _ h2 => .after_modStack <|
    .after_leaveSelfRefresh h2) <| .after_rewriteSpares h
theorem CanonAnswer.of_execDramTrained {bad s} (h : Canon s) : CanonAnswer (execDramTrained bad s) :=
  .ite (.next h) <| .ite (.next <| .after_modRst <| .after_trainStacks h) <| .next <|
    .after_releaseCore <| .after_modRst <| .after_trainStacks h
theorem CanonAnswer.of_execDramFillDone {s} (h : Canon s) : CanonAnswer (execDramFillDone s) :=
  .ite (.next h) <| .next <| .after_releaseCore <| .after_modRst <| .after_fillDram h
theorem CanonAnswer.of_execFwCopyDone {x y s} (h : Canon s) : CanonAnswer (execFwCopyDone x y s) :=
  .ite (.next h) <| .ite (.next <| .after_logEvent <| .ite (.after_logEvent <| .after_modRst h) <|
    .after_modRst h) <| .next <| .after_releaseCore <| .ite (.after_logEvent <| .after_modRst h) <| .after_modRst h
theorem Canon.after_abortMailbox {s} (h : Canon s) : Canon (abortMailbox s) :=
  .foldl (fun _ _ hr => .ite (.after_respond hr) hr) h
theorem Canon.after_readCage {s n} (h : Canon s) : Canon (readCage s n) := .after_modRst <| .after_modPort h
theorem Canon.after_restorePins {s} (h : Canon s) : Canon (restorePins s) :=
  .ite (.frame (.foldl (fun _ _ h1 => .after_readCage h1) h) rfl) <| .foldl (fun _ _ h2 => .after_readCage h2) h
theorem CanonAnswer.of_execRilefReady {s} (h : Canon s) : CanonAnswer (execRilefReady s) :=
  .ite (.next h) <| .next <| .after_abortMailbox <| .after_restorePins <| .after_modRst h
theorem CanonAnswer.of_execConfigRequest {off s} (h : Canon s) : CanonAnswer (execConfigRequest off s) :=
  .ite (.next <| .after_emit h) <| .next <| .after_emit h
theorem CanonAnswer.of_execModulePresenceChange {port present ready fault over30 s} (h : Canon s) :
    CanonAnswer (execModulePresenceChange port present ready fault over30 s) :=
  .next <| .ite (.after_readCage <| .after_modRst h) <| .after_modRst h

/-! ### Registers of BAR0 -/

theorem CanonRead.of_plain {s v} (h : Canon s) : CanonRead (plain s v) := .some h

theorem CanonRead.of_pick {s rs o} (h : Canon s) : CanonRead (pick s rs o) := by
  unfold pick
  cases rs[o / 8]? with
  | none => exact .none
  | some v => exact .some h

theorem Canon.after_readQerr {s n} (h : Canon s) : Canon (readQerr s n).2 := .after_modQErr h
theorem Canon.after_readSvcCount {s} (h : Canon s) : Canon (readSvcCount s).2 := .after_modSvc h

theorem Canon.after_readChal {s} (h : Canon s) : Canon (readChal s).2 := by
  unfold readChal
  extract_lets y y2
  have hy : Canon y := .after_usedFree h
  exact hy.frame rfl

theorem CanonRead.of_readIdentity {s o} (h : Canon s) : CanonRead (readIdentity s o) := by
  unfold readIdentity
  split
  · exact .some <| .after_readQerr h
  · exact .of_plain h
  · split
    · exact .of_plain h
    · exact .of_plain h
    · exact .of_plain h
    · exact .some <| h.frame rfl
    · exact .some <| h.frame rfl
    · exact .of_plain h
    · exact .some <| .after_readRespq h
    · exact .some <| .after_readEvq h
    · exact .of_plain h
    · exact .of_plain h
    · exact .of_plain h
    · exact .of_plain h
    · exact .some <| .after_readSvcCount h
    · exact .some <| .after_readChal h
    · exact .of_plain h
    · exact .of_plain h
    · exact .none

theorem Canon.after_lockDebug {s} (h : Canon s) : Canon (lockDebug s) := h.frame rfl
theorem Canon.after_openDebug {s triyx} (h : Canon s) : Canon (openDebug s triyx) := .after_logEvent <| h.frame rfl
theorem Canon.after_writeUnlock {s confirm lock resp} (h : Canon s) : Canon (writeUnlock s confirm lock resp) :=
  .ite (.after_dropBar0 h) <| .ite (.after_lockDebug h) <| .ite (.after_openDebug h) <| .after_dropBar0 h
theorem Canon.after_writeMsix {s n v} (h : Canon s) : Canon (writeMsix s n v) :=
  .dite (fun _ => .ite (.after_sendMsix <| .frame (h.frame (by rfl)) rfl) <| h.frame rfl) fun _ => h.frame rfl

theorem Canon.after_after {s a} (hs : Canon s) (ha : CanonAnswer a) : Canon (after s a) := by
  unfold after
  split
  · exact ha.of_next rfl
  · exact hs

theorem Canon.after_writeQctl {s v} (h : Canon s) : Canon (writeQctl s v) :=
  .ite (.after_after (.ite (.after_after (h.frame rfl) <| .of_execFlushEv <| h.frame rfl) <|
    h.frame rfl) <| .of_execFlushResp <| .ite (.after_after (h.frame rfl) <| .of_execFlushEv <|
    h.frame rfl) <| h.frame rfl) <| .ite (.after_after (h.frame rfl) <| .of_execFlushEv <| h.frame rfl) <| h.frame rfl

theorem Canon.after_writeIdentity {s o v} (h : Canon s) : Canon (writeIdentity s o v) := by
  unfold writeIdentity
  split
  · exact .after_writeMsix h
  · split
    · exact .ite (h.frame rfl) h
    · exact .after_after h <| .of_execHostAttach h
    · exact .after_writeQctl h
    · exact .after_writeUnlock h
    · exact h

theorem CanonRead.of_readMailbox {s o} (h : Canon s) : CanonRead (readMailbox s o) := by
  unfold readMailbox
  split
  · exact .of_plain h
  · exact .of_plain h
  · split
    · exact .of_plain h
    · exact .of_plain h
    · exact .of_plain h
    · exact .of_plain h
    · exact .none

theorem Canon.after_writeMailbox {s o v} (h : Canon s) : Canon (writeMailbox s o v) := by
  unfold writeMailbox
  split
  · exact h.frame rfl
  · exact .ite (.after_after h <| .of_execMbxDoorbell h) h

theorem CanonRead.of_readLane {s n k} (h : Canon s) : CanonRead (readLane s n k) := by
  unfold readLane
  dsimp only
  split
  · exact .of_plain h
  · exact .of_plain h
  · exact .of_plain h
  · exact .of_plain h
  · exact .of_plain h
  · exact .of_plain h
  · exact .some <| .after_modLane h
  · exact .none

theorem CanonRead.of_readIngest {s o} (h : Canon s) : CanonRead (readIngest s o) := by
  unfold readIngest
  split
  · exact .dite (fun _ => .of_readLane h) fun _ => .none
  · exact .none

theorem Canon.after_writeIngest {s o v} (h : Canon s) : Canon (writeIngest s o v) := by
  unfold writeIngest
  split
  · exact .dite (fun _ => .after_after h <| .of_execIngestDoorbell h) fun _ => h
  · exact h

theorem CanonRead.of_readRing {s r k} (h : Canon s) : CanonRead (readRing s r k) := by
  unfold readRing
  split
  · exact .of_plain h
  · exact .of_plain h
  · exact .of_plain h
  · exact .of_plain h
  · exact .of_plain h
  · exact .of_plain h
  · exact .of_plain h
  · exact .none

theorem CanonRead.of_readRings {s o} (h : Canon s) : CanonRead (readRings s o) := by
  unfold readRings
  split
  · exact .dite (fun _ => .of_readRing h) fun _ => .none
  · exact .ite (.some <| h.frame rfl) .none

theorem Canon.after_writeRings {s o v} (h : Canon s) : Canon (writeRings s o v) := by
  unfold writeRings
  split
  · exact .dite (fun _ => .after_after h <| .of_execHrvHeadWrite h) fun _ => h
  · exact h

theorem CanonRead.of_readSync {s o} (h : Canon s) : CanonRead (readSync s o) := by
  unfold readSync
  split
  · exact .of_plain h
  · exact .of_pick h
  · exact .of_plain h
  · split
    · exact .of_plain h
    · exact .of_plain h
    · exact .some <| h.frame rfl
    · exact .of_plain h
    · exact .of_plain h
    · exact .none

theorem Canon.after_writeTlyHand {s v} (h : Canon s) : Canon (writeTlyHand s v) := by
  unfold writeTlyHand
  dsimp only
  split
  · exact .after_handWrite h
  · exact .after_handWrite h
  · exact .after_rejectHand h

theorem Canon.after_writeGateHand {s v} (h : Canon s) : Canon (writeGateHand s v) := by
  unfold writeGateHand
  dsimp only
  split
  · exact .after_handWrite h
  · exact .after_handWrite h
  · exact .after_rejectHand h

theorem Canon.after_writeSync {s o v} (h : Canon s) : Canon (writeSync s o v) := by
  unfold writeSync
  split
  · exact .after_writeTlyHand h
  · exact .after_writeGateHand h
  · exact .ite (.after_after h <| .of_execSnap h) h
  · exact h

theorem CanonRead.of_readReset {s o} (h : Canon s) : CanonRead (readReset s o) := by
  unfold readReset
  split
  · exact .of_plain h
  · split
    · exact .of_plain h
    · exact .of_plain h
    · exact .of_plain h
    · exact .some <| .after_modRst h
    · exact .of_plain h
    · exact .of_plain h
    · exact .of_plain h
    · exact .of_plain h
    · exact .of_plain h
    · exact .none

theorem Canon.after_writeRstCtrl {s v} (h : Canon s) : Canon (writeRstCtrl s v) := by
  unfold writeRstCtrl
  dsimp only
  split
  · exact .after_rstCtrl h
  · exact .after_rstCtrl h
  · exact .after_dropBar0 h

theorem Canon.after_writeReset {s o v} (h : Canon s) : Canon (writeReset s o v) := by
  unfold writeReset
  split
  · exact .after_modRst h
  · exact .after_writeRstCtrl h
  · exact h

theorem CanonRead.of_readSensors {s o} (h : Canon s) : CanonRead (readSensors s o) := by
  unfold readSensors
  split
  · exact .some <| h.frame rfl
  · exact .some <| h.frame rfl
  · exact .of_plain h
  · exact .of_plain h
  · split
    · exact .of_plain h
    · exact .of_plain h
    · exact .none

theorem CanonRead.of_readGovernor {s o} (h : Canon s) : CanonRead (readGovernor s o) := by
  unfold readGovernor
  split
  · exact .of_plain h
  · exact .of_plain h
  · exact .of_plain h
  · split
    · exact .of_plain h
    · exact .some <| h.frame rfl
    · exact .of_plain h
    · exact .of_plain h
    · exact .of_plain h
    · exact .of_plain h
    · exact .of_plain h
    · exact .of_readSensors h

theorem Canon.after_setLog {s l} (h : Canon s) : Canon (setLog s l) := h.frame rfl

theorem CanonRead.of_readLogs {s o} (h : Canon s) : CanonRead (readLogs s o) := by
  unfold readLogs
  dsimp only
  split
  · exact .some <| .after_readLogEntry h
  · exact .some <| .after_readLogEntry h
  · split
    · exact .of_plain h
    · exact .some <| .after_setLog h
    · exact .some <| .after_setLog h
    · exact .some <| .after_setLog h
    · exact .of_plain h
    · exact .of_plain h
    · exact .some <| .after_setLog h
    · exact .some <| .after_setLog h
    · exact .none

theorem Canon.after_writeLogs {s o v} (h : Canon s) : Canon (writeLogs s o v) := by
  unfold writeLogs
  split
  · exact .ite (.after_after (.ite (.after_after h <| .of_execEvClr h) h) <| .of_execErClr <|
      .ite (.after_after h <| .of_execEvClr h) h) <| .ite (.after_after h <| .of_execEvClr h) h
  · exact .after_setLog h
  · exact h

theorem CanonRead.of_readPort {s p k} (h : Canon s) : CanonRead (readPort s p k) := by
  unfold readPort
  dsimp only
  split
  · exact .of_plain h
  · exact .of_plain h
  · exact .of_plain h
  · exact .some <| .after_modPort h
  · exact .none

theorem CanonRead.of_readNet {s o} (h : Canon s) : CanonRead (readNet s o) := by
  unfold readNet
  split
  · exact .dite (fun _ => .of_readPort h) fun _ => .none
  · exact .of_plain h
  · exact .of_plain h
  · exact .of_plain h
  · split
    · exact .of_plain h
    · exact .of_plain h
    · exact .none

theorem Canon.after_writeNet {s o v} (h : Canon s) : Canon (writeNet s o v) := .ite (h.frame rfl) h

theorem CanonRead.of_readTenant {s x k} (h : Canon s) : CanonRead (readTenant s x k) := by
  unfold readTenant
  split
  · exact .of_plain h
  · exact .of_plain h
  · exact .of_plain h
  · exact .of_plain h
  · exact .of_plain h
  · exact .none

theorem Canon.after_modDesc {s t f} (h : Canon s) : Canon (modDesc s t f) := h.frame rfl

theorem CanonRead.of_readDesc {s t k} (h : Canon s) : CanonRead (readDesc s t k) := by
  unfold readDesc
  split
  · exact .some <| .after_modDesc h
  · exact .some <| .after_modDesc h
  · exact .some <| .after_modDesc h
  · exact .none

theorem CanonRead.of_readPlacer {s o} (h : Canon s) : CanonRead (readPlacer s o) := by
  unfold readPlacer
  split
  · exact .of_readTenant h
  · exact .of_plain h
  · exact .of_plain h
  · exact .of_readDesc h
  · exact .ite (.of_plain h) .none

theorem CanonRead.of_readPan {s p k} (h : Canon s) : CanonRead (readPan s p k) := by
  unfold readPan
  dsimp only
  split
  · exact .of_plain h
  · exact .of_plain h
  · split
    · exact .of_plain h
    · exact .of_plain h
    · exact .of_plain h
    · exact .of_plain h
    · exact .of_plain h
    · exact .of_plain h
    · exact .of_plain h
    · exact .of_plain h
    · exact .of_plain h
    · exact .of_plain h
    · exact .of_plain h
    · exact .of_plain h
    · exact .of_plain h
    · exact .of_plain h
    · exact .of_plain h
    · exact .of_plain h
    · exact .of_plain h
    · exact .of_plain h
    · exact .some <| .after_modPan h
    · exact .of_plain h
    · exact .of_plain h
    · exact .of_plain h
    · exact .some <| .after_modPan h
    · exact .of_plain h
    · exact .of_plain h
    · exact .of_plain h
    · exact .of_plain h
    · exact .of_plain h
    · exact .none

theorem Canon.after_writePan {s p k v} (h : Canon s) : Canon (writePan s p k v) :=
  .ite (.ite (.after_after h <| .of_execPanStep <| .after_modPan h) <| .after_after h <| .of_execPanPause h) h

theorem CanonRead.of_readSch {s n k} (h : Canon s) : CanonRead (readSch s n k) := by
  unfold readSch
  dsimp only
  split
  · exact .of_plain h
  · exact .of_plain h
  · exact .of_plain h
  · exact .of_plain h
  · exact .of_plain h
  · exact .none

theorem Canon.after_writeSch {s n k v} (h : Canon s) : Canon (writeSch s n k v) :=
  .ite (.after_debugWrite h fun _ hr => .ite (.after_restartSch <| .after_enableSch hr) <| .after_enableSch hr) h

theorem CanonRead.of_readPond {s st k} (h : Canon s) : CanonRead (readPond s st k) := by
  unfold readPond
  dsimp only
  split
  · exact .of_plain h
  · split
    · exact .of_plain h
    · exact .some <| .after_modStack h
    · exact .some <| .after_modStack h
    · exact .some <| .after_modStack h
    · exact .of_plain h
    · exact .of_plain h
    · exact .of_plain h
    · exact .none

theorem CanonRead.of_readDmc {s st k} (h : Canon s) : CanonRead (readDmc s st k) := by
  unfold readDmc
  dsimp only
  split
  · exact .of_plain h
  · exact .of_plain h
  · exact .some <| .after_modStack h
  · exact .some <| .after_modStack h
  · exact .some <| .after_modStack h
  · exact .some <| .after_modStack h
  · exact .some <| .after_modStack h
  · exact .of_plain h
  · exact .of_plain h
  · exact .of_plain h
  · exact .none

theorem Canon.after_writeDmc {s st k v} (h : Canon s) : Canon (writeDmc s st k v) := .ite (.after_modStack h) h

theorem Canon.after_writeInj {s o v} (h : Canon s) : Canon (writeInj s o v) := by
  unfold writeInj
  split
  · exact .after_setLog h
  · exact .after_setLog h
  · exact .after_setLog h
  · exact h

theorem CanonRead.of_readDebug {s o} (h : Canon s) : CanonRead (readDebug s o) := by
  unfold readDebug
  split
  · exact .dite (fun _ => .of_readPan h) fun _ => .none
  · exact .dite (fun _ => .of_readSch h) fun _ => .none
  · exact .dite (fun _ => .of_readPond h) fun _ => .none
  · exact .dite (fun _ => .of_readDmc h) fun _ => .none
  · split
    · exact .of_plain h
    · exact .of_plain h
    · exact .of_plain h
    · exact .none

theorem Canon.after_writeDebug {s o v} (h : Canon s) : Canon (writeDebug s o v) := by
  unfold writeDebug
  split
  · exact .dite (fun _ => .after_writePan h) fun _ => h
  · exact .dite (fun _ => .after_writeSch h) fun _ => h
  · exact .dite (fun _ => .after_writeDmc h) fun _ => h
  · exact .after_writeInj h

theorem CanonRead.of_readBlock {s o} (h : Canon s) : CanonRead (readBlock s o) := by
  unfold readBlock
  split
  · exact .of_readIdentity h
  · exact .of_readMailbox h
  · exact .of_readIngest h
  · exact .of_readRings h
  · exact .of_readSync h
  · exact .of_readReset h
  · exact .of_readGovernor h
  · exact .of_readLogs h
  · exact .of_readNet h
  · exact .of_readPlacer h
  · exact .ite .none <| .of_readDebug h

theorem Canon.after_writeBlock {s o v} (h : Canon s) : Canon (writeBlock s o v) := by
  unfold writeBlock
  split
  · exact .after_writeIdentity h
  · exact .after_writeMailbox h
  · exact .after_writeIngest h
  · exact .after_writeRings h
  · exact .after_writeSync h
  · exact .after_writeReset h
  · exact h
  · exact .after_writeLogs h
  · exact .after_writeNet h
  · exact h
  · exact .ite h <| .after_writeDebug h

theorem Canon.after_bar0Read {s o} (h : Canon s) : Canon (bar0Read s o).2 := .getD_snd (.of_readBlock h) h
theorem CanonAnswer.of_execBar0Write {off v s} (h : Canon s) : CanonAnswer (execBar0Write off v s) :=
  .ite (.next <| .after_writeBlock h) <| .next <| .after_dropBar0 h

/-! ### Triyx commands, the debug port and identity -/

theorem Canon.after_idnt {s} (h : Canon s) : Canon (idnt s) := .after_replyLines h
theorem Canon.after_readRegs {s os} (h : Canon s) : Canon (readRegs s os).2 :=
  .foldl_snd (fun _ _ hr => .after_bar0Read hr) h
theorem Canon.after_replyRegs {s os} (h : Canon s) : Canon (replyRegs s os) := .after_replyLines <| .after_readRegs h
theorem Canon.after_rcau {s} (h : Canon s) : Canon (rcau s) := .after_replyRegs h
theorem Canon.after_calr {s} (h : Canon s) : Canon (calr s) := .after_replyRegs h
theorem Canon.after_optr {s} (h : Canon s) : Canon (optr s) := .after_replyLines h
theorem Canon.after_rreg {off s} (h : Canon s) : Canon (rreg off s) := .ite (.after_replyErr h) <| .after_replyRegs h
theorem Canon.after_logr {ev first count s} (h : Canon s) : Canon (logr ev first count s) :=
  .ite (.after_replyErr h) <| .after_replyLines <| .foldl_snd (fun _ _ hr => .after_readLogEntry hr) h
theorem Canon.after_logc {ev head s} (h : Canon s) : Canon (logc ev head s) :=
  .ite (.after_replyErr h) <| .after_replyOk <| .after_setLog h
theorem Canon.after_retr {first count s} (h : Canon s) : Canon (retr first count s) :=
  .ite (.after_replyErr h) <| .after_replyLines h

theorem Canon.after_startTest {u s} (h : Canon s) : Canon (startTest u s) := by
  unfold startTest
  dsimp only
  refine .ite (.after_replyErr h) ?_
  refine .ite (.after_replyErr h) ?_
  split
  · exact .after_modPan <| .after_modSvc h
  · exact .after_modSvc h

theorem Canon.after_zeroUnit {s u} (h : Canon s) : Canon (zeroUnit s u) := by
  unfold zeroUnit
  extract_lets s0 s1
  have hs0 : Canon s0 := by
    simp only [s0]
    split
    · exact .after_modStack h
    · exact h
  clear_value s0
  have hs1 : Canon s1 := hs0.frame rfl
  clear_value s1
  split
  · exact .after_injectRange hs1
  · exact .after_injectRange hs1
  · exact .ite (.foldl (fun _ _ hr => .after_injectRange hr) hs1) hs1
  · exact hs1

theorem Canon.after_failTest {s u ls} (h : Canon s) : Canon (failTest s u ls) := by
  unfold failTest
  split
  · exact .after_failPan h
  · exact .after_failQuad h
  · exact .foldl (fun _ _ hr => .after_failUnit hr) h
  · exact .after_logEvent h

theorem Canon.after_passTest {s u} (h : Canon s) : Canon (passTest s u) := by
  unfold passTest
  split
  · exact .ite h <| .after_modPan h
  · exact h

theorem Canon.after_endTest {s u} (h : Canon s) : Canon (endTest s u) := by
  unfold endTest
  split
  · exact .after_modPan h
  · exact h

theorem CanonAnswer.of_execTestComplete {failures s} (h : Canon s) : CanonAnswer (execTestComplete failures s) := by
  unfold execTestComplete
  split
  · exact .next h
  · exact .next <| .after_finalReply <| .after_dataLines <| .ite (.after_passTest <|
      .after_endTest <| .after_zeroUnit <| .after_modSvc h) <| .after_failTest <| .after_endTest <|
      .after_zeroUnit <| .after_modSvc h

theorem Canon.after_rset {r confirm s} (h : Canon s) : Canon (rset r confirm s) :=
  .ite (.after_replyErr h) <| .after_replyOk <| .after_modSvc h

theorem Canon.after_triyxReset {s r} (h : Canon s) : Canon (triyxReset s r) := by
  unfold triyxReset
  split
  · exact .after_modRst <| .after_assertSource h
  · exact .after_assertSource h

theorem Canon.after_dump {s} (h : Canon s) : Canon (dump s) := h.frame rfl

theorem Canon.after_hset {op confirm s} (h : Canon s) : Canon (hset op confirm s) := by
  unfold hset
  split
  · exact .ite (h.frame rfl) <| .after_replyErr h
  · exact .after_replyErr h

theorem Canon.after_cals {sec frac s} (h : Canon s) : Canon (cals sec frac s) :=
  .ite (.after_replyErr h) <| .after_replyOk <| .after_setCalendar h
theorem Canon.after_baud {rate s} (h : Canon s) : Canon (baud rate s) :=
  .ite (.after_replyErr h) <| .after_replyOk <| .after_modSvc h
theorem Canon.after_authNonce {s} (h : Canon s) : Canon (authNonce s) :=
  .after_replyLines <| .after_modSvc <| .after_usedFree h
theorem Canon.after_auts {signature pubkey s} (h : Canon s) : Canon (auts signature pubkey s) :=
  .ite (.after_replyErr h) <| .ite (.after_replyOk <| .after_logEvent <| .after_modSvc h) <|
    .after_replyErr <| .after_logEvent <| .after_modSvc h
theorem CanonAnswer.of_execAuthTimeout {s} (h : Canon s) : CanonAnswer (execAuthTimeout s) :=
  .next <| .ite (.after_modSvc h) h
theorem Canon.after_authorised {s act} (h : Canon s) (hact : ∀ r, Canon r → Canon (act r)) :
    Canon (authorised s act) :=
  .ite (hact _ h) <| .after_replyErr h

theorem Canon.after_optw {off size v s} (h : Canon s) : Canon (optw off size v s) := by
  unfold optw
  refine .after_authorised h ?_
  intro _ hr
  split
  · exact .ite (.after_replyErr hr) <| .after_replyOk <| .ite (.after_modMir <|
      .after_writeOption hr) <| .after_writeOption hr
  · exact .after_replyErr hr

theorem Canon.after_retc {entry s} (h : Canon s) : Canon (retc entry s) :=
  .after_authorised h fun _ hr => .ite (.after_replyOk <| hr.frame rfl) <| .after_replyErr hr
theorem Canon.after_dbun {open_ s} (h : Canon s) : Canon (dbun open_ s) :=
  .after_authorised h fun _ hr => .after_replyOk <| .ite (.after_openDebug hr) <| .after_lockDebug hr

theorem Canon.after_verbAct {v s} (h : Canon s) : Canon (verbAct v s) := by
  unfold verbAct
  split
  · exact .after_idnt h
  · exact .after_replyLines h
  · exact .after_rcau h
  · exact .after_calr h
  · exact .after_optr h
  · exact .after_authNonce h
  · exact .after_dump h
  · exact .after_replyErr h
  · exact .after_startTest h
  · exact .after_logr h
  · exact .after_logc h
  · exact .after_rset h
  · exact .after_hset h
  · exact .after_cals h
  · exact .after_rreg h
  · exact .after_baud h
  · exact .after_auts h
  · exact .after_optw h
  · exact .after_retr h
  · exact .after_retc h
  · exact .after_dbun h

theorem Canon.after_runLine {s l} (h : Canon s) : Canon (runLine s l) := by
  unfold runLine
  dsimp only
  split
  · refine .ite ?_ (.after_verbAct <| .after_modSvc h)
    split
    · exact .after_sendLine <| .after_modSvc h
    · exact .after_modSvc h
  · exact .ite h <| .after_lineFailed h

theorem Canon.after_arriveLine {s l bad} (h : Canon s) : Canon (arriveLine s l bad) := by
  unfold arriveLine
  dsimp only
  refine .ite h ?_
  refine .ite (.after_queueDrop h) ?_
  refine .ite ?_ (.after_modSvc <| .after_queueSend h)
  split
  · exact .after_lineFailed <| .after_notePoison <| .after_queueTake <| .after_queueSend h
  · exact .after_runLine <| .after_queueTake <| .after_queueSend h

theorem Canon.after_triyx {s seq v} (h : Canon s) : Canon (triyx s seq v) := .after_arriveLine h

theorem Canon.after_nextLine {s} (h : Canon s) : Canon (nextLine s) := by
  unfold nextLine
  split
  · exact h
  · exact .ite h <| .ite (.after_runLine <| .after_takeChecked <| .after_modSvc h) <|
      .after_lineFailed <| .after_takeChecked <| .after_modSvc h

theorem CanonAnswer.of_execIdnt {seq s} (h : Canon s) : CanonAnswer (execIdnt seq s) := .next <| .after_triyx h
theorem CanonAnswer.of_execSens {seq s} (h : Canon s) : CanonAnswer (execSens seq s) := .next <| .after_triyx h
theorem CanonAnswer.of_execTest {seq u s} (h : Canon s) : CanonAnswer (execTest seq u s) := .next <| .after_triyx h
theorem CanonAnswer.of_execLogr {seq ev first count s} (h : Canon s) : CanonAnswer (execLogr seq ev first count s) :=
  .next <| .after_triyx h
theorem CanonAnswer.of_execLogc {seq ev head s} (h : Canon s) : CanonAnswer (execLogc seq ev head s) :=
  .next <| .after_triyx h
theorem CanonAnswer.of_execRcau {seq s} (h : Canon s) : CanonAnswer (execRcau seq s) := .next <| .after_triyx h
theorem CanonAnswer.of_execRsetC {seq confirm s} (h : Canon s) : CanonAnswer (execRsetC seq confirm s) :=
  .next <| .after_triyx h
theorem CanonAnswer.of_execRsetS {seq confirm s} (h : Canon s) : CanonAnswer (execRsetS seq confirm s) :=
  .next <| .after_triyx h
theorem CanonAnswer.of_execRsetP {seq confirm s} (h : Canon s) : CanonAnswer (execRsetP seq confirm s) :=
  .next <| .after_triyx h
theorem CanonAnswer.of_execDump {seq s} (h : Canon s) : CanonAnswer (execDump seq s) := .next <| .after_triyx h
theorem CanonAnswer.of_execHsetTlySet {seq t v confirm s} (h : Canon s) :
    CanonAnswer (execHsetTlySet seq t v confirm s) :=
  .next <| .after_triyx h
theorem CanonAnswer.of_execHsetTlySig {seq t v confirm s} (h : Canon s) :
    CanonAnswer (execHsetTlySig seq t v confirm s) :=
  .next <| .after_triyx h
theorem CanonAnswer.of_execHsetGateRel {seq g confirm s} (h : Canon s) :
    CanonAnswer (execHsetGateRel seq g confirm s) :=
  .next <| .after_triyx h
theorem CanonAnswer.of_execHsetGateRst {seq g confirm s} (h : Canon s) :
    CanonAnswer (execHsetGateRst seq g confirm s) :=
  .next <| .after_triyx h
theorem CanonAnswer.of_execCalr {seq s} (h : Canon s) : CanonAnswer (execCalr seq s) := .next <| .after_triyx h
theorem CanonAnswer.of_execCals {seq sec frac s} (h : Canon s) : CanonAnswer (execCals seq sec frac s) :=
  .next <| .after_triyx h
theorem CanonAnswer.of_execOptr {seq s} (h : Canon s) : CanonAnswer (execOptr seq s) := .next <| .after_triyx h
theorem CanonAnswer.of_execRreg {seq off s} (h : Canon s) : CanonAnswer (execRreg seq off s) :=
  .next <| .after_triyx h
theorem CanonAnswer.of_execBaud {seq rate s} (h : Canon s) : CanonAnswer (execBaud seq rate s) :=
  .next <| .after_triyx h
theorem CanonAnswer.of_execAuth {seq s} (h : Canon s) : CanonAnswer (execAuth seq s) := .next <| .after_triyx h
theorem CanonAnswer.of_execAuts {seq signature pubkey s} (h : Canon s) :
    CanonAnswer (execAuts seq signature pubkey s) :=
  .next <| .after_triyx h
theorem CanonAnswer.of_execOptw {seq off size v s} (h : Canon s) : CanonAnswer (execOptw seq off size v s) :=
  .next <| .after_triyx h
theorem CanonAnswer.of_execRetr {seq first count s} (h : Canon s) : CanonAnswer (execRetr seq first count s) :=
  .next <| .after_triyx h
theorem CanonAnswer.of_execRetc {seq entry s} (h : Canon s) : CanonAnswer (execRetc seq entry s) :=
  .next <| .after_triyx h
theorem CanonAnswer.of_execDbunOpen {seq s} (h : Canon s) : CanonAnswer (execDbunOpen seq s) :=
  .next <| .after_triyx h
theorem CanonAnswer.of_execDbunLock {seq s} (h : Canon s) : CanonAnswer (execDbunLock seq s) :=
  .next <| .after_triyx h
theorem CanonAnswer.of_execUnknownVerb {seq s} (h : Canon s) : CanonAnswer (execUnknownVerb seq s) :=
  .next <| .after_triyx h

theorem CanonAnswer.of_execBadLine {fault s} (h : Canon s) : CanonAnswer (execBadLine fault s) := by
  unfold execBadLine
  split
  · exact .next <| .after_arriveLine h
  · exact .next <| .after_arriveLine h

theorem CanonAnswer.of_execFinalLineSent {s} (h : Canon s) : CanonAnswer (execFinalLineSent s) := by
  unfold execFinalLineSent
  dsimp only
  split
  · refine .next ?_
    refine .after_triyxReset ?_
    refine .after_modSvc ?_
    split
    · exact .after_modSvc <| .after_drainLines h
    · exact .after_drainLines h
  · refine .next ?_
    split
    · exact .after_modSvc <| .after_drainLines h
    · exact .after_drainLines h

theorem CanonAnswer.of_execDbgChalRead {s} (h : Canon s) : CanonAnswer (execDbgChalRead s) :=
  .next <| .after_emit <| .after_readChal h
theorem CanonAnswer.of_execDbgUnlock {confirm resp s} (h : Canon s) : CanonAnswer (execDbgUnlock confirm resp s) :=
  .next <| .after_writeUnlock h
theorem CanonAnswer.of_execDbgLock {confirm s} (h : Canon s) : CanonAnswer (execDbgLock confirm s) :=
  .next <| .after_writeUnlock h
theorem Canon.after_setJtag {s n} (h : Canon s) : Canon (setJtag s n) := .after_modSvc h
theorem CanonAnswer.of_execBypass {s} (h : Canon s) : CanonAnswer (execBypass s) := .next <| .after_setJtag h
theorem CanonAnswer.of_execIdcode {s} (h : Canon s) : CanonAnswer (execIdcode s) :=
  .next <| .after_emit <| .after_setJtag h
theorem CanonAnswer.of_execSamplePreload {s} (h : Canon s) : CanonAnswer (execSamplePreload s) :=
  .next <| .after_setJtag h
theorem CanonAnswer.of_execExtest {s} (h : Canon s) : CanonAnswer (execExtest s) := .next <| .after_setJtag h
theorem Canon.after_spdm {s code data} (h : Canon s) : Canon (spdm s code data) := .after_emit h
theorem Canon.after_spdmError {s why} (h : Canon s) : Canon (spdmError s why) := .after_spdm h
theorem Canon.after_spdmReady {s act} (h : Canon s) (hact : ∀ r, Canon r → Canon (act r)) : Canon (spdmReady s act) :=
  .ite (hact _ h) <| .after_spdmError h
theorem CanonAnswer.of_execGetVersion {s} (h : Canon s) : CanonAnswer (execGetVersion s) :=
  .next <| .after_spdm <| .after_modSvc h
theorem CanonAnswer.of_execGetCapabilities {s} (h : Canon s) : CanonAnswer (execGetCapabilities s) :=
  .next <| .ite (.after_spdm h) <| .after_spdmError h
theorem CanonAnswer.of_execNegotiateAlgorithms {asym hash s} (h : Canon s) :
    CanonAnswer (execNegotiateAlgorithms asym hash s) :=
  .next <| .ite (.after_spdmError h) <| .ite (.after_spdm <| .after_modSvc h) <| .after_spdmError h
theorem CanonAnswer.of_execGetDigests {s} (h : Canon s) : CanonAnswer (execGetDigests s) :=
  .next <| .after_spdmReady h fun _ hr => .after_spdm hr
theorem CanonAnswer.of_execGetCertificate {slot off len s} (h : Canon s) :
    CanonAnswer (execGetCertificate slot off len s) :=
  .next <| .after_spdmReady h fun _ hr => .ite (.after_spdmError hr) <| .after_spdm hr
theorem CanonAnswer.of_execChallenge {slot nonce s} (h : Canon s) : CanonAnswer (execChallenge slot nonce s) :=
  .next <| .after_spdmReady h fun _ hr => .ite (.after_spdmError hr) <| .after_spdm hr

theorem CanonAnswer.of_execGetMeasurements {index nonce s} (h : Canon s) :
    CanonAnswer (execGetMeasurements index nonce s) := by
  unfold execGetMeasurements
  refine .next ?_
  refine .after_spdmReady h ?_
  intro _ hr
  split
  · exact .after_spdm hr
  · exact .after_spdmError hr

/-! ### A tick -/

theorem Canon.after_releaseFlow {s} (h : Canon s) : Canon (releaseFlow s) :=
  .foldl (fun _ _ hr => .ite (.after_emit <| .after_modPort hr) hr) h

theorem Canon.after_crossTick {s r} (h : Canon s) : Canon (crossTick s r) := by
  unfold crossTick
  extract_lets s1 s2 y
  have hs1 : Canon s1 := .foldl (fun _ _ hr => .after_portTurn hr) <| .after_drainAllNotices <| .after_syncQueues <|
    .foldl (fun _ _ hr => .after_queueUpset hr) h
  clear_value s1
  have hs2 : Canon s2 := .after_nextLine <| .after_releaseFlow hs1
  clear_value s2
  exact .ite (hs2.frame rfl) hs2

theorem CanonAnswer.of_execSyncStoreTick {r s} (h : Canon s) : CanonAnswer (execSyncStoreTick r s) :=
  .ite (.next <| .after_crossTick <| .after_closeWindows <| .after_applyStep1 <|
    .after_passTicks <| .after_endOfTick <| .foldl (fun _ _ h1 => .after_coreCall h1) h) <|
    .next <| .after_crossTick <| .after_closeWindows <| .after_expireWaiters <|
    .after_passTicks <| .after_endOfTick <| .after_applyStep1 <| .after_passTicks <| .after_endOfTick <|
    .foldl (fun _ _ h2 => .after_coreCall h2) h

/-! ### Every command -/

/-- Whatever a command does keeps the form of the tables: the arms of `exec` in their order. -/
theorem CanonAnswer.of_exec {s : State} (h : Canon s) (c : Instr) : CanonAnswer (exec c s) := by
  unfold exec
  split
  exacts [.of_execBoundaryTick h, .of_execCommitTick h, .of_execSliceEntryEnd h, .of_execTurnoverEnd h,
    .of_execSnop h, .of_execAdd h, .of_execSub h, .of_execAnd h, .of_execOr h, .of_execXor h, .of_execShl h,
    .of_execShr h, .of_execSar h, .of_execMul h, .of_execSlt h, .of_execSltu h, .of_execAddi h, .of_execAndi h,
    .of_execOri h, .of_execXori h, .of_execShli h, .of_execShri h, .of_execSari h, .of_execMovk h, .of_execLd h,
    .of_execSt h, .of_execLdy h, .of_execLds h, .of_execBeq h, .of_execBne h, .of_execBlt h, .of_execBge h,
    .of_execBranchY h, .of_execJ h, .of_execJal h, .of_execJr h, .of_execEndb h, .of_execBrk h, .of_execLoadReturn h,
    .of_execStoreWritten h, .of_execPanEnded h, .of_execMnop h, .of_execMfmt h, .of_execMsca h, .of_execMldb h,
    .of_execMldbt h, .of_execMmv h, .of_execMmt h, .of_execMOpStart h, .of_execMOpComplete h, .of_execEnop h,
    .of_execErun h, .of_execErunt h, .of_execEcwld h, .of_execEyclr h, .of_execEOpStart h, .of_execEOpComplete h,
    .of_execCnop h, .of_execVld h, .of_execVst h, .of_execCpy h, .of_execFence h, .of_execFenceComplete h,
    .of_execSig h, .of_execWait h, .of_execWaitn h, .of_execGate h, .of_execPanPause h, .of_execPanStep h,
    .of_execCopyStart h, .of_execCopyComplete h, .of_execSysRequest h, .of_execSysRequestStart h,
    .of_execSysRequestComplete h, .of_execCpyRestart h, .of_execCpyEnable h, .of_execSyncStoreTick h,
    .of_execTallySignal h, .of_execWaitTimeout h, .of_execTlyHandSet h, .of_execTlyHandSignal h,
    .of_execGateHandRelease h, .of_execGateHandReset h, .of_execSnap h, .of_execSnapshotComplete h,
    .of_execHostRespqRead h, .of_execHostEvqRead h, .of_execFlushResp h, .of_execFlushEv h,
    .of_execQueueFlushEffect h, .of_execBar0Write h, .of_execIngestWrite h, .of_execBar2Read h,
    .of_execIngestDoorbell h, .of_execIngestDoorbellSignal h, .of_execMbxDoorbell h, .of_execMbxAccept h,
    .of_execMbxBackgroundComplete h, .of_execPing h, .of_execStage h, .of_execLoadImage h, .of_execUnload h,
    .of_execStart h, .of_execSetWeight h, .of_execBindLane h, .of_execUnbindLane h, .of_execBindRing h,
    .of_execUnbindRing h, .of_execReplayRing h, .of_execMapHost h, .of_execSignal h, .of_execGateArrive h,
    .of_execGatePorts h, .of_execSyncDump h, .of_execCrashMode h, .of_execReset h, .of_execHrvHeadWrite h,
    .of_execHarvestTake h, .of_execHarvestRecordWrite h, .of_execFlushReadComplete h, .of_execHostAttach h,
    .of_execHostLoss h, .of_execLinkRetrain h, .of_execSnoop h, .of_execConfigRequest h, .of_execGetVersion h,
    .of_execGetCapabilities h, .of_execNegotiateAlgorithms h, .of_execGetDigests h, .of_execGetCertificate h,
    .of_execChallenge h, .of_execGetMeasurements h, .of_execPondEnter h, .of_execPondExit h, .of_execPmodeInj h,
    .of_execNop h, .of_execLdw h, .of_execLdwPayload h, .of_execDot h, .of_execSoftp h, .of_execWsum h, .of_execMvw h,
    .of_execEwu h, .of_execFill h, .of_execCopyr h, .of_execCsend h, .of_execCrecv h, .of_execCcomb h,
    .of_execCheck h, .of_execPondCommandStart h, .of_execPondCommandEnd h, .of_execResultRowRead h,
    .of_execSpmapWrite h, .of_execPondStreamIssue h, .of_execAttnRecordRead h, .of_execPondStreamComplete h,
    .of_execDramRequest h, .of_execDramRequestServe h, .of_execRequestPromotion h, .of_execRowIdleClose h,
    .of_execRefreshTick h, .of_execRefreshIssue h, .of_execRefreshComplete h, .of_execTrainingPeriodic h,
    .of_execTrainingPassEnd h, .of_execClockChangeStart h, .of_execClockChangeComplete h, .of_execParityAlert h,
    .of_execSelfRefreshExitDone h, .of_execRakeTargetedRewrite h, .of_execRakeSweep h, .of_execEvClr h,
    .of_execErClr h, .of_execSpareFill h, .of_execFrameReceive h, .of_execRdmaWrite h, .of_execRdmaRead h,
    .of_execRdmaWriteImm h, .of_execRdmaImmSignal h, .of_execRdmaOtherOpcode h, .of_execNetLinkDown h,
    .of_execNetPortCfg h, .of_execNetKeyBind h, .of_execNetKeyRevoke h, .of_execNetQpSet h, .of_execNetQpDestroy h,
    .of_execMirPair h, .of_execMirAccept h, .of_execMirUnpair h, .of_execMirrorWriteReceive h,
    .of_execMirrorRecordReceive h, .of_execMirrorAck h, .of_execHeartbeatToggle h, .of_execHbInEdge h,
    .of_execHeartbeatLost h, .of_execStreamSilent h, .of_execTakeoverTenantStart h, .of_execTkoInAssert h,
    .of_execPlacementMoveComplete h, .of_execSensorSweep h, .of_execGovernorWindow h, .of_execGovSetCap h,
    .of_execPlcBudget h, .of_execPlcTrim h, .of_execCalSet h, .of_execPlcRetire h, .of_execPlcQuery h,
    .of_execCalHoldLoss h, .of_execPor, .of_execBrownout h, .of_execPrsntNHigh h, .of_execInput48vGood h,
    .of_execRstNAssert h, .of_execRstNRelease h, .of_execWdogExpiry h, .of_execWdogKick h, .of_execPerstAssert h,
    .of_execPerstDeassert h, .of_execRstCtrlCore h, .of_execRstCtrlSystem h, .of_execResetSourceTimeout h,
    .of_execResetRelease h, .of_execClkTimeout h, .of_execOptionLoadDone h, .of_execRailsGood h, .of_execPllLocked h,
    .of_execSelftestDone h, .of_execSramFillDone h, .of_execDramTrained h, .of_execDramFillDone h,
    .of_execFwCopyDone h, .of_execRilefReady h, .of_execIdnt h, .of_execSens h, .of_execTest h,
    .of_execTestComplete h, .of_execLogr h, .of_execLogc h, .of_execRcau h, .of_execRsetC h, .of_execRsetS h,
    .of_execRsetP h, .of_execDump h, .of_execHsetTlySet h, .of_execHsetTlySig h, .of_execHsetGateRel h,
    .of_execHsetGateRst h, .of_execCalr h, .of_execCals h, .of_execOptr h, .of_execRreg h, .of_execBaud h,
    .of_execAuth h, .of_execAuts h, .of_execAuthTimeout h, .of_execOptw h, .of_execRetr h, .of_execRetc h,
    .of_execDbunOpen h, .of_execDbunLock h, .of_execDbgChalRead h, .of_execDbgUnlock h, .of_execDbgLock h,
    .of_execBypass h, .of_execIdcode h, .of_execSamplePreload h, .of_execExtest h, .of_execDbgResetRequest h,
    .of_execSelfRefreshEntered h, .of_execLinkUp h, .of_execPortLinkUp h, .of_execModulePresenceChange h,
    .of_execHostSourceAssert h, .of_execFinalLineSent h, .of_execBadLine h, .of_execUnknownVerb h]

/-! ### A step -/

theorem CanonAnswer.of_step {s : State} (h : Canon s) : CanonAnswer (step s) := by
  unfold step
  split
  · exact .next h
  · exact .of_exec (h.frame (by rfl)) _

/-- Settles O4: a step takes the front command, and every command keeps the form of the fourteen tables. -/
theorem unitTablesKeptByStep : Obligations.UnitTablesKeptByStep := by
  unfold Obligations.UnitTablesKeptByStep
  exact fun s t h hstep => (CanonAnswer.of_step h).of_next hstep

end Sys2Proof.Machine
